-- ==== Sys2Proof/Word.lean ====
section
/-! DEFINITION. The word types of the model and their plainest arithmetic (spec/02_words.md R23, R25; spec/00_scope.md R2). -/

namespace Sys2Proof

/-- One byte of memory. -/
abbrev Byte := BitVec 8

/-- A register of 32 bits, an instruction word, or one lane of a slot (R23). -/
abbrev Word := BitVec 32

/-- A 64-bit value: an address or a register pair (R25). -/
abbrev DWord := BitVec 64

/-- The 1,024 bits of one 128-byte line, byte k in bits [8k+7:8k] (spec/11_line.md). -/
abbrev LineData := BitVec 1024

/-- One bit for each byte of a line: a dirty, valid or store mask (R190). -/
abbrev LineMask := BitVec 128

/-- A 256-bit key (spec/04_context.md R75, R81; spec/17_link.md R345). -/
abbrev Key := BitVec 256

/-- A lane mask: bit i is lane i (R23). -/
abbrev LaneMask := BitVec 32

/-- A map that lists only the keys whose value differs from what an unlisted key reads as, keys strictly rising. -/
abbrev Sparse (α : Type) := List (Nat × α)

end Sys2Proof
end

