-- ==== Sys2Proof/Syntax.lean ====
section
/-! DEFINITION. The syntax: one constructor of Instr for each row of spec/opcode_table.json. Rows with a word carry the fields the
table leaves free, read into constructors where the field is an enumeration; rows without a word (steps of the other agents) carry
the place of the object they act on, or the outside input they bring. -/

namespace Sys2Proof

/-- The B operand of a lane instruction under BSEL (R35, R161). -/
inductive Opnd where
  | v (slot : BitVec 7)
  | s (reg : BitVec 6)
  | imm (x : BitVec 7)
  | lit (w : Word)
  deriving DecidableEq, Repr, Inhabited

/-- The 64-bit B operand of IADD64: pairs are named by half their even register number (R25, R165). -/
inductive Opnd64 where
  | v (pair : BitVec 6)
  | s (pair : BitVec 5)
  | imm (x : BitVec 7)
  | lit (w : Word)
  deriving DecidableEq, Repr, Inhabited

/-- The B operand of a uniform instruction, and of the movement instructions that refuse a V slot (R35, R181, R182). -/
inductive UOpnd where
  | s (reg : BitVec 6)
  | imm (x : BitVec 7)
  | lit (w : Word)
  deriving DecidableEq, Repr, Inhabited

/-- The index operand of BCAST and RDLANE: a uniform index, or the lowest active lane under the op-specific bit. There BSEL is
left open by R182, and BSEL 0b11 still brings a literal (R40), whose value is not used (DEDUCED, log 13). -/
inductive LaneSel where
  | idx (b : UOpnd)
  | lo (bsel : BitVec 2) (lit : Word)
  deriving DecidableEq, Repr, Inhabited

/-- Access sizes of R219. -/
inductive Size where
  | b32 | b64 | b128
  deriving DecidableEq, Repr, Inhabited

/-- The SZ forms of LDB (R220). -/
inductive ByteForm where
  | u8 | s8 | u16 | s16
  deriving DecidableEq, Repr, Inhabited

/-- Scopes of R193. -/
inductive Scope where
  | group | core | cluster | chip | pod
  deriving DecidableEq, Repr, Inhabited

/-- Orderings of R201. -/
inductive AOrd where
  | relaxed | release | acquire | acqrel
  deriving DecidableEq, Repr, Inhabited

/-- Atomic operations of R223. -/
inductive Aop where
  | add | smin | smax | umin | umax | and | or | xor | swap | incw | decw | fadd | fmin | fmax | cas
  deriving DecidableEq, Repr, Inhabited

/-- Comparisons of WATCH (R227). -/
inductive WCmp where
  | eq | ne | ge | gt | le | lt | bitset
  deriving DecidableEq, Repr, Inhabited

/-- ICMP conditions (R167). -/
inductive Icc where
  | eq | ne | lt | le | gt | ge | ltu | leu | gtu | geu | any | none
  deriving DecidableEq, Repr, Inhabited

/-- FCMP conditions (R172). -/
inductive Fcc where
  | eq | ne | lt | le | gt | ge | ord | unord
  deriving DecidableEq, Repr, Inhabited

/-- Operations of REDI and SCANI (R184). -/
inductive RedOp where
  | add | smin | smax | and | or | xor | umin | umax
  deriving DecidableEq, Repr, Inhabited

/-- Operations of REDF (R185). -/
inductive RedF where
  | add | min | max
  deriving DecidableEq, Repr, Inhabited

/-- VOTE forms (R183). -/
inductive VoteK where
  | any | all | uni
  deriving DecidableEq, Repr, Inhabited

/-- The IEEE formats CVTF converts between (R175). -/
inductive FFmt where
  | f32 | bf16 | f16
  deriving DecidableEq, Repr, Inhabited

/-- The conversions of CVTI (R176). -/
inductive CvtiK where
  | tosi | toui | fromsi | fromui
  deriving DecidableEq, Repr, Inhabited

/-- Format codes of R55. -/
inductive Fmt where
  | e4m3 | e5m2 | e3m2 | e2m3 | e2m1 | i8 | i4 | bf16 | f16 | f32
  deriving DecidableEq, Repr, Inhabited

/-- DIR of the copies (R257). -/
inductive CopyDir where
  | g2s | s2g | g2g
  deriving DecidableEq, Repr, Inhabited

/-- Sheaf mode of a copy (R257, R266). -/
inductive ShMode where
  | none | write | pin
  deriving DecidableEq, Repr, Inhabited

/-- The fields common to the five copies (R257): FS, DIR, D, A, B and the literal. -/
structure CopyArgs where
  fs : Bool
  dir : CopyDir
  d : BitVec 6
  a : BitVec 6
  b : BitVec 6
  /-- CB: completes to a barrier. -/
  cb : Bool
  ctn : BitVec 6
  mc : Bool
  ms : BitVec 6
  shm : ShMode
  sw : BitVec 6
  deriving DecidableEq, Repr, Inhabited

/-- MODE of FLUSHL (R200). -/
inductive FlushMode where
  | pub | drop | both
  deriving DecidableEq, Repr, Inhabited

/-- Which of QBASE and QSIZE a write names (R88). -/
inductive QReg where
  | qbase | qsize
  deriving DecidableEq, Repr, Inhabited

/-- A unit that an idle level stops (R359). -/
inductive IdleUnit where
  | core (c : Nat)
  | sector (s : Nat)
  | hbm
  | ports
  deriving DecidableEq, Repr, Inhabited

/-- What a debugger sets through the MC (R160). -/
inductive DebugSet where
  | breakpoint (cxid : Nat) (addr : DWord) (on : Bool)
  | step (core gctx : Nat) (on : Bool)
  deriving DecidableEq, Repr, Inhabited

/-- The responses that carry a signature (R354). -/
inductive SpdmSigned where
  | challengeAuth | measurements | keyExchange
  deriving DecidableEq, Repr, Inhabited

/-- SPDM requests of R352 to R354, as far as they act on the device's state; secret is the export master secret. -/
inductive SpdmMsg where
  | keyExchange (session secret : Nat)
  | finish (session : Nat) (authenticated : Bool)
  | fetchMldsa (session : Nat) (of : SpdmSigned)
  | challenge (session : Nat)
  | measurements (session : Nat)
  | getCertificate (session slot : Nat)
  | ideKm (session stream : Nat) (key : Key)
  | ideKmLink (session : Nat) (key : Key)
  | tdiReport (session cxid : Nat)
  | endSession (session : Nat)
  deriving DecidableEq, Repr, Inhabited

/-- What a hop of the Windrow ring gets wrong of a bale: bit numbers of its 17 beats as a mask, the header's byte 0 lowest, behind the hop
before the tap of a flat cluster (R286). -/
structure HopNoise where
  hop : Nat
  flips : Nat
  deriving DecidableEq, Repr, Inhabited

/-- One image of a start step, and its alternate: its hash, and whether its Ed25519 and its ML-DSA-65 signature verify (R362). -/
structure ImageIn where
  hash : BitVec 384
  ed25519 : Bool
  mldsa : Bool
  altHash : BitVec 384
  altEd25519 : Bool
  altMldsa : Bool
  deriving DecidableEq, Repr, Inhabited

/-- The configuration record as the start reads it (R22, R363). -/
structure ConfigRecord where
  serial : Nat
  version : BitVec 32
  clmask : BitVec 24
  slmask : BitVec 144
  stmask : BitVec 12
  pchan : List Nat
  ptmask : BitVec 8
  deriving DecidableEq, Repr, Inhabited

/-- What the start steps of R362 meet. -/
structure StartIn where
  stage1 : ImageIn
  firmware : ImageIn
  recordImg : ImageIn
  record : ConfigRecord
  altRecord : ConfigRecord
  hbm10 : Bool
  hbm8 : Bool
  portsUp : BitVec 8
  portsOk : Bool
  ptpOk : Bool
  deriving DecidableEq, Repr, Inhabited

/-- One constructor for each row of spec/opcode_table.json. S registers have 6-bit numbers (bit 6 = 0, R35), pairs are named by
half their even number (R25), barriers by 4 bits, tags by 6 (R23). -/
inductive Instr where
  -- 02_words
  | clauseHeader (wait : BitVec 12) (sav : Bool) (sa : BitVec 4) (sbv : Bool) (sb : BitVec 4) (n : BitVec 3) (re yh : Bool)
  | ill (z : BitVec 24)
  | nop
  -- lane integer and logic (R164)
  | iadd (sat : Bool) (d a : BitVec 7) (b : Opnd)
  | isub (sat : Bool) (d a : BitVec 7) (b : Opnd)
  | imul (d a : BitVec 7) (b : Opnd)
  | imulh (u : Bool) (d a : BitVec 7) (b : Opnd)
  | imad (d a : BitVec 7) (b : Opnd)
  | iadd64 (sat : Bool) (d a : BitVec 6) (b : Opnd64)
  | imin (u : Bool) (d a : BitVec 7) (b : Opnd)
  | imax (u : Bool) (d a : BitVec 7) (b : Opnd)
  | iamin (u : Bool) (d a : BitVec 7) (b : Opnd)
  | iamax (u : Bool) (d a : BitVec 7) (b : Opnd)
  | and (d a : BitVec 7) (b : Opnd)
  | or (d a : BitVec 7) (b : Opnd)
  | xor (d a : BitVec 7) (b : Opnd)
  | andn (d a : BitVec 7) (b : Opnd)
  | shl (d a : BitVec 7) (b : Opnd)
  | shr (d a : BitVec 7) (b : Opnd)
  | sar (d a : BitVec 7) (b : Opnd)
  | rol (d a : BitVec 7) (b : Opnd)
  | bfx (sx : Bool) (d a : BitVec 7) (b : Opnd)
  | bfi (d a : BitVec 7) (b : Opnd)
  | popc (d : BitVec 7) (b : Opnd)
  | clz (d : BitVec 7) (b : Opnd)
  | brev (d : BitVec 7) (b : Opnd)
  | sel (m : BitVec 3) (d a b : BitVec 7)
  | icmp (comb : Bool) (cc : Icc) (m : BitVec 3) (a : BitVec 7) (b : Opnd)
  | mov (d : BitVec 7) (b : Opnd)
  | lea (zx : Bool) (d a : BitVec 6) (b : Opnd)
  | idp4 (d a : BitVec 7) (b : Opnd)
  | idp8 (d a : BitVec 7) (b : Opnd)
  -- lane float (R170 to R179)
  | fadd (d a : BitVec 7) (b : Opnd)
  | fsub (d a : BitVec 7) (b : Opnd)
  | fmul (d a : BitVec 7) (b : Opnd)
  | ffma (d a : BitVec 7) (b : Opnd)
  | fmin (d a : BitVec 7) (b : Opnd)
  | fmax (d a : BitVec 7) (b : Opnd)
  | fcmp (comb : Bool) (cc : Fcc) (m : BitVec 3) (a : BitVec 7) (b : Opnd)
  | frcp (d : BitVec 7) (b : Opnd)
  | frsq (d : BitVec 7) (b : Opnd)
  | fsqrt (d : BitVec 7) (b : Opnd)
  | fexp2 (d : BitVec 7) (b : Opnd)
  | flog2 (d : BitVec 7) (b : Opnd)
  | ftanh (d : BitVec 7) (b : Opnd)
  | scalex (e8 : Bool) (d a : BitVec 7) (b : Opnd)
  | hadd2 (h : Bool) (d a : BitVec 7) (b : Opnd)
  | hmul2 (h : Bool) (d a : BitVec 7) (b : Opnd)
  | hfma2 (h : Bool) (d a : BitVec 7) (b : Opnd)
  | cvtf (src dst : FFmt) (sh dh : Bool) (d a : BitVec 7)
  | cvti (k : CvtiK) (t : Bool) (d a : BitVec 7)
  | pack8 (f : Fmt) (d a : BitVec 7)
  | pack6 (f : Fmt) (d a : BitVec 7)
  | pack4 (f : Fmt) (d a : BitVec 7)
  | unpk8 (f : Fmt) (d a : BitVec 7)
  | unpk6 (f : Fmt) (d a : BitVec 7)
  | unpk4 (f : Fmt) (d a : BitVec 7)
  | fdp4 (e5 : Bool) (d a : BitVec 7) (b : Opnd)
  | fdp8 (d a : BitVec 7) (b : Opnd)
  | fdp2h (h : Bool) (d a : BitVec 7) (b : Opnd)
  -- lane movement (R180 to R188)
  | shfl (x : Bool) (d a : BitVec 7) (b : Opnd)
  | lshu (z : Bool) (d a : BitVec 7) (b : UOpnd)
  | lshd (z : Bool) (d a : BitVec 7) (b : UOpnd)
  | lrot (d a : BitVec 7) (b : UOpnd)
  | bcast (d a : BitVec 7) (k : LaneSel)
  | ballotM (d : BitVec 3) (a : BitVec 7)
  | ballotS (d : BitVec 6) (a : BitVec 7)
  | vote (k : VoteK) (d : BitVec 6) (a : BitVec 7)
  | rdlane (d : BitVec 6) (a : BitVec 7) (k : LaneSel)
  | wrlane (d : BitVec 7) (a : BitVec 6) (b : UOpnd)
  | redi (op : RedOp) (d : BitVec 6) (a : BitVec 7)
  | redf (op : RedF) (d : BitVec 6) (a : BitVec 7)
  | scani (op : RedOp) (d a : BitVec 7)
  | xchg (fs : Bool) (d a : BitVec 7) (b : BitVec 6) (pgrp : BitVec 5) (tag : BitVec 16)
  | xchgPair (x y : Nat)
  | xchgTimeout (x : Nat)
  -- uniform (R131, R132)
  | sadd (sat : Bool) (d a : BitVec 6) (b : UOpnd)
  | ssub (sat : Bool) (d a : BitVec 6) (b : UOpnd)
  | smul (hi : Bool) (d a : BitVec 6) (b : UOpnd)
  | sand (d a : BitVec 6) (b : UOpnd)
  | sor (d a : BitVec 6) (b : UOpnd)
  | sxor (d a : BitVec 6) (b : UOpnd)
  | sshl (d a : BitVec 6) (b : UOpnd)
  | sshr (ar : Bool) (d a : BitVec 6) (b : UOpnd)
  | smin (u : Bool) (d a : BitVec 6) (b : UOpnd)
  | smax (u : Bool) (d a : BitVec 6) (b : UOpnd)
  | scmp (u : Bool) (d a : BitVec 6) (b : UOpnd)
  | smov (d : BitVec 6) (b : UOpnd)
  | slea (x4 : Bool) (d a : BitVec 5) (b : UOpnd)
  | mopAnd (d a b : BitVec 3)
  | mopOr (d a b : BitVec 3)
  | mopXor (d a b : BitVec 3)
  | mopNot (d a : BitVec 3)
  | mopM2s (d : BitVec 6) (a : BitVec 3)
  | mopS2m (d : BitVec 3) (a : BitVec 6)
  | mopCnt (d : BitVec 6) (a : BitVec 3)
  | mopExec (d : BitVec 3)
  -- control transfer and masks (R126 to R130)
  | bra (off : BitVec 18)
  | brz (c : BitVec 6) (off : BitVec 18)
  | brnz (c : BitVec 6) (off : BitVec 18)
  | brm (c : BitVec 3) (off : BitVec 18)
  | loop (c : BitVec 6) (off : BitVec 18)
  | jtab (x : BitVec 6) (t : BitVec 5) (bound lbl : BitVec 16)
  | pad (lbl : BitVec 16)
  | call (l : BitVec 5) (off : BitVec 18)
  | calli (l a : BitVec 5) (lbl : BitVec 16)
  | ret (a : BitVec 5)
  | join
  | execm (m : BitVec 3)
  | execr
  -- the line (R217 to R227), phases (R197 to R200)
  | ld (fs : Bool) (sz : Size) (d : BitVec 7) (a : BitVec 6) (off : BitVec 7)
  | lds (fs : Bool) (sz : Size) (d a off : BitVec 7)
  | ldsr (fs : Bool) (sz : Size) (d a off : BitVec 7)
  | sld (fs : Bool) (sz : Size) (d : BitVec 6) (a : BitVec 5) (off : BitVec 7)
  | st (sz : Size) (d : BitVec 7) (a : BitVec 6) (off : BitVec 7)
  | sts (sz : Size) (d a off : BitVec 7)
  | stsr (sz : Size) (d a off : BitVec 7)
  | sst (sz : Size) (d : BitVec 6) (a : BitVec 5) (off : BitVec 7)
  | ldb (fs : Bool) (f : ByteForm) (d : BitVec 7) (a : BitVec 6) (off : BitVec 6)
  | ldbScratch (fs : Bool) (f : ByteForm) (d a : BitVec 7) (off : BitVec 6)
  | stb (half : Bool) (d : BitVec 7) (a : BitVec 6) (off : BitVec 6)
  | stbScratch (half : Bool) (d a : BitVec 7) (off : BitVec 6)
  | atom (fs w64 : Bool) (op : Aop) (noret : Bool) (sc : Scope) (ord : AOrd) (d : BitVec 7) (a : BitVec 6) (v : BitVec 7)
  | atomc (fs w64 : Bool) (noret : Bool) (sc : Scope) (ord : AOrd) (d : BitVec 7) (a : BitVec 6) (v : BitVec 7)
  | atoms (fs w64 : Bool) (op : Aop) (noret : Bool) (d a v : BitVec 7)
  | pfl2 (fs loc : Bool) (d a : BitVec 5) (t : BitVec 6) (lines : BitVec 24)
  | recv (fs : Bool) (cap : BitVec 2) (d a : BitVec 6) (nw : Bool)
  | sow (sz : Size) (d : BitVec 7) (a : BitVec 6) (m : BitVec 6)
  | phase (sc : Scope)
  | rel (sc : Scope)
  | acq (sc : Scope)
  | watch (fs : Bool) (cmp : WCmp) (u w64 : Bool) (sc : Scope) (d : BitVec 6) (a : BitVec 5) (b : BitVec 6)
  | flushl (n : BitVec 7) (mode : FlushMode) (a : BitVec 5)
  -- the sheaf (R245 to R252)
  | shopen (d a : BitVec 6)
  | shst (sz : Size) (d : BitVec 7) (a : BitVec 6) (b : BitVec 6)
  | shseal (fs : Bool) (d a : BitVec 6)
  | shpin (fs : Bool) (d a : BitVec 6)
  | shld (fs : Bool) (sz : Size) (d : BitVec 7) (a : BitVec 6) (b : BitVec 6)
  | shunpin (d a : BitVec 6)
  | shdrop (d a : BitVec 6)
  | shq (d a : BitVec 6)
  -- copies, tags, barriers (R257 to R273)
  | copyl (c : CopyArgs)
  | copyt (c : CopyArgs)
  | copyg (c : CopyArgs)
  | copys (c : CopyArgs)
  | copyx (c : CopyArgs)
  | twany (a : BitVec 5)
  | twall (a : BitVec 5)
  | tffr (fs : Bool) (d a : BitVec 5)
  | tclr (a : BitVec 5)
  | binit (n : BitVec 4) (a b : BitVec 6)
  | barr (n : BitVec 4)
  | bwait (d : BitVec 6) (n : BitVec 4) (p : BitVec 6)
  | bwaitBytes (d : BitVec 6) (n : BitVec 4) (k : BitVec 6)
  | barrw (d : BitVec 6) (n : BitVec 4)
  | bexp (n : BitVec 4) (a : BitVec 6)
  | binv (n : BitVec 4)
  -- the matrix tile (R303 to R310)
  | mres (d a : BitVec 6) (q : BitVec 3) (base rowsm1 : BitVec 8) (soff : BitVec 11) (sc : Bool) (f : Fmt)
  | mresFillDone (core k : Nat)
  | mrel (q : BitVec 3)
  | mma (fs acc : Bool) (c : BitVec 7) (q w : BitVec 3) (steps : BitVec 8)
  | mmaLit (fs acc : Bool) (c : BitVec 7) (q w : BitVec 3) (steps : BitVec 8) (wadv : Bool) (ainc : BitVec 8)
  | mmag (fs st : Bool) (g : BitVec 7) (q w : BitVec 3) (steps : BitVec 8) (xs : BitVec 7) (wadv : Bool) (ainc : BitVec 8)
  | mmaJobStart (core : Nat)
  | mmaJobEnd (core : Nat)
  | wload (n : BitVec 3) (a b : BitVec 6)
  | wloadFillDone (core slot : Nat)
  | wfree (n : BitVec 3)
  | mstat (d : BitVec 6) (sel : BitVec 7)
  -- the Windrow (R288 to R291)
  | board (fs : Bool) (d a : BitVec 6) (nw : Bool) (w : BitVec 3) (c : BitVec 4)
  | unboard (d : BitVec 6) (n : BitVec 3)
  | lapq (d : BitVec 5) (c : BitVec 4)
  | lapqSt (d : BitVec 6) (c : BitVec 4)
  | lapwait (fs : Bool) (d : BitVec 6) (a : BitVec 5) (c : BitVec 4)
  -- group, kernel, traps, link
  | spawn (d : BitVec 6) (a : BitVec 7) (off : Word)
  | elect
  | elend
  | exit
  | trigger
  | winb (w : BitVec 3)
  | region (start1 count1 start2 count2 : BitVec 7) (smask : BitVec 4) (recipe : BitVec 21)
  | yield
  | trap (code : BitVec 16)
  | trapHost (code : BitVec 16)
  | tretRegion
  | tretRetry
  | tretNext
  | tclrc (m : BitVec 22)
  | sread (v : Bool) (d : BitVec 7) (n : BitVec 10)
  | swrite (d : BitVec 6) (n : BitVec 10)
  | enq (d : BitVec 6) (a b : BitVec 5)
  | send (m : BitVec 3) (d a b : BitVec 6)
  | role (d : BitVec 6) (a : BitVec 5) (b : BitVec 6)
  -- steps of the other agents: traps and debug
  | hostack (core gctx : Nat) (val : Word)
  | splitWatchdog (core gctx split : Nat)
  | impreciseStoreFault (core gctx k : Nat)
  | haltRequest (cxid : Nat)
  -- the line
  | loadDataReturn (op : Nat)
  | atomicReply (op : Nat)
  | publish (core k : Nat)
  | homeRead (op k : Nat)
  | homeMerge (core k : Nat)
  | atomicAtHome (op lane : Nat)
  | cfill (k : Nat)
  | cInval (k : Nat)
  | l1Fill (k : Nat)
  | push (k : Nat)
  | pushInval (k : Nat)
  | watchPost (op : Nat)
  | watchRepost (op : Nat)
  -- the sheaf
  | shOpen (k : Nat)
  | sheafSeal (k : Nat)
  | drop (k : Nat)
  | pin (k : Nat)
  | unpin (k : Nat)
  | openWrite (core k : Nat)
  | sealMessage (k m : Nat)
  | dropMessage (k m : Nat)
  | acked (k : Nat)
  | dropped (k : Nat)
  | pinnedRead (op lane : Nat)
  -- copies
  | copyChunk (k : Nat)
  | copyComplete (k : Nat)
  | heldArrival (wg bar : Nat)
  | pfl2Complete (op : Nat)
  -- the Windrow
  | lapStart (k : Nat)
  | baleInject (k : Nat) (noise : HopNoise)
  | arm (k late : Nat)
  | arrive (k bale cluster : Nat)
  | heldHeaderForward (k bale cluster : Nat)
  | verdict (core slot : Nat) (tapFails : Bool)
  -- configuration and contexts
  | registerWrite (off : Nat) (val : DWord)
  | bind (cxid : Nat)
  | lock (cxid : Nat)
  | unlock (cxid : Nat)
  | start (cxid : Nat)
  | sealCx (cxid : Nat)
  | restore (cxid : Nat)
  | reset (cxid : Nat)
  | flr (cxid : Nat)
  | retire (cxid : Nat)
  | release (cxid : Nat)
  | stop (cxid : Nat)
  | lockInterfaceRequest (cxid session stream : Nat)
  | startInterfaceRequest (cxid session : Nat)
  | stopInterfaceRequest (cxid session : Nat)
  | tdierror (cxid : Nat)
  | saved (cxid : Nat)
  | restored (cxid : Nat)
  | granaryReplay (cxid : Nat)
  | contextWatchdogExpiry (cxid : Nat)
  -- queues; an interface number of 4,096 names the hypervisor queue
  | doorbell (iface : Nat) (wridx : Word) (stream : Option Nat)
  | qbaseQsizeWrite (iface : Nat) (r : QReg) (val : DWord)
  | pause (iface : Nat)
  | resume (iface : Nat)
  | clearerr (iface : Nat)
  | launch (iface : Nat)
  | waitver (iface : Nat)
  | signal (iface : Nat) (refused : Bool)
  | fence (iface : Nat)
  | queueNop (iface : Nat)
  | circuitInstall (iface : Nat)
  | circuitRemove (iface : Nat)
  | circuitRepace (iface : Nat)
  | setlt (iface : Nat)
  | setlayout (iface : Nat)
  | setkey (iface : Nat)
  | setgen (iface : Nat)
  | dsqLaunch (cxid : Nat)
  -- kernels
  | gtimeDue (cxid kernel : Nat)
  | place
  | exited (wg : Nat)
  | placementWait1ms (cxid kernel : Nat)
  | rcbPeriodBoundary (cxid : Nat)
  | budgetExhausted (cxid rcb : Nat)
  | classAging (core gctx split : Nat)
  | thermalMigration (wg : Nat)
  | rateLimiterGo (cxid cls : Nat)
  -- recovery
  | groupkill (cxid core gctx : Nat)
  | kabort (cxid kernel : Nat)
  | cxreset (cxid : Nat)
  | vflr (cxid : Nat)
  | warmreset (inp : StartIn)
  | status (cxid : Nat)
  -- the page
  | map (op lane : Nat)
  | unmap (op lane : Nat)
  | inval (op lane : Nat)
  | poolst (op lane : Nat)
  | addlocal (cxid : Nat)
  | addfar (cxid : Nat)
  | remove (cxid : Nat)
  | reclaim (cxid : Nat)
  | sdcreate (cxid : Nat)
  | sdbind (cxid : Nat)
  | moved (cxid page : Nat)
  | samplerTick (cxid : Nat)
  -- the link
  | vpod (cxid : Nat)
  | vkey (cxid : Nat)
  | vswitch (cxid : Nat)
  | hint (cxid : Nat)
  | vclear (cxid : Nat)
  | packetIngress (k : Nat)
  | packetAck (k : Nat)
  | retransmit (k : Nat)
  | routeDown (k : Nat)
  | corunHint (cxid : Nat) (start : DWord) (len : Nat)
  | ptpEventMessage (corr : Int)
  | portTrained (port : Nat) (up : Bool)
  | spdmMessage (m : SpdmMsg)
  -- power, start, the rest
  | idleLevelEntry (u : IdleUnit)
  | idleLevelExit (u : IdleUnit)
  | idlePrewake (u : IdleUnit) (due : DWord)
  | powerCap (on : Bool)
  | deviceStart (inp : StartIn)
  | queueDrain (iface : Nat)
  | stsrAcknowledgement (k : Nat)
  | tokenAccrual (cxid cls : Nat)
  | breakpointSet (d : DebugSet)
  deriving DecidableEq, Repr, Inhabited

end Sys2Proof
end

