-- ==== Sys2Proof/WellFormed.lean ====
section
/-! DEFINITION. What an instruction must satisfy beyond its types to be an instruction of the machine: the field rules of check 5 of
R43 and of the entries that the rules name, and the header rules of R29. -/

namespace Sys2Proof

/-- The data register of an access of this size: any, even, or a multiple of 4 (R219). -/
def Size.fits (z : Size) (d : Nat) : Bool :=
  match z with
  | .b32 => true
  | .b64 => d % 2 == 0
  | .b128 => d % 4 == 0

/-- The operations that exist for 64 bits (R223). -/
def Aop.has64 : Aop → Bool
  | .incw | .decw | .fadd | .fmin | .fmax => false
  | .add | .smin | .smax | .umin | .umax | .and | .or | .xor | .swap | .cas => true

/-- The formats a weight slot or an operand record may hold (R55). -/
def Fmt.matrix : Fmt → Bool
  | .e4m3 | .e5m2 | .e3m2 | .e2m3 | .e2m1 | .i8 | .bf16 | .f16 => true
  | .i4 | .f32 => false

/-- The 16-bit formats, which take no scales (R303). -/
def Fmt.wide : Fmt → Bool
  | .bf16 | .f16 | .f32 => true
  | .e4m3 | .e5m2 | .e3m2 | .e2m3 | .e2m1 | .i8 | .i4 => false

def Fmt.pack8 : Fmt → Bool
  | .e4m3 | .e5m2 | .i8 => true
  | .e3m2 | .e2m3 | .e2m1 | .i4 | .bf16 | .f16 | .f32 => false

def Fmt.pack6 : Fmt → Bool
  | .e3m2 | .e2m3 => true
  | .e4m3 | .e5m2 | .e2m1 | .i8 | .i4 | .bf16 | .f16 | .f32 => false

def Fmt.pack4 : Fmt → Bool
  | .e2m1 | .i4 => true
  | .e4m3 | .e5m2 | .e3m2 | .e2m3 | .i8 | .bf16 | .f16 | .f32 => false

/-- The copies, to tell which rows of R258 apply. -/
inductive CopyOp where
  | l | t | g | s | x
  deriving DecidableEq, Repr, Inhabited

/-- The field rules of R257, R258 and R266. -/
def CopyArgs.wf (o : CopyOp) (c : CopyArgs) : Bool :=
  let globalD := c.dir != .g2s
  let globalA := c.dir != .s2g
  (!globalD || c.d.toNat % 2 == 0) && (!globalA || c.a.toNat % 2 == 0)
  && (!c.cb || c.ctn.toNat < 16) && (c.mc || c.ms == 0) && (c.shm != .none || c.sw == 0)
  && (c.shm != .write || globalD) && (c.shm != .pin || globalA)
  && match o with
     | .l | .t => true
     | .g => c.b.toNat % 4 == 0 && c.dir != .s2g
     | .s => c.b.toNat % 4 == 0 && c.dir != .g2s
     | .x => c.b.toNat % 4 == 0 && c.dir == .g2g && !c.mc && c.shm == .write

/-- The width in bits of a special register, none for a reserved number (R26). -/
def specialWidth (n : Nat) : Option Nat :=
  if n ≤ 0x007 then some 32
  else if n = 0x010 ∨ n = 0x012 ∨ n = 0x014 then some 64
  else if 0x020 ≤ n ∧ n ≤ 0x027 then some 32
  else if n = 0x030 ∨ n = 0x031 then some 32
  else none

/-- The special registers that SWRITE may name (R26, R27). -/
def specialWritable (n : Nat) : Bool :=
  n == 0x020 || n == 0x021 || n == 0x022 || n == 0x025 || n == 0x027

def LaneSel.wf : LaneSel → Bool
  | .idx _ => true
  | .lo bsel lit => bsel == 3 || lit == 0

/-- The instruction has an encoding that no check of fields refuses. Rows without a word have no fields to check. -/
def Instr.wf : Instr → Bool
  | .clauseHeader _ sav sa sbv sb _ _ _ =>
      (if sav then decide (sa.toNat < 12) else sa == 0) && (if sbv then decide (sb.toNat < 12) else sb == 0)
      && !(sav && sbv && sa == sb)
  | .bcast _ _ k => k.wf
  | .rdlane _ _ k => k.wf
  | .scalex e8 _ _ b => !(e8 && match b with | .imm _ => true | .v _ | .s _ | .lit _ => false)
  | .cvtf src dst sh dh _ _ => src != dst && (!sh || src != .f32) && (!dh || dst != .f32)
  | .cvti k t _ _ => !t || k == .tosi || k == .toui
  | .pack8 f _ a => f.pack8 && decide (a.toNat ≤ 124)
  | .pack6 f _ a => f.pack6 && decide (a.toNat ≤ 124)
  | .pack4 f _ a => f.pack4 && decide (a.toNat ≤ 120)
  | .unpk8 f d _ => f.pack8 && decide (d.toNat ≤ 124)
  | .unpk6 f d _ => f.pack6 && decide (d.toNat ≤ 124)
  | .unpk4 f d _ => f.pack4 && decide (d.toNat ≤ 120)
  | .jtab _ _ bound _ => bound != 0
  | .ld _ z d _ _ => z.fits d.toNat
  | .lds _ z d _ _ => z.fits d.toNat
  | .ldsr _ z d _ _ => z.fits d.toNat
  | .sld _ z d _ _ => z.fits d.toNat
  | .st z d _ _ => z.fits d.toNat
  | .sts z d _ _ => z.fits d.toNat
  | .stsr z d _ _ => z.fits d.toNat
  | .sst z d _ _ => z.fits d.toNat
  | .sow z d _ _ => z.fits d.toNat
  | .atom _ w64 op noret _ _ d _ v =>
      op != .cas && (!noret || d == 0) && (!w64 || (op.has64 && d.toNat % 2 == 0 && v.toNat % 2 == 0))
  | .atomc _ w64 noret _ _ d _ v => (!noret || d == 0) && (!w64 || (d.toNat % 2 == 0 && v.toNat % 2 == 0))
  | .atoms _ w64 op noret d _ v =>
      (!noret || d == 0) && (!w64 || (op.has64 && d.toNat % 2 == 0 && v.toNat % 2 == 0))
  | .recv _ cap d a _ =>
      let n := 4 * 2 ^ cap.toNat
      cap != 3 && d.toNat % n == 0 && decide (d.toNat + n ≤ 64) && !(decide (d.toNat ≤ a.toNat) && decide (a.toNat < d.toNat + n))
  | .watch _ cmp u w64 _ d _ b =>
      !(u && (cmp == .eq || cmp == .ne || cmp == .bitset)) && (!w64 || (d.toNat % 2 == 0 && b.toNat % 2 == 0))
  | .shst z d _ _ => z.fits d.toNat
  | .shld _ z d _ _ => z.fits d.toNat
  | .copyl c => c.wf .l
  | .copyt c => c.wf .t
  | .copyg c => c.wf .g
  | .copys c => c.wf .s
  | .copyx c => c.wf .x
  | .mres _ _ _ base rowsm1 soff sc f =>
      f.matrix && !(sc && f.wide) && (sc || soff == 0) && decide (base.toNat + rowsm1.toNat + 1 ≤ 256)
      && decide (32 * soff.toNat < 256 * (rowsm1.toNat + 1))
  | .mma _ _ c _ _ _ => decide (c.toNat ≤ 64)
  | .mmaLit _ _ c _ _ _ _ _ => decide (c.toNat ≤ 64)
  | .mmag _ _ g _ _ _ _ _ _ => decide (g.toNat ≤ 64)
  | .mstat _ selr => decide (selr.toNat ≤ 4)
  | .spawn _ a _ => decide (a.toNat ≤ 120)
  | .sread v d n =>
      match specialWidth n.toNat with
      | none => false
      | some w => if v then w == 32 else decide (d.toNat < 64) && n != 0 && (w == 32 || d.toNat % 2 == 0)
  | .swrite _ n => specialWritable n.toNat
  | .send m _ _ b => decide (m.toNat ≤ 4) && b.toNat % 2 ^ m.toNat == 0 && decide (b.toNat + 2 ^ m.toNat ≤ 64)
  | .ill .. | .nop | .iadd .. | .isub .. | .imul .. | .imulh .. | .imad .. | .iadd64 .. | .imin .. | .imax .. | .iamin ..
  | .iamax .. | .and .. | .or .. | .xor .. | .andn .. | .shl .. | .shr .. | .sar .. | .rol .. | .bfx .. | .bfi .. | .popc ..
  | .clz .. | .brev .. | .sel .. | .icmp .. | .mov .. | .lea .. | .idp4 .. | .idp8 .. | .fadd .. | .fsub .. | .fmul ..
  | .ffma .. | .fmin .. | .fmax .. | .fcmp .. | .frcp .. | .frsq .. | .fsqrt .. | .fexp2 .. | .flog2 .. | .ftanh ..
  | .hadd2 .. | .hmul2 .. | .hfma2 .. | .fdp4 .. | .fdp8 .. | .fdp2h .. | .shfl .. | .lshu .. | .lshd .. | .lrot ..
  | .ballotM .. | .ballotS .. | .vote .. | .wrlane .. | .redi .. | .redf .. | .scani .. | .xchg .. | .xchgPair ..
  | .xchgTimeout .. | .sadd .. | .ssub .. | .smul .. | .sand .. | .sor .. | .sxor .. | .sshl .. | .sshr .. | .smin ..
  | .smax .. | .scmp .. | .smov .. | .slea .. | .mopAnd .. | .mopOr .. | .mopXor .. | .mopNot .. | .mopM2s .. | .mopS2m ..
  | .mopCnt .. | .mopExec .. | .bra .. | .brz .. | .brnz .. | .brm .. | .loop .. | .pad .. | .call .. | .calli .. | .ret ..
  | .join | .execm .. | .execr | .ldb .. | .ldbScratch .. | .stb .. | .stbScratch .. | .pfl2 .. | .phase .. | .rel .. | .acq ..
  | .flushl .. | .shopen .. | .shseal .. | .shpin .. | .shunpin .. | .shdrop .. | .shq .. | .twany .. | .twall .. | .tffr ..
  | .tclr .. | .binit .. | .barr .. | .bwait .. | .bwaitBytes .. | .barrw .. | .bexp .. | .binv .. | .mresFillDone ..
  | .mrel .. | .mmaJobStart .. | .mmaJobEnd .. | .wload .. | .wloadFillDone .. | .wfree .. | .board .. | .unboard ..
  | .lapq .. | .lapqSt .. | .lapwait .. | .elect | .elend | .exit | .trigger | .winb .. | .region .. | .yield | .trap ..
  | .trapHost .. | .tretRegion | .tretRetry | .tretNext | .tclrc .. | .enq .. | .role .. | .hostack .. | .splitWatchdog ..
  | .impreciseStoreFault .. | .haltRequest .. | .loadDataReturn .. | .atomicReply .. | .publish .. | .homeRead ..
  | .homeMerge .. | .atomicAtHome .. | .cfill .. | .cInval .. | .l1Fill .. | .push .. | .pushInval .. | .watchPost ..
  | .watchRepost .. | .shOpen .. | .sheafSeal .. | .drop .. | .pin .. | .unpin .. | .openWrite .. | .sealMessage ..
  | .dropMessage .. | .acked .. | .dropped .. | .pinnedRead .. | .copyChunk .. | .copyComplete .. | .heldArrival ..
  | .pfl2Complete .. | .lapStart .. | .baleInject .. | .arm .. | .arrive .. | .heldHeaderForward .. | .verdict ..
  | .registerWrite .. | .bind .. | .lock .. | .unlock .. | .start .. | .sealCx .. | .restore .. | .reset .. | .flr ..
  | .retire .. | .release .. | .stop .. | .lockInterfaceRequest .. | .startInterfaceRequest .. | .stopInterfaceRequest ..
  | .tdierror .. | .saved .. | .restored .. | .granaryReplay .. | .contextWatchdogExpiry .. | .doorbell ..
  | .qbaseQsizeWrite .. | .pause .. | .resume .. | .clearerr .. | .launch .. | .waitver .. | .signal .. | .fence ..
  | .queueNop .. | .circuitInstall .. | .circuitRemove .. | .circuitRepace .. | .setlt .. | .setlayout .. | .setkey ..
  | .setgen .. | .dsqLaunch .. | .gtimeDue .. | .place | .exited .. | .placementWait1ms .. | .rcbPeriodBoundary ..
  | .budgetExhausted .. | .classAging .. | .thermalMigration .. | .rateLimiterGo .. | .groupkill .. | .kabort ..
  | .cxreset .. | .vflr .. | .warmreset .. | .status .. | .map .. | .unmap .. | .inval .. | .poolst .. | .addlocal ..
  | .addfar .. | .remove .. | .reclaim .. | .sdcreate .. | .sdbind .. | .moved .. | .samplerTick .. | .vpod .. | .vkey ..
  | .vswitch .. | .hint .. | .vclear .. | .packetIngress .. | .packetAck .. | .retransmit .. | .routeDown .. | .corunHint ..
  | .ptpEventMessage .. | .portTrained .. | .spdmMessage .. | .idleLevelEntry .. | .idleLevelExit .. | .idlePrewake ..
  | .powerCap .. | .deviceStart .. | .queueDrain .. | .stsrAcknowledgement .. | .tokenAccrual .. | .breakpointSet .. => true

end Sys2Proof
end

