-- ==== Sys2Proof/Decode.lean ====
section
/-! DEFINITION. From words to instructions and back: the formats of R34 to R40 and the opcode map of R41. decode refuses by name what
the field checks of R43 refuse; encode is written from the same layouts. -/

namespace Sys2Proof

/-- Why a word is no instruction. Every reason is the cause ILL of R43; the names say which field rule it is. -/
inductive DecodeErr where
  /-- An opcode that R41 reserves. -/
  | reservedOpcode
  /-- A field that must be 0 is not (R40). -/
  | unusedField
  /-- An MD, SZ, ACC, DIR, AOP, CMP or format code without a meaning. -/
  | reservedCode
  /-- A BSEL that the entry refuses (R35). -/
  | reservedBsel
  /-- Bit 6 of an S field is 1 (R23). -/
  | sField
  /-- An odd register where a pair is required (R25). -/
  | oddPair
  /-- A field value out of the range that the entry gives. -/
  | range
  deriving DecidableEq, Repr, Inhabited

abbrev Dec := Except DecodeErr Instr

/-! ## Fields -/

def fOp (w : Word) : BitVec 8 := w.extractLsb' 24 8
def fMd (w : Word) : BitVec 3 := w.extractLsb' 21 3
def fX (w : Word) : Bool := w.getLsbD 23
def fE (w : Word) : BitVec 2 := w.extractLsb' 21 2
def fD (w : Word) : BitVec 7 := w.extractLsb' 14 7
def fA (w : Word) : BitVec 7 := w.extractLsb' 7 7
def fB (w : Word) : BitVec 7 := w.extractLsb' 0 7
def fImm24 (w : Word) : BitVec 24 := w.extractLsb' 0 24
def fCond (w : Word) : BitVec 6 := w.extractLsb' 18 6
def fOff18 (w : Word) : BitVec 18 := w.extractLsb' 0 18

/-- Format A of R34; with x and e in place of MD. -/
def packA (op : BitVec 8) (x : Bool) (e : BitVec 2) (d a b : BitVec 7) : Word :=
  op ++ BitVec.ofBool x ++ e ++ d ++ a ++ b

/-- Format A with a three-bit MD. -/
def packMd (op : BitVec 8) (md : BitVec 3) (d a b : BitVec 7) : Word := op ++ md ++ d ++ a ++ b

/-- Format S of R39. -/
def packS (op : BitVec 8) (imm : BitVec 24) : Word := op ++ imm

/-- Format J of R38. -/
def packJ (op : BitVec 8) (c : BitVec 6) (off : BitVec 18) : Word := op ++ c ++ off

/-- An S register field: bit 6 is 0 (R23). -/
def sReg (f : BitVec 7) : Except DecodeErr (BitVec 6) :=
  if f.getLsbD 6 then .error .sField else .ok (f.extractLsb' 0 6)

def vPair (f : BitVec 7) : Except DecodeErr (BitVec 6) :=
  if f.getLsbD 0 then .error .oddPair else .ok (f.extractLsb' 1 6)

def sPair (f : BitVec 7) : Except DecodeErr (BitVec 5) :=
  if f.getLsbD 6 then .error .sField else if f.getLsbD 0 then .error .oddPair else .ok (f.extractLsb' 1 5)

/-- A mask register in a 7-bit field: the bits above are 0 (R132, R183). -/
def mReg (f : BitVec 7) : Except DecodeErr (BitVec 3) :=
  if f.extractLsb' 3 4 == 0 then .ok (f.extractLsb' 0 3) else .error .unusedField

/-- A barrier number in a 7-bit field (R271), and a local circuit number (R290, R291). -/
def nib (f : BitVec 7) : Except DecodeErr (BitVec 4) :=
  if f.extractLsb' 4 3 == 0 then .ok (f.extractLsb' 0 4) else .error .unusedField

def zero7 (f : BitVec 7) : Except DecodeErr Unit := if f == 0 then .ok () else .error .unusedField

def ensure (c : Bool) (e : DecodeErr) : Except DecodeErr Unit := if c then .ok () else .error e

def ofS (r : BitVec 6) : BitVec 7 := 0#1 ++ r
def ofVPair (p : BitVec 6) : BitVec 7 := p ++ 0#1
def ofSPair (p : BitVec 5) : BitVec 7 := 0#1 ++ p ++ 0#1
def ofM (m : BitVec 3) : BitVec 7 := 0#4 ++ m
def ofNib (n : BitVec 4) : BitVec 7 := 0#3 ++ n

/-! ## Operands -/

/-- The B operand of a lane instruction (R35). -/
def decOpnd (e : BitVec 2) (b : BitVec 7) (lit : Word) : Except DecodeErr Opnd :=
  match e.toNat with
  | 0 => .ok (.v b)
  | 1 => do let r ← sReg b; .ok (.s r)
  | 2 => .ok (.imm b)
  | _ => if b == 0 then .ok (.lit lit) else .error .unusedField

def decOpnd64 (e : BitVec 2) (b : BitVec 7) (lit : Word) : Except DecodeErr Opnd64 :=
  match e.toNat with
  | 0 => do let p ← vPair b; .ok (.v p)
  | 1 => do let p ← sPair b; .ok (.s p)
  | 2 => .ok (.imm b)
  | _ => if b == 0 then .ok (.lit lit) else .error .unusedField

/-- The B operand where BSEL 0b00 traps ILL (R35, R181, R182). -/
def decUOpnd (e : BitVec 2) (b : BitVec 7) (lit : Word) : Except DecodeErr UOpnd :=
  match e.toNat with
  | 0 => .error .reservedBsel
  | 1 => do let r ← sReg b; .ok (.s r)
  | 2 => .ok (.imm b)
  | _ => if b == 0 then .ok (.lit lit) else .error .unusedField

/-- The lane of BCAST and RDLANE. With MD[2] = 1 BSEL selects nothing: 0b00 to 0b11 decode alike, and 0b11 brings a literal that is not used
(DEDUCED, log 13). -/
def decLaneSel (x : Bool) (e : BitVec 2) (b : BitVec 7) (lit : Word) : Except DecodeErr LaneSel :=
  if x then
    if b == 0 then .ok (.lo e (if e == 3 then lit else 0)) else .error .unusedField
  else do let u ← decUOpnd e b lit; .ok (.idx u)

def Opnd.bsel : Opnd → BitVec 2
  | .v _ => 0 | .s _ => 1 | .imm _ => 2 | .lit _ => 3

def Opnd.field : Opnd → BitVec 7
  | .v b => b | .s r => ofS r | .imm x => x | .lit _ => 0

def Opnd.litWord : Opnd → Option Word
  | .lit w => some w | .v _ => none | .s _ => none | .imm _ => none

def Opnd64.bsel : Opnd64 → BitVec 2
  | .v _ => 0 | .s _ => 1 | .imm _ => 2 | .lit _ => 3

def Opnd64.field : Opnd64 → BitVec 7
  | .v p => ofVPair p | .s p => ofSPair p | .imm x => x | .lit _ => 0

def Opnd64.litWord : Opnd64 → Option Word
  | .lit w => some w | .v _ => none | .s _ => none | .imm _ => none

def UOpnd.bsel : UOpnd → BitVec 2
  | .s _ => 1 | .imm _ => 2 | .lit _ => 3

def UOpnd.field : UOpnd → BitVec 7
  | .s r => ofS r | .imm x => x | .lit _ => 0

def UOpnd.litWord : UOpnd → Option Word
  | .lit w => some w | .s _ => none | .imm _ => none

def LaneSel.x : LaneSel → Bool
  | .idx _ => false | .lo _ _ => true

def LaneSel.bsel : LaneSel → BitVec 2
  | .idx b => b.bsel | .lo e _ => e

def LaneSel.field : LaneSel → BitVec 7
  | .idx b => b.field | .lo _ _ => 0

def LaneSel.litWord : LaneSel → Option Word
  | .idx b => b.litWord | .lo e w => if e == 3 then some w else none

/-! ## Codes -/

def decSize (z : BitVec 2) (d : BitVec 7) : Except DecodeErr Size :=
  match z.toNat with
  | 0 => .ok .b32
  | 1 => if Size.b64.fits d.toNat then .ok .b64 else .error .oddPair
  | 2 => if Size.b128.fits d.toNat then .ok .b128 else .error .oddPair
  | _ => .error .reservedCode

def Size.code : Size → BitVec 2
  | .b32 => 0 | .b64 => 1 | .b128 => 2

def decByteForm (z : BitVec 2) : ByteForm :=
  match z.toNat with
  | 0 => .u8 | 1 => .s8 | 2 => .u16 | _ => .s16

def ByteForm.code : ByteForm → BitVec 2
  | .u8 => 0 | .s8 => 1 | .u16 => 2 | .s16 => 3

def decScope (s : BitVec 3) : Except DecodeErr Scope :=
  match s.toNat with
  | 0 => .ok .group | 1 => .ok .core | 2 => .ok .cluster | 3 => .ok .chip | 4 => .ok .pod
  | _ => .error .reservedCode

def Scope.code : Scope → BitVec 3
  | .group => 0 | .core => 1 | .cluster => 2 | .chip => 3 | .pod => 4

def decAOrd (o : BitVec 2) : AOrd :=
  match o.toNat with
  | 0 => .relaxed | 1 => .release | 2 => .acquire | _ => .acqrel

def AOrd.code : AOrd → BitVec 2
  | .relaxed => 0 | .release => 1 | .acquire => 2 | .acqrel => 3

def decAop (o : BitVec 4) : Except DecodeErr Aop :=
  match o.toNat with
  | 0 => .ok .add | 1 => .ok .smin | 2 => .ok .smax | 3 => .ok .umin | 4 => .ok .umax | 5 => .ok .and | 6 => .ok .or
  | 7 => .ok .xor | 8 => .ok .swap | 9 => .ok .incw | 10 => .ok .decw | 11 => .ok .fadd | 12 => .ok .fmin
  | 13 => .ok .fmax | 14 => .ok .cas | _ => .error .reservedCode

def Aop.code : Aop → BitVec 4
  | .add => 0 | .smin => 1 | .smax => 2 | .umin => 3 | .umax => 4 | .and => 5 | .or => 6 | .xor => 7 | .swap => 8
  | .incw => 9 | .decw => 10 | .fadd => 11 | .fmin => 12 | .fmax => 13 | .cas => 14

def decWCmp (c : BitVec 4) : Except DecodeErr WCmp :=
  match c.toNat with
  | 0 => .ok .eq | 1 => .ok .ne | 2 => .ok .ge | 3 => .ok .gt | 4 => .ok .le | 5 => .ok .lt | 6 => .ok .bitset
  | _ => .error .reservedCode

def WCmp.code : WCmp → BitVec 4
  | .eq => 0 | .ne => 1 | .ge => 2 | .gt => 3 | .le => 4 | .lt => 5 | .bitset => 6

def decIcc (c : BitVec 4) : Except DecodeErr Icc :=
  match c.toNat with
  | 0 => .ok .eq | 1 => .ok .ne | 2 => .ok .lt | 3 => .ok .le | 4 => .ok .gt | 5 => .ok .ge | 6 => .ok .ltu
  | 7 => .ok .leu | 8 => .ok .gtu | 9 => .ok .geu | 10 => .ok .any | 11 => .ok .none | _ => .error .reservedCode

def Icc.code : Icc → BitVec 4
  | .eq => 0 | .ne => 1 | .lt => 2 | .le => 3 | .gt => 4 | .ge => 5 | .ltu => 6 | .leu => 7 | .gtu => 8 | .geu => 9
  | .any => 10 | .none => 11

def decFcc (c : BitVec 4) : Except DecodeErr Fcc :=
  match c.toNat with
  | 0 => .ok .eq | 1 => .ok .ne | 2 => .ok .lt | 3 => .ok .le | 4 => .ok .gt | 5 => .ok .ge | 6 => .ok .ord
  | 7 => .ok .unord | _ => .error .reservedCode

def Fcc.code : Fcc → BitVec 4
  | .eq => 0 | .ne => 1 | .lt => 2 | .le => 3 | .gt => 4 | .ge => 5 | .ord => 6 | .unord => 7

def decRedOp (m : BitVec 3) : RedOp :=
  match m.toNat with
  | 0 => .add | 1 => .smin | 2 => .smax | 3 => .and | 4 => .or | 5 => .xor | 6 => .umin | _ => .umax

def RedOp.code : RedOp → BitVec 3
  | .add => 0 | .smin => 1 | .smax => 2 | .and => 3 | .or => 4 | .xor => 5 | .umin => 6 | .umax => 7

def decRedF (m : BitVec 3) : Except DecodeErr RedF :=
  match m.toNat with
  | 0 => .ok .add | 1 => .ok .min | 2 => .ok .max | _ => .error .reservedCode

def RedF.code : RedF → BitVec 3
  | .add => 0 | .min => 1 | .max => 2

def decVote (m : BitVec 3) : Except DecodeErr VoteK :=
  match m.toNat with
  | 4 => .ok .any | 5 => .ok .all | 6 => .ok .uni | _ => .error .reservedCode

def VoteK.code : VoteK → BitVec 3
  | .any => 4 | .all => 5 | .uni => 6

def decFFmt (m : BitVec 2) : Except DecodeErr FFmt :=
  match m.toNat with
  | 0 => .ok .f32 | 1 => .ok .bf16 | 2 => .ok .f16 | _ => .error .reservedCode

def FFmt.code : FFmt → BitVec 2
  | .f32 => 0 | .bf16 => 1 | .f16 => 2

def decCvti (m : BitVec 2) : CvtiK :=
  match m.toNat with
  | 0 => .tosi | 1 => .toui | 2 => .fromsi | _ => .fromui

def CvtiK.code : CvtiK → BitVec 2
  | .tosi => 0 | .toui => 1 | .fromsi => 2 | .fromui => 3

/-- The format codes of R55. -/
def decFmt (m : BitVec 4) : Except DecodeErr Fmt :=
  match m.toNat with
  | 0 => .ok .e4m3 | 1 => .ok .e5m2 | 2 => .ok .e3m2 | 3 => .ok .e2m3 | 4 => .ok .e2m1 | 5 => .ok .i8 | 6 => .ok .i4
  | 7 => .ok .bf16 | 8 => .ok .f16 | 9 => .ok .f32 | _ => .error .reservedCode

def Fmt.code : Fmt → BitVec 4
  | .e4m3 => 0 | .e5m2 => 1 | .e3m2 => 2 | .e2m3 => 3 | .e2m1 => 4 | .i8 => 5 | .i4 => 6 | .bf16 => 7 | .f16 => 8
  | .f32 => 9

def decDir (m : BitVec 2) : Except DecodeErr CopyDir :=
  match m.toNat with
  | 0 => .ok .g2s | 1 => .ok .s2g | 2 => .ok .g2g | _ => .error .reservedCode

def CopyDir.code : CopyDir → BitVec 2
  | .g2s => 0 | .s2g => 1 | .g2g => 2

def decShMode (m : BitVec 2) : Except DecodeErr ShMode :=
  match m.toNat with
  | 0 => .ok .none | 1 => .ok .write | 2 => .ok .pin | _ => .error .reservedCode

def ShMode.code : ShMode → BitVec 2
  | .none => 0 | .write => 1 | .pin => 2

def decFlush (m : BitVec 2) : Except DecodeErr FlushMode :=
  match m.toNat with
  | 1 => .ok .pub | 2 => .ok .drop | 3 => .ok .both | _ => .error .reservedCode

def FlushMode.code : FlushMode → BitVec 2
  | .pub => 1 | .drop => 2 | .both => 3

/-! ## Decoding by format -/

/-- The instruction, if its fields obey the rules of its entry. -/
def checked (i : Instr) : Dec := if i.wf then .ok i else .error .range

/-- A lane instruction without an op-specific bit. -/
def decLane (w lit : Word) (mk : BitVec 7 → BitVec 7 → Opnd → Instr) : Dec :=
  if fX w then .error .unusedField
  else do let b ← decOpnd (fE w) (fB w) lit; checked (mk (fD w) (fA w) b)

/-- A lane instruction with an op-specific bit. -/
def decLaneX (w lit : Word) (mk : Bool → BitVec 7 → BitVec 7 → Opnd → Instr) : Dec :=
  do let b ← decOpnd (fE w) (fB w) lit; checked (mk (fX w) (fD w) (fA w) b)

/-- A unary lane instruction: A is 0 (R162). -/
def decUnary (w lit : Word) (mk : BitVec 7 → Opnd → Instr) : Dec :=
  if fX w then .error .unusedField
  else do zero7 (fA w); let b ← decOpnd (fE w) (fB w) lit; checked (mk (fD w) b)

/-- A movement instruction whose B is no V slot. -/
def decMove (w lit : Word) (mk : Bool → BitVec 7 → BitVec 7 → UOpnd → Instr) : Dec :=
  do let b ← decUOpnd (fE w) (fB w) lit; checked (mk (fX w) (fD w) (fA w) b)

/-- A uniform instruction (R35, R131). -/
def decUni (w lit : Word) (mk : Bool → BitVec 6 → BitVec 6 → UOpnd → Instr) : Dec :=
  do let d ← sReg (fD w); let a ← sReg (fA w); let b ← decUOpnd (fE w) (fB w) lit; checked (mk (fX w) d a b)

def decUni0 (w lit : Word) (mk : BitVec 6 → BitVec 6 → UOpnd → Instr) : Dec :=
  if fX w then .error .unusedField
  else do let d ← sReg (fD w); let a ← sReg (fA w); let b ← decUOpnd (fE w) (fB w) lit; checked (mk d a b)

/-- The control word of CVTF, CVTI, PACK and UNPK: BSEL is 0b10 and MD[2] is 0 (R175 to R178). -/
def decCtl (w : Word) (k : BitVec 7 → Dec) : Dec :=
  if fX w then .error .unusedField else if fE w != 2 then .error .reservedBsel else k (fB w)

def decPack (w : Word) (mk : Fmt → BitVec 7 → BitVec 7 → Instr) : Dec :=
  decCtl w fun b =>
    if b.extractLsb' 4 3 != 0 then .error .unusedField
    else do let f ← decFmt (b.extractLsb' 0 4); checked (mk f (fD w) (fA w))

/-- An S register destination, a V source and B = 0 (R183 to R185). -/
def decSV (w : Word) (mk : BitVec 6 → BitVec 7 → Instr) : Dec :=
  do let d ← sReg (fD w); zero7 (fB w); checked (mk d (fA w))

def decMop (w : Word) : Dec :=
  match (fMd w).toNat with
  | 0 => do let d ← mReg (fD w); let a ← mReg (fA w); let b ← mReg (fB w); checked (.mopAnd d a b)
  | 1 => do let d ← mReg (fD w); let a ← mReg (fA w); let b ← mReg (fB w); checked (.mopOr d a b)
  | 2 => do let d ← mReg (fD w); let a ← mReg (fA w); let b ← mReg (fB w); checked (.mopXor d a b)
  | 3 => do let d ← mReg (fD w); let a ← mReg (fA w); zero7 (fB w); checked (.mopNot d a)
  | 4 => do let d ← sReg (fD w); let a ← mReg (fA w); zero7 (fB w); checked (.mopM2s d a)
  | 5 => do let d ← mReg (fD w); let a ← sReg (fA w); zero7 (fB w); checked (.mopS2m d a)
  | 6 => do let d ← sReg (fD w); let a ← mReg (fA w); zero7 (fB w); checked (.mopCnt d a)
  | _ => do let d ← mReg (fD w); zero7 (fA w); zero7 (fB w); checked (.mopExec d)

/-- A memory instruction with FS, on a V pair of addresses. -/
def decMemV (w : Word) (mk : Size → BitVec 7 → BitVec 6 → BitVec 7 → Instr) : Dec :=
  do let z ← decSize (fE w) (fD w); let a ← vPair (fA w); checked (mk z (fD w) a (fB w))

def decMemS (w : Word) (mk : Size → BitVec 6 → BitVec 5 → BitVec 7 → Instr) : Dec :=
  do let z ← decSize (fE w) (fD w); let d ← sReg (fD w); let a ← sPair (fA w); checked (mk z d a (fB w))

def decMemL (w : Word) (mk : Size → BitVec 7 → BitVec 7 → BitVec 7 → Instr) : Dec :=
  do let z ← decSize (fE w) (fD w); checked (mk z (fD w) (fA w) (fB w))

/-- FS must be 0 (R36). -/
def noFs (w : Word) (k : Dec) : Dec := if fX w then .error .unusedField else k

/-- The control literal of the atomics (R222). -/
def decAtomLit (lit : Word) : Except DecodeErr (BitVec 4 × Bool × Scope × AOrd) :=
  if lit.extractLsb' 16 16 != 0 || lit.extractLsb' 0 6 != 0 then .error .unusedField
  else do let sc ← decScope (lit.extractLsb' 8 3)
          .ok (lit.extractLsb' 12 4, lit.getLsbD 11, sc, decAOrd (lit.extractLsb' 6 2))

/-- SZ of the atomics: 0b1x traps ILL (R224). -/
def decW64 (w : Word) : Except DecodeErr Bool :=
  if w.getLsbD 22 then .error .reservedCode else .ok (w.getLsbD 21)

def decAtom (w lit : Word) : Dec := do
  let w64 ← decW64 w
  let (o, noret, sc, ord) ← decAtomLit lit
  let op ← decAop o
  let a ← vPair (fA w)
  checked (.atom (fX w) w64 op noret sc ord (fD w) a (fB w))

def decAtomc (w lit : Word) : Dec := do
  let w64 ← decW64 w
  let (o, noret, sc, ord) ← decAtomLit lit
  ensure (o == 0) .unusedField
  let a ← vPair (fA w)
  checked (.atomc (fX w) w64 noret sc ord (fD w) a (fB w))

def decAtoms (w lit : Word) : Dec := do
  let w64 ← decW64 w
  let (o, noret, sc, ord) ← decAtomLit lit
  ensure (sc == .group && ord == .relaxed) .unusedField
  let op ← decAop o
  checked (.atoms (fX w) w64 op noret (fD w) (fA w) (fB w))

def decCopyArgs (w lit : Word) : Except DecodeErr CopyArgs := do
  let dir ← decDir (fE w)
  let d ← sReg (fD w)
  let a ← sReg (fA w)
  let b ← sReg (fB w)
  let shm ← decShMode (lit.extractLsb' 16 2)
  ensure (lit.extractLsb' 0 10 == 0) .unusedField
  .ok { fs := fX w, dir := dir, d := d, a := a, b := b, cb := lit.getLsbD 31, ctn := lit.extractLsb' 25 6,
        mc := lit.getLsbD 24, ms := lit.extractLsb' 18 6, shm := shm, sw := lit.extractLsb' 10 6 }

def decCopy (w lit : Word) (mk : CopyArgs → Instr) : Dec := do let c ← decCopyArgs w lit; checked (mk c)

/-- S source, S destination, MD and B 0: the four sheaf instructions of R245, R250 to R252. -/
def decSS (w : Word) (mk : BitVec 6 → BitVec 6 → Instr) : Dec := do
  ensure (fMd w == 0) .unusedField
  let d ← sReg (fD w)
  let a ← sReg (fA w)
  zero7 (fB w)
  checked (mk d a)

/-- The long-latency forms of the same shape: MD[2] is FS (R247, R248). -/
def decFSS (w : Word) (mk : Bool → BitVec 6 → BitVec 6 → Instr) : Dec := do
  ensure (fE w == 0) .unusedField
  let d ← sReg (fD w)
  let a ← sReg (fA w)
  zero7 (fB w)
  checked (mk (fX w) d a)

def decTag (w : Word) (mk : BitVec 5 → Instr) : Dec := do
  ensure (fMd w == 0) .unusedField
  zero7 (fD w)
  let a ← sPair (fA w)
  zero7 (fB w)
  checked (mk a)

/-- IMM24 with only its low bits in use. -/
def decS24 (w : Word) (n : Nat) (k : Dec) : Dec :=
  if (fImm24 w).toNat < 2 ^ n then k else .error .unusedField

def decPhase (w : Word) (mk : Scope → Instr) : Dec :=
  decS24 w 3 (do let s ← decScope (w.extractLsb' 0 3); checked (mk s))

/-- MD, D and A are 0 and B names a 3-bit number (R304, R309). -/
def decB3 (w : Word) (mk : BitVec 3 → Instr) : Dec := do
  ensure (fMd w == 0) .unusedField
  zero7 (fD w)
  zero7 (fA w)
  let n ← mReg (fB w)
  checked (mk n)

def decBarN (w : Word) (mk : BitVec 4 → Instr) : Dec := do
  ensure (fMd w == 0) .unusedField
  let n ← nib (fD w)
  zero7 (fA w)
  zero7 (fB w)
  checked (mk n)

def decMma (w lit : Word) : Dec :=
  if w.getLsbD 22 then do
    ensure (lit.extractLsb' 9 23 == 0) .unusedField
    checked (.mmaLit (fX w) (w.getLsbD 21) (fD w) (w.extractLsb' 11 3) (w.extractLsb' 8 3) (w.extractLsb' 0 8)
      (lit.getLsbD 8) (lit.extractLsb' 0 8))
  else checked (.mma (fX w) (w.getLsbD 21) (fD w) (w.extractLsb' 11 3) (w.extractLsb' 8 3) (w.extractLsb' 0 8))

def decMmag (w lit : Word) : Dec := do
  ensure (w.getLsbD 22) .reservedCode
  ensure (lit.extractLsb' 23 9 == 0 && lit.extractLsb' 9 7 == 0) .unusedField
  checked (.mmag (fX w) (w.getLsbD 21) (fD w) (w.extractLsb' 11 3) (w.extractLsb' 8 3) (w.extractLsb' 0 8)
    (lit.extractLsb' 16 7) (lit.getLsbD 8) (lit.extractLsb' 0 8))

def decMres (w lit : Word) : Dec := do
  ensure (fMd w == 0) .unusedField
  let d ← sReg (fD w)
  let a ← sReg (fA w)
  let q ← mReg (fB w)
  let f ← decFmt (lit.extractLsb' 0 4)
  checked (.mres d a q (lit.extractLsb' 24 8) (lit.extractLsb' 16 8) (lit.extractLsb' 5 11) (lit.getLsbD 4) f)

def decBoard (w lit : Word) : Dec := do
  ensure (fE w == 0) .unusedField
  let d ← sReg (fD w)
  let a ← sReg (fA w)
  zero7 (fB w)
  ensure (lit.extractLsb' 12 20 == 0 && lit.extractLsb' 4 4 == 0) .unusedField
  checked (.board (fX w) d a (lit.getLsbD 11) (lit.extractLsb' 8 3) (lit.extractLsb' 0 4))

def decWatch (w lit : Word) : Dec := do
  ensure (fE w == 0) .unusedField
  let d ← sReg (fD w)
  let a ← sPair (fA w)
  let b ← sReg (fB w)
  ensure (lit.extractLsb' 16 16 == 0 && lit.extractLsb' 0 7 == 0) .unusedField
  let cmp ← decWCmp (lit.extractLsb' 12 4)
  let sc ← decScope (lit.extractLsb' 7 3)
  checked (.watch (fX w) cmp (lit.getLsbD 11) (lit.getLsbD 10) sc d a b)

def decXchg (w lit : Word) : Dec := do
  ensure (fE w == 0) .unusedField
  let b ← sReg (fB w)
  ensure (!lit.getLsbD 31 && lit.extractLsb' 16 10 == 0) .unusedField
  checked (.xchg (fX w) (fD w) (fA w) b (lit.extractLsb' 26 5) (lit.extractLsb' 0 16))

def decPfl2 (w lit : Word) : Dec := do
  let loc ← decW64 w
  let d ← sPair (fD w)
  let a ← sPair (fA w)
  let t ← sReg (fB w)
  ensure (lit.extractLsb' 24 8 == 0) .unusedField
  checked (.pfl2 (fX w) loc d a t (lit.extractLsb' 0 24))

def decRecv (w : Word) : Dec := do
  let d ← sReg (fD w)
  let a ← sReg (fA w)
  ensure ((fB w).extractLsb' 1 6 == 0) .unusedField
  checked (.recv (fX w) (fE w) d a (w.getLsbD 0))

def decLdb (w : Word) : Dec :=
  if w.getLsbD 6 then checked (.ldbScratch (fX w) (decByteForm (fE w)) (fD w) (fA w) (w.extractLsb' 0 6))
  else do let a ← vPair (fA w); checked (.ldb (fX w) (decByteForm (fE w)) (fD w) a (w.extractLsb' 0 6))

def decStb (w : Word) : Dec :=
  if fX w then .error .unusedField else if w.getLsbD 21 then .error .reservedCode
  else if w.getLsbD 6 then checked (.stbScratch (w.getLsbD 22) (fD w) (fA w) (w.extractLsb' 0 6))
  else do let a ← vPair (fA w); checked (.stb (w.getLsbD 22) (fD w) a (w.extractLsb' 0 6))

def decTrap (w : Word) : Dec :=
  if w.extractLsb' 16 7 != 0 then .error .unusedField
  else if w.getLsbD 23 then checked (.trapHost (w.extractLsb' 0 16)) else checked (.trap (w.extractLsb' 0 16))

def decTret (w : Word) : Dec :=
  decS24 w 2 (match (w.extractLsb' 0 2).toNat with
    | 0 => checked .tretRegion | 1 => checked .tretRetry | 2 => checked .tretNext | _ => .error .reservedCode)

/-- The special register number {A[2:0], B}: A[6:3] and MD[2:1] are 0 (R42). -/
def decSpecial (w : Word) : Except DecodeErr (BitVec 10) :=
  if w.extractLsb' 22 2 != 0 || w.extractLsb' 10 4 != 0 then .error .unusedField else .ok (w.extractLsb' 0 10)

/-- 0x00 to 0x3F: ILL, NOP, lane integer and logic. -/
def decInt (op : Nat) (w lit : Word) : Dec :=
  match op with
  | 0x00 => checked (.ill (fImm24 w))
  | 0x01 => decS24 w 0 (checked .nop)
  | 0x02 => decLaneX w lit .iadd
  | 0x03 => decLaneX w lit .isub
  | 0x04 => decLane w lit .imul
  | 0x05 => decLaneX w lit .imulh
  | 0x06 => decLane w lit .imad
  | 0x07 => do
      let d ← vPair (fD w)
      let a ← vPair (fA w)
      let b ← decOpnd64 (fE w) (fB w) lit
      checked (.iadd64 (fX w) d a b)
  | 0x08 => decLaneX w lit .imin
  | 0x09 => decLaneX w lit .imax
  | 0x0A => decLaneX w lit .iamin
  | 0x0B => decLaneX w lit .iamax
  | 0x0C => decLane w lit .and
  | 0x0D => decLane w lit .or
  | 0x0E => decLane w lit .xor
  | 0x0F => decLane w lit .andn
  | 0x10 => decLane w lit .shl
  | 0x11 => decLane w lit .shr
  | 0x12 => decLane w lit .sar
  | 0x13 => decLane w lit .rol
  | 0x14 => decLaneX w lit .bfx
  | 0x15 => decLane w lit .bfi
  | 0x16 => decUnary w lit .popc
  | 0x17 => decUnary w lit .clz
  | 0x18 => decUnary w lit .brev
  | 0x19 => checked (.sel (fMd w) (fD w) (fA w) (fB w))
  | 0x1A => do
      let cc ← decIcc (w.extractLsb' 17 4)
      let b ← decOpnd (fE w) (fB w) lit
      checked (.icmp (fX w) cc (w.extractLsb' 14 3) (fA w) b)
  | 0x1B => decUnary w lit .mov
  | 0x1C => do
      let d ← vPair (fD w)
      let a ← vPair (fA w)
      let b ← decOpnd (fE w) (fB w) lit
      checked (.lea (fX w) d a b)
  | 0x1D => decLane w lit .idp4
  | 0x1E => decLane w lit .idp8
  | _ => .error .reservedOpcode

/-- 0x40 to 0x6F: lane float. -/
def decFloat (op : Nat) (w lit : Word) : Dec :=
  match op with
  | 0x40 => decLane w lit .fadd
  | 0x41 => decLane w lit .fsub
  | 0x42 => decLane w lit .fmul
  | 0x43 => decLane w lit .ffma
  | 0x44 => decLane w lit .fmin
  | 0x45 => decLane w lit .fmax
  | 0x46 => do
      let cc ← decFcc (w.extractLsb' 17 4)
      let b ← decOpnd (fE w) (fB w) lit
      checked (.fcmp (fX w) cc (w.extractLsb' 14 3) (fA w) b)
  | 0x47 => decUnary w lit .frcp
  | 0x48 => decUnary w lit .frsq
  | 0x49 => decUnary w lit .fsqrt
  | 0x4A => decUnary w lit .fexp2
  | 0x4B => decUnary w lit .flog2
  | 0x4C => decUnary w lit .ftanh
  | 0x4D => decLaneX w lit .scalex
  | 0x50 => decLaneX w lit .hadd2
  | 0x51 => decLaneX w lit .hmul2
  | 0x52 => decLaneX w lit .hfma2
  | 0x58 => decCtl w fun b =>
      if b.getLsbD 6 then .error .unusedField
      else do
        let src ← decFFmt (b.extractLsb' 0 2)
        let dst ← decFFmt (b.extractLsb' 2 2)
        checked (.cvtf src dst (b.getLsbD 4) (b.getLsbD 5) (fD w) (fA w))
  | 0x59 => decCtl w fun b =>
      if b.extractLsb' 3 4 != 0 then .error .unusedField
      else checked (.cvti (decCvti (b.extractLsb' 0 2)) (b.getLsbD 2) (fD w) (fA w))
  | 0x5A => decPack w .pack8
  | 0x5B => decPack w .pack6
  | 0x5C => decPack w .pack4
  | 0x5D => decPack w .unpk8
  | 0x5E => decPack w .unpk6
  | 0x5F => decPack w .unpk4
  | 0x60 => decLaneX w lit .fdp4
  | 0x61 => decLane w lit .fdp8
  | 0x62 => decLaneX w lit .fdp2h
  | _ => .error .reservedOpcode

/-- 0x70 to 0x7F: lane movement. -/
def decMov (op : Nat) (w lit : Word) : Dec :=
  match op with
  | 0x70 => decLaneX w lit .shfl
  | 0x71 => decMove w lit .lshu
  | 0x72 => decMove w lit .lshd
  | 0x73 => if fX w then .error .unusedField else decMove w lit fun _ => .lrot
  | 0x74 => do let k ← decLaneSel (fX w) (fE w) (fB w) lit; checked (.bcast (fD w) (fA w) k)
  | 0x75 =>
      match (fMd w).toNat with
      | 0 => do let d ← mReg (fD w); zero7 (fB w); checked (.ballotM d (fA w))
      | 1 => decSV w .ballotS
      | _ => .error .reservedCode
  | 0x76 => do let k ← decVote (fMd w); decSV w (.vote k)
  | 0x77 => do
      let d ← sReg (fD w)
      let k ← decLaneSel (fX w) (fE w) (fB w) lit
      checked (.rdlane d (fA w) k)
  | 0x78 =>
      if fX w then .error .unusedField
      else do
        let a ← sReg (fA w)
        let b ← decUOpnd (fE w) (fB w) lit
        checked (.wrlane (fD w) a b)
  | 0x79 => decSV w (.redi (decRedOp (fMd w)))
  | 0x7A => do let o ← decRedF (fMd w); decSV w (.redf o)
  | 0x7B => do zero7 (fB w); checked (.scani (decRedOp (fMd w)) (fD w) (fA w))
  | 0x7C => decXchg w lit
  | _ => .error .reservedOpcode

/-- 0x80 to 0x9F: uniform, control transfer and masks. -/
def decUc (op : Nat) (w lit : Word) : Dec :=
  match op with
  | 0x80 => decUni w lit .sadd
  | 0x81 => decUni w lit .ssub
  | 0x82 => decUni w lit .smul
  | 0x83 => decUni0 w lit .sand
  | 0x84 => decUni0 w lit .sor
  | 0x85 => decUni0 w lit .sxor
  | 0x86 => decUni0 w lit .sshl
  | 0x87 => decUni w lit .sshr
  | 0x88 => decUni w lit .smin
  | 0x89 => decUni w lit .smax
  | 0x8A => decUni w lit .scmp
  | 0x8B =>
      if fX w then .error .unusedField
      else do
        let d ← sReg (fD w)
        zero7 (fA w)
        let b ← decUOpnd (fE w) (fB w) lit
        checked (.smov d b)
  | 0x8C => do
      let d ← sPair (fD w)
      let a ← sPair (fA w)
      let b ← decUOpnd (fE w) (fB w) lit
      checked (.slea (fX w) d a b)
  | 0x8D => decMop w
  | 0x90 => if fCond w == 0 then checked (.bra (fOff18 w)) else .error .unusedField
  | 0x91 => checked (.brz (fCond w) (fOff18 w))
  | 0x92 => checked (.brnz (fCond w) (fOff18 w))
  | 0x93 =>
      if (fCond w).extractLsb' 3 3 == 0 then checked (.brm ((fCond w).extractLsb' 0 3) (fOff18 w))
      else .error .unusedField
  | 0x94 => checked (.loop (fCond w) (fOff18 w))
  | 0x95 => do
      ensure (fMd w == 0) .unusedField
      zero7 (fD w)
      let x ← sReg (fA w)
      let t ← sPair (fB w)
      checked (.jtab x t (lit.extractLsb' 0 16) (lit.extractLsb' 16 16))
  | 0x96 => decS24 w 16 (checked (.pad (w.extractLsb' 0 16)))
  | 0x97 =>
      if (fCond w).getLsbD 0 then .error .oddPair
      else checked (.call ((fCond w).extractLsb' 1 5) (fOff18 w))
  | 0x98 => do
      ensure (fMd w == 0) .unusedField
      let l ← sPair (fD w)
      let a ← sPair (fA w)
      zero7 (fB w)
      ensure (lit.extractLsb' 16 16 == 0) .unusedField
      checked (.calli l a (lit.extractLsb' 0 16))
  | 0x99 => decTag w .ret
  | 0x9A => decS24 w 0 (checked .join)
  | 0x9B => do
      ensure (fMd w == 0) .unusedField
      zero7 (fD w)
      let m ← mReg (fA w)
      zero7 (fB w)
      checked (.execm m)
  | 0x9C => decS24 w 0 (checked .execr)
  | _ => .error .reservedOpcode

/-- 0xA0 to 0xBF: memory, visibility and the sheaf. -/
def decMem (op : Nat) (w lit : Word) : Dec :=
  match op with
  | 0xA0 => decMemV w (.ld (fX w))
  | 0xA1 => decMemL w (.lds (fX w))
  | 0xA2 => decMemL w (.ldsr (fX w))
  | 0xA3 => decMemS w (.sld (fX w))
  | 0xA4 => noFs w (decMemV w .st)
  | 0xA5 => noFs w (decMemL w .sts)
  | 0xA6 => noFs w (decMemL w .stsr)
  | 0xA7 => noFs w (decMemS w .sst)
  | 0xA8 => decLdb w
  | 0xA9 => decStb w
  | 0xAA => decAtom w lit
  | 0xAB => decAtomc w lit
  | 0xAC => decAtoms w lit
  | 0xAD => decPfl2 w lit
  | 0xAE => decRecv w
  | 0xB0 => noFs w do
      let z ← decSize (fE w) (fD w)
      let a ← vPair (fA w)
      let m ← sReg (fB w)
      checked (.sow z (fD w) a m)
  | 0xB1 => decPhase w .phase
  | 0xB2 => decPhase w .rel
  | 0xB3 => decPhase w .acq
  | 0xB4 => decWatch w lit
  | 0xB5 => do
      ensure (!fX w && w.extractLsb' 6 8 == 0) .unusedField
      let m ← decFlush (w.extractLsb' 14 2)
      ensure (!w.getLsbD 0) .oddPair
      checked (.flushl (w.extractLsb' 16 7) m (w.extractLsb' 1 5))
  | 0xB8 => decSS w .shopen
  | 0xB9 => noFs w do
      let z ← decSize (fE w) (fD w)
      let a ← vPair (fA w)
      let b ← sReg (fB w)
      checked (.shst z (fD w) a b)
  | 0xBA => decFSS w .shseal
  | 0xBB => decFSS w .shpin
  | 0xBC => do
      let z ← decSize (fE w) (fD w)
      let a ← vPair (fA w)
      let b ← sReg (fB w)
      checked (.shld (fX w) z (fD w) a b)
  | 0xBD => decSS w .shunpin
  | 0xBE => decSS w .shdrop
  | 0xBF => decSS w .shq
  | _ => .error .reservedOpcode

/-- 0xC0 to 0xDF: copies, tags, barriers, the tile and the Windrow. -/
def decTile (op : Nat) (w lit : Word) : Dec :=
  match op with
  | 0xC0 => decCopy w lit .copyl
  | 0xC1 => decCopy w lit .copyt
  | 0xC2 => decCopy w lit .copyg
  | 0xC3 => decCopy w lit .copys
  | 0xC4 => decCopy w lit .copyx
  | 0xC5 => decTag w .twany
  | 0xC6 => decTag w .twall
  | 0xC7 => do
      ensure (fE w == 0) .unusedField
      let d ← sPair (fD w)
      let a ← sPair (fA w)
      zero7 (fB w)
      checked (.tffr (fX w) d a)
  | 0xC8 => decTag w .tclr
  | 0xC9 => do
      ensure (fMd w == 0) .unusedField
      let n ← nib (fD w)
      let a ← sReg (fA w)
      let b ← sReg (fB w)
      checked (.binit n a b)
  | 0xCA => decBarN w .barr
  | 0xCB => do
      let d ← sReg (fD w)
      let n ← nib (fA w)
      let p ← sReg (fB w)
      match (fMd w).toNat with
      | 0 => checked (.bwait d n p)
      | 1 => checked (.bwaitBytes d n p)
      | _ => .error .reservedCode
  | 0xCC => do
      ensure (fMd w == 0) .unusedField
      let d ← sReg (fD w)
      let n ← nib (fA w)
      zero7 (fB w)
      checked (.barrw d n)
  | 0xCD => do
      ensure (fMd w == 0) .unusedField
      let n ← nib (fD w)
      let a ← sReg (fA w)
      zero7 (fB w)
      checked (.bexp n a)
  | 0xCE => decBarN w .binv
  | 0xD0 => decMres w lit
  | 0xD1 => decB3 w .mrel
  | 0xD2 => decMma w lit
  | 0xD3 => decMmag w lit
  | 0xD4 => do
      ensure (fMd w == 0) .unusedField
      let n ← mReg (fD w)
      let a ← sReg (fA w)
      let b ← sReg (fB w)
      checked (.wload n a b)
  | 0xD5 => decB3 w .wfree
  | 0xD6 => do
      ensure (fMd w == 0) .unusedField
      let d ← sReg (fD w)
      zero7 (fA w)
      checked (.mstat d (fB w))
  | 0xD8 => decBoard w lit
  | 0xD9 => do
      ensure (fMd w == 0) .unusedField
      let d ← sReg (fD w)
      zero7 (fA w)
      let n ← mReg (fB w)
      checked (.unboard d n)
  | 0xDA => do
      ensure (fE w == 0) .unusedField
      zero7 (fA w)
      let c ← nib (fB w)
      if fX w then do let d ← sReg (fD w); checked (.lapqSt d c)
      else do let d ← sPair (fD w); checked (.lapq d c)
  | 0xDB => do
      ensure (fE w == 0) .unusedField
      let d ← sReg (fD w)
      let a ← sPair (fA w)
      let c ← nib (fB w)
      checked (.lapwait (fX w) d a c)
  | _ => .error .reservedOpcode

/-- 0xE0 to 0xEF: group, kernel, traps and link. -/
def decSys (op : Nat) (w lit : Word) : Dec :=
  match op with
  | 0xE0 => do
      ensure (fMd w == 0) .unusedField
      let d ← sReg (fD w)
      zero7 (fB w)
      checked (.spawn d (fA w) lit)
  | 0xE1 => decS24 w 0 (checked .elect)
  | 0xE2 => decS24 w 0 (checked .elend)
  | 0xE3 => decS24 w 0 (checked .exit)
  | 0xE4 => decS24 w 0 (checked .trigger)
  | 0xE5 => decS24 w 3 (checked (.winb (w.extractLsb' 0 3)))
  | 0xE6 =>
      decS24 w 21 (checked (.region (fB w) (fA w) (fD w) (lit.extractLsb' 25 7) (lit.extractLsb' 21 4)
        (lit.extractLsb' 0 21)))
  | 0xE7 => decS24 w 0 (checked .yield)
  | 0xE8 => decTrap w
  | 0xE9 => decTret w
  | 0xEA => decS24 w 22 (checked (.tclrc (w.extractLsb' 0 22)))
  | 0xEB => do let n ← decSpecial w; checked (.sread (w.getLsbD 21) (fD w) n)
  | 0xEC => do
      let n ← decSpecial w
      ensure (!w.getLsbD 21) .reservedCode
      let d ← sReg (fD w)
      checked (.swrite d n)
  | 0xED => do
      ensure (fMd w == 0) .unusedField
      let d ← sReg (fD w)
      let a ← sPair (fA w)
      let b ← sPair (fB w)
      checked (.enq d a b)
  | 0xEE => do
      let d ← sReg (fD w)
      let a ← sReg (fA w)
      let b ← sReg (fB w)
      checked (.send (fMd w) d a b)
  | 0xEF => do
      ensure (fMd w == 0) .unusedField
      let d ← sReg (fD w)
      let a ← sPair (fA w)
      let b ← sReg (fB w)
      checked (.role d a b)
  | _ => .error .reservedOpcode

/-- The header of a clause (R29). -/
def decHeader (w : Word) : Dec :=
  if w.getLsbD 0 then .error .unusedField
  else checked (.clauseHeader (w.extractLsb' 16 12) (w.getLsbD 15) (w.extractLsb' 11 4) (w.getLsbD 10)
    (w.extractLsb' 6 4) (w.extractLsb' 3 3) (w.getLsbD 2) (w.getLsbD 1))

/-- The instruction of a word and the word after it, which is its literal where it takes one (R29, R41). -/
def decode (w lit : Word) : Dec :=
  let op := (fOp w).toNat
  if op < 0x40 then decInt op w lit
  else if op < 0x70 then decFloat op w lit
  else if op < 0x80 then decMov op w lit
  else if op < 0xA0 then decUc op w lit
  else if op < 0xC0 then decMem op w lit
  else if op < 0xE0 then decTile op w lit
  else if op < 0xF0 then decSys op w lit
  else decHeader w

/-! ## Encoding -/

def encLane (op : BitVec 8) (x : Bool) (d a : BitVec 7) (b : Opnd) : List Word :=
  packA op x b.bsel d a b.field :: b.litWord.toList

def encUni (op : BitVec 8) (x : Bool) (d a : BitVec 7) (b : UOpnd) : List Word :=
  packA op x b.bsel d a b.field :: b.litWord.toList

def encSel (op : BitVec 8) (d a : BitVec 7) (k : LaneSel) : List Word :=
  packA op k.x k.bsel d a k.field :: k.litWord.toList

def encPack (op : BitVec 8) (f : Fmt) (d a : BitVec 7) : List Word := [packA op false 2 d a (0#3 ++ f.code)]

def atomLit (o : BitVec 4) (noret : Bool) (sc : Scope) (ord : AOrd) : Word :=
  0#16 ++ o ++ BitVec.ofBool noret ++ sc.code ++ ord.code ++ 0#6

def encCopy (op : BitVec 8) (c : CopyArgs) : List Word :=
  [packA op c.fs c.dir.code (ofS c.d) (ofS c.a) (ofS c.b),
   BitVec.ofBool c.cb ++ c.ctn ++ BitVec.ofBool c.mc ++ c.ms ++ c.shm.code ++ c.sw ++ 0#10]

/-- Format X of R37. -/
def packX (op : BitVec 8) (fs lit acc : Bool) (c : BitVec 7) (q w : BitVec 3) (steps : BitVec 8) : Word :=
  op ++ BitVec.ofBool fs ++ BitVec.ofBool lit ++ BitVec.ofBool acc ++ c ++ q ++ w ++ steps

/-- The words of a well-formed instruction; none for a step of another agent, which has no word. -/
def encode : Instr → List Word
  | .clauseHeader wait sav sa sbv sb n re yh =>
      [0xF#4 ++ wait ++ BitVec.ofBool sav ++ sa ++ BitVec.ofBool sbv ++ sb ++ n ++ BitVec.ofBool re
        ++ BitVec.ofBool yh ++ 0#1]
  | .ill z => [packS 0x00 z]
  | .nop => [packS 0x01 0]
  | .iadd x d a b => encLane 0x02 x d a b
  | .isub x d a b => encLane 0x03 x d a b
  | .imul d a b => encLane 0x04 false d a b
  | .imulh x d a b => encLane 0x05 x d a b
  | .imad d a b => encLane 0x06 false d a b
  | .iadd64 x d a b => packA 0x07 x b.bsel (ofVPair d) (ofVPair a) b.field :: b.litWord.toList
  | .imin x d a b => encLane 0x08 x d a b
  | .imax x d a b => encLane 0x09 x d a b
  | .iamin x d a b => encLane 0x0A x d a b
  | .iamax x d a b => encLane 0x0B x d a b
  | .and d a b => encLane 0x0C false d a b
  | .or d a b => encLane 0x0D false d a b
  | .xor d a b => encLane 0x0E false d a b
  | .andn d a b => encLane 0x0F false d a b
  | .shl d a b => encLane 0x10 false d a b
  | .shr d a b => encLane 0x11 false d a b
  | .sar d a b => encLane 0x12 false d a b
  | .rol d a b => encLane 0x13 false d a b
  | .bfx x d a b => encLane 0x14 x d a b
  | .bfi d a b => encLane 0x15 false d a b
  | .popc d b => encLane 0x16 false d 0 b
  | .clz d b => encLane 0x17 false d 0 b
  | .brev d b => encLane 0x18 false d 0 b
  | .sel m d a b => [packMd 0x19 m d a b]
  | .icmp x cc m a b => encLane 0x1A x (cc.code ++ m) a b
  | .mov d b => encLane 0x1B false d 0 b
  | .lea x d a b => encLane 0x1C x (ofVPair d) (ofVPair a) b
  | .idp4 d a b => encLane 0x1D false d a b
  | .idp8 d a b => encLane 0x1E false d a b
  | .fadd d a b => encLane 0x40 false d a b
  | .fsub d a b => encLane 0x41 false d a b
  | .fmul d a b => encLane 0x42 false d a b
  | .ffma d a b => encLane 0x43 false d a b
  | .fmin d a b => encLane 0x44 false d a b
  | .fmax d a b => encLane 0x45 false d a b
  | .fcmp x cc m a b => encLane 0x46 x (cc.code ++ m) a b
  | .frcp d b => encLane 0x47 false d 0 b
  | .frsq d b => encLane 0x48 false d 0 b
  | .fsqrt d b => encLane 0x49 false d 0 b
  | .fexp2 d b => encLane 0x4A false d 0 b
  | .flog2 d b => encLane 0x4B false d 0 b
  | .ftanh d b => encLane 0x4C false d 0 b
  | .scalex x d a b => encLane 0x4D x d a b
  | .hadd2 x d a b => encLane 0x50 x d a b
  | .hmul2 x d a b => encLane 0x51 x d a b
  | .hfma2 x d a b => encLane 0x52 x d a b
  | .cvtf src dst sh dh d a =>
      [packA 0x58 false 2 d a (0#1 ++ BitVec.ofBool dh ++ BitVec.ofBool sh ++ dst.code ++ src.code)]
  | .cvti k t d a => [packA 0x59 false 2 d a (0#4 ++ BitVec.ofBool t ++ k.code)]
  | .pack8 f d a => encPack 0x5A f d a
  | .pack6 f d a => encPack 0x5B f d a
  | .pack4 f d a => encPack 0x5C f d a
  | .unpk8 f d a => encPack 0x5D f d a
  | .unpk6 f d a => encPack 0x5E f d a
  | .unpk4 f d a => encPack 0x5F f d a
  | .fdp4 x d a b => encLane 0x60 x d a b
  | .fdp8 d a b => encLane 0x61 false d a b
  | .fdp2h x d a b => encLane 0x62 x d a b
  | .shfl x d a b => encLane 0x70 x d a b
  | .lshu x d a b => encUni 0x71 x d a b
  | .lshd x d a b => encUni 0x72 x d a b
  | .lrot d a b => encUni 0x73 false d a b
  | .bcast d a k => encSel 0x74 d a k
  | .ballotM d a => [packMd 0x75 0 (ofM d) a 0]
  | .ballotS d a => [packMd 0x75 1 (ofS d) a 0]
  | .vote k d a => [packMd 0x76 k.code (ofS d) a 0]
  | .rdlane d a k => encSel 0x77 (ofS d) a k
  | .wrlane d a b => encUni 0x78 false d (ofS a) b
  | .redi o d a => [packMd 0x79 o.code (ofS d) a 0]
  | .redf o d a => [packMd 0x7A o.code (ofS d) a 0]
  | .scani o d a => [packMd 0x7B o.code d a 0]
  | .xchg fs d a b pgrp tag => [packA 0x7C fs 0 d a (ofS b), 0#1 ++ pgrp ++ 0#10 ++ tag]
  | .sadd x d a b => encUni 0x80 x (ofS d) (ofS a) b
  | .ssub x d a b => encUni 0x81 x (ofS d) (ofS a) b
  | .smul x d a b => encUni 0x82 x (ofS d) (ofS a) b
  | .sand d a b => encUni 0x83 false (ofS d) (ofS a) b
  | .sor d a b => encUni 0x84 false (ofS d) (ofS a) b
  | .sxor d a b => encUni 0x85 false (ofS d) (ofS a) b
  | .sshl d a b => encUni 0x86 false (ofS d) (ofS a) b
  | .sshr x d a b => encUni 0x87 x (ofS d) (ofS a) b
  | .smin x d a b => encUni 0x88 x (ofS d) (ofS a) b
  | .smax x d a b => encUni 0x89 x (ofS d) (ofS a) b
  | .scmp x d a b => encUni 0x8A x (ofS d) (ofS a) b
  | .smov d b => encUni 0x8B false (ofS d) 0 b
  | .slea x d a b => encUni 0x8C x (ofSPair d) (ofSPair a) b
  | .mopAnd d a b => [packMd 0x8D 0 (ofM d) (ofM a) (ofM b)]
  | .mopOr d a b => [packMd 0x8D 1 (ofM d) (ofM a) (ofM b)]
  | .mopXor d a b => [packMd 0x8D 2 (ofM d) (ofM a) (ofM b)]
  | .mopNot d a => [packMd 0x8D 3 (ofM d) (ofM a) 0]
  | .mopM2s d a => [packMd 0x8D 4 (ofS d) (ofM a) 0]
  | .mopS2m d a => [packMd 0x8D 5 (ofM d) (ofS a) 0]
  | .mopCnt d a => [packMd 0x8D 6 (ofS d) (ofM a) 0]
  | .mopExec d => [packMd 0x8D 7 (ofM d) 0 0]
  | .bra off => [packJ 0x90 0 off]
  | .brz c off => [packJ 0x91 c off]
  | .brnz c off => [packJ 0x92 c off]
  | .brm c off => [packJ 0x93 (0#3 ++ c) off]
  | .loop c off => [packJ 0x94 c off]
  | .jtab x t bound lbl => [packMd 0x95 0 0 (ofS x) (ofSPair t), lbl ++ bound]
  | .pad lbl => [packS 0x96 (0#8 ++ lbl)]
  | .call l off => [packJ 0x97 (l ++ 0#1) off]
  | .calli l a lbl => [packMd 0x98 0 (ofSPair l) (ofSPair a) 0, 0#16 ++ lbl]
  | .ret a => [packMd 0x99 0 0 (ofSPair a) 0]
  | .join => [packS 0x9A 0]
  | .execm m => [packMd 0x9B 0 0 (ofM m) 0]
  | .execr => [packS 0x9C 0]
  | .ld fs z d a off => [packA 0xA0 fs z.code d (ofVPair a) off]
  | .lds fs z d a off => [packA 0xA1 fs z.code d a off]
  | .ldsr fs z d a off => [packA 0xA2 fs z.code d a off]
  | .sld fs z d a off => [packA 0xA3 fs z.code (ofS d) (ofSPair a) off]
  | .st z d a off => [packA 0xA4 false z.code d (ofVPair a) off]
  | .sts z d a off => [packA 0xA5 false z.code d a off]
  | .stsr z d a off => [packA 0xA6 false z.code d a off]
  | .sst z d a off => [packA 0xA7 false z.code (ofS d) (ofSPair a) off]
  | .ldb fs f d a off => [packA 0xA8 fs f.code d (ofVPair a) (0#1 ++ off)]
  | .ldbScratch fs f d a off => [packA 0xA8 fs f.code d a (1#1 ++ off)]
  | .stb half d a off => [packA 0xA9 false (BitVec.ofBool half ++ 0#1) d (ofVPair a) (0#1 ++ off)]
  | .stbScratch half d a off => [packA 0xA9 false (BitVec.ofBool half ++ 0#1) d a (1#1 ++ off)]
  | .atom fs w64 op noret sc ord d a v =>
      [packA 0xAA fs (0#1 ++ BitVec.ofBool w64) d (ofVPair a) v, atomLit op.code noret sc ord]
  | .atomc fs w64 noret sc ord d a v =>
      [packA 0xAB fs (0#1 ++ BitVec.ofBool w64) d (ofVPair a) v, atomLit 0 noret sc ord]
  | .atoms fs w64 op noret d a v =>
      [packA 0xAC fs (0#1 ++ BitVec.ofBool w64) d a v, atomLit op.code noret .group .relaxed]
  | .pfl2 fs loc d a t lines =>
      [packA 0xAD fs (0#1 ++ BitVec.ofBool loc) (ofSPair d) (ofSPair a) (ofS t), 0#8 ++ lines]
  | .recv fs cap d a nw => [packA 0xAE fs cap (ofS d) (ofS a) (0#6 ++ BitVec.ofBool nw)]
  | .sow z d a m => [packA 0xB0 false z.code d (ofVPair a) (ofS m)]
  | .phase sc => [packS 0xB1 (0#21 ++ sc.code)]
  | .rel sc => [packS 0xB2 (0#21 ++ sc.code)]
  | .acq sc => [packS 0xB3 (0#21 ++ sc.code)]
  | .watch fs cmp u w64 sc d a b =>
      [packA 0xB4 fs 0 (ofS d) (ofSPair a) (ofS b),
       0#16 ++ cmp.code ++ BitVec.ofBool u ++ BitVec.ofBool w64 ++ sc.code ++ 0#7]
  | .flushl n m a => [packS 0xB5 (0#1 ++ n ++ m.code ++ 0#8 ++ a ++ 0#1)]
  | .shopen d a => [packMd 0xB8 0 (ofS d) (ofS a) 0]
  | .shst z d a b => [packA 0xB9 false z.code d (ofVPair a) (ofS b)]
  | .shseal fs d a => [packA 0xBA fs 0 (ofS d) (ofS a) 0]
  | .shpin fs d a => [packA 0xBB fs 0 (ofS d) (ofS a) 0]
  | .shld fs z d a b => [packA 0xBC fs z.code d (ofVPair a) (ofS b)]
  | .shunpin d a => [packMd 0xBD 0 (ofS d) (ofS a) 0]
  | .shdrop d a => [packMd 0xBE 0 (ofS d) (ofS a) 0]
  | .shq d a => [packMd 0xBF 0 (ofS d) (ofS a) 0]
  | .copyl c => encCopy 0xC0 c
  | .copyt c => encCopy 0xC1 c
  | .copyg c => encCopy 0xC2 c
  | .copys c => encCopy 0xC3 c
  | .copyx c => encCopy 0xC4 c
  | .twany a => [packMd 0xC5 0 0 (ofSPair a) 0]
  | .twall a => [packMd 0xC6 0 0 (ofSPair a) 0]
  | .tffr fs d a => [packA 0xC7 fs 0 (ofSPair d) (ofSPair a) 0]
  | .tclr a => [packMd 0xC8 0 0 (ofSPair a) 0]
  | .binit n a b => [packMd 0xC9 0 (ofNib n) (ofS a) (ofS b)]
  | .barr n => [packMd 0xCA 0 (ofNib n) 0 0]
  | .bwait d n p => [packMd 0xCB 0 (ofS d) (ofNib n) (ofS p)]
  | .bwaitBytes d n k => [packMd 0xCB 1 (ofS d) (ofNib n) (ofS k)]
  | .barrw d n => [packMd 0xCC 0 (ofS d) (ofNib n) 0]
  | .bexp n a => [packMd 0xCD 0 (ofNib n) (ofS a) 0]
  | .binv n => [packMd 0xCE 0 (ofNib n) 0 0]
  | .mres d a q base rowsm1 soff sc f =>
      [packMd 0xD0 0 (ofS d) (ofS a) (ofM q), base ++ rowsm1 ++ soff ++ BitVec.ofBool sc ++ f.code]
  | .mrel q => [packMd 0xD1 0 0 0 (ofM q)]
  | .mma fs acc c q w steps => [packX 0xD2 fs false acc c q w steps]
  | .mmaLit fs acc c q w steps wadv ainc =>
      [packX 0xD2 fs true acc c q w steps, 0#23 ++ BitVec.ofBool wadv ++ ainc]
  | .mmag fs st g q w steps xs wadv ainc =>
      [packX 0xD3 fs true st g q w steps, 0#9 ++ xs ++ 0#7 ++ BitVec.ofBool wadv ++ ainc]
  | .wload n a b => [packMd 0xD4 0 (ofM n) (ofS a) (ofS b)]
  | .wfree n => [packMd 0xD5 0 0 0 (ofM n)]
  | .mstat d s => [packMd 0xD6 0 (ofS d) 0 s]
  | .board fs d a nw w c =>
      [packA 0xD8 fs 0 (ofS d) (ofS a) 0, 0#20 ++ BitVec.ofBool nw ++ w ++ 0#4 ++ c]
  | .unboard d n => [packMd 0xD9 0 (ofS d) 0 (ofM n)]
  | .lapq d c => [packA 0xDA false 0 (ofSPair d) 0 (ofNib c)]
  | .lapqSt d c => [packA 0xDA true 0 (ofS d) 0 (ofNib c)]
  | .lapwait fs d a c => [packA 0xDB fs 0 (ofS d) (ofSPair a) (ofNib c)]
  | .spawn d a off => [packMd 0xE0 0 (ofS d) a 0, off]
  | .elect => [packS 0xE1 0]
  | .elend => [packS 0xE2 0]
  | .exit => [packS 0xE3 0]
  | .trigger => [packS 0xE4 0]
  | .winb w => [packS 0xE5 (0#21 ++ w)]
  | .region start1 count1 start2 count2 smask recipe =>
      [packMd 0xE6 0 start2 count1 start1, count2 ++ smask ++ recipe]
  | .yield => [packS 0xE7 0]
  | .trap code => [packS 0xE8 (0#8 ++ code)]
  | .trapHost code => [packS 0xE8 (1#1 ++ 0#7 ++ code)]
  | .tretRegion => [packS 0xE9 0]
  | .tretRetry => [packS 0xE9 1]
  | .tretNext => [packS 0xE9 2]
  | .tclrc m => [packS 0xEA (0#2 ++ m)]
  | .sread v d n => [(0xEB#8 ++ 0#2 ++ BitVec.ofBool v ++ d ++ 0#4 ++ n : BitVec 32)]
  | .swrite d n => [(0xEC#8 ++ 0#2 ++ 0#1 ++ ofS d ++ 0#4 ++ n : BitVec 32)]
  | .enq d a b => [packMd 0xED 0 (ofS d) (ofSPair a) (ofSPair b)]
  | .send m d a b => [packMd 0xEE m (ofS d) (ofS a) (ofS b)]
  | .role d a b => [packMd 0xEF 0 (ofS d) (ofSPair a) (ofS b)]
  | .xchgPair .. | .xchgTimeout .. | .mresFillDone .. | .mmaJobStart .. | .mmaJobEnd .. | .wloadFillDone .. | .hostack ..
  | .splitWatchdog .. | .impreciseStoreFault .. | .haltRequest .. | .loadDataReturn .. | .atomicReply .. | .publish ..
  | .homeRead .. | .homeMerge .. | .atomicAtHome .. | .cfill .. | .cInval .. | .l1Fill .. | .push .. | .pushInval ..
  | .watchPost .. | .watchRepost .. | .shOpen .. | .sheafSeal .. | .drop .. | .pin .. | .unpin .. | .openWrite ..
  | .sealMessage .. | .dropMessage .. | .acked .. | .dropped .. | .pinnedRead .. | .copyChunk .. | .copyComplete ..
  | .heldArrival .. | .pfl2Complete .. | .lapStart .. | .baleInject .. | .arm .. | .arrive .. | .heldHeaderForward ..
  | .verdict .. | .registerWrite .. | .bind .. | .lock .. | .unlock .. | .start .. | .sealCx .. | .restore .. | .reset ..
  | .flr .. | .retire .. | .release .. | .stop .. | .lockInterfaceRequest .. | .startInterfaceRequest ..
  | .stopInterfaceRequest .. | .tdierror .. | .saved .. | .restored .. | .granaryReplay .. | .contextWatchdogExpiry ..
  | .doorbell .. | .qbaseQsizeWrite .. | .pause .. | .resume .. | .clearerr .. | .launch .. | .waitver .. | .signal ..
  | .fence .. | .queueNop .. | .circuitInstall .. | .circuitRemove .. | .circuitRepace .. | .setlt .. | .setlayout ..
  | .setkey .. | .setgen .. | .dsqLaunch .. | .gtimeDue .. | .place | .exited .. | .placementWait1ms ..
  | .rcbPeriodBoundary .. | .budgetExhausted .. | .classAging .. | .thermalMigration .. | .rateLimiterGo .. | .groupkill ..
  | .kabort .. | .cxreset .. | .vflr .. | .warmreset .. | .status .. | .map .. | .unmap .. | .inval .. | .poolst ..
  | .addlocal .. | .addfar .. | .remove .. | .reclaim .. | .sdcreate .. | .sdbind .. | .moved .. | .samplerTick ..
  | .vpod .. | .vkey .. | .vswitch .. | .hint .. | .vclear .. | .packetIngress .. | .packetAck .. | .retransmit ..
  | .routeDown .. | .corunHint .. | .ptpEventMessage .. | .portTrained .. | .spdmMessage .. | .idleLevelEntry ..
  | .idleLevelExit .. | .idlePrewake .. | .powerCap .. | .deviceStart .. | .queueDrain .. | .stsrAcknowledgement ..
  | .tokenAccrual .. | .breakpointSet .. => []

/-- The words that an instruction occupies: 0 for a step of another agent. -/
def Instr.words (i : Instr) : Nat := (encode i).length

/-- Does a word take a literal: R40, without a look at any other field. -/
def takesLiteral (w : Word) : Bool :=
  let op := (fOp w).toNat
  let cls := (0x02 ≤ op && op ≤ 0x1E && op != 0x19) || (0x40 ≤ op && op ≤ 0x4D) || (0x50 ≤ op && op ≤ 0x52)
    || (0x58 ≤ op && op ≤ 0x62) || (0x70 ≤ op && op ≤ 0x78 && op != 0x75 && op != 0x76) || (0x80 ≤ op && op ≤ 0x8C)
  (cls && fE w == 3) || (op == 0xD2 && w.getLsbD 22)
  || op == 0x7C || op == 0x95 || op == 0x98 || (0xAA ≤ op && op ≤ 0xAD) || op == 0xB4 || (0xC0 ≤ op && op ≤ 0xC4)
  || op == 0xD0 || op == 0xD3 || op == 0xD8 || op == 0xE0 || op == 0xE6

/-- A clause header, by its top four bits alone (R29). -/
def isHeader (w : Word) : Bool := w.extractLsb' 28 4 == 0xF

/-- The opcodes of the control transfers, class X of R41. -/
def isTransfer (w : Word) : Bool :=
  let op := (fOp w).toNat
  (0x90 ≤ op && op ≤ 0x95) || (0x97 ≤ op && op ≤ 0x9A) || op == 0xE3 || op == 0xE8 || op == 0xE9 || op == 0xEF

/-- The opcodes of the commit instructions, class C of R41 and R33. -/
def isCommit (w : Word) : Bool :=
  let op := (fOp w).toNat
  op == 0x7C || (0xAA ≤ op && op ≤ 0xAC) || op == 0xB0 || op == 0xBA || op == 0xBE || op == 0xC4 || op == 0xCA
  || op == 0xCC || op == 0xE3 || op == 0xE4 || op == 0xED || op == 0xEE

/-- The opcodes of the long-latency instructions, class L of R41: bit 23 is FS (R31). -/
def isLong (w : Word) : Bool :=
  let op := (fOp w).toNat
  op == 0x7C || (0xA0 ≤ op && op ≤ 0xA3) || op == 0xA8 || (0xAA ≤ op && op ≤ 0xAE) || op == 0xB4
  || (0xBA ≤ op && op ≤ 0xBC) || (0xC0 ≤ op && op ≤ 0xC4) || op == 0xC7 || op == 0xD2 || op == 0xD3 || op == 0xD8
  || op == 0xDB

/-- REGION (R140). -/
def isRegion (w : Word) : Bool := fOp w == 0xE6

/-- An opcode that R41 reserves, or 0x00 (R43 check 3). -/
def isReserved (w : Word) : Bool :=
  let op := (fOp w).toNat
  op == 0x00 || (0x1F ≤ op && op ≤ 0x3F) || op == 0x4E || op == 0x4F || (0x53 ≤ op && op ≤ 0x57)
  || (0x63 ≤ op && op ≤ 0x6F) || (0x7D ≤ op && op ≤ 0x7F) || op == 0x8E || op == 0x8F || (0x9D ≤ op && op ≤ 0x9F)
  || op == 0xAF || op == 0xB6 || op == 0xB7 || op == 0xCF || op == 0xD7 || (0xDC ≤ op && op ≤ 0xDF)

/-- What the decoder reads from an opcode-table word: bits 31..0 are the first word, bits 63..32 the literal. -/
def decodeTableWord (nbits w : Nat) : Option Instr :=
  if nbits = 0 then none
  else
    match decode (BitVec.ofNat 32 (w % 2 ^ nbits)) (BitVec.ofNat 32 (w % 2 ^ nbits / 2 ^ 32)) with
    | .ok i => some i
    | .error _ => none

end Sys2Proof
end

