-- ==== Sys2Proof/Config.lean ====
section
/-! DEFINITION. What one implementation fixes and the values the spec leaves open. An opaque constant has no body: no proof can
see its value, so every claim holds for every value of it. -/

namespace Sys2Proof.Config

/-- A fresh open value, numbered by the counter State.freeCount (log 5). -/
opaque freeNat : Nat → Nat

/-- A fresh open byte: an unwritten scratchpad byte (R105), a byte of the opaque block of a trap frame (R148) (log 5, 9). -/
opaque freeByte : Nat → Byte

/-- A fresh open choice between two outcomes that the spec permits (log 5). -/
opaque freeBool : Nat → Bool

/-- The n-th key drawn from the DRBG (R72, R75, R328) (log 5). -/
opaque drbg : Nat → Key

/-- The hash of R207 that chooses the home slice of a line; fixed for a configuration record and otherwise unspecified (log 10). -/
opaque sliceHash : Nat → Nat

/-- HKDF-SHA-384 of R345 and R81: a key from a secret and the bytes of its info, as numbers (log 11). -/
opaque hkdf : Nat → Nat → Key

/-- SHA-384 as R353 and R362 use it, over a message given as one number with its length in bytes (log 11). -/
opaque sha384 : Nat → Nat → BitVec 384

/-- The source of a copy without sheaf mode in a sheaf page: read as LD reads it (R242), or left out with FAULT (R262) (log 48). -/
opaque copyReadsSheaf : Bool

/-- The number of lanes of a group (R11, R23). -/
abbrev lanes : Nat := 32

/-- The line size in bytes (spec/11_line.md). -/
abbrev lineBytes : Nat := 128

/-- Entries of a core's publish queue (R190). -/
abbrev pqCap : Nat := 512

/-- Lines that an L2 slice of 2 MiB holds (R21). -/
abbrev sliceLines : Nat := 16384

/-- P lines that one core may hold (R208). -/
abbrev pushQuota : Nat := 64

/-- Attached operations that one flag holds (R31). -/
abbrev flagCap : Nat := 64

/-- Watch table entries of one L2 slice (R228). -/
abbrev watchCap : Nat := 256

/-- Entries of one core's sequencer job queue (R300). -/
abbrev jobCap : Nat := 256

/-- Context slots (R70). -/
abbrev slotCap : Nat := 64

/-- The context virtual address of the trap aperture (R148, R311). -/
abbrev trapAperture : Nat := 0x01FF_FE00_0000_0000

/-- The context virtual address of the translation control page (R311, R319). -/
abbrev controlPage : Nat := 0x01FF_FF00_0000_0000

/-- TVEC, the trap vector base (R149). -/
abbrev tvec : Nat := 0x01FF_FFFF_FFFF_0000

/-- The first address of the pod aperture (R311). -/
abbrev podBase : Nat := 0x0000_4000_0000_0000

/-- The first address of the multicast aperture (R311). -/
abbrev mcastBase : Nat := 0x0000_8000_0000_0000

/-- The end of the multicast aperture: 256 sets of 16 GiB (R311). -/
abbrev mcastEnd : Nat := 0x0000_8040_0000_0000

/-- One exported window: 16 GiB (R311). -/
abbrev windowBytes : Nat := 0x4_0000_0000

/-- The local address of a vchip's own window (R314). -/
abbrev windowLocal : Nat := 0x0000_3FFC_0000_0000

/-- The far space is kept above the 48-bit physical space (R312, R323). -/
abbrev farBase : Nat := 2 ^ 48

/-- The bytes of one HBM stack (R312). -/
abbrev stackBytes : Nat := 0x00C0_0000_0000

/-- The bytes of one bale record (R275). -/
abbrev baleBytes : Nat := 17408

/-- XCHG offers are withdrawn after 2^22 cycles (R187). -/
abbrev xchgTimeout : Nat := 4194304

end Sys2Proof.Config
end

