-- ==== Sys2Proof/Machine/State.lean ====
section
/-! DEFINITION. The state of one TW9 module as plain data: what the spec gives the machine (INVENTORY.md lists each piece), the
reasons a step can stop, and the state right after start. -/

namespace Sys2Proof.Machine

/-- Why a step stops. -/
inductive Fault where
  /-- Raised by an instruction of a split when State.issuer names no live split of a group (no instruction of the hardware issues
  then). Safe: the model stops where the hardware has nothing to do. -/
  | noIssuer
  deriving DecidableEq, Repr

/-- Why an instruction has no meaning here. -/
inductive Refusal where
  /-- Raised by an arm of exec whose instruction has no meaning yet. Safe: nothing is claimed. -/
  | notModelled (mnemonic : String)
  deriving DecidableEq, Repr

/-! ## Memory -/

/-- What a line carries beside its bytes: the key and generation it was written under (R326), the poison mark and whether MEMERR
was raised (R327), and the sheaf tag word (R233). stamp = none: nothing has written the line. -/
structure LineMeta where
  stamp : Option (Key × BitVec 16) := none
  poison : Bool := false
  reported : Bool := false
  tag : Word := 0
  /-- The 16-bit symbols of its ciphertext, MAC and tag that have gone wrong in memory since it was written (R326). -/
  wrong : Nat := 0
  deriving DecidableEq, Repr, Inhabited

/-- A line as the caches name it: a physical line number (far lines from 2^48 / 128 on), or a line of the pod or multicast
aperture by its virtual line number. cx is the context whose key domain it carries (R84, R214). -/
structure LineKey where
  cx : Nat
  pod : Bool
  n : Nat
  /-- KDS of the page (R315). -/
  kds : Nat := 0
  /-- The distance in frames of the two slots of a sheaf page, 1 or 32, and n is the line in slot 0 (R315); 0: no sheaf page. -/
  sh : Nat := 0
  deriving DecidableEq, Repr, Inhabited

/-- L1 states other than I (R208). -/
inductive L1St where
  | V | P | D | DS
  deriving DecidableEq, Repr, Inhabited

structure L1Line where
  key : LineKey
  st : L1St
  aged : Bool := false
  data : LineData := 0
  valid : LineMask := 0
  dirty : LineMask := 0
  /-- The last push of a P line, reference of a V line, or store of a D or DS line, for R211. -/
  age : Nat := 0
  /-- The last reference, whatever the state. -/
  refd : Nat := 0
  deriving DecidableEq, Repr, Inhabited

/-- L2 home states other than I (R212). -/
inductive L2St where
  | S | M
  deriving DecidableEq, Repr, Inhabited

structure L2Line where
  key : LineKey
  st : L2St
  presence : BitVec 6 := 0
  deriving DecidableEq, Repr, Inhabited

/-- A clean copy in a slice of another sector (R212). -/
structure CCopy where
  key : LineKey
  sector : Nat
  /-- The slice of the sector that holds it (R214). -/
  slice : Nat := 0
  data : LineData
  deriving DecidableEq, Repr, Inhabited

/-- A group context: flat core and number in the core. -/
structure GRef where
  core : Nat
  gctx : Nat
  deriving DecidableEq, Repr, Inhabited

/-- Where an instruction issued, for fault records (R158). -/
structure Site where
  grp : GRef
  split : Nat
  pc : Nat
  regcnt : Word := 0
  cx : Nat := 0
  kernel : Nat := 0
  wg : Nat := 0
  gidx : Nat := 0
  /-- The MODEL's own number of the group, kept when it is saved and restored (R157). -/
  uid : Nat := 0
  /-- The address that a fault of the store reports, where a request carries its site (R158). -/
  va : Nat := 0
  deriving DecidableEq, Repr, Inhabited

/-- An open write of a sheaf version (R236). proxy: the owning vchip when it is another one. -/
structure OpenWr where
  id : Nat
  ver : Nat
  owner : Nat
  copy : Bool
  /-- The address of the line, as the writer names it. -/
  va : Nat := 0
  deriving DecidableEq, Repr, Inhabited

/-- How far a PQ entry has come: not begun, arrived at its home with invalidations out, merged (R190, R191). -/
inductive PqPhase where
  | waiting | arrived | merged
  deriving DecidableEq, Repr, Inhabited

structure PqEntry where
  id : Nat
  key : LineKey
  phase : PqPhase := .waiting
  /-- The homes that have still to merge their copy of a multicast entry (R191, R335). -/
  homesLeft : Nat := 1
  push : BitVec 32 := 0
  site : Site := default
  /-- The address of the store that site stands for (R158). -/
  va : Nat := 0
  /-- The SOWs that name targets of the entry, with their masks (R210, R221). -/
  sows : List (Site × BitVec 32) := []
  /-- The workgroups whose stores the entry holds: kernel and linear index (R109). -/
  by_ : List (Nat × Nat) := []
  ow : Option OpenWr := none
  data : LineData := 0
  mask : LineMask := 0
  deriving DecidableEq, Repr, Inhabited

/-- An invalidation on its way to a C copy or a pushed copy (R191, R213). -/
structure InvalMsg where
  key : LineKey
  /-- none: a C copy of sector; some core: a pushed copy. -/
  core : Option Nat
  sector : Nat := 0
  deriving DecidableEq, Repr, Inhabited

/-- A merge or atomic of a line that waits for its invalidations to be acknowledged. -/
structure MergeMsg where
  key : LineKey
  core : Nat
  entry : Nat
  data : LineData
  mask : LineMask
  site : Site
  deriving DecidableEq, Repr, Inhabited

/-- A fetched line on its way to a core (R199, R209). -/
structure FillMsg where
  core : Nat
  key : LineKey
  data : LineData
  poison : Bool := false
  /-- The remote home refused the access (R336, R347): true gives PROT. -/
  refused : Bool := false
  /-- The core's ACQ count when the fetch was requested. -/
  acqs : Nat := 0
  /-- The load that asked for the line. -/
  op : Nat := 0
  /-- The line may be installed in the L1: no newer value has reached the core since (R194 item 5). -/
  install : Bool := true
  deriving DecidableEq, Repr, Inhabited

/-- A copy of a line on its way to a slice of a requester's sector (R214). -/
structure CfillMsg where
  key : LineKey
  sector : Nat
  data : LineData
  deriving DecidableEq, Repr, Inhabited

/-- A pushed line on its way to a core (R203). -/
structure PushMsg where
  core : Nat
  key : LineKey
  data : LineData
  /-- Of the SOWs that named the core. -/
  sites : List Site
  entry : Nat
  deriving DecidableEq, Repr, Inhabited

/-- An STSR on its way to a scratchpad (R205). -/
structure StsrMsg where
  id : Nat
  /-- The issuing core. -/
  core : Nat
  cx : Nat
  kernel : Nat
  wg : Nat
  off : Nat
  bytes : List Byte
  deriving DecidableEq, Repr, Inhabited

/-- A translation that a last-page register or a TLB holds (R317). -/
structure Xlat where
  cx : Nat
  page : Nat
  size : Nat
  frame : Nat
  w : Bool
  x : Bool
  sh : Bool
  far : Bool
  kds : Nat
  d : Bool
  deriving DecidableEq, Repr, Inhabited

/-! ## Pending operations -/

/-- A byte range of one lane of a load, with the line it needs. -/
structure LaneAcc where
  lane : Nat
  va : Nat
  key : LineKey
  off : Nat
  deriving DecidableEq, Repr, Inhabited

/-- How far a fetched line of a load has come. -/
inductive LineSt where
  | needed | served | got
  deriving DecidableEq, Repr, Inhabited

structure LineWait where
  key : LineKey
  st : LineSt
  data : LineData := 0
  /-- Bytes of data that the core's own unpublished stores gave at issue (R194). -/
  own : LineMask := 0
  poison : Bool := false
  refused : Bool := false
  acqs : Nat := 0
  deriving DecidableEq, Repr, Inhabited

/-- How the bytes of a lane become register values. -/
inductive Narrow where
  | word (n : Nat)
  | byteForm (f : ByteForm)
  deriving DecidableEq, Repr, Inhabited

/-- An atomic request of one lane (R224, R319). -/
structure AtomLane where
  lane : Nat
  va : Nat
  key : LineKey
  off : Nat
  /-- An offset of the translation control page (R319). -/
  ctl : Option Nat := none
  v : DWord := 0
  cmp : DWord := 0
  reply : Option DWord := none
  fate : Nat := 0
  sent : Bool := false
  /-- A sweep of R320 has been made for the request: the PQ entries and operations that it still waits for. -/
  waits : List Nat := []
  deriving DecidableEq, Repr, Inhabited

/-- The registers that an operation has still to write or read (R32): physical V registers, S registers, M registers. -/
structure PendSet where
  vw : List Nat := []
  vr : List Nat := []
  sw : List Nat := []
  mw : List Nat := []
  deriving DecidableEq, Repr, Inhabited

/-- The clause a split executes (R29, R30). -/
structure Clause where
  hdr : Nat
  /-- Words of the clause not yet issued. -/
  left : Nat
  setA : Option Nat
  setB : Option Nat
  re : Bool
  first : Bool
  /-- A commit has issued in this clause: only one control transfer may follow (R33). -/
  committed : Bool := false
  deriving DecidableEq, Repr, Inhabited

/-- The kinds of long-latency operations (R31). Slots are physical registers. -/
inductive OpKind where
  /-- LD, LDB, SLD; d is the first register, uni: an S register. -/
  | load (uni : Bool) (d : Nat) (nar : Narrow) (accs : List LaneAcc) (lines : List LineWait) (mask : LaneMask)
  /-- LDS, LDSR, LDB of the scratchpad: lane, workgroup linear index, offset (R205). -/
  | lds (d : Nat) (nar : Narrow) (accs : List (Nat × Nat × Nat))
  | atom (w64 : Bool) (op : Option Aop) (noret : Bool) (sc : Scope) (ord : AOrd) (d : Nat) (lanes : List AtomLane)
  | atoms (w64 : Bool) (noret : Bool) (d : Nat) (replies : List (Nat × DWord))
  | watch (va : Nat) (key : LineKey) (off : Nat) (cmp : WCmp) (u w64 : Bool) (v : DWord) (sc : Scope) (d : Nat)
      (held : Option Nat) (woken : Option DWord)
  | pfl2 (id : Nat)
  | copy (id : Nat)
  | tffr (d : Nat) (mask : DWord)
  | mma (jobs : Nat)
  | board (d : Nat) (left : Nat) (clearAt : Nat)
  | lapwait (d : Nat) (circ lap layer bale : Nat)
  | shseal (d : Nat) (id ver : Nat) (sent : Bool)
  | shpin (d : Nat) (id : Nat)
  | shld (d : Nat) (n : Nat) (id ver : Nat) (lanes : List (LaneAcc × Option (Option LineData)))
  | recv (d a cap k : Nat)
  /-- resume: the rest of the clause after the XCHG, for the NEXTPC of XCHGTO (R187). -/
  | xchg (d : Nat) (mask : LaneMask) (resume : Option Clause)
  deriving DecidableEq, Repr, Inhabited

structure PendOp where
  id : Nat
  grp : GRef
  split : Nat
  flag : Nat
  pend : PendSet
  kind : OpKind
  pc : Nat
  insn : Word
  rpc : Nat
  issued : Nat
  /-- The split's clause when the instruction issued. -/
  clause : Option Clause := none
  deriving DecidableEq, Repr, Inhabited

/-! ## Groups -/

/-- A region record (R140, R270, R358). -/
structure RegionRec where
  entry : Nat
  live : List (Nat × Nat)
  smask : BitVec 4
  recipe : Option Nat
  exec : LaneMask
  depth : Nat
  elect : Option (Nat × LaneMask)
  /-- Which execution of REGION made the record (R141). -/
  serial : Nat
  /-- Copies and PFL2 issued since the entry, in issue order (R270). Entry n holds the n-th of each split that has merged into this one. -/
  copies : List (List Nat) := []
  /-- Copies recorded before a flashback that the re-execution has still to match (R270). -/
  toMatch : List (List Nat) := []
  /-- RECVs since the entry: the message number each reserved, or none (R358). -/
  recvs : List (Option Nat) := []
  /-- RECVs issued since the entry in this execution. -/
  recvCount : Nat := 0
  /-- Messages reserved before this REGION and after the last commit (R358). -/
  recvHeld : List Nat := []
  /-- Set by flashback: the next REGION keeps what is to be matched (R270). -/
  rewound : Bool := false
  deriving DecidableEq, Repr, Inhabited

/-- The messages that a record has reserved (R358). -/
def RegionRec.msgs (rc : RegionRec) : List Nat := rc.recvHeld ++ rc.recvs.filterMap id

/-- A reconvergence stack entry (R122, R123). -/
inductive StackEntry where
  | deferred (pc : Nat) (lanes : LaneMask)
  | resume (pc : Option Nat) (lset exec : LaneMask)
  deriving DecidableEq, Repr, Inhabited

/-- Why a split waits at the instruction at its PC (R125). -/
inductive Wait where
  | none
  /-- A release: PQ entries, STSRs, and packets (SENDs) that it waits for; acq: PHASE's second half is due. -/
  | marker (pq stsr pkts : List Nat) (core : Nat)
  /-- A message with this number is out; the reply is not here. -/
  | reply (id : Nat)
  | got (val : DWord)
  /-- BWAIT, BARRW: until the parity of barrier bar differs from par; BWAIT.bytes: or until it has counted that many bytes. -/
  | barWait (bar : Nat) (par : Bool) (bytes : Option Nat)
  | join
  | host
  /-- A first test failed; tested again at the next issue. -/
  | poll
  deriving DecidableEq, Repr, Inhabited

structure Split where
  id : Nat
  pc : Nat
  lset : LaneMask
  exec : LaneMask
  stack : List StackEntry := []
  clause : Option Clause := none
  /-- The split came to pc by a control transfer (R30). -/
  jumped : Bool := false
  /-- A PAD label is due in the first word (R30, R127). -/
  padDue : Option Nat := none
  region : Option RegionRec := none
  /-- The region has ended: the next clause must have RE = 1 (R33). -/
  ended : Bool := true
  /-- A ROLE without effect: the next clause must have RE = 1, although the region goes on (R139). -/
  needRe : Bool := false
  recipe : Bool := false
  wait : Wait := .none
  /-- It does not issue before this cycle: behind a YIELD (R137), or behind a header whose WAIT flags were found clear (R30). -/
  yieldTo : Nat := 0
  readySince : Nat := 0
  lastIssue : Nat := 0
  /-- Complete periods of 4,096 cycles spent ready and unissued (R112). -/
  aged : Nat := 0
  /-- The cycle of the last REGION or commit (R156). -/
  progress : Nat := 0
  /-- A breakpoint at this PC has been passed once (R152). -/
  passed : Bool := false
  /-- The barriers at which a BARRW has arrived and not ended its wait, each with the parity of its phase (R272). -/
  arrived : List (Nat × Bool) := []
  /-- Commits retired, to tell precise from imprecise store faults (R156). -/
  commits : Nat := 0
  deriving DecidableEq, Repr, Inhabited

/-- The trap record, the TW9's own (R150), with the state that TRET restores (R148, R155). -/
structure TrapRec where
  cause : BitVec 22
  /-- The causes at entry, which TCLRC does not clear (R152: BREAK lets its breakpoint pass once). -/
  raised : BitVec 22
  lanes : LaneMask
  pc : Nat
  rpc : Nat
  addr : Nat
  nextpc : Nat
  detail : BitVec 16
  allow : BitVec 3
  ppriv : Bool
  split : Split
  cls : Nat
  elected : Option (Nat × LaneMask)
  /-- The group's open and pin tables in the trap image (R244). -/
  opens : List (Nat × Nat) := []
  pins : List (Nat × Nat × Nat) := []
  /-- The rest of the clause that NEXTPC lies in. -/
  resume : Option Clause := none
  /-- The clause that PC lies in. -/
  clause : Option Clause := none
  /-- The splits that stopped at entry, until TRET. -/
  stopped : List Nat := []
  deriving DecidableEq, Repr, Inhabited

/-- A failed walk of a store that has not been raised yet (R156). -/
structure FailedWalk where
  site : Site
  insn : Word
  va : Nat
  lanes : LaneMask
  cause : BitVec 22
  detail : BitVec 16
  commits : Nat
  /-- The split's clause when the store issued, for the retry mode. -/
  clause : Option Clause
  deriving DecidableEq, Repr, Inhabited

/-- A cause raised outside the instruction that the split is about to issue, or held until TRET (R148). -/
structure HeldCause where
  split : Nat
  cause : BitVec 22
  lanes : LaneMask
  pc : Nat
  addr : Nat
  detail : BitVec 16
  insn : Word
  nextpc : Nat
  /-- The rest of the clause that NEXTPC lies in. -/
  resume : Option Clause := none
  /-- The clause that PC lies in. -/
  clause : Option Clause := none
  rpc : Option Nat := none
  /-- Recorded while the group was saved: due at its first issue after the restore, whichever split issues (R146). -/
  first : Bool := false
  deriving DecidableEq, Repr, Inhabited

inductive GStatus where
  | reserved | live | ending
  deriving DecidableEq, Repr, Inhabited

structure Group where
  ref : GRef
  status : GStatus
  cx : Nat
  kernel : Nat
  /-- Workgroup linear index. -/
  wg : Nat
  /-- S17 at the start: the index in the workgroup. -/
  gidx : Nat
  allot : Nat
  cls : Nat
  /-- The class is one that ROLE gave, and not the RCB's priority (R112). -/
  ownCls : Bool := false
  priv : Bool
  /-- The MODEL's own number of the group, kept when it is saved and restored. -/
  uid : Nat := 0
  wb : Nat := 0
  s : Sparse Word := []
  v : Sparse Word := []
  m : Sparse Word := []
  fpmode : Word := 0
  /-- The $FPMODE that governs before cycle fpmodeFrom (R138). -/
  fpmodeOld : Word := 0
  fpmodeFrom : Nat := 0
  fpflags : Word := 0
  seed : Word := 0
  bkcnt : Word := 0
  regcnt : Word := 0
  sowref : Word := 0
  mconf : Word := 0
  trapRec : Option TrapRec := none
  elected : Option (Nat × LaneMask) := none
  opens : List (Nat × Nat) := []
  /-- Versions that its COPYXs opened and left open, because they ended with FAULT (R267). -/
  xopens : List (Nat × Nat) := []
  /-- {id, version, serial of the region that pinned}. -/
  pins : List (Nat × Nat × Nat) := []
  splits : List Split := []
  held : List HeldCause := []
  /-- The argument block has been read (R118). -/
  argsRead : Bool := true
  argptr : Nat := 0
  /-- The group's slot of the save area, as flashback copied it (R144). -/
  frameImg : List Byte := []
  brk : Bool := false
  step : Bool := false
  /-- The group and split that reserved this context (R117). -/
  spawner : Option (GRef × Nat) := none
  /-- An acquire of an operation that completed while the group was saved is due at its restore (R146, R201). -/
  acqDue : Bool := false
  /-- Last-page registers: lane, or 32 for the uniform register (R317). -/
  lastPage : List (Nat × Xlat) := []
  deriving DecidableEq, Repr, Inhabited

/-- The $FPMODE that governs an instruction issued in a cycle (R138). -/
def Group.modeAt (g : Group) (now : Nat) : Word := if now < g.fpmodeFrom then g.fpmodeOld else g.fpmode

/-- The group as an instruction issued in a cycle sees it. -/
def Group.inMode (g : Group) (now : Nat) : Group := { g with fpmode := g.modeAt now }

/-- TACTIVE of a group (R148): a trap record is held. -/
def Group.tactive (g : Group) : Bool := g.trapRec.isSome

/-! ## Workgroups, kernels, RCBs -/

/-- A named barrier (R253). The last phase's EXPB and CPY serve waits tested after its completion (R272). -/
structure Barrier where
  isOpen : Bool := false
  expa : Nat := 0
  expb0 : Nat := 0
  expb : Nat := 0
  arra : Nat := 0
  arrb : Nat := 0
  par : Bool := false
  pstat : BitVec 8 := 0
  lstat : BitVec 8 := 0
  cpy : Bool := false
  out : Nat := 0
  held : List (BitVec 8) := []
  lastExpb : Nat := 0
  lastCpy : Bool := false
  deriving DecidableEq, Repr, Inhabited

inductive TagSt where
  | busy | ready
  deriving DecidableEq, Repr, Inhabited

/-- A tag that is not IDLE (R256). -/
structure TagEnt where
  st : TagSt
  status : Word
  deriving DecidableEq, Repr, Inhabited

structure Workgroup where
  cx : Nat
  kernel : Nat
  l : Nat
  core : Nat
  rank : Nat
  /-- The linear index of rank 0 of the cluster launch, and 2^CLOG. -/
  launchBase : Nat
  launchSize : Nat
  scratchBytes : Nat
  l1kib : Nat
  scratch : Sparse Byte := []
  /-- The free value that unwritten bytes read as is numbered from here (R105); none: they read 0 (R144). -/
  fresh : Option Nat := none
  sranges : List (Nat × Nat) := []
  barriers : List (Nat × Barrier) := []
  tags : List (Nat × TagEnt) := []
  counted : Bool := false
  exited : Bool := false
  since : Nat := 0
  deriving DecidableEq, Repr, Inhabited

/-- A dependence that is not met (R104). -/
inductive Dep where
  | kdone (kernel : Nat)
  | ktrig (kernel : Nat)
  | shver (id ver : Nat)
  | gtime (t : Nat)
  | lap (circ lap layer : Nat)
  deriving DecidableEq, Repr, Inhabited

inductive KState where
  | recorded | ready | running | done | aborted
  deriving DecidableEq, Repr, Inhabited

/-- The fields of a KD (R100). -/
structure KD where
  entry : Nat := 0
  wgx : Nat := 1
  wgy : Nat := 1
  wgz : Nat := 1
  groups : Nat := 1
  allot : Nat := 1
  scratch : Nat := 0
  l1kib : Nat := 256
  clog : Nat := 0
  coop : Bool := false
  super : Bool := false
  argptr : Nat := 0
  rcb : Nat := 0
  sranges : List (Nat × Nat) := []
  deriving DecidableEq, Repr, Inhabited

structure Kernel where
  cx : Nat
  id : Nat
  kdAddr : Nat
  kd : KD
  st : KState
  deps : List Dep
  triggered : Bool := false
  trigCount : Nat := 0
  /-- The next workgroup to place. -/
  nextL : Nat := 0
  exits : Nat := 0
  rcb : Nat := 0
  inPool : Bool := false
  /-- It was recorded with dependences: its start acquires for its groups (R104). -/
  acq : Bool := false
  /-- The cycle since which the next workgroup has waited; blocking after 1 ms (R106). -/
  waitingSince : Nat := 0
  blocking : Bool := false
  /-- COOP = 1 and, when it became READY, its workgroups could not all be resident (R107): *coopfail* is due. -/
  coopBad : Bool := false
  /-- interface and command number of the LAUNCH, none from the device-side queue. -/
  launchedBy : Option (Nat × Nat) := none
  deriving DecidableEq, Repr, Inhabited

/-- An RCB as the device holds it (R101, R102). -/
structure Rcb where
  cx : Nat
  addr : Nat
  parent : Nat
  budget : Nat
  period : Nat
  prio : Option Nat
  policy : Nat
  fdlog : Nat
  fdsize : Nat
  charge : Nat := 0
  /-- Group-cycles charged in the period that ended last, which USED takes at the boundary's event (R101). -/
  used : Nat := 0
  /-- The cycle in which the charge reached the budget in the present period (R102). -/
  spentAt : Option Nat := none
  /-- Root only: the number of the period last begun. -/
  periodNo : Nat := 0
  /-- Root only: a boundary has passed whose event has not been taken. -/
  boundary : Bool := false
  parked : Bool := false
  deriving DecidableEq, Repr, Inhabited

inductive SaveReason where
  | seal | park | migrate | fault
  deriving DecidableEq, Repr, Inhabited

/-- An operand record in an image: Q number, owner, place, format and bytes (R144). -/
structure ImageRec where
  q : Nat
  owner : GRef
  base : Nat
  rows : Nat
  fmt : Fmt
  sc : Bool
  soff : Nat
  bytes : Sparse Byte
  deriving DecidableEq, Repr, Inhabited

/-- The image of one flashed-back set (R144). -/
structure Image where
  cx : Nat
  reason : SaveReason
  groups : List Group
  wgs : List Workgroup
  records : List ImageRec
  /-- Slots held: owner and slot number. -/
  slots : List (GRef × Nat)
  /-- Recorded watches (R145), and results that commits have still to write (R146). -/
  ops : List PendOp
  deriving DecidableEq, Repr, Inhabited

/-! ## Tile and Windrow -/

inductive SlotSt where
  | free | empty | full | poisoned
  deriving DecidableEq, Repr, Inhabited

inductive BoardSt where
  | armed | capturing
  deriving DecidableEq, Repr, Inhabited

/-- A board on a slot (R283). -/
structure Board where
  st : BoardSt
  op : Nat
  lowest : Bool
  /-- The installation of the circuit. -/
  circ : Nat
  layer : Nat
  bale : Nat
  nw : Bool
  target : Nat
  lap : Nat := 0
  /-- Captured from a poisoned header; a tap's own check of CRC and MAC fails (R286). -/
  bad : Bool := false
  macBad : Bool := false
  fmtCode : Nat := 0
  scaled : Bool := false
  scales : List Nat := []
  tile : Sparse Byte := []
  /-- The cycle of its capture. -/
  at_ : Nat := 0
  /-- The cycle of its arm (R284). -/
  armed : Nat := 0
  deriving DecidableEq, Repr, Inhabited

/-- A weight slot (R294). -/
structure Slot where
  owner : Option GRef := none
  st : SlotSt := .free
  fmt : Fmt := .e4m3
  scaled : Bool := false
  scales : List Nat := []
  tile : Sparse Byte := []
  board : Option Board := none
  /-- A WLOAD fills the slot: tile offset and scale offset in its group's scratchpad, and the cycle of its issue. -/
  filling : Option (Nat × Nat × Nat) := none
  deriving DecidableEq, Repr, Inhabited

/-- An operand record (R297). -/
structure QRec where
  owner : GRef
  base : Nat
  rows : Nat
  fmt : Fmt
  sc : Bool
  soff : Nat
  /-- MRES fills the rows: the offset in its group's scratchpad, and the cycle of its issue. -/
  filling : Option (Nat × Nat) := none
  /-- The flags of MMAs and MMAGs that use it, until they clear (R297). -/
  flags : List Nat := []
  deriving DecidableEq, Repr, Inhabited

/-- A job of the sequencer (R300, R301). -/
structure Job where
  op : Nat
  grp : GRef
  issued : Nat
  start : Option Nat := none
  acc : Bool
  c : Nat
  q : Nat
  w : Nat
  steps : Nat
  wadv : Bool
  ainc : Nat
  /-- MMAG: gather rows and scatter offsets of the 32 lanes, none: MMA. -/
  gather : Option (List Nat × List Nat) := none
  st : Bool := false
  /-- The slots that its steps read, as they stand when it starts (R296). -/
  tiles : List (Nat × Slot) := []
  /-- Halves of rows that MMAG has scattered, and for each word of them its address, the word before and the word written (R301, R307). -/
  halves : Nat := 0
  undo : List (Nat × Word × Word) := []
  deriving DecidableEq, Repr, Inhabited

structure Core where
  n : Nat
  l1kib : Nat := 256
  lastCx : Option Nat := none
  l1 : List L1Line := []
  pq : List PqEntry := []
  acqs : Nat := 0
  opbuf : Sparse Byte := []
  recs : List (Nat × QRec) := []
  slots : List (Nat × Slot) := []
  jobs : List Job := []
  /-- The last cycle of the last step of the previous job, plus 1 (R301); 0: none. -/
  seqFree : Nat := 0
  /-- Past jobs: group, start, last step's last cycle plus 1 (R301). -/
  past : List (GRef × Nat × Nat) := []
  /-- Slots that a cancelled job or a WLOAD has ceased to use, each with the cycle behind (R282). -/
  freed : List (Nat × Nat) := []
  /-- The core's translation buffer (R317). -/
  tlb : List Xlat := []
  /-- The cycle in which the core's ports issued last, and how many of them did (R112). -/
  issuedAt : Nat × Nat := (0, 0)
  deriving DecidableEq, Repr, Inhabited

/-- A board on its way to the tap (R283): it arrives 8 cycles after issue. -/
structure ArmMsg where
  op : Nat
  lowest : Bool
  grp : GRef
  cx : Nat
  slot : Nat
  circ : Nat
  layer : Nat
  bale : Nat
  nw : Bool
  issued : Nat
  /-- An UNBOARD in place of a board: its split, and the answer once the tap has given it (R289). -/
  un : Option (Nat × Option Nat) := none
  deriving DecidableEq, Repr, Inhabited

inductive CircSt where
  | running | stopping | stopped | ended | faulted | removed
  deriving DecidableEq, Repr, Inhabited

/-- A bale on the ring (R275, R276). -/
structure Bale where
  lap : Nat
  layer : Nat
  bale : Nat
  ord : Nat
  lane : Nat
  at_ : Nat
  rev : Bool
  scaled : Bool
  fmtCode : Nat
  scales : List Nat
  tile : Sparse Byte
  poison : Bool
  addr : Nat
  /-- The header's CIRC, its bytes 0x0A0 to 0x3DF, its MAC and its CRC (R275). -/
  circ : Nat := 0
  carried : List Byte := []
  mac : BitVec 128 := 0
  crc : Word := 0
  /-- The bits of its 17 beats, the header's byte 0 lowest, that have come out wrong behind the hop before the tap of flat cluster hop
  (R286). -/
  flips : Nat := 0
  hop : Nat := 0
  /-- Bit c: the header has passed the tap of flat cluster c. -/
  passed : BitVec 24 := 0
  /-- A HELD header waits at this tap, for these slots: core and number (R282). -/
  heldAt : Option Nat := none
  heldFor : List (Nat × Nat) := []
  deriving DecidableEq, Repr, Inhabited

/-- An installed circuit (R274, R277). -/
structure Circuit where
  /-- The MODEL's own number of the installation. -/
  id : Nat
  cx : Nat
  num : Nat
  engine : Nat
  st : CircSt
  mode : Nat
  lanes : BitVec 8
  dir : Nat
  pace : Nat
  nextPace : Option Nat := none
  lapLimit : Nat
  layers : List (Nat × Nat)
  rcb : Nat
  epoch : Nat
  period : Nat
  lap : Nat := 0
  /-- Traversal ordinal of the next bale to inject. -/
  ord : Nat := 0
  /-- The current lap has begun injection (PACED waits for its start). -/
  begun : Bool := true
  ring : List Bale := []
  /-- Bales found corrupted: (layer, bale, lap) of the last detection (R286). -/
  corrupt : List (Nat × Nat × Nat) := []
  /-- Cycles of the injections of the last microsecond, and the last injection per lane. -/
  recent : List Nat := []
  lastInject : List (Nat × Nat) := []
  /-- Lines of the next bale that came from the pod, with their poison, and the request for the next that is out (R331). -/
  feed : List (LineData × Bool) := []
  feedWait : Bool := false
  /-- PACED: laps below this one are skipped, because a step of $GTIME has passed their starts (R351). -/
  skipTo : Nat := 0
  /-- The feeder's reads are late: the bale of a lap and ordinal is injected in a cycle at the earliest (R276, R284). -/
  late : List (Nat × Nat × Nat) := []
  deriving DecidableEq, Repr, Inhabited

/-! ## Copies -/

/-- p: PFL2, which is recorded and matched as copies are (R270). -/
inductive CopyKind where
  | l | t | g | s | x | p
  deriving DecidableEq, Repr, Inhabited

/-- A copy that has issued and not completed (R262). -/
structure Copy where
  id : Nat
  kind : CopyKind
  grp : GRef
  /-- The group's workgroup: kernel and linear index. -/
  cx : Nat
  kernel : Nat
  wg : Nat
  site : Site
  dir : CopyDir
  dst : Nat
  src : Nat
  bytes : Nat
  rowBytes : Nat := 0
  stride : Nat := 0
  index : List Nat := []
  /-- COPYT: extents, strides, ESIZE, SWZ. -/
  layout : Option (List Nat × List Int × Nat × Nat) := none
  cb : Bool
  ctn : Nat
  targets : List (Nat × Nat) := []
  shm : ShMode
  shId : Nat
  shVer : Nat
  iv : Nat := 0
  /-- PQ entries ahead of its marker that it still waits for (R204). -/
  marker : List Nat := []
  /-- Bytes placed so far. -/
  done : Nat := 0
  flags : BitVec 8 := 0
  op : Option Nat := none
  /-- Reserved entry of the group context, else a shared one (R260). -/
  reserved : Bool := true
  /-- A pod read that is out, what it brought (some none: it was not read), and pod writes without their acknowledgement. -/
  podWait : Option Nat := none
  podData : Option (Option LineData) := none
  podPoison : Bool := false
  podOut : Nat := 0
  /-- COPYX: the bytes of the source read so far. -/
  xct : List Byte := []
  /-- PFL2: the first register of the completion word, and `.local`. -/
  regD : Nat := 0
  loc : Bool := false
  gidx : Nat := 0
  /-- COPYX: 0 to open, 1 opened, 2 seal or drop sent, 3 ended. -/
  xst : Nat := 0
  /-- Lines of the present chunk that are poisoned at the destination, with the bytes for them so far and their poison: written when
  every byte is there (R327). -/
  cure : List (Nat × LineData × LineMask × Bool) := []
  /-- The issuer's workgroup as an abort left it, whose scratchpad the copy still reads (R103). -/
  srcWg : Option Workgroup := none
  deriving DecidableEq, Repr, Inhabited

/-! ## Sheaf messages -/

inductive ShMsgKind where
  | open_ | seal | drop | pin | unpin | query
  deriving DecidableEq, Repr, Inhabited

/-- Who writes a sheaf (R230). -/
structure Writer where
  vchip : Nat
  gidx : Nat
  kernel : Nat
  wg : Nat
  deriving DecidableEq, Repr, Inhabited

/-- A message on its way to a descriptor home (R234). op: an operation that waits; split: a stalled split that waits. -/
structure ShMsg where
  id : Nat
  kind : ShMsgKind
  cx : Nat
  sheaf : Nat
  ver : Nat := 0
  writer : Writer := default
  grp : GRef := default
  split : Option Nat := none
  op : Option Nat := none
  copy : Option Nat := none
  region : Nat := 0
  /-- A drop that no SHDROP asks for: *abandon* (R234). -/
  abandon : Bool := false
  /-- COPYX: the sheaf is a proxy or has a member in the pod aperture, so that the copy ends with FAULT (R267). -/
  fault : Bool := false
  deriving DecidableEq, Repr, Inhabited

/-- A seal or drop under way at a descriptor home: member homes that have still to acknowledge (R237, R238): slices of this module,
or 100,000 + the number of another vchip, 200,000 + it once its message has left. -/
structure ShProc where
  drop : Bool
  cx : Nat
  /-- The request of another vchip that awaits the end: its vchip number, vlink, loopback and request number. -/
  remote : Option (Nat × BitVec 32 × Bool × Nat) := none
  sheaf : Nat
  ver : Nat
  left : List Nat
  op : Option Nat := none
  copy : Option Nat := none
  /-- The message that asked for it, where it came from this context. -/
  msg : Option ShMsg := none
  site : Site := default
  deriving DecidableEq, Repr, Inhabited

/-! ## Queues -/

inductive QState where
  | detached | idle | active | paused | draining | error
  deriving DecidableEq, Repr, Inhabited

structure Queue where
  /-- Interface number; 4,096 is the hypervisor queue (R95). -/
  iface : Nat
  cx : Nat := 0
  st : QState := .detached
  qbase : Nat := 0
  qsize : Nat := 0
  wridx : Nat := 0
  rdidx : Nat := 0
  dpend : Bool := false
  drainIdx : Nat := 0
  spause : Bool := false
  gpause : Bool := false
  err : Nat := 0
  erridx : Nat := 0
  /-- Number of commands consumed, to name them. -/
  seq : Nat := 0
  /-- Commands consumed and not complete: number, ring index, IRQ. -/
  inflight : List (Nat × Nat × Bool) := []
  /-- Writes of consumed SIGNALs that are still to be made: number, ring index, address, value (R91). -/
  signals : List (Nat × Nat × Nat × DWord) := []
  deriving DecidableEq, Repr, Inhabited

/-- An entry of the device-side queue with its enqueuer (R96, R97, R111). -/
structure DsqEntry where
  kd : Nat
  arg : Nat
  rcb : Nat
  site : Site
  deriving DecidableEq, Repr, Inhabited

/-! ## The page -/

inductive PageSt where
  | mapped | migrating | far
  /-- An UNMAP has cleared V and waits for the end of its INVAL; true: the page was far. -/
  | unmapping (far : Bool)
  deriving DecidableEq, Repr, Inhabited

/-- A pool page (R321, R324). -/
structure PoolPage where
  page : Nat
  frame : Nat
  sh : Bool
  st : PageSt
  hot : Nat := 0
  cold : Nat := 0
  /-- A sampled access since the last boundary of 1 ms. -/
  seen : Bool := false
  /-- The PQ entries and operations that the page's INVAL still waits for (R320). -/
  waits : List Nat := []
  /-- The far frame that its migration takes (R325). -/
  far : Nat := 0
  deriving DecidableEq, Repr, Inhabited

structure ShareDomain where
  id : Nat
  key : Key
  gen : BitVec 16
  granted : Option Nat := none
  deriving DecidableEq, Repr, Inhabited

/-! ## The link -/

/-- A vlink key entry (R341, R342); phase is PHASE or CUR, seq is SEQ or EXP. -/
structure KeyEntry where
  k0 : Option Key := none
  k1 : Option Key := none
  phase : Bool := false
  seq : Nat := 0
  rolling : Bool := false
  deriving DecidableEq, Repr, Inhabited

/-- The payload of a packet (R331). Requests carry req, the number by which their reply is matched. -/
inductive PktBody where
  /-- plain: sheaf pages are not read (R262). -/
  | load (req : Nat) (addr : Nat) (plain : Bool)
  | merge (req : Nat) (addr : Nat) (data : LineData) (mask : LineMask) (poison : Bool) (site : Site)
  | atomic (req lane : Nat) (addr : Nat) (w64 : Bool) (op : Option Aop) (v cmp : DWord)
  | watch (req : Nat) (addr : Nat) (cmp : WCmp) (u w64 : Bool) (v : DWord)
  | sheaf (req : Nat) (kind : ShMsgKind) (sheaf ver : Nat) (writer : Writer)
  | sealMember (req : Nat) (owner sheaf ver : Nat) (drop : Bool) (site : Site)
  /-- mem: the member of the line, where the sender's module holds the descriptor; some none: it lies outside every member (R236). -/
  | openWrite (req : Nat) (addr : Nat) (owner sheaf ver : Nat) (data : LineData) (mask : LineMask) (mem : Option (Option Nat)) (copy : Bool)
      (poison : Bool) (site : Site)
  | pinned (req lane : Nat) (addr : Nat) (owner sheaf ver : Nat)
  | send (payload : List Word) (site : Site)
  | hint (start len : Nat)
  | rData (req : Nat) (addr : Nat) (data : LineData) (poison : Bool)
  | rAtomic (req lane : Nat) (val : DWord)
  | rAck (req : Nat)
  | rNack (req : Nat) (site : Site)
  /-- The home rejects an open write (R236). -/
  | rReject (req : Nat) (copy : Bool) (site : Site)
  /-- The line is poisoned: the access takes POISON, or its bytes were dropped (R327). -/
  | rPoison (req lane : Nat) (site : Site := default)
  /-- The watch table is full: the watch returns to its core (R228). -/
  | rFull (req : Nat)
  /-- A transport acknowledgement of a packet (R330). -/
  | ack (id : Nat)
  | rWatch (req : Nat) (val : DWord)
  | rSheaf (req : Nat) (word : Word)
  | rPinned (req lane : Nat) (stale : Bool) (data : LineData)
  deriving DecidableEq, Repr, Inhabited

/-- Payload flits of a packet (R329). DEDUCED from the records of R346, which hold 64 bytes more than the payload: one flit of a message,
two of a line, none else (log 47). -/
def PktBody.flits : PktBody → Nat
  | .merge .. | .openWrite .. | .rData .. | .rPinned .. => 2
  | .send .. => 1
  | .load .. | .atomic .. | .watch .. | .sheaf .. | .sealMember .. | .pinned .. | .hint .. | .rAtomic .. | .rAck _ | .rNack ..
  | .rReject .. | .rPoison .. | .rFull _ | .ack _ | .rWatch .. | .rSheaf .. => 0

/-- A packet as it travels (R329, R336, R341). sealedUnder: none on loopback. The key stands for the GCM tag (log 12). -/
structure Packet where
  /-- The number of the SentPkt it was sent as; the MODEL's own. -/
  id : Nat := 0
  pkg : BitVec 16
  cxid : Nat
  vlink : BitVec 32
  loopback : Bool
  phase : Bool := false
  seq : Nat := 0
  sealedUnder : Option Key := none
  intact : Bool := true
  /-- The class of R331: a reply, else a request. -/
  reply : Bool := false
  /-- Payload flits. -/
  len : Nat := 0
  /-- The Nolaty source route (R334); 0 on loopback, where it is ignored. -/
  path : BitVec 48 := 0
  body : PktBody
  deriving DecidableEq, Repr, Inhabited

/-- A packet that a context has sent and that is not acknowledged (R330). -/
structure SentPkt where
  id : Nat
  cx : Nat
  label : Nat
  port : Nat
  since : Nat
  lastSent : Nat
  /-- The destination vchip, and the label that the sender named (0: default). -/
  dest : Nat := 0
  named : Nat := 0
  /-- Not translated yet: a VPOD command holds the context's requests (R338). -/
  untr : Bool := false
  /-- Held at egress: VPOD, an empty key entry, or withheld credits. -/
  held : Bool := false
  /-- On loopback: the ingress has acknowledged it. -/
  acked : Bool := false
  pkt : Packet
  deriving DecidableEq, Repr, Inhabited

/-- What waits for the reply to a request packet (R331). -/
inductive ReqKind where
  | fill (core : Nat) (key : LineKey) (acqs : Nat) (op : Nat)
  | merge (core entry : Nat) (site : Site)
  | atomic (op lane : Nat)
  | watch (op : Nat)
  | sheaf (m : ShMsg)
  | member (cx sheaf ver home : Nat)
  | pinned (op lane : Nat)
  | copyRead (copy : Nat)
  | copyWrite (copy : Nat)
  /-- A line of a bale record for the feeder of an installation. -/
  | feeder (circ : Nat)
  deriving DecidableEq, Repr, Inhabited

/-- A request packet without its reply. -/
structure PodReq where
  id : Nat
  cx : Nat
  addr : Nat
  kind : ReqKind
  /-- A fill that its reply brings may be installed: no newer value of the line has reached the core since (R194 item 5). -/
  install : Bool := true
  deriving DecidableEq, Repr, Inhabited

/-- A watch that a request of another vchip holds at its home here (R227, R228); its reply goes back under req. -/
structure RWatch where
  cx : Nat
  src : Nat
  vlink : BitVec 32
  loopback : Bool
  req : Nat
  key : LineKey
  off : Nat
  cmp : WCmp
  u : Bool
  w64 : Bool
  v : DWord
  deriving DecidableEq, Repr, Inhabited

/-- A granary record (R346): a SEND message with its sender, or a request. -/
inductive GranRec where
  | msg (src : Nat) (payload : List Word)
  | req (id : Nat) (vlink : BitVec 32) (src : Nat) (loopback : Bool) (body : PktBody)
  deriving DecidableEq, Repr, Inhabited

structure Granary where
  /-- Records in log order with their record numbers and their places in the ring. -/
  recs : List (Nat × Nat × GranRec) := []
  next : Nat := 0
  /-- The place of the next record. -/
  head : Nat := 0
  withheld : Bool := false
  restoreArmed : Bool := true
  frames : List Nat := []
  fixed : Bool := false
  replayed : Bool := true
  /-- Records whose bytes a store has overwritten, as the append of a neighbour in their line found them. -/
  bad : List Nat := []
  deriving DecidableEq, Repr, Inhabited

/-- A token bucket (R115): RATE, BURST in KiB, count in bytes, bytes of requests it holds. -/
structure Bucket where
  rate : Nat := 0
  burst : Nat := 0
  count : Int := 0
  lastUs : Nat := 0
  deriving DecidableEq, Repr, Inhabited

/-! ## Contexts -/

inductive CxState where
  | bound | locked | run | sealing | sealed | restoring | halted | error | retired
  deriving DecidableEq, Repr, Inhabited

/-- The binding record (R77). -/
structure BindRec where
  saveBase : Nat := 0
  saveSize : Nat := 0
  rootRcb : Nat := 0
  ptRoot : Nat := 0
  granBase : Nat := 0
  granSize : Nat := 0x10000
  pasid : Nat := 0
  sheafBase : Nat := 0
  sheafN : Nat := 1
  queues : Nat := 1
  layoutN : Nat := 1
  layoutBase : Nat := 0
  frameG : Nat := 0
  frameB : Nat := 0
  vchip : Nat := 0
  hard : BitVec 6 := 0
  lanes : BitVec 8 := 0
  share : Nat := 1
  wdog : Nat := 0
  tdi : Bool := false
  debug : Bool := false
  deriving DecidableEq, Repr, Inhabited

structure Context where
  cxid : Nat
  st : CxState
  bindRec : BindRec := {}
  farHome : Nat := 0
  firstIface : Nat := 0
  slot : Bool := false
  /-- What its key slot holds: the memory, granary and transport keys; none: the slot is cleared (R81). -/
  keySlot : Option (Key × Key × Key) := none
  /-- The keys of a sealed context in its directory entry, each wrapped under the device sealing key (R81). -/
  wrapped : List (List Byte) := []
  gen : BitVec 16 := 1
  memKey : Key := 0
  granKey : Key := 0
  transKey : Key := 0
  /-- The transport key comes from the sealing key: no wrapped key unwraps under it (R345). -/
  noSession : Bool := false
  /-- SETKEY of the memory key since the context last entered BOUND (R95). -/
  keySet : Bool := false
  session : Option Nat := none
  stream : Option Nat := none
  sheafFrames : List Nat := []
  sheafFixed : Bool := false
  lt : Nat := 0
  dsq : List DsqEntry := []
  dsqPaused : Bool := false
  buckets : List (Nat × Bucket) := []
  vchips : Sparse DWord := []
  routes : Sparse (BitVec 128) := []
  mcast : Sparse (BitVec 128) := []
  ingress : Sparse (BitVec 128) := []
  egKeys : List (Nat × KeyEntry) := []
  inKeys : List (Nat × KeyEntry) := []
  downRoutes : List Nat := []
  gran : Granary := {}
  poolLocal : List Nat := []
  poolFar : List Nat := []
  /-- Far frames of metadata, which ADDFAR placed (R323). -/
  farMeta : List Nat := []
  inUse : Nat := 0
  pages : List PoolPage := []
  /-- Word 0 of descriptors of other modules, as queries for WAITVER and SHVER have brought it: sheaf and word (R94, R104). -/
  seenVer : List (Nat × Nat) := []
  /-- Key-domain table: entry, share domain, write grant (R328). -/
  kdt : List (Nat × Nat × Bool) := []
  nextKernel : Nat := 0
  /-- The kernel recorded last from each KD address (R104). -/
  lastRec : List (Nat × Nat) := []
  wdogFrom : Nat := 0
  breakpoints : List Nat := []
  /-- Co-run windows: start and length (R343). -/
  hints : List (Nat × Nat) := []
  /-- Packets from other modules that were discarded unacknowledged: vlink, phase, sequence and cycle of the first of each vlink. No later
  packet of the vlink comes before it (R330). -/
  lostPkts : List (BitVec 32 × Bool × Nat × Nat) := []
  /-- Boundaries of 1 ms of $GTIME that its sampler has taken (R324). -/
  samplerMs : Nat := 0
  deriving DecidableEq, Repr, Inhabited

/-! ## Configuration registers and the module -/

/-- The context command block; pending is a SEAL or RESTORE under way, op and context: BUSY reads 1 then (R74, R76). -/
structure CmdRegs where
  cxid : BitVec 16 := 0
  op : BitVec 8 := 0
  pending : Option (Nat × Nat) := none
  err : BitVec 8 := 0
  st : BitVec 4 := 0
  arg : DWord := 0
  deriving DecidableEq, Repr, Inhabited

/-- The pool command block (R322). Its commands complete in the step of their GO, so BUSY reads 0 between steps. -/
structure PoolRegs where
  cxid : BitVec 16 := 0
  op : BitVec 8 := 0
  err : BitVec 8 := 0
  farg0 : DWord := 0
  farg1 : DWord := 0
  fres : DWord := 0
  deriving DecidableEq, Repr, Inhabited

/-- The link command block; pending is a VPOD under way, its context and its records (table, index, entry): BUSY reads 1 then (R337,
R338). -/
structure LinkRegs where
  cxid : BitVec 16 := 0
  op : BitVec 8 := 0
  pending : Option (Nat × List (Nat × Nat × BitVec 128)) := none
  err : BitVec 8 := 0
  larg0 : DWord := 0
  larg1 : DWord := 0
  larg2 : DWord := 0
  pkgid : BitVec 16 := 0
  portup : BitVec 8 := 0
  deriving DecidableEq, Repr, Inhabited

/-- The physical function's configuration BAR (R74, R115, R322, R337). -/
structure Bar where
  cmd : CmdRegs := {}
  dirBase : DWord := 0
  dirN : BitVec 17 := 0
  rateCxid : BitVec 16 := 0
  rateClass : BitVec 3 := 0
  rate : Word := 0
  burst : Word := 0
  pool : PoolRegs := {}
  link : LinkRegs := {}
  deriving DecidableEq, Repr, Inhabited

/-- The geometry block (R22). -/
structure Geometry where
  clmask : BitVec 24 := 0xFF_FFFF
  slmask : BitVec 144 := BitVec.allOnes 144
  stmask : BitVec 12 := 0xFFF
  pchan : List Nat := [64, 64, 64, 64, 64, 64, 64, 64, 64, 64, 64, 64]
  ptmask : BitVec 8 := 0xFF
  deriving DecidableEq, Repr, Inhabited

/-- A boot step log entry (R364). -/
structure BootEntry where
  step : BitVec 8
  outcome : BitVec 8
  attempts : BitVec 16
  start : BitVec 32
  gtime : BitVec 64
  deriving DecidableEq, Repr, Inhabited

structure SpdmSession where
  id : Nat
  secret : Nat
  authenticated : Bool := false
  mldsa : Bool := false
  deriving DecidableEq, Repr, Inhabited

/-- Start, power and management (R18, R19, R359 to R368). -/
structure Module where
  geo : Geometry := {}
  measure : List (BitVec 384) := []
  bootLog : List BootEntry := []
  startCount : BitVec 32 := 1
  recordVersion : BitVec 32 := 0
  retired : List Nat := []
  /-- Corrected reads that the MC has counted (R327). -/
  corrections : Nat := 0
  /-- The retired frames that this start found in the list: they are absent (R365). -/
  absent : List Nat := []
  /-- Pseudo-channels, by stack, that the next start maps out because the list was full (R365). -/
  pcOut : List (Nat × Nat) := []
  /-- Those that this start has mapped out (R365). -/
  pcGone : List (Nat × Nat) := []
  /-- The serial number of the configuration record (R363). -/
  serial : Nat := 0
  recovery : Bool := false
  hbmRate : Nat := 10
  sealingKey : Key := 0
  powerCapped : Bool := false
  /-- Units held stopped (R359). -/
  idle : List IdleUnit := []
  /-- A recovery command in progress: context and step of R86 (R367). -/
  recovering : Option (Nat × Nat) := none
  /-- What the start finds that ends the warm reset in progress (R368). -/
  warmIn : Option StartIn := none
  sessions : List SpdmSession := []
  /-- The export master secret of the physical function's latest session since start (R345). -/
  lastSession : Option Nat := none
  ideStreams : List (Nat × Key) := []
  /-- The key of the link IDE stream (R352). -/
  linkIde : Option Key := none
  /-- Signed responses sent: the session, or the number under which a requester outside one asks, and the kind (R354). -/
  signed : List (Nat × SpdmSigned) := []
  domains : List ShareDomain := []
  samplers : List (Nat × Nat) := []
  deriving DecidableEq, Repr, Inhabited

/-- The TDISP states that a TDI reports (R71). -/
inductive TdispSt where
  | configUnlocked | configLocked | run | error
  deriving DecidableEq, Repr, Inhabited

/-- What the device interface report of a TDI lists (R353). -/
structure TdiReport where
  /-- The notify pages, as BAR 2 offsets: the first, and the one after the last. -/
  first : Nat
  stop : Nat
  pasid : Nat
  /-- SHA-384 of the binding record. -/
  digest : BitVec 384
  state : Option TdispSt
  deriving DecidableEq, Repr, Inhabited

/-- What the device tells host software (R71, R94, R154, R158, R327, R330, R341, R343, R348, R350, R364, R366). -/
inductive HostEvent where
  | trapHost (cx tframe code : Nat)
  | msix (iface : Nat)
  | granRestore (cx : Nat)
  | ptpLock
  | cxFault (cx cause : Nat)
  | faultLog (cx type : Nat)
  | memErr (line : Nat)
  | linkDown (port label : Nat)
  | rekey (cx index : Nat)
  | corun (cx start len : Nat)
  | retired (cx : Nat)
  | recoveryReply (code : Nat) (cxState : Nat) (log : Option BootEntry)
  /-- signatures: 0 none, 1 Ed25519, 2 ML-DSA-65 (R354). slots: what MEASUREMENTS reports (R362). -/
  | spdmReply (session code : Nat) (signatures : Nat) (slots : List (BitVec 384) := [])
  /-- The certificate chain of a slot, by the algorithm of its key: 1 Ed25519, 2 ML-DSA-65 (R354). -/
  | certificate (session slot algorithm : Nat)
  /-- An Unsupported Request answers an access of a TDI's notify page (R352). -/
  | unsupported (iface : Nat)
  | tdispState (cx : Nat) (st : TdispSt)
  /-- The device interface report that a TDISP message asks for (R353). -/
  | tdiReport (session cx : Nat) (r : TdiReport)
  | hostWrite (pasid addr : Nat)
  deriving DecidableEq, Repr, Inhabited

/-! ## Moves -/

/-- Who moves next: a split issues, or another agent takes the step of a row without a word. -/
inductive Act where
  | issue (core gctx split : Nat)
  | event (i : Instr)
  /-- The same of an access of the host that arrives on an IDE stream (R352). -/
  | access (stream : Nat) (i : Instr)
  /-- The surroundings: the cores whose temperature is above their thermal threshold from now on (R114). -/
  | ambient (hot : List Nat)
  /-- The surroundings: so many 16-bit symbols of a line go wrong in memory (R326). -/
  | upset (line symbols : Nat)
  /-- An integrity failure on a selective IDE stream (R352). -/
  | ideFailure (stream : Nat)
  /-- A destination on another module withholds its credits, from SEND alone or from every request, or returns them: none (R348). -/
  | credit (pkg : BitVec 16) (cxid : Nat) (held : Option Bool)
  /-- A vendor-defined message that carries a recovery command as its bytes (R366). inp: what a start finds, for WARMRESET. -/
  | mctp (session : Nat) (command zero : Byte) (cxid : BitVec 16) (arg : DWord) (inp : StartIn)
  deriving DecidableEq, Repr, Inhabited

/-- An object at which the events of one cycle have a stated order (R8). -/
inductive Obj where
  /-- A context (R73). -/
  | ctx (cx : Nat)
  /-- A queue (R90). -/
  | queue (iface : Nat)
  /-- A group context (R117). -/
  | group (r : GRef)
  /-- A flag of a group (R31). -/
  | flag (r : GRef) (n : Nat)
  /-- A line at its home (R213, R228). -/
  | home (pod : Bool) (n : Nat)
  /-- A line of a core's L1 (R209). -/
  | l1 (core : Nat) (k : LineKey)
  /-- A sheaf descriptor (R235). -/
  | desc (cx id : Nat)
  /-- The barriers of a workgroup (R255). -/
  | bars (cx kernel l : Nat)
  /-- A barrier's held arrivals (R255). -/
  | held (cx kernel l bar : Nat)
  /-- A tag of a workgroup (R256). -/
  | tag (cx kernel l t : Nat)
  /-- A circuit's installation (R281). -/
  | circ (id : Nat)
  /-- The slots of a core with their boards (R283, R295). -/
  | tile (core : Nat)
  deriving DecidableEq, Repr, Inhabited

/-- A move after dt cycles. -/
structure Move where
  dt : Nat
  act : Act
  deriving DecidableEq, Repr, Inhabited

/-- The issuing split. -/
structure Issuer where
  core : Nat := 0
  gctx : Nat := 0
  split : Nat := 0
  deriving DecidableEq, Repr, Inhabited

/-- An offer of XCHG (R187). -/
structure Offer where
  op : Nat
  grp : GRef
  cx : Nat
  kernel : Nat
  wg : Nat
  gidx : Nat
  partnerWg : Nat
  partnerGrp : Nat
  tag : Nat
  data : List Word
  mask : LaneMask
  posted : Nat
  deriving DecidableEq, Repr, Inhabited

/-- A claimed sheaf page (R232): the first frame of slot 0, the frames of a slot, the context of its home, the vchip that it is bound to,
and an address in it. -/
structure SheafPage where
  frame : Nat
  dist : Nat
  home : Nat
  owner : Nat
  va : Nat
  deriving DecidableEq, Repr, Inhabited

/-- The state of the module. -/
structure State where
  cycle : Nat := 0
  gtime : Nat := 0
  gtimeSub : Nat := 0
  slew : Nat := 0
  ptpSync : Bool := false
  modl : Module := {}
  bar : Bar := {}
  mem : List Host.Cell := []
  lineMeta : Sparse LineMeta := []
  /-- Claimed sheaf pages (R232). -/
  sheafOwner : List SheafPage := []
  /-- The latest version that a home has sealed: context of the home, owning vchip, sheaf, slice, version (R239). A seal of another
  vchip's sheaf reaches every slice at once and stands under slice 1,000. -/
  shSealed : List (Nat × Nat × Nat × Nat × Nat) := []
  /-- Host memory: address a under a PASID stands at pasid × 2^64 + a; physical addresses, of the hypervisor queue, at
  2^20 × 2^64 + a (R87, R95). -/
  hostMem : List Host.Cell := []
  /-- What the host refuses: PASID, first address, length (R91). -/
  hostDenied : List (Nat × Nat × Nat) := []
  /-- The IDE stream on which the host's access of this step arrives; none: without IDE (R352). -/
  hostStream : Option Nat := none
  l2 : List L2Line := []
  ccopies : List CCopy := []
  /-- Cores that hold a pushed copy of a line, as the home recorded them (R203). -/
  pushed : List (LineKey × Nat) := []
  cores : List Core := []
  sectorTlb : List (Nat × Xlat) := []
  groups : List Group := []
  wgs : List Workgroup := []
  images : List Image := []
  kernels : List Kernel := []
  rcbs : List Rcb := []
  ctxs : List Context := []
  queues : List Queue := []
  ops : List PendOp := []
  offers : List Offer := []
  walks : List FailedWalk := []
  copies : List Copy := []
  circuits : List Circuit := []
  arms : List ArmMsg := []
  fills : List FillMsg := []
  cfills : List CfillMsg := []
  merges : List MergeMsg := []
  invals : List InvalMsg := []
  pushes : List PushMsg := []
  stsrs : List StsrMsg := []
  shMsgs : List ShMsg := []
  shProcs : List ShProc := []
  sent : List SentPkt := []
  net : List Packet := []
  /-- Packets put on the ports, in order. -/
  wire : List Packet := []
  reqs : List PodReq := []
  rwatches : List RWatch := []
  /-- Destinations on other modules that withhold their credits: package, context, and whether every request is held, not SEND alone
  (R348). -/
  heldDests : List (BitVec 16 × Nat × Bool) := []
  hostEvents : List HostEvent := []
  /-- The model's own counters: identifiers given out, free values drawn, keys drawn. -/
  nextId : Nat := 1
  freeCount : Nat := 0
  keysDrawn : Nat := 0
  issuer : Issuer := {}
  schedule : List Move := []
  /-- What has been taken in the current cycle at objects whose chapter orders the events of one cycle: object and place in that order
  (R8). The MODEL's own. -/
  taken : List (Obj × Nat) := []
  /-- The cycle from which each sector may place again, of those that have placed (R105). -/
  placeFree : List (Nat × Nat) := []
  /-- Cores above their thermal threshold (R114). -/
  hot : List Nat := []
  /-- An access of an engine in the step under way has met a page in migration (R316). The MODEL's own. -/
  migWait : Bool := false
  deriving DecidableEq, Repr, Inhabited

/-- The module right after its start (R362): every context is FREE (R71), nothing is resident, the registers of the BAR hold
their reset values, the hypervisor queue is IDLE (R95), $GTIME counts from 0 (R350). The geometry is that of a full module
(log 3). -/
def State.reset : State :=
  { queues := [{ iface := 4096, st := .idle }] }

end Sys2Proof.Machine
end

