-- ==== Sys2Proof/Machine/Mem.lean ====
section
/-! DEFINITION. The named operations over memory: canonical sparse maps, bytes and lines, key domains and poison (R326, R327), the slots
of sheaf pages (R233), the page walk and the translation caches (R316 to R318). -/

namespace Sys2Proof.Machine

/-! ## Sparse maps -/

/-- The value at a key; a key that is not listed reads as d. -/
def sget {α : Type} (d : α) : Sparse α → Nat → α
  | [], _ => d
  | (a, v) :: t, k => if k = a then v else sget d t k

/-- A new key takes its place among rising keys. -/
def sins {α : Type} (k : Nat) (v : α) : Sparse α → Sparse α
  | [] => [(k, v)]
  | (a, w) :: t => if k < a then (k, v) :: (a, w) :: t else (a, w) :: sins k v t

/-- Writes one key and keeps the canonical form: keys strictly rising, no entry equal to d. -/
def sput {α : Type} [DecidableEq α] (d : α) (m : Sparse α) (k : Nat) (v : α) : Sparse α :=
  let rest := m.filter fun e => e.1 != k
  if v = d then rest else sins k v rest

/-- Writes consecutive keys. -/
def sputRun {α : Type} [DecidableEq α] (d : α) (m : Sparse α) (k : Nat) : List α → Sparse α
  | [] => m
  | v :: vs => sput d (sputRun d m (k + 1) vs) k v

/-- The values of n consecutive keys. -/
def sgetRun {α : Type} (d : α) (m : Sparse α) (k n : Nat) : List α := (List.range n).map fun i => sget d m (k + i)

/-- The canonical form of a sparse map. -/
def Sparse.wf {α : Type} [DecidableEq α] (d : α) : Sparse α → Bool
  | [] => true
  | [(_, v)] => v != d
  | (a, v) :: (b, w) :: t => decide (a < b) && v != d && Sparse.wf d ((b, w) :: t)

/-- Memory in canonical form: addresses strictly rising, no entry equal to what an unlisted byte reads as (log 1). -/
def Memory.wf (m : List Host.Cell) : Bool := Sparse.wf (0 : Byte) m

/-! ## Bytes -/

/-- The number that little-endian bytes give (R2). -/
def leNat : List Byte → Nat
  | [] => 0
  | b :: bs => b.toNat + 256 * leNat bs

/-- The n little-endian bytes of a number. -/
def leBytes : Nat → Nat → List Byte
  | 0, _ => []
  | n + 1, v => BitVec.ofNat 8 v :: leBytes n (v / 256)

def rdMem (m : List Host.Cell) (a n : Nat) : Nat := leNat (sgetRun 0 m a n)

def wrMem (m : List Host.Cell) (a n v : Nat) : List Host.Cell := sputRun 0 m a (leBytes n v)

/-- The bytes of a line, byte 0 first. -/
def lineBytes (d : LineData) : List Byte := leBytes 128 d.toNat

def lineOf (bs : List Byte) : LineData := BitVec.ofNat 1024 (leNat bs)

/-- The n bytes from offset off of a line, as a number. -/
def lineNat (d : LineData) (off n : Nat) : Nat := d.toNat / 2 ^ (8 * off) % 2 ^ (8 * n)

/-- A mask of n bytes from off. -/
def maskOf (off n : Nat) : LineMask := BitVec.ofNat 128 ((2 ^ n - 1) * 2 ^ off)

def maskBytes (m : LineMask) : Nat := ((List.range 128).filter fun i => m.getLsbD i).length

/-- The line with the masked bytes of new in place of those of old. -/
def mergeLine (old new : LineData) (mask : LineMask) : LineData :=
  lineOf ((List.range 128).map fun i =>
    if mask.getLsbD i then BitVec.ofNat 8 (lineNat new i 1) else BitVec.ofNat 8 (lineNat old i 1))

/-- A line that holds bs from off on and 0 elsewhere. -/
def lineAt (off : Nat) (bs : List Byte) : LineData := BitVec.ofNat 1024 (leNat bs * 2 ^ (8 * off))

/-! ## Lists of objects -/

/-- Applies f to every object that p holds of. -/
def upd {α : Type} (p : α → Bool) (f : α → α) (l : List α) : List α := l.map fun x => if p x then f x else x

/-- Replaces the first object that p holds of, or adds the object at the end. -/
def putFirst {α : Type} (p : α → Bool) (x : α) : List α → List α
  | [] => [x]
  | y :: t => if p y then x :: t else y :: putFirst p x t

/-- The numbers below n that p holds of, in ascending order. -/
def filterRange (n : Nat) (p : Nat → Bool) : List Nat := (List.range n).filter p

/-- The lanes of a mask, in ascending order. -/
def lanesOf (m : LaneMask) : List Nat := filterRange 32 fun i => m.getLsbD i

def maskOfLanes (l : List Nat) : LaneMask := l.foldl (fun m i => m ||| BitVec.ofNat 32 (2 ^ i)) 0

/-- The lowest number of 0 .. n that l does not hold, or none. -/
def lowestFree (n : Nat) (used : Nat → Bool) : Option Nat := (List.range n).find? fun i => !used i

/-- Insertion into a list that rises by key. -/
def insertBy {α : Type} (key : α → Nat) (x : α) : List α → List α
  | [] => [x]
  | y :: t => if key x ≤ key y then x :: y :: t else y :: insertBy key x t

def sortBy {α : Type} (key : α → Nat) (l : List α) : List α := l.foldr (insertBy key) []

/-! ## Objects of the state -/

def State.ctx? (s : State) (cx : Nat) : Option Context := s.ctxs.find? fun c => c.cxid == cx

def State.updCtx (s : State) (cx : Nat) (f : Context → Context) : State :=
  { s with ctxs := upd (fun c => c.cxid == cx) f s.ctxs }

def State.group? (s : State) (r : GRef) : Option Group := s.groups.find? fun g => g.ref == r

def State.updGroup (s : State) (r : GRef) (f : Group → Group) : State :=
  { s with groups := upd (fun g => g.ref == r) f s.groups }

/-- The core's record; a core that nothing has touched is as reset leaves it. -/
def State.core (s : State) (n : Nat) : Core := (s.cores.find? fun c => c.n == n).getD { n := n }

def State.updCore (s : State) (n : Nat) (f : Core → Core) : State :=
  { s with cores := putFirst (fun c => c.n == n) (f (s.core n)) s.cores }

def Group.split? (g : Group) (id : Nat) : Option Split := g.splits.find? fun p => p.id == id

def Group.updSplit (g : Group) (id : Nat) (f : Split → Split) : Group :=
  { g with splits := upd (fun p => p.id == id) f g.splits }

def State.updSplit (s : State) (r : GRef) (id : Nat) (f : Split → Split) : State :=
  s.updGroup r fun g => g.updSplit id f

def State.kernel? (s : State) (cx id : Nat) : Option Kernel := s.kernels.find? fun k => k.cx == cx && k.id == id

def State.updKernel (s : State) (cx id : Nat) (f : Kernel → Kernel) : State :=
  { s with kernels := upd (fun k => k.cx == cx && k.id == id) f s.kernels }

def State.rcb? (s : State) (cx addr : Nat) : Option Rcb := s.rcbs.find? fun r => r.cx == cx && r.addr == addr

def State.updRcb (s : State) (cx addr : Nat) (f : Rcb → Rcb) : State :=
  { s with rcbs := upd (fun r => r.cx == cx && r.addr == addr) f s.rcbs }

def State.wg? (s : State) (cx kernel l : Nat) : Option Workgroup :=
  s.wgs.find? fun w => w.cx == cx && w.kernel == kernel && w.l == l

def State.updWg (s : State) (cx kernel l : Nat) (f : Workgroup → Workgroup) : State :=
  { s with wgs := upd (fun w => w.cx == cx && w.kernel == kernel && w.l == l) f s.wgs }

/-- The workgroup of a group. -/
def State.wgOf (s : State) (g : Group) : Option Workgroup := s.wg? g.cx g.kernel g.wg

def State.updWgOf (s : State) (g : Group) (f : Workgroup → Workgroup) : State := s.updWg g.cx g.kernel g.wg f

def State.op? (s : State) (id : Nat) : Option PendOp := s.ops.find? fun o => o.id == id

def State.updOp (s : State) (id : Nat) (f : PendOp → PendOp) : State :=
  { s with ops := upd (fun o => o.id == id) f s.ops }

def State.dropOp (s : State) (id : Nat) : State := { s with ops := s.ops.filter fun o => o.id != id }

def State.queue? (s : State) (i : Nat) : Option Queue := s.queues.find? fun q => q.iface == i

def State.updQueue (s : State) (i : Nat) (f : Queue → Queue) : State :=
  { s with queues := upd (fun q => q.iface == i) f s.queues }

/-- The installed circuit of a local number. -/
def State.circ? (s : State) (cx num : Nat) : Option Circuit :=
  s.circuits.find? fun c => c.cx == cx && c.num == num && c.st != .removed

def State.updCirc (s : State) (id : Nat) (f : Circuit → Circuit) : State :=
  { s with circuits := upd (fun c => c.id == id) f s.circuits }

/-- A new identifier of the model's own. -/
def State.fresh (s : State) : Nat × State := (s.nextId, { s with nextId := s.nextId + 1 })

/-- A new open value (log 5). -/
def State.drawNat (s : State) : Nat × State := (Config.freeNat s.freeCount, { s with freeCount := s.freeCount + 1 })

def State.drawBool (s : State) : Bool × State := (Config.freeBool s.freeCount, { s with freeCount := s.freeCount + 1 })

def State.drawKey (s : State) : Key × State := (Config.drbg s.keysDrawn, { s with keysDrawn := s.keysDrawn + 1 })

def State.emit (s : State) (e : HostEvent) : State := { s with hostEvents := s.hostEvents ++ [e] }

/-! ## Geometry (R5, R11, R21, R22) -/

def coreCluster (core : Nat) : Nat := core / 32
def coreSector (core : Nat) : Nat := core / 128
def clusterSector (cl : Nat) : Nat := cl / 4

def State.clusterPresent (s : State) (cl : Nat) : Bool := decide (cl < 24) && s.modl.geo.clmask.getLsbD cl

def State.corePresent (s : State) (core : Nat) : Bool := s.clusterPresent (coreCluster core)

/-- NCORE of R22. -/
def Geometry.ncore (g : Geometry) : Nat := 32 * ((List.range 24).filter fun i => g.clmask.getLsbD i).length

/-- The bytes that an HBM stack offers: 768 MiB for each pseudo-channel present (R21); those from the stack's base on (log 14). -/
def State.stackSize (s : State) (n : Nat) : Nat :=
  if s.modl.geo.stmask.getLsbD n then s.modl.geo.pchan.getD n 0 * 0x3000_0000 else 0

/-- The addresses of a stack from its base on that its record gives it, those of pseudo-channels that R365 has mapped out among them: the
one numbered i holds the i-th 768 MiB (log 14). -/
def State.stackSpan (s : State) (n : Nat) : Nat :=
  s.stackSize n + (s.modl.pcGone.filter fun e => e.1 == n).length * 0x3000_0000

/-- The context that a sector is hard for (R70, R214); none: the soft pool. -/
def State.sectorOf (s : State) (sec : Nat) : Option Nat :=
  (s.ctxs.find? fun c => c.bindRec.hard.getLsbD sec && c.st != .retired).map (·.cxid)

/-- A sector that can be placed in a partition (R21). -/
def State.sectorUsable (s : State) (sec : Nat) : Bool :=
  ((List.range 4).any fun i => s.clusterPresent (4 * sec + i)) && ((List.range 2).any fun i => decide (s.stackSize (2 * sec + i) > 0))

/-- The sectors that a context's workgroups may be placed in: those of its HARD, or the soft pool (R15, R17), less the sectors that can be
placed in no partition (R21). -/
def State.sectorsFor (s : State) (cx : Nat) : List Nat :=
  match s.ctx? cx with
  | none => []
  | some c => filterRange 6 fun sec =>
      s.sectorUsable sec && (if c.bindRec.hard = 0 then (s.sectorOf sec).isNone else c.bindRec.hard.getLsbD sec)

/-- The present clusters of the candidate sectors, in ascending order. -/
def State.clustersFor (s : State) (cx : Nat) : List Nat :=
  let secs := s.sectorsFor cx
  filterRange 24 fun cl => s.clusterPresent cl && secs.contains (clusterSector cl)

/-- A physical address that lies in present memory (R312). -/
def State.present (s : State) (pa : Nat) : Bool :=
  let n := pa / Config.stackBytes
  let o := pa % Config.stackBytes
  decide (n < 12) && decide (o < s.stackSpan n) && !s.modl.pcGone.contains (n, o / 0x3000_0000) && !s.modl.absent.contains (pa / 65536)

/-- The sector that homes a physical line (R312), a far line at the far-home sector of its context (R323). -/
def State.homeSector (s : State) (k : LineKey) : Nat :=
  if 128 * k.n < Config.farBase then 128 * k.n / Config.stackBytes / 2
  else ((s.ctx? k.cx).map (·.farHome)).getD 0

/-- The slice of a sector for a line, by the hash of R207 over the sector's present slices. Where all 24 slices of the sector are mapped
out, the model takes the sector's slice 0 (DESIGN CHOICE, log 41: R21 spreads a sector's homes over its remaining slices and does not say
what holds them where none remains). -/
def State.sliceIn (s : State) (sec n : Nat) : Nat :=
  let sl := filterRange 24 fun i => s.modl.geo.slmask.getLsbD (24 * sec + i)
  24 * sec + sl.getD (Config.sliceHash n % sl.length) 0

/-- The slice that holds a line's home (R207). -/
def State.homeSlice (s : State) (k : LineKey) : Nat := s.sliceIn (s.homeSector k) k.n

/-! ## Key domains, poison and lines at their homes -/

/-- The key and generation of a key-domain select of a context (R315, R328). -/
def State.domain (s : State) (cx kds : Nat) : Option (Key × BitVec 16) :=
  match s.ctx? cx with
  | none => none
  | some c =>
    if kds = 0 then some (c.memKey, c.gen)
    else
      match c.kdt.find? fun e => e.1 == kds with
      | none => none
      | some (_, id, _) => (s.modl.domains.find? fun d => d.id == id).map fun d => (d.key, d.gen)

def State.lmeta (s : State) (n : Nat) : LineMeta := sget {} s.lineMeta n

def State.setMeta (s : State) (n : Nat) (m : LineMeta) : State := { s with lineMeta := sput {} s.lineMeta n m }

/-- A line of far memory. -/
def farLine (n : Nat) : Bool := decide (Config.farBase ≤ 128 * n)

/-- Errors that its ECC cannot correct, or that the MAC finds: more than one symbol of a line of HBM, any of a far line (R326, R327). -/
def LineMeta.lost (m : LineMeta) (n : Nat) : Bool := decide (m.wrong > (if farLine n then 0 else 1))

/-- A line that reads as poisoned: marked, beyond correction, or written under another key or an earlier generation (R327). A line that
nothing has written since start carries no stamp (log 1). -/
def State.poisoned (s : State) (n : Nat) (dom : Option (Key × BitVec 16)) : Bool :=
  let m := s.lmeta n
  m.poison || m.lost n || (m.stamp.isSome && m.stamp != dom)

/-- The bytes of a physical line. -/
def State.physLine (s : State) (n : Nat) : LineData := lineOf (sgetRun 0 s.mem (128 * n) 128)

/-- A frame is retired; with the list of 4,096 full, its pseudo-channel is (R328, R365). -/
def State.retireFrame (s : State) (f : Nat) : State :=
  let pc := (f * 65536 / Config.stackBytes, f * 65536 % Config.stackBytes / 0x3000_0000)
  if s.modl.retired.contains f then s
  else if s.modl.retired.length < 4096 then { s with modl := { s.modl with retired := s.modl.retired ++ [f] } }
  else if s.modl.pcOut.contains pc then s
  else { s with modl := { s.modl with pcOut := s.modl.pcOut ++ [pc] } }

/-- The first detection of a poisoned line raises MEMERR (R327); a line of a share domain has its frame retired (R328). A corrected error is
counted for the MC. -/
def State.noteRead (s : State) (n : Nat) (dom : Option (Key × BitVec 16)) (kds : Nat) : State :=
  if s.poisoned n dom then
    let m := s.lmeta n
    let s1 := s.setMeta n { m with poison := m.poison || m.lost n, reported := true }
    let s2 := if m.reported then s1 else s1.emit (.memErr n)
    if kds ≠ 0 then s2.retireFrame (n / 512) else s2
  else if (s.lmeta n).wrong ≠ 0 then { s with modl := { s.modl with corrections := s.modl.corrections + 1 } }
  else s

/-- Writes the masked bytes of a physical line under a key domain, that of an entry kds. A write that does not cover a poisoned line is
dropped, and the answer says so (R327). -/
def State.mergePhys (s0 : State) (n : Nat) (dom : Option (Key × BitVec 16)) (kds : Nat) (data : LineData) (mask : LineMask) :
    State × Bool :=
  let s := if mask != BitVec.allOnes 128 then s0.noteRead n dom kds else s0
  if s0.poisoned n dom && mask != BitVec.allOnes 128 then (s, false)
  else
    let m : LineMeta := { s.lmeta n with wrong := 0 }
    let m' : LineMeta := if mask == BitVec.allOnes 128 then { m with poison := false, reported := false } else m
    let bytes := lineBytes (mergeLine (s.physLine n) data mask)
    (({ s with mem := sputRun 0 s.mem (128 * n) bytes }).setMeta n { m' with stamp := dom }, true)

/-- Writes a full line with a poison mark (R262, R325). -/
def State.poisonLine (s : State) (n : Nat) (dom : Option (Key × BitVec 16)) : State :=
  let s1 := { s with mem := sputRun 0 s.mem (128 * n) (lineBytes 0) }
  s1.setMeta n { s1.lmeta n with stamp := dom, poison := true, wrong := 0, reported := false }

/-! ### Tags of sheaf slots (R233) -/

structure Tag where
  id : Nat := 0
  ver : Nat := 0
  isOpen : Bool := false
  valid : Bool := false
  cur : Bool := false
  orig : Bool := false
  member : Nat := 0
  deriving DecidableEq, Repr, Inhabited

def Tag.ofWord (w : Word) : Tag :=
  { id := (w.extractLsb' 20 12).toNat, ver := (w.extractLsb' 8 12).toNat, isOpen := w.getLsbD 7, valid := w.getLsbD 6,
    cur := w.getLsbD 5, orig := w.getLsbD 4, member := (w.extractLsb' 0 3).toNat }

def Tag.word (t : Tag) : Word :=
  BitVec.ofNat 12 t.id ++ BitVec.ofNat 12 t.ver ++ BitVec.ofBool t.isOpen ++ BitVec.ofBool t.valid
    ++ BitVec.ofBool t.cur ++ BitVec.ofBool t.orig ++ 0#1 ++ BitVec.ofNat 3 t.member

def State.tag (s : State) (n : Nat) : Tag := Tag.ofWord (s.lmeta n).tag

def State.setTag (s : State) (n : Nat) (t : Tag) : State := s.setMeta n { s.lmeta n with tag := t.word }

/-- The physical line of slot b of a line of a sheaf page (R232, R315). -/
def LineKey.slot (k : LineKey) (b : Nat) : Nat := k.n + (if b = 0 then 0 else k.sh * 512)

/-- The slot that holds a line's latest sealed content; none: unclaimed (R233). -/
def State.curSlot (s : State) (k : LineKey) : Option Nat :=
  let t0 := s.tag (k.slot 0)
  let t1 := s.tag (k.slot 1)
  if t1.valid && t1.cur then some 1 else if t0.valid && t0.cur then some 0
  else if !t0.valid && !t1.valid then none else some 0

/-- The physical line that a plain read of a line takes; none: it reads 0 (R242). -/
def State.curLine (s : State) (k : LineKey) : Option Nat :=
  if k.sh = 0 then some k.n else (s.curSlot k).map k.slot

/-- What the home of a line on this module gives to a read: the line and whether it is poisoned. -/
def State.homeRead (s : State) (k : LineKey) : LineData × Bool :=
  match s.curLine k with
  | none => (0, false)
  | some n => (s.physLine n, s.poisoned n (s.domain k.cx k.kds))

/-- The side of a read at the home: MEMERR at the first detection of poison. -/
def State.homeNote (s : State) (k : LineKey) : State :=
  match s.curLine k with
  | none => s
  | some n => s.noteRead n (s.domain k.cx k.kds) k.kds

/-- Two keys name one line at its home. A physical line carries its key domain, so that a line of another context misses (R84): its own
key, or that of a share domain, of which the contexts that share a frame have the same (R328). -/
def LineKey.same (a b : LineKey) : Bool :=
  a.pod == b.pod && a.n == b.n && ((a.cx == b.cx && a.kds == b.kds) || (!a.pod && a.kds != 0 && b.kds != 0))

/-! ### Watches (R228) -/

/-- The comparison of a watch. -/
def watchHolds (cmp : WCmp) (u w64 : Bool) (x v : Nat) : Bool :=
  let n := if w64 then 64 else 32
  let sx : Int := if x < 2 ^ (n - 1) then x else (x : Int) - 2 ^ n
  let sv : Int := if v < 2 ^ (n - 1) then v else (v : Int) - 2 ^ n
  match cmp with
  | .eq => x == v
  | .ne => x != v
  | .ge => if u then decide (v ≤ x) else decide (sv ≤ sx)
  | .gt => if u then decide (v < x) else decide (sv < sx)
  | .le => if u then decide (x ≤ v) else decide (sx ≤ sv)
  | .lt => if u then decide (x < v) else decide (sx < sv)
  | .bitset => (BitVec.ofNat 64 x &&& BitVec.ofNat 64 v) != 0

/-- A held watch on the line sees the value that its home now holds; when the comparison holds it is woken and its entry freed. -/
def State.wakeOp (s : State) (k : LineKey) (o : PendOp) : PendOp :=
  match o.kind with
  | .watch va wk off cmp u w64 v sc d (some h) none =>
    if wk.same k && decide (h < 1000) then
      let x := lineNat (s.homeRead wk).1 off (if w64 then 8 else 4)
      if watchHolds cmp u w64 x v.toNat then
        { o with kind := .watch va wk off cmp u w64 v sc d none (some (BitVec.ofNat 64 x)) }
      else o
    else o
  | _ => o

/-- A VCHIP entry: PKG, CXID and default route (R333); none: V = 0. -/
def Context.vchip? (c : Context) (n : Nat) : Option (BitVec 16 × Nat × Nat) :=
  let e := sget 0 c.vchips n
  if e.getLsbD 63 then some (e.extractLsb' 32 16, (e.extractLsb' 16 16).toNat, (e.extractLsb' 0 16).toNat) else none

/-! ## Rate limiters (R115, R116) -/

def bucketOf (c : Context) (cls : Nat) : Bucket := ((c.buckets.find? fun b => b.1 == cls).map (·.2)).getD {}

def Context.setBucket (c : Context) (cls : Nat) (b : Bucket) : Context :=
  { c with buckets := putFirst (fun x : Nat × Bucket => x.1 == cls) (cls, b) c.buckets }

/-- Microseconds since start. -/
def State.nowUs (s : State) : Nat := s.cycle / 2250

/-- Tokens accrue at RATE up to BURST. -/
def Bucket.accrue (b : Bucket) (us : Nat) : Bucket :=
  { b with count := min (b.count + b.rate * (us - b.lastUs)) (1024 * b.burst), lastUs := us }

/-- Every one of the buckets holds a positive count; RATE = 0 is unlimited. -/
def State.admits (s : State) (cx : Nat) (cls : List Nat) : Bool :=
  match s.ctx? cx with
  | none => true
  | some c => cls.all fun k => (bucketOf c k).rate == 0 || decide (0 < ((bucketOf c k).accrue s.nowUs).count)

/-- Admission subtracts the request's bytes. -/
def State.spend (s : State) (cx : Nat) (cls : List Nat) (n : Nat) : State :=
  cls.foldl (fun s k => s.updCtx cx fun c =>
    let b := (bucketOf c k).accrue s.nowUs
    if b.rate = 0 then c else c.setBucket k { b with count := b.count - n }) s

/-- A request of n bytes is admitted; none: the limiter holds it. -/
def State.takeRequest (s : State) (cx : Nat) (cls : List Nat) (n : Nat) : Option State :=
  if s.admits cx cls then some (s.spend cx cls n) else none

def clsHbm : Nat := 0
def clsRing : Nat := 1
def clsPod : Nat := 2
def clsHost : Nat := 3
def clsFar : Nat := 4

/-- DESIGN CHOICE (log 47): the classes of a request for a line homed on this module: HBM or the far-memory port, and the sector ring
where it crosses to another sector. Lines of the pod are charged as their packets leave (R331). -/
def State.lineClasses (s : State) (core : Nat) (k : LineKey) : List Nat :=
  if k.pod then []
  else (if 128 * k.n ≥ Config.farBase then clsFar else clsHbm)
    :: (if s.homeSlice k / 24 == coreSector core then [] else [clsRing])

/-- The reply to another vchip (R331): over the ports, or to the ingress of this module on loopback. -/
def State.replyTo (s : State) (cx src : Nat) (vlink : BitVec 32) (loopback : Bool) (b : PktBody) : State :=
  let hdr := ((s.ctx? cx).bind fun c => c.vchip? src).map fun v => (v.1, v.2.1)
  let k : Packet := { pkg := if loopback then s.bar.link.pkgid else (hdr.map (·.1)).getD 0, cxid := (hdr.map (·.2)).getD 0,
                      vlink := vlink, loopback := loopback, reply := true, len := b.flits, body := b }
  if loopback then { s with net := s.net ++ [k] } else { s with wire := s.wire ++ [k] }

/-- A watch of another vchip sees the value: it is woken, and its reply leaves (R228, R331). -/
def State.wakeRemote (s : State) (k : LineKey) (w : RWatch) : Option DWord :=
  if w.key.same k then
    let x := lineNat (s.homeRead w.key).1 w.off (if w.w64 then 8 else 4)
    if watchHolds w.cmp w.u w.w64 x w.v.toNat then some (BitVec.ofNat 64 x) else none
  else none

/-- The watches of operations that are removed leave the tables of their homes on this module, with the requests that posted them
(R228). -/
def State.freeWatches (s : State) (ops : List Nat) : State :=
  let gone := (s.reqs.filter fun r => match r.kind with
    | .watch op => ops.contains op
    | _ => false).map (·.id)
  { s with reqs := s.reqs.filter fun r => !gone.contains r.id,
           rwatches := s.rwatches.filter fun w => !(w.loopback && gone.contains w.req) }

/-- Every write at a line's home is compared with each watch on it. -/
def State.wake (s : State) (k : LineKey) : State :=
  let hits := s.rwatches.filterMap fun w => (s.wakeRemote k w).map fun x => (w, x)
  let s1 : State :=
    { s with ops := s.ops.map (s.wakeOp k),
             images := s.images.map fun im => { im with ops := im.ops.map (s.wakeOp k) },
             rwatches := s.rwatches.filter fun w => (s.wakeRemote k w).isNone }
  hits.foldl (fun s h => s.replyTo h.1.cx h.1.src h.1.vlink h.1.loopback (.rWatch h.1.req h.2)) s1

/-! ## Line homes -/

/-- The bytes of a line that software cannot write: those of a trap frame in the context's save slots, but for HOSTACK (R150, R151). -/
def State.frameRo (s : State) (k : LineKey) : LineMask :=
  match s.ctx? k.cx with
  | none => 0
  | some c =>
    let a := 128 * k.n
    let b := c.bindRec.saveBase
    if !k.pod && decide (b ≤ a) && decide (a < b + 0xC0_0000) && (a - b) % 512 == 0 then maskOf 0 0x3C else 0

/-- The L2 state of a line at its home. -/
def State.l2? (s : State) (k : LineKey) : Option L2Line := s.l2.find? fun l => l.key.same k

/-- The home holds the line, in M after a write and else as before or S. -/
def State.l2Put (s : State) (k : LineKey) (write : Bool) : State :=
  let old := s.l2? k
  let st : L2St := if write then .M else (old.map (·.st)).getD .S
  let pres := if write then 0 else (old.map (·.presence)).getD 0
  { s with l2 := putFirst (fun l => l.key.same k) { key := k, st := st, presence := pres } s.l2 }

/-- A pushed copy or a line without unpublished bytes leaves a core's L1; a line with dirty bytes keeps only those (R209 inval). -/
def Core.invalLine (c : Core) (k : LineKey) : Core :=
  { c with l1 := c.l1.filterMap fun l =>
      if l.key.same k then
        match l.st with
        | .V | .P => none
        | .D | .DS => some { l with valid := l.dirty }
      else some l }

/-- Every C copy and recorded pushed copy of a line that its home knows of. -/
def State.copiesOf (s : State) (k : LineKey) : List (Option Nat × Nat) :=
  ((s.ccopies.filter fun c => c.key.same k).map fun c => (none, c.sector))
  ++ ((s.cfills.filter fun c => c.key.same k).map fun c => (none, c.sector))
  ++ ((s.pushed.filter fun p => p.1.same k).map fun p => (some p.2, 0))

/-- The effect of one acknowledged invalidation (R191, R213). -/
def State.invalCopy (s : State) (k : LineKey) (core : Option Nat) (sector : Nat) : State :=
  match core with
  | some c =>
    let s1 := s.updCore c fun co => co.invalLine k
    { s1 with pushed := s1.pushed.filter fun p => !(p.1.same k && p.2 == c) }
  | none =>
    { s with ccopies := s.ccopies.filter fun c => !(c.key.same k && c.sector == sector),
             cfills := s.cfills.filter fun c => !(c.key.same k && c.sector == sector) }

/-- The lines of a slice: those whose home it is, then the C copies in it. -/
def State.sliceLines (s : State) (slice : Nat) : List LineKey × List LineKey :=
  ((s.l2.filter fun l => s.homeSlice l.key == slice).map (·.key), (s.ccopies.filter fun c => c.slice == slice).map (·.key))

/-- Every copy that a line's home knows of is dropped at one instant. -/
def State.dropCopies (s : State) (k : LineKey) : State := (s.copiesOf k).foldl (fun s c => s.invalCopy k c.1 c.2) s

/-- *evict* of R213: the line of a slice that another line is to take the place of leaves, a line at its home behind its C copies (in M it
is written back, which changes no byte here), a C copy silently. The spec names no victim (log 5). -/
def State.l2Evict (s : State) (slice : Nat) : State :=
  if s.l2.length + s.ccopies.length < Config.sliceLines then s
  else
    let (own, other) := s.sliceLines slice
    if own.length + other.length < Config.sliceLines then s
    else
      let pick := Config.freeNat s.freeCount % (own.length + other.length)
      let s1 : State := { s with freeCount := s.freeCount + 1 }
      match own[pick]? with
      | some v =>
        let s2 := (s1.copiesOf v).foldl (fun s c => if c.1.isNone then s.invalCopy v none c.2 else s) s1
        { s2 with l2 := s2.l2.filter fun l => !l.key.same v }
      | none =>
        match other[pick - own.length]? with
        | none => s1
        | some v => { s1 with ccopies := s1.ccopies.filter fun c => !(c.key.same v && c.slice == slice) }

/-- A line comes to its home slice, or is written there (R213). -/
def State.l2Touch (s : State) (k : LineKey) (write : Bool) : State :=
  (if (s.l2? k).isSome then s else s.l2Evict (s.homeSlice k)).l2Put k write

/-- A copy of a line enters the slice of another sector in C, and the home's presence bit is set (R212, R213). -/
def State.putCopy (s : State) (k : LineKey) (sector : Nat) (data : LineData) : State :=
  let slice := s.sliceIn sector k.n
  let s1 := s.l2Evict slice
  { s1 with ccopies := putFirst (fun c => c.key.same k && c.sector == sector) { key := k, sector := sector, slice := slice, data := data } s1.ccopies,
            l2 := upd (fun l => l.key.same k) (fun l => { l with presence := l.presence ||| BitVec.ofNat 6 (2 ^ sector) }) s1.l2 }

/-- A write at a line's home performed at one instant: copies invalidated, bytes merged, watches compared (R191, R213, R228). The
answer is false where the bytes were dropped because the line is poisoned (R327). -/
def State.homeWrite (s : State) (k : LineKey) (data : LineData) (mask : LineMask) : State × Bool :=
  let s1 := s.dropCopies k
  match s1.curLine k with
  | none => (s1, true)
  | some n =>
    let (s20, ok) := s1.mergePhys n (s1.domain k.cx k.kds) k.kds data mask
    -- a line of a page without the sheaf attribute carries a tag of 0 (R233)
    let s2 := if k.sh = 0 then s20.setMeta n { s20.lmeta n with tag := 0 } else s20
    -- a push that has not arrived carries the line as it now is
    let s3 : State := { s2 with pushes := upd (fun m => m.key.same k) (fun m => { m with data := s2.physLine n }) s2.pushes }
    ((s3.l2Touch k true).wake k, ok)

/-! ## Translation -/

/-- The access that a translation is for (R316). -/
inductive Acc where
  /-- Loads, watches, copy and feeder reads. -/
  | read
  /-- Plain stores, atomics, copy writes to ordinary pages. -/
  | write
  /-- SHST and copy writes into a sheaf version. -/
  | openWrite
  | exec
  /-- PFL2 and FLUSHL: no right is needed (R200, R215). -/
  | touch
  /-- A look of the model's own that leaves nothing behind. -/
  | quiet
  deriving DecidableEq, Repr, Inhabited

/-- The result of a translation: causes as R152 numbers them. -/
inductive XRes where
  | ok (t : Xlat)
  | fail (cause detail : Nat)
  /-- MIG = 1: the access waits (R316). -/
  | wait
  deriving DecidableEq, Repr, Inhabited

def causePage : Nat := 5
def causeProt : Nat := 6
def causePoison : Nat := 7

/-- The index of a virtual address in the table of a level (R313). -/
def vaIndex (level va : Nat) : Nat :=
  match level with
  | 0 => va / 2 ^ 39 % 2 ^ 18
  | 1 => va / 2 ^ 30 % 512
  | 2 => va / 2 ^ 21 % 512
  | _ => va / 2 ^ 16 % 32

/-- The bytes that a leaf of a level maps. -/
def leafBytes (level : Nat) : Nat :=
  match level with
  | 0 => 2 ^ 39 | 1 => 2 ^ 30 | 2 => 2 ^ 21 | _ => 2 ^ 16

/-- The alignment of the table that an entry of a level names. -/
def tableAlign (level : Nat) : Nat :=
  match level with
  | 0 => 4096 | 1 => 4096 | _ => 256

/-- A page-table entry (R315). -/
structure Pte where
  raw : BitVec 64
  deriving DecidableEq, Repr, Inhabited

def Pte.kds (p : Pte) : Nat := (p.raw.extractLsb' 60 4).toNat
def Pte.sd (p : Pte) : Bool := p.raw.getLsbD 59
def Pte.ft (p : Pte) : Bool := p.raw.getLsbD 58
def Pte.far (p : Pte) : Bool := p.raw.getLsbD 57
def Pte.sh (p : Pte) : Bool := p.raw.getLsbD 56
def Pte.d (p : Pte) : Bool := p.raw.getLsbD 55
def Pte.a (p : Pte) : Bool := p.raw.getLsbD 54
def Pte.mig (p : Pte) : Bool := p.raw.getLsbD 53
def Pte.frame (p : Pte) : Nat := (p.raw.extractLsb' 16 32).toNat
def Pte.table (p : Pte) : Nat := 256 * (p.raw.extractLsb' 8 40).toNat
def Pte.x (p : Pte) : Bool := p.raw.getLsbD 3
def Pte.w (p : Pte) : Bool := p.raw.getLsbD 2
def Pte.leaf (p : Pte) : Bool := p.raw.getLsbD 1
def Pte.v (p : Pte) : Bool := p.raw.getLsbD 0

/-- The context of a walk holds the write grant of a key-domain entry (R328). -/
def Context.granted (c : Context) (kds : Nat) : Bool := c.kdt.any fun e => e.1 == kds && e.2.2

/-- A far frame that the context's far pool holds (R316, R323). -/
def Context.farFrame (c : Context) (f : Nat) : Bool :=
  c.poolFar.contains f || c.pages.any fun p => p.st == .far && p.frame == f

/-- A frame of HBM lies in a stack of a hard partition that another context owns (R15; DESIGN CHOICE, log 51: a context may not map it, nor
be given it). -/
def State.foreignFrame (s : State) (cx f : Nat) : Bool :=
  let sec := 65536 * f / Config.stackBytes / 2
  decide (sec < 6) && !((s.ctx? cx).map fun c => c.bindRec.hard.getLsbD sec).getD false
    && s.ctxs.any fun c => c.bindRec.hard.getLsbD sec && c.st != .retired

/-- A valid leaf at this level is well formed (R316). Present memory has no gap in a stack but the frames that a start mapped out. -/
def State.leafOk (s : State) (c : Context) (level : Nat) (p : Pte) : Bool :=
  let frames := leafBytes level / 65536
  p.raw.extractLsb' 48 5 == 0 && p.raw.extractLsb' 4 12 == 0 && p.frame % frames == 0
  && (p.sd == (p.kds != 0)) && (!(p.sd && p.w) || c.granted p.kds)
  && !(p.sh && (level == 1 || p.far || p.sd || p.frame % (2 * frames) != 0))
  && (if p.far then (List.range frames).all fun i => c.farFrame (p.frame + i)
      else s.present (p.frame * 65536) && s.present ((p.frame + frames) * 65536 - 1)
        && !(s.modl.absent.any fun f => decide (p.frame ≤ f) && decide (f < p.frame + frames)) && !s.foreignFrame c.cxid p.frame
        && decide (p.frame * 65536 / Config.stackBytes = ((p.frame + frames) * 65536 - 1) / Config.stackBytes))

/-- A valid non-leaf: only V, LEAF and TABLE are set, and TABLE is aligned and present. -/
def State.tableOk (s : State) (level : Nat) (p : Pte) : Bool :=
  p.raw.extractLsb' 48 16 == 0 && p.raw.extractLsb' 4 4 == 0 && p.raw.extractLsb' 2 2 == 0
  && p.table % tableAlign level == 0 && s.present p.table

/-- The physical address of the entry at which the walk for va ends, its level and the entry, or the fate of an earlier row. -/
def State.walkTo (s : State) (c : Context) (va : Nat) : Nat → Nat → Nat → Except XRes (Nat × Nat × Pte)
  | 0, _, _ => .error (.fail causePage 3)
  | fuel + 1, level, table =>
    let ea := table + 8 * vaIndex level va
    if s.poisoned (ea / 128) (some (c.memKey, c.gen)) then .error (.fail causePoison 4)
    else
      let p : Pte := ⟨BitVec.ofNat 64 (rdMem s.mem ea 8)⟩
      if !p.v then .error (.fail causePage (if p.ft then 2 else 1))
      else if p.leaf then
        if level = 0 ∨ ¬ s.leafOk c level p then .error (.fail causePage 3) else .ok (ea, level, p)
      else if level ≥ 3 ∨ ¬ s.tableOk level p then .error (.fail causePage 3)
      else s.walkTo c va fuel (level + 1) p.table

/-- The addresses of the entries that the walk reads. -/
def State.walkReads (s : State) (c : Context) (va : Nat) : Nat → Nat → Nat → List Nat
  | 0, _, _ => []
  | fuel + 1, level, table =>
    let ea := table + 8 * vaIndex level va
    let p : Pte := ⟨BitVec.ofNat 64 (rdMem s.mem ea 8)⟩
    if s.poisoned (ea / 128) (some (c.memKey, c.gen)) || !p.v || p.leaf || decide (level ≥ 3) || !s.tableOk level p then [ea]
    else ea :: s.walkReads c va fuel (level + 1) p.table

/-- What the walk's reads leave: MEMERR at the first detection of poison, a count for each corrected error (R327). -/
def State.noteWalk (s : State) (c : Context) (va : Nat) : State :=
  (s.walkReads c va 4 0 c.bindRec.ptRoot).foldl (fun s ea => s.noteRead (ea / 128) (some (c.memKey, c.gen)) 0) s

/-- A translation permits an access (R316). -/
def Xlat.permits (t : Xlat) (a : Acc) : Option XRes :=
  match a with
  | .read | .touch | .quiet => none
  | .exec => if t.x then none else some (.fail causeProt 2)
  | .write => if !t.w then some (.fail causeProt 1) else if t.sh then some (.fail causeProt 3) else none
  | .openWrite => if !t.w then some (.fail causeProt 1) else none

/-- An entry at which a translation ended gets A, and D for a write, by a write at its home (R316). -/
def State.markEntry (s : State) (c : Context) (ea : Nat) (p : Pte) (d : Bool) : State :=
  let raw := p.raw ||| BitVec.ofNat 64 (2 ^ 54) ||| (if d then BitVec.ofNat 64 (2 ^ 55) else 0)
  if raw = p.raw then s
  else
    (s.homeWrite { cx := c.cxid, pod := false, n := ea / 128 } (lineAt (ea % 128) (leBytes 8 raw.toNat)) (maskOf (ea % 128) 8)).1

/-- The translation of va that a leaf at this level gives an access. -/
def xlatOf (cx va level : Nat) (p : Pte) (a : Acc) : Xlat :=
  let size := leafBytes level
  { cx := cx, page := va / size * size, size := size, frame := p.frame, w := p.w, x := p.x, sh := p.sh,
    far := p.far, kds := p.kds, d := p.d || a == .write || a == .openWrite }

/-- The walk of R316. A translated walk sets A, and D for a write (R316), by a write at the entry's home. -/
def State.walk (s : State) (cx va : Nat) (a : Acc) : State × XRes :=
  match s.ctx? cx with
  | none => (s, .fail causePage 1)
  | some c =>
    match s.walkTo c va 4 0 c.bindRec.ptRoot with
    | .error r => (s.noteWalk c va, r)
    | .ok (ea, level, p) =>
      if p.mig then (s, .wait)
      else
        let t := xlatOf cx va level p a
        match t.permits a with
        | some r => (s.noteWalk c va, r)
        | none =>
          if a == .quiet then (s, .ok t)
          else ((s.noteWalk c va).markEntry c ea p t.d, .ok t)

/-- A cached translation covers an access: its page holds va, and a write does not hit an entry with D = 0 (R317). -/
def Xlat.covers (t : Xlat) (cx va : Nat) (a : Acc) : Bool :=
  t.cx == cx && decide (t.page ≤ va) && decide (va < t.page + t.size) && (t.d || !(a == .write || a == .openWrite))

/-- A new entry of a buffer of at most cap entries; a full one gives up an entry that the spec does not name (log 5). -/
def tlbAdd (cap pick : Nat) (t : Xlat) (l : List Xlat) : List Xlat :=
  let l1 := l.filter fun u => !(u.cx == t.cx && u.page == t.page && u.size == t.size)
  if l1.length < cap then t :: l1 else t :: l1.eraseIdx (pick % cap)

/-- A translation enters the TLB of a sector. -/
def State.refillSector (s : State) (sec : Nat) (t : Xlat) : State :=
  let l := (s.sectorTlb.filter fun e => e.1 == sec).map (·.2)
  { s with sectorTlb := (s.sectorTlb.filter fun e => e.1 != sec) ++ (tlbAdd 4096 (Config.freeNat s.freeCount) t l).map fun u => (sec, u),
           freeCount := s.freeCount + 1 }

/-- A translation enters the core TLB, and the sector TLB where that one missed too (R317). -/
def State.refill (s : State) (core : Nat) (t : Xlat) (both : Bool) : State :=
  let s1 := { s.updCore core fun c => { c with tlb := tlbAdd 256 (Config.freeNat s.freeCount) t c.tlb } with
              freeCount := s.freeCount + 1 }
  if both then s1.refillSector (coreSector core) t else s1

/-- The core TLB, then the sector TLB, then the walk; a miss refills what it passed (R317). -/
def State.translate (s : State) (core cx va : Nat) (a : Acc) : State × XRes :=
  let sec := coreSector core
  match (s.core core).tlb.find? fun t => t.covers cx va a with
  | some t => (s, (t.permits a).getD (.ok t))
  | none =>
    match s.sectorTlb.find? fun e => e.1 == sec && e.2.covers cx va a with
    | some e =>
      match e.2.permits a with
      | some r => (s, r)
      | none => (s.refill core e.2 false, .ok e.2)
    | none =>
      match s.walk cx va a with
      | (s1, .ok t) => (if a == .quiet then s1 else s1.refill core t true, .ok t)
      | (s1, r) => (s1, r)

/-- The regions of the address space (R311). -/
inductive Region where
  | localTable | pod | mcast | trap | control | none
  deriving DecidableEq, Repr, Inhabited

def regionOf (va : Nat) : Region :=
  if va ≥ 2 ^ 57 then .none
  else if va < Config.podBase then .localTable
  else if va < Config.mcastBase then .pod
  else if va < Config.mcastEnd then .mcast
  else if va < Config.trapAperture then .localTable
  else if va < Config.controlPage then .trap
  else if va < Config.controlPage + 0x10000 then .control
  else .localTable

/-- The physical address that a translation gives. -/
def Xlat.pa (t : Xlat) (va : Nat) : Nat :=
  (if t.far then Config.farBase else 0) + t.frame * 65536 + (va - t.page)

/-- The line that a translated address lies in. -/
def Xlat.key (t : Xlat) (va : Nat) : LineKey :=
  { cx := t.cx, pod := false, n := t.pa va / 128, kds := t.kds, sh := if t.sh then t.size / 65536 else 0 }

/-- An address of the pod or multicast aperture as a line of its context. -/
def podKey (cx va : Nat) : LineKey := { cx := cx, pod := true, n := va / 128 }

/-- The line of an address of the trap aperture: the save area, under the context's own key (R148, R311). -/
def Context.apertureKey (c : Context) (va : Nat) : LineKey :=
  { cx := c.cxid, pod := false, n := (c.bindRec.saveBase + (va - Config.trapAperture)) / 128 }

/-- How an access of a group at a privilege level resolves: its line, or its causes (R218, R311). last: the last-page register of the
lane, 32 for the uniform one, none where the access has none. -/
def State.resolve (s : State) (g : Group) (last : Option Nat) (va : Nat) (a : Acc) : State × Except XRes LineKey :=
  match regionOf va with
  | .none => (s, .error (.fail causeProt 0))
  | .pod =>
    match a with
    | .exec => (s, .error (.fail causeProt 2))
    | .read | .write | .openWrite | .touch | .quiet => (s, .ok (podKey g.cx va))
  | .mcast =>
    match a with
    | .write | .touch | .quiet => (s, .ok (podKey g.cx va))
    | .exec => (s, .error (.fail causeProt 2))
    | .read | .openWrite => (s, .error (.fail causeProt 0))
  | .control => (s, .error (.fail causeProt (if a == .exec then 2 else 0)))
  | .trap =>
    match s.ctx? g.cx with
    | none => (s, .error (.fail causeProt 0))
    | some c =>
      if a == .exec then (s, .error (.fail causeProt 2))
      else if !g.priv || va - Config.trapAperture ≥ c.bindRec.saveSize then (s, .error (.fail causeProt 0))
      else (s, .ok (c.apertureKey va))
  | .localTable =>
    let hit : Option Xlat := match last with
      | none => none
      | some l => (g.lastPage.find? fun e => e.1 == l && e.2.covers g.cx va a).map (·.2)
    match hit with
    | some t =>
      match t.permits a with
      | some r => (s, .error r)
      | none => (s, .ok (t.key va))
    | none =>
      match s.translate g.ref.core g.cx va a with
      | (s1, .ok t) =>
        let s2 := match last with
          | none => s1
          | some l => s1.updGroup g.ref fun g1 => { g1 with lastPage := (l, t) :: g1.lastPage.filter fun e => e.1 != l }
        (s2, .ok (t.key va))
      | (s1, r) => (s1, .error r)

/-! ## The sampler (R324) -/

/-- A translated global access of a core: every 4,096th of its sector is recorded at its pool page. -/
def State.sample (s : State) (core cx va : Nat) : State :=
  if regionOf va != .localTable then s
  else
    let sec := coreSector core
    let n := ((s.modl.samplers.find? fun e => e.1 == sec).map (·.2)).getD 0 + 1
    let s1 := { s with modl := { s.modl with
                  samplers := putFirst (fun e => e.1 == sec) (sec, n % 4096) s.modl.samplers } }
    if n % 4096 ≠ 0 then s1
    else s1.updCtx cx fun c =>
      { c with pages := upd (fun p => decide (p.page ≤ va) && decide (va < p.page + 65536)) (fun p =>
          { p with hot := min 255 (p.hot + 1), cold := 0, seen := true }) c.pages }

/-! ## The scratchpad -/

/-- A byte of a workgroup's scratchpad; bytes that nothing has written are open values, or 0 after a restore (R105, R144). -/
def Workgroup.byte (w : Workgroup) (o : Nat) : Byte :=
  match w.scratch.find? fun e => e.1 == o with
  | some e => e.2
  | none => match w.fresh with
    | none => 0
    | some n => Config.freeByte (n + o)

/-- The written bytes of a scratchpad are all listed, in ascending order. -/
def putByte : Sparse Byte → Nat → Byte → Sparse Byte
  | [], k, v => [(k, v)]
  | (a, w) :: t, k, v => if k < a then (k, v) :: (a, w) :: t else if k = a then (k, v) :: t else (a, w) :: putByte t k v

def Workgroup.putBytes (w : Workgroup) (o : Nat) (bs : List Byte) : Workgroup :=
  { w with scratch := (bs.zipIdx).foldl (fun m b => putByte m (o + b.2) b.1) w.scratch }

def Workgroup.nat (w : Workgroup) (o n : Nat) : Nat := leNat ((List.range n).map fun j => w.byte (o + j))

end Sys2Proof.Machine
end

