-- ==== Sys2Proof/Machine/Crypto.lean ====
section
/-! DEFINITION. AES-256, its Galois/counter mode and its key wrap, as R94, R267, R342 and R345 use them (FIPS 197, SP 800-38D and
RFC 3394, which the spec names by name). -/

namespace Sys2Proof.Machine

/-- The 32 bytes of a key, the most significant first. -/
def keyBytes (k : Key) : List Byte := (leBytes 32 k.toNat).reverse

def keyOf (bs : List Byte) : Key := BitVec.ofNat 256 (leNat bs.reverse)

def xorBytes (a b : List Byte) : List Byte := (a.zip b).map fun x => x.1 ^^^ x.2

/-! ## The field of AES -/

def xtime (b : Byte) : Byte := (b <<< 1) ^^^ (if b.getLsbD 7 then 0x1B else 0)

def gmul (a b : Byte) : Byte :=
  ((List.range 8).foldl (fun (acc : Byte × Byte) i => (if b.getLsbD i then acc.1 ^^^ acc.2 else acc.1, xtime acc.2)) (0, a)).1

/-- The inverse, 0 for 0: the power 254. -/
def ginv (a : Byte) : Byte :=
  ((List.range 7).foldl (fun (acc : Byte × Byte) _ => let x := gmul acc.2 acc.2; (gmul acc.1 x, x)) (1, a)).1

def sbox (b : Byte) : Byte :=
  let i := ginv b
  i ^^^ i.rotateLeft 1 ^^^ i.rotateLeft 2 ^^^ i.rotateLeft 3 ^^^ i.rotateLeft 4 ^^^ 0x63

def sboxInv (b : Byte) : Byte := ginv (b.rotateLeft 1 ^^^ b.rotateLeft 3 ^^^ b.rotateLeft 6 ^^^ 0x05)

/-! ## AES-256 -/

/-- The 60 words of the key schedule. -/
def keySchedule (k : Key) : List (List Byte) :=
  let kb := keyBytes k
  (List.range 52).foldl (fun ws j =>
    let i := j + 8
    let t := ws.getD (i - 1) []
    let t1 :=
      if i % 8 = 0 then
        xorBytes ((t.drop 1 ++ t.take 1).map sbox) [(List.range (i / 8 - 1)).foldl (fun r _ => xtime r) 1, 0, 0, 0]
      else if i % 8 = 4 then t.map sbox else t
    ws ++ [xorBytes (ws.getD (i - 8) []) t1]) ((List.range 8).map fun i => (kb.drop (4 * i)).take 4)

def roundKey (ws : List (List Byte)) (r : Nat) : List Byte := ((ws.drop (4 * r)).take 4).flatten

/-- Row r of the state moves by k times r columns. -/
def shiftRows (k : Nat) (st : List Byte) : List Byte :=
  (List.range 16).map fun i => st.getD (i % 4 + 4 * ((i / 4 + k * (i % 4)) % 4)) 0

/-- Each column times the circulant of the four coefficients. -/
def mixColumns (m : List Byte) (st : List Byte) : List Byte :=
  (List.range 16).map fun i =>
    (List.range 4).foldl (fun (a : Byte) j => a ^^^ gmul (m.getD ((j + 4 - i % 4) % 4) 0) (st.getD (4 * (i / 4) + j) 0)) 0

def aesEncrypt (ws : List (List Byte)) (block : List Byte) : List Byte :=
  let s1 := (List.range 13).foldl (fun st r =>
    xorBytes (mixColumns [2, 3, 1, 1] (shiftRows 1 (st.map sbox))) (roundKey ws (r + 1))) (xorBytes block (roundKey ws 0))
  xorBytes (shiftRows 1 (s1.map sbox)) (roundKey ws 14)

def aesDecrypt (ws : List (List Byte)) (block : List Byte) : List Byte :=
  let s1 := (List.range 13).foldl (fun st r =>
    mixColumns [14, 11, 13, 9] (xorBytes ((shiftRows 3 st).map sboxInv) (roundKey ws (13 - r)))) (xorBytes block (roundKey ws 14))
  xorBytes ((shiftRows 3 s1).map sboxInv) (roundKey ws 0)

/-! ## Galois/counter mode -/

/-- A block as 128 bits, its first byte most significant. -/
def blockBits (bs : List Byte) : BitVec 128 := BitVec.ofNat 128 (leNat bs.reverse)

def bitsBlock (b : BitVec 128) : List Byte := (leBytes 16 b.toNat).reverse

/-- Multiplication in the field of GHASH. -/
def ghashMul (x y : BitVec 128) : BitVec 128 :=
  ((List.range 128).foldl (fun (acc : BitVec 128 × BitVec 128) i =>
    let v := (acc.2 >>> 1) ^^^ (if acc.2.getLsbD 0 then 0xE1#128 <<< 120 else 0)
    (if x.getLsbD (127 - i) then acc.1 ^^^ acc.2 else acc.1, v)) (0, y)).1

/-- GHASH goes on over whole blocks. -/
def ghashBlocks (h acc : BitVec 128) : List (List Byte) → BitVec 128
  | [] => acc
  | b :: bs => ghashBlocks h (ghashMul (acc ^^^ blockBits b) h) bs

/-- The counter block n of a 12-byte IV. -/
def counterBlock (iv : List Byte) (n : Nat) : List Byte := iv ++ (leBytes 4 n).reverse

/-- The 16-byte blocks of a run of bytes. -/
def blocks16 (bs : List Byte) : List (List Byte) := (List.range (bs.length / 16)).map fun i => (bs.drop (16 * i)).take 16

/-- Decrypts whole blocks of ciphertext, the first of which is data block n of the message. -/
def gcmCrypt (k : Key) (iv : List Byte) (n : Nat) (ct : List Byte) : List Byte :=
  let ws := keySchedule k
  ((blocks16 ct).zipIdx.map fun b => xorBytes b.1 (aesEncrypt ws (counterBlock iv (n + b.2 + 2)))).flatten

/-- GHASH of a message goes on over whole blocks of ciphertext. -/
def gcmHash (k : Key) (acc : BitVec 128) (ct : List Byte) : BitVec 128 :=
  ghashBlocks (blockBits (aesEncrypt (keySchedule k) (List.replicate 16 0))) acc (blocks16 ct)

/-- The tag of a message of n bytes without additional data, from the GHASH of its blocks. -/
def gcmTag (k : Key) (iv : List Byte) (acc : BitVec 128) (n : Nat) : List Byte :=
  let ws := keySchedule k
  let h := blockBits (aesEncrypt ws (List.replicate 16 0))
  bitsBlock (ghashMul (acc ^^^ BitVec.ofNat 128 (8 * n)) h ^^^ blockBits (aesEncrypt ws (counterBlock iv 1)))

/-- The tag over whole blocks of additional data, without a message (GMAC). -/
def gmac (k : Key) (iv aad : List Byte) : BitVec 128 :=
  let ws := keySchedule k
  let h := blockBits (aesEncrypt ws (List.replicate 16 0))
  ghashMul (ghashBlocks h 0 (blocks16 aad) ^^^ BitVec.ofNat 128 (8 * aad.length * 2 ^ 64)) h
    ^^^ blockBits (aesEncrypt ws (counterBlock iv 1))

/-- CRC-32C. -/
def crc32c (bs : List Byte) : Word :=
  ~~~(bs.foldl (fun (c : Word) b =>
    (List.range 8).foldl (fun (c : Word) _ => (c >>> 1) ^^^ (if c.getLsbD 0 then 0x82F63B78 else 0)) (c ^^^ b.setWidth 32)) 0xFFFFFFFF#32)

/-! ## Key wrap -/

/-- One step of the wrapping: the integrity register and the four parts. -/
def wrapStep (ws : List (List Byte)) (acc : List Byte × List (List Byte)) (t : Nat) : List Byte × List (List Byte) :=
  let i := (t - 1) % 4
  let b := aesEncrypt ws (acc.1 ++ acc.2.getD i [])
  (xorBytes (b.take 8) ((leBytes 8 t).reverse), acc.2.set i (b.drop 8))

/-- Wraps a 256-bit key into 40 bytes. -/
def keyWrap (kek k : Key) : List Byte :=
  let parts := (List.range 4).map fun i => ((keyBytes k).drop (8 * i)).take 8
  let (a, r) := (List.range 24).foldl (fun acc j => wrapStep (keySchedule kek) acc (j + 1)) (List.replicate 8 (0xA6 : Byte), parts)
  a ++ r.flatten

/-- One step back of the unwrapping: the integrity register and the four parts. -/
def unwrapStep (ws : List (List Byte)) (acc : List Byte × List (List Byte)) (t : Nat) : List Byte × List (List Byte) :=
  let i := (t - 1) % 4
  let b := aesDecrypt ws (xorBytes acc.1 ((leBytes 8 t).reverse) ++ acc.2.getD i [])
  (b.take 8, acc.2.set i (b.drop 8))

/-- Unwraps a 256-bit key from 40 bytes; none: the integrity value is wrong. -/
def keyUnwrap (kek : Key) (c : List Byte) : Option Key :=
  let ws := keySchedule kek
  let start := (c.take 8, (List.range 4).map fun i => (c.drop (8 * (i + 1))).take 8)
  let (a, r) := (List.range 24).foldl (fun acc j => unwrapStep ws acc (24 - j)) start
  if a = List.replicate 8 (0xA6 : Byte) then some (keyOf r.flatten) else none

end Sys2Proof.Machine
end

