-- ==== Sys2Proof/Machine/Float.lean ====
section
/-! DEFINITION. Floating-point values and their rounding (spec/03_numbers.md R52 to R63): exact reals as mantissa and exponent, one
rounding at the end, and the flags of R59. -/

namespace Sys2Proof.Machine

/-- The parameters of a format (R52): exponent bits, fraction bits, bias, and the largest finite value maxM x 2^maxE. -/
structure FP where
  eb : Nat
  fb : Nat
  bias : Nat
  maxM : Nat
  maxE : Int
  deriving DecidableEq, Repr, Inhabited

def fp32 : FP := ⟨8, 23, 127, 2 ^ 24 - 1, 104⟩
def fpBf16 : FP := ⟨8, 7, 127, 255, 120⟩
def fpF16 : FP := ⟨5, 10, 15, 2047, 5⟩
def fpE5m2 : FP := ⟨5, 2, 15, 7, 13⟩
def fpE4m3 : FP := ⟨4, 3, 7, 14, 5⟩
def fpE3m2 : FP := ⟨3, 2, 3, 7, 2⟩
def fpE2m3 : FP := ⟨2, 3, 1, 15, -1⟩
def fpE2m1 : FP := ⟨2, 1, 1, 3, 1⟩

/-- The exponent of the smallest subnormal. -/
def FP.emin (p : FP) : Int := 1 - (p.bias : Int) - p.fb

/-- An exact value: (-1)^neg x m x 2^e, an infinity or a NaN. -/
inductive FV where
  | nan (signalling : Bool)
  | inf (neg : Bool)
  | fin (neg : Bool) (m : Nat) (e : Int)
  deriving DecidableEq, Repr, Inhabited

/-- Rounding modes of R58. -/
inductive RM where
  | rne | rz | ru | rd
  deriving DecidableEq, Repr, Inhabited

/-- RM of $FPMODE. -/
def rmOf (fpmode : Word) : RM :=
  match (fpmode.extractLsb' 0 2).toNat with
  | 0 => .rne | 1 => .rz | 2 => .ru | _ => .rd

/-- The flags of R59 at their places in $FPFLAGS. -/
abbrev Flags := BitVec 5

def flNV : Flags := 16
def flDZ : Flags := 8
def flOF : Flags := 4
def flUF : Flags := 2
def flNX : Flags := 1

/-- The special values of a format: IEEE, the one NaN of E4M3, or none. -/
inductive Specials where
  | ieee | e4m3 | none
  deriving DecidableEq, Repr, Inhabited

/-- The value of an encoding (R52). -/
def decodeF (p : FP) (sp : Specials) (bits : Nat) : FV :=
  let f := bits % 2 ^ p.fb
  let e := bits / 2 ^ p.fb % 2 ^ p.eb
  let neg := bits / 2 ^ (p.fb + p.eb) % 2 == 1
  let special := match sp with
    | .ieee => e == 2 ^ p.eb - 1
    | .e4m3 => e == 15 && f == 7
    | .none => false
  if special then
    if sp == .e4m3 then .nan false
    else if f = 0 then .inf neg else .nan (f < 2 ^ (p.fb - 1))
  else if e = 0 then .fin neg f p.emin
  else .fin neg (2 ^ p.fb + f) (p.emin + (e : Int) - 1)

def dec32 (w : Word) : FV := decodeF fp32 .ieee w.toNat

def ffmtFP : FFmt → FP
  | .f32 => fp32 | .bf16 => fpBf16 | .f16 => fpF16

/-- The encoding of zero with a sign. -/
def zeroF (p : FP) (neg : Bool) : Nat := if neg then 2 ^ (p.fb + p.eb) else 0

def infF (p : FP) (neg : Bool) : Nat := zeroF p neg + (2 ^ p.eb - 1) * 2 ^ p.fb

/-- The canonical NaN of an IEEE format. -/
def nanF (p : FP) : Nat := (2 ^ p.eb - 1) * 2 ^ p.fb + 2 ^ (p.fb - 1)

/-- The encoding of q x 2^u, where u is the quantum of a normal result or the smallest one, and q < 2^(fb+1). -/
def packF (p : FP) (neg : Bool) (q : Nat) (u : Int) : Nat :=
  zeroF p neg + (if q < 2 ^ p.fb then q else (u - p.emin + 1).toNat * 2 ^ p.fb + (q - 2 ^ p.fb))

/-- Rounds m / 2^sh plus a fraction below one unit of m when sticky, and says whether it was inexact. -/
def roundShift (rm : RM) (neg : Bool) (m sh : Nat) (sticky : Bool) : Nat × Bool :=
  let q := m / 2 ^ sh
  let r2 := 2 * (m % 2 ^ sh)
  let inexact := r2 != 0 || sticky
  let up := match rm with
    | .rne => decide (r2 > 2 ^ sh) || (r2 == 2 ^ sh && (sticky || q % 2 == 1))
    | .rz => false
    | .ru => inexact && !neg
    | .rd => inexact && neg
  (if up then q + 1 else q, inexact)

/-- Rounds m x 2^e to the quantum 2^u; a sticky value has e < u. -/
def roundAt (rm : RM) (neg : Bool) (m : Nat) (e u : Int) (sticky : Bool) : Nat × Bool :=
  if u ≤ e then (m * 2 ^ (e - u).toNat, sticky) else roundShift rm neg m (u - e).toNat sticky

/-- floor(log2 m) for m > 0. -/
def lead (m : Nat) : Nat := Nat.log2 m

/-- A rounding into a format with the exponent unbounded above: mantissa, quantum, inexact, tiny after rounding (R59). -/
def roundCore (p : FP) (rm : RM) (neg : Bool) (m : Nat) (e : Int) (sticky : Bool) : Nat × Int × Bool × Bool :=
  let ufree := e + lead m - p.fb
  let u := max ufree p.emin
  let (q, nx) := roundAt rm neg m e u sticky
  let (qf, _) := roundAt rm neg m e ufree sticky
  -- the value rounded with both exponents unbounded lies below the smallest normal, 2^(emin + fb)
  let tiny := decide (ufree < p.emin) && !(decide (ufree = p.emin - 1) && qf == 2 ^ (p.fb + 1))
  if q = 2 ^ (p.fb + 1) then (2 ^ p.fb, u + 1, nx, tiny) else (q, u, nx, tiny)

/-- q x 2^u lies above the largest finite value. -/
def aboveMax (p : FP) (q : Nat) (u : Int) : Bool :=
  if u ≥ p.maxE then decide (q * 2 ^ (u - p.maxE).toNat > p.maxM)
  else decide (q > p.maxM * 2 ^ (p.maxE - u).toNat)

/-- RM_FP32 and its like: rounds the exact value m x 2^e (m > 0, plus a sticky fraction) into an IEEE format with flags. -/
def roundF (p : FP) (rm : RM) (neg : Bool) (m : Nat) (e : Int) (sticky : Bool := false) : Nat × Flags :=
  let (q, u, nx, tiny) := roundCore p rm neg m e sticky
  if aboveMax p q u then
    let toInf := match rm with
      | .rne => true | .rz => false | .ru => !neg | .rd => neg
    (if toInf then infF p neg else zeroF p neg + (2 ^ p.eb - 1) * 2 ^ p.fb - 1, flOF ||| flNX)
  else (packF p neg q u, (if nx then flNX else 0) ||| (if tiny && nx then flUF else 0))

/-- Rounds a value into an IEEE format; a NaN becomes the canonical one. -/
def encodeF (p : FP) (rm : RM) (v : FV) : Nat × Flags :=
  match v with
  | .nan sg => (nanF p, if sg then flNV else 0)
  | .inf neg => (infF p neg, 0)
  | .fin neg m e => if m = 0 then (zeroF p neg, 0) else roundF p rm neg m e

/-! ## Exact arithmetic -/

def FV.isNan : FV → Bool
  | .nan _ => true
  | .inf _ | .fin .. => false

def FV.isSig : FV → Bool
  | .nan b => b
  | .inf _ | .fin .. => false

def FV.isInf : FV → Bool
  | .inf _ => true
  | .nan _ | .fin .. => false

def FV.neg? : FV → Bool
  | .nan _ => false
  | .inf n => n
  | .fin n _ _ => n

def FV.isZero : FV → Bool
  | .fin _ m _ => m == 0
  | .nan _ | .inf _ => false

def FV.flip : FV → FV
  | .nan b => .nan b
  | .inf n => .inf (!n)
  | .fin n m e => .fin (!n) m e

/-- The integer k with value = k x 2^e0, for e0 at most the value's exponent. -/
def FV.scaled (e0 : Int) : FV → Int
  | .fin n m e => let k : Int := m * 2 ^ (e - e0).toNat; if n then -k else k
  | .nan _ | .inf _ => 0

def FV.exp : FV → Int
  | .fin _ _ e => e
  | .nan _ | .inf _ => 0

/-- The exact sum of finite values, as an integer and an exponent. -/
def sumFin (l : List FV) : Int × Int :=
  let e0 := l.foldl (fun a v => min a v.exp) ((l.head?.map FV.exp).getD 0)
  (l.foldl (fun a v => a + v.scaled e0) 0, e0)

/-- The value of an integer times 2^e. -/
def ofInt (k : Int) (e : Int) : FV := .fin (decide (k < 0)) k.natAbs e

/-- A product of two values that are not NaN and not infinity times zero. -/
def FV.mul : FV → FV → FV
  | .fin n m e, .fin n' m' e' => .fin (n != n') (m * m') (e + e')
  | a, b => .inf (a.neg? != b.neg?)

/-- Infinity times zero (R62). -/
def badProduct (a b : FV) : Bool := (a.isInf && b.isZero) || (a.isZero && b.isInf)

/-- The sum of two values under IEEE 754-2019 (R62, R170). -/
def addF (p : FP) (rm : RM) (a b : FV) : Nat × Flags :=
  if a.isNan || b.isNan then (nanF p, if a.isSig || b.isSig then flNV else 0)
  else
    match a, b with
    | .inf n, .inf n' => if n = n' then (infF p n, 0) else (nanF p, flNV)
    | .inf n, .fin .. => (infF p n, 0)
    | .fin .., .inf n => (infF p n, 0)
    | a, b =>
      let (k, e) := sumFin [a, b]
      if k = 0 then
        (zeroF p (if a.isZero && b.isZero && a.neg? == b.neg? then a.neg? else rm == .rd), 0)
      else encodeF p rm (ofInt k e)

def mulF (p : FP) (rm : RM) (a b : FV) : Nat × Flags :=
  if a.isNan || b.isNan then (nanF p, if a.isSig || b.isSig then flNV else 0)
  else if badProduct a b then (nanF p, flNV)
  else encodeF p rm (a.mul b)

/-- a x b + c with one rounding (R62). -/
def fmaF (p : FP) (rm : RM) (a b c : FV) : Nat × Flags :=
  if badProduct a b then (nanF p, flNV)
  else if a.isNan || b.isNan || c.isNan then (nanF p, if a.isSig || b.isSig || c.isSig then flNV else 0)
  else addF p rm (a.mul b) c

/-- a is below b, for values that are not NaN; -0 and +0 are equal. -/
def ltF (a b : FV) : Bool :=
  match a, b with
  | .inf n, .inf n' => n && !n'
  | .inf n, _ => n
  | _, .inf n => !n
  | a, b =>
    let e0 := min a.exp b.exp
    decide (a.scaled e0 < b.scaled e0)

def eqF (a b : FV) : Bool := !a.isNan && !b.isNan && !ltF a b && !ltF b a

/-- a is below b, with -0 below +0. -/
def belowF (a b : FV) : Bool := ltF a b || (a.isZero && b.isZero && a.neg? && !b.neg?)

/-- minimumNumber and maximumNumber of R62 on FP32 encodings. -/
def minmaxF (isMax : Bool) (x y : Word) : Word × Flags :=
  let a := dec32 x
  let b := dec32 y
  let fl : Flags := if a.isSig || b.isSig then flNV else 0
  let r := if a.isNan && b.isNan then BitVec.ofNat 32 (nanF fp32)
    else if a.isNan then y else if b.isNan then x
    else if (if isMax then belowF a b else belowF b a) then y else x
  (r, fl)

/-- FCMP's condition and flags (R172). -/
def fcmp (cc : Fcc) (x y : Word) : Bool × Flags :=
  let a := dec32 x
  let b := dec32 y
  let un := a.isNan || b.isNan
  let quiet : Flags := if a.isSig || b.isSig then flNV else 0
  let loud : Flags := if un then flNV else 0
  match cc with
  | .eq => (eqF a b, quiet)
  | .ne => (!eqF a b, quiet)
  | .lt => (!un && ltF a b, loud)
  | .le => (!un && !ltF b a, loud)
  | .gt => (!un && ltF b a, loud)
  | .ge => (!un && !ltF a b, loud)
  | .ord => (!un, quiet)
  | .unord => (un, quiet)

/-! ## Conversions -/

/-- An exact value rounded to an integer in a mode: the integer and whether it was inexact. -/
def toIntF (rm : RM) (neg : Bool) (m : Nat) (e : Int) : Int × Bool :=
  let (q, nx) := roundAt rm neg m e 0 false
  (if neg then -(q : Int) else q, nx)

/-- FP32 to an integer range with saturation (R60, R176). -/
def cvtToInt (rm : RM) (lo hi : Int) (v : FV) : Int × Flags :=
  match v with
  | .nan _ => (0, flNV)
  | .inf neg => (if neg then lo else hi, flNV)
  | .fin neg m e =>
    let (k, nx) := toIntF rm neg m e
    if k < lo then (lo, flNV) else if k > hi then (hi, flNV) else (k, if nx then flNX else 0)

/-- An integer rounded into FP32 (R176). -/
def cvtFromInt (rm : RM) (k : Int) : Nat × Flags := encodeF fp32 rm (ofInt k 0)

/-! ## Narrow formats (R61, R63) -/

/-- The float formats of R55 with their special values; none: an integer format. -/
def fmtFP : Fmt → Option (FP × Specials)
  | .e4m3 => some (fpE4m3, .e4m3)
  | .e5m2 => some (fpE5m2, .ieee)
  | .e3m2 => some (fpE3m2, .none)
  | .e2m3 => some (fpE2m3, .none)
  | .e2m1 => some (fpE2m1, .none)
  | .bf16 => some (fpBf16, .ieee)
  | .f16 => some (fpF16, .ieee)
  | .f32 => some (fp32, .ieee)
  | .i8 | .i4 => none

/-- The dither of SROUND: eight steps of the Galois LFSR, then the upper half (R63). -/
def srThreshold (seed : Word) (i e : Nat) : Nat :=
  let s0 : Word := seed ^^^ BitVec.ofNat 32 ((4 * i + e + 1) * 0x9E3779B9)
  let s1 : Word := if s0 = 0 then 1 else s0
  let stepL (s : Word) : Word := if s.getLsbD 0 then (s >>> 1) ^^^ 0x80200003 else s >>> 1
  ((List.range 8).foldl (fun s _ => stepL s) s1).toNat / 65536

/-- The rounding of a finite nonzero value into a narrow format, before the range check; sr: the dither of R63. -/
def narrowCore (p : FP) (sr : Option Nat) (neg : Bool) (m : Nat) (e : Int) : Nat × Int × Bool × Bool :=
  match sr with
  | none => roundCore p .rne neg m e false
  | some t =>
    let ufree := e + lead m - p.fb
    let u := max ufree p.emin
    if u ≤ e then (m * 2 ^ (e - u).toNat, u, false, decide (ufree < p.emin))
    else
      let sh := (u - e).toNat
      let lo := m / 2 ^ sh
      let g := 65536 * (m % 2 ^ sh) / 2 ^ sh
      let nx := m % 2 ^ sh != 0
      let q := if nx && decide (g > t) then lo + 1 else lo
      -- tiny after rounding: the rounded magnitude lies below the smallest normal
      let tiny := decide (u = p.emin) && decide (q < 2 ^ p.fb)
      if q = 2 ^ (p.fb + 1) then (2 ^ p.fb, u + 1, nx, tiny) else (q, u, nx, tiny)

/-- Conversion of an FP32 value to a narrow float format (R61). -/
def narrowF (f : Fmt) (p : FP) (fpmode : Word) (sr : Option Nat) (v : FV) : Nat × Flags :=
  let maxF (neg : Bool) : Nat := packF p neg p.maxM p.maxE
  let ovf (neg : Bool) : Nat × Flags :=
    match f with
    | .e5m2 => if fpmode.getLsbD 4 then (maxF neg, flOF ||| flNX) else (infF p neg, flOF ||| flNX)
    | .e4m3 => if fpmode.getLsbD 3 then (0x7F, flOF ||| flNX) else (maxF neg, flOF ||| flNX)
    | _ => (maxF neg, flOF ||| flNX)
  match v with
  | .nan sg =>
    match f with
    | .e5m2 => (0x7E, if sg then flNV else 0)
    | .e4m3 => (0x7F, if sg then flNV else 0)
    | _ => (0, flNV)
  | .inf neg =>
    match f with
    | .e5m2 => if fpmode.getLsbD 4 then (maxF neg, flOF) else (infF p neg, 0)
    | .e4m3 => if fpmode.getLsbD 3 then (0x7F, flNV) else (maxF neg, flOF)
    | _ => (maxF neg, flOF)
  | .fin neg m e =>
    if m = 0 then (zeroF p neg, 0)
    else
      let (q, u, nx, tiny) := narrowCore p sr neg m e
      if aboveMax p q u then ovf neg
      else (packF p neg q u, (if nx then flNX else 0) ||| (if tiny && nx then flUF else 0))

/-- The two's-complement reading of the low n bits. -/
def sextNat (n x : Nat) : Int :=
  let y := x % 2 ^ n
  if y < 2 ^ (n - 1) then y else (y : Int) - 2 ^ n

/-- The value of a narrow element (R53, R55). -/
def narrowVal (f : Fmt) (bits : Nat) : FV :=
  match fmtFP f with
  | some (p, sp) => decodeF p sp bits
  | none => ofInt (sextNat (if f == .i8 then 8 else 4) bits) 0

/-! ## Dot products with one rounding (R179) -/

/-- D plus the sum of products; sigElems: a signalling NaN of a 16-bit element counts (R179). -/
def dotF (d : FV) (a b : List FV) (sigElems : Bool) : Nat × Flags :=
  let prods := (a.zip b)
  let bad := prods.any fun x => badProduct x.1 x.2
  let good := (prods.filter fun x => !x.1.isNan && !x.2.isNan && !badProduct x.1 x.2).map fun x => x.1.mul x.2
  let vals := if d.isNan then good else d :: good
  let pinf := vals.any fun v => v.isInf && !v.neg?
  let ninf := vals.any fun v => v.isInf && v.neg?
  let anyNan := d.isNan || (a ++ b).any FV.isNan
  let sig := d.isSig || (sigElems && (a ++ b).any FV.isSig)
  let nv : Flags := if bad || (pinf && ninf) || sig then flNV else 0
  if anyNan || bad || (pinf && ninf) then (nanF fp32, nv)
  else if pinf then (infF fp32 false, 0)
  else if ninf then (infF fp32 true, 0)
  else
    let (k, e) := sumFin vals
    if k = 0 then (zeroF fp32 (vals.all fun v => v.isZero && v.neg?), 0)
    else encodeF fp32 .rne (ofInt k e)

/-! ## Unary functions (R171): correctly rounded from fixed-point values whose error lies far below the rounding (log 15) -/

/-- floor(sqrt n) by bits, from bit k down. -/
def isqrtFrom (n : Nat) : Nat → Nat → Nat
  | 0, r => r
  | k + 1, r => let t := r + 2 ^ k; if t * t ≤ n then isqrtFrom n k t else isqrtFrom n k r

def isqrt (n : Nat) : Nat := isqrtFrom n (Nat.log2 n / 2 + 1) 0

def frcp (rm : RM) (v : FV) : Nat × Flags :=
  match v with
  | .nan sg => (nanF fp32, if sg then flNV else 0)
  | .inf n => (zeroF fp32 n, 0)
  | .fin n m e =>
    if m = 0 then (infF fp32 n, flDZ)
    else
      let k := lead m + 64
      roundF fp32 rm n (2 ^ k / m) (-e - k) (2 ^ k % m != 0)

/-- m x 2^e with an even exponent. -/
def evenExp (m : Nat) (e : Int) : Nat × Int := if e % 2 = 0 then (m, e) else (2 * m, e - 1)

def fsqrt (rm : RM) (v : FV) : Nat × Flags :=
  match v with
  | .nan sg => (nanF fp32, if sg then flNV else 0)
  | .inf n => if n then (nanF fp32, flNV) else (infF fp32 false, 0)
  | .fin n m e =>
    if m = 0 then (zeroF fp32 n, 0)
    else if n then (nanF fp32, flNV)
    else
      let (m', e') := evenExp m e
      let x := m' * 2 ^ 128
      let r := isqrt x
      roundF fp32 rm false r (e' / 2 - 64) (r * r != x)

def frsq (rm : RM) (v : FV) : Nat × Flags :=
  match v with
  | .nan sg => (nanF fp32, if sg then flNV else 0)
  | .inf n => if n then (nanF fp32, flNV) else (zeroF fp32 false, 0)
  | .fin n m e =>
    if m = 0 then (infF fp32 n, flDZ)
    else if n then (nanF fp32, flNV)
    else
      let (m', e') := evenExp m e
      let r := isqrt (2 ^ 256 / m')
      roundF fp32 rm false r (-(e' / 2) - 128) (r * r * m' != 2 ^ 256)

/-- The product of 2^(2^-i) over the bits i = 1, 2, … of a fraction f / 2^n, at 320 fraction bits; root is 2^(2^-(i-1)). -/
def exp2Frac : Nat → Nat → Nat → Nat → Nat
  | 0, _, _, acc => acc
  | n + 1, f, root, acc =>
    let r := isqrt (root * 2 ^ 320)
    exp2Frac n f r (if f.testBit n then acc * r / 2 ^ 320 else acc)

def fexp2 (rm : RM) (v : FV) : Nat × Flags :=
  match v with
  | .nan sg => (nanF fp32, if sg then flNV else 0)
  | .inf n => (if n then zeroF fp32 false else infF fp32 false, 0)
  | .fin n m e =>
    if m = 0 then (0x3F800000, 0)
    else if e + lead m ≥ 10 then
      if n then roundF fp32 rm false (2 ^ 64) (-600) true else roundF fp32 rm false 1 600 false
    else
      let fb := (-e).toNat
      let x : Int := if n then -(m * 2 ^ e.toNat : Int) else m * 2 ^ e.toNat
      let ip := x / 2 ^ fb
      let f := (x % 2 ^ fb).toNat
      if f = 0 then roundF fp32 rm false 1 ip false
      else roundF fp32 rm false (exp2Frac fb f (2 ^ 321) (2 ^ 320)) (ip - 320) true

/-- n bits of log2 of y / 2^320, for y in [2^320, 2^321), by squaring. -/
def log2Frac : Nat → Nat → Nat → Nat
  | 0, _, acc => acc
  | n + 1, y, acc =>
    let z := y * y / 2 ^ 320
    if z ≥ 2 ^ 321 then log2Frac n (z / 2) (2 * acc + 1) else log2Frac n z (2 * acc)

def flog2 (rm : RM) (v : FV) : Nat × Flags :=
  match v with
  | .nan sg => (nanF fp32, if sg then flNV else 0)
  | .inf n => if n then (nanF fp32, flNV) else (infF fp32 false, 0)
  | .fin n m e =>
    if m = 0 then (infF fp32 true, flDZ)
    else if n then (nanF fp32, flNV)
    else
      let ip := e + lead m
      if m = 2 ^ lead m then encodeF fp32 rm (ofInt ip 0)
      else
        let k : Int := ip * 2 ^ 120 + log2Frac 120 (m * 2 ^ (320 - lead m)) 0
        -- the exact value lies between k and k + 1 units of 2^-120
        if k ≥ 0 then roundF fp32 rm false k.toNat (-120) true
        else roundF fp32 rm true (-k - 1).toNat (-120) true

/-- exp(-u / 2^400) at 400 fraction bits for u below 2^400, by its series. -/
def expNeg (u : Nat) : Nat :=
  let r := (List.range 110).foldl (fun (acc : Int × Int) i =>
    let t := -(acc.1 * u) / (2 ^ 400 * ((i : Int) + 1))
    (t, acc.2 + t)) ((2 ^ 400 : Int), (2 ^ 400 : Int))
  r.2.toNat

def ftanh (rm : RM) (v : FV) : Nat × Flags :=
  match v with
  | .nan sg => (nanF fp32, if sg then flNV else 0)
  | .inf n => (zeroF fp32 n + 0x3F800000, 0)
  | .fin n m e =>
    if m = 0 then (zeroF fp32 n, 0)
    else if e + lead m < -60 then roundF fp32 rm n (m * 2 ^ 64 - 1) (e - 64) true
    else if e + lead m ≥ 7 then roundF fp32 rm n (2 ^ 64 - 1) (-64) true
    else
      let t := (List.range 10).foldl (fun t _ => t * t / 2 ^ 400) (expNeg (m * 2 ^ (400 + e - 9).toNat))
      roundF fp32 rm n ((2 ^ 400 - t) * 2 ^ 200 / (2 ^ 400 + t)) (-200) true

/-! ## Lane operations on encodings -/

abbrev FRes := Word × Flags

def w32 (x : Nat × Flags) : FRes := (BitVec.ofNat 32 x.1, x.2)

/-- An imm7 converted exactly to FP32 (R35). -/
def imm7F (x : BitVec 7) : Word := BitVec.ofNat 32 (cvtFromInt .rne x.toInt).1

/-- An imm7 converted exactly into both halves (R35). -/
def imm7H (p : FP) (x : BitVec 7) : Word :=
  let h := (encodeF p .rne (ofInt x.toInt 0)).1
  BitVec.ofNat 32 (h + 65536 * h)

/-- SCALEX (R173). -/
def scalexF (rm : RM) (a b : Word) : FRes :=
  let va := dec32 a
  match dec32 b with
  | .nan sg => w32 (nanF fp32, if sg || !va.isNan || va.isSig then flNV else 0)
  | .inf neg =>
    match va with
    | .fin n m e => w32 (encodeF fp32 rm (.fin n m (e + (if neg then -1024 else 1024))))
    | .nan _ | .inf _ => w32 (encodeF fp32 rm va)
  | .fin nb mb eb =>
    let k := max (-1024) (min 1024 (toIntF .rz nb mb eb).1)
    match va with
    | .fin n m e => w32 (encodeF fp32 rm (.fin n m (e + k)))
    | .nan _ | .inf _ => w32 (encodeF fp32 rm va)

def scalexE8 (rm : RM) (a b : Word) : FRes :=
  let s := b.toNat % 256
  if s = 255 then w32 (nanF fp32, flNV)
  else
    match dec32 a with
    | .fin n m e => w32 (encodeF fp32 rm (.fin n m (e + (s : Int) - 127)))
    | .nan sg => w32 (encodeF fp32 rm (.nan sg))
    | .inf n => w32 (encodeF fp32 rm (.inf n))

/-- The half e of a lane as a value. -/
def half (p : FP) (w : Word) (e : Nat) : FV := decodeF p .ieee (w.toNat / 65536 ^ e % 65536)

/-- An operation on both halves; the flags are the union (R174). -/
def halves (f : Nat → Nat × Flags) : FRes :=
  let l := f 0
  let h := f 1
  (BitVec.ofNat 32 (l.1 + 65536 * h.1), l.2 ||| h.2)

/-- CVTF (R175): the new value of the destination lane. -/
def cvtfF (rm : RM) (src dst : FFmt) (sh dh : Bool) (a old : Word) : FRes :=
  let x := if src == .f32 then a.toNat else a.toNat / (if sh then 65536 else 1) % 65536
  let (y, fl) := encodeF (ffmtFP dst) rm (decodeF (ffmtFP src) .ieee x)
  if dst == .f32 then (BitVec.ofNat 32 y, fl)
  else if dh then (BitVec.ofNat 32 (old.toNat % 65536 + 65536 * y), fl)
  else (BitVec.ofNat 32 (old.toNat / 65536 * 65536 + y), fl)

/-- CVTI (R176). -/
def cvtiF (rm : RM) (k : CvtiK) (t : Bool) (a : Word) : FRes :=
  let r := if t then .rz else rm
  match k with
  | .tosi => let (x, fl) := cvtToInt r (-(2 ^ 31)) (2 ^ 31 - 1) (dec32 a); (BitVec.ofInt 32 x, fl)
  | .toui => let (x, fl) := cvtToInt r 0 (2 ^ 32 - 1) (dec32 a); (BitVec.ofInt 32 x, fl)
  | .fromsi => w32 (cvtFromInt rm a.toInt)
  | .fromui => w32 (cvtFromInt rm a.toNat)

/-- One element of PACKn (R177). -/
def packElem (f : Fmt) (fpmode seed : Word) (i e : Nat) (x : Word) : Nat × Flags :=
  let v := dec32 x
  match fmtFP f with
  | some (p, _) => narrowF f p fpmode (if fpmode.getLsbD 2 then some (srThreshold seed i e) else none) v
  | none =>
    let n := if f == .i8 then 8 else 4
    let (k, fl) := cvtToInt (rmOf fpmode) (-(2 ^ (n - 1))) (2 ^ (n - 1) - 1) v
    ((BitVec.ofInt n k).toNat, fl)

/-- The bits of one packed element (R56). -/
def elemBits (f : Fmt) : Nat :=
  match f with
  | .e4m3 | .e5m2 | .i8 => 8
  | .e3m2 | .e2m3 => 6
  | .e2m1 | .i4 => 4
  | .bf16 | .f16 => 16
  | .f32 => 32

/-- A lane of PACKn from the consecutive source slots. -/
def packLane (f : Fmt) (fpmode seed : Word) (i : Nat) (xs : List Word) : FRes :=
  let r := xs.foldr (fun x (acc : Nat × Nat × Flags) =>
    let e := acc.1 - 1
    let (y, fl) := packElem f fpmode seed i e x
    (e, acc.2.1 * 2 ^ elemBits f + y, acc.2.2 ||| fl)) (xs.length, 0, 0)
  (BitVec.ofNat 32 r.2.1, r.2.2)

/-- Element e of a packed lane. -/
def elemOf (f : Fmt) (w : Word) (e : Nat) : Nat := w.toNat / 2 ^ (elemBits f * e) % 2 ^ elemBits f

/-- Element e of a lane converted exactly to FP32 (R178). -/
def unpackElem (f : Fmt) (w : Word) (e : Nat) : Word :=
  BitVec.ofNat 32 (encodeF fp32 .rne (narrowVal f (elemOf f w e))).1

end Sys2Proof.Machine
end

