-- ==== Sys2Proof/Machine/Home.lean ====
section
/-! DEFINITION. Registers of a group (R23 to R25), the writes that a line's home performs (R191, R213, R228), and the reads and writes
of engines that act there. -/

namespace Sys2Proof.Machine

/-! ## Registers -/

def Group.getS (g : Group) (r : Nat) : Word := sget 0 g.s r

def Group.setS (g : Group) (r : Nat) (x : Word) : Group := { g with s := sput 0 g.s r x }

/-- The even-odd pair n as 64 bits: S2n is the low word (R25). -/
def Group.getSPair (g : Group) (n : Nat) : DWord := g.getS (2 * n + 1) ++ g.getS (2 * n)

def Group.setSPair (g : Group) (n : Nat) (x : DWord) : Group :=
  (g.setS (2 * n) (x.extractLsb' 0 32)).setS (2 * n + 1) (x.extractLsb' 32 32)

def Group.getM (g : Group) (r : Nat) : Word := sget 0 g.m r

def Group.setM (g : Group) (r : Nat) (x : Word) : Group := { g with m := sput 0 g.m r x }

/-- Lane i of physical register r. -/
def Group.getP (g : Group) (r i : Nat) : Word := sget 0 g.v (32 * r + i)

def Group.setP (g : Group) (r i : Nat) (x : Word) : Group := { g with v := sput 0 g.v (32 * r + i) x }

/-- Lane i of slot V_r, through the window (R24). -/
def Group.getV (g : Group) (r i : Nat) : Word := g.getP (g.wb + r) i

/-- Writes f i into lane i of physical register r for the lanes of a mask. -/
def Group.setLanesP (g : Group) (r : Nat) (mask : LaneMask) (f : Nat → Word) : Group :=
  (lanesOf mask).foldl (fun g i => g.setP r i (f i)) g

def Group.setLanes (g : Group) (r : Nat) (mask : LaneMask) (f : Nat → Word) : Group := g.setLanesP (g.wb + r) mask f

def Group.setFlags (g : Group) (fl : BitVec 5) : Group := { g with fpflags := g.fpflags ||| fl.zeroExtend 32 }

/-! ## Line homes -/

/-- The bytes off .. off + n - 1 of the home's line as a number. -/
def State.homeNat (s : State) (k : LineKey) (off n : Nat) : Nat := lineNat (s.homeRead k).1 off n

/-! ## Engines -/

/-- Splits a run of bytes at line boundaries: address and length of each part. -/
def linePieces : Nat → Nat → Nat → List (Nat × Nat)
  | 0, _, _ => []
  | _, _, 0 => []
  | fuel + 1, va, n =>
    let k := min n (128 - va % 128)
    (va, k) :: linePieces fuel (va + k) (n - k)

/-- The line of a context virtual address for an engine of the device (KD, RCB, table and log accesses), or the reason of failure.
Engines of the home side reach mapped local and far memory only. -/
def State.engineKey (s : State) (cx va : Nat) (a : Acc) : State × Except XRes LineKey :=
  match regionOf va with
  | .localTable =>
    match s.walk cx va a with
    | (s1, .ok t) => (s1, .ok (t.key va))
    | (s1, r) => (s1, .error r)
  | .none | .pod | .mcast | .trap | .control => (s, .error (.fail causeProt 0))

/-- The sector whose TLB translates the requests of the pod for a context: the lowest of those that its work may be placed in (DESIGN CHOICE,
log 38: R314 says the exporting vchip's TLBs and not which). -/
def State.podSector (s : State) (cx : Nat) : Nat := (s.sectorsFor cx).headD 0

/-- A local address of the exporting context through its TLB, then by the walk, which refills it (R314, R317). -/
def State.podTranslate (s : State) (cx va : Nat) (a : Acc) : State × XRes :=
  let sec := s.podSector cx
  match s.sectorTlb.find? fun e => e.1 == sec && e.2.covers cx va a with
  | some e => (s, (e.2.permits a).getD (.ok e.2))
  | none =>
    match s.walk cx va a with
    | (s1, .ok t) => (s1.refillSector sec t, .ok t)
    | r => r

/-- The same, of an engine's own event. Where the page is in migration the event waits (R316): the state says so, and the step under way is
held. One that is due in its cycle goes on, and reaches the old frame, whose bytes move later in one step (R325; log 35). -/
def State.engineNow (s : State) (cx va : Nat) (a : Acc) : State × Option LineKey :=
  match s.engineKey cx va a with
  | (s1, .ok k) => (s1, some k)
  | (s0, .error .wait) =>
    let s1 : State := { s0 with migWait := true }
    match s1.ctx? cx with
    | none => (s1, none)
    | some c =>
      match s1.walkTo c va 4 0 c.bindRec.ptRoot with
      | .error _ => (s1, none)
      | .ok (ea, level, p) =>
        let t := xlatOf cx va level p a
        match t.permits a with
        | some _ => (s1, none)
        | none => (s1.markEntry c ea p t.d, some (t.key va))
  | (s1, .error _) => (s1, none)

/-- n bytes of context memory as an engine reads them at the homes; none: untranslated, unreadable or poisoned. -/
def State.engineRead (s : State) (cx va n : Nat) : State × Option (List Byte) :=
  (linePieces (n / 128 + 2) va n).foldl (fun (acc : State × Option (List Byte)) p =>
    match acc.2 with
    | none => acc
    | some bs =>
      match acc.1.engineNow cx p.1 .read with
      | (s1, none) => (s1, none)
      | (s1, some k) =>
        let (d, poi) := s1.homeRead k
        if poi then (s1.homeNote k, none)
        else (s1.homeNote k, some (bs ++ leBytes p.2 (lineNat d (p.1 % 128) p.2)))) (s, some [])

/-- Writes bytes at the homes; false: some byte was not written. -/
def State.engineWrite (s : State) (cx va : Nat) (bs : List Byte) : State × Bool :=
  (linePieces (bs.length / 128 + 2) va bs.length).foldl (fun (acc : State × Bool) p =>
    match acc.1.engineNow cx p.1 .write with
    | (s1, none) => (s1, false)
    | (s1, some k) =>
      let part := (bs.drop (p.1 - va)).take p.2
      let (s2, ok) := s1.homeWrite k (lineAt (p.1 % 128) part) (maskOf (p.1 % 128) p.2)
      (s2, acc.2 && ok)) (s, true)

/-- Bytes at a physical address under a context's own key. -/
def State.physKey (cx pa : Nat) : LineKey := { cx := cx, pod := false, n := pa / 128 }

/-- Writes bytes at a physical address under the context's key, at the homes. -/
def State.physWrite (s : State) (cx pa : Nat) (bs : List Byte) : State :=
  (linePieces (bs.length / 128 + 2) pa bs.length).foldl (fun s p =>
    (s.homeWrite (State.physKey cx p.1) (lineAt (p.1 % 128) ((bs.drop (p.1 - pa)).take p.2)) (maskOf (p.1 % 128) p.2)).1) s

/-! ## A core's own view of a line -/

/-- The line of a core's L1. -/
def Core.line? (c : Core) (k : LineKey) : Option L1Line := c.l1.find? fun l => l.key.same k

/-- The home's line with the core's own unpublished bytes over it (R194). -/
def State.coreView (s : State) (core : Nat) (k : LineKey) : LineData :=
  let h := (s.homeRead k).1
  match (s.core core).line? k with
  | none => h
  | some l => mergeLine h l.data l.dirty

/-- The physical address of the save slot of a group context (R148, R151). -/
def Context.slotAddr (c : Context) (r : GRef) : Nat := c.bindRec.saveBase + 512 * (32 * r.core + r.gctx)

/-- The frame of a group as its core sees it: n bytes from off (R150). -/
def State.frameNat (s : State) (g : Group) (off n : Nat) : Nat :=
  match s.ctx? g.cx with
  | none => 0
  | some c =>
    let pa := c.slotAddr g.ref + off
    lineNat (s.coreView g.ref.core (State.physKey g.cx pa)) (pa % 128) n

/-- Writes the frame of a group; the core's own copies of its lines are replaced (R148, R155). -/
def State.frameWrite (s : State) (g : Group) (off : Nat) (bs : List Byte) : State :=
  match s.ctx? g.cx with
  | none => s
  | some c =>
    let pa := c.slotAddr g.ref + off
    let s1 := s.physWrite g.cx pa bs
    s1.updCore g.ref.core fun co =>
      { co with l1 := co.l1.map fun l =>
          if l.key.pod then l
          else
            let lo := 128 * l.key.n
            let hit := (List.range 128).foldl (fun (m : LineMask) i =>
              if pa ≤ lo + i ∧ lo + i < pa + bs.length then m ||| maskOf i 1 else m) 0
            if hit = 0 then l
            else { l with data := mergeLine l.data (s1.homeRead l.key).1 hit, dirty := l.dirty &&& ~~~hit } }

end Sys2Proof.Machine
end

