-- ==== Sys2Proof/Machine/QueueOps.lean ====
section
/-! DEFINITION. The events of a queue (spec/05_queue.md R88 to R92) as functions on its fields. -/

namespace Sys2Proof.Machine

def errNone : Nat := 0
def errBadbase : Nat := 1
def errBadsize : Nat := 2
def errBadwridx : Nat := 3
def errXlate : Nat := 4
def errBadcmd : Nat := 5
def errPrivcmd : Nat := 6
def errBadarg : Nat := 7
def errBadkd : Nat := 8
def errBadcirc : Nat := 9
def errCxstate : Nat := 10
def errBadwrap : Nat := 11

/-- The hypervisor queue's interface number here (R95). -/
def hvIface : Nat := 4096

/-- The code of a state, which STATE reports (R89). -/
def QState.code : QState → Nat
  | .detached => 0 | .idle => 1 | .active => 2 | .paused => 3 | .draining => 4 | .error => 5

/-- The word at an offset of the page, a multiple of 4 (R88). WO fields, RSV bits and the reserved offsets read 0; so does every field but
STATE of a DETACHED queue. -/
def Queue.pageRead (q : Queue) (off : Nat) : Word :=
  let state := BitVec.ofNat 32 (q.st.code * 2 ^ 28)
  if q.st == .detached then (if off = 0x14 then state else 0)
  else match off with
    | 0x00 => BitVec.ofNat 32 q.qbase
    | 0x04 => BitVec.ofNat 32 (q.qbase / 2 ^ 32)
    | 0x08 => BitVec.ofNat 32 q.qsize
    | 0x0C => BitVec.ofNat 32 q.wridx
    | 0x10 => BitVec.ofNat 32 q.rdidx
    | 0x14 =>
      let bit (n : Nat) (b : Bool) : Word := BitVec.ofNat 32 (b.toNat * 2 ^ n)
      state ||| bit 26 q.dpend ||| bit 25 q.spause ||| bit 24 q.gpause ||| BitVec.ofNat 32 (q.err % 256 * 2 ^ 16)
    | 0x18 => BitVec.ofNat 32 q.erridx
    | _ => 0

/-- The interface and the offset in its page of an offset of BAR 2 (R87). -/
def pageOf (off : Nat) : Nat × Nat := (off / 0x1000, off % 0x1000)

/-- The checks of R91 in their order; 0: they pass. -/
def Queue.check (q : Queue) : Nat :=
  if q.qsize < 2 ∨ q.qsize > 65536 ∨ q.qsize ≠ 2 ^ q.qsize.log2 then errBadsize
  else if q.qbase % 64 ≠ 0 ∨ q.qbase + 64 * q.qsize > 2 ^ 57 then errBadbase
  else if q.wridx ≥ q.qsize then errBadwridx
  else errNone

/-- *doorbell* in IDLE or ACTIVE on the WRIDX that the queue holds. Where it equals RDIDX, an ACTIVE queue goes to IDLE at once (DESIGN CHOICE,
log 45: *empty* is raised when RDIDX reaches WRIDX, and the table lists ACTIVE as its state). -/
def Queue.ring (q : Queue) : Queue :=
  if q.check ≠ errNone then { q with st := .error, err := q.check, erridx := q.rdidx }
  else { q with st := if q.wridx = q.rdidx then .idle else .active }

/-- *doorbell*: a write to WRIDX. -/
def Queue.doorbell (q : Queue) (w : Nat) : Queue :=
  match q.st with
  | .idle | .active => ({ q with wridx := w } : Queue).ring
  | .paused | .draining | .error => { q with wridx := w }
  | .detached => q

/-- *drained*: the commands up to the drain index and their kernels have completed. -/
def Queue.tryDrained (q : Queue) : Queue :=
  if q.st == .draining && q.rdidx == q.drainIdx && q.inflight.isEmpty then ({ q with st := .idle, dpend := false } : Queue).ring else q

/-- A command has been consumed: RDIDX advances, *empty* or *drained* may follow. -/
def Queue.advance (q : Queue) : Queue :=
  let q1 : Queue := { q with rdidx := (q.rdidx + 1) % q.qsize, seq := q.seq + 1 }
  if q1.st == .active && q1.rdidx == q1.wridx then { q1 with st := .idle } else q1.tryDrained

/-- *invalid* at the entry that is to be consumed. -/
def Queue.invalid (q : Queue) (err : Nat) : Queue := { q with st := .error, err := err, erridx := q.rdidx, dpend := false }

/-- *invalid* of a refused SIGNAL write at a ring index; an ERROR that stands is kept (DESIGN CHOICE, log 45: the table has no row for it). -/
def Queue.refused (q : Queue) (idx : Nat) : Queue :=
  match q.st with
  | .active | .draining => { q with st := .error, err := errXlate, erridx := idx, dpend := false }
  | .idle | .paused => { q with st := .error, err := errXlate, erridx := idx, dpend := false, gpause := false }
  | .error | .detached => q

/-- *gpause*. -/
def Queue.gpauseEv (q : Queue) : Queue :=
  match q.st with
  | .idle | .active => { q with st := .paused, gpause := true }
  | .paused | .draining | .error | .detached => q

/-- *gresume*. -/
def Queue.gresumeEv (q : Queue) : Queue :=
  match q.st with
  | .paused => if q.spause then { q with gpause := false } else ({ q with st := .idle, gpause := false } : Queue).ring
  | .idle | .active | .draining | .error | .detached => q

/-- *spause*. -/
def Queue.spauseEv (q : Queue) : Queue :=
  match q.st with
  | .idle | .active | .draining => { q with st := .paused, spause := true }
  | .paused | .error => { q with spause := true }
  | .detached => q

/-- *sresume*. -/
def Queue.sresumeEv (q : Queue) : Queue :=
  match q.st with
  | .paused =>
    if q.gpause then { q with spause := false }
    else if q.dpend then ({ q with st := .draining, spause := false } : Queue).tryDrained
    else ({ q with st := .idle, spause := false } : Queue).ring
  | .error => { q with spause := false }
  | .idle | .active | .draining | .detached => q

/-- *drain*. -/
def Queue.drainEv (q : Queue) : Queue :=
  match q.st with
  | .idle | .active => ({ q with st := .draining, drainIdx := q.wridx, dpend := true } : Queue).tryDrained
  | .paused | .draining | .error | .detached => q

/-- *clear*. -/
def Queue.clearEv (q : Queue) : Queue :=
  match q.st with
  | .error => { q with st := if q.spause then .paused else .idle, err := 0, wridx := q.rdidx }
  | .idle | .active | .paused | .draining | .detached => q

/-- *attach*. -/
def Queue.attachEv (q : Queue) : Queue :=
  match q.st with
  | .detached => { iface := q.iface, cx := q.cx, st := .idle }
  | .idle | .active | .paused | .draining | .error => q

/-- *reset*: every command that has not been consumed is discarded, and what was in flight is forgotten (R86). -/
def Queue.resetEv (q : Queue) : Queue :=
  match q.st with
  | .detached => q
  | .idle | .active | .paused | .draining | .error =>
    { q with st := .paused, rdidx := q.wridx, gpause := false, err := 0, dpend := false, spause := true, inflight := [], signals := [] }

/-- *detach*. -/
def Queue.detachEv (q : Queue) : Queue := { iface := q.iface, cx := q.cx }

/-- A write to QBASE or QSIZE: only in IDLE with an empty ring, or in ERROR (R88). -/
def Queue.setRing (q : Queue) (f : Queue → Queue) : Queue :=
  if (q.st == .idle && q.rdidx == q.wridx) || q.st == .error then { f q with rdidx := 0, wridx := 0 } else q

/-- A write to QCTL: the events of its bits in ascending order, each on the state that the one before it left (R88). -/
def Queue.qctl (q : Queue) (w : Word) : Queue :=
  let q1 := if w.getLsbD 1 then q.gpauseEv else q
  let q2 := if w.getLsbD 2 then q1.gresumeEv else q1
  let q3 := if w.getLsbD 3 then q2.drainEv else q2
  if w.getLsbD 4 then q3.clearEv else q3

/-- A write of a value to an offset of the page (R88). -/
def Queue.pageStore (q : Queue) (off : Nat) (v : DWord) : Queue :=
  match off with
  | 0x00 => q.setRing fun q => { q with qbase := v.toNat }
  | 0x08 => q.setRing fun q => { q with qsize := (v.extractLsb' 0 32).toNat }
  | 0x0C => q.doorbell (v.extractLsb' 0 32).toNat
  | 0x1C => q.qctl (v.extractLsb' 0 32)
  | _ => q

/-- The guest queues of a context. -/
def State.mapQueues (s : State) (cx : Nat) (f : Queue → Queue) : State :=
  { s with queues := upd (fun q => q.cx == cx && q.iface != hvIface) f s.queues }

/-- A command of a queue completes; IRQ = 1 sends the interface's MSI-X (R93). -/
def State.cmdDone (s : State) (iface seq : Nat) : State :=
  match s.queue? iface with
  | none => s
  | some q =>
    match q.inflight.find? fun c => c.1 == seq with
    | none => s
    | some c =>
      let s1 := s.updQueue iface fun q => ({ q with inflight := q.inflight.filter fun c => c.1 != seq } : Queue).tryDrained
      if c.2.2 then s1.emit (.msix iface) else s1

end Sys2Proof.Machine
end

