-- ==== Sys2Proof/Machine/TileNum.lean ====
section
/-! DEFINITION. The matrix unit's arithmetic (R64 to R68) and the products of one job over the operand buffer and the weight slots
(R292, R293, R298, R301, R306, R307). -/

namespace Sys2Proof.Machine

/-- The classes of R66. -/
inductive MClass where
  | byte | four | half
  deriving DecidableEq, Repr, Inhabited

def fmtClass : Fmt → Option MClass
  | .e4m3 | .e5m2 | .e3m2 | .e2m3 | .i8 => some .byte
  | .e2m1 => some .four
  | .bf16 | .f16 => some .half
  | .i4 | .f32 => none

/-- R66: the formats of A and B belong to one class; in the 16-bit class they are the same. -/
def fmtsMeet (a b : Fmt) : Bool := fmtClass a == fmtClass b && (fmtClass a != some .half || a == b)

/-- Blocks in a step (R293). -/
def blocksOf (f : Fmt) : Nat := if fmtClass f == some .four then 2 else 1

/-- Elements of a block (R293). -/
def blockLen (f : Fmt) : Nat := if fmtClass f == some .half then 128 else 256

/-- Bits that an element occupies in an operand row (R57). -/
def rowBits (f : Fmt) : Nat :=
  match fmtClass f with
  | some .four => 4
  | some .half => 16
  | some .byte | none => 8

/-- Element k of a row held as a number (R57). -/
def rowElem (f : Fmt) (row k : Nat) : FV :=
  let x := row / 2 ^ (rowBits f * k) % 2 ^ rowBits f
  narrowVal f (if f == .e3m2 || f == .e2m3 then x % 64 else x)

/-- The class of a block and its partial, k x 2^e (R67). -/
inductive BlockRes where
  | nan
  | inf (neg : Bool)
  | fin (k : Int) (e : Int)
  deriving DecidableEq, Repr, Inhabited

/-- TRUNCSUM over exact products (R68). -/
def truncSum (ps : List FV) : Int × Int :=
  let top := ps.foldl (fun (a : Option Int) v => match v with
    | .fin _ m e => if m = 0 then a else some (match a with | some t => max t (e + lead m) | none => e + lead m)
    | .nan _ | .inf _ => a) none
  match top with
  | none => (0, 0)
  | some t =>
    let g := t - 60
    (ps.foldl (fun acc v => match v with
      | .fin n m e =>
        let q : Int := if g ≤ e then m * 2 ^ (e - g).toNat else m / 2 ^ (g - e).toNat
        acc + (if n then -q else q)
      | .nan _ | .inf _ => acc) 0, g)

/-- BLOCK of R67 over the elements of one block of a row and a column. -/
def blockSum (half : Bool) (a b : List FV) : BlockRes :=
  let ab := a.zip b
  if ab.any fun x => x.1.isNan || x.2.isNan || badProduct x.1 x.2 then .nan
  else
    let ps := ab.map fun x => x.1.mul x.2
    let pinf := ps.any fun v => v.isInf && !v.neg?
    let ninf := ps.any fun v => v.isInf && v.neg?
    if pinf && ninf then .nan
    else if pinf then .inf false
    else if ninf then .inf true
    else let (k, e) := if half then truncSum ps else sumFin ps; .fin k e

/-- DRAIN of R67: C with the block's partial under the scales sA and sB. -/
def drain (c : Word) (r : BlockRes) (sA sB : Nat) : Word :=
  let nan : Word := BitVec.ofNat 32 (nanF fp32)
  let cv := dec32 c
  if sA = 255 ∨ sB = 255 then nan
  else
    match r with
    | .nan => nan
    | .inf n =>
      if cv.isNan || (cv.isInf && cv.neg? != n) then nan else BitVec.ofNat 32 (infF fp32 n)
    | .fin k e =>
      if cv.isNan then nan
      else if cv.isInf then c
      else
        let (z, ez) := sumFin [cv, ofInt k (e + (sA : Int) - 127 + (sB : Int) - 127)]
        if z = 0 then 0 else BitVec.ofNat 32 (encodeF fp32 .rne (ofInt z ez)).1

/-- The n bytes from k on as a number, in one pass. -/
def runNat (m : Sparse Byte) (k n : Nat) : Nat :=
  m.foldl (fun acc e => if k ≤ e.1 ∧ e.1 < k + n then acc + e.2.toNat * 2 ^ (8 * (e.1 - k)) else acc) 0

/-- The slot of step s (R305). -/
def slotAt (w : Nat) (wadv : Bool) (s : Nat) : Nat := if wadv then (w + s) % 8 else w

def Job.slotOf (j : Job) (s : Nat) : Nat := slotAt j.w j.wadv s

/-- The record row of A row m of step s (R298). -/
def Job.rowOf (j : Job) (s m : Nat) : Nat :=
  match j.gather with
  | none => s * j.ainc + m
  | some (g, _) => g.getD m 0 + s * j.ainc

/-- The A rows that a job computes: all, or those whose gather lane is not 0xFFFF_FFFF (R307). -/
def Job.rows (j : Job) : List Nat :=
  match j.gather with
  | none => List.range 32
  | some (g, _) => filterRange 32 fun m => g.getD m 0 != 0xFFFF_FFFF

/-- The scale of A row q in block b, from the record's bytes (R298). -/
def Core.scaleA (c : Core) (r : QRec) (q b : Nat) : Nat :=
  if r.sc then runNat c.opbuf (256 * r.base + r.soff + blocksOf r.fmt * q + b) 1 else 0x7F

/-- The drains of one step into the row m of C, given as 64 words, in ascending block order; n of its blocks are drained. -/
def Core.stepRow (c : Core) (j : Job) (r : QRec) (s n m : Nat) (row : List Word) : List Word :=
  let slot := ((j.tiles.find? fun e => e.1 == j.slotOf s).map (·.2)).getD {}
  let q := j.rowOf s m
  let half := fmtClass r.fmt == some .half
  let a := runNat c.opbuf (256 * (r.base + q)) 256
  (List.range n).foldl (fun cw b =>
    let ks := (List.range (blockLen r.fmt)).map fun i => blockLen r.fmt * b + i
    let av := ks.map (rowElem r.fmt a)
    let sA := c.scaleA r q b
    cw.zipIdx.map fun (w, col) =>
      let bv := ks.map (rowElem slot.fmt (runNat slot.tile (256 * col) 256))
      drain w (blockSum half av bv) sA (if slot.scaled then slot.scales.getD (64 * b + col) 0x7F else 0x7F)) row

/-- Row m of C after the first n drains of a job, in ascending step and block order. -/
def Core.jobRow (c : Core) (j : Job) (r : QRec) (n m : Nat) (row : List Word) : List Word :=
  let nb := blocksOf r.fmt
  (List.range j.steps).foldl (fun cw s => c.stepRow j r s (min nb (n - s * nb)) m cw) row

/-- The drains of a job that starts in cycle st whose cycles lie at or before now (R301). -/
def drainsBy (st steps nb now : Nat) : Nat :=
  ((List.range steps).map fun s => ((List.range nb).filter fun b => st + 128 * s + 131 + b ≤ now).length).foldl (· + ·) 0

/-- The cycle of the last step of a job (R301). -/
def Job.lastStep (j : Job) (st : Nat) : Nat := st + 128 * (j.steps - 1) + 127

/-- The cycle in which a job ends: the cycle after the last drain, and two cycles a row for a scatter (R301). -/
def Job.endCycle (j : Job) (st nb : Nat) : Nat :=
  st + 128 * (j.steps - 1) + 131 + nb + (match j.gather with | none => 0 | some _ => 2 * j.rows.length)

/-- The last cycle in which a started job's steps read slot w, if they do (R296). -/
def Job.busyUntil (j : Job) (w st : Nat) : Option Nat :=
  let ss := (List.range j.steps).filter fun s => j.slotOf s == w
  ss.getLast?.map fun s => st + 128 * s + 127

/-- Slot w is busy on account of an MMA or MMAG at a cycle (R296). -/
def Core.mmaBusy (c : Core) (w now : Nat) : Bool :=
  c.jobs.any fun j =>
    match j.start with
    | none => (List.range j.steps).any fun s => j.slotOf s == w
    | some st => match j.busyUntil w st with
      | none => false
      | some t => decide (now ≤ t)

end Sys2Proof.Machine
end

