-- ==== Sys2Proof/Machine/Life.lean ====
section
/-! DEFINITION. The lives of operations, groups, workgroups, kernels and images: completion, kill (R103, R117), boards (R283), fault
records and policies (R101, R158), flashback (R143 to R146), the fault of a context (R85). -/

namespace Sys2Proof.Machine

/-! ## Operations, pending in a group or held in an image -/

def State.allOps (s : State) : List PendOp := s.ops ++ s.images.flatMap fun im => im.ops

def State.anyOp? (s : State) (id : Nat) : Option PendOp := s.allOps.find? fun o => o.id == id

def State.mapOp (s : State) (id : Nat) (f : PendOp → PendOp) : State :=
  { s with ops := upd (fun o => o.id == id) f s.ops,
           images := s.images.map fun im => { im with ops := upd (fun o => o.id == id) f im.ops } }

/-- Changes the group of an operation, resident or in the image that holds the operation (R146). -/
def State.withOpGroup (s : State) (o : PendOp) (f : Group → Group) : State :=
  if s.ops.any fun p => p.id == o.id then s.updGroup o.grp f
  else
    { s with images := s.images.map fun im =>
        if im.ops.any fun p => p.id == o.id then { im with groups := upd (fun g => g.ref == o.grp) f im.groups } else im }

/-- A workgroup, resident or in an image (R253, R270). -/
def State.anyWg? (s : State) (cx kernel l : Nat) : Option Workgroup :=
  (s.wgs ++ s.images.flatMap fun im => im.wgs).find? fun w => w.cx == cx && w.kernel == kernel && w.l == l

def State.mapWg (s : State) (cx kernel l : Nat) (f : Workgroup → Workgroup) : State :=
  let p (w : Workgroup) : Bool := w.cx == cx && w.kernel == kernel && w.l == l
  { s with wgs := upd p f s.wgs, images := s.images.map fun im => { im with wgs := upd p f im.wgs } }

def OpKind.isCopy : OpKind → Bool
  | .copy _ => true
  | .load .. | .lds .. | .atom .. | .atoms .. | .watch .. | .pfl2 .. | .tffr .. | .mma _ | .board .. | .lapwait .. | .shseal ..
  | .shpin .. | .shld .. | .recv .. | .xchg .. => false

/-- The commits of R146 whose results are still owed, and the watches of R145. -/
def OpKind.kept : OpKind → Bool
  | .atom .. | .atoms .. | .shseal .. | .xchg .. | .watch .. => true
  | .copy _ | .load .. | .lds .. | .pfl2 .. | .tffr .. | .mma _ | .board .. | .lapwait .. | .shpin .. | .shld .. | .recv .. => false

/-- Commits that go on for a group that is gone. -/
def OpKind.committed : OpKind → Bool
  | .atom .. | .atoms .. | .shseal .. => true
  | .copy _ | .load .. | .lds .. | .pfl2 .. | .tffr .. | .mma _ | .board .. | .lapwait .. | .shpin .. | .shld .. | .recv ..
  | .xchg .. | .watch .. => false

/-- Flag n of a group is set: an operation is attached to it (R31). -/
def State.flagSet (s : State) (r : GRef) (n : Nat) : Bool := s.ops.any fun o => o.grp == r && o.flag == n

/-- PENDF of R150. -/
def State.pendf (s : State) (r : GRef) : BitVec 12 :=
  (filterRange 12 fun n => s.flagSet r n).foldl (fun m n => m ||| BitVec.ofNat 12 (2 ^ n)) 0

/-! ## Release of a group's objects -/

def State.sendSh (s : State) (m : ShMsg) : State :=
  { s with shMsgs := s.shMsgs ++ [{ m with id := s.nextId }], nextId := s.nextId + 1 }

/-- The pins of a group are released and its open versions abandoned (R244, R234). -/
def State.releaseSheaf (s : State) (g : Group) : State :=
  let s1 := g.pins.foldl (fun s p => s.sendSh { id := 0, kind := .unpin, cx := g.cx, sheaf := p.1, ver := p.2.1, grp := g.ref }) s
  (g.opens ++ g.xopens).foldl (fun s p =>
    s.sendSh { id := 0, kind := .drop, cx := g.cx, sheaf := p.1, ver := p.2, grp := g.ref, abandon := true }) s1

/-- The sequencer gives up the jobs of a group; one whose steps still run ends in this cycle (R145, R301). -/
def Core.cancelJobs (c : Core) (r : GRef) (now : Nat) : Core :=
  let mine := c.jobs.filter fun j => j.grp == r
  let busy := filterRange 8 fun n => ({ c with jobs := mine } : Core).mmaBusy n now
  let c1 := { c with jobs := c.jobs.filter (fun j => j.grp != r),
                     freed := busy.map (fun n => (n, now + 1)) ++ c.freed.filter fun e => !busy.contains e.1 }
  match (c.jobs.filter fun j => j.start.isSome).getLast? with
  | none => c1
  | some j =>
    -- its steps are still running
    if j.grp == r && (j.start.map fun st => decide (now < st + 128 * j.steps)).getD false then
      { c1 with seqFree := now + 1,
                past := c.past.map fun p => if p.1 == r && some p.2.1 == j.start then (p.1, p.2.1, now + 1) else p }
    else c1

def Core.updSlot (c : Core) (n : Nat) (f : Slot → Slot) : Core :=
  { c with slots := upd (fun e : Nat × Slot => e.1 == n) (fun e => (e.1, f e.2)) c.slots }

/-- *release* of R295 and R304: slots FREE, records freed. -/
def Core.releaseTile (c : Core) (r : GRef) : Core :=
  { c with slots := c.slots.filter fun e => e.2.owner != some r, recs := c.recs.filter fun e => e.2.owner != r }

/-- A cancelled MMAG has written no scratchpad (R145, R307): the words that its scatter has written so far, and nothing has written since,
return to what they were (DESIGN CHOICE, log 54). -/
def State.undoScatter (s : State) (r : GRef) : State :=
  match s.group? r with
  | none => s
  | some g =>
    let words := ((s.core r.core).jobs.filter fun j => j.grp == r).flatMap (·.undo)
    if words.isEmpty then s
    else
      (s.updWgOf g fun w => words.foldl (fun w e => if w.nat e.1 4 == e.2.2.toNat then w.putBytes e.1 (leBytes 4 e.2.1.toNat) else w) w).updCore
        r.core fun c => { c with jobs := upd (fun j => j.grp == r) (fun j => { j with undo := [] }) c.jobs }

/-- A group context becomes FREE (R117). -/
def State.freeGroup (s0 : State) (r : GRef) : State :=
  let s := s0.undoScatter r
  let s1 := s.updCore r.core fun c => (c.cancelJobs r s.cycle).releaseTile r
  { s1 with groups := s1.groups.filter fun g => g.ref != r }

/-- *settled*: an ENDING group without pending operations other than copies becomes FREE (R117). -/
def State.settle (s : State) (r : GRef) : State :=
  match s.group? r with
  | none => s
  | some g =>
    if g.status == .ending && !(s.ops.any fun o => o.grp == r && !o.kind.isCopy && decide (o.flag < 102)) then
      -- a copy left behind runs on without the group; a watch that a restore installed and no WATCH took up is freed
      let s1 := s.freeGroup r
      { s1 with ops := s1.ops.filter fun o => o.grp != r }
    else s

/-- A flag of a group clears: the records that its MMAs named are in use no more on its account (R297). -/
def State.endUses (s : State) (r : GRef) (flag : Nat) : State :=
  s.updCore r.core fun c =>
    { c with recs := upd (fun e : Nat × QRec => e.2.owner == r) (fun e => (e.1, { e.2 with flags := e.2.flags.filter (· != flag) })) c.recs }

/-- An operation leaves its flag (R31). -/
def State.finishOp (s : State) (id : Nat) : State :=
  match s.anyOp? id with
  | none => s
  | some o =>
    let s1 : State := { s with ops := s.ops.filter fun p => p.id != id,
                               images := s.images.map fun im => { im with ops := im.ops.filter fun p => p.id != id } }
    let s2 := if s1.ops.any fun p => p.grp == o.grp && p.flag == o.flag then s1 else s1.endUses o.grp o.flag
    s2.settle o.grp

/-! ## Boards -/

def boardOk : Nat := 0
def boardMiss : Nat := 1
def boardBad : Nat := 2
def boardPreempt : Nat := 3
def boardCancel : Nat := 4
def boardNocirc : Nat := 5
def boardBadpos : Nat := 6
def boardSlotArmed : Nat := 7
def boardSlotOwned : Nat := 8
def boardEnded : Nat := 9

/-- One board of an issue completes with a status (R288). The flag clears with the last of them, a cycle after the status of a verdict
(R283). -/
def State.boardDone (s : State) (op : Nat) (lowest : Bool) (lap code : Nat) : State :=
  match s.anyOp? op with
  | none => s
  | some o =>
    match o.kind with
    | .board d left _ =>
      let w : Word := BitVec.ofNat 32 (lap % 2 ^ 24 * 256 + code)
      let s1 := if lowest then s.withOpGroup o fun g => g.setS d w else s
      if left > 1 then s1.mapOp op fun o => { o with kind := .board d (left - 1) 0 }
      else if code = boardOk ∨ code = boardBad then s1.mapOp op fun o => { o with kind := .board d 0 (s.cycle + 1) }
      else s1.finishOp op
    | _ => s

/-- A slot loses its board; a CAPTURING one leaves the slot EMPTY (R283, R295 partial). -/
def Slot.dropBoard (sl : Slot) : Slot :=
  match sl.board with
  | none => sl
  | some b => { sl with board := none, st := if b.st == .capturing then .empty else sl.st }

/-- Every board of a BOARD has completed: the cycle in which its flag clears (R283). -/
def OpKind.clearing : OpKind → Option Nat
  | .board _ 0 t => some t
  | .board _ (_ + 1) _ | .load .. | .lds .. | .atom .. | .atoms .. | .watch .. | .pfl2 .. | .copy _ | .tffr .. | .mma _ | .lapwait ..
  | .shseal .. | .shpin .. | .shld .. | .recv .. | .xchg .. => none

/-- Every board of a group completes PREEMPT, those on their way to the tap too (R145, R283). -/
def State.preemptBoards (s : State) (r : GRef) : State :=
  let bs := (s.core r.core).slots.filterMap fun e =>
    if e.2.owner == some r then e.2.board.map fun b => (b.op, b.lowest) else none
  let as := (s.arms.filter fun a => a.grp == r && a.un.isNone).map fun a => (a.op, a.lowest)
  let s1 := s.updCore r.core fun c =>
    { c with slots := upd (fun e : Nat × Slot => e.2.owner == some r) (fun e => (e.1, e.2.dropBoard)) c.slots }
  let s2 := { s1 with arms := s1.arms.filter fun a => a.grp != r }
  let s3 := (bs ++ as).foldl (fun s b => s.boardDone b.1 b.2 0 boardPreempt) s2
  -- flags whose last board completed in this cycle
  (s3.ops.filter fun o => o.grp == r && o.kind.clearing.isSome).foldl (fun s o => s.finishOp o.id) s3

/-! ## Kill -/

/-- A group leaves its group context: the operations that keep picks go on without it, the others are dropped with their offers, and so
are its boards on their way and its reservations. -/
def State.dropGroup (s : State) (r : GRef) (keep : OpKind → Bool) : State :=
  match s.group? r with
  | none => s
  | some g =>
    let s0 := s.releaseSheaf g
    let dead : GRef := { core := r.core, gctx := 32 }
    let lost := (s0.ops.filter fun o => o.grp == r && !keep o.kind).map (·.id)
    let s1 := s0.freeWatches lost
    let ops := s1.ops.filterMap fun o =>
      if o.grp == r then (if keep o.kind then some { o with grp := dead } else none) else some o
    let s2 : State := { s1 with ops := ops,
                                offers := s1.offers.filter fun o => !lost.contains o.op,
                                arms := s1.arms.filter fun a => a.grp != r,
                                groups := s1.groups.filter fun (h : Group) => !(h.status == .reserved && (h.spawner.map (·.1)) == some r) }
    s2.freeGroup r

/-- *kill* of a group (R103, R117): its uncommitted work is discarded, issued commits and copies go on, and its offers are withdrawn
(R187). -/
def State.killGroup (s : State) (r : GRef) : State := s.dropGroup r OpKind.committed

/-- An ENDING group whose set is flashed back is freed (log 28): what it has committed goes on, its posted offers included (R146, R188). -/
def State.endGroup (s : State) (r : GRef) : State :=
  s.dropGroup r fun k => k.committed || (match k with
    | .xchg .. => true
    | _ => false)

/-! ## RCBs and fault records -/

/-- An RCB and its ancestors, nearest first, at most 8 (R101). -/
def State.rcbChain (s : State) (cx : Nat) : Nat → Nat → List Rcb
  | 0, _ => []
  | fuel + 1, addr =>
    match s.rcb? cx addr with
    | none => []
    | some r => r :: (if r.parent = 0 then [] else s.rcbChain cx fuel r.parent)

/-- The policy that an RCB inherits; HALT at the root (R101). -/
def policyOf (chain : List Rcb) : Nat := ((chain.find? fun r => r.policy != 0).map (·.policy)).getD 3

/-- The priority that an RCB inherits (R101). -/
def prioOf (chain : List Rcb) : Nat := (chain.findSome? fun r => r.prio).getD 0

structure RecFields where
  type : Nat
  exited : Bool := false
  split : Nat := 0
  cause : Nat := 0
  pc : Nat := 0
  addr : Nat := 0
  kernel : Nat := 0
  wg : Nat := 0
  gidx : Nat := 0
  regcnt : Nat := 0
  core : Nat := 0
  detail : Nat := 0
  deriving DecidableEq, Repr, Inhabited

/-- The 64 bytes of a fault record (R158). -/
def RecFields.bytes (f : RecFields) (gtime : Nat) : List Byte :=
  leBytes 1 f.type ++ leBytes 1 f.exited.toNat ++ leBytes 1 f.split ++ leBytes 1 0 ++ leBytes 4 f.cause ++ leBytes 8 f.pc
  ++ leBytes 8 f.addr ++ leBytes 4 f.kernel ++ leBytes 4 f.wg ++ leBytes 4 f.gidx ++ leBytes 4 f.regcnt ++ leBytes 4 f.core
  ++ leBytes 4 f.detail ++ leBytes 8 gtime ++ leBytes 8 0

/-- Writes a fault record to the nearest log of a chain; without a log that can be written, a host event tells of it (R101, R158). FDSIZE
inherits; where the whole chain gives 0 it counts as 1, and a value that is no power of two up to 65,536 is used as written (DESIGN CHOICE,
log 25: R101 gives FDSIZE no root default and no check). -/
def State.writeRecord (s : State) (cx : Nat) (chain : List Rcb) (f : RecFields) : State :=
  match chain.find? fun r => r.fdlog != 0 with
  | none => s.emit (.faultLog cx f.type)
  | some r =>
    let size := max 1 (((chain.dropWhile fun q => q.addr != r.addr).findSome? fun q =>
      if q.fdsize = 0 then none else some q.fdsize).getD 1)
    match s.engineRead cx (r.addr + 0x24) 4 with
    | (s1, none) => s1.emit (.faultLog cx f.type)
    | (s1, some bs) =>
      let wr := leNat bs
      let (s2, ok) := s1.engineWrite cx (r.fdlog + 64 * (wr % size)) (f.bytes s.gtime)
      let s3 := (s2.engineWrite cx (r.addr + 0x24) (leBytes 4 (wr + 1))).1
      if ok then s3 else s3.emit (.faultLog cx f.type)

/-- The RCB chain of a kernel, the root's where the kernel has left the record. -/
def State.kernelChain (s : State) (cx kernel : Nat) : List Rcb :=
  let root := ((s.ctx? cx).map fun c => c.bindRec.rootRcb).getD 0
  s.rcbChain cx 8 (((s.kernel? cx kernel).map (·.rcb)).getD root)

def siteFields (t : Nat) (si : Site) : RecFields :=
  { type := t, split := si.split, pc := si.pc, kernel := si.kernel, wg := si.wg, gidx := si.gidx, regcnt := si.regcnt.toNat,
    core := si.grp.core }

/-! ## Kernels -/

def Kernel.total (k : Kernel) : Nat := k.kd.wgx * k.kd.wgy * k.kd.wgz

/-- Workgroups of one kernel that an empty core takes. -/
def KD.perCore (kd : KD) : Nat :=
  let a := min (32 / kd.groups) (1024 / (kd.groups * 32 * kd.allot))
  if kd.scratch = 0 then a else min a ((256 - kd.l1kib) * 1024 / kd.scratch)

/-- A cooperative kernel fits its candidate sectors when they are empty (R107). -/
def State.coopFits (s : State) (k : Kernel) : Bool :=
  decide (k.total ≤ (s.clustersFor k.cx).length * (32 * k.kd.perCore / 2 ^ k.kd.clog * 2 ^ k.kd.clog))

/-- RECORDED kernels without unmet dependences enter the ready pool in age order while it has room (R98, R99). A cooperative kernel is
checked against empty cores as it becomes READY (R107). -/
def State.promote (s : State) (cx : Nat) : State :=
  let n := (s.kernels.filter fun k => k.cx == cx && k.inPool).length
  let r := s.kernels.foldl (fun (acc : List Kernel × Nat) k =>
    if k.cx == cx && k.st == .recorded && k.deps.isEmpty && decide (acc.2 < 256) then
      (acc.1 ++ [{ k with st := .ready, inPool := true, waitingSince := s.cycle, coopBad := k.kd.coop && !s.coopFits k }], acc.2 + 1)
    else (acc.1 ++ [k], acc.2)) ([], n)
  let s1 : State := { s with kernels := r.1 }
  -- the context watchdog runs from the time that the pool holds a kernel (R85)
  if n = 0 ∧ 0 < r.2 then s1.updCtx cx fun c => { c with wdogFrom := s.cycle } else s1

/-- Dependences that p holds of are met (R104). -/
def State.meet (s : State) (cx : Nat) (p : Dep → Bool) : State :=
  let ks := upd (fun k : Kernel => k.cx == cx && k.st == .recorded) (fun k => { k with deps := k.deps.filter fun d => !p d })
    s.kernels
  ({ s with kernels := ks } : State).promote cx

/-- A kernel is DONE or ABORTED: dependants are informed, its command completes, and it leaves the record (R98). The context watchdog counts
the completion of a kernel, and not its abort, as progress (R85). -/
def State.kernelEnded (s : State) (cx kid : Nat) (done : Bool) : State :=
  match s.kernel? cx kid with
  | none => s
  | some k =>
    let s1 := { s with kernels := s.kernels.filter fun j => !(j.cx == cx && j.id == kid) }
    let s2 := match k.launchedBy with
      | none => s1
      | some (iface, seq) => s1.cmdDone iface seq
    let s3 := if done then s2.updCtx cx fun c => { c with wdogFrom := s.cycle } else s2
    s3.meet cx fun d => d == .kdone kid || d == .ktrig kid

/-- A kernel whose workgroups have all exited is DONE once every copy that it issued has completed (R98). -/
def State.tryDone (s : State) (cx kid : Nat) : State :=
  match s.kernel? cx kid with
  | none => s
  | some k =>
    if k.st == .running && k.exits == k.kd.wgx * k.kd.wgy * k.kd.wgz
        && !(s.copies.any fun c => c.kind != .p && c.cx == cx && c.kernel == kid) then
      ({ s with wgs := s.wgs.filter fun w => !(w.cx == cx && w.kernel == kid) } : State).kernelEnded cx kid true
    else s

/-- A workgroup counts toward its kernel's trigger, once (R109). -/
def State.countTrigger (s : State) (cx kernel l : Nat) : State :=
  match s.wg? cx kernel l, s.kernel? cx kernel with
  | some w, some k =>
    if w.counted then s
    else
      let n := k.trigCount + 1
      let full := decide (n = k.total)
      let s1 := (s.updWg cx kernel l fun w => { w with counted := true }).updKernel cx kernel fun k =>
        { k with trigCount := n, triggered := k.triggered || full }
      if full then s1.meet cx fun d => d == .ktrig kernel else s1
  | _, _ => s

/-- No group of the workgroup is left, and every store of its groups is published at pod scope. -/
def State.wgGone (s : State) (w : Workgroup) : Bool :=
  !(s.groups.any fun (g : Group) => g.cx == w.cx && g.kernel == w.kernel && g.wg == w.l)
  && !(s.cores.any fun c => c.pq.any fun e => e.site.cx == w.cx && e.by_.contains (w.kernel, w.l))

/-- *exited* of a resident workgroup (R98, R109, R117). -/
def State.takeExit (s : State) (w : Workgroup) : State :=
  if w.exited || !s.wgGone w then s
  else
    let s1 := (s.countTrigger w.cx w.kernel w.l).updWg w.cx w.kernel w.l fun w => { w with exited := true }
    (s1.updKernel w.cx w.kernel fun k => { k with exits := k.exits + 1 }).tryDone w.cx w.kernel

/-- The images that hold a workgroup of a kernel are discarded with the work in them (R117). -/
def State.dropImages (s : State) (p : Image → Bool) : State :=
  let gone := s.images.filter p
  let s1 : State := (gone.flatMap fun im => im.groups).foldl (fun s g => s.releaseSheaf g) s
  let dead := (gone.flatMap fun im => im.ops).filterMap fun o =>
    if o.kind.committed then some { o with grp := { core := o.grp.core, gctx := 32 } } else none
  let lost := (gone.flatMap fun im => im.ops).map fun o => o.id
  { s1 with images := s1.images.filter fun im => !p im, ops := s1.ops ++ dead,
            offers := s1.offers.filter fun o => !lost.contains o.op }

/-- *abort* of a kernel (R103). The exits of its workgroups that are due are taken first, and an *abort* that then finds the kernel DONE has
no effect (R98). -/
def State.abortKernel (s0 : State) (cx kid : Nat) : State :=
  let s := (s0.wgs.filter fun w => w.cx == cx && w.kernel == kid).foldl State.takeExit s0
  match s.kernel? cx kid with
  | none => s
  | some _ =>
    let gs := (s.groups.filter fun g => g.cx == cx && g.kernel == kid).map (·.ref)
    -- a copy that has issued runs on, and still reads its source
    let fromWg := fun c : Copy => c.cx == cx && c.kernel == kid && c.dir == .s2g
    let kept : State := { s with copies := upd fromWg (fun c => { c with srcWg := s.anyWg? cx kid c.wg }) s.copies }
    let s1 := gs.foldl (fun s r => s.killGroup r) kept
    let s2 := s1.dropImages fun im => im.cx == cx && im.wgs.any fun w => w.kernel == kid
    let s3 := { s2 with wgs := s2.wgs.filter fun w => !(w.cx == cx && w.kernel == kid) }
    s3.kernelEnded cx kid false

/-! ## Flashback -/

/-- REWIND of R143; with a recipe where the region names one. -/
def rewind (p : Split) (withRecipe : Bool) : Split :=
  match p.region with
  | none => p
  | some rc =>
    let cut := p.stack.length - rc.depth
    let lanes := (p.stack.take cut).foldl (fun (m : LaneMask) e => match e with
      | .deferred _ l => m ||| l
      | .resume _ l _ => m ||| l) 0
    let lset := p.lset ||| lanes
    let (pc, rcp) := match rc.recipe, withRecipe with
      | some a, true => (a, true)
      | _, _ => (rc.entry, false)
    let again := if withRecipe then rc.copies ++ rc.toMatch else []
    { p with lset := lset, exec := rc.exec &&& lset, stack := p.stack.drop cut, pc := pc, recipe := rcp, clause := none,
             jumped := false, padDue := none, wait := .none, passed := false, needRe := false,
             region := some { rc with rewound := withRecipe, toMatch := again, copies := [], recvCount := 0 } }

/-- The election that rewinding a split restores (R143). -/
def rewindElect (p : Split) (cur : Option (Nat × LaneMask)) : Option (Nat × LaneMask) :=
  match p.region with
  | none => cur
  | some rc => match rc.elect with
    | some e => some e
    | none => match cur with
      | some (sp, m) => if sp = p.id then none else some (sp, m)
      | none => none

/-- The physical registers that flashback saves; none: the whole allotment (R144). -/
def Group.liveRegs (g : Group) : Option (List Nat) :=
  let ps := g.splits ++ (match g.trapRec with | none => [] | some t => [t.split])
  if ps.any fun p => p.ended || p.region.isNone then none
  else some (ps.flatMap fun p => match p.region with
    | none => []
    | some rc => rc.live.flatMap fun l => (List.range l.2).map fun i => l.1 + i)

/-- The drains of one started job up to a cycle, into the group's C; lane i of slot C + j is element C[i][j]. -/
def Core.drainJob (c : Core) (j : Job) (n : Nat) (g : Group) : Group :=
  match c.recs.find? fun e => e.1 == j.q with
  | none => g
  | some e =>
    (List.range 32).foldl (fun g m =>
      let row := (List.range 64).map fun k => if j.acc then g.getP (j.c + k) m else 0
      ((c.jobRow j e.2 n m row).zipIdx).foldl (fun g w => g.setP (j.c + w.2) m w.1) g) g

/-- The drains that cancelled jobs have made stay in C (R145). -/
def State.cancelledDrains (s : State) (g : Group) : Group :=
  let c := s.core g.ref.core
  (c.jobs.filter fun j => j.grp == g.ref && j.start.isSome && j.gather.isNone).foldl (fun g j =>
    let nb := ((c.recs.find? fun e => e.1 == j.q).map fun e => blocksOf e.2.fmt).getD 1
    c.drainJob j (drainsBy (j.start.getD 0) j.steps nb s.cycle) g) g

/-! ## Fills of records and slots (R302, R303, R308) -/

/-- The bytes of a group's scratchpad from an offset. -/
def State.scratchBytes (s : State) (r : GRef) (off n : Nat) : List Byte :=
  match (s.group? r).bind fun g => s.wg? g.cx g.kernel g.wg with
  | none => List.replicate n 0
  | some w => (List.range n).map fun j => w.byte (off + j)

/-- A fill of a record ends. -/
def State.fillRec (s : State) (core q : Nat) : State :=
  match (s.core core).recs.find? fun e => e.1 == q with
  | none => s
  | some e =>
    match e.2.filling with
    | none => s
    | some (off, _) =>
      let bs := s.scratchBytes e.2.owner off (256 * e.2.rows)
      s.updCore core fun c =>
        { c with opbuf := sputRun 0 c.opbuf (256 * e.2.base) bs,
                 recs := upd (fun x => x.1 == q) (fun x => (x.1, { x.2 with filling := none })) c.recs }

/-- A fill of a slot ends. -/
def State.fillSlot (s : State) (core n : Nat) : State :=
  match (s.core core).slots.find? fun e => e.1 == n with
  | none => s
  | some e =>
    match e.2.filling, e.2.owner with
    | some (off, soff, _), some r =>
      let nb := blocksOf e.2.fmt
      s.updCore core fun c => ({ c with freed := (n, s.cycle + 1) :: c.freed.filter fun e => e.1 != n } : Core).updSlot n fun sl =>
        { sl with filling := none, tile := sputRun 0 [] 0 (s.scratchBytes r off 16384),
                  scales := if sl.scaled then (s.scratchBytes r soff (64 * nb)).map (·.toNat) else [] }
    | _, _ => s

/-- A resident group as its image holds it (R143 to R145). -/
def State.groupImage (s : State) (g : Group) : Group :=
  let g1 := s.cancelledDrains g
  let live := g1.liveRegs
  let elect := g1.splits.foldl (fun e p => if p.ended then e else rewindElect p e) g1.elected
  let keep (p : Split) : Split :=
    if p.ended || p.region.isNone then
      -- a clause that has begun and not yet executed its REGION begins again
      let q := match p.clause with
        | some c => if c.re && c.first then { p with pc := c.hdr, clause := none } else p
        | none => p
      { q with wait := .none, readySince := 0, aged := 0, yieldTo := 0 }
    else { rewind p true with readySince := 0, aged := 0, yieldTo := 0 }
  let rewound (p : Split) : Bool := !p.ended && p.region.isSome
  -- a held cause goes with the work of a rewound split, but for XCHGTO, which a commit has left (R146; DEDUCED, log 28)
  let kept (h : HeldCause) : Bool := h.cause.getLsbD 16 || (g1.trapRec.map fun t => t.split.id == h.split).getD false
    || !(g1.splits.any fun p => p.id == h.split && rewound p)
  let serials := (g1.splits.filter fun p => !p.ended).filterMap fun p => p.region.map (·.serial)
  let frame := match s.ctx? g.cx with
    | none => []
    | some c => (linePieces 8 (c.slotAddr g.ref) 512).flatMap fun p =>
        leBytes p.2 (lineNat (s.coreView g.ref.core (State.physKey g.cx p.1)) (p.1 % 128) p.2)
  { g1 with v := match live with
              | none => g1.v
              | some rs => g1.v.filter fun e => rs.contains (e.1 / 32),
            splits := g1.splits.map keep, elected := elect, mconf := 0, lastPage := [], frameImg := frame, fpmodeOld := 0, fpmodeFrom := 0,
            held := (g1.held.filter kept).map fun h => { h with first := h.first || h.cause.getLsbD 16 },
            pins := g1.pins.filter fun p => !serials.contains p.2.2 }

/-- The records that a group holds on its core (R299). -/
def State.recImages (s : State) (g : Group) : List ImageRec :=
  let c := s.core g.ref.core
  (c.recs.filter fun e => e.2.owner == g.ref).map fun e =>
    { q := e.1, owner := g.ref, base := e.2.base, rows := e.2.rows, fmt := e.2.fmt, sc := e.2.sc, soff := e.2.soff,
      bytes := c.opbuf.filter fun b => decide (256 * e.2.base ≤ b.1) && decide (b.1 < 256 * (e.2.base + e.2.rows)) }

/-- An operation as the image records it: a watch leaves its table (R145). -/
def imageOp (o : PendOp) : PendOp :=
  match o.kind with
  | .watch va k off cmp u w64 v sc d _ woken => { o with kind := .watch va k off cmp u w64 v sc d none woken, pend := {} }
  | _ => o

/-- Flashback of one co-resident set: the workgroups that p selects (R143). -/
def State.flashbackSet (s0 : State) (cx : Nat) (reason : SaveReason) (p : Workgroup → Bool) : State :=
  let s := (s0.groups.filter fun g => g.cx == cx).foldl (fun s g =>
    if s0.wgs.any fun w => w.cx == cx && !w.exited && p w && w.kernel == g.kernel && w.l == g.wg then s.undoScatter g.ref else s) s0
  let wgs := s.wgs.filter fun w => w.cx == cx && !w.exited && p w
  let mine (g : Group) : Bool := g.cx == cx && wgs.any fun w => w.kernel == g.kernel && w.l == g.wg
  let ending := (s.groups.filter fun g => mine g && g.status == .ending).map (·.ref)
  let left := ending.foldl (fun s r => s.endGroup r) s
  let refs := (left.groups.filter fun g => mine g && g.status == .live).map (·.ref)
  let filled := refs.foldl (fun s r => (s.core r.core).recs.foldl (fun s e => if e.2.owner == r then s.fillRec r.core e.1 else s) s) left
  let s1 := refs.foldl (fun s r => s.preemptBoards r) filled
  let gs := s1.groups.filter fun g => refs.contains g.ref
  -- pins of the regions being rewound are released (R244)
  let s2 := gs.foldl (fun s g =>
    let g1 := s1.groupImage g
    (g.pins.filter fun q => !g1.pins.contains q).foldl (fun s q =>
      s.sendSh { id := 0, kind := .unpin, cx := cx, sheaf := q.1, ver := q.2.1, grp := g.ref }) s) s1
  let im : Image :=
    { cx := cx, reason := reason, groups := gs.map s1.groupImage, wgs := wgs,
      records := gs.flatMap s1.recImages,
      slots := gs.flatMap fun g => ((s1.core g.ref.core).slots.filter fun e => e.2.owner == some g.ref).map fun e => (g.ref, e.1),
      ops := (s1.ops.filter fun o => refs.contains o.grp && o.kind.kept).map imageOp }
  let s3 : State := { s2 with ops := s2.ops.filter fun o => !refs.contains o.grp,
                              walks := s2.walks.filter fun (w : FailedWalk) => !refs.contains w.site.grp ||
                                gs.any fun g => g.ref == w.site.grp && (g.split? w.site.split).all fun p => w.commits != p.commits,
                              copies := s2.copies.map fun (c : Copy) => if refs.contains c.grp then { c with op := none } else c,
                              groups := s2.groups.filter fun (g : Group) =>
                        !(g.status == .reserved && (match g.spawner with | some (r, _) => refs.contains r | none => false)) }
  let s4 := refs.foldl (fun s r => s.freeGroup r) (s3.freeWatches ((s2.ops.filter fun o => refs.contains o.grp).map (·.id)))
  { s4 with wgs := s4.wgs.filter fun w => !(w.cx == cx && !w.exited && p w),
            images := if wgs.isEmpty then s4.images else s4.images ++ [im] }

/-- Two workgroups belong to one co-resident set of R108. -/
def State.sameSet (s : State) (a b : Workgroup) : Bool :=
  a.cx == b.cx && a.kernel == b.kernel
  && (((s.kernel? a.cx a.kernel).map fun k => k.kd.coop).getD false || a.launchBase == b.launchBase)

/-- Flashback of every co-resident set that holds a workgroup that p selects. -/
def State.flashback (s : State) (cx : Nat) (reason : SaveReason) (p : Workgroup → Bool) : State :=
  (s.wgs.filter fun w => w.cx == cx && !w.exited && p w).foldl (fun s w =>
    if s.wgs.any fun v => v.cx == cx && v.kernel == w.kernel && v.l == w.l then s.flashbackSet cx reason fun v => s.sameSet w v
    else s) s

/-! ## A context stops -/

/-- The queues of a context take *spause*, its device-side queue pauses (R90, R97). -/
def State.pauseQueues (s : State) (cx : Nat) : State :=
  (s.mapQueues cx Queue.spauseEv).updCtx cx
    fun c => { c with dsqPaused := true }

/-- *seal* and *halt* of R280 on the circuits of a context. -/
def State.stopCircuits (s : State) (cx : Nat) : State :=
  { s with circuits := upd (fun c => c.cx == cx && c.st == .running) (fun c => { c with st := .stopping }) s.circuits }

/-- *fault* of a context: RUN becomes HALTED (R72, R85). Its place among the events of its cycle is noted (R73). -/
def State.contextFault (s0 : State) (cx cause : Nat) : State :=
  let s : State := { s0 with taken := (.ctx cx, 4) :: s0.taken }
  match s.ctx? cx with
  | none => s0
  | some c =>
    if c.st == .run then
      let s1 := ((s.pauseQueues cx).flashback cx .fault fun _ => true).stopCircuits cx
      (s1.updCtx cx fun c => { c with st := .halted }).emit (.cxFault cx cause)
    else s

/-- The cause that the host event of a context fault carries: the policy, a circuit, the watchdog (R85). The numbers are the model's
(DESIGN CHOICE, log 44: the spec gives none). -/
def faultPolicy : Nat := 0
def faultCircuit : Nat := 1
def faultWatchdog : Nat := 2

/-- A fault record of a kernel with the domain's policy after it (R158). -/
def State.kernelFault (s : State) (cx kernel : Nat) (f : RecFields) : State :=
  let chain := s.kernelChain cx kernel
  let s1 := s.writeRecord cx chain f
  if f.type = 6 then s1
  else if policyOf chain = 2 then s1.abortKernel cx kernel
  else if policyOf chain = 3 then s1.contextFault cx faultPolicy
  else s1

/-- The group of a site still exists: it is resident, or saved in an image. -/
def State.siteLive (s : State) (si : Site) : Bool :=
  (s.groups ++ s.images.flatMap fun im => im.groups).any fun (g : Group) =>
    g.uid == si.uid && g.cx == si.cx && g.kernel == si.kernel && g.status != .ending

/-- An IMPSTORE record with a bitmap of causes (R157, R158). -/
def State.impRecord (s : State) (si : Site) (causes addr : Nat) : State :=
  s.kernelFault si.cx si.kernel { siteFields 1 si with exited := !s.siteLive si, cause := causes, addr := addr }

/-- An imprecise store fault (R157). cause: as R152 numbers it. -/
def State.impStore (s : State) (si : Site) (cause addr : Nat) : State := s.impRecord si (2 ^ cause) addr

end Sys2Proof.Machine
end

