-- ==== Sys2Proof/Machine/Ops.lean ====
section
/-! DEFINITION. The issuing split: the checks of R43 that a meaning makes, taking an exception (R148 to R153), moving on, long-latency
operations (R31, R32), commits (R33), stores and the publish queue (R190), releases and acquires (R198). -/

namespace Sys2Proof.Machine

abbrev Out := Host.Outcome State Fault Refusal

def State.issuerRef (s : State) : GRef := { core := s.issuer.core, gctx := s.issuer.gctx }

/-- The issuing group and split; without one, no instruction issues. -/
def withIssuer (s : State) (k : Group → Split → State) : Out :=
  match s.group? s.issuerRef with
  | none => .fault .noIssuer
  | some g => match g.split? s.issuer.split with
    | none => .fault .noIssuer
    | some p => .next (k g p)

/-! ## Causes (R152) -/

abbrev Cause := BitVec 22

def causeBit (n : Nat) : Cause := BitVec.ofNat 22 (2 ^ n)

def cILL : Cause := causeBit 0
def cPRIV : Cause := causeBit 1
def cREGRANGE : Cause := causeBit 2
def cHAZARD : Cause := causeBit 3
def cALIGN : Cause := causeBit 4
def cPAGE : Cause := causeBit 5
def cPROT : Cause := causeBit 6
def cPOISON : Cause := causeBit 7
def cBALE : Cause := causeBit 8
def cWSLOT : Cause := causeBit 9
def cSHSTALE : Cause := causeBit 10
def cTAGBUSY : Cause := causeBit 11
def cBARMISUSE : Cause := causeBit 12
def cCOPYMASK : Cause := causeBit 13
def cJTAB : Cause := causeBit 14
def cJTGT : Cause := causeBit 15
def cXCHGTO : Cause := causeBit 16
def cWATCHDOG : Cause := causeBit 17
def cBREAK : Cause := causeBit 18
def cSTEP : Cause := causeBit 19
def cSWTRAP : Cause := causeBit 20
def cQUOTA : Cause := causeBit 21

/-- The causes that allow mode retry, and those that allow mode next (R152). -/
def retryCauses : Cause := cPAGE ||| cPROT
def nextCauses : Cause := cILL ||| cPRIV ||| cREGRANGE ||| cALIGN ||| cXCHGTO ||| cWATCHDOG ||| cBREAK ||| cSTEP ||| cSWTRAP

/-- ALLOW: bit 0 region, bit 1 retry, bit 2 next (R150, R152). -/
def allowOf (c : Cause) (hdr : Bool) : BitVec 3 :=
  BitVec.ofBool ((c &&& ~~~nextCauses) == 0 && !hdr) ++ BitVec.ofBool ((c &&& ~~~retryCauses) == 0 && !hdr) ++ 1#1

/-- The handler entry (R149). -/
def vectorOf (c : Cause) : Nat :=
  Config.tvec + 0x100 * (if (c &&& (cBREAK ||| cSTEP)) != 0 then 2 else if (c &&& ~~~cPAGE) != 0 then 0 else 1)

/-- What raises an exception: the causes with what the frame of R150 says of them, and the rest of the clause at NEXTPC. -/
structure TrapIn where
  cause : Cause
  lanes : LaneMask
  pc : Nat
  addr : Nat := 0
  detail : Nat := 0
  insn : Word := 0
  nextpc : Nat := 0
  resume : Option Clause := none
  /-- The clause that PC lies in, for mode retry. -/
  clause : Option Clause := none
  /-- RPC where the operation was issued in an earlier clause. -/
  rpc : Option Nat := none
  /-- Raised at a clause header (R43). -/
  hdr : Bool := false
  deriving Repr, Inhabited

/-! ## Moving on -/

/-- The rest of a clause after n words. -/
def Clause.after (c : Clause) (n : Nat) : Option Clause :=
  if c.left ≤ n then none else some { c with left := c.left - n, first := false }

/-- The split behind n words of its clause. -/
def Split.past (p : Split) (n : Nat) : Split :=
  { p with pc := p.pc + 4 * n, clause := p.clause.bind fun c => c.after n, wait := .none, jumped := false, padDue := none, passed := false }

/-- The address after the split's clause (R30). -/
def Split.nextHeader (p : Split) : Nat :=
  match p.clause with
  | none => p.pc
  | some c => p.pc + 4 * c.left

/-- The split at the target of a control transfer (R30). -/
def Split.goto (p : Split) (target : Nat) : Split :=
  { p with pc := target % 2 ^ 64, clause := none, wait := .none, jumped := true, padDue := none, passed := false }

/-- The split at the clause after its own, without a transfer. -/
def Split.toNext (p : Split) : Split :=
  { p with pc := p.nextHeader, clause := none, wait := .none, jumped := false, padDue := none, passed := false }

def State.done (s : State) (g : Group) (p : Split) (i : Instr) : State := s.updSplit g.ref p.id fun q => q.past i.words

/-- The split stays at its instruction and is tried again at a later issue. -/
def State.stall (s : State) (g : Group) (p : Split) (w : Wait) : State := s.updSplit g.ref p.id fun q => { q with wait := w }

def siteOf (g : Group) (p : Split) : Site :=
  { grp := g.ref, split := p.id, pc := p.pc, regcnt := g.regcnt, cx := g.cx, kernel := g.kernel, wg := g.wg, gidx := g.gidx,
    uid := g.uid }

/-! ## Taking an exception -/

/-- RPC of R150: the entry of the region that the instruction lies in; before a REGION has executed, the header (R33). -/
def Split.rpc (p : Split) : Nat :=
  match p.region, p.clause with
  | some rc, some c => if p.ended && !c.committed then c.hdr else rc.entry
  | some rc, none => if p.ended then p.pc else rc.entry
  | none, some c => c.hdr
  | none, none => p.pc

/-- A double trap (R153): the group is killed, a DOUBLE record is written, and the policy applies. -/
def State.doubleTrap (s : State) (g : Group) (p : Split) (t : TrapIn) : State :=
  (s.killGroup g.ref).kernelFault g.cx g.kernel
    { siteFields 2 (siteOf g p) with cause := t.cause.toNat, pc := t.pc, addr := t.addr }

/-- Word 0x38 of the frame (R150). -/
def frameWord38 (detail : BitVec 16) (allow : BitVec 3) (elect ppriv : Bool) (split : Nat) : Word :=
  detail ++ 0#9 ++ allow ++ BitVec.ofBool elect ++ BitVec.ofBool ppriv ++ BitVec.ofNat 2 split

/-- The opaque block of a trap image (R148), 160 bytes of open values. -/
def freeBlock (n : Nat) : List Byte := (List.range 160).map fun i => Config.freeByte (n + i)

/-- The frame and trap image of R148 and R150. -/
def frameBytes (s : State) (g : Group) (p : Split) (t : TrapIn) (allow : BitVec 3) (rpc : Nat) : List Byte :=
  leBytes 4 t.cause.toNat ++ leBytes 4 t.lanes.toNat ++ leBytes 8 t.pc ++ leBytes 8 rpc ++ leBytes 8 t.addr
  ++ leBytes 4 g.regcnt.toNat ++ leBytes 4 t.insn.toNat ++ leBytes 4 p.exec.toNat ++ leBytes 4 (s.pendf g.ref).toNat
  ++ leBytes 8 (if allow.getLsbD 2 then t.nextpc else 0)
  ++ leBytes 4 (frameWord38 (BitVec.ofNat 16 t.detail) allow g.elected.isSome g.priv p.id).toNat ++ leBytes 4 0
  ++ (List.range 64).flatMap (fun r => leBytes 4 (g.getS r).toNat) ++ (List.range 8).flatMap (fun r => leBytes 4 (g.getM r).toNat)

/-- Exception entry (R148, R149): the record and frame are written and the split stands at the vector, supervisor, with its faulting
lanes. The other splits of the group stop until TRET. With TACTIVE = 1 it is a double trap (R153). -/
def State.enterTrap (s : State) (g : Group) (p : Split) (t : TrapIn) : State :=
  if g.tactive then s.doubleTrap g p t
  else
    let allow := allowOf t.cause t.hdr
    let rpc := t.rpc.getD p.rpc
    let rec_ : TrapRec :=
      { cause := t.cause, raised := t.cause, lanes := t.lanes, pc := t.pc, rpc := rpc, addr := t.addr, nextpc := t.nextpc,
        detail := BitVec.ofNat 16 t.detail, allow := allow, ppriv := g.priv, split := p, cls := g.cls, elected := g.elected,
        opens := g.opens, pins := g.pins, resume := t.resume, clause := t.clause, stopped := (g.splits.filter fun q => q.id != p.id).map (·.id) }
    let s1 := s.frameWrite g 0 (frameBytes s g p t allow rpc)
    let s2 := { s1.frameWrite g 0x160 (freeBlock s1.freeCount) with freeCount := s1.freeCount + 160 }
    s2.updGroup g.ref fun h =>
      { h with trapRec := some rec_, priv := true, cls := 7, elected := none,
               splits := upd (fun q => q.id == p.id) (fun q =>
                 { q with pc := vectorOf t.cause, exec := t.lanes, stack := [], clause := none, jumped := false, padDue := none,
                          region := none, ended := true, needRe := false, recipe := false, wait := .none, passed := false }) h.splits }

/-- The instruction word of i. -/
def word0 (i : Instr) : Word := (encode i).headD 0

/-- An instruction raises causes and is not performed; the resume point of mode next is the word behind it (R152). -/
def State.trapAt (s : State) (g : Group) (p : Split) (i : Instr) (c : Cause) (lanes : LaneMask) (addr detail : Nat) : State :=
  s.enterTrap g p { cause := c, lanes := lanes, pc := p.pc, addr := addr, detail := detail, insn := word0 i,
                    nextpc := p.pc + 4 * i.words, resume := p.clause.bind fun cl => cl.after i.words, clause := p.clause }

/-- A cause that is not per lane: LANES is $EXEC (R150). -/
def State.trap (s : State) (g : Group) (p : Split) (i : Instr) (c : Cause) (detail : Nat := 0) : State :=
  s.trapAt g p i c p.exec 0 detail

/-! ## Checks 6 to 8 of R43 -/

/-- The registers that an instruction reads or writes: V slots through the window, S and M registers. -/
structure Uses where
  v : List Nat := []
  s : List Nat := []
  m : List Nat := []
  deriving DecidableEq, Repr, Inhabited

/-- The window range of R24. -/
def Uses.inRange (u : Uses) (g : Group) : Bool := u.v.all fun r => decide (g.wb + r < g.allot)

/-- A register of the use lies in a pending set of the group (R32). -/
def Uses.hazard (u : Uses) (s : State) (g : Group) : Bool :=
  s.ops.any fun o => o.grp == g.ref
    && ((u.v.any fun r => o.pend.vw.contains (g.wb + r) || o.pend.vr.contains (g.wb + r))
        || (u.s.any fun r => o.pend.sw.contains r) || (u.m.any fun r => o.pend.mw.contains r))

/-- Checks 7 and 8. -/
def checkUses (s : State) (g : Group) (p : Split) (i : Instr) (u : Uses) (k : State) : State :=
  if !u.inRange g then s.trap g p i cREGRANGE
  else if u.hazard s g then s.trap g p i cHAZARD
  else k

/-- An instruction of the issuing split behind checks 7 and 8. -/
def issue (s : State) (i : Instr) (u : Uses) (k : Group → Split → State) : Out :=
  withIssuer s fun g p => checkUses s g p i u (k g p)

/-- A privileged instruction: check 6 first (R28). -/
def issuePriv (s : State) (i : Instr) (u : Uses) (k : Group → Split → State) : Out :=
  withIssuer s fun g p => if g.priv then checkUses s g p i u (k g p) else s.trap g p i cPRIV

/-- The flag that FS selects in the clause (R31). -/
def Split.flag? (p : Split) (fs : Bool) : Option Nat := p.clause.bind fun c => if fs then c.setB else c.setA

/-- The operations that one entry attaches: each job of an MMA or MMAG is one (R300). -/
def OpKind.weight : OpKind → Nat
  | .mma n => n
  | .load .. | .lds .. | .atom .. | .atoms .. | .watch .. | .pfl2 .. | .copy _ | .tffr .. | .board .. | .lapwait .. | .shseal .. | .shpin ..
  | .shld .. | .recv .. | .xchg .. => 1

/-- n further operations fit on a flag (R31). -/
def State.flagRoom (s : State) (g : Group) (f n : Nat) : Bool :=
  decide (((s.ops.filter fun o => o.grp == g.ref && o.flag == f).map fun o => o.kind.weight).foldl (· + ·) 0 + n ≤ Config.flagCap)

/-- A long-latency instruction: FS names a valid flag (check 5), then checks 7 and 8. -/
def issueLong (s : State) (i : Instr) (fs : Bool) (u : Uses) (k : Group → Split → Nat → State) : Out :=
  withIssuer s fun g p =>
    match p.flag? fs with
    | none => s.trap g p i cILL
    | some f => checkUses s g p i u (k g p f)

/-- An instruction that names what a fill is writing waits at issue, before its checks (R296, R302). -/
def issueFree (s : State) (i : Instr) (busy : Group → Split → Bool) (u : Uses) (k : Group → Split → State) : Out :=
  withIssuer s fun g p => if busy g p then s.stall g p .poll else checkUses s g p i u (k g p)

/-- issueFree of a long-latency instruction. -/
def issueLongFree (s : State) (i : Instr) (fs : Bool) (busy : Group → Split → Nat → Bool) (u : Uses) (k : Group → Split → Nat → State) :
    Out :=
  withIssuer s fun g p =>
    match p.flag? fs with
    | none => s.trap g p i cILL
    | some f => if busy g p f then s.stall g p .poll else checkUses s g p i u (k g p f)

/-- Attaches an operation to a flag: the operation's number and the state (R31, R32). -/
def State.attach (s : State) (g : Group) (p : Split) (i : Instr) (flag : Nat) (pend : PendSet) (kind : OpKind) : Nat × State :=
  let o : PendOp := { id := s.nextId, grp := g.ref, split := p.id, flag := flag, pend := pend, kind := kind, pc := p.pc,
                      insn := word0 i, rpc := p.rpc, issued := s.cycle, clause := p.clause }
  (s.nextId, { s with ops := s.ops ++ [o], nextId := s.nextId + 1 })

/-! ## Commits (R33) and the gate of R156 -/

/-- An earlier operation of the split has not passed its checks (R156). -/
def OpKind.unchecked : OpKind → Bool
  | .load _ _ _ _ lines _ => lines.any fun l => l.st != .got
  | .shld .. => true
  | .watch _ _ _ _ _ _ _ _ _ held woken => held.isNone && woken.isNone
  | .atom _ _ _ _ _ _ lanes => lanes.any fun l => l.reply.isNone
  | .lds .. | .atoms .. | .pfl2 .. | .copy _ | .tffr .. | .mma _ | .board .. | .lapwait .. | .shseal .. | .shpin .. | .recv ..
  | .xchg .. => false

def State.unchecked (s : State) (g : Group) (p : Split) : Bool :=
  s.ops.any fun o => o.grp == g.ref && o.split == p.id && o.kind.unchecked

/-- A commit, BRM, JOIN, SPAWN, ELECT or ROLE waits until earlier operations have passed their checks (R156). -/
def gated (s : State) (g : Group) (p : Split) (k : State) : State :=
  if s.unchecked g p then s.stall g p .poll else k

/-- *commit* of R117: the groups that a split reserved become LIVE. -/
def State.startSpawned (s : State) (g : Group) (p : Split) : State :=
  let gs := upd (fun h : Group => h.status == .reserved && h.spawner == some (g.ref, p.id))
    (fun h => { h with status := .live, spawner := none }) s.groups
  { s with groups := gs }

/-- The bytes of a granary record (R346). -/
def GranRec.size : GranRec → Nat
  | .msg .. => 128
  | .req _ _ _ _ (.merge ..) => 192
  | .req _ _ _ _ (.openWrite ..) => 192
  | .req .. => 64

def Granary.used (g : Granary) : Nat := (g.recs.map fun e => e.2.2.size).foldl (· + ·) 0

/-- Space of the granary has been freed (R348). -/
def Granary.freed (g : Granary) (size : Nat) : Granary :=
  { g with withheld := g.withheld && decide (4 * (size - g.used) < size),
           restoreArmed := g.restoreArmed || decide (4 * g.used < 3 * size) }

/-- A commit instruction has retired: its region ends, reserved groups start, RECV messages leave the granary, the watchdogs see
progress (R33, R85, R117, R156, R358). -/
def State.commit (s : State) (g : Group) (p : Split) : State :=
  let got := (p.region.map RegionRec.msgs).getD []
  let s1 := s.startSpawned g p
  let s2 := s1.updSplit g.ref p.id fun q =>
    { q with ended := true, commits := q.commits + 1, progress := s.cycle,
             clause := q.clause.map fun c => { c with committed := true },
             region := q.region.map fun rc => { rc with recvs := [], recvCount := 0, recvHeld := [] } }
  s2.updCtx g.cx fun c =>
    { c with wdogFrom := s.cycle,
             gran := if got.isEmpty then c.gran
                     else ({ c.gran with recs := c.gran.recs.filter fun e => !got.contains e.1 } : Granary).freed c.bindRec.granSize }

/-! ## Stores and the publish queue (R190, R208, R209, R211) -/

/-- The lines that a core's L1 holds: L1KIB KiB of 128-byte lines, fully associative (log 16). -/
def Core.l1Cap (c : Core) : Nat := 8 * c.l1kib

/-- The oldest line of some states: by its last push, reference or store. -/
def Core.oldest? (c : Core) (p : L1St → Bool) : Option L1Line :=
  (c.l1.filter fun l => p l.st).foldl (fun (b : Option L1Line) l => match b with
    | none => some l
    | some m => if l.age < m.age then some l else b) none

/-- The victim of a replacement that leaves at once (R211): P lines oldest push first, then V lines least recently referenced. -/
def Core.victim? (c : Core) : Option L1Line :=
  match c.oldest? (· == .P) with
  | some l => some l
  | none => c.oldest? (· == .V)

/-- The victim where every line holds unpublished bytes: least recently stored first. It is published before it leaves (R211). -/
def Core.dirtyVictim? (c : Core) : Option L1Line := c.oldest? fun st => st == .D || st == .DS

/-- A core with room for one more line; none: every line holds unpublished bytes, and a victim is to be published first. -/
def Core.makeRoom (c : Core) : Option Core :=
  if c.l1.length < c.l1Cap then some c
  else c.victim?.map fun v => { c with l1 := c.l1.filter fun l => l.key != v.key }

/-- The entry of a line that has not begun to publish (R190). -/
def Core.openEntry? (c : Core) (k : LineKey) : Option PqEntry :=
  c.pq.find? fun e => e.key == k && e.phase == .waiting && e.ow.isNone

/-- The L1 line after a store of the masked bytes (R209). -/
def Core.storeL1 (c : Core) (k : LineKey) (data : LineData) (mask : LineMask) (push : Bool) (now : Nat) : Core :=
  match c.line? k with
  | none => { c with l1 := c.l1 ++ [{ key := k, st := if push then .DS else .D, data := mergeLine 0 data mask, valid := mask,
                                      dirty := mask, age := now, refd := now }] }
  | some _ =>
    { c with l1 := upd (fun l => l.key.same k) (fun l =>
        { l with st := if push || l.st == .DS then .DS else .D, data := mergeLine l.data data mask, valid := l.valid ||| mask,
                 dirty := l.dirty ||| mask, age := now, refd := now }) c.l1 }

/-- A store of masked bytes of one line by a core; none: it stalls, because the PQ or the L1 is full (R190, R211). -/
def State.storeLine (s : State) (site : Site) (va : Nat) (k : LineKey) (data : LineData) (bytes : LineMask) (push : BitVec 32)
    (sow : Bool) : Option State :=
  let mask := bytes &&& ~~~s.frameRo k
  let core := site.grp.core
  let c := s.core core
  match (if (c.line? k).isSome then some c else c.makeRoom) with
  | none => none
  | some c1 =>
    let c2 := c1.storeL1 k data mask sow s.cycle
    let who := (site.kernel, site.wg)
    match c1.openEntry? k with
    | some e =>
      some (s.updCore core fun _ =>
        { c2 with pq := upd (fun x => x.id == e.id) (fun x =>
            { x with mask := x.mask ||| mask, push := x.push ||| push,
                     by_ := if x.by_.contains who then x.by_ else x.by_ ++ [who],
                     sows := if sow then x.sows ++ [(site, push)] else x.sows,
                     site := if sow || x.push == 0 then site else x.site,
                     va := if sow || x.push == 0 then va else x.va }) c2.pq })
    | none =>
      if c1.pq.length ≥ Config.pqCap then none
      else
        let e : PqEntry := { id := s.nextId, key := k, push := push, site := site, va := va, by_ := [who], mask := mask,
                             sows := if sow then [(site, push)] else [] }
        some { s.updCore core (fun _ => { c2 with pq := c2.pq ++ [e] }) with nextId := s.nextId + 1 }

/-- The address that a fault of an entry's store reports (R158). -/
def State.entryVa (s : State) (core entry : Nat) : Nat :=
  match (s.core core).pq.find? fun e => e.id == entry with
  | none => 0
  | some e => e.va

/-! ## Release and acquire (R193, R198) -/

def wideScope : Scope → Bool
  | .group | .core => false
  | .cluster | .chip | .pod => true

def LineKey.remote (k : LineKey) : Bool := k.pod || decide (128 * k.n ≥ Config.farBase)

/-- The marker of a release: what it waits for (R193, R198). A push of a published SOW of the core that is still on its way is named by
its entry (R203). -/
def State.marker (s : State) (core : Nat) (sc : Scope) : Wait :=
  let pod := sc == .pod
  .marker (((s.core core).pq.filter fun e => pod || !e.key.remote).map (·.id)
      ++ (s.pushes.filter fun m => m.sites.any fun si => si.grp.core == core).map (·.entry))
    ((s.stsrs.filter fun m => m.core == core).map (·.id))
    (if pod then (s.sent.filter fun k => match k.pkt.body with
      | .send _ site => site.grp.core == core
      | _ => false).map (·.id) else [])
    core

/-- Everything ahead of a marker is published, acknowledged, installed or refused. -/
def State.markerDone (s : State) (pq stsr pkts : List Nat) (core : Nat) : Bool :=
  !((s.core core).pq.any fun e => pq.contains e.id) && !(s.pushes.any fun m => pq.contains m.entry)
  && !(s.stsrs.any fun m => stsr.contains m.id) && !(s.sent.any fun k => pkts.contains k.id)

/-- A split that performs a release at a scope before k: it stalls until the release completes (R198). -/
def released (s : State) (g : Group) (p : Split) (sc : Scope) (k : State) : State :=
  if !wideScope sc then k
  else
    match p.wait with
    | .marker pq stsr pkts core => if s.markerDone pq stsr pkts core then k else s
    | _ =>
      match s.marker g.ref.core sc with
      | .marker pq stsr pkts core =>
        if s.markerDone pq stsr pkts core then k else s.stall g p (.marker pq stsr pkts core)
      | _ => k

/-- ACQ of a core (R198, R209). -/
def Core.acquire (c : Core) : Core :=
  { c with acqs := c.acqs + 1,
           l1 := c.l1.filterMap fun l => match l.st with
             | .V => none
             | .P => if l.aged then none else some { l with aged := true }
             | .D | .DS => some { l with valid := l.dirty } }

def State.acquire (s : State) (core : Nat) (sc : Scope) : State := if wideScope sc then s.updCore core Core.acquire else s

/-! ## Checks of addresses (R218) -/

/-- What failed in the lanes of an access: the causes, the lanes, and the address and detail of the lowest failing lane. -/
structure LaneFail where
  cause : Cause := 0
  lanes : LaneMask := 0
  addr : Nat := 0
  detail : Nat := 0
  waits : Bool := false
  /-- Lanes that missed their last-page register, in a store (R156). -/
  missed : LaneMask := 0
  deriving Repr, Inhabited

def LaneFail.add (f : LaneFail) (lane : Nat) (c : Cause) (addr detail : Nat) : LaneFail :=
  { f with cause := f.cause ||| c, lanes := f.lanes ||| maskOfLanes [lane],
           addr := if f.lanes = 0 then addr else f.addr, detail := if f.lanes = 0 then detail else f.detail }

/-- A translated access of one lane. -/
structure LaneEa where
  lane : Nat
  va : Nat
  key : LineKey
  deriving DecidableEq, Repr, Inhabited

/-- The lane's last-page register covers an access (R317). -/
def Group.lastHit (g : Group) (lane va : Nat) (a : Acc) : Bool := g.lastPage.any fun e => e.1 == lane && e.2.covers g.cx va a

/-- The sampler sees the translated accesses of an instruction that goes on (R324). -/
def State.sampleLanes (s : State) (g : Group) (l : List LaneEa) : State := l.foldl (fun s e => s.sample g.ref.core g.cx e.va) s

/-- Checks and translates the accesses of lanes in ascending order; ok says which lines the access may name. -/
def State.checkEas (s : State) (g : Group) (a : Acc) (size : Nat) (ok : LineKey → Bool) (eas : List (Nat × Nat)) :
    State × List LaneEa × LaneFail :=
  eas.foldl (fun (acc : State × List LaneEa × LaneFail) e =>
    let (s, l, f) := acc
    let (lane, va) := e
    if va % size ≠ 0 then
      -- the other checks of R218 are made too, and their causes recorded beside ALIGN
      match s.resolve ((s.group? g.ref).getD g) (some lane) va a with
      | (s1, .error (.fail c d)) => (s1, l, f.add lane (cALIGN ||| causeBit c) va d)
      | (_, .ok k) => (s, l, f.add lane (if ok k then cALIGN else cALIGN ||| cPROT) va 0)
      | (_, .error _) => (s, l, f.add lane cALIGN va 0)
    else
      let g1 := (s.group? g.ref).getD g
      let hit := g1.lastHit lane va a
      let f1 := if hit then f else { f with missed := f.missed ||| maskOfLanes [lane] }
      match s.resolve g1 (some lane) va a with
      | (s1, .ok k) =>
        if ok k then (s1, l ++ [{ lane := lane, va := va, key := k }], f1)
        else (s1, l, f1.add lane cPROT va 0)
      | (s1, .error (.fail c d)) => (s1, l, f1.add lane (causeBit c) va d)
      | (s1, .error .wait) => (s1, l, { f1 with waits := true })
      | (s1, .error (.ok _)) => (s1, l, f1)) (s, [], {})

/-- checkEas of an instruction whose accesses are made at once where no lane fails or waits. -/
def State.checkLanes (s : State) (g : Group) (a : Acc) (size : Nat) (ok : LineKey → Bool) (eas : List (Nat × Nat)) :
    State × List LaneEa × LaneFail :=
  let r := s.checkEas g a size ok eas
  if r.2.2.cause = 0 ∧ ¬ r.2.2.waits then (r.1.sampleLanes g r.2.1, r.2) else r

/-! ## Fetching a word -/

/-- A word as the core fetches it, at the line's home (log 18). -/
def State.fetchWord (s : State) (g : Group) (pc : Nat) : State × Except XRes Word :=
  match s.resolve g none pc .exec with
  | (s1, .error r) => (s1, .error r)
  | (s1, .ok k) =>
    let (d, poi) := s1.homeRead k
    (s1.homeNote k, if poi then .error (.fail causePoison 0) else .ok (BitVec.ofNat 32 (lineNat d (pc % 128) 4)))

/-- The word at the split's PC, for a frame raised before it issues (R150); 0: it cannot be fetched. -/
def State.insnAt (s : State) (g : Group) (p : Split) : Word :=
  match (s.fetchWord g p.pc).2 with
  | .ok w => w
  | .error _ => 0

/-! ## Accesses that fail -/

/-- An access that fails in some lane traps; one that meets a page in migration waits; else it goes on (R218, R316). -/
def State.laneTrap (s : State) (g : Group) (p : Split) (i : Instr) (f : LaneFail) (uni : Bool) (k : State) : State :=
  if f.cause ≠ 0 then s.trapAt g p i f.cause (if uni then p.exec else f.lanes) f.addr f.detail
  else if f.waits then s.stall g p .poll
  else k

end Sys2Proof.Machine
end

