-- ==== Sys2Proof/Machine/Operands.lean ====
section
/-! DEFINITION. The operand forms of R35 and R161: the registers that each form uses and the value that it gives in a lane. -/

namespace Sys2Proof.Machine

def Uses.append (a b : Uses) : Uses := { v := a.v ++ b.v, s := a.s ++ b.s, m := a.m ++ b.m }

def useV (l : List Nat) : Uses := { v := l }
def useS (l : List Nat) : Uses := { s := l }
def useM (l : List Nat) : Uses := { m := l }

/-- The registers of a pair named by half its even number (R25). -/
def pairRegs (p : Nat) : List Nat := [2 * p, 2 * p + 1]

/-- n consecutive registers. -/
def runRegs (r n : Nat) : List Nat := (List.range n).map fun i => r + i

def opndUses : Opnd → Uses
  | .v r => useV [r.toNat]
  | .s r => useS [r.toNat]
  | .imm _ | .lit _ => {}

def opnd64Uses : Opnd64 → Uses
  | .v p => useV (pairRegs p.toNat)
  | .s p => useS (pairRegs p.toNat)
  | .imm _ | .lit _ => {}

def uopndUses : UOpnd → Uses
  | .s r => useS [r.toNat]
  | .imm _ | .lit _ => {}

def laneSelUses : LaneSel → Uses
  | .idx b => uopndUses b
  | .lo _ _ => {}

/-- BOP(i) of R161. -/
def bop (g : Group) (b : Opnd) (i : Nat) : Word :=
  match b with
  | .v r => g.getV r.toNat i
  | .s r => g.getS r.toNat
  | .imm x => x.signExtend 32
  | .lit w => w

/-- BOP(i) of FADD to SCALEX: imm7 becomes an exact FP32 value (R35). -/
def bopF (g : Group) (b : Opnd) (i : Nat) : Word :=
  match b with
  | .imm x => imm7F x
  | .v _ | .s _ | .lit _ => bop g b i

/-- BOP(i) of HADD2, HMUL2 and HFMA2 (R35, R174). -/
def bopH (p : FP) (g : Group) (b : Opnd) (i : Nat) : Word :=
  match b with
  | .imm x => imm7H p x
  | .v _ | .s _ | .lit _ => bop g b i

/-- The pair of lane i of slots 2p and 2p + 1. -/
def vPairVal (g : Group) (p i : Nat) : DWord := g.getV (2 * p + 1) i ++ g.getV (2 * p) i

/-- The 64-bit B operand of R161 and R165. -/
def bop64 (g : Group) (b : Opnd64) (i : Nat) : DWord :=
  match b with
  | .v p => vPairVal g p.toNat i
  | .s p => g.getSPair p.toNat
  | .imm x => x.signExtend 64
  | .lit w => w.signExtend 64

/-- The B operand of a uniform instruction (R35). -/
def uval (g : Group) (b : UOpnd) : Word :=
  match b with
  | .s r => g.getS r.toNat
  | .imm x => x.signExtend 32
  | .lit w => w

/-- The lowest lane of a mask. -/
def lowestLane (m : LaneMask) : Option Nat := (lanesOf m).head?

/-- The lane index k of R182; none: the lowest lane of an empty ACTIVE. -/
def laneSel (g : Group) (p : Split) (k : LaneSel) : Option Nat :=
  match k with
  | .idx b => some ((uval g b).toNat % 32)
  | .lo _ _ => lowestLane p.exec

/-- The effective addresses of the active lanes (R217). -/
def activeEas (p : Split) (f : Nat → Nat) : List (Nat × Nat) := (lanesOf p.exec).map fun i => (i, f i)

end Sys2Proof.Machine
end

