-- ==== Sys2Proof/Machine/Flags.lean ====
section
/-! DEFINITION. The result shapes of fixed-latency instructions: lane results under ACTIVE (R161), the sticky flags of $FPFLAGS (R59),
mask and uniform results; and the integer helpers of R131 and R164. -/

namespace Sys2Proof.Machine

/-- SAT_S32 of R131. -/
def satS32 (x : Int) : Word := BitVec.ofInt 32 (max (-(2 ^ 31)) (min (2 ^ 31 - 1) x))

/-- SAT_UNS of R164. -/
def satU32 (x : Int) : Word := BitVec.ofInt 32 (max 0 (min (2 ^ 32 - 1) x))

/-- SAT_S64 of R165. -/
def satS64 (x : Int) : DWord := BitVec.ofInt 64 (max (-(2 ^ 63)) (min (2 ^ 63 - 1) x))

def popc (w : Word) : Nat := ((List.range 32).filter fun i => w.getLsbD i).length

/-- The number of leading zero bits. -/
def clz (w : Word) : Nat := if w = 0 then 32 else 31 - Nat.log2 w.toNat

/-- Bit k moves to bit 31 - k. -/
def brev (w : Word) : Word :=
  (List.range 32).foldl (fun a k => if w.getLsbD k then a ||| BitVec.ofNat 32 (2 ^ (31 - k)) else a) 0

/-- The shifts of R164 and R131 by n = B[5:0]. -/
def shlW (a b : Word) : Word := a <<< (b.toNat % 64)
def shrW (a b : Word) : Word := a >>> (b.toNat % 64)
def sarW (a b : Word) : Word := a.sshiftRight (b.toNat % 64)
def rolW (a b : Word) : Word := a.rotateLeft (b.toNat % 32)

/-- BFX of R166. -/
def bfx (sx : Bool) (a b : Word) : Word :=
  let p := b.toNat % 32
  let w := b.toNat / 256 % 32 + 1
  let n := min w (32 - p)
  let f := a.toNat / 2 ^ p % 2 ^ n
  BitVec.ofInt 32 (if sx && f.testBit (n - 1) then (f : Int) - 2 ^ n else f)

/-- BFI of R166. -/
def bfi (d a b : Word) : Word :=
  let p := b.toNat % 32
  let w := b.toNat / 256 % 32 + 1
  let m : Word := BitVec.ofNat 32 ((2 ^ w - 1) * 2 ^ p)
  (d &&& ~~~m) ||| ((a <<< p) &&& m)

/-- The dot products of R169 over n elements of k bits. -/
def idp (n k : Nat) (d a b : Word) : Word :=
  BitVec.ofInt 32 ((List.range n).foldl (fun acc e =>
    acc + sextNat k (a.toNat / 2 ^ (k * e)) * sextNat k (b.toNat / 2 ^ (k * e))) (d.toInt))

/-- The conditions of R167. -/
def icmp (cc : Icc) (a b : Word) : Bool :=
  match cc with
  | .eq => a == b
  | .ne => a != b
  | .lt => a.slt b
  | .le => a.sle b
  | .gt => b.slt a
  | .ge => b.sle a
  | .ltu => a.ult b
  | .leu => a.ule b
  | .gtu => b.ult a
  | .geu => b.ule a
  | .any => (a &&& b) != 0
  | .none => (a &&& b) == 0

/-- A fixed-latency lane instruction: lane i of V[d] takes f i for the lanes of ACTIVE (R161). -/
def laneOp (s : State) (i : Instr) (u : Uses) (d : Nat) (f : Group → Nat → Word) : Out :=
  issue s i u fun g p => (s.updGroup g.ref fun h => h.setLanes d p.exec (f g)).done g p i

/-- The same for a pair of slots d and d + 1. -/
def laneOp64 (s : State) (i : Instr) (u : Uses) (d : Nat) (f : Group → Nat → DWord) : Out :=
  issue s i u fun g p =>
    (s.updGroup g.ref fun h =>
      (h.setLanes d p.exec fun l => (f g l).extractLsb' 0 32).setLanes (d + 1) p.exec fun l => (f g l).extractLsb' 32 32).done g p i

/-- The union of the flags of the active lanes (R59). -/
def flagsOf (m : LaneMask) (f : Nat → FRes) : Flags := (lanesOf m).foldl (fun a i => a ||| (f i).2) 0

/-- A float lane instruction: results and sticky flags of the lanes of ACTIVE (R59, R161), under the mode that governs in this cycle
(R138). -/
def laneFloat (s : State) (i : Instr) (u : Uses) (d : Nat) (f : Group → Nat → FRes) : Out :=
  issue s i u fun g p =>
    let g1 := g.inMode s.cycle
    (s.updGroup g.ref fun h => (h.setLanes d p.exec fun l => (f g1 l).1).setFlags (flagsOf p.exec (f g1))).done g p i

/-- The mask bits of the active lanes replaced, or ANDed in the combining form (R167); the other bits are kept. -/
def maskUpd (old exec : Word) (comb : Bool) (c : Nat → Bool) : Word :=
  (lanesOf exec).foldl (fun m i =>
    let b := c i && (!comb || old.getLsbD i)
    if b then m ||| BitVec.ofNat 32 (2 ^ i) else m &&& ~~~(BitVec.ofNat 32 (2 ^ i))) old

/-- ICMP and FCMP (R167, R172). -/
def laneCmp (s : State) (i : Instr) (u : Uses) (m : Nat) (comb : Bool) (f : Group → Nat → Bool × Flags) : Out :=
  issue s i u fun g p =>
    (s.updGroup g.ref fun h =>
      (h.setM m (maskUpd (h.getM m) p.exec comb fun l => (f g l).1)).setFlags
        (flagsOf p.exec fun l => (0, (f g l).2))).done g p i

/-- An instruction that writes one S register, once per issue (R120). -/
def uniOp (s : State) (i : Instr) (u : Uses) (d : Nat) (f : Group → Split → Word) : Out :=
  issue s i u fun g p => (s.updGroup g.ref fun h => h.setS d (f g p)).done g p i

/-- An instruction that writes one M register, once per issue. -/
def maskOp (s : State) (i : Instr) (u : Uses) (d : Nat) (f : Group → Split → Word) : Out :=
  issue s i u fun g p => (s.updGroup g.ref fun h => h.setM d (f g p)).done g p i

end Sys2Proof.Machine
end

