-- ==== Sys2Proof/Machine/LinkOps.lean ====
section
/-! DEFINITION. Packets of the virtual pod as their sender handles them: the vpod tables (R333 to R336), holding and sealing (R338, R341),
the fates of what is not delivered (R330, R336, R347), and granaries (R346, R348). -/

namespace Sys2Proof.Machine

/-! ## Tables -/

/-- A ROUTE entry: port, egress key index and vlink (R334). -/
def Context.route? (c : Context) (r : Nat) : Option (Nat × Nat × BitVec 32) :=
  let e := sget 0 c.routes r
  if e.getLsbD 63 then some ((e.extractLsb' 56 3).toNat, (e.extractLsb' 48 8).toNat, e.extractLsb' 64 32) else none

/-- PATH of a ROUTE entry (R334). -/
def Context.path (c : Context) (r : Nat) : BitVec 48 := (sget 0 c.routes r).extractLsb' 0 48

/-- The members of a multicast set (R335). -/
def Context.members? (c : Context) (k : Nat) : Option (List Nat) :=
  let e := sget 0 c.mcast k
  if e.getLsbD 63 then
    some ((List.range (e.extractLsb' 48 4).toNat).map fun j => (e.extractLsb' (64 * (j / 4) + 12 * (j % 4)) 12).toNat)
  else none

/-- The INGRESS entry that accepts a vlink: its SRC and key index (R334, R339). -/
def Context.ingress? (c : Context) (v : BitVec 32) : Option (Nat × Nat) :=
  (c.ingress.find? fun e => e.2.getLsbD 63 && e.2.extractLsb' 0 32 == v).map fun e =>
    ((e.2.extractLsb' 32 12).toNat, (e.2.extractLsb' 64 8).toNat)

def keyAt (l : List (Nat × KeyEntry)) (i : Nat) : KeyEntry := ((l.find? fun e => e.1 == i).map (·.2)).getD {}

def putKey (l : List (Nat × KeyEntry)) (i : Nat) (k : KeyEntry) : List (Nat × KeyEntry) :=
  if k = {} then l.filter fun e => e.1 != i else sortBy (·.1) ((i, k) :: l.filter fun e => e.1 != i)

/-- K(phase). -/
def KeyEntry.slot (k : KeyEntry) (phase : Bool) : Option Key := if phase then k.k1 else k.k0

def statusOk : Nat := 0
def statusNovchip : Nat := 1
def statusBadroute : Nat := 2
def statusDown : Nat := 3
def statusBadarg : Nat := 4

/-- EGRESS of R336 as far as the tables decide it: the label and the header, or the status. -/
def Context.egress (c : Context) (n r : Nat) : Except Nat (Nat × Nat × BitVec 16 × Nat × BitVec 32) :=
  match c.vchip? n with
  | none => .error statusNovchip
  | some (pkg, cxid, dflt) =>
    let label := if r = 0 then dflt else r
    match c.route? label with
    | none => .error statusBadroute
    | some (port, _, vlink) => if c.downRoutes.contains label then .error statusDown else .ok (label, port, pkg, cxid, vlink)

/-! ## Granaries -/

/-- A context is resident (R346); a replay at start comes first too (R349). -/
def Context.resident (c : Context) : Bool := (c.st == .run || c.st == .restoring) && c.gran.replayed

/-- The keys of a sealed context as they come out of its directory entry; a key that does not unwrap is lost. -/
def Context.unwrapKeys (c : Context) (kek : Key) : Context :=
  match c.wrapped with
  | [m, g, t] =>
    let key (w : List Byte) : Key := (keyUnwrap kek w).getD 0
    { c with memKey := key m, granKey := key g, transKey := key t, wrapped := [] }
  | _ => c

/-- The key and generation of a context's granary: a sealed context's key comes out of its directory entry (R81, R346). -/
def State.granDomain (s : State) (c : Context) : Key × BitVec 16 := ((c.unwrapKeys s.modl.sealingKey).granKey, c.gen)

/-- The physical lines that n bytes of the ring from a place take. -/
def Granary.lines (g : Granary) (size pos n : Nat) : List Nat :=
  ((List.range ((n + 63) / 64)).map fun i =>
    let o := (pos + 64 * i) % size
    g.frames.getD (o / 65536) 0 * 512 + o % 65536 / 128).dedup

/-- A record whose bytes a store has overwritten (R346). -/
def State.granCorrupt (s : State) (c : Context) (rec pos : Nat) (r : GranRec) : Bool :=
  c.gran.bad.contains rec || (!c.gran.frames.isEmpty
    && (c.gran.lines c.bindRec.granSize pos r.size).any fun n => s.poisoned n (some (s.granDomain c)))

/-- A record is appended (R346, R348). -/
def State.granAppend (s : State) (cx : Nat) (r : GranRec) : State :=
  match s.ctx? cx with
  | none => s
  | some c =>
    let size := c.bindRec.granSize
    let ls := if c.gran.frames.isEmpty then [] else c.gran.lines size c.gran.head r.size
    let s1 := ls.foldl (fun s n =>
      s.setMeta n { s.lmeta n with stamp := some (s.granDomain c), poison := false, wrong := 0, reported := false }) s
    let bad := (c.gran.recs.filter fun e => s.granCorrupt c e.1 e.2.1 e.2.2).map (·.1)
    let g1 : Granary := { c.gran with bad := bad, recs := c.gran.recs ++ [(c.gran.next, c.gran.head, r)], next := c.gran.next + 1,
                                      head := (c.gran.head + r.size) % size }
    let tell := !c.resident && decide (4 * g1.used ≥ 3 * size) && g1.restoreArmed
    let g2 := { g1 with withheld := g1.withheld || decide (size - g1.used < 256), restoreArmed := g1.restoreArmed && !tell }
    let s2 := s1.updCtx cx fun c => { c with gran := g2 }
    if tell then s2.emit (.granRestore cx) else s2

/-! ## Co-run hints (R343) -/

/-- A hint at its destination: it opens a window, or raises CORUN where the context is SEALED; a window that has passed has no effect. -/
def State.takeHint (s : State) (cx start len : Nat) : State :=
  match s.ctx? cx with
  | none => s
  | some c =>
    if s.gtime ≥ start + len then s
    else if c.st == .sealed then s.emit (.corun cx start len)
    else s.updCtx cx fun c => { c with hints := (start, len) :: c.hints.filter fun h => decide (s.gtime < h.1 + h.2) }

/-! ## Fates of packets that are not delivered -/

/-- A cause of an operation that is found after its issue: raised at the split's next issue boundary (R218). -/
def State.raiseLater (s : State) (o : PendOp) (cause : Cause) (lanes : LaneMask) (addr detail : Nat) : State :=
  s.withOpGroup o fun g =>
    { g with held := g.held ++ [{ split := o.split, cause := cause, lanes := lanes, pc := o.pc, addr := addr,
                                  detail := BitVec.ofNat 16 detail, insn := o.insn, nextpc := 0, clause := o.clause,
                                  rpc := some o.rpc }] }

/-- $EXEC of the split of an operation, for causes that are not per lane. -/
def State.opExec (s : State) (o : PendOp) : LaneMask :=
  let g : Option Group := match s.images.find? fun (im : Image) => im.ops.any fun p => p.id == o.id with
    | some im => im.groups.find? fun (g : Group) => g.ref == o.grp
    | none => s.group? o.grp
  match g.bind fun g => g.split? o.split with
  | none => 0
  | some p => p.exec

/-- One home has merged its copy of a PQ entry, or the bytes for it were dropped (R191, R335). -/
def Core.mergeAck (c : Core) (entry : Nat) : Core :=
  { c with pq := upd (fun e => e.id == entry) (fun e =>
      { e with homesLeft := e.homesLeft - 1, phase := if e.homesLeft ≤ 1 then .merged else e.phase }) c.pq }

def PendOp.lane? (o : PendOp) (lane : Nat) : Option AtomLane :=
  match o.kind with
  | .atom _ _ _ _ _ _ lanes => lanes.find? fun l => l.lane == lane
  | _ => none

/-- Changes one lane of an atomic. -/
def PendOp.mapLane (o : PendOp) (lane : Nat) (f : AtomLane → AtomLane) : PendOp :=
  match o.kind with
  | .atom w op nr sc ord d lanes => { o with kind := .atom w op nr sc ord d (upd (fun l => l.lane == lane) f lanes) }
  | _ => o

/-- What a pinned read selected for a line of SHLD; the lanes that share the line take it in one selection (R249). none: stale. -/
def PendOp.mapShld (o : PendOp) (k : LineKey) (r : Option LineData) : PendOp :=
  match o.kind with
  | .shld d n id ver lanes =>
    { o with kind := .shld d n id ver (lanes.map fun l => if l.1.key == k then (l.1, some r) else l) }
  | _ => o

/-- The lanes of SHLD that share the line of a lane. -/
def PendOp.shldLanes (o : PendOp) (lane : Nat) : List LaneAcc :=
  match o.kind with
  | .shld _ _ _ _ lanes =>
    match lanes.find? fun l => l.1.lane == lane with
    | none => []
    | some a => (lanes.filter fun l => l.1.key == a.1.key).map (·.1)
  | _ => []

/-- The flags of a copy's status (R264). -/
def State.flagCopy (s : State) (id : Nat) (bit : Nat) : State :=
  { s with copies := upd (fun c : Copy => c.id == id) (fun c => { c with flags := c.flags ||| BitVec.ofNat 8 (2 ^ bit) }) s.copies }

def copyProt : Nat := 1
def copyPoison : Nat := 2

/-- The sheaf word of R243. -/
def sheafWord (id ver st : Nat) : Word := BitVec.ofNat 32 (id % 4096 * 2 ^ 20 + ver % 4096 * 256 + st)

def shOk : Nat := 0
def shReopen : Nat := 1
def shBusy : Nat := 2
def shBadid : Nat := 3
def shBadmem : Nat := 4
def shOpenfull : Nat := 5
def shPinfull : Nat := 6
def shNopin : Nat := 7
def shNotopen : Nat := 8

/-- Changes the group that a message names, resident or saved, wherever it stands now. -/
def State.mapWriter (s : State) (cx : Nat) (w : Writer) (f : Group → Group) : State :=
  let p (g : Group) : Bool := g.cx == cx && g.kernel == w.kernel && g.wg == w.wg && g.gidx == w.gidx && g.status == .live
  { s with groups := upd p f s.groups, images := s.images.map fun im => { im with groups := upd p f im.groups } }

/-- The group that an instruction issued, resident or saved; once it has ended, none, though another may bear its number. -/
def State.mapSite (s : State) (si : Site) (f : Group → Group) : State :=
  let p (g : Group) : Bool := g.uid == si.uid && g.cx == si.cx && g.kernel == si.kernel && g.wg == si.wg && g.gidx == si.gidx
    && g.status == .live
  { s with groups := upd p f s.groups, images := s.images.map fun im => { im with groups := upd p f im.groups } }

/-- The group that a message names still exists. -/
def State.hasWriter (s : State) (cx : Nat) (w : Writer) : Bool :=
  (s.groups ++ s.images.flatMap fun im => im.groups).any fun g =>
    g.cx == cx && g.kernel == w.kernel && g.wg == w.wg && g.gidx == w.gidx && g.status == .live

/-- The split that stalls for the reply to message id takes it. -/
def Group.answer (g : Group) (id : Nat) (v : DWord) : Group :=
  { g with splits := upd (fun p => p.wait == .reply id) (fun p => { p with wait := .got v }) g.splits }

/-- VERSION is at or beyond a version (R241). -/
def verReached (now v : Nat) : Bool := decide ((now + 4096 - v % 4096) % 4096 < 2048)

/-- The version field of S[d] where the spec states none is a free value: SHOPEN without OK or REOPEN, SHPIN with BADID (DESIGN CHOICE,
log 49). -/
def shVerFree (kind : ShMsgKind) (st : Nat) : Bool :=
  (kind == .open_ && st != shOk && st != shReopen) || (kind == .pin && st == shBadid)

/-- Word 0 of a descriptor of another module, which WAITVER or SHVER waits for (R94, R104); 0xF000_0000: there is none. -/
def State.seeVersion (s : State) (cx sheaf w : Nat) : State :=
  if w = 0xF0000000 then s
  else (s.updCtx cx fun c => { c with seenVer := putFirst (fun e => e.1 == sheaf) (sheaf, w) c.seenVer }).meet cx fun d => match d with
    | .shver i v => i == sheaf && verReached (w % 4096) v
    | .kdone _ | .ktrig _ | .gtime _ | .lap .. => false

/-- The reply of a descriptor home to a message of a group or of a COPYX: version and status (R245 to R248, R267). -/
def State.shReply (s0 : State) (m : ShMsg) (ver0 st : Nat) : State :=
  let (ver, s) := if shVerFree m.kind st then s0.drawNat else (ver0, s0)
  let w := sheafWord m.sheaf ver st
  match m.copy with
  | some c =>
    match m.kind with
    | .open_ =>
      -- the copy has gone with its context's work: the version is abandoned
      let s0 := if st = shOk ∧ ¬ s.copies.any (fun x : Copy => x.id == c) then
        s.sendSh { id := 0, kind := .drop, cx := m.cx, sheaf := m.sheaf, ver := ver, grp := m.grp }
      else if st = shOk ∧ m.fault then s.mapWriter m.cx m.writer fun g => { g with xopens := g.xopens ++ [(m.sheaf, ver)] } else s
      { s0 with copies := upd (fun x : Copy => x.id == c) (fun x =>
          if st = shOk ∧ ¬ m.fault then { x with xst := 1, shVer := ver }
          else { x with xst := 3, flags := x.flags ||| (if m.fault then 2 else 0x20), shVer := if st = shOk then ver else 0 }) s0.copies }
    | .seal | .drop | .pin | .unpin | .query =>
      { s with copies := upd (fun x : Copy => x.id == c) (fun x => { x with xst := 3 }) s.copies }
  | none =>
    match m.kind with
    | .open_ =>
      -- the writer has gone: the version is abandoned
      let s0 := if st = shOk ∧ ¬ s.hasWriter m.cx m.writer then
        s.sendSh { id := 0, kind := .drop, cx := m.cx, sheaf := m.sheaf, ver := ver, grp := m.grp } else s
      s0.mapWriter m.cx m.writer fun g =>
        let g1 := if (st = shOk ∨ st = shReopen) ∧ ¬ g.opens.contains (m.sheaf, ver) then
          { g with opens := g.opens ++ [(m.sheaf, ver)] } else g
        g1.answer m.id (w.zeroExtend 64)
    | .query =>
      if m.split.isNone then s.seeVersion m.cx m.sheaf ver else s.mapWriter m.cx m.writer fun g => g.answer m.id (BitVec.ofNat 64 ver)
    | .pin =>
      match m.op.bind s.anyOp? with
      | none => if st = shOk then s.sendSh { id := 0, kind := .unpin, cx := m.cx, sheaf := m.sheaf, ver := ver, grp := m.grp } else s
      | some o =>
        match o.kind with
        | .shpin d _ =>
          -- a pin that comes behind its group's *lastexit* is released at once (DEDUCED, log 49: R244 releases pins at the *lastexit* itself)
          let late := st = shOk ∧ ((s.group? o.grp).map fun g => g.status == .ending).getD false ∧ (s.op? o.id).isSome
          let s1 := if late then s.sendSh { id := 0, kind := .unpin, cx := m.cx, sheaf := m.sheaf, ver := ver, grp := m.grp } else s
          (s1.withOpGroup o fun g =>
            let g1 := g.setS d w
            if st = shOk ∧ ¬ late then { g1 with pins := g1.pins ++ [(m.sheaf, ver, m.region)] } else g1).finishOp o.id
        | _ => s
    | .seal =>
      match m.op.bind s.anyOp? with
      | none => s
      | some o =>
        match o.kind with
        | .shseal d _ _ _ => (s.withOpGroup o fun g => g.setS d w).finishOp o.id
        | _ => s
    | .drop | .unpin => s

/-- A write of a copy is over without having been made: a bit of its status (R264). -/
def State.copyRefused (s : State) (c bit : Nat) : State :=
  let s2 := s.flagCopy c bit
  { s2 with copies := upd (fun x : Copy => x.id == c) (fun x => { x with podOut := x.podOut - 1 }) s2.copies }

/-- A request gets no answer: PROT (R336, R347) or POISON on a DOWN route (R330). Numbers as R152. -/
def State.failAs (s1 : State) (r : PodReq) (cause : Nat) : State :=
  match r.kind with
  | .fill core key acqs op =>
    { s1 with fills := s1.fills ++ [{ core := core, key := key, data := 0, poison := cause == causePoison,
                                      refused := cause != causePoison, acqs := acqs, op := op }] }
  | .merge core entry site => (s1.impStore site cause (s1.entryVa core entry)).updCore core fun c => c.mergeAck entry
  | .atomic op lane => s1.mapOp op fun o => o.mapLane lane fun l => { l with fate := cause, reply := some 0 }
  | .watch op =>
    match s1.anyOp? op with
    | none => s1
    | some o => (s1.raiseLater o (causeBit cause) (s1.opExec o) r.addr 0).finishOp op
  | .sheaf m => if m.kind == .query then s1.shReply m 0xF0000000 0 else s1.shReply m 0 shBadid
  | .member cx sheaf ver home =>
    -- R347: it counts as acknowledged
    match s1.shProcs.find? fun q => q.cx == cx && q.sheaf == sheaf && q.ver == ver with
    | none => s1
    | some q =>
      let s2 : State := { s1 with shProcs := upd (fun x => x.cx == cx && x.sheaf == sheaf && x.ver == ver) (fun x =>
        { x with left := x.left.filter fun h => h != home }) s1.shProcs }
      s2.impStore q.site causeProt 0
  | .pinned op lane =>
    match s1.anyOp? op with
    | none => s1
    | some o => (s1.raiseLater o (causeBit cause) (maskOfLanes ((o.shldLanes lane).map (·.lane))) r.addr 0).finishOp op
  | .copyRead c =>
    let bit := if cause = causePoison then copyPoison else copyProt
    let s2 := s1.flagCopy c bit
    let got := if cause = causePoison then some (some 0) else some none
    { s2 with copies := upd (fun x : Copy => x.id == c) (fun x =>
        { x with podWait := none, podData := got, podPoison := cause == causePoison }) s2.copies }
  | .feeder c => s1.updCirc c fun x => { x with feed := x.feed ++ [(0, true)], feedWait := false }
  | .copyWrite c =>
    let s3 := s1.copyRefused c (if cause = causePoison then copyPoison else copyProt)
    match s3.copies.find? fun x => x.id == c with
    | none => s3
    | some x => s3.impStore x.site cause r.addr

/-- The request of a number gets no answer. -/
def State.failReq (s : State) (id cause : Nat) : State :=
  match s.reqs.find? fun r => r.id == id with
  | none => s
  | some r => ({ s with reqs := s.reqs.filter fun r => r.id != id } : State).failAs r cause

/-- The request number of a body. -/
def PktBody.req : PktBody → Nat
  | .load r _ _ | .merge r _ _ _ _ _ | .atomic r _ _ _ _ _ _ | .watch r _ _ _ _ _ | .sheaf r _ _ _ _ | .sealMember r _ _ _ _ _
  | .openWrite r _ _ _ _ _ _ _ _ _ _ | .rReject r _ _ | .pinned r _ _ _ _ _ | .rData r _ _ _ | .rAtomic r _ _ | .rAck r | .rNack r _ | .rWatch r _
  | .rSheaf r _ | .rPinned r _ _ _ | .rPoison r _ _ | .rFull r => r
  | .send .. | .hint .. | .ack _ => 0

/-- A packet is lost for good: refused, or its route is DOWN. -/
def State.failPkt (s : State) (k : SentPkt) (cause : Nat) : State :=
  let s1 : State := { s with sent := s.sent.filter fun x => x.id != k.id }
  match k.pkt.body with
  | .send _ site => s1.impStore site cause 0
  | b => s1.failReq b.req cause

/-! ## Sending -/

/-- A VPOD command holds the context's requests (R338). -/
def State.vpodHolds (s : State) (cx : Nat) : Bool := s.bar.link.pending.map (·.1) == some cx

def PktBody.isSend : PktBody → Bool
  | .send .. => true
  | .load .. | .merge .. | .atomic .. | .watch .. | .sheaf .. | .sealMember .. | .openWrite .. | .pinned .. | .hint .. | .rData ..
  | .rAtomic .. | .rAck _ | .rNack .. | .rReject .. | .rWatch .. | .rSheaf .. | .rPinned .. | .rPoison .. | .rFull _ | .ack _ => false

/-- The bytes that a packet's record takes in a granary (R346). -/
def Packet.recBytes (k : Packet) : Nat := if k.body.isSend then 128 else (GranRec.req 0 k.vlink 0 false k.body).size

/-- The bytes of the records that the packets in flight to a context of this module will take (R348): a resident context's granary takes
SEND messages alone. -/
def State.inFlight (s : State) (c : Context) : Nat :=
  ((s.sent.filter fun x => x.pkt.loopback && x.pkt.cxid == c.cxid && !x.held && !x.untr && !x.acked
    && (!c.resident || x.pkt.body.isSend)).map fun x => x.pkt.recBytes).foldl (· + ·) 0

/-- A destination withholds its credits: here, so that every packet in flight fits; on another module, as it has told (R348). -/
def State.destHolds (s : State) (k : Packet) : Bool :=
  if k.loopback then
    match s.ctx? k.cxid with
    | none => false
    | some c => (!c.resident || k.body.isSend)
        && (c.gran.withheld || decide (c.bindRec.granSize < c.gran.used + s.inFlight c + 256))
  else s.heldDests.any fun d => d.1 == k.pkg && d.2.1 == k.cxid && (d.2.2 || k.body.isSend)

/-- The bytes that a request is charged: its flits (R329). -/
def Packet.bytes (k : Packet) : Nat := 64 * (1 + k.len)

/-- Requests of a context are charged to class 2 (R331); a hint is the hypervisor's (R343), and seal messages are never held (R237). -/
def PktBody.classes : PktBody → List Nat
  | .hint .. | .sealMember .. => []
  | .load .. | .merge .. | .atomic .. | .watch .. | .sheaf .. | .openWrite .. | .pinned .. | .send .. | .rData ..
  | .rAtomic .. | .rAck _ | .rNack .. | .rReject .. | .rPoison .. | .rFull _ | .ack _ | .rWatch .. | .rSheaf .. | .rPinned .. => [clsPod]

/-- The packet of an entry leaves, with a sequence number of its key (R341): on loopback to the ingress of this module. -/
def State.sealPkt (s : State) (k : SentPkt) : State :=
  match s.ctx? k.cx with
  | none => s
  | some c =>
    if k.pkt.loopback then
      let k1 := { k with held := false, lastSent := s.cycle }
      ({ s with sent := upd (fun x => x.id == k.id) (fun _ => k1) s.sent, net := s.net ++ [k1.pkt] } : State).spend k.cx
        k.pkt.body.classes k.pkt.bytes
    else
      match c.route? k.label with
      | none => s
      | some (_, ki, _) =>
        let e := keyAt c.egKeys ki
        if (e.slot e.phase).isNone || decide (e.seq ≥ 2 ^ 64 - 1) then s
        else
          let pkt := { k.pkt with phase := e.phase, seq := e.seq, sealedUnder := e.slot e.phase, path := c.path k.label }
          let k1 := { k with held := false, lastSent := s.cycle, pkt := pkt }
          let s1 := ({ s with sent := upd (fun x => x.id == k.id) (fun _ => k1) s.sent, wire := s.wire ++ [pkt] } : State).spend k.cx
            k.pkt.body.classes k.pkt.bytes
          let s2 := s1.updCtx k.cx fun c => { c with egKeys := putKey c.egKeys ki { e with seq := e.seq + 1 } }
          if e.seq + 1 = 2 ^ 63 then s2.emit (.rekey k.cx ki) else s2

/-- A translated packet leaves, unless an earlier one of its label, its destination or the rate limiter holds it (R116, R338, R348). -/
def State.sendNow (s : State) (k : SentPkt) : State :=
  if s.sent.any fun x => x.cx == k.cx && x.label == k.label && !x.untr && x.held && decide (x.id < k.id) then s
  else if s.destHolds k.pkt || !s.admits k.cx k.pkt.body.classes then s
  else s.sealPkt k

/-- A held packet is tried again: translated if it has not been (R338), and sent unless something still holds it. -/
def State.tryPkt (s : State) (id : Nat) : State :=
  match s.sent.find? fun k => k.id == id with
  | none => s
  | some k =>
    if !k.held || s.vpodHolds k.cx then s
    else
      if k.untr then
        match s.ctx? k.cx with
        | none => s
        | some c =>
          match c.egress k.dest k.named with
          | .error st => s.failPkt k (if st = statusDown then causePoison else causeProt)
          | .ok (label, port, pkg, cxid, vlink) =>
            let k1 := { k with untr := false, label := label, port := port,
                               pkt := { k.pkt with pkg := pkg, cxid := cxid, vlink := vlink, loopback := pkg == s.bar.link.pkgid } }
            ({ s with sent := upd (fun x => x.id == id) (fun _ => k1) s.sent } : State).sendNow k1
      else s.sendNow k

/-- Every held packet is tried, oldest first. -/
def State.pump (s : State) : State := (s.sent.map (·.id)).foldl (fun s id => s.tryPkt id) s

/-- A destination on another module withholds its credits, or returns them (R348). -/
def State.credit (s : State) (pkg : BitVec 16) (cxid : Nat) (held : Option Bool) : State :=
  let rest := s.heldDests.filter fun d => d.1 != pkg || d.2.1 != cxid
  ({ s with heldDests := match held with
      | none => rest
      | some every => (pkg, cxid, every) :: rest } : State).pump

/-- Sends a packet of a context to a vchip on a label (R336): the status of EGRESS. -/
def State.podSend (s : State) (cx dest named : Nat) (body : PktBody) : State × Nat :=
  match s.ctx? cx with
  | none => (s, statusNovchip)
  | some c =>
    let mk (label port : Nat) (pkg : BitVec 16) (cxid : Nat) (vlink : BitVec 32) (untr : Bool) : SentPkt :=
      { id := s.nextId, cx := cx, label := label, port := port, since := s.cycle, lastSent := s.cycle, dest := dest, named := named,
        untr := untr, held := true,
        pkt := { id := s.nextId, pkg := pkg, cxid := cxid, vlink := vlink, loopback := pkg == s.bar.link.pkgid && !untr,
                 len := body.flits, body := body } }
    let put (k : SentPkt) : State := { s with sent := s.sent ++ [k], nextId := s.nextId + 1 }
    if s.vpodHolds cx then (put (mk 0 0 0 0 0 true), statusOk)
    else
      match c.egress dest named with
      | .error st => (s, st)
      | .ok (label, port, pkg, cxid, vlink) =>
        let k := mk label port pkg cxid vlink false
        ((put k).sendNow k, statusOk)

/-- The vchip whose window a pod address lies in, and the local address there (R311, R314). -/
def podVchip (va : Nat) : Nat := (va - Config.podBase) / Config.windowBytes
def podLocal (va : Nat) : Nat := Config.windowLocal + (va - Config.podBase) % Config.windowBytes

/-- The context and the local address of a pod address whose vchip is on this module (R311, R336). -/
def State.podHere (s : State) (cx va : Nat) : Option (Nat × Nat) :=
  ((s.ctx? cx).bind fun c => c.vchip? (podVchip va)).bind fun v =>
    if v.1 == s.bar.link.pkgid then some (v.2.1, podLocal va) else none

/-- A request with a reply to the vchip of a pod address; a refusal by the tables takes its fate at once (R336). -/
def State.podRequest (s : State) (cx dest addr : Nat) (kind : ReqKind) (body : Nat → PktBody) : State :=
  let r : PodReq := { id := s.nextId, cx := cx, addr := addr, kind := kind }
  match ({ s with nextId := s.nextId + 1 } : State).podSend cx dest 0 (body r.id) with
  | (s2, 0) => { s2 with reqs := s2.reqs ++ [r] }
  | (s2, st) => s2.failAs r (if st = statusDown then causePoison else causeProt)

/-- The requests of a load for the lines of the pod that its core does not hold. -/
def State.requestLines (s : State) (cx core op : Nat) (lines : List LineWait) : State :=
  (lines.filter fun w => w.key.pod && w.st == .needed).foldl (fun s w =>
    s.podRequest cx (podVchip (128 * w.key.n)) (128 * w.key.n) (.fill core w.key w.acqs op) fun id => .load id (128 * w.key.n) false) s

end Sys2Proof.Machine
end

