-- ==== Sys2Proof/Machine/LineOps.lean ====
section
/-! DEFINITION. Loads as operations: what a load takes from the core's L1 at issue (R194, R209), and how the bytes of its lines become
register values (R219, R220). -/

namespace Sys2Proof.Machine

/-- Flag numbers of the model's own for reads that attach to no flag: the table read of JTAB (R128) and the argument block (R118). -/
def flagTable : Nat := 100
def flagArgs : Nat := 101

/-- The distinct lines of a list of accesses. -/
def lineKeys (l : List LaneEa) : List LineKey := (l.map (·.key)).dedup

/-- The bytes of a line that accesses of a size need. -/
def needMask (l : List LaneEa) (size : Nat) (k : LineKey) : LineMask :=
  (l.filter fun a => a.key == k).foldl (fun m a => m ||| maskOf (a.va % 128) size) 0

/-- A line of a load at issue: served by the L1 where it holds every byte, else to be fetched, with the core's own unpublished bytes
kept (R194, R198). -/
def Core.startLine (c : Core) (l : List LaneEa) (size : Nat) (k : LineKey) : LineWait :=
  match c.line? k with
  | none => { key := k, st := .needed, acqs := c.acqs }
  | some x =>
    if needMask l size k &&& ~~~x.valid = 0 then { key := k, st := .got, data := x.data, acqs := c.acqs }
    else { key := k, st := .needed, data := x.data, own := x.dirty, acqs := c.acqs }

/-- *hit* of R209: a referenced pushed line becomes V; the line is the latest referenced. -/
def Core.hitLines (c : Core) (ks : List LineKey) (now : Nat) : Core :=
  { c with l1 := c.l1.map fun l =>
      if ks.any fun k => l.key.same k then
        { l with st := if l.st == .P then .V else l.st, aged := if l.st == .P then false else l.aged,
                 age := if l.st == .V || l.st == .P then now else l.age, refd := now }
      else l }

/-- Attaches a load of checked accesses to a flag (R219); requests for lines of the pod leave at once. -/
def State.attachLoad (s : State) (g : Group) (p : Split) (i : Instr) (flag : Nat) (uni : Bool) (d : Nat) (nar : Narrow) (size : Nat)
    (pend : PendSet) (mask : LaneMask) (l : List LaneEa) : Nat × State :=
  let c := s.core g.ref.core
  let lines := (lineKeys l).map (c.startLine l size)
  let accs : List LaneAcc := l.map fun a => { lane := a.lane, va := a.va, key := a.key, off := a.va % 128 }
  let s1 := s.updCore g.ref.core fun c => c.hitLines ((lines.filter fun w => w.st == .got).map (·.key)) s.cycle
  let out := lines.map fun w => if w.key.pod && w.st == .needed then { w with st := .served } else w
  let (id, s2) := s1.attach g p i flag pend (.load uni d nar accs out mask)
  (id, s2.requestLines g.cx g.ref.core id lines)

/-- The 32-bit words that the bytes of one lane become (R219, R220). -/
def narrowWords (nar : Narrow) (x : Nat) : List Word :=
  match nar with
  | .word n => (List.range (n / 4)).map fun k => BitVec.ofNat 32 (x / 2 ^ (32 * k))
  | .byteForm .u8 => [BitVec.ofNat 32 (x % 256)]
  | .byteForm .s8 => [(BitVec.ofNat 8 x).signExtend 32]
  | .byteForm .u16 => [BitVec.ofNat 32 (x % 65536)]
  | .byteForm .s16 => [(BitVec.ofNat 16 x).signExtend 32]

def narrowBytes (nar : Narrow) : Nat :=
  match nar with
  | .word n => n
  | .byteForm .u8 | .byteForm .s8 => 1
  | .byteForm .u16 | .byteForm .s16 => 2

/-- Writes the words of one lane into registers d, d + 1, …: physical V registers, or S registers for a uniform load. -/
def Group.putWords (g : Group) (uni : Bool) (d lane : Nat) (ws : List Word) : Group :=
  (ws.zipIdx).foldl (fun g w => if uni then g.setS (d + w.2) w.1 else g.setP (d + w.2) lane w.1) g

def sizeBytes : Size → Nat
  | .b32 => 4 | .b64 => 8 | .b128 => 16

/-! ## C copies -/

/-- A read from a sector may create a C copy of a line there (R214). -/
def State.mayCopy (s : State) (k : LineKey) (sec : Nat) : Bool :=
  !k.pod && k.sh == 0 && s.homeSector k != sec && s.sectorOf (s.homeSector k) == s.sectorOf sec

end Sys2Proof.Machine
end

