-- ==== Sys2Proof/Machine/Barrier.lean ====
section
/-! DEFINITION. Named barriers and copy tags (spec/13_barrier.md R253 to R256, R271 to R273). -/

namespace Sys2Proof.Machine

/-! ## Barriers -/

def Workgroup.bar (w : Workgroup) (n : Nat) : Barrier := ((w.barriers.find? fun e => e.1 == n).map (·.2)).getD {}

def Workgroup.setBar (w : Workgroup) (n : Nat) (b : Barrier) : Workgroup :=
  { w with barriers := if b = {} then w.barriers.filter fun e => e.1 != n
                       else sortBy (·.1) ((n, b) :: w.barriers.filter fun e => e.1 != n) }

/-- *complete* (R254): raised after any event when the phase's arrivals and bytes are met. -/
def Barrier.test (b : Barrier) : Barrier :=
  if b.isOpen && b.arra == b.expa && decide (b.expb ≤ b.arrb) then
    { b with lstat := b.pstat, par := !b.par, arra := 0, arrb := 0, pstat := 0, expb := b.expb0, lastExpb := b.expb,
             lastCpy := b.cpy, cpy := false }
  else b

/-- *arrive* by a copy (R254). -/
def Barrier.copyArrive (b : Barrier) (flags : BitVec 8) : Barrier :=
  if !b.isOpen then b
  else if b.arra < b.expa then ({ b with arra := b.arra + 1, pstat := b.pstat ||| flags, cpy := true } : Barrier).test
  -- HELD has 8 bits (R253, log 48)
  else { b with held := if b.held.length + 1 = 256 then [] else b.held ++ [flags] }

/-- *bytes* (R254, R263). The counters keep the widths of R253 (log 48). -/
def Barrier.bytes (b : Barrier) (n : Nat) : Barrier :=
  if b.isOpen then ({ b with arrb := (b.arrb + n) % 2 ^ 26 } : Barrier).test else b

/-- What a wait on a barrier receives: bit 32 says that an ACQ is due (R204, R272); none: it goes on waiting. -/
def Barrier.serves (b : Barrier) (par : Bool) (bytes : Option Nat) : Option DWord :=
  let v (x : Nat) (acq : Bool) : DWord := BitVec.ofNat 64 (x + if acq then 2 ^ 32 else 0)
  match bytes with
  | none => if b.par != par then some (v b.lstat.toNat b.lastCpy) else none
  | some k => if b.par != par then some (v b.lastExpb b.lastCpy) else if b.arrb ≥ k then some (v b.arrb b.cpy) else none

/-- An event at a barrier of a workgroup; the waiters are tested after it (R272). -/
def State.barEvent (s : State) (cx kernel l n : Nat) (f : Barrier → Barrier) : State :=
  match s.anyWg? cx kernel l with
  | none => s
  | some w =>
    let b := f (w.bar n)
    let s1 := s.mapWg cx kernel l fun w => w.setBar n b
    let wake (p : Split) : Split :=
      match p.wait with
      | .barWait m par bytes =>
        if m = n then (match b.serves par bytes with
          | some v => { p with wait := .got v }
          | none => p) else p
      | _ => p
    { s1 with groups := upd (fun g => g.cx == cx && g.kernel == kernel && g.wg == l) (fun g =>
        { g with splits := g.splits.map wake }) s1.groups }

/-- Some split of the workgroup waits on the barrier. -/
def State.barWaited (s : State) (g : Group) (n : Nat) : Bool :=
  (s.groups.filter fun h => h.cx == g.cx && h.kernel == g.kernel && h.wg == g.wg).any fun h => h.splits.any fun p =>
    match p.wait with
    | .barWait m _ _ => m == n
    | _ => false

/-- The barrier of the issuing group's workgroup. -/
def State.barOf (s : State) (g : Group) (n : Nat) : Barrier := ((s.wgOf g).map fun w => w.bar n).getD {}

def State.barEventOf (s : State) (g : Group) (n : Nat) (f : Barrier → Barrier) : State := s.barEvent g.cx g.kernel g.wg n f

/-- BINIT (R254, R272). -/
def execBinit (n : BitVec 4) (a b : BitVec 6) (s : State) : Out :=
  let i : Instr := .binit n a b
  issue s i (useS [a.toNat, b.toNat]) fun g p =>
    let arr := (g.getS a.toNat).toNat
    let byt := (g.getS b.toNat).toNat
    let old := s.barOf g n.toNat
    let busy := old.isOpen && (old.arra != 0 || old.arrb != 0 || old.out != 0 || !old.held.isEmpty || s.barWaited g n.toNat)
    if arr < 1 ∨ arr > 64 ∨ byt > 2 ^ 24 ∨ busy then s.trap g p i cBARMISUSE
    else
      (s.barEventOf g n.toNat fun b =>
        ({ isOpen := true, expa := arr, expb0 := byt, expb := byt, out := b.out } : Barrier)).done g p i

/-- BINV (R254, R272). -/
def execBinv (n : BitVec 4) (s : State) : Out :=
  issue s (.binv n) {} fun g p =>
    let b := s.barOf g n.toNat
    if !b.isOpen then s.done g p (.binv n)
    else if b.out ≠ 0 ∨ s.barWaited g n.toNat then s.trap g p (.binv n) cBARMISUSE
    else (s.barEventOf g n.toNat fun _ => {}).done g p (.binv n)

/-- BEXP (R254, R272). -/
def execBexp (n : BitVec 4) (a : BitVec 6) (s : State) : Out :=
  issue s (.bexp n a) (useS [a.toNat]) fun g p =>
    let b := s.barOf g n.toNat
    let x := (g.getS a.toNat).toNat
    if !b.isOpen ∨ b.expb + x > 2 ^ 24 then s.trap g p (.bexp n a) cBARMISUSE
    else (s.barEventOf g n.toNat fun b => ({ b with expb := b.expb + x } : Barrier).test).done g p (.bexp n a)

/-- Every earlier scratchpad load of the split has read its data (R272). -/
def State.scratchRead (s : State) (g : Group) (p : Split) : Bool :=
  !(s.ops.any fun o => o.grp == g.ref && o.split == p.id && (match o.kind with
    | .lds .. => true
    | _ => false))

/-- *arrive* by a group; none: BARMISUSE (R254). -/
def State.groupArrive (s : State) (g : Group) (n : Nat) : Option State :=
  let b := s.barOf g n
  if !b.isOpen ∨ b.arra ≥ b.expa then none
  else some (s.barEventOf g n fun b => ({ b with arra := b.arra + 1 } : Barrier).test)

/-- BARR: an arrival and a commit (R272). -/
def execBarr (n : BitVec 4) (s : State) : Out :=
  issue s (.barr n) {} fun g p =>
    gated s g p
      (if !s.scratchRead g p then s.stall g p .poll
       else
         match s.groupArrive g n.toNat with
         | none => s.trap g p (.barr n) cBARMISUSE
         | some s1 => (s1.commit g p).done g p (.barr n))

/-- WAITEND and the end of BWAIT.bytes: S[d] takes the word, with an ACQ at chip scope when one is due (R272). -/
def waitEnd (s : State) (g : Group) (d : Nat) (v : DWord) : State :=
  let s1 := s.updGroup g.ref fun h => h.setS d (v.extractLsb' 0 32)
  if v.getLsbD 32 then s1.acquire g.ref.core .chip else s1

/-- BWAIT (R272). -/
def execBwait (d : BitVec 6) (n : BitVec 4) (q : BitVec 6) (s : State) : Out :=
  let i : Instr := .bwait d n q
  issue s i (useS [d.toNat, q.toNat]) fun g p =>
    match p.wait with
    | .got v => (waitEnd s g d.toNat v).done g p i
    | .barWait .. => s
    | _ =>
      let b := s.barOf g n.toNat
      let par := (g.getS q.toNat).getLsbD 0
      if !b.isOpen then s.trap g p i cBARMISUSE
      else
        match b.serves par none with
        | some v => (waitEnd s g d.toNat v).done g p i
        | none => s.stall g p (.barWait n.toNat par none)

/-- BWAIT.bytes (R272). -/
def execBwaitBytes (d : BitVec 6) (n : BitVec 4) (k : BitVec 6) (s : State) : Out :=
  let i : Instr := .bwaitBytes d n k
  issue s i (useS [d.toNat, k.toNat]) fun g p =>
    match p.wait with
    | .got v => (waitEnd s g d.toNat v).done g p i
    | .barWait .. => s
    | _ =>
      let b := s.barOf g n.toNat
      if !b.isOpen then s.trap g p i cBARMISUSE
      else
        let need := (g.getS k.toNat).toNat
        match b.serves b.par (some need) with
        | some v => (waitEnd s g d.toNat v).done g p i
        | none => s.stall g p (.barWait n.toNat b.par (some need))

/-- BARRW: arrives once, then waits for the phase it arrived in; it ends its region when the wait is over (R146, R272). -/
def execBarrw (d : BitVec 6) (n : BitVec 4) (s : State) : Out :=
  let i : Instr := .barrw d n
  issue s i (useS [d.toNat]) fun g p =>
    let fin (s : State) (v : DWord) : State :=
      (((waitEnd s g d.toNat v).commit g p).updSplit g.ref p.id fun q => { q with arrived := [] }).done g p i
    let waits (s : State) (par : Bool) : State :=
      match (s.barOf g n.toNat).serves par none with
      | some v => fin s v
      | none => (s.updSplit g.ref p.id fun q => { q with arrived := (n.toNat, par) :: q.arrived.filter fun x => x.1 != n.toNat }).stall g p (.barWait n.toNat par none)
    match p.wait with
    | .got v => fin s v
    | .barWait .. => s
    | _ =>
      match p.arrived.find? fun x => x.1 == n.toNat with
      | some x => waits s x.2
      | none => first i g p waits
where
  /-- The arrival itself. -/
  first (i : Instr) (g : Group) (p : Split) (waits : State → Bool → State) : State :=
    gated s g p
      (if !s.scratchRead g p then s.stall g p .poll
       else
         let par := (s.barOf g n.toNat).par
         match s.groupArrive g n.toNat with
         | none => s.trap g p i cBARMISUSE
         | some s1 => waits s1 par)

/-! ## Tags -/

def Workgroup.tag? (w : Workgroup) (t : Nat) : Option TagEnt := (w.tags.find? fun e => e.1 == t).map (·.2)

/-- The tags of a mask, ascending. -/
def tagsOf (m : DWord) : List Nat := filterRange 64 fun t => m.getLsbD t

/-- A tag of the group's workgroup is outstanding (R256). -/
def State.tagOut (s : State) (g : Group) (t : Nat) : Bool := ((s.wgOf g).bind fun w => w.tag? t).isSome

/-- $TAGS AND m, as tags. -/
def State.tagsReady (s : State) (g : Group) (m : DWord) : List Nat :=
  match s.wgOf g with
  | none => []
  | some w => (tagsOf m).filter fun t => ((w.tag? t).map fun e => e.st == .ready).getD false

/-- A tag's wait ends with an ACQ at chip scope (R204). -/
def tagWait (s : State) (i : Instr) (a : BitVec 5) (every : Bool) : Out :=
  issue s i (useS (pairRegs a.toNat)) fun g p =>
    let m := g.getSPair a.toNat
    let ts := tagsOf m
    let out := ts.filter fun t => s.tagOut g t
    if ts.isEmpty then s.done g p i
    else if p.wait == .none && (if every then out.length != ts.length else out.isEmpty) then s.trap g p i cBARMISUSE
    else
      let r := s.tagsReady g m
      if (if every then r.length == ts.length else !r.isEmpty) then (s.acquire g.ref.core .chip).done g p i
      else s.stall g p .poll

/-- TWANY (R273). -/
def execTwany (a : BitVec 5) (s : State) : Out := tagWait s (.twany a) a false

/-- TWALL (R273). -/
def execTwall (a : BitVec 5) (s : State) : Out := tagWait s (.twall a) a true

/-- TCLR: READY tags become IDLE (R256, R273). -/
def execTclr (a : BitVec 5) (s : State) : Out :=
  issue s (.tclr a) (useS (pairRegs a.toNat)) fun g p =>
    let m := g.getSPair a.toNat
    -- a tag that is *done* in this cycle ends READY (R256)
    let now (t : Nat) : Bool := s.taken.any fun e => e.1 == .tag g.cx g.kernel g.wg t
    (s.updWgOf g fun w => { w with tags := w.tags.filter fun e => !(m.getLsbD e.1 && e.2.st == .ready && !now e.1) }).done g p (.tclr a)

/-- TFFR's result when some tag of its mask is READY (R273). -/
def tffrResult (s : State) (g : Group) (d : Nat) (m : DWord) : Option State :=
  match s.tagsReady g m with
  | [] => none
  | t :: _ =>
    let st := (((s.wgOf g).bind fun w => w.tag? t).map (·.status)).getD 0
    some ((s.acquire g.ref.core .chip).updGroup g.ref fun h => (h.setS d (BitVec.ofNat 32 t)).setS (d + 1) st)

/-- TFFR: long-latency; it waits for the first READY tag (R273). -/
def execTffr (fs : Bool) (d a : BitVec 5) (s : State) : Out :=
  let i : Instr := .tffr fs d a
  issueLong s i fs (useS (pairRegs d.toNat ++ pairRegs a.toNat)) fun g p f =>
    let m := g.getSPair a.toNat
    let r := 2 * d.toNat
    if (tagsOf m).all fun t => !s.tagOut g t then
      (s.updGroup g.ref fun h => (h.setS r 0xFFFFFFFF).setS (r + 1) 0).done g p i
    else
      match tffrResult s g r m with
      | some s1 => s1.done g p i
      | none =>
        if !s.flagRoom g f 1 then s.stall g p .poll
        else ((s.attach g p i f { sw := [r, r + 1] } (.tffr r m)).2).done g p i

/-- *done* of a tag (R256): it is READY with its status, and the TFFRs that wait for it complete (R273). -/
def State.tagDone (s : State) (cx kernel l t : Nat) (status : Word) : State :=
  match s.anyWg? cx kernel l with
  | none => s
  | some w =>
    if (w.tag? t).isNone then s
    else
      let s0 : State := { s with taken := (.tag cx kernel l t, 0) :: s.taken }
      let s1 := s0.mapWg cx kernel l fun w =>
        { w with tags := sortBy (·.1) ((t, { st := .ready, status := status }) :: w.tags.filter fun e => e.1 != t) }
      let waits := s1.ops.filter fun o => match o.kind with
        | .tffr _ m => m.getLsbD t && (s1.groups.any fun g => g.ref == o.grp && g.cx == cx && g.kernel == kernel && g.wg == l)
        | _ => false
      waits.foldl (fun s o =>
        match o.kind, s.group? o.grp with
        | .tffr d m, some g => (match tffrResult s g d m with
          | some s2 => s2.finishOp o.id
          | none => s)
        | _, _ => s) s1

/-- *issue* on a tag (R256). -/
def State.tagIssue (s : State) (g : Group) (t : Nat) : State :=
  s.updWgOf g fun w =>
    { w with tags := sortBy (·.1) ((t, { st := .busy, status := 0 }) :: w.tags.filter fun e => e.1 != t) }

/-- The oldest held copy arrival of a barrier is taken in the new phase, one in a cycle (R255). -/
def State.takeHeld (s : State) (w : Workgroup) (bar : Nat) : State :=
  match (w.bar bar).held with
  | [] => s
  | f :: rest =>
    let o : Obj := .held w.cx w.kernel w.l bar
    if (w.bar bar).arra < (w.bar bar).expa && !s.taken.any fun e => e.1 == o then
      { s.barEvent w.cx w.kernel w.l bar fun b => ({ b with held := rest } : Barrier).copyArrive f with
          taken := (o, 0) :: (.bars w.cx w.kernel w.l, 1) :: s.taken }
    else s

/-- HELD_ARRIVAL (R255). -/
def execHeldArrival (wg bar : Nat) (s : State) : Out :=
  .next (match s.wgs[wg]? with
    | none => s
    | some w => s.takeHeld w bar)

/-- The barriers of a workgroup that hold arrivals. -/
def Workgroup.holding (w : Workgroup) : List Nat := (w.barriers.filter fun e => !e.2.held.isEmpty).map (·.1)

/-- In every cycle each barrier takes one of its held arrivals (R255); dt cycles, of which at most as many matter as arrivals are held. -/
def State.takeAllHeld (s : State) : Nat → Nat → State
  | 0, _ => s
  | _, 0 => s
  | fuel + 1, dt + 1 =>
    let s0 : State := { s with taken := [] }
    let ws := s0.wgs.filter fun w => !w.holding.isEmpty
    if ws.isEmpty then s0
    else
      let s1 := ws.foldl (fun s w => w.holding.foldl (fun s b => match s.anyWg? w.cx w.kernel w.l with
        | none => s
        | some w1 => s.takeHeld w1 b) s) s0
      s1.takeAllHeld fuel dt

end Sys2Proof.Machine
end

