-- ==== Sys2Proof/Machine/Memory.lean ====
section
/-! DEFINITION. Loads, stores, byte forms, SOW, scratchpad accesses, atomics and WATCH as they issue (spec/11_line.md R216 to R227). -/

namespace Sys2Proof.Machine

/-! ## Addresses and values -/

/-- An address of a pair plus a scaled offset, modulo 2^64 (R217). -/
def eaPair (base : DWord) (off : BitVec 7) (size : Nat) : Nat := (((base.toNat : Int) + off.toInt * size) % 2 ^ 64).toNat

/-- The words of a size. -/
def sizeWords : Size → Nat
  | .b32 => 1 | .b64 => 2 | .b128 => 4

/-- n registers from V_d of a lane as one number, the first register lowest (R25). -/
def vNat (g : Group) (d n l : Nat) : Nat := (List.range n).foldr (fun j a => (g.getV (d + j) l).toNat + 2 ^ 32 * a) 0

/-- n S registers from S_d as one number. -/
def sNat (g : Group) (d n : Nat) : Nat := (List.range n).foldr (fun j a => (g.getS (d + j)).toNat + 2 ^ 32 * a) 0

/-- A key of the multicast aperture (R311). -/
def LineKey.mcast (k : LineKey) : Bool := k.pod && decide (128 * k.n ≥ Config.mcastBase)

/-! ## Loads of global memory -/

/-- A load of the lanes of eas (R219): d is the first register, physical V or S. -/
def loadOp (s : State) (g : Group) (p : Split) (i : Instr) (f : Nat) (uni : Bool) (d : Nat) (nar : Narrow) (n : Nat)
    (eas : List (Nat × Nat)) : State :=
  if eas.isEmpty then s.done g p i
  else if !s.flagRoom g f 1 then s.stall g p .poll
  else
    let size := narrowBytes nar
    let (s1, l, e) := s.checkLanes g .read size (fun _ => true) eas
    s1.laneTrap g p i e uni
      (let pend : PendSet := if uni then { sw := runRegs d n } else { vw := runRegs d n }
       ((s1.attachLoad g p i f uni d nar size pend p.exec l).2).done g p i)

/-- LD (R219). -/
def execLd (fs : Bool) (sz : Size) (d : BitVec 7) (a : BitVec 6) (off : BitVec 7) (s : State) : Out :=
  let i : Instr := .ld fs sz d a off
  issueLong s i fs (useV (runRegs d.toNat (sizeWords sz) ++ pairRegs a.toNat)) fun g p f =>
    loadOp s g p i f false (g.wb + d.toNat) (.word (sizeBytes sz)) (sizeWords sz)
      (activeEas p fun l => eaPair (vPairVal g a.toNat l) off (sizeBytes sz))

/-- SLD: once per issue (R219). -/
def execSld (fs : Bool) (sz : Size) (d : BitVec 6) (a : BitVec 5) (off : BitVec 7) (s : State) : Out :=
  let i : Instr := .sld fs sz d a off
  issueLong s i fs (useS (runRegs d.toNat (sizeWords sz) ++ pairRegs a.toNat)) fun g p f =>
    loadOp s g p i f true d.toNat (.word (sizeBytes sz)) (sizeWords sz) [(32, eaPair (g.getSPair a.toNat) off (sizeBytes sz))]

/-- LDB of global memory (R220). -/
def execLdb (fs : Bool) (bf : ByteForm) (d : BitVec 7) (a : BitVec 6) (off : BitVec 6) (s : State) : Out :=
  let i : Instr := .ldb fs bf d a off
  issueLong s i fs (useV (d.toNat :: pairRegs a.toNat)) fun g p f =>
    loadOp s g p i f false (g.wb + d.toNat) (.byteForm bf) 1
      (activeEas p fun l => ((vPairVal g a.toNat l).toNat + off.toNat) % 2 ^ 64)

/-! ## Stores to global memory -/

/-- What the check of one lane of a store found. -/
structure StoreLane where
  lane : Nat
  va : Nat
  ok : List LaneEa
  bad : LaneFail
  deriving Repr, Inhabited

/-- A failure that only a walk could find, which no instruction waits for (R156). -/
def StoreLane.late (e : StoreLane) : Bool :=
  (e.bad.cause &&& ~~~(cPAGE ||| cPROT ||| cPOISON)) == 0 && e.bad.missed != 0 && regionOf e.va == .localTable

/-- Checks the lanes of a store one by one. -/
def checkStore (s : State) (g : Group) (size : Nat) (ok : LineKey → Bool) (eas : List (Nat × Nat)) : State × List StoreLane :=
  eas.foldl (fun (acc : State × List StoreLane) e =>
    let (s1, l, f) := acc.1.checkEas g .write size ok [e]
    (s1, acc.2 ++ [{ lane := e.1, va := e.2, ok := l, bad := f }])) (s, [])

/-- The failures of several lanes as one (R150, R218). -/
def joinFails (l : List StoreLane) : LaneFail :=
  l.foldl (fun (f : LaneFail) e => f.add e.lane e.bad.cause e.va e.bad.detail) {}

/-- Stores bytes of lanes in ascending order; none: it stalls (R190). -/
def storeBytes (s : State) (site : Site) (sow : Bool) (push : BitVec 32) (size : Nat) (val : Nat → Nat) (l : List LaneEa) :
    Option State :=
  l.foldlM (fun (s : State) e =>
    s.storeLine site e.va e.key (lineAt (e.va % 128) (leBytes size (val e.lane))) (maskOf (e.va % 128) size) push sow) s

/-- A store of the lanes of eas (R156, R157, R218, R219); k goes on from the state after it. -/
def storeOp (s : State) (g : Group) (p : Split) (i : Instr) (sow : Bool) (push : BitVec 32) (size : Nat) (ok : LineKey → Bool)
    (eas : List (Nat × Nat)) (uni : Bool) (val : Nat → Nat) (k : State → State) : State :=
  let (s1, ls) := checkStore s g size ok eas
  let bad := ls.filter fun e => e.bad.cause != 0
  let f := joinFails bad
  let precise (s : State) : State := s.trapAt g p i f.cause (if uni then p.exec else f.lanes) f.addr f.detail
  -- a store that stalls is tried again as a whole
  let go (s1 : State) (late : List StoreLane) : State :=
    if ls.any fun e => e.bad.waits then s.stall g p .poll
    else
      match storeBytes (s1.sampleLanes g (ls.flatMap (·.ok))) (siteOf g p) sow push size val (ls.flatMap (·.ok)) with
      | none => s.stall g p .poll
      | some s2 =>
        let ws := late.map fun (e : StoreLane) =>
          ({ site := siteOf g p, insn := word0 i, va := e.va, lanes := if uni then p.exec else maskOfLanes [e.lane],
             cause := e.bad.cause, detail := BitVec.ofNat 16 e.bad.detail,
             commits := p.commits + (isCommit (word0 i)).toNat,
             clause := p.clause } : FailedWalk)
        k { s2 with walks := s2.walks ++ ws }
  if bad.isEmpty then go s1 []
  else if bad.all StoreLane.late then
    match s1.drawBool with
    | (true, s2) => precise s2
    | (false, s2) => go s2 bad
  else precise s1

/-- ST (R219). -/
def execSt (sz : Size) (d : BitVec 7) (a : BitVec 6) (off : BitVec 7) (s : State) : Out :=
  let i : Instr := .st sz d a off
  issue s i (useV (runRegs d.toNat (sizeWords sz) ++ pairRegs a.toNat)) fun g p =>
    storeOp s g p i false 0 (sizeBytes sz) (fun _ => true) (activeEas p fun l => eaPair (vPairVal g a.toNat l) off (sizeBytes sz))
      false (vNat g d.toNat (sizeWords sz)) fun s1 => s1.done g p i

/-- SST: once per issue (R219). -/
def execSst (sz : Size) (d : BitVec 6) (a : BitVec 5) (off : BitVec 7) (s : State) : Out :=
  let i : Instr := .sst sz d a off
  issue s i (useS (runRegs d.toNat (sizeWords sz) ++ pairRegs a.toNat)) fun g p =>
    storeOp s g p i false 0 (sizeBytes sz) (fun _ => true) [(32, eaPair (g.getSPair a.toNat) off (sizeBytes sz))]
      true (fun _ => sNat g d.toNat (sizeWords sz)) fun s1 => s1.done g p i

/-- STB of global memory (R220). -/
def execStb (half : Bool) (d : BitVec 7) (a : BitVec 6) (off : BitVec 6) (s : State) : Out :=
  let i : Instr := .stb half d a off
  issue s i (useV (d.toNat :: pairRegs a.toNat)) fun g p =>
    storeOp s g p i false 0 (if half then 2 else 1) (fun _ => true)
      (activeEas p fun l => ((vPairVal g a.toNat l).toNat + off.toNat) % 2 ^ 64) false (fun l => (g.getV d.toNat l).toNat)
      fun s1 => s1.done g p i

/-- SOW: a store whose line is pushed at its publication, and a commit (R203, R221). -/
def execSow (sz : Size) (d : BitVec 7) (a : BitVec 6) (m : BitVec 6) (s : State) : Out :=
  let i : Instr := .sow sz d a m
  issue s i { v := runRegs d.toNat (sizeWords sz) ++ pairRegs a.toNat, s := [m.toNat] } fun g p =>
    gated s g p
      (let push := g.getS m.toNat &&& ~~~(BitVec.ofNat 32 (2 ^ (g.ref.core % 32)))
       storeOp s g p i (push != 0) push (sizeBytes sz) (fun k => !k.remote)
         (activeEas p fun l => (vPairVal g a.toNat l).toNat) false (vNat g d.toNat (sizeWords sz))
         fun s1 => (s1.commit g p).done g p i)

/-! ## The scratchpad -/

/-- The lanes of one pass of an access of a size (R216). -/
def passLanes (size : Nat) : List (List Nat) :=
  if size = 16 then [runRegs 0 8, runRegs 8 8, runRegs 16 8, runRegs 24 8]
  else if size = 8 then [runRegs 0 16, runRegs 16 16]
  else [runRegs 0 32]

/-- The extra cycles of an access: lanes with target rank and offset; each: lanes that touch one word are counted each (R216). -/
def bankExtra (size : Nat) (each : Bool) (l : List (Nat × Nat × Nat)) : Nat :=
  ((passLanes size).map fun ls =>
    let ws := (l.filter fun a => ls.contains a.1).flatMap fun a =>
      (List.range ((size + 3) / 4)).map fun j => (a.2.1, a.2.2 / 4 + j)
    let ds := if each then ws else ws.dedup
    let most := ds.foldl (fun m w => max m (ds.filter fun x => x.1 == w.1 && x.2 % 32 == w.2 % 32).length) 0
    most - 1).foldl (· + ·) 0

/-- $BKCNT gains extra cycles, saturating (R26, R216). -/
def Group.addBank (g : Group) (n : Nat) : Group := { g with bkcnt := BitVec.ofNat 32 (min (2 ^ 32 - 1) (g.bkcnt.toNat + n)) }

/-- Checks of scratchpad accesses (R218): lanes with rank word bits, rank, offset. rank none: the local scratchpad. -/
def scratchFail (s : State) (g : Group) (size : Nat) (l : List (Nat × Nat × Option (Nat × Bool) × Nat)) : LaneFail :=
  match s.wgOf g with
  | none => l.foldl (fun (f : LaneFail) e => f.add e.1 cPROT e.2.1 0) {}
  | some w =>
    l.foldl (fun (f : LaneFail) e =>
      let (lane, addr, rank, off) := e
      let prot := decide (off + size > w.scratchBytes) || (match rank with
          | none => false
          | some (r, dirty) => dirty || decide (r ≥ w.launchSize))
      let c : Cause := (if off % size ≠ 0 then cALIGN else 0) ||| (if prot then cPROT else 0)
      if c = 0 then f else f.add lane c addr 0) {}

/-- Offsets of the local form: V[A][i] + SEXT(OFF) × size, modulo 2^32 (R217). -/
def localOff (g : Group) (a : Nat) (off : BitVec 7) (size l : Nat) : Nat :=
  ((((g.getV a l).toNat : Int) + off.toInt * size) % 2 ^ 32).toNat

/-- The lanes of a local form as scratchFail takes them. -/
def localLanes (p : Split) (ea : Nat → Nat) : List (Nat × Nat × Option (Nat × Bool) × Nat) :=
  (lanesOf p.exec).map fun l => (l, ea l, none, ea l)

/-- The lanes of a cluster form: rank in [31:27], [26:18] zero, offset in [17:0] (R217). An offset below 0 exceeds every SCRATCH. The address
that ADDR gives of a failing lane is the slot's value plus the offset, modulo 2^32 (DEDUCED, log 46). -/
def clusterLanes (g : Group) (p : Split) (a : Nat) (off : BitVec 7) (size : Nat) : List (Nat × Nat × Option (Nat × Bool) × Nat) :=
  (lanesOf p.exec).map fun l =>
    let w := g.getV a l
    let o := ((((w.extractLsb' 0 18).toNat : Int) + off.toInt * size) % 2 ^ 32).toNat
    (l, (((w.toNat : Int) + off.toInt * size) % 2 ^ 32).toNat, some ((w.extractLsb' 27 5).toNat, w.extractLsb' 18 9 != 0), o)

/-- Lane, workgroup linear index, offset. -/
def scratchAccs (s : State) (g : Group) (l : List (Nat × Nat × Option (Nat × Bool) × Nat)) : List (Nat × Nat × Nat) :=
  let base := ((s.wgOf g).map (·.launchBase)).getD g.wg
  l.map fun e => (e.1, (match e.2.2.1 with
    | none => g.wg
    | some (r, _) => base + r), e.2.2.2)

/-- A scratchpad load (R219, R220). -/
def scratchLoad (s : State) (g : Group) (p : Split) (i : Instr) (f d : Nat) (nar : Narrow) (n : Nat)
    (l : List (Nat × Nat × Option (Nat × Bool) × Nat)) : State :=
  if l.isEmpty then s.done g p i
  else if !s.flagRoom g f 1 then s.stall g p .poll
  else
    let e := scratchFail s g (narrowBytes nar) l
    if e.cause ≠ 0 then s.trapAt g p i e.cause e.lanes e.addr e.detail
    else
      let accs := scratchAccs s g l
      let s1 := s.updGroup g.ref fun h => h.addBank (bankExtra (narrowBytes nar) false accs)
      ((s1.attach g p i f { vw := runRegs d n } (.lds d nar accs)).2).done g p i

/-- LDS (R219). -/
def execLds (fs : Bool) (sz : Size) (d a off : BitVec 7) (s : State) : Out :=
  let i : Instr := .lds fs sz d a off
  issueLong s i fs (useV (a.toNat :: runRegs d.toNat (sizeWords sz))) fun g p f =>
    scratchLoad s g p i f (g.wb + d.toNat) (.word (sizeBytes sz)) (sizeWords sz)
      (localLanes p (localOff g a.toNat off (sizeBytes sz)))

/-- LDSR (R219). -/
def execLdsr (fs : Bool) (sz : Size) (d a off : BitVec 7) (s : State) : Out :=
  let i : Instr := .ldsr fs sz d a off
  issueLong s i fs (useV (a.toNat :: runRegs d.toNat (sizeWords sz))) fun g p f =>
    scratchLoad s g p i f (g.wb + d.toNat) (.word (sizeBytes sz)) (sizeWords sz) (clusterLanes g p a.toNat off (sizeBytes sz))

/-- LDB of the scratchpad (R220). -/
def execLdbScratch (fs : Bool) (bf : ByteForm) (d a : BitVec 7) (off : BitVec 6) (s : State) : Out :=
  let i : Instr := .ldbScratch fs bf d a off
  issueLong s i fs (useV [d.toNat, a.toNat]) fun g p f =>
    scratchLoad s g p i f (g.wb + d.toNat) (.byteForm bf) 1
      (localLanes p fun l => ((g.getV a.toNat l).toNat + off.toNat) % 2 ^ 32)

/-- An STSR of this core to a workgroup is not acknowledged: later placements by the core wait, to keep issue order (R205). -/
def State.stsrAhead (s : State) (g : Group) (l : Nat) : Bool :=
  s.stsrs.any fun m => m.core == g.ref.core && m.cx == g.cx && m.kernel == g.kernel && m.wg == l

/-- STS and STB of the scratchpad: placed at issue, lanes in ascending order (R205, R219). -/
def scratchStore (s : State) (g : Group) (p : Split) (i : Instr) (size : Nat) (val : Nat → Nat)
    (l : List (Nat × Nat × Option (Nat × Bool) × Nat)) : State :=
  let e := scratchFail s g size l
  if e.cause ≠ 0 then s.trapAt g p i e.cause e.lanes e.addr e.detail
  else if s.stsrAhead g g.wg then s.stall g p .poll
  else
    let s1 := s.updGroup g.ref fun h => h.addBank (bankExtra size false (scratchAccs s g l))
    (s1.updWgOf g fun w => l.foldl (fun w a => w.putBytes a.2.2.2 (leBytes size (val a.1))) w).done g p i

/-- STS (R219). -/
def execSts (sz : Size) (d a off : BitVec 7) (s : State) : Out :=
  let i : Instr := .sts sz d a off
  issue s i (useV (a.toNat :: runRegs d.toNat (sizeWords sz))) fun g p =>
    scratchStore s g p i (sizeBytes sz) (vNat g d.toNat (sizeWords sz)) (localLanes p (localOff g a.toNat off (sizeBytes sz)))

/-- STB of the scratchpad (R220). -/
def execStbScratch (half : Bool) (d a : BitVec 7) (off : BitVec 6) (s : State) : Out :=
  let i : Instr := .stbScratch half d a off
  issue s i (useV [d.toNat, a.toNat]) fun g p =>
    scratchStore s g p i (if half then 2 else 1) (fun l => (g.getV d.toNat l).toNat)
      (localLanes p fun l => ((g.getV a.toNat l).toNat + off.toNat) % 2 ^ 32)

/-- STSR: on its way until the target acknowledges it (R205, R219). -/
def execStsr (sz : Size) (d a off : BitVec 7) (s : State) : Out :=
  let i : Instr := .stsr sz d a off
  issue s i (useV (a.toNat :: runRegs d.toNat (sizeWords sz))) fun g p =>
    let size := sizeBytes sz
    let l := clusterLanes g p a.toNat off size
    let e := scratchFail s g size l
    if e.cause ≠ 0 then s.trapAt g p i e.cause e.lanes e.addr e.detail
    else
      let accs := scratchAccs s g l
      let s1 := s.updGroup g.ref fun h => h.addBank (bankExtra size false accs)
      let s2 := accs.foldl (fun (s : State) a =>
        { s with nextId := s.nextId + 1,
                 stsrs := s.stsrs ++ [{ id := s.nextId, core := g.ref.core, cx := g.cx, kernel := g.kernel, wg := a.2.1, off := a.2.2,
                                        bytes := leBytes size (vNat g d.toNat (sizeWords sz) a.1) }] }) s1
      s2.done g p i

/-! ## Atomics -/

/-- The new value of an atomic (R223): n bits wide, cmp is the compare value of the two cas forms. -/
def aopNew (op : Option Aop) (n old v cmp : Nat) : Nat :=
  let m := 2 ^ n
  let sx (x : Nat) : Int := sextNat n x
  let f (g : Word → Word → FRes) : Nat := (g (BitVec.ofNat 32 old) (BitVec.ofNat 32 v)).1.toNat
  match op with
  | none | some .cas => if old = cmp then v else old
  | some .add => (old + v) % m
  | some .smin => if sx old ≤ sx v then old else v
  | some .smax => if sx v ≤ sx old then old else v
  | some .umin => min old v
  | some .umax => max old v
  | some .and => (BitVec.ofNat 64 old &&& BitVec.ofNat 64 v).toNat
  | some .or => (BitVec.ofNat 64 old ||| BitVec.ofNat 64 v).toNat
  | some .xor => (BitVec.ofNat 64 old ^^^ BitVec.ofNat 64 v).toNat
  | some .swap => v
  | some .incw => if old ≥ v then 0 else old + 1
  | some .decw => if old = 0 ∨ old > v then v else old - 1
  | some .fadd => (addF fp32 .rne (dec32 (BitVec.ofNat 32 old)) (dec32 (BitVec.ofNat 32 v))).1
  | some .fmin => f (minmaxF false)
  | some .fmax => f (minmaxF true)

/-- An offset of the translation control page that an ATOM may name: a swap of 64 bits at level 1 (R319). -/
def ctlOff (g : Group) (op : Option Aop) (w64 : Bool) (va : Nat) : Option Nat :=
  let o := va - Config.controlPage
  if g.priv && w64 && op == some .swap && decide (o < 0x20) then some o else none

/-- Checks of the lanes of an atomic in ascending order (R218, R319). -/
def checkAtom (s : State) (g : Group) (op : Option Aop) (w64 : Bool) (eas : List (Nat × Nat)) :
    State × List (LaneEa × Option Nat) × LaneFail :=
  let size := if w64 then 8 else 4
  eas.foldl (fun (acc : State × List (LaneEa × Option Nat) × LaneFail) e =>
    if regionOf e.2 == .control && e.2 % size = 0 then
      match ctlOff g op w64 e.2 with
      | some o => (acc.1, acc.2.1 ++ [({ lane := e.1, va := e.2, key := { (default : LineKey) with cx := g.cx } }, some o)], acc.2.2)
      | none => (acc.1, acc.2.1, acc.2.2.add e.1 cPROT e.2 0)
    else
      let (s1, l, f) := acc.1.checkEas g .write size (fun k => !k.mcast) [e]
      (s1, acc.2.1 ++ l.map fun x => (x, none),
        if f.cause ≠ 0 then acc.2.2.add e.1 f.cause e.2 f.detail else { acc.2.2 with waits := acc.2.2.waits || f.waits }))
    (s, [], {})

def AOrd.rel : AOrd → Bool
  | .release | .acqrel => true
  | .relaxed | .acquire => false

def AOrd.acqs : AOrd → Bool
  | .acquire | .acqrel => true
  | .relaxed | .release => false

/-- ATOM and ATOMC behind their operand checks (R224): a commit. -/
def atomOp (s : State) (g : Group) (p : Split) (i : Instr) (f : Nat) (op : Option Aop) (w64 noret : Bool) (sc : Scope) (ord : AOrd)
    (d a v : Nat) : State :=
  let n := if w64 then 2 else 1
  let fin (s : State) : State := (s.commit g p).done g p i
  gated s g p
    (if !s.flagRoom g f 1 then s.stall g p .poll
     else
       let (s1, l, e) := checkAtom s g op w64 (activeEas p fun k => (vPairVal g a k).toNat)
       s1.laneTrap g p i e false
         (let go : State :=
            if l.isEmpty then fin s1
            else
              let lanes := l.map fun (x : LaneEa × Option Nat) =>
                ({ lane := x.1.lane, va := x.1.va, key := x.1.key, off := x.1.va % 128, ctl := x.2,
                   v := BitVec.ofNat 64 (vNat g v n x.1.lane), cmp := BitVec.ofNat 64 (vNat g d n x.1.lane) } : AtomLane)
              let pend : PendSet := if noret then {} else { vw := runRegs (g.wb + d) n }
              fin ((s1.sampleLanes g ((l.filter fun x => x.2.isNone).map (·.1))).attach g p i f pend
                (.atom w64 op noret sc ord (g.wb + d) lanes)).2
          if AOrd.rel ord then released s1 g p sc go else go))

/-- ATOM (R224). -/
def execAtom (fs w64 : Bool) (op : Aop) (noret : Bool) (sc : Scope) (ord : AOrd) (d : BitVec 7) (a : BitVec 6) (v : BitVec 7)
    (s : State) : Out :=
  let i : Instr := .atom fs w64 op noret sc ord d a v
  let n := if w64 then 2 else 1
  issueLong s i fs (useV ((if noret then [] else runRegs d.toNat n) ++ pairRegs a.toNat ++ runRegs v.toNat n)) fun g p f =>
    atomOp s g p i f (some op) w64 noret sc ord d.toNat a.toNat v.toNat

/-- ATOMC: compare and swap (R224). -/
def execAtomc (fs w64 : Bool) (noret : Bool) (sc : Scope) (ord : AOrd) (d : BitVec 7) (a : BitVec 6) (v : BitVec 7) (s : State) : Out :=
  let i : Instr := .atomc fs w64 noret sc ord d a v
  let n := if w64 then 2 else 1
  issueLong s i fs (useV (runRegs d.toNat n ++ pairRegs a.toNat ++ runRegs v.toNat n)) fun g p f =>
    atomOp s g p i f none w64 noret sc ord d.toNat a.toNat v.toNat

/-- ATOMS: atomics at the scratchpad banks of the cluster launch, in issue order with the core's STS and STSR (R205, R225). -/
def execAtoms (fs w64 : Bool) (op : Aop) (noret : Bool) (d a v : BitVec 7) (s : State) : Out :=
  let i : Instr := .atoms fs w64 op noret d a v
  let n := if w64 then 2 else 1
  let size := 4 * n
  issueLong s i fs (useV ((if noret && op != .cas then [] else runRegs d.toNat n) ++ [a.toNat] ++ runRegs v.toNat n)) fun g p f =>
    gated s g p
      (let l := clusterLanes g p a.toNat 0 size
       let e := scratchFail s g size l
       if e.cause ≠ 0 then s.trapAt g p i e.cause e.lanes e.addr e.detail
       else if !s.flagRoom g f 1 then s.stall g p .poll
       else
         let accs := scratchAccs s g l
         if accs.any fun x => s.stsrAhead g x.2.1 then s.stall g p .poll
         else if accs.isEmpty then (s.commit g p).done g p i
         else
           let r := accs.foldl (fun (acc : State × List (Nat × DWord)) x =>
             let (lane, l, o) := x
             let old := ((acc.1.wg? g.cx g.kernel l).map fun w => w.nat o size).getD 0
             let new := aopNew (some op) (8 * size) old (vNat g v.toNat n lane) (vNat g d.toNat n lane)
             (acc.1.updWg g.cx g.kernel l fun w => w.putBytes o (leBytes size new), acc.2 ++ [(lane, BitVec.ofNat 64 old)])) (s, [])
           let s1 := r.1.updGroup g.ref fun h => h.addBank (bankExtra size true accs)
           let pend : PendSet := if noret then {} else { vw := runRegs (g.wb + d.toNat) n }
           (((s1.attach g p i f pend (.atoms w64 noret (g.wb + d.toNat) r.2)).2).commit g p).done g p i)

/-! ## WATCH -/

/-- The flag of a watch that a restore has re-installed and no WATCH has attached to yet (R82, R145). -/
def flagRecorded : Nat := 102

/-- A recorded watch of the group with the same address and comparison. -/
def sameWatch (g : Group) (va : Nat) (cmp : WCmp) (u w64 : Bool) (v : DWord) (o : PendOp) : Bool :=
  o.grp == g.ref && o.flag == flagRecorded && (match o.kind with
    | .watch va' _ _ cmp' u' w64' v' _ _ _ _ => va' == va && cmp' == cmp && u' == u && w64' == w64 && v' == v
    | _ => false)

/-- WATCH: once per issue (R227); a re-executed one attaches to the watch that its image recorded (R145). -/
def execWatch (fs : Bool) (cmp : WCmp) (u w64 : Bool) (sc : Scope) (d : BitVec 6) (a : BitVec 5) (b : BitVec 6) (s : State) : Out :=
  let i : Instr := .watch fs cmp u w64 sc d a b
  let n := if w64 then 2 else 1
  issueLong s i fs (useS (runRegs d.toNat n ++ pairRegs a.toNat ++ runRegs b.toNat n)) fun g p f =>
    if !s.flagRoom g f 1 then s.stall g p .poll
    else
      let va := (g.getSPair a.toNat).toNat
      let (s1, l, e) := s.checkLanes g .read (4 * n) (fun _ => true) [(32, va)]
      s1.laneTrap g p i e true
        (let v := BitVec.ofNat 64 (sNat g b.toNat n)
         let pend : PendSet := { sw := runRegs d.toNat n }
         match s1.ops.find? (sameWatch g va cmp u w64 v) with
         | some o =>
           (s1.updOp o.id fun o =>
             { o with split := p.id, flag := f, pend := pend, pc := p.pc, insn := word0 i, rpc := p.rpc, clause := p.clause,
                      kind := match o.kind with
                        | .watch va k off cmp u w64 v _ _ held woken => .watch va k off cmp u w64 v sc d.toNat held woken
                        | x => x }).done g p i
         | none =>
           l.foldl (fun s x => (s.attach g p i f pend (.watch va x.key (va % 128) cmp u w64 v sc d.toNat none none)).2.done g p i) s1)

end Sys2Proof.Machine
end

