-- ==== Sys2Proof/Machine/SheafOps.lean ====
section
/-! DEFINITION. What descriptor homes and member homes do (spec/12_sheaf.md R229 to R241): descriptors, open writes, seals, drops and
pinned reads. -/

namespace Sys2Proof.Machine

/-! ## Descriptors -/

/-- A descriptor (R230). -/
structure Desc where
  st : Nat
  nmem : Nat
  openv : Nat
  version : Nat
  proxy : Bool
  pvchip : Nat
  pid : Nat
  pins : Nat
  writer : Writer
  /-- BASE and LINES of the members in use. -/
  members : List (Nat × Nat)
  deriving DecidableEq, Repr, Inhabited

def dIdle : Nat := 0
def dOpen : Nat := 1
def dSealing : Nat := 2
def dDropped : Nat := 3

def Desc.ofLine (d : LineData) : Desc :=
  let w0 := lineNat d 0 4
  let w1 := lineNat d 4 4
  let wc := lineNat d 0xC 4
  let n := w0 / 2 ^ 24 % 16
  { st := w0 / 2 ^ 28, nmem := n, openv := w0 / 2 ^ 12 % 4096, version := w0 % 4096, proxy := w1 / 2 ^ 24 % 2 == 1,
    pvchip := w1 / 2 ^ 12 % 4096, pid := w1 % 4096, pins := lineNat d 8 4,
    writer := { vchip := wc / 2 ^ 20, gidx := wc / 2 ^ 15 % 32, kernel := lineNat d 0x10 4, wg := lineNat d 0x14 4 },
    members := (List.range (min n 8)).map fun k => (lineNat d (0x20 + 12 * k) 8, lineNat d (0x28 + 12 * k) 4) }

/-- Word 0 of a descriptor. -/
def Desc.word0 (d : Desc) : Nat := d.st * 2 ^ 28 + d.nmem * 2 ^ 24 + d.openv * 2 ^ 12 + d.version

/-- The line of descriptor i in its fixed frame (R229); none: no such sheaf. -/
def Context.descLine (c : Context) (i : Nat) : Option LineKey :=
  let o := c.bindRec.sheafBase % 65536 + 128 * i
  if c.sheafFixed && decide (i < c.bindRec.sheafN) then
    (c.sheafFrames[o / 65536]?).map fun f => { cx := c.cxid, pod := false, n := f * 512 + o % 65536 / 128 }
  else none

def State.desc? (s : State) (cx i : Nat) : Option (LineKey × Desc) :=
  (s.ctx? cx).bind fun c => (c.descLine i).map fun k => (k, Desc.ofLine (s.homeRead k).1)

/-- Writes the RO and reserved fields of a descriptor at its home: a write for watches (R228, R230, R234). -/
def State.putDesc (s : State) (k : LineKey) (d : Desc) : State :=
  let bs := leBytes 4 d.word0 ++ leBytes 4 (d.proxy.toNat * 2 ^ 24) ++ leBytes 4 d.pins
    ++ leBytes 4 (d.writer.vchip * 2 ^ 20 + d.writer.gidx * 2 ^ 15) ++ leBytes 4 d.writer.kernel ++ leBytes 4 d.writer.wg ++ leBytes 8 0
  (s.homeWrite k (lineAt 0 bs) (maskOf 0 4 ||| maskOf 7 25)).1

/-- The line of a software write is a descriptor in some context's table. -/
def State.descOf (s : State) (k : LineKey) : Bool :=
  s.ctxs.any fun c => c.sheafFixed && (List.range (min c.bindRec.sheafN 4096)).any fun i =>
    match c.descLine i with
    | none => false
    | some d => !k.pod && d.n == k.n

/-- Bytes of a descriptor that hold RW fields only: 0x04 to 0x07 and 0x20 to 0x7F. -/
def descRw : LineMask := maskOf 4 4 ||| maskOf 0x20 0x60

/-- A write by software at a line's home. At a descriptor only the bytes of RW fields are merged, and only while it is IDLE without
pins; the rest is discarded without a record (R231). NMEM shares byte 3 with STATE, PROXY byte 7 with reserved bits, which stay 0. The
read-only words of a trap frame are left as they are (R150). -/
def State.softWrite (s : State) (k : LineKey) (data : LineData) (mask : LineMask) : State × Bool :=
  if !s.descOf k then s.homeWrite k data (mask &&& ~~~s.frameRo k)
  else
    let old := (s.homeRead k).1
    let d := Desc.ofLine old
    if d.st ≠ dIdle ∨ d.pins ≠ 0 then (s, true)
    else
      let m3 : LineMask := if mask.getLsbD 3 then maskOf 3 1 else 0
      let b3 := lineNat old 3 1 / 16 * 16 + lineNat data 3 1 % 16
      let fixed := lineAt 3 ([b3, 0, 0, 0, lineNat data 7 1 % 2].map fun x => BitVec.ofNat 8 x)
      let new := mergeLine data fixed (maskOf 3 1 ||| maskOf 7 1)
      let m := (mask &&& descRw) ||| m3
      if m = 0 then (s, true) else s.homeWrite k new m

/-! ## Owners and members -/

def State.vchipOf (s : State) (cx : Nat) : Nat := ((s.ctx? cx).map fun c => c.bindRec.vchip).getD 0

/-- The context on this module that is vchip v for context cx. -/
def State.vchipCtx (s : State) (cx v : Nat) : Option Nat :=
  match s.ctx? cx with
  | none => none
  | some c =>
    if c.bindRec.vchip = v then some cx
    else match c.vchip? v with
      | none => none
      | some (pkg, cxid, _) => if pkg == s.bar.link.pkgid && (s.ctx? cxid).isSome then some cxid else none

/-- What a sheaf id names for a context (R231). -/
inductive ShTarget where
  | bad
  | own
  | proxy (vchip pid : Nat)
  deriving DecidableEq, Repr, Inhabited

def State.shTarget (s : State) (cx id : Nat) : ShTarget :=
  match s.ctx? cx, s.desc? cx id with
  | some c, some (_, d) => if !d.proxy then .own else if (c.vchip? d.pvchip).isSome then .proxy d.pvchip d.pid else .bad
  | _, _ => .bad

/-- A pod address of a vchip's own window as the vchip's local address; another address is itself (R314). -/
def ownVa (vchip va : Nat) : Nat :=
  if regionOf va == .pod && podVchip va == vchip then podLocal va else va

/-- The context on this module in whose exported window a pod address lies, as a context names it. -/
def State.windowCtx (s : State) (cx va : Nat) : Option Nat :=
  if regionOf va == .pod then s.vchipCtx cx (podVchip va) else none

/-- The pages of a range of addresses of a context: page address and the first line, where the page translates. -/
def State.rangePages (s : State) (cx base lines : Nat) : List (Nat × Option LineKey) :=
  (List.range ((base % 65536 + 128 * lines + 65535) / 65536)).map fun p =>
    let va := base / 65536 * 65536 + 65536 * p
    (va, match (s.walk cx va .quiet).2 with
      | .ok t => some (t.key va)
      | _ => none)

/-- A member's range as the context hcx addresses it at its homes, where it lies in that context: by a local address in the owner's
own pages, or by an address of its exported window (R230, R267; DEDUCED, log 17). -/
def State.localMember (s : State) (ocx hcx : Nat) (m : Nat × Nat) : Option (Nat × Nat) :=
  let va := ownVa (s.vchipOf hcx) m.1
  if regionOf va == .localTable && (ocx == hcx || va != m.1) then some (va, m.2) else none

/-- A range of a context lies in its sheaf pages (R231). -/
def State.inSheafPages (s : State) (cx : Nat) (r : Nat × Nat) : Bool :=
  regionOf (r.1 + 128 * r.2 - 1) == .localTable && (s.rangePages cx r.1 r.2).all fun p => (p.2.map fun k => k.sh != 0).getD false

/-- Some member lies in the window of a vchip of another module, whose pages are not seen here. -/
def State.farMembers (s : State) (cx : Nat) (d : Desc) : Bool :=
  d.members.any fun m => (s.localMember cx cx m).isNone && regionOf m.1 == .pod && (s.windowCtx cx m.1).isNone

/-- Members are valid (R231): in sheaf pages, without overlap. The pages of a member in another vchip's window are that vchip's; whether
those of another module are sheaf pages is an open choice (log 17). -/
def State.membersOk (s : State) (cx : Nat) (d : Desc) : Bool :=
  let v := s.vchipOf cx
  let ms := (d.members.map fun m => (ownVa v m.1, m.2)).zipIdx
  decide (1 ≤ d.nmem) && decide (d.nmem ≤ 8)
  && (d.members.all fun m => m.1 % 128 == 0 && decide (1 ≤ m.2)
    && (match s.localMember cx cx m with
      | some r => s.inSheafPages cx r
      | none => regionOf m.1 == .pod && regionOf (m.1 + 128 * m.2 - 1) == .pod && podVchip m.1 == podVchip (m.1 + 128 * m.2 - 1)
          && ((s.windowCtx cx m.1).map fun o => s.inSheafPages o (podLocal m.1, m.2)).getD (Config.freeBool s.freeCount)))
  && (ms.all fun a => ms.all fun b =>
    decide (b.2 ≤ a.2) || decide (a.1.1 + 128 * a.1.2 ≤ b.1.1) || decide (b.1.1 + 128 * b.1.2 ≤ a.1.1))

/-- The member of a sheaf of context ocx that holds a line of context hcx, by its ordinal. -/
def State.memberOf (s : State) (ocx hcx : Nat) (d : Desc) (k : LineKey) : Option Nat :=
  ((d.members.zipIdx).find? fun m =>
    match s.localMember ocx hcx m.1 with
    | none => false
    | some r => (s.rangePages hcx r.1 r.2).any fun p =>
      match p.2 with
      | none => false
      | some f =>
        let va := p.1 + 128 * (k.n - f.n)
        decide (f.n ≤ k.n) && decide (k.n < f.n + 512) && decide (r.1 ≤ va) && decide (va < r.1 + 128 * r.2)).map (·.2)

/-- Some member holds an address of the owner's context or of the pod. -/
def Desc.memberAt? (d : Desc) (vchip va : Nat) : Option Nat :=
  ((d.members.zipIdx).find? fun m =>
    let b := ownVa vchip m.1.1
    let a := ownVa vchip va
    decide (b ≤ a) && decide (a < b + 128 * m.1.2)).map (·.2)

def Desc.memberAt (d : Desc) (vchip va : Nat) : Bool := (d.memberAt? vchip va).isSome

/-- Some member lies in the pod aperture (R267). -/
def Desc.podMember (d : Desc) : Bool := d.members.any fun m => regionOf m.1 == .pod

/-! ## Lines of sheaf pages -/

/-- The first frame of slot 0 of a line's page. -/
def LineKey.page0 (k : LineKey) : Nat := k.n / 512 / k.sh * k.sh

/-- Copies the content of one physical line to another under a domain. -/
def State.copyPhys (s : State) (src dst : Nat) (dom : Option (Key × BitVec 16)) : State :=
  let poi := s.poisoned src dom
  let s1 := { s with mem := sputRun 0 s.mem (128 * dst) (lineBytes (s.physLine src)) }
  s1.setMeta dst { s1.lmeta dst with stamp := dom, poison := poi, wrong := 0 }

/-- A claim of an unclaimed line for version x (R236 step 1). -/
def State.claim (s : State) (k : LineKey) (id x mem_ : Nat) (dom : Option (Key × BitVec 16)) : State :=
  let a := (x + 1) % 2
  let z (s : State) (n : Nat) : State :=
    let s1 := { s with mem := sputRun 0 s.mem (128 * n) (lineBytes 0) }
    s1.setMeta n { s1.lmeta n with stamp := dom, poison := false, wrong := 0 }
  let base : Tag := { id := id, valid := true, member := mem_ }
  let s1 := (z (z s (k.slot 0)) (k.slot 1)).setTag (k.slot a) { base with ver := (x + 4095) % 4096, cur := true, orig := true }
  s1.setTag (k.slot (x % 2)) { base with ver := x }

/-- Slot x mod 2 is made to hold version x open (R236 step 2). -/
def State.prepare (s : State) (k : LineKey) (x : Nat) (dom : Option (Key × BitVec 16)) : State :=
  let b := k.slot (x % 2)
  let a := k.slot ((x + 1) % 2)
  let tb := s.tag b
  if tb.valid && tb.isOpen && tb.ver == x then s
  else if tb.cur then
    let s1 := (s.copyPhys b a dom).setTag a { tb with ver := (x + 4095) % 4096, cur := true, isOpen := false, valid := true }
    s1.setTag b { tb with ver := x, isOpen := true, cur := false, orig := false, valid := true }
  else
    let ta := s.tag a
    (s.copyPhys a b dom).setTag b { ta with ver := x, isOpen := true, cur := false, orig := false, valid := true }

/-- The member that a pod address lies in, as far as this module holds the descriptor of sheaf id of vchip owner: none: it does not; some
none: in no member (R236). -/
def State.memberTold (s : State) (cx owner id va : Nat) : Option (Option Nat) :=
  (s.vchipCtx cx owner).bind fun ocx => (s.desc? ocx id).map fun d => d.2.memberAt? (s.vchipOf ocx) va

/-- The member that only a descriptor on another module gives, as an open value: none where it rejects the write (log 17). -/
def farMember (n : Nat) : Option Nat := if Config.freeNat n % 9 = 8 then none else some (Config.freeNat n % 9)

/-- An open write of version x of sheaf id of vchip owner at its home in context hcx (R236); false: rejected. told: the member, as the
sender's module found it; where the descriptor is on a third module, what it says is an open value (log 17). va: an address of the
line. -/
def State.openWriteAt (s0 : State) (hcx : Nat) (k : LineKey) (owner id x : Nat) (data : LineData) (mask : LineMask)
    (told : Option (Option Nat) := none) (va : Nat := 0) : State × Bool :=
  let drawn := ((s0.vchipCtx hcx owner).bind fun ocx => s0.desc? ocx id).isNone && told.isNone
  let s : State := if drawn then { s0 with freeCount := s0.freeCount + 1 } else s0
  if k.sh = 0 then (s, false)
  else
    let f0 := k.page0
    let held := s.sheafOwner.find? fun e => e.frame == f0
    let d := (s.vchipCtx hcx owner).bind fun ocx => (s.desc? ocx id).map fun d => (ocx, d.2)
    let member : Option Nat := match d with
      | none => told.getD (farMember s0.freeCount)
      | some (ocx, d) =>
        if (d.st = dOpen ∨ d.st = dSealing) ∧ d.openv = x then
          s.memberOf ocx hcx d k
        else none
    let cur := match s.curSlot k with
      | none => none
      | some b => some (s.tag (k.slot b)).id
    match member with
    | none => (s, false)
    | some mo =>
      if (held.map fun e => e.owner != owner).getD false || (cur.map fun i => i != id).getD false then (s, false)
      else
        let dom := s.domain k.cx k.kds
        let s1 : State := if held.isSome then s else 
          { s with sheafOwner := s.sheafOwner ++ [{ frame := f0, dist := k.sh, home := hcx, owner := owner, va := va }] }
        let s2 := if cur.isNone then s1.claim k id x mo dom else s1
        let s3 := s2.prepare k x dom
        let (s4, ok) := s3.mergePhys (k.slot (x % 2)) dom k.kds data mask
        (s4.l2Touch k true, ok)

/-- Why the home did not merge an open write: the prepared slot is poisoned (R327), else it was rejected (R236). -/
def State.openFault (s : State) (k : LineKey) (id ver : Nat) : Nat :=
  let t := s.tag (k.slot (ver % 2))
  if k.sh ≠ 0 ∧ t.valid ∧ t.isOpen ∧ t.id = id ∧ t.ver = ver then causePoison else causeProt

/-- Open write k of a core reaches the home of its line (R236). Those of one line keep their order. -/
def State.openPublish (s : State) (core k : Nat) : State :=
  let c := s.core core
  match c.pq[k]? with
  | none => s
  | some e =>
    match e.ow with
    | none => s
    | some w =>
      if e.phase != .waiting || (c.pq.take k).any fun x => x.key.same e.key && x.ow.isSome then s
      else if e.key.pod then
        let va := 128 * e.key.n
        (s.updCore core fun c => { c with pq := upd (fun x => x.id == e.id) (fun x => { x with phase := .arrived }) c.pq }).podRequest
          e.key.cx (podVchip va) va (.merge core e.id e.site) fun r =>
            .openWrite r va w.owner w.id w.ver e.data e.mask (s.memberTold e.key.cx w.owner w.id va) false false { e.site with va := e.va }
      else
        let (s1, ok) := s.openWriteAt e.key.cx e.key w.owner w.id w.ver e.data e.mask none w.va
        let s2 := s1.updCore core fun c => { c with pq := c.pq.filter fun x => x.id != e.id }
        if ok then s2 else s2.impStore e.site (s1.openFault e.key w.id w.ver) e.va

/-- The slot that an open write of version x went to takes a poison mark (R262). -/
def State.poisonSlot (s : State) (k : LineKey) (x : Nat) : State :=
  s.setMeta (k.slot (x % 2)) { s.lmeta (k.slot (x % 2)) with poison := true }

/-- The claimed lines that a context's homes hold for an owner, as keys. -/
def State.ownedLines (s : State) (hcx owner : Nat) : List LineKey :=
  (s.sheafOwner.filter fun e => e.home == hcx && e.owner == owner).flatMap fun e =>
    (List.range (512 * e.dist)).map fun j => { cx := hcx, pod := false, n := 512 * e.frame + j, sh := e.dist }

/-- AGE of R239. -/
def verAge (c t : Nat) : Nat := (c + 4096 - t % 4096) % 4096

/-- The rewriting of R240 at one line for version v. -/
def State.rewriteTags (s : State) (k : LineKey) (id v : Nat) : State :=
  match s.curSlot k with
  | none => s
  | some b =>
    let cur := s.tag (k.slot b)
    let ret := s.tag (k.slot (1 - b))
    if cur.id ≠ id ∨ ¬ cur.valid then s
    else if verAge v cur.ver > 1024 then
      let w := (v + 4096 - 1024) % 4096
      let w' := if w % 2 = b then w else (v + 4096 - 1025) % 4096
      (s.setTag (k.slot b) { cur with ver := w' }).setTag (k.slot (1 - b)) { ret with valid := false }
    else if ret.valid && decide (verAge v ret.ver > 1024) then s.setTag (k.slot (1 - b)) { ret with valid := false }
    else s

/-- Every slice of a module, which a seal of another vchip's sheaf reaches at once. -/
def everySlice : Nat := 1000

/-- The slice homes of a context apply the seal of version x (R237, R240): slice none means all of them. The visit of R240 comes behind the
flips of R237 (DEDUCED, log 31: R240 places it before the acknowledgement and not beside the flips; before them it would clear VALID of a
slot that R237 then makes CUR). -/
def State.sealAt (s : State) (hcx owner id x : Nat) (slice : Option Nat) : State :=
  let ks := (s.ownedLines hcx owner).filter fun k => (slice.map fun h => s.homeSlice k == h).getD true
  let flip (s : State) (k : LineKey) : State :=
    let b := k.slot (x % 2)
    let a := k.slot ((x + 1) % 2)
    let t := s.tag b
    if t.valid && t.isOpen && t.id == id && t.ver == x then
      ((s.setTag b { t with isOpen := false, cur := true }).setTag a { s.tag a with cur := false }).wake k
    else s
  let s1 := ks.foldl (fun s k => if x % 1024 = 0 then (flip s k).rewriteTags k id x else flip s k) s
  let h := slice.getD everySlice
  { s1 with shSealed := putFirst (fun e => e.1 == hcx && e.2.1 == owner && e.2.2.1 == id && e.2.2.2.1 == h) (hcx, owner, id, h, x)
              s1.shSealed }

/-- The slice homes of a context apply the drop of version x (R238). -/
def State.dropAt (s : State) (hcx owner id x : Nat) (slice : Option Nat) : State :=
  let ks := (s.ownedLines hcx owner).filter fun k => (slice.map fun h => s.homeSlice k == h).getD true
  ks.foldl (fun s k => [k.slot 0, k.slot 1].foldl (fun s n =>
    let t := s.tag n
    if t.valid && t.isOpen && t.id == id && t.ver == x then s.setTag n { t with valid := false } else s) s) s

/-- What a pinned read selects. -/
inductive Sel where
  | stale | zero
  | line (n : Nat)
  deriving DecidableEq, Repr, Inhabited

/-- SELECT of R239. -/
def State.select (s : State) (hcx owner id w : Nat) (k : LineKey) : Sel :=
  let c := ((s.shSealed.find? fun e => e.1 == hcx && e.2.1 == owner && e.2.2.1 == id
    && (e.2.2.2.1 == s.homeSlice k || e.2.2.2.1 == everySlice)).map (·.2.2.2.2)).getD w
  if verAge c w > 1024 then .stale
  else
    match s.curSlot k with
    | none => .zero
    | some b =>
      let cur := s.tag (k.slot b)
      let ret := s.tag (k.slot (1 - b))
      if cur.orig || decide (verAge c cur.ver ≥ verAge c w) then .line (k.slot b)
      else if ret.valid && !ret.isOpen && (ret.orig || decide (verAge c ret.ver ≥ verAge c w)) then .line (k.slot (1 - b))
      else .stale

/-- A pinned read of a line at its home: none: stale; the bytes and whether they are poisoned. -/
def State.pinnedLine (s : State) (hcx owner id w : Nat) (k : LineKey) : Option (LineData × Bool) :=
  match s.select hcx owner id w k with
  | .stale => none
  | .zero => some (0, false)
  | .line n => some (s.physLine n, s.poisoned n (s.domain k.cx k.kds))

/-! ## Decisions of a descriptor home (R234) -/

/-- *open*, *pin*, *unpin* and queries at a descriptor: the state, and version and status. A query answers word 0 as its version. -/
def State.shDecide (s : State) (cx id : Nat) (kind : ShMsgKind) (w : Writer) : State × Nat × Nat :=
  match s.desc? cx id with
  | none => (s, if kind == .query then 0xF0000000 else 0, shBadid)
  | some (k, d) =>
    if d.proxy then (s, if kind == .query then 0xF0000000 else 0, shBadid)
    else
      match kind with
      | .open_ =>
        let s' : State := if s.farMembers cx d then { s with freeCount := s.freeCount + 1 } else s
        if d.st = dIdle then
          if s.membersOk cx d then
            let v := (d.version + 1) % 4096
            (s'.putDesc k { d with st := dOpen, openv := v, writer := w }, v, shOk)
          else (s', 0, shBadmem)
        else if d.st = dOpen ∧ d.writer = w then (s, d.openv, shReopen)
        else (s, 0, shBusy)
      | .pin =>
        let s' : State := if s.farMembers cx d then { s with freeCount := s.freeCount + 1 } else s
        if d.pins ≥ 65535 then (s, d.version, shPinfull)
        else if !s.membersOk cx d then (s', d.version, shBadmem)
        else (s'.putDesc k { d with pins := d.pins + 1 }, d.version, shOk)
      | .unpin => (if d.pins = 0 then s else s.putDesc k { d with pins := d.pins - 1 }, 0, shOk)
      | .query => (s, d.word0, shOk)
      | .seal | .drop => (s, d.openv, shOk)

/-- The member homes of a sheaf: slices of this module for members in the own window, other vchips for the rest. -/
def State.memberHomes (s : State) (cx : Nat) (d : Desc) : List Nat :=
  (d.members.flatMap fun m =>
    match s.localMember cx cx m with
    | some r =>
      (s.rangePages cx r.1 r.2).flatMap fun p => match p.2 with
        | none => []
        | some f => (List.range 512).filterMap fun j =>
          if r.1 ≤ p.1 + 128 * j ∧ p.1 + 128 * j < r.1 + 128 * r.2 then some (s.homeSlice { f with n := f.n + j }) else none
    | none => [100000 + podVchip m.1]).dedup

/-- Open writes of a version that still wait in publish queues (R238, R247). -/
def OpenWr.is (o : OpenWr) (owner id ver : Nat) : Bool := o.owner == owner && o.id == id && o.ver == ver

/-- Open writes that p picks, by their context, leave every publish queue (R238). -/
def State.discardOpen (s : State) (p : Nat → OpenWr → Bool) : State :=
  { s with cores := s.cores.map fun c => { c with pq := c.pq.filter fun e => !((e.ow.map fun o => p e.key.cx o).getD false) } }

/-- *seal* or *drop* at a descriptor in OPEN: messages go to the member homes (R237, R238). -/
def State.shStart (s : State) (cx id ver : Nat) (isDrop : Bool) (m : Option ShMsg) (remote : Option (Nat × BitVec 32 × Bool × Nat)) :
    State × Bool :=
  match s.desc? cx id with
  | none => (s, false)
  | some (k, d) =>
    if d.proxy ∨ d.st ≠ dOpen ∨ d.openv ≠ ver then (s, false)
    else
      let site : Site := { (default : Site) with cx := cx, kernel := d.writer.kernel, wg := d.writer.wg, gidx := d.writer.gidx }
      let q : ShProc := { drop := isDrop, cx := cx, remote := remote, sheaf := id, ver := ver, left := s.memberHomes cx d,
                          op := m.bind (·.op), copy := m.bind (·.copy), msg := m, site := site }
      let s1 := s.putDesc k { d with st := if isDrop then dDropped else dSealing }
      let s2 := if isDrop then s1.discardOpen fun wcx o => o.id == id && o.ver == ver && s1.vchipCtx wcx o.owner == some cx else s1
      ({ s2 with shProcs := s2.shProcs ++ [q] }, true)

/-- The sealed version of a sheaf of a context, through a proxy (R231): of an owner on another module, as the last query has brought it;
none: it is not known here. -/
def State.sheafVersion (s : State) (cx id : Nat) : Option Nat :=
  match s.desc? cx id with
  | none => none
  | some (_, d) =>
    if !d.proxy then some d.version
    else
      match s.vchipCtx cx d.pvchip with
      | none => (((s.ctx? cx).bind fun c => c.seenVer.find? fun e => e.1 == id).map fun e => e.2 % 4096)
      | some o => match s.desc? o d.pid with
        | none => none
        | some (_, e) => if e.proxy then none else some e.version

/-- A sheaf's sealed version is at or beyond a version (R94, R104, R241). -/
def State.sealedAt (s : State) (cx id v : Nat) : Bool := ((s.sheafVersion cx id).map fun n => verReached n v).getD false

/-- Asks the home of a proxy on another module for its version, unless it has been asked; the MODEL's own way for WAITVER and SHVER to
learn of a seal there (DEDUCED, log 49). -/
def State.askVersion (s : State) (cx id : Nat) : State :=
  match s.shTarget cx id with
  | .own | .bad => s
  | .proxy v pid =>
    let asked := s.reqs.any fun r => match r.kind with
      | .sheaf m => m.cx == cx && m.sheaf == id && m.kind == .query && m.split.isNone
      | .fill .. | .merge .. | .atomic .. | .watch _ | .member .. | .pinned .. | .copyRead _ | .copyWrite _ | .feeder _ => false
    if asked || (s.vchipCtx cx v).isSome then s
    else
      let m : ShMsg := { id := s.nextId, kind := .query, cx := cx, sheaf := id }
      ({ s with nextId := s.nextId + 1 } : State).podRequest cx v 0 (.sheaf m) fun r => .sheaf r .query pid 0 m.writer

/-- Asks for every version that a kernel of the context waits for. -/
def State.askVersions (s : State) (cx : Nat) : State :=
  ((s.kernels.filter fun k => k.cx == cx && k.st == .recorded).flatMap fun k => k.deps.filterMap fun d => match d with
    | .shver i _ => some i
    | .kdone _ | .ktrig _ | .gtime _ | .lap .. => none).dedup.foldl (fun s i => s.askVersion cx i) s

/-- The lines of n frames from f carry a tag of 0. -/
def State.clearTags (s : State) (f n : Nat) : State :=
  (s.lineMeta.filter fun e => decide (512 * f ≤ e.1) && decide (e.1 < 512 * (f + n))).foldl
    (fun s e => s.setMeta e.1 { e.2 with tag := 0 }) s

/-- The records of sheaf pages of a context that its table does not map any more end (R232); where the table now maps the address without
the sheaf attribute, the tags of the page's lines are 0 (R233). -/
def State.settleSheaf (s : State) (cx : Nat) : State :=
  let xlat (e : SheafPage) : XRes := (s.walk cx e.va .quiet).2
  let maps (e : SheafPage) : Bool := match xlat e with
    | .ok t => t.sh && (t.key e.va).page0 == e.frame
    | .wait => true
    | .fail .. => false
  let gone := s.sheafOwner.filter fun e => e.home == cx && !maps e
  gone.foldl (fun s e => match xlat e with
    | .ok t => if t.sh then s else s.clearTags t.frame (t.size / 65536)
    | .wait | .fail .. => s) { s with sheafOwner := s.sheafOwner.filter fun e => e.home != cx || maps e }

/-- *acked* and *dropped*: the last member home has acknowledged (R234). -/
def State.shEnd (s : State) (q : ShProc) : State :=
  match s.desc? q.cx q.sheaf with
  | none => s
  | some (k, d) =>
    let d1 := { d with st := dIdle, version := if q.drop then d.version else q.ver, writer := default }
    let s1 : State := { s with shProcs := s.shProcs.filter fun x => x != q }
    let s2 := s1.putDesc k d1
    let s3 := match q.msg with
      | none => s2
      | some m => s2.shReply m q.ver shOk
    let s4 := match q.remote with
      | none => s3
      | some (src, vl, lb, r) => s3.replyTo q.cx src vl lb (.rSheaf r (sheafWord q.sheaf q.ver shOk))
    if q.drop then s4
    else (s4.ctxs.map (·.cxid)).foldl (fun (s : State) cx => s.meet cx fun d => match d with
      | .shver i v => s.sealedAt cx i v
      | _ => false) s4

end Sys2Proof.Machine
end

