-- ==== Sys2Proof/Machine/Sheaf.lean ====
section
/-! DEFINITION. The eight sheaf instructions (spec/12_sheaf.md R243 to R252). -/

namespace Sys2Proof.Machine

/-- The sheaf id and version of a sheaf word (R243). -/
def wordId (w : Word) : Nat := (w.extractLsb' 20 12).toNat
def wordVer (w : Word) : Nat := (w.extractLsb' 8 12).toNat

def writerOf (s : State) (g : Group) : Writer := { vchip := s.vchipOf g.cx, gidx := g.gidx, kernel := g.kernel, wg := g.wg }

/-- Entries of the open table that SHOPENs of the group's other splits may still take (DEDUCED, log 49: an entry is kept for each). -/
def State.opensDue (s : State) (g : Group) : Nat :=
  let mine (m : ShMsg) : Bool := m.kind == .open_ && m.copy.isNone && m.cx == g.cx && m.writer == writerOf s g
  (s.shMsgs.filter mine).length + (s.reqs.filter fun r => match r.kind with
    | .sheaf m => mine m
    | .fill .. | .merge .. | .atomic .. | .watch _ | .member .. | .pinned .. | .copyRead _ | .copyWrite _ | .feeder _ => false).length

/-- Entries of the pin table that SHPINs under way may still take (DEDUCED, log 49). -/
def State.pinsDue (s : State) (g : Group) : Nat :=
  (s.ops.filter fun o => o.grp == g.ref && (match o.kind with
    | .shpin .. => true
    | _ => false)).length

/-- SHOPEN: stalls until the descriptor home replies (R245). -/
def execShopen (d a : BitVec 6) (s : State) : Out :=
  let i : Instr := .shopen d a
  issue s i (useS [d.toNat, a.toNat]) fun g p =>
    match p.wait with
    | .got v => (s.updGroup g.ref fun h => h.setS d.toNat (v.extractLsb' 0 32)).done g p i
    | .reply _ => s
    | _ =>
      let id := wordId (g.getS a.toNat)
      if g.opens.length + s.opensDue g ≥ 4 then (s.updGroup g.ref fun h => h.setS d.toNat (sheafWord id 0 shOpenfull)).done g p i
      else
        (s.sendSh { id := 0, kind := .open_, cx := g.cx, sheaf := id, writer := writerOf s g, grp := g.ref, split := some p.id }).stall
          g p (.reply s.nextId)

/-- The entry of a group's own table as its owning vchip numbers it: owner and id (R231). -/
def State.ownerOf (s : State) (cx id : Nat) : Nat × Nat :=
  match s.shTarget cx id with
  | .proxy v pid => (v, pid)
  | .own | .bad => (s.vchipOf cx, id)

/-- An open write enters the publish queue, never the L1 (R246); none: the queue is full. Writes of one core to one line of one
version join an entry that has not begun. va: the address that a fault of the entry reports (R158). -/
def State.openStore (s : State) (site : Site) (va : Nat) (k : LineKey) (ow : OpenWr) (data : LineData) (mask : LineMask) : Option State :=
  let core := site.grp.core
  let c := s.core core
  let mine (e : PqEntry) : Bool := e.key == k && e.phase == .waiting && e.ow == some ow
  match c.pq.find? mine with
  | some e =>
    some (s.updCore core fun c => { c with pq := upd (fun x => x.id == e.id) (fun x =>
      { x with data := mergeLine x.data data mask, mask := x.mask ||| mask }) c.pq })
  | none =>
    if c.pq.length ≥ Config.pqCap then none
    else
      let e : PqEntry := { id := s.nextId, key := k, site := site, va := va, by_ := [(site.kernel, site.wg)], ow := some ow,
                           data := mergeLine 0 data mask, mask := mask }
      some { s.updCore core (fun c => { c with pq := c.pq ++ [e] }) with nextId := s.nextId + 1 }

/-- SHST: open writes of the active lanes (R246). -/
def execShst (sz : Size) (d : BitVec 7) (a : BitVec 6) (b : BitVec 6) (s : State) : Out :=
  let i : Instr := .shst sz d a b
  let n := sizeWords sz
  let size := sizeBytes sz
  issue s i { v := runRegs d.toNat n ++ pairRegs a.toNat, s := [b.toNat] } fun g p =>
    let w := g.getS b.toNat
    if !g.opens.contains (wordId w, wordVer w) then s.trap g p i cPROT
    else
      let (s1, l, f) := s.checkLanes g .openWrite size (fun k => k.pod || k.sh != 0)
        (activeEas p fun l => (vPairVal g a.toNat l).toNat)
      s1.laneTrap g p i f false
        (let (owner, oid) := s1.ownerOf g.cx (wordId w)
         let ow (va : Nat) : OpenWr := { id := oid, ver := wordVer w, owner := owner, copy := false, va := va / 128 * 128 }
         match l.foldlM (fun (s : State) e =>
             s.openStore (siteOf g p) e.va e.key (ow e.va) (lineAt (e.va % 128) (leBytes size (vNat g d.toNat n e.lane)))
               (maskOf (e.va % 128) size)) s1 with
         | none => s.stall g p .poll
         | some s2 => s2.done g p i)

/-- SHSEAL: a commit; its flag clears at *acked* (R247). -/
def execShseal (fs : Bool) (d a : BitVec 6) (s : State) : Out :=
  let i : Instr := .shseal fs d a
  issueLong s i fs (useS [d.toNat, a.toNat]) fun g p f =>
    gated s g p
      (let w := g.getS a.toNat
       let e := (wordId w, wordVer w)
       if !g.opens.contains e then
         ((s.updGroup g.ref fun h => h.setS d.toNat (sheafWord e.1 e.2 shNotopen)).commit g p).done g p i
       else if !s.flagRoom g f 1 then s.stall g p .poll
       else
         let s1 := s.updGroup g.ref fun h => { h with opens := h.opens.filter fun x => x != e }
         let (id, s2) := s1.attach g p i f { sw := [d.toNat] } (.shseal d.toNat e.1 e.2 true)
         ((s2.sendSh { id := 0, kind := .seal, cx := g.cx, sheaf := e.1, ver := e.2, writer := writerOf s g, grp := g.ref,
                       op := some id }).commit g p).done g p i)

/-- SHPIN (R248). -/
def execShpin (fs : Bool) (d a : BitVec 6) (s : State) : Out :=
  let i : Instr := .shpin fs d a
  issueLong s i fs (useS [d.toNat, a.toNat]) fun g p f =>
    let id := wordId (g.getS a.toNat)
    if g.pins.length + s.pinsDue g ≥ 8 then (s.updGroup g.ref fun h => h.setS d.toNat (sheafWord id 0 shPinfull)).done g p i
    else if !s.flagRoom g f 1 then s.stall g p .poll
    else
      let (op, s1) := s.attach g p i f { sw := [d.toNat] } (.shpin d.toNat id)
      (s1.sendSh { id := 0, kind := .pin, cx := g.cx, sheaf := id, writer := writerOf s g, grp := g.ref, op := some op,
                   region := ((p.region.map (·.serial)).getD 0) }).done g p i

/-- A line lies in some member of a sheaf (R249); an open choice where another module holds the descriptor (log 17). -/
def State.inSheaf (s : State) (cx id va : Nat) (k : LineKey) : Bool :=
  let (owner, oid) := s.ownerOf cx id
  match s.vchipCtx cx owner with
  | none => Config.freeBool (s.freeCount + va / 128)
  | some ocx =>
    match s.desc? ocx oid with
    | none => false
    | some (_, d) => if k.pod then d.memberAt (s.vchipOf ocx) va else (s.memberOf ocx cx d k).isSome

/-- SHLD: a pinned read of every active lane (R249). -/
def execShld (fs : Bool) (sz : Size) (d : BitVec 7) (a : BitVec 6) (b : BitVec 6) (s : State) : Out :=
  let i : Instr := .shld fs sz d a b
  let n := sizeWords sz
  issueLong s i fs { v := runRegs d.toNat n ++ pairRegs a.toNat, s := [b.toNat] } fun g p f =>
    let w := g.getS b.toNat
    let id := wordId w
    let ver := wordVer w
    if !(g.pins.any fun q => q.1 == id && q.2.1 == ver) then s.trap g p i cPROT
    else
      let eas := activeEas p fun l => (vPairVal g a.toNat l).toNat
      if eas.isEmpty then s.done g p i
      else if !s.flagRoom g f 1 then s.stall g p .poll
      else
        let (s1, l, e) := s.checkLanes g .read (sizeBytes sz) (fun _ => true) eas
        let out := l.filter fun x => !s1.inSheaf g.cx id x.va x.key
        let e1 := out.foldl (fun (f : LaneFail) x => f.add x.lane cPROT x.va 0) e
        let s2 : State := if (s1.vchipCtx g.cx (s1.ownerOf g.cx id).1).isNone then { s1 with freeCount := s1.freeCount + 2 ^ 57 } else s1
        s2.laneTrap g p i e1 false
          (let lanes := l.map fun x =>
             (({ lane := x.lane, va := x.va, key := x.key, off := x.va % 128 } : LaneAcc), (none : Option (Option LineData)))
           ((s2.attach g p i f { vw := runRegs (g.wb + d.toNat) n } (.shld (g.wb + d.toNat) n id ver lanes)).2).done g p i)

/-- SHUNPIN (R250). -/
def execShunpin (d a : BitVec 6) (s : State) : Out :=
  let i : Instr := .shunpin d a
  issue s i (useS [d.toNat, a.toNat]) fun g p =>
    let w := g.getS a.toNat
    let id := wordId w
    let ver := wordVer w
    match g.pins.find? fun q => q.1 == id && q.2.1 == ver with
    | none => (s.updGroup g.ref fun h => h.setS d.toNat (sheafWord id ver shNopin)).done g p i
    | some q =>
      ((s.sendSh { id := 0, kind := .unpin, cx := g.cx, sheaf := id, ver := ver, grp := g.ref }).updGroup g.ref fun h =>
        { h with pins := h.pins.erase q }.setS d.toNat (sheafWord id ver shOk)).done g p i

/-- SHDROP: a commit (R251). -/
def execShdrop (d a : BitVec 6) (s : State) : Out :=
  let i : Instr := .shdrop d a
  issue s i (useS [d.toNat, a.toNat]) fun g p =>
    gated s g p
      (let w := g.getS a.toNat
       let e := (wordId w, wordVer w)
       let s1 := if g.opens.contains e then
           (s.sendSh { id := 0, kind := .drop, cx := g.cx, sheaf := e.1, ver := e.2, writer := writerOf s g, grp := g.ref }).updGroup
             g.ref fun h => { h with opens := h.opens.filter fun x => x != e }.setS d.toNat (sheafWord e.1 e.2 shOk)
         else s.updGroup g.ref fun h => h.setS d.toNat (sheafWord e.1 e.2 shNotopen)
       (s1.commit g p).done g p i)

/-- SHQ: word 0 of the descriptor as its home holds it (R252). -/
def execShq (d a : BitVec 6) (s : State) : Out :=
  let i : Instr := .shq d a
  issue s i (useS [d.toNat, a.toNat]) fun g p =>
    let fin (s : State) (w : Word) : State := (s.updGroup g.ref fun h => h.setS d.toNat w).done g p i
    match p.wait with
    | .got v => fin s (v.extractLsb' 0 32)
    | .reply _ => s
    | _ =>
      let id := wordId (g.getS a.toNat)
      match s.shTarget g.cx id with
      | .bad => fin s 0xF0000000
      | .own => fin s (BitVec.ofNat 32 (s.shDecide g.cx id .query default).2.1)
      | .proxy v pid =>
        let m : ShMsg := { id := s.nextId, kind := .query, cx := g.cx, sheaf := id, writer := writerOf s g, grp := g.ref,
                           split := some p.id }
        let s1 := ({ s with nextId := s.nextId + 1 } : State).stall g p (.reply m.id)
        s1.podRequest g.cx v 0 (.sheaf m) fun r => .sheaf r .query pid 0 m.writer

end Sys2Proof.Machine
end

