-- ==== Sys2Proof/Machine/Copy.lean ====
section
/-! DEFINITION. The five copy instructions and PFL2 as they issue, and the copy engine's reads and writes (spec/13_barrier.md R257 to
R270, spec/11_line.md R226). -/

namespace Sys2Proof.Machine

/-! ## Addresses of a copy's bytes -/

/-- The layout's global address of byte o of the linear order (R269). -/
def layoutAddr (l : List Nat × List Int × Nat × Nat) (base o : Nat) : Nat :=
  let (ext, str, es, _) := l
  let r := (ext.zip str).foldl (fun (acc : Nat × Int) e => (acc.1 / e.1, acc.2 + (acc.1 % e.1 : Nat) * e.2))
    (o / 2 ^ es, ((base + o % 2 ^ es : Nat) : Int))
  (r.2 % 2 ^ 64).toNat

/-- SWIZ of R269. -/
def swiz (swz o : Nat) : Nat := Nat.xor o (o / 128 % 2 ^ swz * 16)

/-- The scratchpad offset of byte o of the linear order: an element stands together at SWIZ of its offset (R269). -/
def swizAt (l : List Nat × List Int × Nat × Nat) (base o : Nat) : Nat :=
  swiz l.2.2.2 (base + o / 2 ^ l.2.2.1 * 2 ^ l.2.2.1) + o % 2 ^ l.2.2.1

/-- The address of byte o of a row list (R258). -/
def Copy.rowAddr (c : Copy) (base o : Nat) : Nat :=
  (base + c.index.getD (o / c.rowBytes) 0 * c.stride + o % c.rowBytes) % 2 ^ 64

/-- The source is a scratchpad, and the destination is one. -/
def Copy.srcScratch (c : Copy) : Bool := c.dir == .s2g
def Copy.dstScratch (c : Copy) : Bool := c.dir == .g2s

/-- The source address of byte o, a global address or a scratchpad offset. -/
def Copy.srcAt (c : Copy) (o : Nat) : Nat :=
  match c.kind, c.layout with
  | .t, some l => if c.srcScratch then swizAt l c.src o else layoutAddr l c.src o
  | .g, _ => c.rowAddr c.src o
  | _, _ => if c.srcScratch then c.src + o else (c.src + o) % 2 ^ 64

/-- The destination address of byte o. -/
def Copy.dstAt (c : Copy) (o : Nat) : Nat :=
  match c.kind, c.layout with
  | .t, some l =>
    if c.dstScratch then swizAt l c.dst o
    else if c.srcScratch then layoutAddr l c.dst o else (c.dst + o) % 2 ^ 64
  | .s, _ => c.rowAddr c.dst o
  | _, _ => if c.dstScratch then c.dst + o else (c.dst + o) % 2 ^ 64

/-- The bytes from o on that are one run in one line at both ends. -/
def Copy.runAt (c : Copy) (o : Nat) : Nat :=
  let line (scr : Bool) (a : Nat) : Nat := if scr then 2 ^ 24 else 128 - a % 128
  let shape := match c.kind with
    | .t => (c.layout.map fun l => 2 ^ l.2.2.1 - o % 2 ^ l.2.2.1).getD 1
    | .g | .s => c.rowBytes - o % c.rowBytes
    | .l | .x | .p => 2 ^ 24
  max 1 (min shape (min (line c.srcScratch (c.srcAt o)) (line c.dstScratch (c.dstAt o))))

/-- The bytes that a copy reads: COPYX reads its tag too (R267). -/
def Copy.total (c : Copy) : Nat := if c.kind == .x then c.bytes + 16 else c.bytes

/-- Splits the bytes o .. stop - 1 into runs: offset and length. -/
def Copy.runs (c : Copy) : Nat → Nat → Nat → List (Nat × Nat)
  | 0, _, _ => []
  | fuel + 1, o, stop =>
    if o ≥ stop then []
    else
      let edge := if o < c.bytes then min stop c.bytes else stop
      let n := min (c.runAt o) (edge - o)
      (o, n) :: c.runs fuel (o + n) stop

/-! ## The copy engine's accesses -/

/-- What reading a run gave: bytes and whether they are poisoned, no bytes with a status bit, a wait, or a request to the pod. -/
inductive RunRd where
  | data (x : Nat) (poison : Bool)
  | skip (bit : Nat)
  | wait
  | ask
  deriving DecidableEq, Repr, Inhabited

def copyLate : Nat := 0
def copyStale : Nat := 3
def copyAuth : Nat := 4

/-- Reads the n bytes from o of a copy's source (R262). -/
def State.readRun (s : State) (c : Copy) (o n : Nat) : State × RunRd :=
  let a := c.srcAt o
  if c.srcScratch then
    match (s.anyWg? c.cx c.kernel c.wg).or c.srcWg with
    | some w => (s, .data (w.nat a n) false)
    | none => let (x, s1) := s.drawNat; (s1, .data (x % 2 ^ (8 * n)) false)
  else
    match regionOf a with
    | .pod =>
      match c.podData with
      | some (some d) => (s, .data (lineNat d (a % 128) n) c.podPoison)
      | some none => (s, .skip 7)
      | none => (s, .ask)
    | .localTable =>
      match s.engineKey c.cx a .read with
      | (s1, .error .wait) => (s1, .wait)
      | (s1, .error _) => (s1, .skip copyProt)
      | (s1, .ok k) =>
        -- R242 reads a sheaf page, R262 leaves it out
        if k.sh != 0 && c.shm != .pin && !Config.copyReadsSheaf || k.sh == 0 && c.shm == .pin then (s1, .skip copyProt)
        else if c.shm == .pin then
          let (owner, id) := s1.ownerOf c.cx c.shId
          match s1.pinnedLine c.cx owner id c.shVer k with
          | none => (s1, .skip copyStale)
          | some (d, poi) => (s1, .data (if poi then 0 else lineNat d (a % 128) n) poi)
        else
          let (d, poi) := s1.homeRead k
          (s1.homeNote k, .data (if poi then 0 else lineNat d (a % 128) n) poi)
    | .none | .mcast | .trap | .control => (s, .skip copyProt)

/-- Asks for the pod line of a run; an answer sets podData. -/
def State.askRun (s : State) (c : Copy) (o : Nat) : State :=
  if c.podWait.isSome then s
  else
    let va := c.srcAt o / 128 * 128
    let s1 : State := { s with copies := upd (fun x : Copy => x.id == c.id) (fun x => { x with podWait := some s.nextId }) s.copies }
    s1.podRequest c.cx (podVchip va) va (.copyRead c.id) fun r =>
      if c.shm == .pin then
        let (owner, id) := s1.ownerOf c.cx c.shId
        .pinned r 0 va owner id c.shVer
      else .load r va true

/-- A pod write of a copy that awaits its acknowledgement. -/
def State.podWrite (s : State) (c : Copy) (va : Nat) (body : Nat → PktBody) : State :=
  let s1 : State := { s with copies := upd (fun x : Copy => x.id == c.id) (fun x => { x with podOut := x.podOut + 1 }) s.copies }
  s1.podRequest c.cx (podVchip va) va (.copyWrite c.id) body

/-- The line of a copy's run with its mask. -/
def runLine (a n x : Nat) : LineData × LineMask := (lineAt (a % 128) (leBytes n x), maskOf (a % 128) n)

/-- Places bytes in the scratchpads of a copy's targets; a multicast target that has exited discards its share (R265). -/
def State.placeRun (s : State) (c : Copy) (o n x : Nat) : State :=
  c.targets.foldl (fun s t =>
    match s.anyWg? c.cx t.1 t.2 with
    | some w => if w.exited then s else s.mapWg c.cx t.1 t.2 fun w => w.putBytes (c.dstAt o) (leBytes n x)
    | none => s) s

/-- A copy's bytes for one line reach its home; dropped on a poisoned line that they do not cover (R262, R327). -/
def State.copyWrite (s : State) (c : Copy) (k : LineKey) (a : Nat) (d : LineData) (m : LineMask) (poison : Bool) : State :=
  match s.softWrite k d m with
  | (s2, true) =>
    match poison, s2.curLine k with
    | true, some l => s2.setMeta l { s2.lmeta l with poison := true }
    | _, _ => s2
  | (s2, false) => (s2.flagCopy c.id copyProt).impStore c.site causePoison a

def State.linePoisoned (s : State) (k : LineKey) : Bool := (s.homeRead k).2

/-- The chunk that holds byte o writes all 128 bytes of the line of a (R327). -/
def Copy.covers (c : Copy) (o a : Nat) : Bool :=
  let start := o / 1024 * 1024
  let at_ := (List.range (min 1024 (c.bytes - start))).map fun i => c.dstAt (start + i)
  (List.range 128).all fun j => at_.contains (a / 128 * 128 + j)

/-- The bytes of a chunk for a poisoned line are gathered, and written when all of them are there (R327). -/
def State.cureLine (s : State) (c : Copy) (k : LineKey) (a : Nat) (d : LineData) (m : LineMask) (poison : Bool) : State :=
  let va := a / 128 * 128
  let l := ((s.copies.find? fun x => x.id == c.id).map fun x => x.cure).getD []
  let old := ((l.find? fun e => e.1 == va).map (·.2)).getD (0, 0, false)
  let new := (mergeLine old.1 d m, old.2.1 ||| m, old.2.2 || poison)
  let rest := l.filter fun e => e.1 != va
  let keep (s : State) (l : List (Nat × LineData × LineMask × Bool)) : State :=
    { s with copies := upd (fun x : Copy => x.id == c.id) (fun x => { x with cure := l }) s.copies }
  if new.2.1 == BitVec.allOnes 128 then (keep s rest).copyWrite c k va new.1 new.2.1 new.2.2 else keep s (rest ++ [(va, new)])

/-- At the end of a chunk, what it gathered for lines that it did not cover after all is dropped (R327). -/
def State.endCure (s : State) (id : Nat) : State :=
  match s.copies.find? fun x : Copy => x.id == id with
  | none => s
  | some c =>
    c.cure.foldl (fun s e => match s.engineNow c.cx e.1 .write with
      | (s1, some k) => s1.copyWrite c k e.1 e.2.1 e.2.2.1 e.2.2.2
      | (s1, none) => s1.flagCopy c.id copyProt)
      { s with copies := upd (fun x : Copy => x.id == id) (fun x => { x with cure := [] }) s.copies }

/-- Writes the n bytes x at o of a copy's destination (R262, R266). -/
def State.writeRun (s : State) (c : Copy) (o n x : Nat) (poison : Bool) : State :=
  let a := c.dstAt o
  if c.dstScratch then s.placeRun c o n (if poison then 0 else x)
  else
    let (d, m) := runLine a n x
    let openW := c.kind == .x || c.shm == .write
    match regionOf a with
    | .localTable =>
      match s.engineKey c.cx a (if openW then .openWrite else .write) with
      | (s1, .error _) => s1.flagCopy c.id copyProt
      | (s1, .ok k) =>
        if openW then
          let (owner, id) := s1.ownerOf c.cx c.shId
          match s1.openWriteAt c.cx k owner id c.shVer d m none a with
          | (s2, true) => if poison then s2.poisonSlot k c.shVer else s2
          | (s2, false) => s2.flagCopy c.id copyProt
        else if m != BitVec.allOnes 128 && s1.linePoisoned k && c.covers o a then s1.cureLine c k a d m poison
        else s1.copyWrite c k a d m poison
    | .pod =>
      s.podWrite c a fun r =>
        if openW then
          let (owner, id) := s.ownerOf c.cx c.shId
          .openWrite r (a / 128 * 128) owner id c.shVer d m (s.memberTold c.cx owner id a) true poison { c.site with va := a }
        else .merge r (a / 128 * 128) d m poison { c.site with va := a }
    | .mcast =>
      if openW then s.flagCopy c.id copyProt
      else
        let k := (a - Config.mcastBase) / Config.windowBytes
        let off := (a - Config.mcastBase) % Config.windowBytes / 128 * 128
        match (s.ctx? c.cx).bind fun cx => cx.members? k with
        | none => (s.flagCopy c.id copyProt).impStore c.site causeProt a
        | some ms => ms.foldl (fun s v =>
            let va := Config.podBase + v * Config.windowBytes + off
            s.podWrite c va fun r => .merge r va d m poison { c.site with va := a }) s
    | .none | .trap | .control => s.flagCopy c.id copyProt

/-! ## Issue -/

/-- The copy's number and record. -/
def State.copy? (s : State) (id : Nat) : Option Copy := s.copies.find? fun c => c.id == id

def State.updCopy (s : State) (id : Nat) (f : Copy → Copy) : State :=
  { s with copies := upd (fun c : Copy => c.id == id) f s.copies }

/-- Entries of a core's copy front end that a group can still take (R260). -/
def State.frontFree (s : State) (r : GRef) : Nat :=
  let cs := s.copies.filter fun c => c.kind != .p && c.site.grp.core == r.core
  (if cs.any fun c => c.reserved && c.site.grp == r then 0 else 1) + (96 - (cs.filter fun c => !c.reserved).length)

/-- Copies and PFL2 of the split's region so far (R270). -/
def Split.copyCount (p : Split) : Nat := ((p.region.map fun rc => rc.copies.length)).getD 0

/-- A copy or PFL2 enters the record of its region (R270). -/
def State.recordCopy (s : State) (g : Group) (p : Split) (ids : List Nat) (matched : Bool) : State :=
  s.updSplit g.ref p.id fun q =>
    { q with region := q.region.map fun rc =>
        { rc with copies := rc.copies ++ [ids], toMatch := if matched then rc.toMatch.drop 1 else rc.toMatch } }

/-- Copies that the re-executed region has still to match (R270). -/
def Split.toMatch (p : Split) : List (List Nat) := (p.region.map (·.toMatch)).getD []

/-- Matches the next recorded copy of a region that flashback rewound: it issues nothing, and attaches if it still runs (R270). A record
of merged splits may name several. -/
def State.matchCopy (s : State) (g : Group) (p : Split) (i : Instr) (f : Nat) (ids : List Nat) : State :=
  ids.foldl (fun s id =>
    match s.copy? id with
    | none => s
    | some c =>
      let kind : OpKind := if c.kind == .p then .pfl2 id else .copy id
      let pend : PendSet := if c.kind == .p then { sw := [c.regD, c.regD + 1] } else {}
      let (op, s2) := s.attach g p i f pend kind
      s2.updCopy id fun c => { c with op := some op, grp := g.ref }) (s.recordCopy g p ids true)

/-- Barrier n of the workgroups that a copy names counts one copy more outstanding (R253). -/
def State.copyOut (s : State) (cx n : Nat) (targets : List (Nat × Nat)) : State :=
  targets.foldl (fun s t => s.mapWg cx t.1 t.2 fun w => w.setBar n { w.bar n with out := ((w.bar n).out + 1) % 256 }) s

/-- The status word of a completed copy (R264). -/
def Copy.status (c : Copy) : Word :=
  let f : Word := c.flags.zeroExtend 32
  if c.bytes = 0 || (c.shm == .none && c.kind != .x) then f else f ||| sheafWord c.shId c.shVer 0

/-- Some multicast target of a copy has exited (R265). -/
def State.lateTarget (s : State) (c : Copy) : Bool :=
  decide (c.targets.length > 1 || c.targets != [(c.kernel, c.wg)])
  && c.targets.any fun t => ((s.anyWg? c.cx t.1 t.2).map (·.exited)).getD true

/-- The barrier of some live target of a copy is INVALID (R254, R264). -/
def State.noBarrier (s : State) (c : Copy) : Bool :=
  c.cb && c.targets.any fun t => ((s.anyWg? c.cx t.1 t.2).map fun w => !w.exited && !(w.bar c.ctn).isOpen).getD false

/-- A copy completes (R262, R264, R265): its entry frees, and its tag or the barriers of its targets are told. LATE and NOBAR are set for a
copy of count 0 too (DESIGN CHOICE, log 33: R258 gives it status 0, R264 and R265 make no exception). -/
def State.finishCopy (s : State) (c0 : Copy) : State :=
  let late : BitVec 8 := if s.lateTarget c0 then 1 else 0
  let nobar : BitVec 8 := if s.noBarrier c0 then 0x40 else 0
  let c := { c0 with flags := c0.flags ||| late ||| nobar }
  let s1 : State := { s with copies := s.copies.filter fun x => x.id != c.id }
  let tell (s : State) (t : Nat × Nat) : State :=
    let s1 := if c.dstScratch || c.bytes = 0 then s else s.barEvent c.cx t.1 t.2 c.ctn fun b => b.bytes c.bytes
    s1.barEvent c.cx t.1 t.2 c.ctn fun b => ({ b with out := (b.out + 255) % 256 } : Barrier).copyArrive c.flags
  let s2 := if c.cb then c.targets.foldl tell s1 else s1.tagDone c.cx c.kernel c.wg c.ctn c.status
  let s3 := match c.op with
    | none => s2
    | some op => s2.finishOp op
  s3.tryDone c.cx c.kernel

/-- Issues one copy of a checked instruction (R256, R260, R262). A copy of count 0 completes at once; so does a COPYX of count 0, which
opens nothing (DESIGN CHOICE, log 33: R258 gives COPYX a count of 16 bytes or more and names no cause for 0). -/
def State.startCopy (s : State) (g : Group) (p : Split) (i : Instr) (f : Nat) (c0 : Copy) : State :=
  let id := s.nextId
  let s1 : State := { s with nextId := id + 1 }
  let (op, s2) := s1.attach g p i f {} (.copy id)
  let own := !(s2.copies.any fun c => c.kind != .p && c.reserved && c.site.grp == g.ref)
  let c : Copy := { c0 with id := id, op := some op, reserved := own, marker := ((s2.core g.ref.core).pq.map (·.id)) }
  let s3 : State := { s2 with copies := s2.copies ++ [c] }
  let s4 := if c.cb then s3.copyOut g.cx c.ctn c.targets else s3.tagIssue g c.ctn
  let s5 := s4.recordCopy g p [id] false
  if c.bytes = 0 then s5.finishCopy c
  else if c.kind != .x then s5
  else
    s5.sendSh { id := 0, kind := .open_, cx := g.cx, sheaf := c.shId, grp := g.ref, copy := some id,
                writer := { vchip := s5.vchipOf g.cx, gidx := g.gidx, kernel := g.kernel, wg := g.wg } }

/-- A layout record of R268 as COPYT reads it: extents, strides, ESIZE, SWZ; none: a bad handle. -/
def State.layout? (s : State) (cx handle : Nat) : Option (List Nat × List Int × Nat × Nat) :=
  match s.ctx? cx with
  | none => none
  | some c =>
    let pa := c.bindRec.layoutBase + 64 * handle
    if decide (handle ≥ c.bindRec.layoutN) || rdMem s.mem (pa + 0x32) 1 != 1 || rdMem s.mem (pa + 0x30) 2 != cx then none
    else
      some ((List.range 4).map fun d => rdMem s.mem (pa + 2 * d) 2,
            (List.range 4).map fun d => (BitVec.ofNat 64 (rdMem s.mem (pa + 8 + 8 * d) 8)).toInt,
            rdMem s.mem (pa + 0x28) 1, rdMem s.mem (pa + 0x29) 1)

/-- The S registers that a copy names (R257, R258). -/
def copyUses (kind : CopyKind) (c : CopyArgs) : Uses :=
  let reg (glob : Bool) (r : BitVec 6) : List Nat := if glob then [r.toNat, r.toNat + 1] else [r.toNat]
  let n := match kind with
    | .g | .s | .x => 4
    | .l | .t | .p => 1
  useS (reg (c.dir != .g2s) c.d ++ reg (c.dir != .s2g) c.a ++ runRegs c.b.toNat n
    ++ (if c.mc then [c.ms.toNat] else []) ++ (if c.shm == .none then [] else [c.sw.toNat]))

/-- The copy that an instruction describes, before its checks; none: a bad layout handle. -/
def copyOf (s : State) (g : Group) (p : Split) (kind : CopyKind) (c : CopyArgs) : Copy × Bool :=
  let val (glob : Bool) (r : BitVec 6) : Nat := if glob then (g.getSPair (r.toNat / 2)).toNat else (g.getS r.toNat).toNat
  let b (j : Nat) : Nat := (g.getS (c.b.toNat + j)).toNat
  let w := g.getS c.sw.toNat
  let base := ((s.wgOf g).map (·.launchBase)).getD g.wg
  let size := ((s.wgOf g).map (·.launchSize)).getD 1
  let lay := s.layout? g.cx (b 0 % 65536)
  let bytes := match kind with
    | .l | .x | .p => b 0
    | .t => (lay.map fun l => l.1.foldl (· * ·) 1 * 2 ^ l.2.2.1).getD 0
    | .g | .s => b 1 * b 2
  let index := match kind with
    | .g | .s => ((s.wgOf g).map fun w => (List.range (min (b 1) 65536)).map fun r => w.nat (b 0 + 4 * r) 4).getD []
    | .l | .t | .x | .p => []
  let iv := if kind == .x then b 1 * 2 ^ 64 + b 3 * 2 ^ 32 + b 2 else 0
  ({ id := 0, kind := kind, grp := g.ref, cx := g.cx, kernel := g.kernel, wg := g.wg, site := siteOf g p, dir := c.dir,
     dst := val (c.dir != .g2s) c.d, src := val (c.dir != .s2g) c.a, bytes := bytes,
     rowBytes := if kind == .g || kind == .s then b 2 else 0, stride := if kind == .g || kind == .s then b 3 else 0,
     index := index, layout := if kind == .t then lay else none, cb := c.cb, ctn := c.ctn.toNat,
     targets := if c.mc then (filterRange (min 32 size) fun r => (g.getS c.ms.toNat).getLsbD r).map fun r => (g.kernel, base + r)
                else [(g.kernel, g.wg)],
     shm := c.shm, shId := if c.shm == .none then 0 else wordId w, shVer := if c.shm == .none || kind == .x then 0 else wordVer w,
     iv := iv, gidx := g.gidx }, kind != .t || lay.isSome)

/-- The alignment rules of R258. -/
def Copy.aligned (c : Copy) (idx : Nat) : Bool :=
  match c.kind with
  | .l => c.dst % 4 == 0 && c.src % 4 == 0 && c.bytes % 4 == 0
  | .x => c.dst % 4 == 0 && c.src % 4 == 0 && c.bytes % 16 == 0
  | .t =>
    let n := (c.layout.map fun l => 2 ^ l.2.2.1).getD 1
    c.dst % (if c.dstScratch then 4 else n) == 0 && c.src % (if c.srcScratch then 4 else n) == 0
  | .g | .s => idx % 4 == 0 && c.rowBytes % 4 == 0
  | .p => true

/-- Check 4 of R259: the addresses, ranges and counts; idx and rows are the index list of COPYG and COPYS. The range of a scratchpad end is
that of its linear order: that a swizzled element whose base is no multiple of 16 may land behind SCRATCH is not checked (DESIGN CHOICE,
log 33: R269 does not say). -/
def Copy.inBounds (c : Copy) (scratch idx rows : Nat) : Bool :=
  let glob (scr : Bool) (a : Nat) : Bool := scr || decide (a < 2 ^ 57)
  let room (scr : Bool) (a : Nat) : Bool := !scr || decide (a + c.bytes ≤ scratch)
  let lists := c.kind == .g || c.kind == .s
  glob c.dstScratch c.dst && glob c.srcScratch c.src && (c.srcScratch || regionOf c.src != .mcast)
  && room c.dstScratch c.dst && room c.srcScratch c.src
  && (!lists || (decide (idx + 4 * rows ≤ scratch) && decide (rows ≤ 65536) && decide (c.rowBytes ≤ 65536)))
  && decide (c.bytes ≤ 2 ^ 24)

/-- The issue of a copy instruction: matching of R270, the checks of R259 in their order, one copy for each active lane. The instruction
stalls until an entry is free for every active lane (DESIGN CHOICE, log 33: R260 says that a copy stalls when no entry is free). -/
def copyOp (s : State) (i : Instr) (kind : CopyKind) (c : CopyArgs) : Out :=
  issueLong s i c.fs (copyUses kind c) fun g p f =>
    let n := (lanesOf p.exec).length
    let again := p.toMatch.take n
    let left := n - again.length
    let fin (s : State) : State := if kind == .x then (s.commit g p).done g p i else s.done g p i
    let pre (k : State) : State := if kind == .x then gated s g p k else k
    let idx := (g.getS c.b.toNat).toNat
    let rows := (g.getS (c.b.toNat + 1)).toNat
    let mask := g.getS c.ms.toNat
    let size := ((s.wgOf g).map (·.launchSize)).getD 1
    let (c0, ok) := copyOf s g p kind c
    let e := (c0.shId, c0.shVer)
    pre
      (if n = 0 then fin s
       else if !s.flagRoom g f n then s.stall g p .poll
       else if left = 0 then fin (again.foldl (fun s ids => s.matchCopy g p i f ids) s)
       else if !c.cb && (decide (n > 1) || s.tagOut g c.ctn.toNat) then s.trap g p i cTAGBUSY
       else if c.mc && (mask == 0 || decide (mask.toNat ≥ 2 ^ size) || c.dir != .g2s) then s.trap g p i cCOPYMASK
       else if !c0.aligned idx then s.trap g p i cALIGN
       else if !ok || !c0.inBounds (((s.wgOf g).map (·.scratchBytes)).getD 0) idx rows
           || (kind != .x && c.shm == .write && !g.opens.contains e)
           || (c.shm == .pin && !g.pins.any fun q => (q.1, q.2.1) == e) then s.trap g p i cPROT
       else if p.copyCount + n > 128 then s.trap g p i cQUOTA 2
       else if s.frontFree g.ref < left then s.stall g p .poll
       else
         let s1 := again.foldl (fun s ids => s.matchCopy g p i f ids) s
         fin ((List.range left).foldl (fun s _ => s.startCopy g p i f c0) s1))

/-- COPYL (R257, R258). -/
def execCopyl (c : CopyArgs) (s : State) : Out := copyOp s (.copyl c) .l c

/-- COPYT: by a layout record (R268, R269). -/
def execCopyt (c : CopyArgs) (s : State) : Out := copyOp s (.copyt c) .t c

/-- COPYG: gathers rows (R258). -/
def execCopyg (c : CopyArgs) (s : State) : Out := copyOp s (.copyg c) .g c

/-- COPYS: scatters rows (R258). -/
def execCopys (c : CopyArgs) (s : State) : Out := copyOp s (.copys c) .s c

/-- COPYX: decrypts into a sheaf version that it opens; a commit (R267). -/
def execCopyx (c : CopyArgs) (s : State) : Out := copyOp s (.copyx c) .x c

/-- The address of PFL2 takes PROT (R218, R314). DEDUCED (log 46): its start address does; a later line of the range that reaches the
multicast aperture is counted as skipped (R226). -/
def pfl2Prot (start : Nat) : Bool := decide (start ≥ 2 ^ 57) || regionOf start == .mcast

/-- PFL2: once per issue (R226, R270). -/
def execPfl2 (fs loc : Bool) (d a : BitVec 5) (t : BitVec 6) (lines : BitVec 24) (s : State) : Out :=
  let i : Instr := .pfl2 fs loc d a t lines
  issueLong s i fs (useS (pairRegs d.toNat ++ pairRegs a.toNat)) fun g p f =>
    let start := (g.getSPair a.toNat).toNat
    if !s.flagRoom g f 1 then s.stall g p .poll
    else
      match p.toMatch with
      | ids :: _ => (s.matchCopy g p i f ids).done g p i
      | [] =>
        if s.tagOut g t.toNat then s.trap g p i cTAGBUSY
        else if pfl2Prot start then s.trapAt g p i cPROT p.exec start 0
        else if p.copyCount + 1 > 128 then s.trap g p i cQUOTA 2
        else
          let id := s.nextId
          let s1 : State := { s with nextId := id + 1 }
          let (op, s2) := s1.attach g p i f { sw := pairRegs d.toNat } (.pfl2 id)
          let c : Copy := { id := id, kind := .p, grp := g.ref, cx := g.cx, kernel := g.kernel, wg := g.wg, site := siteOf g p,
                            dir := .g2g, dst := 0, src := start / 128 * 128, bytes := lines.toNat + 1,
                            cb := false, ctn := t.toNat, shm := .none, shId := 0, shVer := 0, op := some op,
                            regD := 2 * d.toNat, loc := loc, gidx := g.gidx }
          let s3 : State := { s2 with copies := s2.copies ++ [c] }
          (((s3.tagIssue g t.toNat).recordCopy g p [id] false)).done g p i

end Sys2Proof.Machine
end

