-- ==== Sys2Proof/Machine/Link.lean ====
section
/-! DEFINITION. SEND and RECV (spec/17_link.md R355 to R358). -/

namespace Sys2Proof.Machine

/-- SEND (R356): a commit. It stalls while a VPOD holds the context's requests (R338) or the destination is held (R348). -/
def execSend (m : BitVec 3) (d a b : BitVec 6) (s : State) : Out :=
  let i : Instr := .send m d a b
  issue s i (useS (d.toNat :: a.toNat :: runRegs b.toNat (2 ^ m.toNat))) fun g p =>
    gated s g p
      (let w := g.getS a.toNat
       let fin (s : State) (st : Nat) : State :=
         ((s.updGroup g.ref fun h => h.setS d.toNat (BitVec.ofNat 32 st)).commit g p).done g p i
       if w.extractLsb' 28 4 != 0 then fin s statusBadarg
       else if s.vpodHolds g.cx then s.stall g p .poll
       else
         let dest := (w.extractLsb' 0 12).toNat
         let label := (w.extractLsb' 12 16).toNat
         let body : PktBody := .send ((runRegs b.toNat (2 ^ m.toNat)).map g.getS) (siteOf g p)
         match ((s.ctx? g.cx).map fun c => c.egress dest label).getD (.error statusNovchip) with
         | .error st => fin s st
         | .ok (_, _, pkg, cxid, vlink) =>
           if s.destHolds { pkg := pkg, cxid := cxid, vlink := vlink, loopback := pkg == s.bar.link.pkgid, body := body } then
             s.stall g p .poll
           else fin (s.podSend g.cx dest label body).1 statusOk)

/-- The messages that splits of a context have reserved, resident or saved, in a handler or not (R358). -/
def State.reservedMsgs (s : State) (cx : Nat) : List Nat :=
  ((s.groups ++ s.images.flatMap fun im => im.groups).filter fun g => g.cx == cx).flatMap fun g =>
    (g.splits ++ (match g.trapRec with
      | none => []
      | some t => [t.split])).flatMap fun p =>
        match p.region with
        | none => []
        | some rc => rc.msgs

/-- The header word of RECV (R358). -/
def recvWord (st len src : Nat) : Word := BitVec.ofNat 32 (st * 2 ^ 28 + len * 65536 + src % 4096)

/-- Writes entry k of a split's RECVs (R358); a message that a merged split had at this entry stays reserved (R124). -/
def RegionRec.setRecv (rc : RegionRec) (k : Nat) (m : Option Nat) : RegionRec :=
  let old := ((rc.recvs[k]?).bind id).toList.filter fun x => some x != m
  { rc with recvs := (rc.recvs ++ List.replicate (k + 1 - rc.recvs.length) none).set k m, recvHeld := rc.recvHeld ++ old }

/-- DELIVER of R358. -/
def State.deliver (s : State) (r : GRef) (d a cap src : Nat) (payload : List Word) : State :=
  (s.acquire r.core .pod).updGroup r fun g =>
    let g1 := (List.range cap).foldl (fun g j => g.setS (d + j) (payload.getD j 0)) g
    g1.setS a (recvWord 0 payload.length src)

/-- The oldest message that no split has reserved; corrupted records on the way are discarded with MEMERR (R346, R358). -/
def State.nextMsg (s : State) (cx : Nat) : Nat → State × Option (Nat × Nat × List Word)
  | 0 => (s, none)
  | fuel + 1 =>
    match s.ctx? cx with
    | none => (s, none)
    | some c =>
      let held := s.reservedMsgs cx
      let msgs := c.gran.recs.filter fun e => !held.contains e.1 && (match e.2.2 with
        | .msg .. => true
        | .req .. => false)
      match msgs with
      | [] => (s, none)
      | e :: _ =>
        if s.granCorrupt c e.1 e.2.1 e.2.2 then
          let s1 := s.updCtx cx fun c =>
            { c with gran := ({ c.gran with recs := c.gran.recs.filter fun x => x.1 != e.1 } : Granary).freed c.bindRec.granSize }
          (s1.emit (.memErr ((c.gran.lines c.bindRec.granSize e.2.1 64).headD 0))).nextMsg cx fuel
        else
          match e.2.2 with
          | .msg src payload => (s, some (e.1, src, payload))
          | .req .. => (s, none)

/-- The message that entry k of a split's region record holds, as a RECV finds it when it issues (R358). -/
def State.recvKnown (s : State) (g : Group) (split k : Nat) : Option (Nat × List Word) :=
  (((g.split? split).bind fun p => p.region.bind fun rc => (rc.recvs[k]?).bind id).bind fun m =>
    (s.ctx? g.cx).bind fun c => c.gran.recs.find? fun e => e.1 == m).bind fun e => match e.2.2 with
      | .msg src payload => some (src, payload)
      | .req .. => none

/-- RECV entry k of a split, which holds no message, as far as it can be decided now; the answer is false where it has to wait (R358). -/
def State.recvNow (s : State) (g : Group) (split d a cap k : Nat) (nw : Bool) : State × Bool :=
  let note (s : State) (m : Option Nat) : State :=
    s.updSplit g.ref split fun q => { q with region := q.region.map fun rc => rc.setRecv k m }
  let put (s : State) (w : Word) : State := s.updGroup g.ref fun h => h.setS a w
  let n := ((s.ctx? g.cx).map fun c => c.gran.recs.length).getD 0
  match s.nextMsg g.cx (n + 1) with
  | (s1, some (m, src, payload)) =>
    if payload.length > cap then (put (note s1 none) (recvWord 2 payload.length src), true)
    else (note (s1.deliver g.ref d a cap src payload) (some m), true)
  | (s1, none) => if nw then (put (note s1 none) 0x10000000, true) else (s1, false)

/-- RECV (R357, R358). -/
def execRecv (fs : Bool) (cap : BitVec 2) (d a : BitVec 6) (nw : Bool) (s : State) : Out :=
  let i : Instr := .recv fs cap d a nw
  let n := 4 * 2 ^ cap.toNat
  issueLong s i fs (useS (a.toNat :: runRegs d.toNat n)) fun g p f =>
    if !s.flagRoom g f 1 then s.stall g p .poll
    else
      let k := (p.region.map (·.recvCount)).getD 0
      let s0 := s.updSplit g.ref p.id fun q => { q with region := q.region.map fun rc => { rc with recvCount := k + 1 } }
      let r := match s0.recvKnown g p.id k with
        | some (src, payload) => (s0.deliver g.ref d.toNat a.toNat n src payload, true)
        | none => s0.recvNow g p.id d.toNat a.toNat n k nw
      match r with
      | (s1, true) => s1.done g p i
      | (s1, false) =>
        ((s1.attach g p i f { sw := a.toNat :: runRegs d.toNat n } (.recv d.toNat a.toNat n k)).2).done g p i

end Sys2Proof.Machine
end

