-- ==== Sys2Proof/Machine/LineEvents.lean ====
section
/-! DEFINITION. What the caches, the publish queues and the homes of lines do without an instruction: fetches, publications,
invalidations, pushes, atomics at their homes, watches, and the return of loads (spec/10_phase.md R190 to R205, spec/11_line.md R207 to
R228). The operands name an entry of the list that holds such messages; a number that names none has no effect. -/

namespace Sys2Proof.Machine

/-! ## Fetches -/

/-- A fill that the core must not install any more, because a newer value of the line has reached the core (R194 item 5). -/
def State.staleFills (s : State) (core : Nat) (k : LineKey) : State :=
  { s with fills := upd (fun f => f.core == core && f.key.same k) (fun f => { f with install := false }) s.fills,
           reqs := upd (fun r => match r.kind with
             | .fill c x _ _ => c == core && x.same k
             | _ => false) (fun r => { r with install := false }) s.reqs }

/-- A merge of the line waits for its invalidations (R191). -/
def State.merging (s : State) (k : LineKey) : Bool := s.merges.any fun m => m.key.same k

/-- Changes the lines of a load. -/
def PendOp.mapLines (o : PendOp) (p : LineWait → Bool) (f : LineWait → LineWait) : PendOp :=
  match o.kind with
  | .load uni d nar accs lines mask => { o with kind := .load uni d nar accs (upd p f lines) mask }
  | _ => o

def OpKind.lines : OpKind → List LineWait
  | .load _ _ _ _ lines _ => lines
  | .lds .. | .atom .. | .atoms .. | .watch .. | .pfl2 .. | .copy _ | .tffr .. | .mma _ | .board .. | .lapwait .. | .shseal .. | .shpin ..
  | .shld .. | .recv .. | .xchg .. => []

/-- An earlier load of the core has not been served its copy of the line: fetches of one core and line keep their order (R194). -/
def State.fetchAhead (s : State) (o : PendOp) (k : LineKey) : Bool :=
  s.ops.any fun q => decide (q.id < o.id) && q.grp.core == o.grp.core && q.kind.lines.any fun w => w.key.same k && w.st == .needed

/-- A read of a line for a core at its home, or at a C copy of the core's sector (R213): the line, its poison, and the state with a C
copy under way where the read makes one (R214). -/
def State.serveRead (s : State) (core : Nat) (k : LineKey) : State × LineData × Bool :=
  let sec := coreSector core
  match s.ccopies.find? fun c => c.key.same k && c.sector == sec with
  | some c => (s, c.data, false)
  | none =>
    let (d, poi) := s.homeRead k
    let s1 := (s.homeNote k).l2Touch k false
    if poi || !s.mayCopy k sec then (s1, d, poi)
    else
      match s1.drawBool with
      | (false, s2) => (s2, d, false)
      | (true, s2) =>
        ({ s2 with cfills := s2.cfills ++ [{ key := k, sector := sec, data := d }],
                   l2 := upd (fun l => l.key.same k) (fun l => { l with presence := l.presence ||| BitVec.ofNat 6 (2 ^ sec) }) s2.l2 },
         d, false)

/-- The rate-limiter classes of a fetch: none where a C copy of the core's sector serves it. -/
def State.readClasses (s : State) (core : Nat) (k : LineKey) : List Nat :=
  if s.ccopies.any fun c => c.key.same k && c.sector == coreSector core then [] else s.lineClasses core k

/-- HOME_READ of line k of a load (R213). -/
def execHomeRead (op k : Nat) (s : State) : Out :=
  .next (match s.op? op with
    | none => s
    | some o =>
      match o.kind.lines[k]? with
      | none => s
      | some w =>
        if w.st != .needed || w.key.pod || s.merging w.key || s.fetchAhead o w.key then s
        else
          match s.takeRequest w.key.cx (s.readClasses o.grp.core w.key) 128 with
          | none => s
          | some s0 =>
          let (s1, d, poi) := s0.serveRead o.grp.core w.key
          let s2 := s1.updOp op fun o => o.mapLines (fun x => x.key == w.key) fun x => { x with st := .served }
          { s2 with fills := s2.fills ++ [{ core := o.grp.core, key := w.key, data := d, poison := poi, acqs := w.acqs, op := op }] })

/-- CFILL: a copy arrives at a slice of another sector (R213). -/
def execCfill (k : Nat) (s : State) : Out :=
  .next (match s.cfills[k]? with
    | none => s
    | some m => ({ s with cfills := s.cfills.eraseIdx k } : State).putCopy m.key m.sector m.data)

/-- The fetched line is installed in V (R209). Of a line that the L1 holds, the dirty bytes stay, and the others are as fetched (R194,
R198). -/
def Core.install (c : Core) (k : LineKey) (data : LineData) (now : Nat) : Core :=
  match c.line? k with
  | some _ =>
    { c with l1 := upd (fun l => l.key.same k) (fun l =>
        { l with data := mergeLine data l.data l.dirty, valid := BitVec.allOnes 128 }) c.l1 }
  | none =>
    match c.makeRoom with
    | none => c
    | some c1 =>
      { c1 with l1 := c1.l1 ++ [{ key := k, st := .V, data := data, valid := BitVec.allOnes 128, age := now, refd := now }] }

/-! ## Publications -/

/-- The merge of an entry is performed at its home; bytes dropped because the line is poisoned are an imprecise fault (R157, R327). -/
def State.mergeEntry (s : State) (m : MergeMsg) : State :=
  let (s1, ok) := s.softWrite m.key m.data m.mask
  let s2 := if ok then s1 else s1.impStore m.site causePoison (s1.entryVa m.core m.entry)
  s2.updCore m.core fun c => c.mergeAck m.entry

/-- The merges of a line that waited for the last of its acknowledgements (R191). -/
def State.mergeAcked (s : State) (k : LineKey) : State :=
  if s.invals.any fun m => m.key.same k then s
  else
    let ms := s.merges.filter fun m => m.key.same k
    ms.foldl State.mergeEntry { s with merges := s.merges.filter fun m => !m.key.same k }

/-- Sends the merge of an entry to the vchips that home it (R331, R335). -/
def State.podMerge (s : State) (core : Nat) (e : PqEntry) (data : LineData) (mask : LineMask) : State :=
  let va := 128 * e.key.n
  let send (s : State) (a : Nat) : State :=
    s.podRequest e.key.cx (podVchip a) a (.merge core e.id e.site) fun r => .merge r a data mask false { e.site with va := e.va }
  let put (n : Nat) : State :=
    s.updCore core fun c => { c with pq := upd (fun x => x.id == e.id) (fun x =>
      { x with phase := if n = 0 then .merged else .arrived, homesLeft := n, data := data, mask := mask }) c.pq }
  if !e.key.mcast then send (put 1) va
  else
    match (s.ctx? e.key.cx).bind fun c => c.members? ((va - Config.mcastBase) / Config.windowBytes) with
    | none => (put 0).impStore e.site causeProt e.va
    | some vs =>
      vs.foldl (fun s v => send s (Config.podBase + v * Config.windowBytes + (va - Config.mcastBase) % Config.windowBytes)) (put vs.length)

/-- The dirty bytes of entry k of a core arrive at their home (R191, R213). They are merged at once where the home knows of no copy, else
when the last invalidation is acknowledged. Entries of one line keep their order. -/
def State.homeMerge (s : State) (core k : Nat) : State :=
  let c := s.core core
  match c.pq[k]? with
  | none => s
  | some e =>
    let ahead := (c.pq.take k).any fun x => x.key.same e.key
    if e.phase != .waiting || e.ow.isSome || ahead || s.merging e.key then s
    else
      let (data, mask) := match c.line? e.key with
        | none => (e.data, e.mask)
        | some l => (l.data, e.mask &&& l.dirty)
      if e.key.pod then s.podMerge core e data mask
      else
        match s.takeRequest e.key.cx (s.lineClasses core e.key) (maskBytes mask) with
        | none => s
        | some s =>
        let m : MergeMsg := { key := e.key, core := core, entry := e.id, data := data, mask := mask, site := e.site }
        let s1 := s.updCore core fun c => { c with pq := upd (fun x => x.id == e.id) (fun x =>
          { x with phase := .arrived, data := data, mask := mask }) c.pq }
        let out := s.copiesOf e.key
        if out.isEmpty then s1.mergeEntry m
        else
          { s1 with merges := s1.merges ++ [m],
                    invals := s1.invals ++ out.map fun x => { key := e.key, core := x.1, sector := x.2 } }

/-- HOME_MERGE (R191, R213). -/
def execHomeMerge (core k : Nat) (s : State) : Out := .next (s.homeMerge core k)

/-- The first entry of a line, or of any line, that has not begun to publish. -/
def Core.waiting? (c : Core) (p : LineKey → Bool) : Option Nat := c.pq.findIdx? fun e => p e.key && e.phase == .waiting && e.ow.isNone

/-- The line that a core must give up next holds unpublished bytes: its publication begins (R211). -/
def State.evictDirty (s : State) (core : Nat) : State :=
  match (s.core core).dirtyVictim?.bind fun v => (s.core core).waiting? fun k => k.same v.key with
  | none => s
  | some k => s.homeMerge core k

/-- The oldest entry of a full publish queue begins to publish (R190). -/
def State.drainOldest (s : State) (core : Nat) : State :=
  match (s.core core).pq.findIdx? fun e => e.phase == .waiting with
  | none => s
  | some k => if (((s.core core).pq[k]?).bind fun e => e.ow).isSome then s.openPublish core k else s.homeMerge core k

/-- The core holds the line, or has room for it. -/
def Core.hasRoom (c : Core) (k : LineKey) : Bool := (c.line? k).isSome || c.makeRoom.isSome

/-- L1_FILL (R209). The line is installed unless an ACQ has passed since the request (R199). Where it needs the place of a line with
unpublished bytes, that line is published first, and the fill waits (R211). -/
def execL1Fill (k : Nat) (s : State) : Out :=
  .next (match s.fills[k]? with
    | none => s
    | some f =>
      let keeps := !(f.poison || f.refused || !f.install || (s.core f.core).acqs != f.acqs)
      if keeps && !(s.core f.core).hasRoom f.key then s.evictDirty f.core
      else
        let s1 : State := { s with fills := ((s.fills.zipIdx).map fun e =>
          if e.2 < k ∧ e.1.core = f.core ∧ e.1.key.same f.key then { e.1 with install := false } else e.1).eraseIdx k }
        let s2 := s1.updOp f.op fun o => o.mapLines (fun w => w.key.same f.key && w.st == .served) fun w =>
          { w with st := .got, data := mergeLine f.data w.data w.own, poison := f.poison, refused := f.refused }
        if keeps then s2.updCore f.core fun c => c.install f.key f.data s.cycle else s2)

/-- The L1 line of a published entry: its bytes are clean but for those of stores since (R191, R209). -/
def Core.clean (c : Core) (e : PqEntry) : Core :=
  let rest := c.pq.filter fun x => x.id != e.id && x.key.same e.key && x.ow.isNone
  let still := rest.foldl (fun (m : LineMask) x => m ||| x.mask) 0
  { c with pq := c.pq.filter fun x => x.id != e.id,
           l1 := upd (fun l => l.key.same e.key) (fun l =>
             let d := l.dirty &&& (~~~e.mask ||| still)
             { l with dirty := d, st := if d = 0 then .V else if rest.any fun x => x.push != 0 then .DS else .D,
                      age := if d = 0 then l.refd else l.age }) c.l1 }

/-- $SOWREF of the group that issued a SOW (R210). -/
def State.sowRefused (s : State) (si : Site) (n : Nat) : State :=
  s.mapSite si fun g =>
    { g with sowref := BitVec.ofNat 32 (min (2 ^ 32 - 1) (g.sowref.toNat + n)) }

/-- A refused push adds 1 to $SOWREF of each group whose SOW named the target (R210). -/
def State.refusePush (s : State) (m : PushMsg) : State :=
  let who := (m.sites.map fun si => ({ si with split := 0, pc := 0, regcnt := 0, grp := default } : Site)).dedup
  who.foldl (fun s si => s.sowRefused si 1) s

/-- PUBLISH: an entry that its homes have merged is published (R191), and its pushes leave (R203). An open write that the home of another
vchip has applied leaves the queue (R236). -/
def execPublish (core k : Nat) (s : State) : Out :=
  .next (match (s.core core).pq[k]? with
    | none => s
    | some e =>
      if e.phase != .merged then s
      else if e.ow.isSome then s.updCore core fun c => { c with pq := c.pq.filter fun x => x.id != e.id }
      else
        let s1 := (s.updCore core fun c => c.clean e).staleFills core e.key
        if e.key.pod then s1
        else
          let (d, poi) := s1.homeRead e.key
          let cores := filterRange 32 fun i => e.push.getLsbD i
          let msg (i : Nat) : PushMsg :=
            { core := 32 * coreCluster core + i, key := e.key, data := d, entry := e.id,
              sites := ((e.sows.filter fun x => x.2.getLsbD i).map (·.1)).dedup }
          if poi then (cores.map msg).foldl State.refusePush s1
          else { s1 with pushes := s1.pushes ++ cores.map msg })

/-! ## Invalidations and pushes -/

def State.inval (s : State) (k : Nat) (pushed : Bool) : State :=
  match s.invals[k]? with
  | none => s
  | some m =>
    if m.core.isSome != pushed then s
    else
      (({ s with invals := s.invals.eraseIdx k } : State).invalCopy m.key m.core m.sector).mergeAcked m.key

/-- C_INVAL: a C copy is dropped and acknowledged (R213). -/
def execCInval (k : Nat) (s : State) : Out := .next (s.inval k false)

/-- PUSH_INVAL: a pushed copy is dropped and acknowledged (R209). -/
def execPushInval (k : Nat) (s : State) : Out := .next (s.inval k true)

/-- A push that the target accepts leaves the line in P; none: refused (R209). -/
def Core.takePush (c : Core) (k : LineKey) (data : LineData) (eligible : Bool) (now : Nat) : Option Core :=
  let p : L1Line := { key := k, st := .P, data := data, valid := BitVec.allOnes 128, age := now, refd := now }
  let put (c : Core) : Core := { c with l1 := putFirst (fun l => l.key.same k) p c.l1 }
  let room := eligible && decide ((c.l1.filter fun l => l.st == .P).length < 64)
  match c.line? k with
  | none => if room then c.makeRoom.map put else none
  | some l => match l.st with
    | .D | .DS => none
    | .P => some (put c)
    | .V => if room then some (put c) else none

/-- An eligible push within the quota needs the place of a line with unpublished bytes, which is published first (R211). -/
def Core.pushWaits (c : Core) (k : LineKey) : Bool := decide ((c.l1.filter fun l => l.st == .P).length < 64) && !c.hasRoom k

/-- PUSH: a pushed line arrives at a core (R203, R209, R210). -/
def execPush (k : Nat) (s : State) : Out :=
  .next (match s.pushes[k]? with
    | none => s
    | some m =>
      let s1 : State := { s with pushes := s.pushes.eraseIdx k }
      let eligible := s.wgs.any fun w => w.core == m.core && w.cx == m.key.cx && !w.exited
      if eligible && (s.core m.core).pushWaits m.key then s.evictDirty m.core else
      match (s1.core m.core).takePush m.key m.data eligible s.cycle with
      | none => s1.refusePush m
      | some c =>
        let s2 := (s1.updCore m.core fun _ => c).staleFills m.core m.key
        { s2 with pushed := putFirst (fun p => p.1.same m.key && p.2 == m.core) (m.key, m.core) s2.pushed })

/-! ## Atomics -/

/-- The core publishes its own bytes of the line before an atomic leaves, and its line becomes I (R201). -/
def State.leaveLine (s : State) (core : Nat) (k : LineKey) : State :=
  (s.updCore core fun c => { c with l1 := c.l1.filter fun l => !l.key.same k }).staleFills core k

/-- The atomic of one lane at its home on this module (R224): the old value, or POISON (R327). -/
def State.performAtomic (s : State) (k : LineKey) (off : Nat) (w64 : Bool) (op : Option Aop) (v cmp : DWord) :
    State × Except Unit DWord :=
  let size := if w64 then 8 else 4
  let (d, poi) := s.homeRead k
  if poi then (s.homeNote k, .error ())
  else
    let old := lineNat d off size
    let m := 2 ^ (8 * size)
    let new := aopNew op (8 * size) old (v.toNat % m) (cmp.toNat % m)
    let keeps := (op.isNone || op == some .cas) && old != cmp.toNat % m
    let s0 := s.homeNote k
    let s1 := if keeps then (s0.dropCopies k).l2Touch k true else (s0.softWrite k (lineAt off (leBytes size new)) (maskOf off size)).1
    (s1, .ok (BitVec.ofNat 64 old))

/-- Some lane of an atomic reaches a poisoned line of this module, so that none is performed (R218; log 46 for what comes later). -/
def State.atomPoisoned (s : State) (lanes : List AtomLane) : Bool :=
  lanes.any fun x => !x.key.pod && x.ctl.isNone && (x.fate == causePoison || (x.reply.isNone && (s.homeRead x.key).2))

/-- The atomic of a lane may leave its core now: the core's own entries of the line are published, and lower lanes that reach the same
bytes have been performed (R201, R224). -/
def State.atomReady (s : State) (o : PendOp) (l : AtomLane) (lanes : List AtomLane) : Bool :=
  l.reply.isNone && !l.sent && l.ctl.isNone
  && !((s.core o.grp.core).pq.any fun e => e.key.same l.key && e.ow.isNone)
  && !(lanes.any fun x => decide (x.lane < l.lane) && x.reply.isNone && x.ctl.isNone && x.key.same l.key && x.off == l.off)

/-- ATOMIC_AT_HOME: the request of a lane is performed at its home; one of the pod leaves as a packet (R201, R224). -/
def execAtomicAtHome (op lane : Nat) (s : State) : Out :=
  .next (match s.anyOp? op with
    | none => s
    | some o =>
      match o.kind, o.lane? lane with
      | .atom w64 aop _ _ _ _ lanes, some l =>
        if !s.atomReady o l lanes || s.merging l.key then s
        else
          let s1 := s.leaveLine o.grp.core l.key
          if l.key.pod then
            (s1.mapOp op fun o => o.mapLane lane fun l => { l with sent := true }).podRequest l.key.cx (podVchip l.va) l.va
              (.atomic op lane) fun r => .atomic r lane l.va w64 aop l.v l.cmp
          else
            if s1.atomPoisoned lanes && !(s1.homeRead l.key).2 then s1.mapOp op fun o => o.mapLane lane fun l => { l with reply := some 0 }
            else
            match s1.takeRequest l.key.cx (s1.lineClasses o.grp.core l.key) (if w64 then 8 else 4) with
            | none => s
            | some s1 =>
            match s1.performAtomic l.key l.off w64 aop l.v l.cmp with
            | (s2, .ok old) => s2.mapOp op fun o => o.mapLane lane fun l => { l with reply := some old }
            | (s2, .error _) => s2.mapOp op fun o => o.mapLane lane fun l => { l with reply := some 0, fate := causePoison }
      | _, _ => s)

/-- Ends an operation with a cause found after its issue (R218). -/
def State.failOp (s : State) (o : PendOp) (cause : Cause) (lanes : LaneMask) (addr detail : Nat) : State :=
  (s.raiseLater o cause lanes addr detail).finishOp o.id

/-- The words of an atomic's old value. -/
def replyWords (w64 : Bool) (v : DWord) : List Word := if w64 then [v.extractLsb' 0 32, v.extractLsb' 32 32] else [v.extractLsb' 0 32]

/-- The acquire of an operation of a resident group; that of a saved one is due at its group's restore (R146, R201). -/
def State.acquireOf (s : State) (o : PendOp) (sc : Scope) : State :=
  if (s.op? o.id).isSome then (if o.grp.gctx < 32 then s.acquire o.grp.core sc else s)
  else if !wideScope sc then s
  else s.withOpGroup o fun g => { g with acqDue := true }

/-- ATOMIC_REPLY: every reply is here (R224, R225); an access that a home refused is raised (R336, R327). -/
def execAtomicReply (op : Nat) (s : State) : Out :=
  .next (match s.anyOp? op with
    | none => s
    | some o =>
      match o.kind with
      | .atom w64 _ noret sc ord d lanes =>
        if lanes.any fun l => l.reply.isNone then s
        else
          let bad := lanes.filter fun l => l.fate != 0
          match bad.head? with
          | some b =>
            s.failOp o (bad.foldl (fun (c : Cause) l => c ||| causeBit l.fate) 0) (maskOfLanes (bad.map (·.lane))) b.va 0
          | none =>
            let s1 := if noret then s else s.withOpGroup o fun g => lanes.foldl (fun g l =>
              g.putWords false d l.lane (replyWords w64 (l.reply.getD 0))) g
            (if AOrd.acqs ord then s1.acquireOf o sc else s1).finishOp op
      | .atoms w64 noret d replies =>
        (if noret then s else s.withOpGroup o fun g => replies.foldl (fun g r =>
          g.putWords false d r.1 (replyWords w64 r.2)) g).finishOp op
      | _ => s)

/-! ## Watches -/

/-- Entries of a slice's watch table that are taken (R228). -/
def State.watchesIn (s : State) (slice : Nat) : Nat :=
  (s.ops.filter fun o => match o.kind with
    | .watch _ _ _ _ _ _ _ _ _ held woken => held == some slice && woken.isNone
    | _ => false).length
  + (s.rwatches.filter fun w => s.homeSlice w.key == slice).length

/-- The marks of a watch that is not in a table: returned to its core (R228), or at the home of another vchip. -/
def watchReturned : Nat := 1000
def watchRemote : Nat := 2000

def PendOp.setWatch (o : PendOp) (held : Option Nat) (woken : Option DWord) (now : Nat) : PendOp :=
  match o.kind with
  | .watch va k off cmp u w64 v sc d _ _ => { o with kind := .watch va k off cmp u w64 v sc d held woken, issued := now }
  | _ => o

def PendOp.setKey (o : PendOp) (k : LineKey) : PendOp :=
  match o.kind with
  | .watch va _ off cmp u w64 v sc d held woken => { o with kind := .watch va k off cmp u w64 v sc d held woken }
  | _ => o

/-- WAKE of R227: D, then the acquire, then the flag (R202). A watch that a restore has installed waits for its WATCH (R145). -/
def State.wakeWatch (s : State) (o : PendOp) (w64 : Bool) (sc : Scope) (d : Nat) (x : DWord) : State :=
  if o.flag == flagRecorded then s.updOp o.id fun o => o.setWatch none (some x) o.issued
  else ((s.withOpGroup o fun g => g.putWords true d 0 (replyWords w64 x)).acquireOf o sc).finishOp o.id

/-- A watch arrives at its home on this module: compared, then woken, held, or returned (R227, R228). -/
def State.postWatch (s : State) (o : PendOp) (k : LineKey) (off : Nat) (cmp : WCmp) (u w64 : Bool) (v : DWord) (sc : Scope) (d va : Nat) :
    State :=
  let (l, poi) := s.homeRead k
  let x := lineNat l off (if w64 then 8 else 4)
  let s := s.homeNote k
  if poi then s.failOp o cPOISON (s.opExec o) va 0
  else if watchHolds cmp u w64 x v.toNat then s.wakeWatch o w64 sc d (BitVec.ofNat 64 x)
  else if s.watchesIn (s.homeSlice k) < 256 then s.updOp o.id fun o => o.setWatch (some (s.homeSlice k)) none o.issued
  else s.updOp o.id fun o => o.setWatch (some watchReturned) none s.cycle

/-- A watch goes to its home, on this module or by a packet to another vchip (R227). -/
def State.sendWatch (s : State) (o : PendOp) (k : LineKey) (off : Nat) (cmp : WCmp) (u w64 : Bool) (v : DWord) (sc : Scope) (d va : Nat) :
    State :=
  if k.pod then
    (s.updOp o.id fun o => o.setWatch (some watchRemote) none o.issued).podRequest k.cx (podVchip va) va (.watch o.id) fun r =>
      .watch r va cmp u w64 v
  else
    match s.takeRequest k.cx (s.lineClasses o.grp.core k) (if w64 then 8 else 4) with
    | none => s
    | some s => s.postWatch o k off cmp u w64 v sc d va

/-- A watch that is not posted goes to its home; one that a write has woken completes (R227). -/
def State.watchPost (s : State) (op : Nat) : State :=
  match s.op? op with
  | none => s
  | some o =>
    match o.kind with
    | .watch va k off cmp u w64 v sc d held woken =>
      match woken, held with
      | some x, _ => if o.flag == flagRecorded then s else s.wakeWatch o w64 sc d x
      | none, some _ => s
      | none, none =>
        if o.flag == flagRecorded && regionOf va == .localTable then
          -- a watch of an image is translated again where it is re-installed (R317)
          match s.engineKey k.cx va .read with
          | (s1, .ok k1) => (s1.updOp op fun o => o.setKey k1).sendWatch (o.setKey k1) k1 off cmp u w64 v sc d va
          | (_, .error _) => s
        else s.sendWatch o k off cmp u w64 v sc d va
    | _ => s

/-- WATCH_POST (R227). -/
def execWatchPost (op : Nat) (s : State) : Out := .next (s.watchPost op)

/-- The recorded watches of a context that is being restored are re-installed, before its granary is replayed (R82). -/
def State.installWatches (s : State) (cx : Nat) : State :=
  let due := s.ops.filter fun (o : PendOp) => o.flag == flagRecorded && ((s.group? o.grp).map fun g => g.cx == cx).getD false
  due.foldl (fun s o => s.watchPost o.id) s

/-- WATCH_REPOST: 1 µs after its return a watch is posted again (R228). One that a rate limiter holds then leaves by WATCH_POST. -/
def execWatchRepost (op : Nat) (s : State) : Out :=
  .next (match s.op? op with
    | none => s
    | some o =>
      match o.kind with
      | .watch va k off cmp u w64 v sc d held none =>
        if held == some watchReturned && decide (s.cycle ≥ o.issued + 2250) then
          (s.updOp op fun o => o.setWatch none none o.issued).sendWatch o k off cmp u w64 v sc d va
        else s
      | _ => s)

/-! ## Loads return -/

/-- The lanes of a load whose line was refused or is poisoned, with their causes (R218). -/
def loadFails (accs : List LaneAcc) (lines : List LineWait) : List (LaneAcc × Cause) :=
  accs.filterMap fun a =>
    match lines.find? fun w => w.key == a.key with
    | none => none
    | some w => if w.refused then some (a, cPROT) else if w.poison then some (a, cPOISON) else none

/-- The bytes of one access. -/
def accNat (lines : List LineWait) (a : LaneAcc) (n : Nat) : Nat :=
  lineNat (((lines.find? fun w => w.key == a.key).map (·.data)).getD 0) a.off n

/-- A load that fails when its data returns (R218); a table read leaves its split ready to take the trap. -/
def State.loadFault (s : State) (o : PendOp) (uni : Bool) (mask : LaneMask) (bad : List (LaneAcc × Cause)) : State :=
  let c := bad.foldl (fun (c : Cause) b => c ||| b.2) 0
  let lanes := if uni then mask else maskOfLanes (bad.map fun b => b.1.lane)
  let addr := ((bad.head?).map fun b => b.1.va).getD 0
  let s1 := s.failOp o c lanes addr 0
  if o.flag == flagTable then s1.updSplit o.grp o.split fun p => { p with wait := .none } else s1

/-- The data of a load returns (R31, R118, R128, R219). -/
def State.loadDone (s : State) (o : PendOp) (uni : Bool) (d : Nat) (nar : Narrow) (accs : List LaneAcc) (lines : List LineWait) : State :=
  let n := narrowBytes nar
  if o.flag == flagTable then
    let v := ((accs.head?).map fun a => accNat lines a n).getD 0
    (s.updSplit o.grp o.split fun p => { p with wait := .got (BitVec.ofNat 64 v) }).finishOp o.id
  else
    let s1 := s.withOpGroup o fun g =>
      let g1 := accs.foldl (fun g a => g.putWords uni d a.lane (narrowWords nar (accNat lines a n))) g
      if o.flag == flagArgs then { g1 with argsRead := true } else g1
    s1.finishOp o.id

/-- SHLD has the bytes of every lane, or some lane is STALE: the pin is released and SHSTALE raised (R249). -/
def State.shldDone (s : State) (o : PendOp) (d n id ver : Nat) (lanes : List (LaneAcc × Option (Option LineData))) : State :=
  if lanes.any fun l => l.2.isNone then s
  else
    let stale := lanes.filter fun l => l.2 == some none
    match stale.head? with
    | none =>
      (s.withOpGroup o fun g => lanes.foldl (fun g l =>
        let x := lineNat ((l.2.getD none).getD 0) l.1.off (4 * n)
        g.putWords false d l.1.lane (narrowWords (.word (4 * n)) x)) g).finishOp o.id
    | some b =>
      let held := ((s.group? o.grp).bind fun g => g.pins.find? fun q => q.1 == id && q.2.1 == ver)
      let s1 := match held with
        | none => s
        | some q =>
          (s.updGroup o.grp fun g => { g with pins := g.pins.erase q }).sendSh
            { id := 0, kind := .unpin, cx := b.1.key.cx, sheaf := id, ver := ver, grp := o.grp }
      s1.failOp o cSHSTALE (maskOfLanes (stale.map fun l => l.1.lane)) b.1.va id

/-- LOAD_DATA_RETURN: the data of a load, a scratchpad load, an SHLD or a RECV is here (R205, R219, R249, R358). -/
def execLoadDataReturn (op : Nat) (s : State) : Out :=
  .next (match s.op? op with
    | none => s
    | some o =>
      match o.kind with
      | .load uni d nar accs lines mask =>
        if lines.any fun w => w.st != .got then s
        else
          let bad := loadFails accs lines
          if bad.isEmpty then s.loadDone o uni d nar accs lines else s.loadFault o uni mask bad
      | .lds d nar accs =>
        match s.group? o.grp with
        | none => s
        | some g =>
          (accs.foldl (fun s a =>
            match s.anyWg? g.cx g.kernel a.2.1 with
            | some w => s.updGroup o.grp fun g => g.putWords false d a.1 (narrowWords nar (w.nat a.2.2 (narrowBytes nar)))
            | none =>
              let (x, s1) := s.drawNat
              s1.updGroup o.grp fun g => g.putWords false d a.1 (narrowWords nar (x % 2 ^ (8 * narrowBytes nar)))) s).finishOp op
      | .shld d n id ver lanes => s.shldDone o d n id ver lanes
      | .recv d a cap k =>
        match s.group? o.grp with
        | none => s
        | some g =>
          match s.recvNow g o.split d a cap k false with
          | (s1, true) => s1.finishOp op
          | (_, false) => s
      | _ => s)

/-! ## STSR -/

/-- STSR_ACKNOWLEDGEMENT: the bytes are placed, in the issue order of the core (R205). -/
def execStsrAcknowledgement (k : Nat) (s : State) : Out :=
  .next (match s.stsrs[k]? with
    | none => s
    | some m =>
      if (s.stsrs.take k).any fun x => x.core == m.core && x.cx == m.cx && x.kernel == m.kernel && x.wg == m.wg then s
      else
        let s1 : State := { s with stsrs := s.stsrs.eraseIdx k }
        match s1.anyWg? m.cx m.kernel m.wg with
        | none => s1
        | some w => if w.exited then s1 else s1.mapWg m.cx m.kernel m.wg fun w => w.putBytes m.off m.bytes)

end Sys2Proof.Machine
end

