-- ==== Sys2Proof/Machine/SheafEvents.lean ====
section
/-! DEFINITION. What descriptor homes and member homes of sheaves do when a message arrives (spec/12_sheaf.md R234 to R240). k names a
message on its way, or an ordinal of the seals and drops under way; a number that names none has no effect. -/

namespace Sys2Proof.Machine

/-! ## Arrivals at a descriptor home (R234) -/

def State.isProxy (s : State) (cx id : Nat) : Bool := ((s.desc? cx id).map fun d => d.2.proxy).getD false

/-- A message arrives: it is refused, performed here, or forwarded to the vchip that its proxy names (R231). -/
def State.shArrive (s : State) (k : Nat) (m : ShMsg) (own : State → State) : State :=
  let s1 : State := { s with shMsgs := s.shMsgs.eraseIdx k }
  match s1.shTarget m.cx m.sheaf with
  | .bad => s1.shReply { m with fault := m.copy.isSome && s1.isProxy m.cx m.sheaf } 0 shBadid
  | .own => own s1
  | .proxy v pid =>
    let s2 := if m.kind == .drop then s1.discardOpen fun wcx o => wcx == m.cx && o.is v pid m.ver else s1
    s2.podRequest m.cx v 0 (.sheaf { m with fault := m.copy.isSome }) fun r => .sheaf r m.kind pid m.ver m.writer

/-- The message is of a kind and its sender still waits for it. -/
def State.shMsg? (s : State) (k : Nat) (kind : ShMsgKind) : Option ShMsg := (s.shMsgs[k]?).filter fun m => m.kind == kind

def State.shLost (s : State) (k : Nat) : State := { s with shMsgs := s.shMsgs.eraseIdx k }

/-- OPEN of a sheaf. -/
def execShOpen (k : Nat) (s : State) : Out :=
  .next (match s.shMsg? k .open_ with
    | none => s
    | some m =>
      if m.copy.isNone && !s.hasWriter m.cx m.writer then s.shLost k
      else s.shArrive k m fun s =>
        let far := ((s.desc? m.cx m.sheaf).map fun d => d.2.podMember).getD false
        let (s1, ver, st) := s.shDecide m.cx m.sheaf .open_ m.writer
        s1.shReply { m with fault := m.copy.isSome && far } ver st)

/-- PIN: the reply carries VERSION. -/
def execPin (k : Nat) (s : State) : Out :=
  .next (match s.shMsg? k .pin with
    | none => s
    | some m =>
      if (m.op.bind s.anyOp?).isNone then s.shLost k
      else s.shArrive k m fun s =>
        let (s1, ver, st) := s.shDecide m.cx m.sheaf .pin m.writer
        s1.shReply m ver st)

/-- UNPIN. -/
def execUnpin (k : Nat) (s : State) : Out :=
  .next (match s.shMsg? k .unpin with
    | none => s
    | some m => s.shArrive k m fun s => (s.shDecide m.cx m.sheaf .unpin m.writer).1)

/-- Open writes and copies of a version that a seal waits for (R247). -/
def State.openOut (s : State) (m : ShMsg) : Bool :=
  let (owner, id) := s.ownerOf m.cx m.sheaf
  (s.cores.any fun c => c.pq.any fun e => e.key.cx == m.cx && (e.ow.map fun o => o.is owner id m.ver).getD false)
  || s.copies.any fun c => c.kind != .x && c.shm == .write && c.cx == m.cx && c.shId == m.sheaf && c.shVer == m.ver

/-- SHEAF_SEAL: the descriptor enters SEALING once the version's writes are applied (R237, R247). -/
def execSheafSeal (k : Nat) (s : State) : Out :=
  .next (match s.shMsg? k .seal with
    | none => s
    | some m =>
      if s.openOut m then s
      else s.shArrive k m fun s =>
        match s.shStart m.cx m.sheaf m.ver false (some m) none with
        | (s1, true) => s1
        | (s1, false) => s1.shReply m m.ver shNotopen)

/-- DROP, and *abandon*: the descriptor enters DROPPED (R238). -/
def execDrop (k : Nat) (s : State) : Out :=
  .next (match s.shMsg? k .drop with
    | none => s
    | some m =>
      s.shArrive k m fun s =>
        match s.shStart m.cx m.sheaf m.ver true (some m) none with
        | (s1, true) => s1
        | (s1, false) => s1.shReply m m.ver shNotopen)

/-! ## Member homes (R237, R238) -/

def State.updProc (s : State) (k : Nat) (f : ShProc → ShProc) : State :=
  { s with shProcs := (s.shProcs.zipIdx).map fun e => if e.2 = k then f e.1 else e.1 }

/-- A member home takes its message: a slice of this module applies it and acknowledges; another vchip is sent its own. -/
def State.memberTakes (s : State) (k m : Nat) (isDrop : Bool) : State :=
  match s.shProcs[k]? with
  | none => s
  | some q =>
    if q.drop != isDrop then s
    else
      match q.left[m]? with
      | none => s
      | some h =>
        let own := s.vchipOf q.cx
        if h < 100000 then
          let s1 := if isDrop then s.dropAt q.cx own q.sheaf q.ver (some h) else s.sealAt q.cx own q.sheaf q.ver (some h)
          s1.updProc k fun q => { q with left := q.left.eraseIdx m }
        else if h < 200000 then
          (s.updProc k fun q => { q with left := q.left.set m (h + 100000) }).podRequest q.cx (h - 100000) 0
            (.member q.cx q.sheaf q.ver (h + 100000)) fun r => .sealMember r own q.sheaf q.ver isDrop q.site
        else s

/-- SEAL_MESSAGE to member home m of the seal. -/
def execSealMessage (k m : Nat) (s : State) : Out := .next (s.memberTakes k m false)

/-- DROP_MESSAGE to member home m of the drop. -/
def execDropMessage (k m : Nat) (s : State) : Out := .next (s.memberTakes k m true)

def State.memberEnd (s : State) (k : Nat) (isDrop : Bool) : State :=
  match s.shProcs[k]? with
  | none => s
  | some q => if q.drop == isDrop && q.left.isEmpty then s.shEnd q else s

/-- ACKED: VERSION becomes the sealed version (R234). -/
def execAcked (k : Nat) (s : State) : Out := .next (s.memberEnd k false)

/-- DROPPED: the descriptor returns to IDLE (R234). -/
def execDropped (k : Nat) (s : State) : Out := .next (s.memberEnd k true)

/-! ## Open writes and pinned reads at a line's home -/

/-- OPEN_WRITE: open write k of a core reaches the home of its line (R236). -/
def execOpenWrite (core k : Nat) (s : State) : Out := .next (s.openPublish core k)

/-- A pinned read of a line of this module, with MEMERR where it detects poison: none: STALE; the poison beside the bytes. -/
def State.pinnedAt (s : State) (cx owner id ver : Nat) (k : LineKey) : State × Option (LineData × Bool) :=
  match s.select cx owner id ver k with
  | .stale => (s, none)
  | .zero => (s, some (0, false))
  | .line n => (s.noteRead n (s.domain k.cx k.kds) k.kds, some (s.physLine n, s.poisoned n (s.domain k.cx k.kds)))

/-- A claimed line of another sheaf than id of owner, or of a page bound to another vchip: it lies outside every member of that sheaf
(R232, R249). -/
def State.foreignLine (s : State) (hcx owner id : Nat) (k : LineKey) : Bool :=
  (s.sheafOwner.any fun e => e.home == hcx && e.frame == k.page0 && e.owner != owner)
  || (match s.curSlot k with
    | none => false
    | some b => (s.tag (k.slot b)).id != id)

/-- PINNED_READ of a lane's line of SHLD at its home (R239, R249). -/
def execPinnedRead (op lane : Nat) (s : State) : Out :=
  .next (match s.op? op with
    | none => s
    | some o =>
      match o.kind with
      | .shld _ _ id ver lanes =>
        match lanes.find? fun l => l.1.lane == lane && l.2.isNone with
        | none => s
        | some (a, _) =>
          let (owner, oid) := s.ownerOf a.key.cx id
          if a.key.pod then
            let mine := (o.shldLanes lane).map (·.lane)
            if s.reqs.any fun r => mine.any fun l => r.kind == .pinned op l then s
            else s.podRequest a.key.cx (podVchip a.va) a.va (.pinned op lane) fun r => .pinned r lane (a.va / 128 * 128) owner oid ver
          else if s.foreignLine a.key.cx owner oid a.key then
            s.failOp o cPROT (maskOfLanes ((o.shldLanes lane).map (·.lane))) a.va 0
          else
            match s.pinnedAt a.key.cx owner oid ver a.key with
            | (s1, none) => s1.updOp op fun o => o.mapShld a.key none
            | (s1, some (_, true)) =>
              (s1.failOp o cPOISON (maskOfLanes ((o.shldLanes lane).map (·.lane))) a.va 0)
            | (s1, some (d, false)) => s1.updOp op fun o => o.mapShld a.key (some d)
      | _ => s)

end Sys2Proof.Machine
end

