-- ==== Sys2Proof/Machine/Deliver.lean ====
section
/-! DEFINITION. What the packets of the virtual pod do at the home of their address, in their granary, and as replies at their sender
(spec/17_link.md R314, R331, R339, R346 to R349). -/

namespace Sys2Proof.Machine

/-! ## Requests at their home -/

/-- The line of a request's address in the context that exports it, or its fate: none, where a page in migration makes it wait. -/
def State.reqLine (s : State) (cx addr : Nat) (a : Acc) : State × Option (Except Unit LineKey) :=
  let va := podLocal addr
  match s.podTranslate cx va a with
  | (s1, .ok t) => (s1, some (.ok (t.key va)))
  | (s1, .wait) => (s1, none)
  | (s1, .fail ..) => (s1, some (.error ()))

/-- A merge or copy write of another vchip at its home. -/
def State.remoteMerge (s : State) (k : LineKey) (data : LineData) (mask : LineMask) (poison : Bool) : State × Bool :=
  let (s1, ok) := s.softWrite k data mask
  match ok && poison, s1.curLine k with
  | true, some n => (s1.setMeta n { s1.lmeta n with poison := true }, ok)
  | _, _ => (s1, ok)

/-- A held watch of another vchip, or the answer at once (R227, R228). One whose waiter has gone takes no entry. -/
def State.remoteWatch (s : State) (w : RWatch) : State :=
  let reply (b : PktBody) (s : State) : State := s.replyTo w.cx w.src w.vlink w.loopback b
  let (l, poi) := s.homeRead w.key
  let x := lineNat l w.off (if w.w64 then 8 else 4)
  let s := s.homeNote w.key
  if poi then reply (.rPoison w.req 0) s
  else if watchHolds w.cmp w.u w.w64 x w.v.toNat then reply (.rWatch w.req (BitVec.ofNat 64 x)) s
  else if w.loopback && !(s.reqs.any fun r => r.id == w.req) then s
  else if s.watchesIn (s.homeSlice w.key) < Config.watchCap then { s with rwatches := s.rwatches ++ [w] }
  else reply (.rFull w.req) s

/-- A sheaf message of another vchip at the descriptor home here (R231, R234): src is the writer. -/
def State.remoteSheaf (s : State) (cx src : Nat) (vlink : BitVec 32) (lb : Bool) (req : Nat) (kind : ShMsgKind) (sheaf ver : Nat)
    (w : Writer) : State :=
  let reply (s : State) (x : Word) : State := s.replyTo cx src vlink lb (.rSheaf req x)
  let who : Writer := { w with vchip := src }
  match kind with
  | .open_ | .pin =>
    let (s1, v, st) := s.shDecide cx sheaf kind who
    reply s1 (sheafWord sheaf v st)
  | .query =>
    let (s1, v, _) := s.shDecide cx sheaf kind who
    reply s1 (BitVec.ofNat 32 v)
  | .unpin => reply (s.shDecide cx sheaf kind who).1 (sheafWord sheaf ver shOk)
  | .seal | .drop =>
    match s.shStart cx sheaf ver (kind == .drop) none (some (src, vlink, lb, req)) with
    | (s1, true) => s1
    | (s1, false) => reply s1 (sheafWord sheaf ver shNotopen)

/-- A request is performed at its home in context cx; none: it waits. told: a granary has already acknowledged it, so that only a
failure is answered (R346). -/
def State.perform (s : State) (cx src : Nat) (vlink : BitVec 32) (lb told : Bool) (b : PktBody) : Option State :=
  let reply (s : State) (b : PktBody) : State := s.replyTo cx src vlink lb b
  let acked (s : State) (req : Nat) : State := if told then s else reply s (.rAck req)
  let at_ (addr : Nat) (a : Acc) (nack : PktBody) (f : State → LineKey → State) : Option State :=
    match s.reqLine cx addr a with
    | (_, none) => none
    | (s1, some (.error _)) => some (reply s1 nack)
    | (s1, some (.ok k)) => if s1.merging k then none else some (f s1 k)
  match b with
  | .load req addr plain =>
    at_ addr .read (.rNack req default) fun s k =>
      if plain && k.sh != 0 && !Config.copyReadsSheaf then reply s (.rNack req default) else
      let (d, poi) := s.homeRead k
      reply ((s.homeNote k).l2Touch k false) (.rData req addr d poi)
  | .merge req addr data mask poison site =>
    at_ addr .write (.rNack req site) fun s k =>
      match s.remoteMerge k data mask poison with
      | (s1, true) => acked s1 req
      | (s1, false) => reply s1 (.rPoison req 0 site)
  | .atomic req lane addr w64 op v cmp =>
    at_ addr .write (.rNack req default) fun s k =>
      match s.performAtomic k (addr % 128) w64 op v cmp with
      | (s1, .ok old) => reply s1 (.rAtomic req lane old)
      | (s1, .error _) => reply s1 (.rPoison req lane)
  | .watch req addr cmp u w64 v =>
    at_ addr .read (.rNack req default) fun s k =>
      s.remoteWatch { cx := cx, src := src, vlink := vlink, loopback := lb, req := req, key := k, off := addr % 128, cmp := cmp, u := u,
                      w64 := w64, v := v }
  | .sheaf req kind sheaf ver w => some (s.remoteSheaf cx src vlink lb req kind sheaf ver w)
  | .sealMember req owner sheaf ver isDrop _ =>
    let s1 := if isDrop then s.dropAt cx owner sheaf ver none else s.sealAt cx owner sheaf ver none
    some (acked s1 req)
  | .openWrite req addr owner sheaf ver data mask told copy poison site =>
    at_ addr .openWrite (.rReject req copy site) fun s k =>
      match s.openWriteAt cx k owner sheaf ver data mask told (podLocal addr) with
      | (s1, true) => acked (if poison then s1.poisonSlot k ver else s1) req
      | (s1, false) => reply s1 (if s1.openFault k sheaf ver = causePoison then .rPoison req 0 site else .rReject req copy site)
  | .pinned req lane addr owner sheaf ver =>
    at_ addr .read (.rNack req default) fun s k =>
      if s.foreignLine cx owner sheaf k then reply s (.rNack req default) else
      match s.pinnedAt cx owner sheaf ver k with
      | (s1, none) => reply s1 (.rPinned req lane true 0)
      | (s1, some (_, true)) => reply s1 (.rPoison req lane)
      | (s1, some (d, false)) => reply s1 (.rPinned req lane false d)
  | .hint start len => some (s.takeHint cx start len)
  | .send .. | .rData .. | .rAtomic .. | .rAck _ | .rNack .. | .rReject .. | .rWatch .. | .rSheaf .. | .rPinned ..
  | .rPoison .. | .rFull _ | .ack _ => some s

/-! ## Granaries -/

/-- The site that a request carries for imprecise faults. -/
def PktBody.site : PktBody → Site
  | .merge _ _ _ _ _ si | .openWrite _ _ _ _ _ _ _ _ _ _ si | .sealMember _ _ _ _ _ si | .send _ si | .rNack _ si
  | .rReject _ _ si | .rPoison _ _ si => si
  | .load .. | .atomic .. | .watch .. | .sheaf .. | .pinned .. | .hint .. | .rData .. | .rAtomic .. | .rAck _ | .rWatch .. | .rSheaf ..
  | .rPinned .. | .rFull _ | .ack _ => default

/-- The negative answer to a record of a granary (R347). -/
def State.nackRec (s : State) (cx : Nat) (r : GranRec) : State :=
  match r with
  | .msg .. => s
  | .req _ vlink src lb b => s.replyTo cx src vlink lb (.rNack b.req b.site)

/-- A record takes its place only while 256 bytes are free (R348). -/
def Context.granRoom (c : Context) : Bool := decide (c.gran.used + 256 ≤ c.bindRec.granSize)

/-- A request is appended; the granary acknowledges merges, seals and drops (R346). -/
def State.granTake (s : State) (cx src : Nat) (vlink : BitVec 32) (lb : Bool) (b : PktBody) : State :=
  let s1 := s.granAppend cx (.req s.nextId vlink src lb b)
  match b with
  | .merge .. | .openWrite .. | .sealMember .. => s1.replyTo cx src vlink lb (.rAck b.req)
  | .load .. | .atomic .. | .watch .. | .sheaf .. | .pinned .. | .send .. | .hint .. | .rData .. | .rAtomic .. | .rAck _ | .rNack ..
  | .rReject .. | .rWatch .. | .rSheaf .. | .rPinned .. | .rPoison .. | .rFull _ | .ack _ => s1

def GranRec.isReq : GranRec → Bool
  | .req .. => true
  | .msg .. => false

/-- Request records that are left. -/
def Granary.pendingReq (g : Granary) : Bool := g.recs.any fun e => e.2.2.isReq

/-- The oldest request record is performed, or answered negatively where it is corrupted; none: it waits (R346, R349). At the end of the
replay direct delivery begins. -/
def State.replayOne (s : State) (cx : Nat) : Option State :=
  match s.ctx? cx with
  | none => some s
  | some c =>
    let fin (s : State) : State := s.updCtx cx fun c => { c with gran := { c.gran with replayed := !c.gran.pendingReq } }
    match c.gran.recs.find? fun e => e.2.2.isReq with
    | none => some (fin s)
    | some e =>
      let drop (s : State) : State := fin (s.updCtx cx fun c =>
        { c with gran := ({ c.gran with recs := c.gran.recs.filter fun x => x.1 != e.1 } : Granary).freed c.bindRec.granSize })
      if s.granCorrupt c e.1 e.2.1 e.2.2 then
        some (drop ((s.emit (.memErr ((c.gran.lines c.bindRec.granSize e.2.1 64).headD 0))).nackRec cx e.2.2))
      else
        match e.2.2 with
        | .msg .. => some s
        | .req _ vlink src lb b => (s.perform cx src vlink lb true b).map drop

/-! ## Replies -/

/-- The status of a reply of a descriptor home. -/
def wordSt (w : Word) : Nat := (w.extractLsb' 0 8).toNat

/-- A merge or copy write whose bytes were dropped because the line is poisoned, and other accesses that take POISON (R327). -/
def State.poisonReq (s : State) (r : PodReq) : State :=
  match r.kind with
  | .merge core entry site => (s.impStore site causePoison (s.entryVa core entry)).updCore core fun c => c.mergeAck entry
  | .copyWrite c =>
    match s.copies.find? fun x => x.id == c with
    | none => s
    | some x =>
      (s.copyRefused c copyProt).impStore x.site causePoison r.addr
  | .fill .. | .atomic .. | .watch _ | .sheaf _ | .member .. | .pinned .. | .copyRead _ | .feeder _ =>
    s.failAs r causePoison

/-- An open write that its home has rejected (R236): SHST takes an imprecise fault, a copy only sets FAULT. -/
def State.rejectReq (s : State) (r : PodReq) : State :=
  match r.kind with
  | .copyWrite c => s.copyRefused c copyProt
  | .fill .. | .merge .. | .atomic .. | .watch _ | .sheaf _ | .member .. | .pinned .. | .copyRead _ | .feeder _ => s.failAs r causeProt

/-- What a reply other than a refusal does for the request that it answers; none: it does not fit the request. -/
def State.answerReq (s : State) (r : PodReq) (b : PktBody) : Option State :=
  match r.kind, b with
  | .fill core key acqs op, .rData _ _ d poi =>
    some { s with fills := s.fills ++ [{ core := core, key := key, data := d, poison := poi, acqs := acqs, op := op,
                                         install := r.install }] }
  | .merge core entry _, .rAck _ => some (s.updCore core fun c => c.mergeAck entry)
  | .atomic op lane, .rAtomic _ _ v => some (s.mapOp op fun o => o.mapLane lane fun l => { l with reply := some v })
  | .watch op, .rWatch _ v =>
    some (match s.op? op with
      | none => s
      | some o => match o.kind with
        | .watch _ _ _ _ _ w64 _ sc d _ _ => s.wakeWatch o w64 sc d v
        | _ => s)
  | .watch op, .rFull _ => some (s.updOp op fun o => o.setWatch (some watchReturned) none s.cycle)
  | .sheaf m, .rSheaf _ w =>
    some (if m.kind == .query then (s.shReply m w.toNat 0).askVersions m.cx else s.shReply m (wordVer w) (wordSt w))
  | .member cx sheaf ver home, .rAck _ =>
    some { s with shProcs := upd (fun x => x.cx == cx && x.sheaf == sheaf && x.ver == ver) (fun x =>
      { x with left := x.left.filter fun h => h != home }) s.shProcs }
  | .pinned op lane, .rPinned _ _ stale d =>
    some (s.updOp op fun o => match o.shldLanes lane with
      | [] => o
      | l :: _ => o.mapShld l.key (if stale then none else some d))
  | .copyRead c, .rData _ _ d poi =>
    some { s with copies := upd (fun x : Copy => x.id == c) (fun x => { x with podWait := none, podData := some (some d), podPoison := poi })
                    s.copies }
  | .copyRead c, .rPinned _ _ stale d =>
    let s1 := if stale then s.flagCopy c copyStale else s
    some { s1 with copies := upd (fun x : Copy => x.id == c) (fun x =>
      { x with podWait := none, podData := some (if stale then none else some d), podPoison := false }) s1.copies }
  | .copyWrite c, .rAck _ =>
    some { s with copies := upd (fun x : Copy => x.id == c) (fun x => { x with podOut := x.podOut - 1 }) s.copies }
  | .feeder c, .rData _ _ d poi => some (s.updCirc c fun x => { x with feed := x.feed ++ [(d, poi)], feedWait := false })
  | _, _ => none

/-- A reply arrives (R331). A refusal that answers no request any more tells of a store or SEND that had been accepted (R347). -/
def State.takeReply (s : State) (b : PktBody) : State :=
  match s.reqs.find? fun r => r.id == b.req with
  | none =>
    match b with
    | .rNack n si =>
      match s.sent.find? fun k => k.id == n with
      | some k => s.failPkt k causeProt
      | none => if si = default then s else s.impStore si causeProt si.va
    | .rReject _ copy si => if copy then s else s.impStore si causeProt si.va
    -- a store that a granary had acknowledged meets a poisoned line at its replay (R327, R349)
    | .rPoison _ _ si => if si = default then s else s.impStore si causePoison si.va
    | _ => s
  | some r =>
    let gone : State := { s with reqs := s.reqs.filter fun x => x.id != r.id }
    match b with
    | .rNack .. => ({ s with sent := s.sent.filter fun k => k.pkt.body.req != r.id } : State).failReq r.id causeProt
    | .rPoison .. => gone.poisonReq r
    | .rReject .. => gone.rejectReq r
    | _ => (gone.answerReq r b).getD s

end Sys2Proof.Machine
end

