-- ==== Sys2Proof/Machine/Control.lean ====
section
/-! DEFINITION. Clause headers (R29, R30), control transfer and masks (spec/07_group.md R122 to R130), regions (R140), and the group
instructions (R133 to R139). -/

namespace Sys2Proof.Machine

/-- An address plus a word offset, modulo 2^64 (R38). -/
def addrPlus (pc : Nat) (words : Int) : Nat := (((pc : Int) + 4 * words) % 2 ^ 64).toNat

def State.putSplit (s : State) (g : Group) (p : Split) : State := s.updSplit g.ref p.id fun _ => p

/-! ## Splits meet and part -/

/-- Records of two splits, entry by entry: the n-th of each. -/
def joinEntries : List (List Nat) → List (List Nat) → List (List Nat)
  | [], l => l
  | l, [] => l
  | x :: xs, y :: ys => (x ++ y.filter fun i => !x.contains i) :: joinEntries xs ys

/-- The RECV entries of two splits: an entry that the first has none at is the second's. -/
def joinRecvs : List (Option Nat) → List (Option Nat) → List (Option Nat)
  | [], l => l
  | l, [] => l
  | x :: xs, y :: ys => (match x with
      | some m => some m
      | none => y) :: joinRecvs xs ys

/-- The record of merged splits: rc, of the split whose id remains, with what the other one, od, has recorded. Where both come from one
execution of REGION, the n-th copies of both stand in entry n, and what one split has matched counts as matched; else rc's are kept, since
its region ends. The messages that either has reserved stay reserved (R141, R270, R358; DESIGN CHOICE, log 53: the rules do not say which
record a merged split keeps). -/
def RegionRec.join (rc od : RegionRec) : RegionRec :=
  let same := rc.serial == od.serial
  let full := joinEntries (rc.copies ++ rc.toMatch) (od.copies ++ od.toMatch)
  let n := max rc.copies.length od.copies.length
  let r1 := if same then { rc with copies := full.take n, toMatch := full.drop n, recvs := joinRecvs rc.recvs od.recvs,
                                   recvCount := max rc.recvCount od.recvCount } else rc
  { r1 with recvHeld := r1.recvHeld ++ od.msgs.filter fun m => !r1.msgs.contains m }

/-- Two splits become one (R124); records of different executions of REGION end the region, as does the region's end in one of them
(R141). -/
def mergeSplits (a b : Split) : Split :=
  let lo := if a.id < b.id then a else b
  let hi := if a.id < b.id then b else a
  let sameRec := (a.region.map (·.serial)) == (b.region.map (·.serial))
  { lo with lset := a.lset ||| b.lset, exec := a.exec ||| b.exec, ended := a.ended || b.ended || !sameRec,
            needRe := a.needRe || b.needRe, recipe := a.recipe || b.recipe,
            region := match lo.region, hi.region with
              | some r, some o => some (r.join o)
              | none, r => r
              | r, none => r,
            arrived := lo.arrived ++ hi.arrived.filter fun x => !lo.arrived.contains x,
            commits := max a.commits b.commits, progress := min a.progress b.progress }

/-- Merges q into the split p of a group; the freed id's election and records go with it. -/
def Group.merge (g : Group) (p q : Split) : Group × Split :=
  let m := mergeSplits p q
  ({ g with splits := (g.splits.filter fun x => x.id != p.id && x.id != q.id) ++ [m] }, m)

/-- A sibling stands at the same clause header and may merge there (R124, R141). One whose PAD is still to be checked does not stand there
yet (R127, R128). One in the cycles behind its YIELD stands there, and the merged split waits out the lower id's (DESIGN CHOICE, log 53:
R124 names the waits for WAIT flags and for an issue port alone). -/
def canMerge (p q : Split) : Bool :=
  q.id != p.id && q.pc == p.pc && q.clause.isNone && p.stack.isEmpty && q.stack.isEmpty && q.wait != .join && q.padDue.isNone
  && (q.region.map (·.serial)) == (p.region.map (·.serial))

/-- The operations of merged splits, their held causes, their failed walks and the groups that they have reserved belong to the splits
that remain. g: the group before; f: the split that each of its splits becomes part of. A walk that is still to trap precisely stays so
(R156). -/
def State.reown (s : State) (g : Group) (f : Nat → Nat) : State :=
  let commits (id : Nat) : Nat := ((g.splits.filter fun q => f q.id == f id).map (·.commits)).foldl max 0
  let due (w : FailedWalk) : Bool := ((g.split? w.site.split).map fun p => p.commits == w.commits).getD false
  { s with ops := upd (fun o => o.grp == g.ref) (fun o => { o with split := f o.split }) s.ops,
           walks := upd (fun (w : FailedWalk) => w.site.grp == g.ref && w.site.uid == g.uid) (fun w =>
             { w with site := { w.site with split := f w.site.split }, commits := if due w then commits w.site.split else w.commits }) s.walks,
           groups := s.groups.map fun (h : Group) =>
             let h1 := if h.ref == g.ref then { h with held := h.held.map fun c => { c with split := f c.split } } else h
             match h.spawner with
             | some (r, id) => if r == g.ref then { h1 with spawner := some (r, f id) } else h1
             | none => h1 }

/-- A clause header starts its clause (R29): deferred lanes and siblings that stand there join first (R123, R124), then the WAIT flags
must be clear, and the first word issues in the cycle after that at the earliest (R30); a split whose region has ended needs RE = 1
(R33), as does one behind a ROLE without effect (R139). -/
def execClauseHeader (wait : BitVec 12) (sav : Bool) (sa : BitVec 4) (sbv : Bool) (sb : BitVec 4) (n : BitVec 3) (re yh : Bool)
    (s : State) : Out :=
  let i : Instr := .clauseHeader wait sav sa sbv sb n re yh
  withIssuer s fun g p =>
    match p.stack with
    | .deferred pc lanes :: rest =>
      if pc = p.pc then s.putSplit g { p with lset := p.lset ||| lanes, exec := p.exec ||| lanes, stack := rest }
      else start i g p
    | _ => start i g p
where
  start (i : Instr) (g : Group) (p : Split) : State :=
    match g.splits.find? fun q => canMerge p q && g.elected.isNone
        && !((g.trapRec.map fun t => t.stopped.contains q.id || t.stopped.contains p.id).getD false) with
    | some q => (s.updGroup g.ref fun h => (h.merge p q).1).reown g fun id =>
        if id = p.id ∨ id = q.id then min p.id q.id else id
    | none =>
      if (filterRange 12 fun f => wait.getLsbD f && s.flagSet g.ref f).isEmpty then
        if (p.ended || p.needRe) && !re then
          s.enterTrap g p { cause := cILL, lanes := p.exec, pc := p.pc, insn := word0 i, hdr := true }
        else
          let atEntry := (p.region.map fun rc => rc.entry == p.pc).getD false
          s.putSplit g { p with pc := p.pc + 4, wait := .none, jumped := false, passed := false,
                                yieldTo := if wait = 0 then p.yieldTo else s.cycle + 1,
                                recipe := p.recipe && !(re && atEntry),
                                clause := some { hdr := p.pc, left := n.toNat + 1, setA := if sav then some sa.toNat else none,
                                                 setB := if sbv then some sb.toNat else none, re := re, first := true } }
      else s.stall g p .poll

/-! ## Branches -/

/-- A branch that is taken or not (R126). -/
def branch (s : State) (i : Instr) (u : Uses) (off : BitVec 18) (taken : Group → Bool) : Out :=
  issue s i u fun g p => s.putSplit g (if taken g then p.goto (addrPlus p.pc off.toInt) else p.toNext)

/-- BRA (R126). -/
def execBra (off : BitVec 18) (s : State) : Out := branch s (.bra off) {} off fun _ => true

/-- BRZ (R126). -/
def execBrz (c : BitVec 6) (off : BitVec 18) (s : State) : Out := branch s (.brz c off) (useS [c.toNat]) off fun g => g.getS c.toNat == 0

/-- BRNZ (R126). -/
def execBrnz (c : BitVec 6) (off : BitVec 18) (s : State) : Out := branch s (.brnz c off) (useS [c.toNat]) off fun g => g.getS c.toNat != 0

/-- LOOP: decrement, and branch while the result is not 0 (R126). -/
def execLoop (c : BitVec 6) (off : BitVec 18) (s : State) : Out :=
  issue s (.loop c off) (useS [c.toNat]) fun g p =>
    let x := g.getS c.toNat - 1
    (s.updGroup g.ref fun h => h.setS c.toNat x).putSplit g (if x = 0 then p.toNext else p.goto (addrPlus p.pc off.toInt))

/-- A new split for the taken lanes (R122). -/
def newSplit (p : Split) (id : Nat) (lanes : LaneMask) (target now : Nat) : Split :=
  { (p.goto target) with id := id, lset := lanes, exec := lanes, stack := [], yieldTo := 0, readySince := now, lastIssue := 0,
                         aged := 0 }

/-- DIVIDE of R122. -/
def divide (s : State) (g : Group) (p : Split) (i : Instr) (t f : LaneMask) (target : Nat) : State :=
  let stay := { p.toNext with lset := p.lset &&& ~~~t, exec := f }
  match lowestFree 4 fun id => g.splits.any fun q => q.id == id with
  | some id =>
    s.updGroup g.ref fun h =>
      { h with splits := upd (fun q => q.id == p.id) (fun _ => stay) h.splits ++ [newSplit p id t target s.cycle] }
  | none =>
    if p.stack.length ≥ 32 then s.trap g p i cQUOTA 1
    else s.putSplit g { stay with stack := .deferred target t :: p.stack }

/-- BRM: per lane; mixed lanes divide the split (R122, R126). It waits for earlier checks (R156). -/
def execBrm (c : BitVec 3) (off : BitVec 18) (s : State) : Out :=
  issue s (.brm c off) (useM [c.toNat]) fun g p =>
    gated s g p
      (let t := p.exec &&& g.getM c.toNat
       let f := p.exec &&& ~~~(g.getM c.toNat)
       let target := addrPlus p.pc off.toInt
       if t = 0 then s.putSplit g p.toNext
       else if f = 0 then s.putSplit g (p.goto target)
       else divide s g p (.brm c off) t f target)

/-- CALL: the link pair takes NEXT (R127). -/
def execCall (l : BitVec 5) (off : BitVec 18) (s : State) : Out :=
  issue s (.call l off) (useS (pairRegs l.toNat)) fun g p =>
    (s.updGroup g.ref fun h => h.setSPair l.toNat (BitVec.ofNat 64 p.nextHeader)).putSplit g (p.goto (addrPlus p.pc off.toInt))

/-- CALLI: the target's clause must begin with PAD of the label (R30, R127). -/
def execCalli (l a : BitVec 5) (lbl : BitVec 16) (s : State) : Out :=
  issue s (.calli l a lbl) (useS (pairRegs l.toNat ++ pairRegs a.toNat)) fun g p =>
    let t := (g.getSPair a.toNat).toNat
    (s.updGroup g.ref fun h => h.setSPair l.toNat (BitVec.ofNat 64 p.nextHeader)).putSplit g
      { p.goto t with padDue := some lbl.toNat }

/-- RET (R127). -/
def execRet (a : BitVec 5) (s : State) : Out :=
  issue s (.ret a) (useS (pairRegs a.toNat)) fun g p => s.putSplit g (p.goto (g.getSPair a.toNat).toNat)

/-- JTAB: a bounded table jump; the table read is a load that completes before the transfer (R128). -/
def execJtab (x : BitVec 6) (t : BitVec 5) (bound lbl : BitVec 16) (s : State) : Out :=
  let i : Instr := .jtab x t bound lbl
  issue s i (useS (x.toNat :: pairRegs t.toNat)) fun g p =>
    match p.wait with
    | .got dest => s.putSplit g { p.goto dest.toNat with padDue := some lbl.toNat }
    | .reply _ => s
    | _ =>
      let base := (g.getSPair t.toNat).toNat
      if bound.toNat ≤ (g.getS x.toNat).toNat then s.trap g p i cJTAB
      else if base % 8 ≠ 0 then s.trap g p i cALIGN
      else
        let va := (base + 8 * (g.getS x.toNat).toNat) % 2 ^ 64
        let (s1, l, f) := s.checkLanes g .read 8 (fun _ => true) [(32, va)]
        s1.laneTrap g p i f true
          (let (id, s2) := s1.attachLoad g p i flagTable true 0 (.word 8) 8 {} p.exec l
           s2.stall g p (.reply id))

/-- PAD has no effect (R128). -/
def execPad (lbl : BitVec 16) (s : State) : Out := issue s (.pad lbl) {} fun g p => s.done g p (.pad lbl)

/-! ## JOIN -/

/-- The split that a split of a group becomes part of where every split waits at a JOIN. -/
def Group.joined (g : Group) (id : Nat) : Nat :=
  match g.split? id with
  | none => id
  | some p => (g.splits.filter fun q => q.pc == p.pc).foldl (fun m q => min m q.id) p.id

/-- When every live split waits at a JOIN, those at one address merge and all go on (R129). An election goes to the split that its holder
merges into, with the mask it saved (DEDUCED, log 27). -/
def Group.joinRelease (g : Group) : Group :=
  if !g.splits.isEmpty && g.splits.all fun p => p.wait == .join then
    let gone (p : Split) : Bool := g.splits.any fun q => q.pc == p.pc && q.id < p.id
    { g with splits := (g.splits.filter fun p => !gone p).map fun p =>
               ((g.splits.filter fun q => q.pc == p.pc && q.id != p.id).foldl mergeSplits p).toNext,
             elected := g.elected.map fun e => (g.joined e.1, e.2) }
  else g

/-- What belongs to splits that a JOIN merges. -/
def State.reownAll (s : State) (g : Group) : State := s.reown g g.joined

/-- A split with a stack applies R123 at JOIN; the second result says that the JOIN is applied again. -/
def joinStack (p : Split) : Split × Bool :=
  match p.stack with
  | [] => (p, true)
  | .deferred pc lanes :: rest =>
    ({ p.goto pc with lset := lanes, exec := lanes, stack := .resume (some p.nextHeader) p.lset p.exec :: rest }, false)
  | .resume pc l e :: rest =>
    if pc = some p.nextHeader then ({ p with lset := p.lset ||| l, exec := p.exec ||| e, stack := rest }, true)
    else (p.toNext, false)

/-- JOIN applied until it moves on or the stack is empty (R123). -/
def joinAll : Nat → Split → Split × Bool
  | 0, p => (p, true)
  | n + 1, p => if p.stack.isEmpty then (p, true) else
    match joinStack p with
    | (q, true) => joinAll n q
    | (q, false) => (q, false)

/-- JOIN (R123, R129); it waits for earlier checks (R156). -/
def execJoin (s : State) : Out :=
  issue s .join {} fun g p =>
    gated s g p
      (match joinAll 33 p with
       | (q, false) => s.putSplit g q
       | (q, true) =>
         let g1 := g.updSplit p.id fun _ => { q with wait := .join }
         let s1 := s.updGroup g.ref fun _ => g1
         if g1.splits.all fun x => x.wait == .join then (s1.reownAll g1).updGroup g.ref Group.joinRelease else s1)

/-! ## Masks, election, window -/

/-- $EXEC takes a mask within the lane set; under ELECT the saved mask does (R130). -/
def setExec (s : State) (g : Group) (p : Split) (i : Instr) (m : LaneMask) : State :=
  match g.elected with
  | some (sp, _) =>
    if sp = p.id then (s.updGroup g.ref fun h => { h with elected := some (sp, m) }).done g p i
    else (s.putSplit g { p with exec := m }).done g p i
  | none => (s.putSplit g { p with exec := m }).done g p i

/-- EXECM (R130). -/
def execExecm (m : BitVec 3) (s : State) : Out :=
  issue s (.execm m) (useM [m.toNat]) fun g p => setExec s g p (.execm m) (p.lset &&& g.getM m.toNat)

/-- EXECR (R130). -/
def execExecr (s : State) : Out := issue s .execr {} fun g p => setExec s g p .execr p.lset

/-- ELECT: one lane acts and the other splits sleep (R134); it waits for earlier checks (R156). -/
def execElect (s : State) : Out :=
  issue s .elect {} fun g p =>
    gated s g p
      (if g.elected.isSome then s.trap g p .elect cILL
       else
         let low : LaneMask := match lowestLane p.exec with
           | some l => BitVec.ofNat 32 (2 ^ l)
           | none => 0
         ((s.updGroup g.ref fun h => { h with elected := some (p.id, p.exec) }).putSplit g { p with exec := low }).done g p .elect)

/-- ELEND (R134). -/
def execElend (s : State) : Out :=
  issue s .elend {} fun g p =>
    match g.elected with
    | some (sp, sv) =>
      if sp = p.id then ((s.updGroup g.ref fun h => { h with elected := none }).putSplit g { p with exec := sv }).done g p .elend
      else s.trap g p .elend cILL
    | none => s.trap g p .elend cILL

/-- WINB: the window base of the group (R136). -/
def execWinb (w : BitVec 3) (s : State) : Out :=
  issue s (.winb w) {} fun g p =>
    if 32 * w.toNat ≥ g.allot then s.trap g p (.winb w) cREGRANGE
    else (s.updGroup g.ref fun h => { h with wb := 32 * w.toNat }).done g p (.winb w)

/-- YIELD: not ready for the 16 cycles that follow, so ready again 17 cycles on (R137). -/
def execYield (s : State) : Out :=
  issue s .yield {} fun g p => (s.updSplit g.ref p.id fun q => { q with yieldTo := s.cycle + 17 }).done g p .yield

/-! ## Regions -/

/-- REGION opens a region record (R140, R270, R358). -/
def execRegion (start1 count1 start2 count2 : BitVec 7) (smask : BitVec 4) (recipe : BitVec 21) (s : State) : Out :=
  let i : Instr := .region start1 count1 start2 count2 smask recipe
  issue s i {} fun g p =>
    let rs := [(start1.toNat, count1.toNat), (start2.toNat, count2.toNat)].filter fun r => r.2 != 0
    -- REGION in a recipe is ILL before its ranges are looked at (R43 check 4, R147)
    if p.recipe then s.trap g p i cILL
    else
      match rs.find? fun r => decide (r.1 + r.2 > 128) || decide (g.wb + r.1 + r.2 > g.allot) with
      | some r => s.trap g p i (if r.1 + r.2 > 128 then cILL else cREGRANGE)
      | none =>
        let hdr := (p.clause.map (·.hdr)).getD p.pc
        let old := p.region.filter fun rc => rc.rewound && rc.entry == hdr
        let held := match p.region with
          | some rc => if old.isSome then rc.recvHeld else rc.msgs
          | none => []
        let rc : RegionRec :=
          { entry := hdr, live := rs.map fun r => (g.wb + r.1, r.2), smask := smask,
            recipe := if recipe = 0 then none else some (addrPlus p.pc recipe.toInt), exec := p.exec, depth := p.stack.length,
            elect := g.elected, serial := s.nextId, toMatch := (old.map (·.toMatch)).getD [],
            recvs := (old.map (·.recvs)).getD [], recvHeld := held }
        let s1 : State := { s with nextId := s.nextId + 1 }
        (((s1.updGroup g.ref fun h => { h with regcnt := h.regcnt + 1 }).updSplit g.ref p.id fun q =>
          { q with region := some rc, ended := false, needRe := false, progress := s.cycle }).done g p i)

/-! ## SPAWN and ROLE -/

/-- Free V registers of a core: 1,024 less the allotments held (R105). -/
def State.freeRegs (s : State) (core : Nat) : Nat :=
  1024 - ((s.groups.filter fun g => g.ref.core == core).map (·.allot)).foldl (· + ·) 0

def State.freeGctx (s : State) (core : Nat) : Option Nat :=
  lowestFree 32 fun n => s.groups.any fun g => g.ref == { core := core, gctx := n }

/-- The groups of a workgroup. -/
def State.groupsOf (s : State) (cx kernel l : Nat) : List Group :=
  s.groups.filter fun g => g.cx == cx && g.kernel == kernel && g.wg == l

/-- SPAWN reserves a group that starts at the spawner's next commit (R117, R118, R133); it waits for earlier checks (R156). -/
def execSpawn (d : BitVec 6) (a : BitVec 7) (off : Word) (s : State) : Out :=
  let i : Instr := .spawn d a off
  issue s i { v := runRegs a.toNat 8, s := [d.toNat] } fun g p =>
    gated s g p
      (let mates := s.groupsOf g.cx g.kernel g.wg
       match s.freeGctx g.ref.core, lowestFree 32 fun n => mates.any fun h => h.gidx == n with
       | some ctx, some idx =>
         if s.freeRegs g.ref.core < g.allot ∨ mates.length ≥ 32 then
           (s.updGroup g.ref fun h => h.setS d.toNat 0xFFFFFFFF).done g p i
         else
           let h0 : Group :=
             { ref := { core := g.ref.core, gctx := ctx }, status := .reserved, cx := g.cx, kernel := g.kernel, wg := g.wg,
               gidx := idx, allot := g.allot, cls := g.cls, ownCls := g.ownCls, priv := g.priv, uid := s.nextId,
               spawner := some (g.ref, p.id),
               splits := [{ id := 0, pc := addrPlus p.pc off.toInt, lset := BitVec.allOnes 32, exec := BitVec.allOnes 32,
                            readySince := s.cycle, progress := s.cycle }] }
           let h1 := (List.range 19).foldl (fun h r => h.setS r (if r = 17 then BitVec.ofNat 32 idx else g.getS r)) h0
           let h2 := (List.range 8).foldl (fun h k => h.setLanesP k (BitVec.allOnes 32) fun l => g.getV (a.toNat + k) l) h1
           ({ (s.updGroup g.ref fun h => h.setS d.toNat (BitVec.ofNat 32 idx)) with
                nextId := s.nextId + 1,
                groups := (s.updGroup g.ref fun h => h.setS d.toNat (BitVec.ofNat 32 idx)).groups ++ [h2] } : State).done g p i
       | _, _ => (s.updGroup g.ref fun h => h.setS d.toNat 0xFFFFFFFF).done g p i)

/-- ROLE: a new allotment, class, level and entry for a sole split (R139). NOTSOLE and NOROOM leave the region as it is. -/
def execRole (d : BitVec 6) (a : BitVec 5) (b : BitVec 6) (s : State) : Out :=
  let i : Instr := .role d a b
  issuePriv s i (useS ([d.toNat, b.toNat] ++ pairRegs a.toNat)) fun g p =>
    gated s g p
      (let r := g.getS b.toNat
       let n := (r.extractLsb' 0 4).toNat
       if r &&& 0xFFFFE8F0 ≠ 0 ∨ n = 0 ∨ n > 8 then s.trap g p i cILL
       else if s.ops.any fun o => o.grp == g.ref && decide (o.flag < 12) then s.stall g p .poll
       else
         if g.splits.length > 1 then
           (s.updGroup g.ref fun h => h.setS d.toNat 2).putSplit g { p.toNext with needRe := true }
         else if s.freeRegs g.ref.core + g.allot < 32 * n then
           (s.updGroup g.ref fun h => h.setS d.toNat 1).putSplit g { p.toNext with needRe := true }
         else
           let old : Word := BitVec.ofNat 32 (g.allot / 32 + 256 * g.cls + 4096 * g.priv.toNat)
           let keep := min g.allot (32 * n)
           -- S[D] is written before the entry is read, as the steps of R139 stand
           (s.updGroup g.ref fun h =>
             { h with v := h.v.filter fun e => decide (e.1 / 32 < keep), allot := 32 * n,
                      cls := (r.extractLsb' 8 3).toNat, ownCls := true, priv := r.getLsbD 12, wb := 0 }.setS d.toNat old).putSplit g
             { p.goto ((g.setS d.toNat old).getSPair a.toNat).toNat with ended := true, progress := s.cycle })

/-! ## EXIT -/

/-- A split whose lanes have all left: R123 for its stack, then it ends; next is the clause after the EXIT. -/
def exitStack (next : Nat) : List StackEntry → Split → Option Split
  | [], _ => none
  | .deferred pc lanes :: rest, p =>
    some { p.goto pc with lset := lanes, exec := lanes, stack := .resume none 0 0 :: rest }
  | .resume pc l e :: rest, p =>
    if l = 0 then exitStack next rest p
    else
      match pc with
      | some a => some { p.goto a with lset := l, exec := e, stack := rest }
      | none => some { p.goto next with lset := l, exec := e, stack := rest }

/-- *lastexit*: pins released and versions abandoned; the group is FREE once its operations have settled (R117, R244). -/
def State.lastExit (s : State) (g : Group) : State :=
  ((s.releaseSheaf g).updGroup g.ref fun h => { h with status := .ending, pins := [], opens := [], elected := none }).settle g.ref

/-- EXIT: a release at pod scope, then the active lanes leave (R135). -/
def execExit (s : State) : Out :=
  issue s .exit {} fun g p =>
    gated s g p (released s g p .pod
      (let s0 := (s.commit g p).updGroup g.ref fun h =>
         match h.elected with
         | some (sp, _) => if sp = p.id && p.exec != 0 then { h with elected := none } else h
         | none => h
       let p0 := (((s0.group? g.ref).bind fun h => h.split? p.id).getD p)
       let lset := p.lset &&& ~~~p.exec
       let back : LaneMask := match g.elected with
         | some (sp, sv) => if sp = p.id ∧ p.exec ≠ 0 then sv &&& lset else 0
         | none => 0
       if lset ≠ 0 ∨ p.exec = 0 then s0.putSplit g { p0.toNext with lset := lset, exec := back }
       else
         match exitStack p.nextHeader p.stack p0 with
         | some q => s0.putSplit g q
         | none =>
           let s1 := s0.updGroup g.ref fun h => { h with splits := h.splits.filter fun q => q.id != p.id }
           match s1.group? g.ref with
           | none => s1
           | some h =>
             if h.splits.isEmpty then s1.lastExit h
             else if h.splits.all fun q => q.wait == .join then (s1.reownAll h).updGroup g.ref Group.joinRelease
             else s1))

/-! ## Special registers -/

/-- $CORE, $CLUSTER, $SECTOR and the rest of R26 as 64-bit values; none: not readable here. -/
def special (s : State) (g : Group) (p : Split) (n : Nat) : DWord :=
  let c := g.ref.core
  let w (x : Nat) : DWord := BitVec.ofNat 64 x
  match n with
  | 0x001 => w g.ref.gctx
  | 0x002 => w g.wg
  | 0x003 => w g.kernel
  | 0x004 => w c
  | 0x005 => w (coreCluster c)
  | 0x006 => w (coreSector c)
  | 0x007 => w (((s.ctx? g.cx).map fun x => x.bindRec.vchip).getD 0)
  | 0x010 => w s.gtime
  | 0x012 => w s.cycle
  | 0x014 =>
    match s.wgOf g with
    | none => 0
    | some wg => (wg.tags.filter fun t => t.2.st == .ready).foldl (fun m t => m ||| BitVec.ofNat 64 (2 ^ t.1)) 0
  | 0x020 => g.fpmode.zeroExtend 64
  | 0x021 => g.fpflags.zeroExtend 64
  | 0x022 => g.seed.zeroExtend 64
  | 0x023 => w g.wb
  | 0x024 => p.exec.zeroExtend 64
  | 0x025 => g.bkcnt.zeroExtend 64
  | 0x026 => g.regcnt.zeroExtend 64
  | 0x027 => g.sowref.zeroExtend 64
  | 0x030 => w (512 * (32 * c + g.ref.gctx))
  | 0x031 => w g.priv.toNat
  | _ => 0

/-- SREAD (R27, R138): $TFRAME only at level 1. -/
def execSread (v : Bool) (d : BitVec 7) (n : BitVec 10) (s : State) : Out :=
  let i : Instr := .sread v d n
  let wide := specialWidth n.toNat == some 64
  withIssuer s fun g p =>
    if n.toNat = 0x030 ∧ ¬ g.priv then s.trap g p i cPRIV
    else
      checkUses s g p i (if v then useV [d.toNat] else useS (if wide then [d.toNat, d.toNat + 1] else [d.toNat]))
        (let x := special s g p n.toNat
         (s.updGroup g.ref fun h =>
           if v then h.setLanes d.toNat p.exec fun l => if n = 0 then BitVec.ofNat 32 l else x.extractLsb' 0 32
           else if wide then (h.setS d.toNat (x.extractLsb' 0 32)).setS (d.toNat + 1) (x.extractLsb' 32 32)
           else h.setS d.toNat (x.extractLsb' 0 32)).done g p i)

/-- SWRITE of a writable register (R27, R58, R59, R138). -/
def execSwrite (d : BitVec 6) (n : BitVec 10) (s : State) : Out :=
  let i : Instr := .swrite d n
  issue s i (useS [d.toNat]) fun g p =>
    let x := g.getS d.toNat
    (s.updGroup g.ref fun h =>
      match n.toNat with
      | 0x020 => { h with fpmode := x &&& 0x1F, fpmodeOld := h.modeAt s.cycle, fpmodeFrom := s.cycle + 1 }
      | 0x021 => { h with fpflags := h.fpflags &&& ~~~x }
      | 0x022 => { h with seed := x }
      | 0x025 => { h with bkcnt := x }
      | 0x027 => { h with sowref := x }
      | _ => h).done g p i

end Sys2Proof.Machine
end

