-- ==== Sys2Proof/Machine/Tile.lean ====
section
/-! DEFINITION. The matrix tile's instructions (spec/15_tile.md R303 to R310). -/

namespace Sys2Proof.Machine

/-- The codes of R302. -/
def tEMPTY : Nat := 1
def tNOTOWNED : Nat := 2
def tBOARDED : Nat := 3
def tCLASS : Nat := 4
def tBUSY : Nat := 5
def tQNOTHELD : Nat := 6
def tQRANGE : Nat := 7
def tQINUSE : Nat := 8
def tPOISONED : Nat := 9

def Core.slot (c : Core) (n : Nat) : Slot := ((c.slots.find? fun e => e.1 == n).map (·.2)).getD {}

/-- Writes a slot; a FREE slot is not listed. -/
def Core.setSlot (c : Core) (n : Nat) (sl : Slot) : Core :=
  let rest := c.slots.filter fun e => e.1 != n
  { c with slots := if sl.owner.isNone then rest else sortBy (·.1) ((n, sl) :: rest) }

def Core.rec? (c : Core) (q : Nat) : Option QRec := (c.recs.find? fun e => e.1 == q).map (·.2)

/-- A record is in use: the flag of an MMA or MMAG that names it is set (R297). -/
def Core.inUse (c : Core) (q : Nat) : Bool := ((c.rec? q).map fun r => !r.flags.isEmpty).getD false

/-- A WLOAD fills the slot, and an MRES the record (R302). -/
def Core.slotFills (c : Core) (n : Nat) : Bool := (c.slot n).filling.isSome
def Core.recFills (c : Core) (q : Nat) : Bool := ((c.rec? q).bind (·.filling)).isSome

/-- The cycle behind the one in which slot n stops being busy, as its jobs and its fill stand (R282, R296, R301). -/
def Core.slotFreeFrom (c : Core) (n : Nat) : Nat :=
  let jobs := (c.jobs.foldl (fun (a : Nat × Nat) j =>
    let st := j.start.getD (max (j.issued + 4) a.1)
    (if j.start.isSome then a.1 else st + 128 * j.steps, max a.2 (((j.busyUntil n st).map (· + 1)).getD 0))) (c.seqFree, 0)).2
  let fill := ((c.slot n).filling.map fun f => f.2.2 + 137).getD 0
  (c.freed.filter fun e => e.1 == n).foldl (fun a e => max a e.2) (max jobs fill)

/-- The scratchpad bytes of the group's workgroup. -/
def State.scratchSize (s : State) (g : Group) : Nat := ((s.wgOf g).map (·.scratchBytes)).getD 0

/-! ## MRES and MREL -/

/-- MRES: reserves a record and fills it (R303). -/
def execMres (d a : BitVec 6) (q : BitVec 3) (base rowsm1 : BitVec 8) (soff : BitVec 11) (sc : Bool) (f : Fmt) (s : State) : Out :=
  let i : Instr := .mres d a q base rowsm1 soff sc f
  issueFree s i (fun g _ => (s.core g.ref.core).recFills q.toNat) (useS [d.toNat, a.toNat]) fun g p =>
    let c := s.core g.ref.core
    let off := (g.getS a.toNat).toNat
    let rows := rowsm1.toNat + 1
    let b := base.toNat
    let old := c.rec? q.toNat
    let fin (s : State) (st : Nat) : State := (s.updGroup g.ref fun h => h.setS d.toNat (BitVec.ofNat 32 st)).done g p i
    if off % 128 ≠ 0 then s.trapAt g p i cALIGN p.exec off 0
    else if off + 256 * rows > s.scratchSize g then s.trapAt g p i cPROT p.exec off 0
    else if (old.map fun r => r.owner == g.ref).getD false && c.inUse q.toNat then s.trap g p i cWSLOT tQINUSE
    else if (old.map fun r => r.owner != g.ref).getD false then fin s 1
    else if c.recs.any fun e => e.1 != q.toNat && decide (e.2.base < b + rows) && decide (b < e.2.base + e.2.rows) then fin s 2
    else
      let r : QRec := { owner := g.ref, base := b, rows := rows, fmt := f, sc := sc, soff := 32 * soff.toNat,
                        filling := some (off, s.cycle) }
      fin (s.updCore g.ref.core fun c => { c with recs := sortBy (·.1) ((q.toNat, r) :: c.recs.filter fun e => e.1 != q.toNat) }) 0

/-- MREL (R304). -/
def execMrel (q : BitVec 3) (s : State) : Out :=
  issueFree s (.mrel q) (fun g _ => (s.core g.ref.core).recFills q.toNat) {} fun g p =>
    let c := s.core g.ref.core
    if (c.rec? q.toNat).map (·.owner) != some g.ref then s.done g p (.mrel q)
    else if c.inUse q.toNat then s.trap g p (.mrel q) cWSLOT tQINUSE
    else (s.updCore g.ref.core fun c => { c with recs := c.recs.filter fun e => e.1 != q.toNat }).done g p (.mrel q)

/-! ## MMA and MMAG -/

/-- A row of a step and its scale bytes lie in the record (R298). -/
def QRec.holds (r : QRec) (q : Nat) : Bool :=
  decide (q < r.rows) && (!r.sc || decide (r.soff + blocksOf r.fmt * (q + 1) ≤ 256 * r.rows))

/-- The checks of R306 for one step; none: it passes. -/
def Core.stepCheck (c : Core) (g : Group) (j : Job) (st : Nat) : Option (Cause × Nat) :=
  match c.rec? j.q with
  | none => some (cWSLOT, tQNOTHELD)
  | some r =>
    let sl := c.slot (j.slotOf st)
    if r.owner != g.ref then some (cWSLOT, tQNOTHELD)
    else if j.rows.any fun m => !r.holds (j.rowOf st m) then some (cWSLOT, tQRANGE)
    else if sl.owner != some g.ref then some (cWSLOT, tNOTOWNED)
    else if sl.board.isSome then some (cWSLOT, tBOARDED)
    else if sl.st == .poisoned then some (cBALE, tPOISONED)
    else if sl.st != .full then some (cWSLOT, tEMPTY)
    else if !fmtsMeet r.fmt sl.fmt then some (cWSLOT, tCLASS)
    else none

/-- The first check of R306 that fails. -/
def Core.jobCheck (c : Core) (g : Group) (j : Job) : Option (Cause × Nat) := (List.range j.steps).findSome? (c.stepCheck g j)

/-- An MMA or MMAG waits at issue: a fill of its record or of one of its slots runs, or its jobs do not all fit in the queue or on its flag
(R31, R296, R300, R302). Its checks are made behind the wait. -/
def tileWaits (s : State) (g : Group) (p : Split) (f : Nat) (q steps : Nat) (slotOf : Nat → Nat) : Bool :=
  let c := s.core g.ref.core
  let n := (lanesOf p.exec).length
  n != 0 && (c.recFills q || ((List.range (min 8 steps)).any fun st => c.slotFills (slotOf st))
    || decide (c.jobs.length + n > Config.jobCap) || !s.flagRoom g f n)

/-- MMA and MMAG behind the checks of R43: one job for each active lane, each attached to the flag (R300). more are the checks that follow
those of R306. -/
def tileOp (s : State) (g : Group) (p : Split) (i : Instr) (f : Nat) (pend : PendSet) (j : Job)
    (more : Option (Cause × Nat)) : State :=
  let c := s.core g.ref.core
  let n := (lanesOf p.exec).length
  if n = 0 then s.done g p i
  else
    match c.jobCheck g j with
    | some (cause, detail) => s.trap g p i cause detail
    | none =>
      match more with
      | some (cause, addr) => s.trapAt g p i cause p.exec addr 0
      | none =>
        let (id, s1) := s.attach g p i f pend (.mma n)
        (s1.updCore g.ref.core fun c =>
          { c with jobs := c.jobs ++ List.replicate n { j with op := id },
                   recs := upd (fun e : Nat × QRec => e.1 == j.q) (fun e =>
                     (e.1, { e.2 with flags := f :: e.2.flags.filter (· != f) })) c.recs }).done g p i

def mmaOp (s : State) (i : Instr) (fs acc : Bool) (c : BitVec 7) (q w : BitVec 3) (steps : BitVec 8) (wadv : Bool) (ainc : Nat) : Out :=
  issueLongFree s i fs (fun g p f => tileWaits s g p f q.toNat (steps.toNat + 1) fun st => slotAt w.toNat wadv st)
    (useV (runRegs c.toNat 64)) fun g p f =>
    tileOp s g p i f { vw := runRegs (g.wb + c.toNat) 64 }
      { op := 0, grp := g.ref, issued := s.cycle, acc := acc, c := g.wb + c.toNat, q := q.toNat, w := w.toNat,
        steps := steps.toNat + 1, wadv := wadv, ainc := ainc } none

/-- MMA without a literal (R305, R306). -/
def execMma (fs acc : Bool) (c : BitVec 7) (q w : BitVec 3) (steps : BitVec 8) (s : State) : Out :=
  mmaOp s (.mma fs acc c q w steps) fs acc c q w steps true 32

/-- MMA with a literal (R305, R306). -/
def execMmaLit (fs acc : Bool) (c : BitVec 7) (q w : BitVec 3) (steps : BitVec 8) (wadv : Bool) (ainc : BitVec 8) (s : State) : Out :=
  mmaOp s (.mmaLit fs acc c q w steps wadv ainc) fs acc c q w steps wadv ainc.toNat

/-- MMAG: gathered rows, scattered results (R307). -/
def execMmag (fs st : Bool) (g0 : BitVec 7) (q w : BitVec 3) (steps : BitVec 8) (xs : BitVec 7) (wadv : Bool) (ainc : BitVec 8)
    (s : State) : Out :=
  let i : Instr := .mmag fs st g0 q w steps xs wadv ainc
  issueLongFree s i fs (fun g p f => tileWaits s g p f q.toNat (steps.toNat + 1) fun st => slotAt w.toNat wadv st)
    (useV [g0.toNat, xs.toNat]) fun g p f =>
    let gs := (List.range 32).map fun m => (g.getV g0.toNat m).toNat
    let xv := (List.range 32).map fun m => (g.getV xs.toNat m).toNat
    let j : Job := { op := 0, grp := g.ref, issued := s.cycle, acc := false, c := 0, q := q.toNat, w := w.toNat,
                     steps := steps.toNat + 1, wadv := wadv, ainc := ainc.toNat, gather := some (gs, xv), st := st }
    let more : Option (Cause × Nat) :=
      match j.rows.find? fun m => xv.getD m 0 % 4 != 0 with
      | some m => some (cALIGN, xv.getD m 0)
      | none => (j.rows.find? fun m => decide (xv.getD m 0 + 256 > s.scratchSize g)).map fun m => (cPROT, xv.getD m 0)
    tileOp s g p i f {} j more

/-! ## WLOAD, WFREE, MSTAT -/

/-- WLOAD: a slot filled from the scratchpad (R308). -/
def execWload (n : BitVec 3) (a b : BitVec 6) (s : State) : Out :=
  let i : Instr := .wload n a b
  issueFree s i (fun g _ => (s.core g.ref.core).slotFills n.toNat) (useS [a.toNat, b.toNat]) fun g p =>
    let c := s.core g.ref.core
    let off := (g.getS a.toNat).toNat
    let w := g.getS b.toNat
    let soff := 32 * (w.extractLsb' 16 13).toNat
    let sc := w.getLsbD 4
    let sl := c.slot n.toNat
    match decFmt (w.extractLsb' 0 4) with
    | .error _ => s.trap g p i cILL
    | .ok f =>
      if w.extractLsb' 29 3 != 0 || w.extractLsb' 5 11 != 0 || !Fmt.matrix f || (sc && Fmt.wide f) || (!sc && soff != 0) then
        s.trap g p i cILL
      else if off % 128 ≠ 0 then s.trapAt g p i cALIGN p.exec off 0
      else if off + 16384 > s.scratchSize g || (sc && decide (soff + 64 * blocksOf f > s.scratchSize g)) then
        s.trapAt g p i cPROT p.exec off 0
      else if (sl.owner.map fun r => r != g.ref).getD false then s.trap g p i cWSLOT tNOTOWNED
      else if sl.board.isSome then s.trap g p i cWSLOT tBOARDED
      else if c.mmaBusy n.toNat s.cycle then s.trap g p i cWSLOT tBUSY
      else
        (s.updCore g.ref.core fun c =>
          c.setSlot n.toNat { owner := some g.ref, st := .full, fmt := f, scaled := sc, filling := some (off, soff, s.cycle) }).done g p i

/-- WFREE (R309). -/
def execWfree (n : BitVec 3) (s : State) : Out :=
  let i : Instr := .wfree n
  issueFree s i (fun g _ => (s.core g.ref.core).slotFills n.toNat) {} fun g p =>
    let c := s.core g.ref.core
    let sl := c.slot n.toNat
    let free (s : State) : State := s.updCore g.ref.core fun c => c.setSlot n.toNat {}
    if sl.owner != some g.ref then s.done g p i
    else if c.mmaBusy n.toNat s.cycle then s.trap g p i cWSLOT tBUSY
    else
      match sl.board with
      | none => (free s).done g p i
      | some b =>
        if b.st == .capturing then s.stall g p .poll
        else ((free s).boardDone b.op b.lowest 0 boardCancel).done g p i

/-- The jobs of a core, and those of one group. -/
def Core.jobCount (c : Core) (r : GRef) : Nat × Nat := (c.jobs.length, (c.jobs.filter fun j => j.grp == r).length)

/-- The word of MSTAT for slots: four bits a slot (R310). -/
def Core.slotWord (c : Core) (r : GRef) : Nat :=
  ((List.range 8).map fun n =>
    let sl := c.slot n
    let st := match sl.st with
      | .free => 0 | .empty => 1 | .full => 2 | .poisoned => 3
    (st + (if sl.owner == some r then 4 else 0) + (if sl.board.isSome then 8 else 0)) * 16 ^ n).foldl (· + ·) 0

/-- The word of MSTAT for records. -/
def Core.recWord (c : Core) (r : GRef) : Nat :=
  ((List.range 8).map fun n =>
    match c.rec? n with
    | none => 0
    | some q => (1 + (if q.owner == r then 2 else 0) + (if c.inUse n then 4 else 0)) * 16 ^ n).foldl (· + ·) 0

/-- MSTAT (R310). -/
def execMstat (d : BitVec 6) (selr : BitVec 7) (s : State) : Out :=
  let i : Instr := .mstat d selr
  issue s i (useS [d.toNat]) fun g p =>
    let c := s.core g.ref.core
    let put (x : Nat) : State := (s.updGroup g.ref fun h => h.setS d.toNat (BitVec.ofNat 32 x)).done g p i
    match selr.toNat with
    | 0 => put (c.slotWord g.ref)
    | 1 => put (c.recWord g.ref)
    | 2 => put ((c.jobCount g.ref).1 + 65536 * (c.jobCount g.ref).2)
    | 3 => put g.mconf.toNat
    | 4 => (s.updGroup g.ref fun h => { h.setS d.toNat g.mconf with mconf := 0 }).done g p i
    | _ => s.trap g p i cILL

end Sys2Proof.Machine
end

