-- ==== Sys2Proof/Machine/Windrow.lean ====
section
/-! DEFINITION. Circuits, boards and the four instructions of the Windrow (spec/14_windrow.md R274 to R291). -/

namespace Sys2Proof.Machine

/-! ## Positions -/

/-- A lap runs in reverse (R277). -/
def Circuit.reverse (c : Circuit) (lap : Nat) : Bool :=
  match c.dir with
  | 0 => false
  | 1 => true
  | 2 => lap % 2 == 1
  | _ => lap % 2 == 0

/-- Bales of a list of layers. -/
def baleSum (l : List (Nat × Nat)) : Nat := l.foldl (fun n e => n + e.2) 0

/-- The bales of a lap. -/
def Circuit.bales (c : Circuit) : Nat := baleSum c.layers

/-- ORD: the traversal ordinal of a bale in a lap (R274). -/
def Circuit.ordOf (c : Circuit) (lap layer bale : Nat) : Nat :=
  (if c.reverse lap then baleSum (c.layers.drop (layer + 1)) else baleSum (c.layers.take layer)) + bale

/-- The layer and bale of an ordinal, the layers given in traversal order with their numbers. -/
def posIn : List (Nat × Nat) → Nat → Nat × Nat
  | [], _ => (0, 0)
  | (k, n) :: t, o => if o < n then (k, o) else posIn t (o - n)

def Circuit.posOf (c : Circuit) (lap ord : Nat) : Nat × Nat :=
  let l := (c.layers.zipIdx).map fun e => (e.2, e.1.2)
  posIn (if c.reverse lap then l.reverse else l) ord

/-- The cycles from injection to the tap of a cluster (R276). -/
def transit (c : Nat) : Nat := if c ≤ 11 then 4 * c else 4 * c + 12

/-- The tap position at a cluster: lap and ordinal (R290). A header that is held at the tap has reached it. -/
def Circuit.tapPos (c : Circuit) (cl : Nat) : Nat × Nat :=
  match c.ring.find? fun b => !b.passed.getLsbD cl && b.heldAt != some cl with
  | some b => (b.lap, b.ord)
  | none => (c.lap, c.ord)

def circCode : CircSt → Nat
  | .running => 1 | .stopping => 2 | .stopped => 3 | .ended => 4 | .faulted => 5 | .removed => 0

/-- A circuit that serves no further lap (R283 end). -/
def Circuit.over (c : Circuit) : Bool := c.st == .ended || c.st == .faulted || c.st == .removed

/-- REACHED of R291. -/
def Circuit.reached (c : Circuit) (cl lap layer bale : Nat) : Bool :=
  let (lt, pt) := c.tapPos cl
  let d := (lt + 2 ^ 32 - lap % 2 ^ 32) % 2 ^ 32
  (decide (0 < d) && decide (d < 2 ^ 31)) || (d == 0 && decide (pt > c.ordOf lap layer bale))

/-- A LAP dependence is met by the feeder position (R104). -/
def Circuit.lapMet (c : Circuit) (lap layer : Nat) : Bool :=
  let d := (c.lap + 2 ^ 32 - lap % 2 ^ 32) % 2 ^ 32
  c.over || (decide (layer < c.layers.length)
    && ((decide (0 < d) && decide (d < 2 ^ 31)) || (d == 0 && decide (c.ord ≥ c.ordOf lap layer 0))))

/-- The feeder has moved, or the circuit has ended: dependences and LAPWAITs on it are tested. A circuit in NONE ends them too. -/
def State.lapTests (s : State) (c : Circuit) : State :=
  let s1 := s.meet c.cx fun d => match d with
    | .lap n lap layer => n == c.num && c.lapMet lap layer
    | _ => false
  let mine (o : PendOp) : Option Nat := match o.kind with
    | .lapwait _ circ lap layer bale =>
      if circ = c.num ∧ ((s1.group? o.grp).map (·.cx)) = some c.cx then
        if c.reached (coreCluster o.grp.core) lap layer bale then some 0 else if c.over then some 1 else none
      else none
    | _ => none
  s1.ops.foldl (fun s o =>
    match o.kind, mine o with
    | .lapwait d _ _ _ _, some st => (s.withOpGroup o fun g => g.setS d (BitVec.ofNat 32 st)).finishOp o.id
    | _, _ => s) s1

/-! ## The bale on the ring (R275, R286) -/

/-- Bytes 0x000 to 0x3DF of the header. -/
def Bale.header (b : Bale) : List Byte :=
  let flags := b.scaled.toNat + 2 * b.poison.toNat + 4 * b.rev.toNat
  leBytes 1 b.circ ++ leBytes 1 flags ++ leBytes 1 b.fmtCode ++ [0] ++ leBytes 4 b.lap ++ leBytes 2 b.layer ++ leBytes 2 b.bale
    ++ List.replicate 20 0 ++ (b.scales.map fun x => BitVec.ofNat 8 x) ++ b.carried

def Bale.tileBytes (b : Bale) : List Byte := (List.range 16384).map fun i => sget 0 b.tile i

/-- The 17 beats in order. -/
def Bale.bytes (b : Bale) : List Byte :=
  b.header ++ bitsBlock b.mac ++ leBytes 4 b.crc.toNat ++ List.replicate 12 0 ++ b.tileBytes

/-- The MAC over bytes 0x000 to 0x3DF and the tile, its IV {CIRC, LAP, LAYER, BALE, 0}. -/
def beatsMac (k : Key) (bs : List Byte) : BitVec 128 :=
  gmac k (bs.take 1 ++ (bs.drop 4).take 8 ++ [0, 0, 0]) (bs.take 0x3E0 ++ bs.drop 0x400)

/-- The CRC over bytes 0x000 to 0x3EF and the tile. -/
def beatsCrc (bs : List Byte) : Word := crc32c (bs.take 0x3F0 ++ bs.drop 0x400)

/-- The feeder writes MAC and CRC. -/
def Bale.coded (b : Bale) (k : Key) : Bale :=
  let b1 := { b with mac := beatsMac k b.bytes }
  { b1 with crc := beatsCrc b1.bytes }

/-- Its bits have come out wrong before the tap of a cluster. -/
def Bale.wrongAt (b : Bale) (cl : Nat) : Bool := b.flips != 0 && decide (b.hop ≤ cl)

/-- The beats as they come out. -/
def Bale.wrongBytes (b : Bale) : List Byte := xorBytes b.bytes (leBytes Config.baleBytes b.flips)

/-- A hop's check of the CRC finds nothing, and so a tap's check of the MAC (R286). -/
def Bale.crcOk (b : Bale) (cl : Nat) : Bool :=
  !b.wrongAt cl || beatsCrc b.wrongBytes == BitVec.ofNat 32 (leNat ((b.wrongBytes.drop 0x3F0).take 4))

def Bale.macOk (b : Bale) (k : Key) (cl : Nat) : Bool :=
  !b.wrongAt cl || beatsMac k b.wrongBytes == blockBits ((b.wrongBytes.drop 0x3E0).take 16)

/-- The bale as the tap of a cluster captures it. -/
def Bale.seen (b : Bale) (cl : Nat) : Bale :=
  if !b.wrongAt cl then b
  else
    let bs := b.wrongBytes
    { b with scaled := (bs.getD 1 0).getLsbD 0, fmtCode := (bs.getD 2 0).toNat, scales := ((bs.drop 0x20).take 128).map (·.toNat),
             tile := sputRun 0 [] 0 (bs.drop 0x400) }

/-! ## Boards -/

/-- The board of a slot, where it is armed on this installation of a circuit. -/
def boardOn (c : Circuit) (sl : Slot) : Option Board := sl.board.filter fun b => b.circ == c.id

/-- A slot is busy for a capture (R282, R296). -/
def Core.slotBusy (c : Core) (n now : Nat) : Bool := c.mmaBusy n now || c.slotFills n

/-- The cycle in which a held header is forwarded: that behind the one in which the last of the slots that hold it stops being busy (R282). -/
def State.heldUntil (s : State) (b : Bale) : Nat := (b.heldFor.map fun e => (s.core e.1).slotFreeFrom e.2).foldl max 0

/-- Takes the board off a slot and completes it; the slot keeps its state and owner (R285). -/
def State.endBoard (s : State) (core n lap code : Nat) : State :=
  match ((s.core core).slot n).board with
  | none => s
  | some b => (s.updCore core fun c => c.updSlot n fun sl => { sl with board := none }).boardDone b.op b.lowest lap code

/-- An UNBOARD of the slot's owner is at the tap in this cycle. -/
def State.cancelNow (s : State) (core n : Nat) (sl : Slot) : Bool :=
  s.arms.any fun a => decide (a.issued + 8 = s.cycle) && a.grp.core == core && a.slot == n && sl.owner == some a.grp
    && (match a.un with
        | some (_, none) => true
        | _ => false)

/-- *end* of R283: in a circuit that is over, armed boards that no bale on the ring can serve complete ENDED; where *cancel* reaches the
board in this cycle, it comes first. A bale serves a board that armed 64 cycles before its header arrives (R284). -/
def State.endBoards (s : State) (c : Circuit) : State :=
  if !c.over then s
  else
    s.cores.foldl (fun s co => co.slots.foldl (fun s e =>
      match boardOn c e.2 with
      | none => s
      | some b =>
        let comes := c.ring.any fun x =>
          x.lap == b.target && x.layer == b.layer && x.bale == b.bale && !x.passed.getLsbD (coreCluster co.n)
            && (c.mode == 1 || decide (b.armed + 64 ≤ x.at_ + transit (coreCluster co.n)))
        if b.st == .armed && !comes && !s.cancelNow co.n e.1 e.2 then s.endBoard co.n e.1 0 boardEnded else s) s) s

/-- The next target lap of a board that missed, or its end: NW gives MISS (R284). -/
def State.missBoard (s : State) (core n : Nat) (b : Board) (lap : Nat) : State :=
  if b.nw then s.endBoard core n 0 boardMiss
  else s.updCore core fun c => c.updSlot n fun sl => { sl with board := some { b with target := (lap + 1) % 2 ^ 32 } }

/-! ## Circuit events -/

/-- A circuit that has been removed frees its engine when its last bale has left the ring (R280). -/
def State.sweepCircuit (s : State) (c : Circuit) : State :=
  if c.st == .removed && c.ring.isEmpty then { s with circuits := s.circuits.filter fun x => x.id != c.id } else s

/-- A circuit enters a state in which it injects no more: boards and waits are told (R280, R283). -/
def State.stopCircuit (s : State) (c : Circuit) (st : CircSt) : State :=
  let c1 := { c with st := st, begun := false }
  let s1 := s.updCirc c.id fun _ => c1
  ((s1.endBoards c1).lapTests c1).sweepCircuit c1

/-- *clear* of R280 on every circuit of a context. -/
def State.clearCircuits (s : State) (cx : Nat) : State :=
  (s.circuits.filter fun c => c.cx == cx && c.st != .removed).foldl (fun s c => s.stopCircuit c .removed) s

/-- The first lap of a PACED circuit whose start lies at a time or later. -/
def Circuit.dueLap (c : Circuit) (t : Nat) : Nat := (t - c.epoch + c.period - 1) / c.period

/-- Circuits with every lap of their limit done end; those that have not begun a lap are looked at. -/
def State.endSpent (s : State) (p : Circuit → Bool) : State :=
  (s.circuits.filter fun c => p c && c.st == .running && c.lapLimit != 0 && decide (c.lap ≥ c.lapLimit)).foldl (fun s c =>
    s.stopCircuit c .ended) s

/-- Circuits move to another position without an injection: dependences and LAPWAITs on those that p picks are tested. -/
def State.moveCircuits (s : State) (p : Circuit → Bool) (f : Circuit → Circuit) : State :=
  let s1 : State := { s with circuits := upd p f s.circuits }
  (s.circuits.filter p).foldl (fun s c => s.lapTests (f c)) s1

/-- *restored* of R280: stopping and stopped circuits run again; a PACED one skips the laps whose starts have passed (R287). -/
def State.resumeCircuits (s : State) (cx : Nat) : State :=
  let s1 := s.moveCircuits (fun c => c.cx == cx && (c.st == .stopping || c.st == .stopped)) fun c =>
    if c.st = .stopping then { c with st := .running }
    else if c.mode = 2 then { c with st := .running, lap := max c.lap (c.dueLap s.gtime) % 2 ^ 32, begun := false }
    else { c with st := .running, begun := true }
  s1.endSpent fun c => c.cx == cx && c.ord == 0

/-- A step of $GTIME to t: the laps of PACED circuits whose starts it passes are skipped (R351). -/
def State.skipLaps (s : State) (t : Nat) : State :=
  let s1 := s.moveCircuits (fun c => c.mode == 2 && (c.st == .running || c.st == .stopping)) fun c =>
    if c.begun then { c with skipTo := c.dueLap t } else { c with lap := max c.lap (c.dueLap t) % 2 ^ 32 }
  s1.endSpent fun c => c.mode == 2 && !c.begun

/-- A corrupted bale is reported to the feeder; in two consecutive laps, in whichever order they are found, it raises *cfault* (R286). -/
def State.corruptBale (s : State) (id layer bale lap : Nat) : State :=
  match s.circuits.find? fun c => c.id == id with
  | none => s
  | some c =>
    -- laps that may still meet the next one or the one before
    let near (x y : Nat) : Bool := (x + 1) % 2 ^ 32 == y || (y + 1) % 2 ^ 32 == x
    let same := c.corrupt.filter fun e => e.1 == layer && e.2.1 == bale
    let s1 := s.updCirc id fun c =>
      { c with corrupt := (layer, bale, lap) :: c.corrupt.filter fun e =>
          !(e.1 == layer && e.2.1 == bale) || near e.2.2 lap || (e.2.2 + 2) % 2 ^ 32 == lap }
    let again := same.any fun e => near e.2.2 lap
    if again && (c.st == .running || c.st == .stopping) then
      match s1.circuits.find? fun c => c.id == id with
      | none => s1
      | some c1 =>
        let s2 := s1.stopCircuit c1 .faulted
        let chain := s2.rcbChain c.cx 8 (if c.rcb = 0 then ((s2.ctx? c.cx).map fun x => x.bindRec.rootRcb).getD 0 else c.rcb)
        let addr := ((c.layers[layer]?).map fun e => e.1 + Config.baleBytes * bale).getD 0
        let s3 := s2.writeRecord c.cx chain { type := 5, addr := addr, detail := c.num }
        if policyOf chain = 3 then s3.contextFault c.cx faultCircuit else s3
    else s1

/-! ## BOARD and UNBOARD -/

/-- BOARD: one board for each active lane, on its way to the tap (R288). -/
def execBoard (fs : Bool) (d a : BitVec 6) (nw : Bool) (w : BitVec 3) (c : BitVec 4) (s : State) : Out :=
  let i : Instr := .board fs d a nw w c
  issueLongFree s i fs (fun g p f => p.exec != 0 && ((s.core g.ref.core).slotFills w.toNat || !s.flagRoom g f 1))
    (useS [d.toNat, a.toNat]) fun g p f =>
    let n := (lanesOf p.exec).length
    if n = 0 then s.done g p i
    else
      let (id, s1) := s.attach g p i f { sw := [d.toNat] } (.board d.toNat n 0)
      let pos := g.getS a.toNat
      let arms := (List.range n).map fun j =>
        ({ op := id, lowest := j == 0, grp := g.ref, cx := g.cx, slot := w.toNat, circ := c.toNat,
           layer := (pos.extractLsb' 16 16).toNat, bale := (pos.extractLsb' 0 16).toNat, nw := nw, issued := s.cycle } : ArmMsg)
      ({ s1 with arms := s1.arms ++ arms } : State).done g p i

/-- UNBOARD: on its way to the tap; the split stalls until the reply, which the tap's message brings (R289). -/
def execUnboard (d : BitVec 6) (n : BitVec 3) (s : State) : Out :=
  let i : Instr := .unboard d n
  issueFree s i (fun g _ => (s.core g.ref.core).slotFills n.toNat) (useS [d.toNat]) fun g p =>
    match p.wait with
    | .reply _ => s
    | _ =>
      let m : ArmMsg := { op := d.toNat, lowest := false, grp := g.ref, cx := g.cx, slot := n.toNat, circ := 0, layer := 0, bale := 0,
                          nw := false, issued := s.cycle, un := some (p.id, none) }
      ({ s with arms := s.arms ++ [m], nextId := s.nextId + 1 } : State).updSplit g.ref p.id fun q => { q with wait := .reply s.nextId }

/-- *cancel* at the tap: the board that UNBOARD names, and the answer: 0 it was ARMED, 1 the slot held no board of the group, 2 it was
CAPTURING and completes (R283, R289). -/
def State.cancelBoard (s : State) (r : GRef) (n : Nat) : State × Nat :=
  let sl := (s.core r.core).slot n
  match sl.board with
  | none => (s, 1)
  | some b =>
    if sl.owner != some r || (b.st == .capturing && decide (b.at_ + 18 ≤ s.cycle)) then (s, 1)
    else if b.st == .capturing then (s, 2)
    else (s.endBoard r.core n 0 boardCancel, 0)

/-- The reply of an UNBOARD: S[d] is written, and the split goes on in the next cycle (R289). -/
def State.unboarded (s : State) (m : ArmMsg) (split code : Nat) : State :=
  match (s.group? m.grp).bind fun g => (g.split? split).map fun p => (g, p) with
  | none => s
  | some (g, p) =>
    ((s.updGroup g.ref fun h => h.setS m.op (BitVec.ofNat 32 code)).done g p
      (.unboard (BitVec.ofNat 6 m.op) (BitVec.ofNat 3 m.slot))).updSplit g.ref p.id fun q => { q with yieldTo := s.cycle + 1 }

/-! ## LAPQ and LAPWAIT -/

/-- LAPQ: the tap position at the issuing cluster (R290). -/
def execLapq (d : BitVec 5) (c : BitVec 4) (s : State) : Out :=
  let i : Instr := .lapq d c
  issue s i (useS (pairRegs d.toNat)) fun g p =>
    let v : DWord := match s.circ? g.cx c.toNat with
      | none => BitVec.allOnes 64
      | some x =>
        let (lap, ord) := x.tapPos (coreCluster g.ref.core)
        let (layer, bale) := x.posOf lap ord
        BitVec.ofNat 64 (lap + 2 ^ 32 * (65536 * layer + bale))
    (s.updGroup g.ref fun h => h.setSPair d.toNat v).done g p i

/-- LAPQ.st: the state of a circuit (R290). -/
def execLapqSt (d : BitVec 6) (c : BitVec 4) (s : State) : Out :=
  let i : Instr := .lapqSt d c
  issue s i (useS [d.toNat]) fun g p =>
    let v : Nat := match s.circ? g.cx c.toNat with
      | none => 0
      | some x =>
        let lap := (x.tapPos (coreCluster g.ref.core)).1
        256 * x.lanes.toNat + 32 * x.mode + (if x.reverse lap then 16 else 0) + circCode x.st
    (s.updGroup g.ref fun h => h.setS d.toNat (BitVec.ofNat 32 v)).done g p i

/-- LAPWAIT (R291). -/
def execLapwait (fs : Bool) (d : BitVec 6) (a : BitVec 5) (c : BitVec 4) (s : State) : Out :=
  let i : Instr := .lapwait fs d a c
  issueLong s i fs (useS (d.toNat :: pairRegs a.toNat)) fun g p f =>
    let v := g.getSPair a.toNat
    let lap := (v.extractLsb' 0 32).toNat
    let layer := (v.extractLsb' 48 16).toNat
    let bale := (v.extractLsb' 32 16).toNat
    let fin (s : State) (x : Nat) : State := (s.updGroup g.ref fun h => h.setS d.toNat (BitVec.ofNat 32 x)).done g p i
    match s.circ? g.cx c.toNat with
    | none => fin s 3
    | some x =>
      match x.layers[layer]? with
      | none => fin s 2
      | some e =>
        if bale ≥ e.2 then fin s 2
        else if x.reached (coreCluster g.ref.core) lap layer bale then fin s 0
        else if x.over then fin s 1
        else if !s.flagRoom g f 1 then s.stall g p .poll
        else ((s.attach g p i f { sw := [d.toNat] } (.lapwait d.toNat c.toNat lap layer bale)).2).done g p i

end Sys2Proof.Machine
end

