-- ==== Sys2Proof/Machine/Kernel.lean ====
section
/-! DEFINITION. Kernels as the dispatcher and the queues handle them: RCBs (R101, R102), kernel descriptors (R100), dependences (R104),
the record of a LAUNCH (R98, R99), and the placement of workgroups, cluster launches and restored sets (R105 to R108, R114, R117, R118,
R144, R299). -/

namespace Sys2Proof.Machine

def fieldNat (bs : List Byte) (off n : Nat) : Nat := leNat ((bs.drop off).take n)

def allZero (bs : List Byte) (off n : Nat) : Bool := ((bs.drop off).take n).all fun b => b == 0

/-! ## RCBs -/

/-- PERIOD of a root in µs (R101). -/
def Rcb.periodUs (r : Rcb) : Nat := if r.period = 0 then 1000 else max 100 (min 1000000 r.period)

/-- The number of the period that $GTIME lies in (R102). -/
def State.periodNo (s : State) (r : Rcb) : Nat := s.gtime / (1000 * r.periodUs)

/-- An RCB as memory holds it (R101). Reserved bytes, bits [6:3] of PRIO and the alignment of FDLOG are not checked: the spec gives no fate
for values outside them (DESIGN CHOICE, log 25). -/
def rcbOf (cx addr : Nat) (bs : List Byte) : Rcb :=
  let pr := fieldNat bs 0x10 1
  { cx := cx, addr := addr, parent := fieldNat bs 0 8, budget := fieldNat bs 8 4, period := fieldNat bs 0xC 4,
    prio := if pr ≥ 128 ∨ pr % 8 ≠ 0 then some (pr % 8) else none, policy := fieldNat bs 0x11 1, fdlog := fieldNat bs 0x18 8,
    fdsize := fieldNat bs 0x20 4 }

/-- Reads an RCB unless the device holds it; none: misaligned, untranslated, unreadable or poisoned. -/
def State.readRcb (s : State) (cx addr : Nat) : State × Option Rcb :=
  match s.rcb? cx addr with
  | some r => (s, some r)
  | none =>
    if addr % 128 ≠ 0 then (s, none)
    else
      match s.engineRead cx addr 128 with
      | (s1, none) => (s1, none)
      | (s1, some bs) =>
        let r := rcbOf cx addr bs
        let r1 : Rcb := { r with periodNo := s1.periodNo r }
        ({ s1 with rcbs := s1.rcbs ++ [r1] }, some r1)

/-- Reads an RCB's chain up to its root: false where it exceeds 8 levels, or an RCB fails (R101). -/
def State.readChain (s : State) (cx : Nat) : Nat → Nat → State × Bool
  | 0, _ => (s, false)
  | fuel + 1, addr =>
    match s.readRcb cx addr with
    | (s1, none) => (s1, false)
    | (s1, some r) => if r.policy ≥ 4 then (s1, false) else if r.parent = 0 then (s1, true) else s1.readChain cx fuel r.parent

/-- BUDGET in group-cycles after inheritance; none: unlimited (R101, R102). -/
def budgetOf (chain : List Rcb) : Option Nat :=
  match (chain.find? fun r => r.budget != 0).map (·.budget) with
  | none => none
  | some b => if b = 0xFFFFFFFF then none else some (72000 * b)

/-! ## Kernel descriptors -/

/-- The fields of a KD with the limits of R100 that need nothing else; argptr replaces ARGPTR where it is not 0. -/
def kdOf (bs : List Byte) (argptr : Nat) : Option KD :=
  let f := fieldNat bs
  let scratch := f 0x10 4
  let flags := f 0x17 1
  let kd : KD :=
    { entry := f 0 8, wgx := f 8 2, wgy := f 0xA 2, wgz := f 0xC 2, groups := f 0xE 1, allot := f 0xF 1, scratch := scratch,
      l1kib := f 0x14 2, clog := f 0x16 1, coop := flags % 2 == 1, super := flags / 2 % 2 == 1,
      argptr := if argptr = 0 then f 0x18 8 else argptr, rcb := f 0x20 8,
      sranges := (List.range 4).map fun i => (f (0x28 + 4 * i) 2, f (0x2A + 4 * i) 2) }
  if kd.entry % 4 == 0 && kd.wgx != 0 && kd.wgy != 0 && kd.wgz != 0 && decide (1 ≤ kd.groups) && decide (kd.groups ≤ 32)
      && decide (1 ≤ kd.allot) && decide (kd.allot ≤ 8) && decide (kd.groups * 32 * kd.allot ≤ 1024) && scratch % 128 == 0
      && decide (32 ≤ kd.l1kib) && decide (kd.l1kib ≤ 256) && kd.l1kib % 32 == 0 && decide (scratch ≤ (256 - kd.l1kib) * 1024)
      && decide (kd.clog ≤ 5) && (kd.wgx * kd.wgy * kd.wgz) % 2 ^ kd.clog == 0 && decide (flags < 4)
      && kd.argptr % 64 == 0 && kd.rcb % 128 == 0 && (kd.sranges.all fun r => decide (r.1 + r.2 ≤ scratch / 16))
      && decide (f 0x38 1 ≤ 6) && allZero bs 0x39 7 && allZero bs 0x70 16 then some kd
  else none

/-- Dependence entries from entry i on: the dependences, or none where an entry gives BADKD (R104). KDONE and KTRIG name KD addresses
here. A bit outside the named payload that is not 0 gives BADKD (DEDUCED, log 42: R104 says so of no bit but those that it calls zero). -/
def depsOf (bs : List Byte) (n sheafN : Nat) : Nat → Nat → Option (List (Nat × Nat × Nat × Nat))
  | 0, _ => some []
  | fuel + 1, i =>
    let e := fieldNat bs (0x40 + 8 * i) 8
    if i ≥ 6 then some []
    else if i ≥ n then (if e = 0 then depsOf bs n sheafN fuel (i + 1) else none)
    else
      let kind := e / 2 ^ 61
      let next (x : Nat × Nat × Nat × Nat) (j : Nat) : Option (List (Nat × Nat × Nat × Nat)) :=
        (depsOf bs n sheafN fuel j).map fun l => x :: l
      if kind = 1 ∨ kind = 2 then (if e / 2 ^ 57 % 16 ≠ 0 then none else next (kind, e % 2 ^ 57, 0, 0) (i + 1))
      else if kind = 3 then
        if e / 2 ^ 24 % 2 ^ 37 ≠ 0 ∨ e / 2 ^ 12 % 4096 ≥ sheafN then none else next (3, e / 2 ^ 12 % 4096, e % 4096, 0) (i + 1)
      else if kind = 4 then
        if e % 2 ^ 61 ≠ 0 ∨ i + 1 ≥ n then none else next (4, fieldNat bs (0x48 + 8 * i) 8, 0, 0) (i + 2)
      else if kind = 5 then
        if e / 2 ^ 60 % 2 ≠ 0 ∨ e % 256 ≠ 0 then none else next (5, e / 2 ^ 56 % 16, e / 2 ^ 24 % 2 ^ 32, e / 2 ^ 8 % 65536) (i + 1)
      else none

/-- The dependence of an entry, none where it is met at record (R104). -/
def State.depAt (s : State) (cx : Nat) (e : Nat × Nat × Nat × Nat) : Option Dep :=
  let recent := (((s.ctx? cx).bind fun c => c.lastRec.find? fun l => l.1 == e.2.1).bind fun l => s.kernel? cx l.2)
  if e.1 = 1 then recent.map fun k => .kdone k.id
  else if e.1 = 2 then (recent.filter fun k => !k.triggered).map fun k => .ktrig k.id
  else if e.1 = 3 then
    if s.sealedAt cx e.2.1 e.2.2.1 then none else some (.shver e.2.1 e.2.2.1)
  else if e.1 = 4 then (if e.2.1 ≤ s.gtime then none else some (.gtime e.2.1))
  else if ((s.circ? cx e.2.1).map fun c => c.over || c.lapMet e.2.2.1 e.2.2.2).getD false then none
  else some (.lap e.2.1 e.2.2.1 e.2.2.2)

/-- What the consumption of a LAUNCH finds (R92, R96, R99). -/
inductive LaunchRes where
  | recorded | full | badKd
  deriving DecidableEq, Repr, Inhabited

def State.liveKernels (s : State) (cx : Nat) : Nat := (s.kernels.filter fun k => k.cx == cx).length

/-- The *record* of a kernel (R98): its KD is read and checked. rcb: the enqueuing kernel's RCB, for the device-side queue (R97). -/
def State.recordKernel (s : State) (cx kdAddr notBefore argptr : Nat) (rcb : Option Nat) (super : Bool) (by_ : Option (Nat × Nat)) :
    State × LaunchRes :=
  match s.ctx? cx with
  | none => (s, .badKd)
  | some c =>
    if s.liveKernels cx ≥ 1024 then (s, .full)
    else if kdAddr % 128 ≠ 0 then (s, .badKd)
    else
      match s.engineRead cx kdAddr 128 with
      | (s1, none) => (s1, .badKd)
      | (s1, some bs) =>
        match kdOf bs argptr, depsOf bs (fieldNat bs 0x38 1) c.bindRec.sheafN 7 0 with
        | some kd, some ds =>
          if kd.super && !super then (s1, .badKd)
          else
            let addr := rcb.getD (if kd.rcb = 0 then c.bindRec.rootRcb else kd.rcb)
            match s1.readChain cx 8 addr with
            | (s2, false) => (s2, .badKd)
            | (s2, true) =>
              let nb := if notBefore = 0 ∨ notBefore ≤ s2.gtime then [] else [Dep.gtime notBefore]
              let k : Kernel := { cx := cx, id := c.nextKernel, kdAddr := kdAddr, kd := kd, st := .recorded,
                                  deps := ds.filterMap (s2.depAt cx) ++ nb, rcb := addr, acq := !ds.isEmpty || notBefore != 0,
                                  launchedBy := by_ }
              let s3 : State := { s2 with kernels := s2.kernels ++ [k] }
              let s4 := s3.updCtx cx fun c =>
                { c with nextKernel := (c.nextKernel + 1) % 2 ^ 32,
                         lastRec := putFirst (fun l : Nat × Nat => l.1 == kdAddr) (kdAddr, c.nextKernel) c.lastRec }
              ((s4.promote cx).askVersions cx, .recorded)
        | _, _ => (s1, .badKd)

/-! ## Candidate cores (R105) -/

def clusterCores (cl : Nat) : List Nat := (List.range 32).map fun i => 32 * cl + i

/-- What a workgroup takes from a core: the allotments of its groups, scratchpad bytes, L1 KiB, and for a restore its records and
slots (R105, R299). -/
structure Need where
  allots : List Nat
  scratch : Nat
  l1kib : Nat
  recs : List ImageRec := []
  slots : List Nat := []
  deriving Repr, Inhabited

/-- Rows of an operand buffer that a record on the core takes. -/
def Core.rowsTaken (c : Core) (base rows : Nat) : Bool :=
  c.recs.any fun e => decide (e.2.base < base + rows) && decide (base < e.2.base + e.2.rows)

/-- The workgroups resident on a core, those that have exited apart. -/
def State.wgsOn (s : State) (core : Nat) : List Workgroup := s.wgs.filter fun w => w.core == core && !w.exited

def State.fits (s : State) (n : Need) (core : Nat) : Bool :=
  let on := s.wgsOn core
  let c := s.core core
  s.corePresent core
  && decide ((s.groups.filter fun (g : Group) => g.ref.core == core).length + n.allots.length ≤ 32)
  && decide (n.allots.foldl (· + ·) 0 ≤ s.freeRegs core)
  && (on.isEmpty || (c.l1kib == n.l1kib
        && decide ((on.map (·.scratchBytes)).foldl (· + ·) 0 + n.scratch ≤ (256 - c.l1kib) * 1024)))
  && (n.recs.all fun r => !(c.recs.any fun e => e.1 == r.q) && !c.rowsTaken r.base r.rows)
  && (n.slots.all fun w => !(c.slots.any fun e => e.1 == w))

/-- A core that takes a new split still has unpublished lines: the placement waits (R105). -/
def State.splitWaits (s : State) (n : Need) (core : Nat) : Bool :=
  (s.wgsOn core).isEmpty && (s.core core).l1kib != n.l1kib && !(s.core core).pq.isEmpty

/-- The core takes its L1 size for a workgroup of a context. -/
def State.takeCore (s : State) (core cx : Nat) (n : Need) : State :=
  let fresh := (s.wgsOn core).isEmpty && (s.core core).l1kib != n.l1kib
  s.updCore core fun c => { c with lastCx := some cx, l1kib := n.l1kib, l1 := if fresh then [] else c.l1 }

/-! ## New workgroups -/

/-- A group at its start (R118). -/
def startGroup (k : Kernel) (r : GRef) (l rank idx prio now : Nat) : Group :=
  let g : Group :=
    { ref := r, status := .live, cx := k.cx, kernel := k.id, wg := l, gidx := idx, allot := 32 * k.kd.allot, cls := prio,
      priv := k.kd.super, argsRead := false, argptr := k.kd.argptr,
      splits := [{ id := 0, pc := k.kd.entry, lset := BitVec.allOnes 32, exec := BitVec.allOnes 32, readySince := now,
                   progress := now }] }
  ((g.setS 16 (BitVec.ofNat 32 l)).setS 17 (BitVec.ofNat 32 idx)).setS 18 (BitVec.ofNat 32 rank)

/-- A group context of a core takes a group. -/
def State.addGroup (s : State) (core : Nat) (mk : GRef → Group) : State :=
  match s.freeGctx core with
  | none => s
  | some n => { s with groups := s.groups ++ [{ mk { core := core, gctx := n } with uid := s.nextId }], nextId := s.nextId + 1 }

/-- Places workgroup l of a kernel on a core (R105, R117, R118). -/
def State.placeWg (s : State) (k : Kernel) (n : Need) (l core : Nat) : State :=
  let size := 2 ^ k.kd.clog
  let own := (s.core core).lastCx == some k.cx || (s.core core).lastCx.isNone
  let w : Workgroup :=
    { cx := k.cx, kernel := k.id, l := l, core := core, rank := l % size, launchBase := l / size * size, launchSize := size,
      scratchBytes := k.kd.scratch, l1kib := k.kd.l1kib, fresh := if own then some s.freeCount else none, sranges := k.kd.sranges,
      since := s.cycle }
  let s1 : State := { (s.takeCore core k.cx n) with freeCount := if own then s.freeCount + k.kd.scratch else s.freeCount }
  let s2 := if k.acq then s1.acquire core .pod else s1
  let s3 : State := { s2 with wgs := s2.wgs ++ [w] }
  (List.range k.kd.groups).foldl (fun s i =>
    s.addGroup core fun r => startGroup k r l (l % size) i (prioOf (s.rcbChain k.cx 8 k.rcb)) s.cycle) s3

def Kernel.need (k : Kernel) : Need :=
  { allots := List.replicate k.kd.groups (32 * k.kd.allot), scratch := k.kd.scratch, l1kib := k.kd.l1kib }

/-- The clusters of a context's candidate sectors that have not placed in this cycle (R105). -/
def State.openClusters (s : State) (cx : Nat) : List Nat :=
  (s.clustersFor cx).filter fun cl => !(s.placeFree.any fun e => e.1 == clusterSector cl && decide (s.cycle < e.2))

/-- A sector places one workgroup or cluster launch: the next one a cycle later (R105). -/
def State.notePlaced (s : State) (sec : Nat) : State :=
  let from_ := max s.cycle (((s.placeFree.find? fun e => e.1 == sec).map (·.2)).getD 0) + 1
  { s with placeFree := putFirst (fun e : Nat × Nat => e.1 == sec) (sec, from_) s.placeFree }

/-- The next cores for a kernel within some clusters: one core, or 2^CLOG distinct cores of one cluster. -/
def State.coresFor (s : State) (k : Kernel) (cls : List Nat) : Option (List Nat) :=
  let n := k.need
  let size := 2 ^ k.kd.clog
  cls.findSome? fun cl =>
    let ok := (clusterCores cl).filter (s.fits n)
    if ok.length ≥ size then some (ok.take size) else none

/-- Outcome of an attempt to place. -/
inductive PlaceRes where
  | no
  /-- The cores chosen have still to publish their lines. -/
  | waits
  | done (s : State)

/-- The next workgroup or cluster launch of a kernel is placed in one of some clusters. -/
def State.placeNext (s : State) (k : Kernel) (cls : List Nat) : PlaceRes :=
  match s.coresFor k cls with
  | none => .no
  | some cs =>
    if cs.any (s.splitWaits k.need) then .waits
    else
      let s1 := (cs.zipIdx).foldl (fun s c => s.placeWg k k.need (k.nextL + c.2) c.1) s
      .done ((s1.notePlaced (coreSector (cs.headD 0))).updKernel k.cx k.id fun k =>
        { k with st := .running, nextL := k.nextL + cs.length, waitingSince := s.cycle, blocking := false })

/-- All workgroups of a cooperative kernel, or none (R107). They are placed in one step; each sector then places again only when as many
cycles have passed as it has taken launches (R105, log 24). -/
def State.placeAll (s : State) (cx id : Nat) (cls : List Nat) : Nat → PlaceRes
  | 0 => .no
  | fuel + 1 =>
    match s.kernel? cx id with
    | none => .no
    | some k =>
      if k.nextL ≥ k.total then .done s
      else match s.placeNext k cls with
        | .done s1 => s1.placeAll cx id cls fuel
        | r => r

/-- *coopfail*: status to the fault domain, and the kernel is ABORTED (R98, R107). -/
def State.coopFail (s : State) (k : Kernel) : State :=
  (s.kernelFault k.cx k.id { type := 3, kernel := k.id }).kernelEnded k.cx k.id false

/-! ## Restores (R117, R144, R299) -/

def Image.groupsOf (im : Image) (w : Workgroup) : List Group := im.groups.filter fun g => g.kernel == w.kernel && g.wg == w.l

def Image.need (im : Image) (w : Workgroup) : Need :=
  let gs := (im.groupsOf w).map (·.ref)
  { allots := (im.groupsOf w).map (·.allot), scratch := w.scratchBytes, l1kib := w.l1kib,
    recs := im.records.filter fun r => gs.contains r.owner, slots := (im.slots.filter fun e => gs.contains e.1).map (·.2) }

/-- Only watches are left to re-install: every result that a commit owes has been written (R146). -/
def Image.complete (im : Image) : Bool :=
  im.ops.all fun o => match o.kind with
    | .watch .. => true
    | _ => false

/-- An image is complete once every copy that targets a scratchpad in it has placed its last chunk (R270). -/
def State.imageComplete (s : State) (im : Image) : Bool :=
  im.complete && !(s.copies.any fun c => c.kind != .p && c.dir == .g2s && c.cx == im.cx && decide (c.done < c.bytes)
    && im.wgs.any fun w => c.targets.contains (w.kernel, w.l))

/-- The scratchpad ranges that the records of a workgroup's groups name, in bytes (R144). -/
def Image.savedRanges (im : Image) (w : Workgroup) : List (Nat × Nat) :=
  let masks := (im.groupsOf w).flatMap fun g =>
    (g.splits ++ (match g.trapRec with | none => [] | some t => [t.split])).filterMap fun p => p.region.map (·.smask)
  (w.sranges.zipIdx).filterMap fun r => if masks.any fun m => m.getLsbD r.2 then some (16 * r.1.1, 16 * r.1.2) else none

/-- A workgroup as it comes back on a core (R144). -/
def Image.workgroup (im : Image) (w : Workgroup) (core now : Nat) : Workgroup :=
  let rs := im.savedRanges w
  { w with core := core, fresh := none, since := now,
           scratch := w.scratch.filter fun b => b.2 != 0 && rs.any fun r => decide (r.1 ≤ b.1) && decide (b.1 < r.1 + r.2) }

/-- Bytes of a saved range that nothing had written keep their open values. -/
def savedFresh (w : Workgroup) (rs : List (Nat × Nat)) : Workgroup :=
  match w.fresh with
  | none => w
  | some _ =>
    { w with scratch := rs.foldl (fun (m : Sparse Byte) r => (List.range r.2).foldl (fun (m : Sparse Byte) i =>
        if m.any fun b => b.1 == r.1 + i then m else m ++ [(r.1 + i, w.byte (r.1 + i))]) m) w.scratch }

/-- A group comes back in a group context: its save slot, records and slots with it (R151, R299). -/
def State.restoreGroup (s : State) (im : Image) (g : Group) (core : Nat) : State :=
  match s.freeGctx core with
  | none => s
  | some n =>
    let r : GRef := { core := core, gctx := n }
    let splits := g.splits.map fun (p : Split) => ({ p with progress := s.cycle, readySince := s.cycle } : Split)
    let h : Group := { g with ref := r, frameImg := [], lastPage := [], splits := splits, acqDue := false }
    let s1 : State := { s with groups := s.groups ++ [h] }
    let s2 := s1.frameWrite h 0 g.frameImg
    let mine := im.records.filter fun (e : ImageRec) => e.owner == g.ref
    let recs : List (Nat × QRec) := mine.map fun (e : ImageRec) =>
      (e.q, ({ owner := r, base := e.base, rows := e.rows, fmt := e.fmt, sc := e.sc, soff := e.soff } : QRec))
    let bytes : Sparse Byte := mine.flatMap (·.bytes)
    let slots : List (Nat × Slot) := (im.slots.filter fun e => e.1 == g.ref).map fun e => (e.2, ({ owner := some r, st := .empty } : Slot))
    let s3 := s2.updCore core fun c =>
      { c with recs := c.recs ++ recs, slots := c.slots ++ slots,
               opbuf := bytes.foldl (fun m b => sput 0 m b.1 b.2) (recs.foldl (fun m e =>
                 sputRun 0 m (256 * e.2.base) (List.replicate (256 * e.2.rows) 0)) c.opbuf) }
    let s4 := if g.acqDue then s3.updCore core Core.acquire else s3
    { s4 with ops := s4.ops ++ (im.ops.filter fun (o : PendOp) => o.grp == g.ref).map fun (o : PendOp) =>
        { o with grp := r, flag := flagRecorded, issued := s.cycle } }

/-- A workgroup of an image comes back on a core. -/
def State.restoreWg (s : State) (im : Image) (w : Workgroup) (core : Nat) : State :=
  let w1 := im.workgroup (savedFresh w (im.savedRanges w)) core s.cycle
  let s1 : State := { (s.takeCore core im.cx (im.need w)) with wgs := s.wgs ++ [w1] }
  (im.groupsOf w).foldl (fun s g => s.restoreGroup im g core) s1

/-- Cores for the workgroups of one cluster launch of an image: distinct cores of one cluster, or one core. avoid: the cores that a
thermal migration may not take (R114). -/
def State.restoreCores (s : State) (im : Image) (cls : List Nat) (ws : List Workgroup) (avoid : Nat → Bool) :
    Option (List (Workgroup × Nat)) :=
  cls.findSome? fun cl =>
    ws.foldl (fun (acc : Option (List (Workgroup × Nat))) w =>
      match acc with
      | none => none
      | some l =>
        match (clusterCores cl).find? fun c => !avoid c && s.fits (im.need w) c && !(l.any fun e => e.2 == c) with
        | none => none
        | some c => some (l ++ [(w, c)])) (some [])

/-- The launches of an image, by their first workgroup. -/
def Image.launches (im : Image) : List (List Workgroup) :=
  let keys := (im.wgs.map fun w => (w.kernel, w.launchBase)).dedup
  keys.map fun k => im.wgs.filter fun w => (w.kernel, w.launchBase) == k

/-- A set is restored whole (R108); none: it does not fit now. After a thermal migration it takes no core above its threshold, and a
cluster launch takes another cluster (R114). -/
def State.restoreSet (s : State) (im : Image) : PlaceRes :=
  let cls := s.openClusters im.cx
  let leaves (ws : List Workgroup) (c : Nat) : Bool :=
    im.reason == .migrate
    && (s.hot.contains c || ws.any fun w => decide (w.launchSize > 1) && coreCluster w.core == coreCluster c)
  let r := im.launches.foldl (fun (acc : Option (State × Bool)) ws =>
    match acc with
    | none => none
    | some (s, waits) =>
      match s.restoreCores im cls ws (leaves ws) with
      | none => none
      | some l => some ((l.foldl (fun s e => s.restoreWg im e.1 e.2) s).notePlaced (((l.head?).map fun e => coreSector e.2).getD 0), waits || l.any fun e => s.splitWaits (im.need e.1) e.2))
    (some (s, false))
  match r with
  | none => .no
  | some (_, true) => .waits
  | some (s1, false) => .done { s1 with images := s1.images.erase im }

end Sys2Proof.Machine
end

