-- ==== Sys2Proof/Machine/System.lean ====
section
/-! DEFINITION. TRAP, TRET and TCLRC (spec/08_trap.md R154, R155), TRIGGER and ENQ (spec/06_kernel.md R110, R111), and the debug and
host steps of traps (R150, R156, R160). -/

namespace Sys2Proof.Machine

/-! ## Traps -/

/-- TRAP raises SWTRAP with its code; mode next resumes at the clause after it (R152, R154). -/
def execTrap (code : BitVec 16) (s : State) : Out :=
  issue s (.trap code) {} fun g p =>
    s.enterTrap g p { cause := cSWTRAP, lanes := p.exec, pc := p.pc, detail := code.toNat, insn := word0 (.trap code),
                      nextpc := p.nextHeader, clause := p.clause }

/-- The home's value of HOSTACK of a group's frame (R150, R154). -/
def State.hostack (s : State) (g : Group) : Nat :=
  match s.ctx? g.cx with
  | none => 0
  | some c =>
    let pa := c.slotAddr g.ref + 0x3C
    s.homeNat (State.physKey g.cx pa) (pa % 128) 4

/-- TRAP.host posts a host event and waits for HOSTACK, a watch at pod scope (R154). -/
def execTrapHost (code : BitVec 16) (s : State) : Out :=
  issue s (.trapHost code) {} fun g p =>
    if !g.tactive then s.trap g p (.trapHost code) cILL
    else if p.wait == .host then
      if s.hostack g = 0 then s else (s.acquire g.ref.core .pod).putSplit g p.toNext
    else (s.emit (.trapHost g.cx (512 * (32 * g.ref.core + g.ref.gctx)) code.toNat)).stall g p .host

/-- The lanes that a split holds, in its lane set and on its stack. -/
def Split.allLanes (p : Split) : LaneMask :=
  p.stack.foldl (fun (m : LaneMask) e => match e with
    | .deferred _ l => m ||| l
    | .resume _ l _ => m ||| l) p.lset

/-- S and M of the trap image in memory (R150). -/
def State.restoreRegs (s : State) (g : Group) : Group :=
  let g1 := (List.range 64).foldl (fun h r => h.setS r (BitVec.ofNat 32 (s.frameNat g (0x40 + 4 * r) 4))) g
  (List.range 8).foldl (fun h r => h.setM r (BitVec.ofNat 32 (s.frameNat g (0x140 + 4 * r) 4))) g1

/-- The split that TRET makes of the saved one (R155): mode 0 region, 1 retry, 2 next. Lanes that left in the handler stay gone. Mode next
to a next clause is a transfer to its header (R30); a PAD label that was due there stays due, and a breakpoint whose BREAK was the cause is
passed once (R152). -/
def tretSplit (t : TrapRec) (p : Split) (id mode : Nat) (now : Nat) : Split :=
  let lset := t.split.lset &&& p.allLanes
  let q := { t.split with id := id, lset := lset, exec := t.split.exec &&& lset, wait := .none, readySince := now, aged := 0,
                          lastIssue := p.lastIssue, commits := p.commits, progress := p.progress }
  match mode with
  | 0 =>
    if q.ended || q.region.isNone then { q with pc := t.rpc, clause := none, jumped := false, padDue := none, passed := false }
    else rewind q false
  | 1 => { q with pc := t.pc, clause := t.clause }
  | _ => { q with pc := t.nextpc, clause := t.resume, jumped := t.resume.isNone, passed := (t.raised &&& cBREAK) != 0,
                  padDue := if t.nextpc = t.split.pc then t.split.padDue else none }

/-- TRET (R155). Where CAUSE is not 0 the split goes to the vector of the remaining causes inside the handler's region: it is no new trap
entry, and its first clause need not have RE = 1 (DESIGN CHOICE, log 53: R33, R149 and R155 do not say). -/
def tret (s : State) (i : Instr) (mode : Nat) : Out :=
  issuePriv s i {} fun g p =>
    match g.trapRec with
    | none => s.trap g p i cILL
    | some t =>
      if t.cause ≠ 0 then s.putSplit g { p.goto (vectorOf t.cause) with exec := t.lanes, jumped := false }
      else if !t.allow.getLsbD mode then s.trap g p i cILL
      else if s.ops.any fun o => o.grp == g.ref && !(o.pend.sw.isEmpty && o.pend.mw.isEmpty) then s.stall g p .poll
      else
        let taken := g.splits.any fun q => q.id != p.id && q.id == t.split.id
        let q := tretSplit t p (if taken then p.id else t.split.id) mode s.cycle
        let el := if mode = 0 && !t.split.ended then rewindElect t.split t.elected else t.elected
        s.updGroup g.ref fun h =>
          { s.restoreRegs h with priv := t.ppriv, cls := t.cls, elected := el, trapRec := none, opens := t.opens, pins := t.pins,
                                 splits := upd (fun x => x.id == p.id) (fun _ => q) h.splits }

/-- TRET.region. -/
def execTretRegion (s : State) : Out := tret s .tretRegion 0

/-- TRET.retry. -/
def execTretRetry (s : State) : Out := tret s .tretRetry 1

/-- TRET.next. -/
def execTretNext (s : State) : Out := tret s .tretNext 2

/-- TCLRC clears causes in the record and in memory (R155). -/
def execTclrc (m : BitVec 22) (s : State) : Out :=
  issuePriv s (.tclrc m) {} fun g p =>
    match g.trapRec with
    | none => s.trap g p (.tclrc m) cILL
    | some t =>
      let c := t.cause &&& ~~~m
      let old := BitVec.ofNat 22 (s.frameNat g 0 4)
      ((s.frameWrite g 0 (leBytes 4 (old &&& ~~~m).toNat)).updGroup g.ref fun h =>
        { h with trapRec := some { t with cause := c } }).done g p (.tclrc m)

/-! ## TRIGGER and ENQ -/

/-- TRIGGER (R110). -/
def execTrigger (s : State) : Out :=
  issue s .trigger {} fun g p =>
    gated s g p (released s g p .pod
      (((s.countTrigger g.cx g.kernel g.wg).commit g p).done g p .trigger))

/-- ENQ (R111): the status is QFULL or OK. -/
def execEnq (d : BitVec 6) (a b : BitVec 5) (s : State) : Out :=
  let i : Instr := .enq d a b
  issue s i (useS (d.toNat :: pairRegs a.toNat ++ pairRegs b.toNat)) fun g p =>
    gated s g p (released s g p .pod
      (let full := ((s.ctx? g.cx).map fun c => decide (c.dsq.length ≥ 256)).getD true
       let e : DsqEntry := { kd := (g.getSPair a.toNat).toNat, arg := (g.getSPair b.toNat).toNat,
                             rcb := ((s.kernel? g.cx g.kernel).map (·.rcb)).getD 0, site := siteOf g p }
       let s1 := if full then s else s.updCtx g.cx fun c => { c with dsq := c.dsq ++ [e] }
       ((s1.updGroup g.ref fun h => h.setS d.toNat (if full then 1 else 0)).commit g p).done g p i))

/-! ## Steps of other agents -/

/-- HOSTACK: host software writes the word of the frame of a group context (R150). -/
def execHostack (core gctx : Nat) (val : Word) (s : State) : Out :=
  .next (match s.group? { core := core, gctx := gctx } with
    | none => s
    | some g =>
      match s.ctx? g.cx with
      | none => s
      | some c => s.physWrite g.cx (c.slotAddr g.ref + 0x3C) (leBytes 4 val.toNat))

/-- The cycles of n milliseconds. -/
def msCycles (n : Nat) : Nat := 2250000 * n

/-- The WATCHDOG of R156: WDOG / 2 ms without REGION or a commit. -/
def State.watchdogDue (s : State) (g : Group) (p : Split) : Bool :=
  match s.ctx? g.cx with
  | none => false
  | some c => c.bindRec.wdog != 0 && decide (2 * (s.cycle - p.progress) ≥ msCycles c.bindRec.wdog)

/-- SPLIT_WATCHDOG: the cause is raised at the split's next issue (R156). -/
def execSplitWatchdog (core gctx split : Nat) (s : State) : Out :=
  .next (match s.group? { core := core, gctx := gctx } with
    | none => s
    | some g =>
      match g.split? split with
      | none => s
      | some p =>
        if s.watchdogDue g p && !(g.held.any fun h => h.split == split && h.cause == cWATCHDOG) then
          s.updGroup g.ref fun h => { h with held := h.held ++ [{ split := split, cause := cWATCHDOG, lanes := p.exec, pc := p.pc,
                                                                  addr := 0, detail := 0, insn := 0, nextpc := p.pc }] }
        else s)

/-- IMPRECISE_STORE_FAULT: a failed walk of a core's store whose split has committed or gone writes its record (R156 to R158). -/
def execImpreciseStoreFault (core gctx k : Nat) (s : State) : Out :=
  let ws := s.walks.filter fun w => w.site.grp == { core := core, gctx := gctx }
  .next (match ws[k]? with
    | none => s
    | some w =>
      let due := match (s.group? w.site.grp).bind fun g =>
          if g.uid == w.site.uid then g.split? w.site.split else none with
        | none => true
        | some p => p.commits != w.commits
      if due then
        let s1 : State := { s with walks := s.walks.filter fun x => x != w }
        s1.impRecord w.site w.cause.toNat w.va
      else s)

/-- A debugger acts on a context whose DEBUG was 1 at *lock* (R83). -/
def Context.debugged (c : Context) : Bool :=
  c.bindRec.debug && match c.st with
    | .bound | .retired => false
    | .locked | .run | .sealing | .sealed | .restoring | .halted | .error => true

/-- The image of a context as a debugger reads it through the MC, in decrypted form (R83). -/
def State.debugImages (s : State) (cx : Nat) : List Image :=
  if ((s.ctx? cx).map Context.debugged).getD false then s.images.filter fun im => im.cx == cx else []

/-- HALT_REQUEST of a debugger: every group of a context bound with DEBUG breaks at its next issue boundary, or at its restore
(R83, R160). -/
def execHaltRequest (cxid : Nat) (s : State) : Out :=
  .next (match s.ctx? cxid with
    | none => s
    | some c =>
      if c.debugged then
        { s with groups := upd (fun g => g.cx == cxid) (fun g => { g with brk := true }) s.groups,
                 images := upd (fun im => im.cx == cxid) (fun im =>
                   { im with groups := im.groups.map fun g => { g with brk := true } }) s.images }
      else s)

/-- Single step of a saved group; one that arrives while its context is SEALING, or later, is latched as BREAK (R83). -/
def Image.stepGroup (im : Image) (ref : GRef) (on : Bool) : Image :=
  { im with groups := upd (fun g : Group => g.ref == ref) (fun g => { g with step := on, brk := g.brk || (on && im.reason == .seal) }) im.groups }

/-- BREAKPOINT_SET: a debugger sets or clears a breakpoint, of which a context holds 16, or single step of a group (R160). -/
def execBreakpointSet (d : DebugSet) (s : State) : Out :=
  .next (match d with
    | .breakpoint cxid addr on =>
      match s.ctx? cxid with
      | none => s
      | some c =>
        if !c.debugged then s
        else
          let l := c.breakpoints.filter fun a => a != addr.toNat
          if !on then s.updCtx cxid fun c => { c with breakpoints := l }
          else if l.length ≥ 16 then s
          else s.updCtx cxid fun c => { c with breakpoints := l ++ [addr.toNat] }
    | .step core gctx on =>
      let ref : GRef := { core := core, gctx := gctx }
      let ok (cx : Nat) : Bool := ((s.ctx? cx).map Context.debugged).getD false
      match s.group? ref with
      | some g => if ok g.cx then s.updGroup g.ref fun g => { g with step := on } else s
      | none => { s with images := s.images.map fun im => if ok im.cx then im.stepGroup ref on else im })

end Sys2Proof.Machine
end

