-- ==== Sys2Proof/Machine/KernelEvents.lean ====
section
/-! DEFINITION. What the dispatcher, the budgets, the issue ports' aging and the rate limiters do (spec/06_kernel.md R98 to R116). An event
whose condition does not hold has no effect. -/

namespace Sys2Proof.Machine

/-! ## Dependences on time (R104) -/

/-- The global-time dependences of kernels that p picks and that $GTIME has reached are met. -/
def State.meetGtime (s : State) (cx : Nat) (p : Kernel → Bool) : State :=
  let ks := upd (fun k : Kernel => k.cx == cx && k.st == .recorded && p k) (fun k =>
    { k with deps := k.deps.filter fun d => match d with
        | .gtime t => decide (s.gtime < t)
        | .kdone _ | .ktrig _ | .shver .. | .lap .. => true }) s.kernels
  ({ s with kernels := ks } : State).promote cx

/-- GTIME_DUE: $GTIME reaches a dependence or NOTBEFORE of a kernel. -/
def execGtimeDue (cxid kernel : Nat) (s : State) : Out := .next (s.meetGtime cxid fun k => k.id == kernel)

/-! ## Dispatch (R105 to R108) -/

/-- What the dispatcher may place next. -/
inductive PlaceItem where
  | image (im : Image)
  | kernel (k : Kernel)
  deriving Repr, Inhabited

def PlaceItem.cx : PlaceItem → Nat
  | .image im => im.cx
  | .kernel k => k.cx

def PlaceItem.kid : PlaceItem → Nat
  | .image im => ((im.wgs.head?).map (·.kernel)).getD 0
  | .kernel k => k.id

def State.itemPrio (s : State) (i : PlaceItem) : Nat := prioOf (s.kernelChain i.cx i.kid)

/-- The root RCB of a context. -/
def State.rootRcb? (s : State) (cx : Nat) : Option Rcb := (s.ctx? cx).bind fun c => s.rcb? cx c.bindRec.rootRcb

/-- The resident groups that charge an RCB (R102). -/
def State.chargers (s : State) (r : Rcb) : Nat :=
  (s.groups.filter fun (g : Group) => g.status != .reserved && g.cx == r.cx
    && (s.kernelChain g.cx g.kernel).any fun q => q.addr == r.addr).length

/-- The charge of an RCB has reached its budget (R102). -/
def State.rcbSpent (s : State) (r : Rcb) : Bool :=
  match budgetOf (s.rcbChain r.cx 8 r.addr) with
  | none => false
  | some b => decide (b ≤ r.charge)

/-- Some RCB over the item is parked, or its charge has reached its budget (R102). -/
def State.itemParked (s : State) (i : PlaceItem) : Bool := (s.kernelChain i.cx i.kid).any fun r => r.parked || s.rcbSpent r

def State.running (s : State) (cx : Nat) : Bool := ((s.ctx? cx).map fun c => c.st == .run).getD false

/-- $GTIME lies in a co-run window of a context (R343). -/
def Context.hintOpen (c : Context) (t : Nat) : Bool := c.hints.any fun h => decide (h.1 ≤ t) && decide (t < h.1 + h.2)

/-- A kernel of a RUN context whose co-run window is open goes before those of equal priority of other soft contexts (R343). -/
def State.itemHinted (s : State) (i : PlaceItem) : Bool :=
  match i, s.ctx? i.cx with
  | .kernel _, some c => c.bindRec.hard == 0 && c.hintOpen s.gtime
  | _, _ => false

/-- The image sets of RESTORING contexts, ahead of everything (R105). -/
def State.restoreItems (s : State) : List PlaceItem :=
  (s.images.filter fun im => im.reason == .seal && s.imageComplete im && ((s.ctx? im.cx).map fun c => c.st == .restoring).getD false).map
    .image

/-- Sets to restore and kernels to place, by priority, restores ahead of equal priority, then by age (R105). -/
def State.placeItems (s : State) : List PlaceItem :=
  let ims := (s.images.filter fun im => s.imageComplete im && s.running im.cx).map PlaceItem.image
  let ks := (s.kernels.filter fun k => (k.st == .ready || k.st == .running) && decide (k.nextL < k.total) && s.running k.cx).map
    PlaceItem.kernel
  let rank (i : PlaceItem) : Nat := match i with
    | .image _ => 0
    | .kernel _ => if s.itemHinted i then 1 else 2
  sortBy (fun i => 3 * (7 - s.itemPrio i) + rank i) ((ims ++ ks).filter fun i => !s.itemParked i)

/-- The kernel has a workgroup left to place, its context runs, and no RCB over it is parked. -/
def State.placeable (s : State) (k : Kernel) : Bool :=
  (k.st == .ready || k.st == .running) && decide (k.nextL < k.total) && s.running k.cx && !s.itemParked (.kernel k)

/-- The next workgroup of a kernel, or all of a cooperative one, waits for room (R106, R107). -/
def State.lacksRoom (s : State) (k : Kernel) : Bool :=
  s.placeable k && (match if !k.kd.coop then s.placeNext k (s.clustersFor k.cx)
      else s.placeAll k.cx k.id (s.clustersFor k.cx) (k.total + 1) with
    | .no => true
    | .waits | .done _ => false)

/-- Two items share a candidate sector. -/
def State.meetSectors (s : State) (a b : Nat) : Bool := (s.sectorsFor a).any fun sec => (s.sectorsFor b).contains sec

/-- An item that the dispatcher may not place now: another kernel has waited 1 ms for room in its sectors, at its priority or above (R106;
of two such kernels of one priority the older goes first, DESIGN CHOICE, log 24), or a RESTORING context has still to be restored in them
(R105). -/
def State.itemBlocked (s : State) (i : PlaceItem) : Bool :=
  (s.kernels.any fun k => k.blocking && s.placeable k && !(k.cx == i.cx && k.id == i.kid)
    && (let me := s.itemPrio i
        let it := s.itemPrio (.kernel k)
        decide (me < it) || (me == it && !(match i with
          | .kernel j => j.blocking && decide (s.kernels.findIdx (· == j) < s.kernels.findIdx (· == k))
          | .image _ => false)))
    && s.meetSectors k.cx i.cx)
  || (s.images.any fun im => im.reason == .seal && ((s.ctx? im.cx).map fun c => c.st == .restoring).getD false && s.meetSectors im.cx i.cx)

def State.placeItem (s : State) (i : PlaceItem) : PlaceRes :=
  match i with
  | .image im => s.restoreSet im
  | .kernel k =>
    if !k.kd.coop then s.placeNext k (s.openClusters k.cx)
    else s.placeAll k.cx k.id (s.openClusters k.cx) (k.total + 1)

/-- The first item that can be placed is placed; one that finds no room, or waits for lines to be published, does not stop the items
behind it (R105, R106). -/
def State.placeFirst (s : State) : List PlaceItem → State
  | [] => s
  | i :: is =>
    match s.placeItem i with
    | .done s1 => s1
    | .waits | .no => s.placeFirst is

/-- PLACE: a *coopfail* that is due, else one workgroup, cluster launch, cooperative kernel or restored set. -/
def execPlace (s : State) : Out :=
  .next (match s.kernels.find? fun k => k.st == .ready && k.coopBad with
    | some k => s.coopFail k
    | none => s.placeFirst (s.restoreItems ++ s.placeItems.filter fun i => !s.itemBlocked i))

/-- PLACEMENT_WAIT_1MS: the next workgroup of a kernel has waited 1 ms for room (R106). -/
def execPlacementWait1ms (cxid kernel : Nat) (s : State) : Out :=
  .next (match s.kernel? cxid kernel with
    | none => s
    | some k =>
      if s.lacksRoom k && decide (s.cycle ≥ k.waitingSince + 2250000) then
        s.updKernel cxid kernel fun k => { k with blocking := true }
      else s)

/-! ## The end of a workgroup (R98, R117) -/

/-- EXITED of the workgroup at a place of the list of resident workgroups. -/
def execExited (wg : Nat) (s : State) : Out :=
  .next (match s.wgs[wg]? with
    | none => s
    | some w => s.takeExit w)

/-! ## Budgets (R102) -/

/-- Workgroups of kernels under an RCB. -/
def State.underRcb (s : State) (cx rcb : Nat) (w : Workgroup) : Bool :=
  w.cx == cx && (s.kernelChain cx w.kernel).any fun r => r.addr == rcb

/-- BUDGET_EXHAUSTED: the subtree of the RCB is parked, its resident sets by flashback. -/
def execBudgetExhausted (cxid rcb : Nat) (s : State) : Out :=
  .next (match s.rcb? cxid rcb with
    | none => s
    | some r =>
      if r.parked || !s.rcbSpent r then s
      else
        let s1 := s.updRcb cxid rcb fun r => { r with parked := true }
        s1.flashback cxid .park (s1.underRcb cxid rcb))

/-- An RCB behind a period boundary: USED is written, and software's writes take effect (R101). An RCB that cannot be read keeps its
fields (log 25). -/
def State.periodRcb (s : State) (r : Rcb) : State :=
  let s1 := (s.engineWrite r.cx (r.addr + 0x28) (leBytes 8 r.used)).1
  match s1.engineRead r.cx r.addr 128 with
  | (s2, none) => s2
  | (s2, some bs) => s2.updRcb r.cx r.addr fun r =>
      { rcbOf r.cx r.addr bs with charge := r.charge, used := r.used, parked := r.parked, periodNo := r.periodNo }

/-- The RCBs above one whose PARENT software has changed are read; where one fails, the RCB keeps the PARENT that old gives (R101,
log 25). -/
def State.adopt (s : State) (old : Rcb) : State :=
  match s.rcb? old.cx old.addr with
  | none => s
  | some r =>
    if r.parent = old.parent then s
    else
      match s.readChain r.cx 8 r.addr with
      | (s1, true) => s1
      | (s1, false) => s1.updRcb r.cx r.addr fun r => { r with parent := old.parent }

/-- The class of a group is the priority of its kernel's RCB, unless ROLE has given one (R112); in a handler it is what TRET restores. -/
def State.classOf (s : State) (g : Group) : Group :=
  if g.ownCls then g
  else
    let c := prioOf (s.kernelChain g.cx g.kernel)
    match g.trapRec with
    | none => { g with cls := c }
    | some t => { g with trapRec := some { t with cls := c } }

/-- RCB_PERIOD_BOUNDARY: what a boundary of the root's period leaves to do (R101, R102); State.chargePeriods has returned the charges to
zero. A new PERIOD counts from here on, at the next multiple of it. -/
def execRcbPeriodBoundary (cxid : Nat) (s : State) : Out :=
  .next (match (s.ctx? cxid).bind fun c => s.rcb? cxid c.bindRec.rootRcb with
    | none => s
    | some root =>
      if !root.boundary then s
      else
        let olds := s.rcbs.filter fun r => r.cx == cxid
        let s1 := olds.foldl State.adopt (olds.foldl State.periodRcb s)
        let s2 := s1.updRcb cxid root.addr fun r => { r with boundary := false, periodNo := s1.periodNo r }
        { s2 with groups := upd (fun g : Group => g.cx == cxid) s2.classOf s2.groups,
                  images := upd (fun im : Image => im.cx == cxid) (fun im => { im with groups := im.groups.map s2.classOf }) s2.images })

/-! ## Aging and migration (R112, R114) -/

/-- CLASS_AGING: another 4,096 cycles ready and unissued; a split that is not ready restarts them (State.age). -/
def execClassAging (core gctx split : Nat) (s : State) : Out :=
  .next (match s.group? { core := core, gctx := gctx } with
    | none => s
    | some g =>
      match g.split? split with
      | none => s
      | some p =>
        if g.status == .live && decide (s.cycle ≥ p.readySince + 4096 * (p.aged + 1)) then
          s.updSplit g.ref split fun p => { p with aged := p.aged + 1 }
        else s)

/-- THERMAL_MIGRATION of the workgroup at a place of the list, resident for 5 ms on a core above its threshold; no cooperative kernel
migrates (R114). -/
def execThermalMigration (wg : Nat) (s : State) : Out :=
  .next (match s.wgs[wg]? with
    | none => s
    | some w =>
      let coop := ((s.kernel? w.cx w.kernel).map fun k => k.kd.coop).getD true
      if w.exited || coop || !s.hot.contains w.core || decide (s.cycle < w.since + msCycles 5) then s
      else s.flashback w.cx .migrate fun v => v.kernel == w.kernel && v.l == w.l)

/-! ## Rate limiters (R115) -/

/-- A write of GO to 0x140: RATE and BURST enter the bucket; the count stands, within the new depth. -/
def State.rateGo (s : State) (cxid cls : Nat) : State :=
  let s0 : State := { s with bar := { s.bar with rateCxid := BitVec.ofNat 16 cxid, rateClass := BitVec.ofNat 3 cls } }
  let burst := max 1 s.bar.burst.toNat
  -- what the old RATE has earned so far stays
  let count (b : Bucket) : Int := if b.rate = 0 then b.count else (b.accrue s.nowUs).count
  if s.modl.recovery then s
  else if cls ≥ 5 then s0
  else
    s0.updCtx cxid fun c => c.setBucket cls
      { rate := s.bar.rate.toNat, burst := burst, count := min (count (bucketOf c cls)) (1024 * burst), lastUs := s.nowUs }

/-- RATE_LIMITER_GO (R115). -/
def execRateLimiterGo (cxid cls : Nat) (s : State) : Out := .next (s.rateGo (cxid % 65536) (cls % 8))

/-- TOKEN_ACCRUAL at RATE up to BURST. -/
def execTokenAccrual (cxid cls : Nat) (s : State) : Out :=
  .next (s.updCtx cxid fun c =>
    let b := bucketOf c cls
    if b.rate = 0 then c else c.setBucket cls (b.accrue s.nowUs))

end Sys2Proof.Machine
end

