-- ==== Sys2Proof/Machine/ContextOps.lean ====
section
/-! DEFINITION. The life of a context (spec/04_context.md R70 to R86): binding records, what each transition does to the context's work,
memory, queues and keys. Each event answers whether the table of R72 lists it for the state. -/

namespace Sys2Proof.Machine

/-! ## Codes -/

/-- The state code of R71. -/
def cxCode : CxState → Nat
  | .bound => 1 | .locked => 2 | .run => 3 | .sealing => 4 | .sealed => 5 | .restoring => 6 | .halted => 7 | .error => 8 | .retired => 9

/-- The code of a context identifier; FREE where no context has it. -/
def State.cxStCode (s : State) (cx : Nat) : Nat := ((s.ctx? cx).map fun c => cxCode c.st).getD 0

/-- The TDISP column of R71; none: no state is reported. -/
def tdispOf : CxState → Option TdispSt
  | .bound => some .configUnlocked
  | .locked => some .configLocked
  | .run | .sealing | .sealed | .restoring | .halted => some .run
  | .error => some .error
  | .retired => none

/-- The state that the device reports for the context's TDI; a context with TDI = 0 reports none (R71). -/
def Context.tdisp? (c : Context) : Option TdispSt := if c.bindRec.tdi then tdispOf c.st else none

def State.reportTdisp (s : State) (cx : Nat) : State :=
  match (s.ctx? cx).bind Context.tdisp? with
  | none => s
  | some t => s.emit (.tdispState cx t)

def cmdOk : Nat := 0
def cmdBadop : Nat := 1
def cmdBadstate : Nat := 2
def cmdNoslot : Nat := 3
def cmdNores : Nat := 4
def cmdBadcxid : Nat := 5
def cmdBadrec : Nat := 6
def cmdTdiowned : Nat := 7

/-! ## The command block (R74, R76) -/

def CmdRegs.busy (r : CmdRegs) : Bool := r.pending.isSome

/-- A command ends with a result. -/
def State.cmdEnd (s : State) (cx err : Nat) : State :=
  { s with bar := { s.bar with cmd := { s.bar.cmd with pending := none, err := BitVec.ofNat 8 err, st := BitVec.ofNat 4 (s.cxStCode cx) } } }

/-- The SEAL or RESTORE under way of a context ends. -/
def State.cmdFinish (s : State) (cx err : Nat) : State := if s.bar.cmd.pending.map (·.2) == some cx then s.cmdEnd cx err else s

/-! ## The binding record (R77) -/

/-- n bytes of the hypervisor's physical memory; none: absent or poisoned. -/
def State.hvRead (s : State) (pa n : Nat) : Option (List Byte) :=
  if (linePieces (n / 128 + 2) pa n).all fun p => s.present p.1 && !s.poisoned (p.1 / 128) none then some (sgetRun 0 s.mem pa n) else none

/-- What hvRead leaves: MEMERR at the first detection of poison, a count for each corrected error (R327). -/
def State.hvNote (s : State) (pa n : Nat) : State :=
  (linePieces (n / 128 + 2) pa n).foldl (fun s p => if s.present p.1 then s.noteRead (p.1 / 128) none 0 else s) s

/-- The fields of a record, where each lies within the limits that R77 gives it alone. -/
def bindRecOf (bs : List Byte) : Option BindRec :=
  let f := fieldNat bs
  let r : BindRec :=
    { saveBase := f 0 8, saveSize := f 8 8, rootRcb := f 0x10 8, ptRoot := f 0x18 8, granBase := f 0x20 8, granSize := f 0x28 4,
      pasid := f 0x2C 4, sheafBase := f 0x30 8, sheafN := f 0x38 2, queues := f 0x3A 2, layoutN := f 0x3C 4, layoutBase := f 0x40 8,
      frameG := f 0x48 8, frameB := f 0x50 8, vchip := f 0x58 2, hard := BitVec.ofNat 6 (f 0x5A 1), lanes := BitVec.ofNat 8 (f 0x5B 1),
      share := f 0x5C 4, wdog := f 0x60 4, tdi := f 0x64 2 % 2 == 1, debug := f 0x64 2 / 2 % 2 == 1 }
  if r.saveBase % 65536 == 0 && r.saveSize % 65536 == 0 && r.rootRcb % 128 == 0 && r.ptRoot % 2 ^ 21 == 0 && r.granBase % 65536 == 0
      && decide (65536 ≤ r.granSize) && decide (r.granSize ≤ 2 ^ 30) && r.granSize % 65536 == 0 && decide (r.pasid < 2 ^ 20)
      && r.sheafBase % 128 == 0 && decide (1 ≤ r.sheafN) && decide (r.sheafN ≤ 4096) && decide (1 ≤ r.queues) && decide (r.queues ≤ 64)
      && decide (1 ≤ r.layoutN) && decide (r.layoutN ≤ 65536) && r.layoutBase % 64 == 0 && decide (r.frameG ≤ r.frameB)
      && decide (r.vchip < 4096) && decide (f 0x5A 1 < 64)
      && (if r.hard = 0 then decide (1 ≤ r.share) && decide (r.share ≤ 65535) else r.share == 0)
      && decide (r.wdog ≤ 60000) && decide (f 0x64 2 < 4) && allZero bs 0x66 26 then some r
  else none

/-- Present cores of a placement (R151). -/
def State.placeCores (s : State) (hard : BitVec 6) : Nat :=
  32 * (filterRange 24 fun cl => s.clusterPresent cl && (hard == 0 || hard.getLsbD (clusterSector cl))).length

/-- SAVESIZE meets the bound of R151. -/
def State.saveFits (s : State) (r : BindRec) : Bool := decide (r.saveSize ≥ 12 * 2 ^ 20 + 65536 + 640 * 1024 * s.placeCores r.hard)

/-! ## Slots and their keys (R70, R81) -/

/-- The context takes a slot, whose key slot holds its keys. -/
def Context.takeSlot (c : Context) : Context := { c with slot := true, keySlot := some (c.memKey, c.granKey, c.transKey) }

/-- The slot is freed and its key slot cleared. -/
def Context.freeSlot (c : Context) : Context := { c with slot := false, keySlot := none }

/-- The keys as the directory entry of a sealed context holds them: wrapped, and nowhere else (R81). -/
def Context.wrapKeys (c : Context) (kek : Key) : Context :=
  { c with wrapped := [c.memKey, c.granKey, c.transKey].map (keyWrap kek), memKey := 0, granKey := 0, transKey := 0 }

/-! ## Resources (R78, R79) -/

/-- The contexts that hold sectors, lanes and frames: from bind to retire. -/
def State.holders (s : State) : List Context := s.ctxs.filter fun c => c.st != .retired

/-- The far-home sector that a bind takes: the lowest-numbered sector in no hard context, or of HARD (R78); none: no sector is left for a
soft context. -/
def State.farHomeFor (s : State) (hard : BitVec 6) : Option Nat :=
  if hard = 0 then (filterRange 6 fun sec => (s.sectorOf sec).isNone).head?
  else (filterRange 6 fun sec => hard.getLsbD sec).head?

/-- A frame of HBM lies in a stack of these sectors. -/
def inStacks (hard : BitVec 6) (f : Nat) : Bool :=
  decide (65536 * f / Config.stackBytes / 2 < 6) && hard.getLsbD (65536 * f / Config.stackBytes / 2)

def State.hardFits (s : State) (r : BindRec) : Bool :=
  ((filterRange 6 fun sec => r.hard.getLsbD sec).all s.sectorUsable)
  && (s.holders.all fun c => c.bindRec.hard == r.hard || c.bindRec.hard &&& r.hard == 0)
  && (s.holders.all fun c => c.bindRec.hard != 0 || !r.hard.getLsbD c.farHome)
  && r.lanes != 0 && (s.holders.all fun c => c.bindRec.hard == r.hard || c.bindRec.lanes &&& r.lanes == 0)
  -- a table that another context has fixed in its stacks cannot leave them (R15; DESIGN CHOICE, log 51)
  && (s.holders.all fun c => c.bindRec.hard == r.hard || !((c.sheafFrames ++ c.gran.frames).any (inStacks r.hard)))

def State.softFits (s : State) (r : BindRec) : Bool :=
  (s.holders.all fun c => c.bindRec.hard == 0 || c.bindRec.lanes &&& r.lanes == 0) && (s.farHomeFor 0).isSome

/-- Frames of the present HBM. -/
def State.framesPresent (s : State) : Nat :=
  ((List.range 12).map fun n => s.stackSize n / 65536).foldl (· + ·) 0 - s.modl.absent.length

/-- The first interface of the lowest run of n free ones (R87; DESIGN CHOICE: the spec names no run). -/
def State.freeRun (s : State) (n : Nat) : Option Nat :=
  (List.range (4097 - n)).find? fun i => s.ctxs.all fun c => decide (i + n ≤ c.firstIface) || decide (c.firstIface + c.bindRec.queues ≤ i)

def State.bindFits (s : State) (r : BindRec) : Bool :=
  (if r.hard = 0 then s.softFits r else s.hardFits r)
  && decide ((s.holders.map fun c => c.bindRec.frameG).foldl (· + ·) 0 + r.frameG ≤ s.framesPresent)

/-- The info of R345: "transport", the CXID and the generation, as a number. -/
def transInfo (cxid : Nat) (gen : BitVec 16) : Nat :=
  leNat ([0x74, 0x72, 0x61, 0x6E, 0x73, 0x70, 0x6F, 0x72, 0x74] ++ leBytes 2 cxid ++ leBytes 2 gen.toNat)

/-- The stacks and slices of a hard partition hold nothing of another context behind its bind (R15; DESIGN CHOICE, log 51: the spec does
not say what becomes of frames there): such a frame leaves the pools, every translation to it is dropped, and no slice of the partition
keeps a line of another. -/
def State.clearStacks (s : State) (hard : BitVec 6) : State :=
  let other (cx : Nat) : Bool := ((s.ctx? cx).map fun c => c.bindRec.hard != hard).getD true
  let gone (t : Xlat) : Bool := other t.cx && !t.far && inStacks hard t.frame
  if hard = 0 then s
  else
    { s with ctxs := upd (fun c => c.bindRec.hard != hard) (fun c => { c with poolLocal := c.poolLocal.filter fun f => !inStacks hard f }) s.ctxs,
             groups := s.groups.map fun g => { g with lastPage := g.lastPage.filter fun e => !gone e.2 },
             cores := s.cores.map fun c => { c with tlb := c.tlb.filter fun t => !gone t },
             sectorTlb := s.sectorTlb.filter fun e => !gone e.2,
             l2 := s.l2.filter fun l => !(other l.key.cx && hard.getLsbD (s.homeSector l.key)),
             ccopies := s.ccopies.filter fun l => !hard.getLsbD l.sector || !other l.key.cx }

/-- The resident workgroups of soft contexts leave the sectors of a hard partition, by flashback as a parked set (R15: the partition owns
its cores outright; R78 lets the bind go on. DESIGN CHOICE, log 21). -/
def State.clearSectors (s : State) (hard : BitVec 6) : State :=
  if hard = 0 then s
  else
    let soft := (s.ctxs.filter fun c => c.bindRec.hard == 0).map (·.cxid)
    soft.foldl (fun s cx => s.flashback cx .park fun w => hard.getLsbD (coreSector w.core)) s

/-- *bind* of a FREE context (R72, R78): its keys, its queues DETACHED, its transport key (R345); CXARG takes the first interface. -/
def State.bindEv (s : State) (cx : Nat) (r : BindRec) : State × Option Nat :=
  match s.bindFits r, s.freeRun r.queues, s.farHomeFor r.hard with
  | true, some first, some far =>
    let (mem, s1) := s.drawKey
    let (gran, s2) := s1.drawKey
    let base := match s.modl.lastSession with
      | some x => x
      | none => s.modl.sealingKey.toNat
    let c : Context :=
      { cxid := cx, st := .bound, bindRec := r, farHome := far, firstIface := first, memKey := mem, granKey := gran,
        transKey := if r.tdi then 0 else Config.hkdf base (transInfo cx 1), noSession := r.tdi || s.modl.lastSession.isNone,
        samplerMs := s.gtime / 1000000 }
    let qs := (List.range r.queues).map fun i => ({ iface := first + i, cx := cx } : Queue)
    let s3 : State := { s2 with ctxs := s2.ctxs ++ [c], queues := s2.queues ++ qs,
                                bar := { s2.bar with cmd := { s2.bar.cmd with arg := BitVec.ofNat 64 first } } }
    ((s3.clearSectors r.hard).clearStacks r.hard, some cmdOk)
  | _, _, _ => (s, some cmdNores)

/-! ## What a transition discards -/

/-- All work of a context is discarded: groups, images, kernels, copies, circuits and the device-side queue (R72, R86, R97). -/
def State.discardWork (s : State) (cx : Nat) : State :=
  let refs := (s.groups.filter fun g => g.cx == cx).map (·.ref)
  let s1 := (refs.foldl State.killGroup s).dropImages fun im => im.cx == cx
  let xs := s1.copies.filter fun (c : Copy) => c.cx == cx && c.kind == .x && c.xst == 1
  let s2 := xs.foldl (fun s (c : Copy) => s.sendSh { id := 0, kind := .drop, cx := cx, sheaf := c.shId, ver := c.shVer }) s1
  let gone := (s2.copies.filter fun (c : Copy) => c.cx == cx).filterMap (·.op)
  let s3 : State :=
    { s2 with copies := s2.copies.filter fun c => c.cx != cx, ops := s2.ops.filter fun o => !gone.contains o.id,
              wgs := s2.wgs.filter fun w => w.cx != cx, kernels := s2.kernels.filter fun k => k.cx != cx,
              rcbs := s2.rcbs.filter fun r => r.cx != cx, walks := s2.walks.filter fun w => w.site.cx != cx,
              stsrs := s2.stsrs.filter fun m => m.cx != cx, offers := s2.offers.filter fun o => o.cx != cx }
  -- the hypervisor queue forgets the kernels that it launched here (R86)
  let seqs := (s2.kernels.filter fun k => k.cx == cx).filterMap fun k => k.launchedBy.bind fun l => if l.1 = hvIface then some l.2 else none
  let s4 := s3.updQueue hvIface fun q => ({ q with inflight := q.inflight.filter fun e => !seqs.contains e.1 } : Queue).tryDrained
  (s4.clearCircuits cx).updCtx cx fun c => { c with dsq := [], dsqPaused := true, hints := [], lastRec := [] }

/-- The messages for members at other vchips of a seal or drop that is under way, or of the drop of an abandoned version (R234, R237,
R238). -/
def State.tellMembers (s : State) (cx sheaf ver : Nat) (isDrop : Bool) (site : Site) (homes : List Nat) : State :=
  (homes.filter fun h => decide (100000 ≤ h) && decide (h < 200000)).foldl (fun s h =>
    s.podRequest cx (h - 100000) 0 (.member cx sheaf ver (h + 100000)) fun r => .sealMember r (s.vchipOf cx) sheaf ver isDrop site) s

/-- The sheaf messages of a context: those that release something at another vchip leave, the rest falls with the table. A version of its
own sheaf that is still OPEN is abandoned: its homes at other vchips drop it, a seal that had not arrived notwithstanding (R234, R238). -/
def State.flushSheaf (s : State) (cx : Nat) : State :=
  let ms := s.shMsgs.filter fun m => m.cx == cx
  let s0 : State := { s with shMsgs := s.shMsgs.filter fun m => m.cx != cx }
  ms.foldl (fun s m =>
    match s.shTarget cx m.sheaf with
    | .proxy v pid =>
      if m.kind == .unpin || m.kind == .drop || m.kind == .seal then
        s.podRequest cx v 0 (.sheaf m) fun r => .sheaf r m.kind pid m.ver m.writer
      else s
    | .own =>
      match m.kind, s.desc? cx m.sheaf with
      | .drop, some (_, d) | .seal, some (_, d) =>
        if d.st = dOpen ∧ d.openv = m.ver then s.tellMembers cx m.sheaf m.ver true default (s.memberHomes cx d) else s
      | _, _ => s
    | .bad => s) ((s0.shProcs.filter fun q => q.cx == cx).foldl (fun s q => s.tellMembers cx q.sheaf q.ver q.drop q.site q.left) s0)

/-- Everything that caches and line engines hold for a context (R75: its lines are erased). -/
def State.dropLines (s : State) (cx : Nat) : State :=
  let out (k : LineKey) : Bool := k.cx != cx
  let frames := (s.sheafOwner.filter fun e => e.home == cx).flatMap fun e => (List.range (2 * e.dist)).map fun i => e.frame + i
  let tagged := (s.lineMeta.filter fun e => frames.contains (e.1 / 512)).map (·.1)
  let s1 := tagged.foldl (fun s n => s.setMeta n { s.lmeta n with tag := 0 }) s
  { s1 with cores := s1.cores.map fun c => { c with pq := c.pq.filter fun e => out e.key, l1 := c.l1.filter fun l => out l.key,
                                                    tlb := c.tlb.filter fun t => t.cx != cx },
            sectorTlb := s1.sectorTlb.filter fun e => e.2.cx != cx,
            fills := s1.fills.filter fun f => out f.key, cfills := s1.cfills.filter fun f => out f.key,
            merges := s1.merges.filter fun m => out m.key, invals := s1.invals.filter fun m => out m.key,
            pushes := s1.pushes.filter fun m => out m.key, pushed := s1.pushed.filter fun p => out p.1,
            ccopies := s1.ccopies.filter fun c => out c.key, l2 := s1.l2.filter fun l => out l.key,
            sheafOwner := s1.sheafOwner.filter fun e => e.home != cx, shSealed := s1.shSealed.filter fun e => e.1 != cx }

/-- The requests of other vchips that the context holds are answered negatively, and its granary is emptied (R347). -/
def State.refuseHeld (s : State) (cx : Nat) : State :=
  let recs := ((s.ctx? cx).map fun c => c.gran.recs).getD []
  let s1 := recs.foldl (fun s e => s.nackRec cx e.2.2) s
  let ws := s1.rwatches.filter fun w => w.cx == cx
  let s2 : State := { s1 with rwatches := s1.rwatches.filter fun w => w.cx != cx }
  let s3 := ws.foldl (fun s w => s.replyTo cx w.src w.vlink w.loopback (.rNack w.req default)) s2
  let ps := s3.shProcs.filter fun p => p.cx == cx
  let s4 : State := { s3 with shProcs := s3.shProcs.filter fun p => p.cx != cx }
  let s5 := ps.foldl (fun s p => match p.remote with
    | none => s
    | some (src, vl, lb, r) => s.replyTo cx src vl lb (.rNack r default)) s4
  s5.updCtx cx fun c => { c with gran := { c.gran with recs := [], withheld := false, restoreArmed := true, replayed := true } }

/-- The generation is bumped; past 65,535 it starts again at 1 under new keys (R75). Every vlink key entry is cleared (R342). -/
def State.bumpGen (s : State) (cx : Nat) : State :=
  match s.ctx? cx with
  | none => s
  | some c =>
    if c.gen + 1 = 0 then
      let (mem, s1) := s.drawKey
      let (gran, s2) := s1.drawKey
      s2.updCtx cx fun c => { c with gen := 1, memKey := mem, granKey := gran, egKeys := [], inKeys := [] }
    else s.updCtx cx fun c => { c with gen := c.gen + 1, egKeys := [], inKeys := [] }

/-- What *flr*, *stop* and *retire* have in common (R72, R75, R229, R347). -/
def State.eraseContext (s0 : State) (cx : Nat) : State :=
  let s := s0.updCtx cx fun c => c.unwrapKeys s0.modl.sealingKey
  let s1 := ((s.discardWork cx).flushSheaf cx).refuseHeld cx
  let s2 := ((s1.dropLines cx).bumpGen cx).mapQueues cx Queue.detachEv
  s2.updCtx cx fun c =>
    { c.freeSlot with sheafFixed := false, sheafFrames := [], wrapped := [], keySet := false, session := none, stream := none }

def State.enter (s : State) (cx : Nat) (st : CxState) : State := s.updCtx cx fun c => { c with st := st }

/-! ## Start (R72, R229, R346) -/

/-- The frames of a range of the context's pages, each mapped and writable with SH = F = SD = 0; none: some page is not. -/
def State.fixFrames (s : State) (cx base bytes : Nat) : Option (List Nat) :=
  (List.range ((base % 65536 + bytes + 65535) / 65536)).foldr (fun i acc =>
    let va := base / 65536 * 65536 + 65536 * i
    match acc, regionOf va, (s.walk cx va .quiet).2 with
    | some l, .localTable, .ok t => if t.w && !t.sh && !t.far && t.kds == 0 then some (t.pa va / 65536 :: l) else none
    | _, _, _ => none) (some [])

/-- The RO fields of every descriptor take their reset values (R229). -/
def State.resetSheaf (s : State) (cx : Nat) : State :=
  match s.ctx? cx with
  | none => s
  | some c =>
    (List.range c.bindRec.sheafN).foldl (fun s i =>
      match s.desc? cx i with
      | none => s
      | some (k, d) => s.putDesc k { d with st := dIdle, openv := 0, version := 0, pins := 0, writer := default }) s

/-- The sheaf table and the granary are translated and fixed where they are not; none: NORES. -/
def State.fixTables (s : State) (cx : Nat) : Option State :=
  match s.ctx? cx with
  | none => none
  | some c =>
    let r := c.bindRec
    let sh := if c.sheafFixed then some c.sheafFrames else s.fixFrames cx r.sheafBase (128 * r.sheafN)
    let gr := if c.gran.fixed then some c.gran.frames else s.fixFrames cx r.granBase r.granSize
    match sh, gr with
    | some fs, some gs =>
      let s1 := s.updCtx cx fun c =>
        { c with sheafFixed := true, sheafFrames := fs, gran := { c.gran with fixed := true, frames := gs } }
      some (if c.sheafFixed then s1 else s1.resetSheaf cx)
    | _, _ => none

/-- Why a context cannot take a slot: all 64 are held, or a member of its sector group holds one (R70, R79). Where both hold the answer is
NOSLOT (DESIGN CHOICE, log 43: R76 gives its error codes no order). -/
def State.slotErr (s : State) (c : Context) : Option Nat :=
  if (s.ctxs.filter fun x => x.slot).length ≥ Config.slotCap then some cmdNoslot
  else if c.bindRec.hard ≠ 0 ∧ s.ctxs.any fun x => x.slot && x.cxid != c.cxid && x.bindRec.hard == c.bindRec.hard then some cmdNores
  else none

/-- *start*. While a warm reset goes on it is held off with BADSTATE (DESIGN CHOICE, log 52). -/
def State.startEv (s : State) (c : Context) : State × Option Nat :=
  if c.st != .locked || s.modl.recovering.isSome then (s, some cmdBadstate)
  else
    match s.slotErr c with
    | some e => (s, some e)
    | none =>
      match s.readRcb c.cxid c.bindRec.rootRcb with
      | (s1, none) => (s1, some cmdNores)
      | (s1, some _) =>
        match s1.fixTables c.cxid with
        | none => ({ s1 with rcbs := s.rcbs }, some cmdNores)
        | some s2 =>
          let s3 := s2.updRcb c.cxid c.bindRec.rootRcb fun r => { r with periodNo := s2.periodNo r }
          let s4 := (s3.mapQueues c.cxid fun q => if q.st == .detached then q.attachEv else q.sresumeEv).updCtx c.cxid fun c =>
            { c.takeSlot with st := .run, dsqPaused := false, wdogFrom := s.cycle,
                              gran := { c.gran with replayed := !c.gran.pendingReq } }
          (s4, some cmdOk)

/-! ## The other events of R72 -/

/-- *lock*. -/
def State.lockEv (s : State) (c : Context) : State × Option Nat :=
  if c.st == .bound then (s.enter c.cxid .locked, some cmdOk) else (s, some cmdBadstate)

/-- *unlock*. -/
def State.unlockEv (s : State) (c : Context) : State × Option Nat :=
  if c.st == .locked then (s.updCtx c.cxid fun c => { c with st := .bound, keySet := false }, some cmdOk) else (s, some cmdBadstate)

/-- *seal* (R80): the command stays under way until SEALED. -/
def State.sealEv (s : State) (c : Context) : State × Option Nat :=
  if c.st == .run then
    ((((s.pauseQueues c.cxid).enter c.cxid .sealing).flashback c.cxid .seal fun _ => true).stopCircuits c.cxid, none)
  else (s, some cmdBadstate)

/-- *restore* (R82): the command stays under way until RUN. While a warm reset goes on it is held off with BADSTATE (DESIGN CHOICE, log
52). -/
def State.restoreEv (s : State) (c : Context) : State × Option Nat :=
  if c.st != .sealed || s.modl.recovering.isSome then (s, some cmdBadstate)
  else
    match s.slotErr c with
    | some e => (s, some e)
    | none =>
      (s.updCtx c.cxid fun c =>
        { (c.unwrapKeys s.modl.sealingKey).takeSlot with st := .restoring, gran := { c.gran with replayed := false } }, none)

/-- The effects of *reset*, into LOCKED or ERROR (R72, R86). -/
def State.resetTo (s : State) (cx : Nat) (st : CxState) : State :=
  (((s.discardWork cx).mapQueues cx Queue.resetEv).updCtx cx fun c =>
    { (c.unwrapKeys s.modl.sealingKey).freeSlot with st := st }).cmdFinish cx cmdBadstate

/-- *reset*. -/
def State.resetEv (s : State) (c : Context) : State × Option Nat :=
  match c.st with
  | .run | .sealing | .restoring | .halted => (s.resetTo c.cxid (if c.bindRec.tdi then .error else .locked), some cmdOk)
  | .bound | .locked | .sealed | .error | .retired => (s, some cmdBadstate)

/-- *tdierror*. -/
def State.tdierrorEv (s : State) (c : Context) : State :=
  match c.st with
  | .locked | .run | .sealing | .sealed | .restoring | .halted => if c.bindRec.tdi then s.resetTo c.cxid .error else s
  | .bound | .error | .retired => s

/-- *stop*. -/
def State.stopEv (s : State) (c : Context) : State × Option Nat :=
  match c.st with
  | .locked | .run | .sealing | .sealed | .restoring | .halted | .error =>
    (((s.eraseContext c.cxid).enter c.cxid .bound).cmdFinish c.cxid cmdBadstate, some cmdOk)
  | .bound | .retired => (s, some cmdBadstate)

/-- *flr*. -/
def State.flrEv (s : State) (c : Context) : State × Option Nat :=
  match c.st with
  | .bound | .locked | .run | .sealing | .sealed | .restoring | .halted | .error =>
    (((s.eraseContext c.cxid).enter c.cxid .bound).cmdFinish c.cxid cmdBadstate, some cmdOk)
  | .retired => (s, some cmdBadstate)

/-- The effects of *retire*: frames, sectors and lanes are returned (R72, R322, R346). -/
def State.retireCtx (s : State) (cx : Nat) : State :=
  let s1 := s.eraseContext cx
  let ds := upd (fun (d : ShareDomain) => d.granted == some cx) (fun d => { d with granted := none }) s1.modl.domains
  let s2 : State := { s1 with modl := { s1.modl with domains := ds } }
  s2.updCtx cx fun c =>
    { c with st := .retired, poolLocal := [], poolFar := [], farMeta := [], pages := [], inUse := 0, kdt := [],
             gran := { c.gran with fixed := false, frames := [] } }

/-- *retire*. -/
def State.retireEv (s : State) (c : Context) : State × Option Nat :=
  match c.st with
  | .bound | .locked | .sealed | .halted | .error => (s.retireCtx c.cxid, some cmdOk)
  | .run | .sealing | .restoring | .retired => (s, some cmdBadstate)

/-- *release*: the CXID is free for reuse; interfaces and vpod tables go with it (R72, R87, R332). -/
def State.releaseEv (s : State) (c : Context) : State × Option Nat :=
  if c.st == .retired then
    -- a VPOD under way for it ends (R337)
    let held := s.bar.link.pending.map (·.1) == some c.cxid
    let link : LinkRegs := if held then { s.bar.link with pending := none, err := 2 } else s.bar.link
    ({ s with bar := { s.bar with link := link }, ctxs := s.ctxs.filter fun x => x.cxid != c.cxid, queues := s.queues.filter fun q => q.cx != c.cxid || q.iface == hvIface,
              sent := s.sent.filter fun k => k.cx != c.cxid, reqs := s.reqs.filter fun r => r.cx != c.cxid }, some cmdOk)
  else (s, some cmdBadstate)

end Sys2Proof.Machine
end

