-- ==== Sys2Proof/Machine/ContextEvents.lean ====
section
/-! DEFINITION. Context commands, the TDISP messages, and what the save engine and the watchdog do (spec/04_context.md R72 to R86,
spec/17_link.md R349, R353). -/

namespace Sys2Proof.Machine

/-! ## Commands (R74, R76) -/

/-- A write of GO = 1 with OP and CXID: ignored while a command is under way, and in recovery state, which shows no BAR (R364). act answers the result, or none while it goes on. -/
def State.command (s : State) (op cxid : Nat) (act : State → State × Option Nat) : State :=
  if s.bar.cmd.busy || s.modl.recovery then s
  else
    let s1 : State := { s with bar := { s.bar with cmd := { s.bar.cmd with cxid := BitVec.ofNat 16 cxid, op := BitVec.ofNat 8 op } } }
    match act s1 with
    | (s2, some e) => s2.cmdEnd cxid e
    | (s2, none) => { s2 with bar := { s2.bar with cmd := { s2.bar.cmd with pending := some (op, cxid) } } }

/-- A command on a context that is not FREE; tdi: its event belongs to TDISP where TDI = 1. BADCXID comes before TDIOWNED, and both before
what the event answers (DESIGN CHOICE, log 43). -/
def State.commandOn (s : State) (op cxid : Nat) (tdi : Bool) (k : State → Context → State × Option Nat) : State :=
  s.command op cxid fun s =>
    if cxid ≥ s.bar.dirN.toNat then (s, some cmdBadcxid)
    else
      match s.ctx? cxid with
      | none => (s, some cmdBadcxid)
      | some c => if tdi && c.bindRec.tdi then (s, some cmdTdiowned) else k s c

/-- BIND: the record at CXARG. BADCXID comes before BADREC, and BADREC before NORES (DESIGN CHOICE, log 43). -/
def State.bindCmd (s : State) (cxid : Nat) : State :=
  s.command 1 cxid fun s =>
    let pa := s.bar.cmd.arg.toNat
    if cxid ≥ s.bar.dirN.toNat ∨ (s.ctx? cxid).isSome then (s, some cmdBadcxid)
    else if pa % 128 ≠ 0 then (s, some cmdBadrec)
    else
      let s1 := s.hvNote pa 128
      match (s.hvRead pa 128).bind bindRecOf with
      | none => (s1, some cmdBadrec)
      | some r => if s1.saveFits r then s1.bindEv cxid r else (s1, some cmdBadrec)

/-- The command that a write of GO names (R76). -/
def State.contextCommand (s : State) (op cxid : Nat) : State :=
  match op with
  | 1 => s.bindCmd cxid
  | 2 => s.commandOn 2 cxid true State.lockEv
  | 3 => s.commandOn 3 cxid true State.unlockEv
  | 4 => s.commandOn 4 cxid true State.startEv
  | 5 => s.commandOn 5 cxid false State.sealEv
  | 6 => s.commandOn 6 cxid false State.restoreEv
  | 7 => s.commandOn 7 cxid false State.resetEv
  | 8 => s.commandOn 8 cxid false State.flrEv
  | 9 => s.commandOn 9 cxid false State.retireEv
  | 10 => s.commandOn 10 cxid false State.releaseEv
  | 11 => s.commandOn 11 cxid true State.stopEv
  | _ => s.command op cxid fun s => (s, some cmdBadop)

/-- BIND (R72, R76). -/
def execBind (cxid : Nat) (s : State) : Out := .next (s.contextCommand 1 (cxid % 65536))

/-- LOCK (R72, R76). -/
def execLock (cxid : Nat) (s : State) : Out := .next (s.contextCommand 2 (cxid % 65536))

/-- UNLOCK (R72, R76). -/
def execUnlock (cxid : Nat) (s : State) : Out := .next (s.contextCommand 3 (cxid % 65536))

/-- START (R72, R76). -/
def execStart (cxid : Nat) (s : State) : Out := .next (s.contextCommand 4 (cxid % 65536))

/-- SEAL (R76, R80). -/
def execSealCx (cxid : Nat) (s : State) : Out := .next (s.contextCommand 5 (cxid % 65536))

/-- RESTORE (R76, R82). -/
def execRestore (cxid : Nat) (s : State) : Out := .next (s.contextCommand 6 (cxid % 65536))

/-- RESET (R72, R76). -/
def execReset (cxid : Nat) (s : State) : Out := .next (s.contextCommand 7 (cxid % 65536))

/-- FLR (R72, R76). -/
def execFlr (cxid : Nat) (s : State) : Out := .next (s.contextCommand 8 (cxid % 65536))

/-- RETIRE (R72, R76). -/
def execRetire (cxid : Nat) (s : State) : Out := .next (s.contextCommand 9 (cxid % 65536))

/-- RELEASE (R72, R76). -/
def execRelease (cxid : Nat) (s : State) : Out := .next (s.contextCommand 10 (cxid % 65536))

/-- STOP (R72, R76). -/
def execStop (cxid : Nat) (s : State) : Out := .next (s.contextCommand 11 (cxid % 65536))

/-! ## TDISP (R345, R353, R354) -/

/-- A session that may carry TDISP messages: the requester has fetched the ML-DSA-65 signature (R354). -/
def State.session? (s : State) (id : Nat) : Option SpdmSession := s.modl.sessions.find? fun x => x.id == id && x.mldsa

/-- LOCK_INTERFACE_REQUEST: *lock* of a TDI, its transport key, and its selective stream (R345, R352). Each of the three messages is
answered with the state that the TDI then reports (R71). -/
def execLockInterfaceRequest (cxid session stream : Nat) (s : State) : Out :=
  .next (match s.session? session, s.ctx? cxid with
    | some x, some c =>
      if c.bindRec.tdi && s.modl.ideStreams.any fun e => e.1 == stream then
        match s.lockEv c with
        | (s1, some 0) => (s1.updCtx cxid fun c =>
            { c with session := some session, stream := some stream, transKey := Config.hkdf x.secret (transInfo cxid c.gen),
                     noSession := false }).reportTdisp cxid
        | (s1, _) => s1.reportTdisp cxid
      else s
    | _, _ => s)

/-- A TDISP message on the session through which the TDI was locked. -/
def State.tdisp (s : State) (cxid session : Nat) (k : Context → State) : State :=
  match s.session? session, s.ctx? cxid with
  | some _, some c => if c.bindRec.tdi && c.session == some session then (k c).reportTdisp cxid else s
  | _, _ => s

/-- START_INTERFACE_REQUEST: *start*. -/
def execStartInterfaceRequest (cxid session : Nat) (s : State) : Out := .next (s.tdisp cxid session fun c => (s.startEv c).1)

/-- STOP_INTERFACE_REQUEST: *stop*. -/
def execStopInterfaceRequest (cxid session : Nat) (s : State) : Out := .next (s.tdisp cxid session fun c => (s.stopEv c).1)

/-- TDIERROR (R72). -/
def execTdierror (cxid : Nat) (s : State) : Out :=
  .next (match s.ctx? cxid with
    | none => s
    | some c => s.tdierrorEv c)

/-- An integrity failure on a selective stream: *tdierror* for every TDI bound to it (R352). -/
def State.ideFailure (s : State) (stream : Nat) : State :=
  (s.ctxs.filter fun c => c.bindRec.tdi && c.stream == some stream).foldl (fun (s : State) c =>
    match s.ctx? c.cxid with
    | none => s
    | some d => s.tdierrorEv d) s

/-! ## The save engine (R80, R82, R349) -/

/-- SAVED: every commit has its reply in the image and every copy has completed; the slot is freed. -/
def execSaved (cxid : Nat) (s : State) : Out :=
  .next (match s.ctx? cxid with
    | none => s
    | some c =>
      if c.st == .sealing && (s.images.all fun im => im.cx != cxid || im.complete) && !(s.copies.any fun k => k.cx == cxid) then
        (s.updCtx cxid fun c => { (c.wrapKeys s.modl.sealingKey).freeSlot with st := .sealed }).cmdFinish cxid cmdOk
      else s)

/-- The sealed sets of a context that have not come back to their cores. -/
def State.toRestore (s : State) (cx : Nat) : Bool := s.images.any fun im => im.cx == cx && im.reason == .seal

/-- GRANARY_REPLAY: the next request record, after the image has been read (R82, R349). -/
def execGranaryReplay (cxid : Nat) (s : State) : Out :=
  .next (match s.ctx? cxid with
    | none => s
    | some c =>
      if (c.st == .run || (c.st == .restoring && !s.toRestore cxid)) && !c.gran.replayed then
        let s1 := s.installWatches cxid
        (s1.replayOne cxid).getD s1
      else s)

/-- RESTORED: the context is RUN, its queues and circuits resume (R82, R90, R97). -/
def execRestored (cxid : Nat) (s : State) : Out :=
  .next (match s.ctx? cxid with
    | none => s
    | some c =>
      if c.st == .restoring && c.gran.replayed && !s.toRestore cxid then
        ((((s.installWatches cxid).updCtx cxid fun c => { c with st := .run, dsqPaused := false, wdogFrom := s.cycle }).mapQueues cxid
          Queue.sresumeEv).resumeCircuits cxid).cmdFinish cxid cmdOk
      else s)

/-- CONTEXT_WATCHDOG_EXPIRY (R85). -/
def execContextWatchdogExpiry (cxid : Nat) (s : State) : Out :=
  .next (match s.ctx? cxid with
    | none => s
    | some c =>
      if c.st == .run && c.bindRec.wdog != 0 && (s.kernels.any fun k => k.cx == cxid && k.inPool)
          && decide (s.cycle ≥ c.wdogFrom + msCycles c.bindRec.wdog) then s.contextFault cxid faultWatchdog
      else s)

end Sys2Proof.Machine
end

