-- ==== Sys2Proof/Machine/LinkTables.lean ====
section
/-! DEFINITION. The link command block (spec/17_link.md R337): VPOD and its update records (R338), vlink keys (R342), HINT (R343). -/

namespace Sys2Proof.Machine

def linkOk : Nat := 0
def linkBadop : Nat := 1
def linkBadcxid : Nat := 2
def linkBadrec : Nat := 3
def linkAbsent : Nat := 4
def linkNospace : Nat := 5
def linkBadwrap : Nat := 6
def linkBadstate : Nat := 7
def linkNovchip : Nat := 8

def LinkRegs.busy (r : LinkRegs) : Bool := r.pending.isSome

/-- The result of the last command. -/
def State.linkEnd (s : State) (err : Nat) : State :=
  { s with bar := { s.bar with link := { s.bar.link with pending := none, err := BitVec.ofNat 8 err } } }

/-- A write of GO with OP and CXID: ignored while a command is under way. act answers the result, or none while it goes on. -/
def State.linkCommand (s : State) (op cxid : Nat) (act : State → Context → State × Option Nat) : State :=
  if s.bar.link.busy || s.modl.recovery then s
  else
    let s1 : State := { s with bar := { s.bar with link := { s.bar.link with cxid := BitVec.ofNat 16 cxid, op := BitVec.ofNat 8 op } } }
    match s1.ctx? cxid with
    | none => s1.linkEnd linkBadcxid
    | some c =>
      if c.st == .retired then s1.linkEnd linkBadcxid
      else
        match act s1 c with
        | (s2, some e) => s2.linkEnd e
        | (s2, none) => s2

/-! ## VPOD (R338) -/

/-- A record of an update list: its table, index and entry. -/
structure VpodRec where
  table : Nat
  idx : Nat
  entry : BitVec 128
  deriving DecidableEq, Repr, Inhabited

def VpodRec.valid (r : VpodRec) : Bool := r.entry.getLsbD 63

/-- The members of an MCAST entry at or beyond COUNT are 0 (R335). -/
def mcastTail (e : BitVec 128) : Bool :=
  (List.range 8).all fun j => decide (j < (e.extractLsb' 48 4).toNat) || e.extractLsb' (64 * (j / 4) + 12 * (j % 4)) 12 == 0

/-- A record that is well formed by itself (R333 to R335, R338). -/
def vpodRecOf (bs : List Byte) : Option VpodRec :=
  let t := fieldNat bs 0 1
  let idx := fieldNat bs 2 2
  let e : BitVec 128 := BitVec.ofNat 128 (fieldNat bs 8 16)
  let r : VpodRec := { table := t, idx := idx, entry := e }
  let ok : Bool := match t with
    | 1 => decide (idx < 4096) && e.extractLsb' 64 64 == 0 && e.extractLsb' 48 15 == 0 && (!r.valid || e.extractLsb' 0 16 != 0)
    | 2 => idx != 0 && e.extractLsb' 59 4 == 0 && e.extractLsb' 96 32 == 0
    | 3 => decide (idx < 256) && e.extractLsb' 52 11 == 0 && e.extractLsb' 112 16 == 0
        && (!r.valid || (decide (1 ≤ (e.extractLsb' 48 4).toNat) && decide ((e.extractLsb' 48 4).toNat ≤ 8) && mcastTail e))
    | 4 => decide (idx < 256) && e.extractLsb' 44 19 == 0 && e.extractLsb' 72 56 == 0
    | _ => false
  if ok && allZero bs 1 1 && allZero bs 4 4 && allZero bs 24 8 then some r else none

/-- One record enters its table; V = 0 removes the entry, and a route that is rewritten is no longer DOWN (R330). -/
def Context.applyRec (c : Context) (r : Nat × Nat × BitVec 128) : Context :=
  let (t, i, e) := r
  let v := e.getLsbD 63
  match t with
  | 1 => { c with vchips := sput 0 c.vchips i (if v then e.extractLsb' 0 64 else 0) }
  | 2 => { c with routes := sput 0 c.routes i (if v then e else 0), downRoutes := c.downRoutes.filter fun x => x != i }
  | 3 => { c with mcast := sput 0 c.mcast i (if v then e else 0) }
  | 4 => { c with ingress := sput 0 c.ingress i (if v then e else 0) }
  | _ => c

/-- VLINKs of valid INGRESS entries are unique (R334). -/
def Context.ingressUnique (c : Context) : Bool := decide ((c.ingress.map fun e => e.2.extractLsb' 0 32).Nodup)

/-- A list of records checked against the context's tables: the result (R338). -/
def State.checkRecs (s : State) (c : Context) (rs : List VpodRec) : Nat :=
  let c1 := (rs.map fun r => (r.table, r.idx, r.entry)).foldl Context.applyRec c
  if !c1.ingressUnique then linkBadrec
  else if rs.any fun r => r.table == 2 && r.valid && !s.modl.geo.ptmask.getLsbD (r.entry.extractLsb' 56 3).toNat then linkAbsent
  else if ((s.ctxs.filter fun x => x.cxid != c.cxid).map fun x => x.routes.length).foldl (· + ·) 0 + c1.routes.length > 262144 then
    linkNospace
  else linkOk

/-- The packets of a context that still wait for their acknowledgement, sent under the present tables. -/
def State.unacked (s : State) (cx : Nat) : Bool := s.sent.any fun k => k.cx == cx && !k.untr

/-- A VPOD under way applies its records once every packet has been acknowledged or its route is DOWN; the held requests follow. -/
def State.vpodTry (s : State) : State :=
  match s.bar.link.pending with
  | none => s
  | some (cx, rs) =>
    if s.unacked cx then s else ((s.updCtx cx fun c => rs.foldl Context.applyRec c).linkEnd linkOk).pump

/-- The records of an update list; none: unreadable or malformed. -/
def State.vpodList (s : State) (pa n : Nat) : Option (List VpodRec) :=
  match s.hvRead pa (32 * n) with
  | none => none
  | some bs => (List.range n).mapM fun i => vpodRecOf ((bs.drop (32 * i)).take 32)

/-- VPOD. Requests that are held and have not left are held as new ones are, and translated again (R338). -/
def State.vpod (s : State) (cxid : Nat) : State :=
  (s.linkCommand 1 cxid fun s c =>
    let pa := s.bar.link.larg0.toNat
    let n := s.bar.link.larg1.toNat
    if pa % 32 ≠ 0 ∨ n = 0 ∨ n ≥ 65536 then (s, some linkBadop)
    else
      let s1 := s.hvNote pa (32 * n)
      match s.vpodList pa n with
      | none => (s1, some linkBadrec)
      | some rs =>
        if s.checkRecs c rs ≠ linkOk then (s1, some (s.checkRecs c rs))
        else
          let p := rs.map fun r => (r.table, r.idx, r.entry)
          ({ s1 with bar := { s1.bar with link := { s1.bar.link with pending := some (cxid, p) } },
                     sent := upd (fun k => k.cx == cxid && k.held) (fun k => { k with untr := true }) s1.sent }, none)).vpodTry

/-! ## Vlink keys (R342) -/

/-- *load*. -/
def KeyEntry.load (e : KeyEntry) (k : Key) : KeyEntry :=
  if e.k0.isNone && e.k1.isNone then { k0 := some k }
  else if e.phase then { e with k0 := some k, rolling := true } else { e with k1 := some k, rolling := true }

/-- *switch* of an egress entry; none: BADSTATE. -/
def KeyEntry.switch (e : KeyEntry) : Option KeyEntry :=
  if !e.rolling then none
  else if e.phase then some { e with k1 := none, phase := false, seq := 0, rolling := false }
  else some { e with k0 := none, phase := true, seq := 0, rolling := false }

/-- *accept* of a packet of a phase with a sequence number. -/
def KeyEntry.accept (e : KeyEntry) (phase : Bool) (seq : Nat) : KeyEntry :=
  if phase = e.phase then { e with seq := seq + 1 }
  else if phase then { e with k0 := none, phase := true, seq := seq + 1, rolling := false }
  else { e with k1 := none, phase := false, seq := seq + 1, rolling := false }

/-- VKEY: the key block at LARG0. -/
def State.vkey (s : State) (cxid : Nat) : State :=
  (s.linkCommand 2 cxid fun s c =>
    let pa := s.bar.link.larg0.toNat
    if pa % 64 ≠ 0 then (s, some linkBadop)
    else
      let s1 := s.hvNote pa 64
      match s.hvRead pa 64 with
      | none => (s1, some linkBadrec)
      | some bs =>
        let dir := fieldNat bs 0 1
        let i := fieldNat bs 1 1
        if dir > 1 || !allZero bs 2 6 || !allZero bs 48 16 then (s1, some linkBadrec)
        else
          match if c.noSession then none else keyUnwrap c.transKey ((bs.drop 8).take 40) with
          | none => (s1, some linkBadwrap)
          | some k =>
            (s1.updCtx cxid fun c =>
              if dir = 0 then { c with egKeys := putKey c.egKeys i ((keyAt c.egKeys i).load k) }
              else { c with inKeys := putKey c.inKeys i ((keyAt c.inKeys i).load k) }, some linkOk)).pump

/-- VSWITCH: the egress entry that LARG0 names. -/
def State.vswitch (s : State) (cxid : Nat) : State :=
  (s.linkCommand 3 cxid fun s c =>
    let i := s.bar.link.larg0.toNat
    if i ≥ 256 then (s, some linkBadop)
    else
      match (keyAt c.egKeys i).switch with
      | none => (s, some linkBadstate)
      | some e => (s.updCtx cxid fun c => { c with egKeys := putKey c.egKeys i e }, some linkOk)).pump

/-- VCLEAR: every table entry 0, every key entry NONE. -/
def State.vclear (s : State) (cxid : Nat) : State :=
  s.linkCommand 5 cxid fun s _ =>
    (s.updCtx cxid fun c => { c with vchips := [], routes := [], mcast := [], ingress := [], egKeys := [], inKeys := [] }, some linkOk)

/-- HINT: a request of the hypervisor through the context's tables (R343). -/
def State.hint (s : State) (cxid : Nat) : State :=
  s.linkCommand 4 cxid fun s _ =>
    let v := s.bar.link.larg0.toNat
    let len := s.bar.link.larg2.toNat
    if v ≥ 4096 ∨ len = 0 ∨ len > 1000000000 then (s, some linkBadop)
    else
      match s.podSend cxid v 0 (.hint s.bar.link.larg1.toNat len) with
      | (s1, st) => if st = statusNovchip ∨ st = statusBadroute then (s, some linkNovchip) else (s1, some linkOk)

/-- A write of GO to 0x1C0 (R337). -/
def State.linkGo (s : State) (op cxid : Nat) : State :=
  match op with
  | 1 => s.vpod cxid
  | 2 => s.vkey cxid
  | 3 => s.vswitch cxid
  | 4 => s.hint cxid
  | 5 => s.vclear cxid
  | _ => if s.bar.link.busy || s.modl.recovery then s else
      ({ s with bar := { s.bar with link := { s.bar.link with cxid := BitVec.ofNat 16 cxid, op := BitVec.ofNat 8 op } } } : State).linkEnd linkBadop

end Sys2Proof.Machine
end

