-- ==== Sys2Proof/Machine/LinkEvents.lean ====
section
/-! DEFINITION. The steps of the fabric interfaces, of time and of the host port (spec/17_link.md R330, R337 to R343, R350 to R354). The
operand of a packet row is its place in the list of arriving or of sent packets; a place that holds none has no effect. -/

namespace Sys2Proof.Machine

/-! ## Link commands -/

/-- VPOD (R337, R338). -/
def execVpod (cxid : Nat) (s : State) : Out := .next (s.linkGo 1 (cxid % 65536))

/-- VKEY (R337, R342). -/
def execVkey (cxid : Nat) (s : State) : Out := .next (s.linkGo 2 (cxid % 65536))

/-- VSWITCH (R337, R342). -/
def execVswitch (cxid : Nat) (s : State) : Out := .next (s.linkGo 3 (cxid % 65536))

/-- HINT (R337, R343). -/
def execHint (cxid : Nat) (s : State) : Out := .next (s.linkGo 4 (cxid % 65536))

/-- VCLEAR (R337). -/
def execVclear (cxid : Nat) (s : State) : Out := .next (s.linkGo 5 (cxid % 65536))

/-! ## Ingress (R339) -/

/-- The number under which a packet's sender learns of a refusal. -/
def Packet.answerTo (k : Packet) : Nat := if k.body.req = 0 then k.id else k.body.req

/-- The package that a packet came from, where the destination's tables name it. -/
def State.backPkg (s : State) (k : Packet) : BitVec 16 :=
  (((s.ctx? k.cxid).bind fun c => (c.ingress? k.vlink).bind fun e => c.vchip? e.1).map fun v => v.1).getD 0

/-- A packet is refused: a negative acknowledgement (R347). -/
def State.refuse (s : State) (k : Packet) : State :=
  if k.loopback then
    match s.sent.find? fun x => x.id == k.id with
    | none => s
    | some x => (s.failPkt x causeProt).vpodTry
  else { s with wire := s.wire ++ [{ pkg := s.backPkg k, cxid := 0, vlink := k.vlink, loopback := false, reply := true,
                                     body := .rNack k.answerTo k.body.site }] }

/-- A packet is acknowledged. -/
def State.ackPkt (s : State) (k : Packet) : State :=
  if k.loopback then { s with sent := upd (fun x => x.id == k.id) (fun x => { x with acked := true }) s.sent }
  else { s with wire := s.wire ++ [{ pkg := s.backPkg k, cxid := 0, vlink := k.vlink, loopback := false, reply := true, body := .ack k.id }] }

/-- Steps 2 of R339: a context that takes no packets. -/
def takesPackets (st : CxState) : Bool :=
  match st with
  | .run | .sealing | .sealed | .restoring | .halted => true
  | .bound | .locked | .error | .retired => false

/-- What opening a packet under its key entry gives (R341). -/
inductive Opened where
  | fails
  | again
  | new (e : KeyEntry)
  deriving DecidableEq, Repr, Inhabited

def KeyEntry.opens (e : KeyEntry) (k : Packet) : Opened :=
  if !k.intact || (e.slot k.phase).isNone || e.slot k.phase != k.sealedUnder then .fails
  else if k.phase == e.phase && decide (k.seq < e.seq) then .again
  else .new (e.accept k.phase k.seq)

/-- A hint that is appended to the granary of a SEALED context raises CORUN too (R343). -/
def State.corunAt (s : State) (c : Context) (b : PktBody) : State :=
  match b with
  | .hint start len => if c.st = .sealed then s.takeHint c.cxid start len else s
  | .load .. | .merge .. | .atomic .. | .watch .. | .sheaf .. | .sealMember .. | .openWrite .. | .pinned .. | .send .. | .rData ..
  | .rAtomic .. | .rAck _ | .rNack .. | .rReject .. | .rWatch .. | .rSheaf .. | .rPinned .. | .rPoison .. | .rFull _ | .ack _ => s

/-- A packet is delivered from a source vchip; none: it waits (R339 step 5, R346, R348). -/
def State.deliverPkt (s : State) (c : Context) (src : Nat) (k : Packet) : Option State :=
  match k.body with
  | .send payload _ => if c.granRoom then some (s.granAppend c.cxid (.msg src payload)) else none
  | b =>
    if c.resident then s.perform c.cxid src k.vlink k.loopback false b
    else if c.granRoom then some ((s.granTake c.cxid src k.vlink k.loopback b).corunAt c b) else none

/-- A loopback packet that has been acknowledged or has gone, and one that must wait for an earlier packet of its vlink. -/
def State.loopDup (s : State) (k : Packet) : Bool := k.loopback && !(s.sent.any fun x => x.id == k.id && !x.acked)

def State.loopEarlier (s : State) (k : Packet) : Bool :=
  k.loopback && (s.sent.find? fun x => x.id == k.id).any fun me =>
    s.sent.any fun x => x.cx == me.cx && x.label == me.label && !x.untr && !x.acked && decide (x.id < me.id)

/-- An earlier packet of the vlink has been discarded: none of its later ones is taken before its resend, as long as its route may still
live (R330). The packet itself passes. -/
def Context.awaitsLost (c : Context) (now : Nat) (k : Packet) : Bool :=
  c.lostPkts.any fun e => e.1 == k.vlink && decide (now < e.2.2.2 + 225000000) && !(e.2.1 == k.phase && e.2.2.1 == k.seq)

/-- A packet of another module is discarded unacknowledged (R339). -/
def State.discard (s : State) (cx : Nat) (k : Packet) : State :=
  s.updCtx cx fun c =>
    { c with lostPkts := if c.lostPkts.any fun e => e.1 == k.vlink && decide (s.cycle < e.2.2.2 + 225000000) then c.lostPkts
        else (k.vlink, k.phase, k.seq, s.cycle) :: c.lostPkts.filter fun e => e.1 != k.vlink }

/-- A packet of another module is accepted under its key entry (R341, R342). -/
def Context.accepted (c : Context) (ki : Nat) (e : KeyEntry) (k : Packet) : Context :=
  { c with inKeys := putKey c.inKeys ki e, lostPkts := c.lostPkts.filter fun x => x.1 != k.vlink }

/-- The checks of R339 on a request packet, and what follows; none: the packet waits where it is. -/
def State.ingressReq (s : State) (k : Packet) : Option State :=
  if k.pkg ≠ s.bar.link.pkgid then some s
  else if s.loopDup k then some s
  else if s.loopEarlier k then none
  else
    match s.ctx? k.cxid with
    | none => some (s.refuse k)
    | some c =>
      if !takesPackets c.st then some (s.refuse k)
      else
        match c.ingress? k.vlink with
        | none => some (if k.loopback then s else s.discard c.cxid k)
        | some (src, ki) =>
          let deliver (s : State) : Option State := (s.deliverPkt c src k).map fun s => s.ackPkt k
          if k.loopback then deliver s
          else
            let e := keyAt c.inKeys ki
            match e.opens k with
            | .fails => some (if k.phase = e.phase ∧ k.seq < e.seq then s else s.discard c.cxid k)
            | .again => some (s.ackPkt k)
            | .new e1 => if c.awaitsLost s.cycle k then some s else deliver (s.updCtx c.cxid fun c => c.accepted ki e1 k)

/-- A reply arrives. From another module it is checked as every packet is: one of another package, or whose tag fails, is discarded
(R339). -/
def State.ingressReply (s : State) (k : Packet) : State :=
  if !k.loopback && (k.pkg != s.bar.link.pkgid || !k.intact) then s
  else match k.body with
  | .ack id => { s with sent := upd (fun x => x.id == id) (fun x => { x with acked := true }) s.sent }
  | b => (s.takeReply b).vpodTry

/-- PACKET_INGRESS: packet k of those that have arrived. Requests of one vlink keep their order (R330). -/
def execPacketIngress (k : Nat) (s : State) : Out :=
  .next (match s.net[k]? with
    | none => s
    | some p =>
      let gone (s : State) : State := { s with net := s.net.eraseIdx k }
      if p.reply then (gone s).ingressReply p
      else if (s.net.take k).any fun q => !q.reply && q.vlink == p.vlink && q.loopback == p.loopback && q.cxid == p.cxid then s
      else ((gone s).ingressReq p).getD s)

/-! ## Acknowledgement, retransmission, DOWN (R330) -/

/-- PACKET_ACK: the acknowledgement of a sent packet arrives; what waited for it goes on. -/
def execPacketAck (k : Nat) (s : State) : Out :=
  .next (match s.sent[k]? with
    | none => s
    | some p =>
      if p.held || (p.pkt.loopback && !p.acked) then s
      else (({ s with sent := s.sent.filter fun x => x.id != p.id } : State).vpodTry).pump)

/-- RETRANSMIT: 10 µs after its last sending a packet is sent again, with the same sequence number; a held one is tried again. -/
def execRetransmit (k : Nat) (s : State) : Out :=
  .next (match s.sent[k]? with
    | none => s
    | some p =>
      if p.held then s.tryPkt p.id
      else if decide (s.cycle < p.lastSent + 22500) || p.acked then s
      else
        let s1 : State := { s with sent := upd (fun x => x.id == p.id) (fun x => { x with lastSent := s.cycle }) s.sent }
        if p.pkt.loopback then
          if s.net.any fun q => q.id == p.id && q.loopback && !q.reply then s1 else { s1 with net := s1.net ++ [p.pkt] }
        else { s1 with wire := s1.wire ++ [p.pkt] })

/-- A route becomes DOWN: LINKDOWN, and the packets that it has not delivered take their fate. -/
def State.routeDown (s : State) (cx label port : Nat) : State :=
  let lost := s.sent.filter fun x => x.cx == cx && x.label == label && !x.untr && !x.acked
  let s1 := (s.updCtx cx fun c => { c with downRoutes := if c.downRoutes.contains label then c.downRoutes else label :: c.downRoutes }).emit
    (.linkDown port label)
  ((lost.foldl (fun s x => s.failPkt x causePoison) s1).vpodTry).pump

/-- ROUTE_DOWN: packet k has been unacknowledged for 100 ms. Packets that withheld credits hold are not sent yet (R348). -/
def execRouteDown (k : Nat) (s : State) : Out :=
  .next (match s.sent[k]? with
    | none => s
    | some p =>
      if p.untr || p.acked || (p.held && s.destHolds p.pkt) || decide (s.cycle < p.since + 225000000) then s
      else s.routeDown p.cx p.label p.port)

/-- CORUN_HINT (R343). -/
def execCorunHint (cxid : Nat) (start : DWord) (len : Nat) (s : State) : Out := .next (s.takeHint cxid start.toNat len)

/-! ## Time (R350, R351) -/

/-- $GTIME steps forward: dependences that it passes are met at once, and lap starts that it passes are skipped. -/
def State.stepGtime (s : State) (ns : Nat) : State :=
  let s1 : State := { s with gtime := (s.gtime + ns) % 2 ^ 64 }
  ((s.ctxs.map (·.cxid)).foldl (fun s cx => s.meetGtime cx fun _ => true) s1).skipLaps s1.gtime

/-- PTP_EVENT_MESSAGE: the offset that the IEEE 1588 stack has found, in ns. A backward correction is slewed. -/
def execPtpEventMessage (corr : Int) (s : State) : Out :=
  .next (
    let s1 := if s.ptpSync then s else ({ s with ptpSync := true } : State).emit .ptpLock
    if corr = 0 then s1
    else if corr < 0 then { s1 with slew := s1.slew + 90000 * corr.natAbs }
    else s1.stepGtime corr.natAbs)

/-- PORT_TRAINED: PORTUP of a present port (R337). -/
def execPortTrained (port : Nat) (up : Bool) (s : State) : Out :=
  let bit : BitVec 8 := BitVec.ofNat 8 (2 ^ port)
  let old := s.bar.link.portup
  .next (if decide (port ≥ 8) || !s.modl.geo.ptmask.getLsbD port then s
    else { s with bar := { s.bar with link := { s.bar.link with portup := if up then old ||| bit else old &&& ~~~bit } } })

/-! ## The device interface report (R353) -/

/-- The 128 bytes of a binding record (R77). -/
def BindRec.bytes (r : BindRec) : List Byte :=
  leBytes 8 r.saveBase ++ leBytes 8 r.saveSize ++ leBytes 8 r.rootRcb ++ leBytes 8 r.ptRoot ++ leBytes 8 r.granBase
  ++ leBytes 4 r.granSize ++ leBytes 4 r.pasid ++ leBytes 8 r.sheafBase ++ leBytes 2 r.sheafN ++ leBytes 2 r.queues ++ leBytes 4 r.layoutN
  ++ leBytes 8 r.layoutBase ++ leBytes 8 r.frameG ++ leBytes 8 r.frameB ++ leBytes 2 r.vchip ++ leBytes 1 r.hard.toNat
  ++ leBytes 1 r.lanes.toNat ++ leBytes 4 r.share ++ leBytes 4 r.wdog ++ leBytes 2 (r.tdi.toNat + 2 * (r.debug).toNat)
  ++ List.replicate 26 0

/-- The report of a context's TDI; none: it has none. -/
def Context.report (c : Context) : Option TdiReport :=
  if c.bindRec.tdi then
    some { first := 0x1000 * c.firstIface, stop := 0x1000 * (c.firstIface + c.bindRec.queues), pasid := c.bindRec.pasid,
           digest := Config.sha384 (leNat c.bindRec.bytes.reverse) 128, state := c.tdisp? }
  else none

/-! ## SPDM (R352, R354) -/

def spdmDone : Nat := 0
def spdmRefused : Nat := 1

/-- SPDM_MESSAGE: sessions, the signatures of responses (1: Ed25519, 2: ML-DSA-65), the measurement slots (R362), the
certificate chains, the device interface report, and IDE_KM (one link stream, at most eight selective streams). The ML-DSA-65 signature is
that of a response that has been sent; a session takes IDE_KM and TDISP messages once that of its KEY_EXCHANGE_RSP has been fetched. -/
def execSpdmMessage (m : SpdmMsg) (s : State) : Out :=
  let has (id : Nat) : Bool := s.modl.sessions.any fun x => x.id == id
  let upSession (id : Nat) (f : SpdmSession → SpdmSession) : State :=
    { s with modl := { s.modl with sessions := upd (fun x => x.id == id) f s.modl.sessions } }
  let signed (id : Nat) (k : SpdmSigned) (m : Module) : Module := { m with signed := (id, k) :: m.signed.filter (· != (id, k)) }
  let refused (id : Nat) : State := s.emit (.spdmReply id spdmRefused 0)
  .next (match m with
    | .keyExchange id secret =>
      let l := s.modl.sessions.filter fun x => x.id != id
      let m1 : Module := { s.modl with sessions := l ++ [{ id := id, secret := secret }], lastSession := some secret }
      ({ s with modl := signed id .keyExchange m1 } : State).emit (.spdmReply id spdmDone 1)
    | .finish id auth =>
      if has id then (upSession id fun x => { x with authenticated := auth }).emit (.spdmReply id spdmDone 0) else refused id
    | .fetchMldsa id k =>
      if !s.modl.signed.contains (id, k) then refused id
      else (if k = .keyExchange then upSession id fun x => { x with mldsa := true } else s).emit (.spdmReply id spdmDone 2)
    | .challenge id => ({ s with modl := signed id .challengeAuth s.modl } : State).emit (.spdmReply id spdmDone 1)
    | .measurements id =>
      ({ s with modl := signed id .measurements s.modl } : State).emit
        (.spdmReply id spdmDone 1 ((List.range 8).map fun i => s.modl.measure.getD i 0))
    | .getCertificate id slot => if slot < 2 then s.emit (.certificate id slot (slot + 1)) else refused id
    | .ideKmLink id key =>
      if (s.session? id).isNone then refused id
      else ({ s with modl := { s.modl with linkIde := some key } } : State).emit (.spdmReply id spdmDone 0)
    | .tdiReport id cxid =>
      match s.session? id, (s.ctx? cxid).bind Context.report with
      | some _, some r => s.emit (.tdiReport id cxid r)
      | _, _ => refused id
    | .ideKm id stream key =>
      let l := s.modl.ideStreams.filter fun e => e.1 != stream
      if (s.session? id).isNone || decide (l.length ≥ 8) then refused id
      else ({ s with modl := { s.modl with ideStreams := l ++ [(stream, key)] } } : State).emit (.spdmReply id spdmDone 0)
    | .endSession id => ({ s with modl := { s.modl with sessions := s.modl.sessions.filter (fun x => x.id != id),
                                                        signed := s.modl.signed.filter fun e => e.1 != id } } : State).emit
        (.spdmReply id spdmDone 0))

end Sys2Proof.Machine
end

