-- ==== Sys2Proof/Machine/PageOps.lean ====
section
/-! DEFINITION. Frames and pool pages (spec/16_page.md R318 to R328): the walk of MAP and UNMAP, invalidation of translations, zeroing and
migration of frames, what the pools hold. -/

namespace Sys2Proof.Machine

/-! ## The table path of a page -/

/-- The entry of a 64 KiB page, or the larger leaf that maps its address: the entry's physical address and its value. none: a table on
the path is missing, malformed or poisoned (R321). -/
def State.pathTo (s : State) (c : Context) (va : Nat) : Nat → Nat → Nat → Option (Nat × Pte)
  | 0, _, _ => none
  | fuel + 1, level, table =>
    let ea := table + 8 * vaIndex level va
    if s.poisoned (ea / 128) (some (c.memKey, c.gen)) then none
    else
      let p : Pte := ⟨BitVec.ofNat 64 (rdMem s.mem ea 8)⟩
      if level = 3 then (if p.v && !p.leaf then none else some (ea, p))
      else if !p.v then none
      else if p.leaf then (if level = 0 then none else some (ea, p))
      else if s.tableOk level p then s.pathTo c va fuel (level + 1) p.table else none

def State.pteOf (s : State) (c : Context) (va : Nat) : Option (Nat × Pte) :=
  if regionOf va == .localTable then s.pathTo c va 4 0 c.bindRec.ptRoot else none

/-- Writes a page-table entry at its home, published (R313). -/
def State.putPte (s : State) (cx ea : Nat) (raw : BitVec 64) : State := s.physWrite cx ea (leBytes 8 raw.toNat)

/-- Rewrites the entry of a pool page, where its path still stands. -/
def State.editPte (s : State) (cx va : Nat) (f : BitVec 64 → BitVec 64) : State :=
  match s.ctx? cx with
  | none => s
  | some c =>
    let s := s.noteWalk c va
    match s.pteOf c va with
    | none => s
    | some (ea, p) => s.putPte cx ea (f p.raw)

def pteV : BitVec 64 := 1#64
def pteMig : BitVec 64 := BitVec.ofNat 64 (2 ^ 53)

/-- The entry that MAP writes: V, LEAF, FT, W, X, SH and FRAME (R321). -/
def mapPte (w x sh : Bool) (frame : Nat) : BitVec 64 :=
  BitVec.ofNat 64 (3 + (if w then 4 else 0) + (if x then 8 else 0) + (if sh then 2 ^ 56 else 0) + 2 ^ 58 + frame % 2 ^ 32 * 65536)

/-- The entry after its migration: F = 1, the far frame, MIG = 0 (R325). -/
def farPte (raw : BitVec 64) (frame : Nat) : BitVec 64 :=
  let keep : BitVec 64 := ~~~(BitVec.ofNat 64 (2 ^ 48 - 2 ^ 16) ||| pteMig)
  (raw &&& keep) ||| BitVec.ofNat 64 (2 ^ 57 + frame % 2 ^ 32 * 65536)

/-! ## Invalidation (R320) -/

/-- The addresses of local pages that an operation still accesses through its translations, of a context. -/
def OpKind.users (k : OpKind) (cx : Nat) : List Nat :=
  match k with
  | .load _ _ _ accs _ _ => (accs.filter fun a => a.key.cx == cx).map (·.va)
  | .atom _ _ _ _ _ _ lanes => (lanes.filter fun l => l.key.cx == cx && l.reply.isNone && l.ctl.isNone).map (·.va)
  | .watch va key .. => if key.cx = cx then [va] else []
  | .shld _ _ _ _ lanes => (lanes.filter fun l => l.1.key.cx == cx).map fun l => l.1.va
  | .lds .. | .atoms .. | .pfl2 _ | .copy _ | .tffr .. | .mma _ | .board .. | .lapwait .. | .shseal .. | .shpin .. | .recv .. | .xchg .. => []

def OpKind.isWatch : OpKind → Bool
  | .watch .. => true
  | .load .. | .lds .. | .atom .. | .atoms .. | .pfl2 .. | .copy _ | .tffr .. | .mma _ | .board .. | .lapwait .. | .shseal .. | .shpin ..
  | .shld .. | .recv .. | .xchg .. => false

/-- What an invalidation waits for: the PQ entries of the context's cores, and the accesses of the context to addresses that p picks. -/
def State.sweepWaits (s : State) (cx : Nat) (p : Nat → Bool) : List Nat :=
  let cores (n : Nat) : Bool := s.groups.any fun (g : Group) => g.cx == cx && g.ref.core == n
  (s.cores.flatMap fun c => (c.pq.filter fun e => e.key.cx == cx || cores c.n).map (·.id))
  ++ ((s.ops ++ (s.images.flatMap fun im => im.ops).filter fun o => !o.kind.isWatch).filter fun o =>
      (o.kind.users cx).any fun va => regionOf va == .localTable && p va).map (·.id)

/-- Drops the translations of a context that p picks from every last-page register and TLB. -/
def State.dropXlats (s : State) (cx : Nat) (p : Xlat → Bool) : State :=
  let q (t : Xlat) : Bool := !(t.cx == cx && p t)
  { s with groups := upd (fun (g : Group) => g.cx == cx) (fun g => { g with lastPage := g.lastPage.filter fun e => q e.2 }) s.groups,
           cores := s.cores.map fun c => { c with tlb := c.tlb.filter q },
           sectorTlb := s.sectorTlb.filter fun e => q e.2 }

/-- A translation of the page that contains an address, of any size. -/
def Xlat.holds (t : Xlat) (va : Nat) : Bool := decide (t.page ≤ va) && decide (va < t.page + t.size)

/-- Those of a list of PQ entries and operations that are still there. -/
def State.stillOut (s : State) (ids : List Nat) : List Nat :=
  ids.filter fun i => (s.cores.any fun c => c.pq.any fun e => e.id == i) || s.allOps.any fun o => o.id == i

/-! ## Frames -/

/-- The core's clean copies of a frame's lines go; a line with unpublished bytes keeps those. -/
def Core.dropFrame (c : Core) (f : Nat) : Core :=
  { c with l1 := c.l1.filterMap fun l =>
      if !l.key.pod && l.key.n / 512 == f then
        match l.st with
        | .V | .P => none
        | .D | .DS => some { l with valid := l.dirty }
      else some l }

/-- Nothing but memory holds lines of a frame. -/
def State.uncacheFrame (s : State) (f : Nat) : State :=
  let out (k : LineKey) : Bool := k.pod || k.n / 512 != f
  { s with cores := s.cores.map fun c => c.dropFrame f,
           l2 := s.l2.filter fun l => out l.key, ccopies := s.ccopies.filter fun l => out l.key,
           cfills := s.cfills.filter fun l => out l.key, pushed := s.pushed.filter fun l => out l.1,
           pushes := s.pushes.filter fun l => out l.key,
           fills := s.fills.map fun l => if out l.key then l else { l with install := false } }

/-- Every line of a frame is zero under a key domain (R321, R326). -/
def State.zeroFrame (s : State) (f : Nat) (dom : Option (Key × BitVec 16)) : State :=
  let s1 := s.uncacheFrame f
  let s2 : State := { s1 with mem := s1.mem.filter fun c => c.1 / 65536 != f }
  (List.range 512).foldl (fun s i => s.setMeta (512 * f + i) { stamp := dom }) s2

/-- The number of a far frame among the lines and addresses of the model. -/
def farFrameNo (f : Nat) : Nat := Config.farBase / 65536 + f

/-- The lines of frame a are read under a key domain and written to frame b; poisoned ones are written poisoned (R325). -/
def State.moveFrame (s : State) (a b : Nat) (dom : Option (Key × BitVec 16)) : State :=
  let noted := (List.range 512).foldl (fun s i => s.noteRead (512 * a + i) dom 0) s
  let cells := (noted.mem.filter fun c => c.1 / 65536 == a).map fun c => (c.1 % 65536 + 65536 * b, c.2)
  let mem := cells.foldl (fun m c => sput 0 m c.1 c.2) (noted.mem.filter fun c => c.1 / 65536 != b)
  let s1 : State := { (noted.uncacheFrame b) with mem := mem }
  (List.range 512).foldl (fun s i =>
    let m := s.lmeta (512 * a + i)
    let poi := noted.poisoned (512 * a + i) dom
    s.setMeta (512 * b + i) { m with stamp := if poi then dom else m.stamp.bind fun _ => dom, poison := poi, tag := 0, wrong := 0 }) s1

/-- Insertion of frames into an ascending pool. -/
def putFrames (fs pool : List Nat) : List Nat := fs.foldl (fun l f => insertBy id f l) pool

/-- The device frames that a pool page holds. -/
def PoolPage.frames (p : PoolPage) : List Nat :=
  match p.st with
  | .mapped | .migrating | .unmapping false => if p.sh then [p.frame, p.frame ^^^ 1] else [p.frame]
  | .far | .unmapping true => []

/-- The far frames that a pool page holds or has reserved. -/
def PoolPage.farFrames (p : PoolPage) : List Nat :=
  match p.st with
  | .migrating => [p.far]
  | .far | .unmapping true => [p.frame]
  | .mapped | .unmapping false => []

def PageSt.isUnmapping : PageSt → Bool
  | .unmapping _ => true
  | .mapped | .migrating | .far => false

def Context.page? (c : Context) (va : Nat) : Option PoolPage := c.pages.find? fun p => p.page == va

/-- The records of a page: software that rewrites its entry can leave one whose frames are still taken. -/
def Context.recordsOf (c : Context) (va : Nat) : List PoolPage := c.pages.filter fun p => p.page == va

/-- Changes the record p alone. -/
def Context.updRecord (c : Context) (p : PoolPage) (f : PoolPage → PoolPage) : Context :=
  { c with pages := upd (fun q => q.page == p.page && q.frame == p.frame && q.st == p.st) f c.pages }

def Context.updPage (c : Context) (va : Nat) (f : PoolPage → PoolPage) : Context :=
  { c with pages := upd (fun p => p.page == va) f c.pages }

/-- The invalidation of a page has ended: nothing that it waited for is left, and no watch of another vchip stands on its lines. -/
def State.pageFree (s : State) (p : PoolPage) : Bool :=
  (s.stillOut p.waits).isEmpty
  && !(s.rwatches.any fun w => !w.key.pod && (p.frames ++ p.farFrames.map farFrameNo).contains (w.key.n / 512))

/-- A frame may lie in a context's pool: of present memory, not retired, and in no other context's hard partition (R15, R21, R328). -/
def State.poolable (s : State) (cx f : Nat) : Bool := s.present (65536 * f) && !s.modl.retired.contains f && !s.foreignFrame cx f

/-- *unmap* of a page ends: its frames return to the pools (R321), as far as ok lets them. -/
def Context.endUnmap (c : Context) (p : PoolPage) (ok : Nat → Bool) : Context :=
  { c with pages := c.pages.filter fun q => q.page != p.page,
           poolLocal := putFrames (p.frames.filter ok) c.poolLocal,
           poolFar := putFrames p.farFrames c.poolFar, inUse := c.inUse - p.frames.length }

/-- Every unmapping whose invalidation has ended takes its end. -/
def State.settlePages (s : State) (cx : Nat) : State :=
  match s.ctx? cx with
  | none => s
  | some c =>
    (c.pages.filter fun p => p.st.isUnmapping && s.pageFree p).foldl (fun s p =>
      let s1 : State := { s with sheafOwner := s.sheafOwner.filter fun e => !(p.sh && e.frame == p.frame) }
      s1.updCtx cx fun c => c.endUnmap p (s1.poolable cx)) s

/-! ## What lies in pools and areas (R322) -/

def Context.holdsLocal (c : Context) (f : Nat) : Bool := c.poolLocal.contains f || c.pages.any fun p => p.frames.contains f

def Context.holdsFar (c : Context) (f : Nat) : Bool :=
  c.poolFar.contains f || c.farMeta.contains f || c.pages.any fun p => p.farFrames.contains f

/-- Frame f holds a byte of base .. base + n - 1. -/
def frameMeets (f base n : Nat) : Bool := decide (base < 65536 * (f + 1)) && decide (65536 * f < base + n)

/-- The frame lies in a sheaf, layout or directory area. -/
def State.inArea (s : State) (f : Nat) : Bool :=
  frameMeets f (s.bar.dirBase.toNat / 4096 * 4096) (256 * s.bar.dirN.toNat)
  || s.holders.any fun c => c.sheafFrames.contains f || frameMeets f c.bindRec.layoutBase (64 * c.bindRec.layoutN)

/-- A frame of present memory that is not retired (R328, R365). -/
def State.frameGood (s : State) (f : Nat) : Bool := s.present (65536 * f) && !s.modl.retired.contains f

/-! ## The choice of victims (R324) -/

/-- In-use frames of a context without those that migrate already. -/
def Context.staying (c : Context) : Nat := c.inUse - (c.pages.filter fun p => p.st == .migrating).length

/-- The pool pages that may be taken: of 64 KiB, MAPPED, SH = 0, with their path in place. -/
def State.candidates (s : State) (c : Context) : List PoolPage :=
  c.pages.filter fun p => p.st == .mapped && !p.sh && (match s.pteOf c p.page with
    | some (_, e) => e.v && e.frame == p.frame
    | none => false)

/-- p is taken before q: descending COLD, then ascending HOT, then ascending address. -/
def PoolPage.before (p q : PoolPage) : Bool :=
  decide (p.cold > q.cold) || (p.cold == q.cold && (decide (p.hot < q.hot) || (p.hot == q.hot && decide (p.page < q.page))))

def firstPage (l : List PoolPage) : Option PoolPage :=
  l.foldl (fun (b : Option PoolPage) p => match b with
    | none => some p
    | some q => if p.before q then some p else some q) none

/-- The next victim: its context, its page and the far frame that it gets. only: the one eligible context. -/
def State.victim (s : State) (only : Option Nat) : Option (Nat × PoolPage × Nat) :=
  let cs := s.holders.filter fun c =>
    (only.isNone || only == some c.cxid) && c.st != .sealed && decide (c.staying > c.bindRec.frameG) && !c.poolFar.isEmpty
      && !(s.candidates c).isEmpty
  let best := cs.foldl (fun (b : Option Context) c => match b with
    | none => some c
    | some d => if c.staying - c.bindRec.frameG > d.staying - d.bindRec.frameG then some c else some d) none
  match best with
  | none => none
  | some c =>
    match firstPage (s.candidates c), c.poolFar with
    | some p, f :: _ => some (c.cxid, p, f)
    | _, _ => none

/-- *reclaim* of a page: MIG ← 1 and its invalidation begins (R325). -/
def State.startMigration (s : State) (cx : Nat) (p : PoolPage) (far : Nat) : State :=
  let s1 := s.editPte cx p.page fun r => r ||| pteMig
  let waits := s1.sweepWaits cx fun va => va / 65536 * 65536 == p.page
  (s1.dropXlats cx fun t => t.holds p.page).updCtx cx fun c =>
    { c.updRecord p fun q => { q with st := .migrating, far := far, waits := waits } with poolFar := c.poolFar.erase far }

/-- A page's path that meets a poisoned table line is detected as the choice of a victim reads it (R327). -/
def State.noteTables (s : State) : State :=
  s.holders.foldl (fun s c => c.pages.foldl (fun s p =>
    if p.st == .mapped && !p.sh && (s.pteOf c p.page).isNone then s.noteWalk c p.page else s) s) s

/-- Takes up to n victims; the answer counts them. -/
def State.reclaimN (s0 : State) (only : Option Nat) : Nat → State × Nat
  | 0 => (s0, 0)
  | n + 1 =>
    let s := s0.noteTables
    match s.victim only with
    | none => (s, 0)
    | some (cx, p, far) =>
      let (s1, k) := (s.startMigration cx p far).reclaimN only n
      (s1, k + 1)

end Sys2Proof.Machine
end

