-- ==== Sys2Proof/Machine/PageEvents.lean ====
section
/-! DEFINITION. The translation control page (spec/16_page.md R319 to R321), the pool commands (R322, R324, R328), the end of a migration
(R325) and the sampler's milliseconds (R324). -/

namespace Sys2Proof.Machine

/-! ## The translation control page -/

def ctlOk : Nat := 0
def ctlEmpty : Nat := 1
def ctlNotft : Nat := 2
def ctlNotable : Nat := 3
def ctlNopair : Nat := 4
def ctlMapped : Nat := 5
def ctlBadop : Nat := 6
def ctlNotpool : Nat := 7

/-- Another request of the context is being performed, or a lower lane of the same ATOM has not been (R319). -/
def State.ctlWaits (s : State) (o : PendOp) (l : AtomLane) : Bool :=
  (s.allOps.any fun p => match p.kind with
    | .atom _ _ _ _ _ _ lanes =>
      lanes.any fun x => x.ctl.isSome && x.key.cx == l.key.cx && x.sent && x.reply.isNone && !(p.id == o.id && x.lane == l.lane)
    | _ => false)
  || (match o.kind with
    | .atom _ _ _ _ _ _ lanes => lanes.any fun x => x.reply.isNone && ((x.ctl.isSome && decide (x.lane < l.lane)) || x.ctl.isNone)
    | _ => false)

/-- The reply of a request. -/
def State.ctlReply (s : State) (op lane v : Nat) : State :=
  s.mapOp op fun o => o.mapLane lane fun l => { l with reply := some (BitVec.ofNat 64 v) }

/-- A request is under way. -/
def State.ctlBegun (s : State) (op lane : Nat) (waits : List Nat) : State :=
  s.mapOp op fun o => o.mapLane lane fun l => { l with sent := true, waits := waits }

/-- The request of a lane at an offset of the page, when its turn has come. -/
def State.ctlRow (s : State) (op lane off : Nat) (k : State → Context → AtomLane → State) : State :=
  match s.anyOp? op with
  | none => s
  | some o =>
    match o.lane? lane with
    | none => s
    | some l =>
      if l.ctl != some off || l.reply.isSome || s.ctlWaits o l then s
      else
        let s1 := s.settlePages l.key.cx
        match s1.ctx? l.key.cx with
        | none => s1.ctlReply op lane ctlNotable
        | some c => k s1 c l

/-- The frame or pair that MAP takes (R321). -/
def takeFrames (pool : List Nat) (sh : Bool) : Option (List Nat) :=
  if sh then (pool.find? fun f => f % 2 == 0 && pool.contains (f + 1)).map fun f => [f, f + 1]
  else pool.head?.map fun f => [f]

/-- MAP (R321): the status. -/
def State.mapPage (s : State) (c : Context) (v : DWord) : State × Nat :=
  let va := v.toNat / 65536 * 65536
  let (w, x, sh) := (v.getLsbD 2, v.getLsbD 3, v.getLsbD 1)
  if v.extractLsb' 57 7 != 0 || v.extractLsb' 4 12 != 0 || v.getLsbD 0 then (s, ctlBadop)
  else
    match s.pteOf c va with
    | none => (s.noteWalk c va, ctlNotable)
    | some (ea, p) =>
      if p.v then (s, ctlMapped)
      else if !p.ft then (s, ctlNotft)
      else if c.poolLocal.isEmpty ∨ c.inUse + (if sh then 2 else 1) > c.bindRec.frameB then (s, ctlEmpty)
      else
        match takeFrames c.poolLocal sh with
        | none => (s, ctlNopair)
        | some fs =>
          let f := fs.headD 0
          let s1 := fs.foldl (fun s f => s.zeroFrame f (some (c.memKey, c.gen))) s
          let s2 := s1.updCtx c.cxid fun c =>
            { c with poolLocal := c.poolLocal.filter fun g => !fs.contains g, inUse := c.inUse + fs.length,
                     samplerMs := if c.pages.isEmpty then s.gtime / 1000000 else c.samplerMs,
                     pages := sortBy (·.page) ({ page := va, frame := f, sh := sh, st := .mapped } :: c.pages) }
          (s2.putPte c.cxid ea (mapPte w x sh f), ctlOk)

/-- MAP_REQUEST (R319, R321). A page whose UNMAP is still invalidating makes it wait. -/
def execMap (op lane : Nat) (s : State) : Out :=
  .next (s.ctlRow op lane 0x000 fun s c l =>
    if (c.recordsOf (l.v.toNat / 65536 * 65536)).any fun p => p.st.isUnmapping then s else
    let (s1, st) := s.mapPage c l.v
    s1.ctlReply op lane st)

/-- UNMAP of a page that stands: V ← 0, and its invalidation begins (R321). -/
def State.unmapPage (s : State) (c : Context) (p : PoolPage) (op lane : Nat) : State :=
  let s1 := s.editPte c.cxid p.page fun r => r &&& ~~~pteV
  let waits := s1.sweepWaits c.cxid fun va => va / 65536 * 65536 == p.page
  let s2 := (s1.dropXlats c.cxid fun t => t.holds p.page).updCtx c.cxid fun c =>
    c.updPage p.page fun q => { q with st := .unmapping (q.st == .far), waits := waits }
  s2.ctlBegun op lane []

/-- UNMAP_REQUEST (R319, R321): first the entry, then, when its invalidation has ended, the frames and the reply. A page in migration is
taken after *moved*. -/
def execUnmap (op lane : Nat) (s : State) : Out :=
  .next (s.ctlRow op lane 0x008 fun s c l =>
    let va := l.v.toNat / 65536 * 65536
    if l.v.extractLsb' 57 7 != 0 || l.v.extractLsb' 0 16 != 0 then s.ctlReply op lane ctlBadop
    else
      match c.page? va with
      | none => s.ctlReply op lane (if l.sent then ctlOk else ctlNotpool)
      | some p =>
        if (c.recordsOf va).any fun q => q.st == .migrating then s else
        match p.st with
        | .mapped | .far => s.unmapPage c p op lane
        | .migrating => s
        | .unmapping _ => s.ctlBegun op lane [])

/-- INVAL_REQUEST (R320): the sweep, then the reply when what it waits for has ended. -/
def execInval (op lane : Nat) (s : State) : Out :=
  .next (s.ctlRow op lane 0x010 fun s c l =>
    if l.v.extractLsb' 57 7 != 0 || l.v.extractLsb' 1 15 != 0 then s.ctlReply op lane ctlBadop
    else if l.sent then (if (s.stillOut l.waits).isEmpty then (s.settleSheaf c.cxid).ctlReply op lane ctlOk else s)
    else
      let va := l.v.toNat / 65536 * 65536
      let all := l.v.getLsbD 0
      let hit (t : Xlat) : Bool := all || t.holds va
      -- a larger page that a translation of the context gives for the address
      let pages := (s.sectorTlb.map (·.2) ++ s.cores.flatMap (·.tlb) ++ s.groups.flatMap fun (g : Group) => g.lastPage.map (·.2)).filter fun t =>
        t.cx == c.cxid && hit t
      let waits := s.sweepWaits c.cxid fun a => all || a / 65536 * 65536 == va || pages.any fun t => t.holds a
      (s.dropXlats c.cxid hit).ctlBegun op lane (waits.filter fun i => i != op))

/-- POOLST_REQUEST (R319). -/
def execPoolst (op lane : Nat) (s : State) : Out :=
  .next (s.ctlRow op lane 0x018 fun s c _ => s.ctlReply op lane (c.poolLocal.length * 2 ^ 32 + c.inUse))

/-! ## The pool command block (R322) -/

def poolOk : Nat := 0
def poolBadop : Nat := 1
def poolBadcxid : Nat := 2
def poolOverlap : Nat := 3
def poolInuse : Nat := 4
def poolAbsent : Nat := 5
def poolBadarg : Nat := 6

/-- A command of the block: its CXID and OP, then its result, which act answers with the number of frames. -/
def State.poolCommand (s : State) (op cxid : Nat) (act : State → State × Nat × Nat) : State :=
  let s0 : State := { s with bar := { s.bar with pool := { s.bar.pool with cxid := BitVec.ofNat 16 cxid, op := BitVec.ofNat 8 op } } }
  let (s1, err, n) := act s0
  if s.modl.recovery then s else
  { s1 with bar := { s1.bar with pool := { s1.bar.pool with err := BitVec.ofNat 8 err, fres := BitVec.ofNat 64 n } } }

/-- A command on the pools of a context that is neither FREE nor RETIRED. -/
def State.poolOn (s : State) (op cxid : Nat) (act : State → Context → State × Nat × Nat) : State :=
  s.poolCommand op cxid fun s =>
    match s.ctx? cxid with
    | none => (s, poolBadcxid, 0)
    | some c => if c.st == .retired then (s, poolBadcxid, 0) else act s c

def State.farg0 (s : State) : Nat := s.bar.pool.farg0.toNat
def State.farg1 (s : State) : Nat := s.bar.pool.farg1.toNat

/-- The frames of an ADD or REMOVE; none: not frame numbers. -/
def State.fargFrames (s : State) : Option (List Nat) :=
  if s.farg0 + s.farg1 ≤ 2 ^ 32 then some ((List.range s.farg1).map fun i => s.farg0 + i) else none

/-- ADDLOCAL (R322). A frame of a hard partition of another context is reported as OVERLAP (R15; DESIGN CHOICE, log 51). -/
def State.addLocal (s : State) (cxid : Nat) : State :=
  s.poolOn 1 cxid fun s _ =>
    match s.fargFrames with
    | none => (s, poolAbsent, 0)
    | some fs =>
      if fs.any fun f => !s.frameGood f then (s, poolAbsent, 0)
      else if fs.any fun f => s.inArea f || s.foreignFrame cxid f || s.ctxs.any fun d => d.holdsLocal f then (s, poolOverlap, 0)
      else (s.updCtx cxid fun c => { c with poolLocal := putFrames fs c.poolLocal }, poolOk, fs.length)

/-- ADDFAR: the frames, and after them those of their metadata, 8 KiB for each (R322, R323). -/
def State.addFar (s : State) (cxid : Nat) : State :=
  s.poolOn 2 cxid fun s _ =>
    match s.fargFrames with
    | none => (s, poolAbsent, 0)
    | some fs =>
      let ms := (List.range ((fs.length + 7) / 8)).map fun i => s.farg0 + fs.length + i
      if s.farg0 + fs.length + ms.length > 2 ^ 32 then (s, poolAbsent, 0)
      else if (fs ++ ms).any fun f => s.ctxs.any fun d => d.holdsFar f then (s, poolOverlap, 0)
      else (s.updCtx cxid fun c => { c with poolFar := putFrames fs c.poolFar, farMeta := putFrames ms c.farMeta }, poolOk, fs.length)

/-- REMOVE: free frames only. Device frames are looked for before far ones. -/
def State.removeFrames (s : State) (cxid : Nat) : State :=
  s.poolOn 3 cxid fun s c =>
    match s.fargFrames with
    | none => (s, poolAbsent, 0)
    | some fs =>
      if fs.all c.poolLocal.contains then
        (s.updCtx cxid fun c => { c with poolLocal := c.poolLocal.filter fun f => !fs.contains f }, poolOk, fs.length)
      else if fs.any fun f => c.pages.any fun p => p.frames.contains f then (s, poolInuse, 0)
      else if fs.all c.poolFar.contains then
        (s.updCtx cxid fun c => { c with poolFar := c.poolFar.filter fun f => !fs.contains f }, poolOk, fs.length)
      else if fs.any fun f => c.pages.any fun p => p.farFrames.contains f then (s, poolInuse, 0)
      else (s, poolAbsent, 0)

/-- RECLAIM (R324): CXID 0xFFFF takes from any context. -/
def State.reclaim (s : State) (cxid : Nat) : State :=
  let go (only : Option Nat) (s : State) : State × Nat × Nat :=
    if s.farg1 ≠ 0 then (s, poolBadarg, 0)
    else
      let pages := (s.ctxs.map fun c => c.pages.length).foldl (· + ·) 0
      let (s1, n) := s.reclaimN only (min s.farg0 pages)
      (s1, poolOk, n)
  if cxid = 0xFFFF then s.poolCommand 4 cxid (go none) else s.poolOn 4 cxid fun s _ => go (some cxid) s

/-- SDCREATE (R328): an id that exists is in use. -/
def State.sdCreate (s : State) (cxid : Nat) : State :=
  s.poolCommand 5 cxid fun s =>
    if s.farg0 ≥ 65536 ∨ s.farg1 ≠ 0 then (s, poolBadarg, 0)
    else if s.modl.domains.any fun d => d.id == s.farg0 then (s, poolInuse, 0)
    else
      let (key, s1) := s.drawKey
      ({ s1 with modl := { s1.modl with domains := s1.modl.domains ++ [{ id := s.farg0, key := key, gen := 1 }] } }, poolOk, 0)

/-- SDBIND (R328): at most one context of a domain holds the write grant. -/
def State.sdBind (s : State) (cxid : Nat) : State :=
  s.poolOn 6 cxid fun s c =>
    let a := s.bar.pool.farg0
    let entry := (a.extractLsb' 0 4).toNat
    let grant := a.getLsbD 8
    let id := (a.extractLsb' 16 16).toNat
    if a.extractLsb' 4 4 != 0 || a.extractLsb' 9 7 != 0 || a.extractLsb' 32 32 != 0 || entry == 0 || s.farg1 != 0 then (s, poolBadarg, 0)
    else
      match s.modl.domains.find? fun d => d.id == id with
      | none => (s, poolBadarg, 0)
      | some d =>
        if grant && d.granted.isSome && d.granted != some cxid then (s, poolInuse, 0)
        else
          let kdt := (entry, id, grant) :: c.kdt.filter fun e => e.1 != entry
          let holds (n : Nat) : Bool := kdt.any fun e => e.2.1 == n && e.2.2
          let ds := s.modl.domains.map fun d =>
            if d.granted == some cxid || d.id == id then
              { d with granted := if holds d.id then some cxid else if d.granted == some cxid then none else d.granted }
            else d
          (({ s with modl := { s.modl with domains := ds } } : State).updCtx cxid fun c => { c with kdt := kdt }, poolOk, 0)

/-- A write of GO to 0x180 (R322). -/
def State.poolGo (s : State) (op cxid : Nat) : State :=
  match op with
  | 1 => s.addLocal cxid
  | 2 => s.addFar cxid
  | 3 => s.removeFrames cxid
  | 4 => s.reclaim cxid
  | 5 => s.sdCreate cxid
  | 6 => s.sdBind cxid
  | _ => s.poolCommand op cxid fun s => (s, poolBadop, 0)

/-- ADDLOCAL (R322). -/
def execAddlocal (cxid : Nat) (s : State) : Out := .next (s.poolGo 1 (cxid % 65536))

/-- ADDFAR (R322). -/
def execAddfar (cxid : Nat) (s : State) : Out := .next (s.poolGo 2 (cxid % 65536))

/-- REMOVE (R322). -/
def execRemove (cxid : Nat) (s : State) : Out := .next (s.poolGo 3 (cxid % 65536))

/-- RECLAIM (R322, R324). -/
def execReclaim (cxid : Nat) (s : State) : Out := .next (s.poolGo 4 (cxid % 65536))

/-- SDCREATE (R322, R328). -/
def execSdcreate (cxid : Nat) (s : State) : Out := .next (s.poolGo 5 (cxid % 65536))

/-- SDBIND (R322, R328). -/
def execSdbind (cxid : Nat) (s : State) : Out := .next (s.poolGo 6 (cxid % 65536))

/-! ## Migration and sampling -/

/-- The end of a migration, when the page's invalidation has ended (R325). -/
def State.moved (s : State) (c : Context) (p : PoolPage) : State :=
  let s1 := s.moveFrame p.frame (farFrameNo p.far) (some (c.memKey, c.gen))
  let s2 := s1.updCtx c.cxid fun c =>
    { c.updRecord p fun q => { q with st := .far, frame := p.far, far := 0, waits := [] } with
      poolLocal := putFrames ([p.frame].filter (s1.poolable c.cxid)) c.poolLocal, inUse := c.inUse - 1 }
  s2.editPte c.cxid p.page fun r => farPte r p.far

/-- MOVED (R321, R325): the lines are written to the far frame, and the entry names it. -/
def execMoved (cxid page : Nat) (s : State) : Out :=
  .next (match s.ctx? cxid with
    | none => s
    | some c =>
      match (c.recordsOf (page / 65536 * 65536)).find? fun p => p.st == .migrating with
      | none => s
      | some p => if s.pageFree p then s.moved c p else s)

/-- n boundaries of 1 ms pass for a pool page (R324). -/
def PoolPage.tick (n : Nat) (p : PoolPage) : PoolPage :=
  { p with hot := if n ≥ 8 then 0 else p.hot / 2 ^ n, cold := min 255 (p.cold + (n - p.seen.toNat)), seen := false }

/-- SAMPLER_TICK: the boundaries of 1 ms of $GTIME that have passed (R324). -/
def execSamplerTick (cxid : Nat) (s : State) : Out :=
  .next (match s.ctx? cxid with
    | none => s
    | some c =>
      let now := s.gtime / 1000000
      if now ≤ c.samplerMs then s
      else s.updCtx cxid fun c => { c with samplerMs := now, pages := c.pages.map (PoolPage.tick (now - c.samplerMs)) })

end Sys2Proof.Machine
end

