-- ==== Sys2Proof/Machine/QueueEvents.lean ====
section
/-! DEFINITION. Writes to notify pages and the consumption of commands (spec/05_queue.md R87 to R97, spec/14_windrow.md R277 to R280,
spec/13_barrier.md R268). -/

namespace Sys2Proof.Machine

/-! ## Notify pages (R88, R90) -/

/-- A request for a queue's page arrives on a stream on which the page answers: that of a TDI answers only on the TDI's stream (R352). -/
def State.pageOpen (s : State) (q : Queue) (stream : Option Nat) : Bool :=
  let own := if q.iface = hvIface then none else (s.ctx? q.cx).bind fun c => if c.bindRec.tdi then c.stream else none
  own.isNone || own == stream

/-- A write to a queue's page that arrives on a stream; the hypervisor queue lies in the BAR, which recovery state does not show (R95,
R352, R364). -/
def State.pageWriteOn (s : State) (stream : Option Nat) (iface : Nat) (f : Queue → Queue) : State :=
  match s.queue? iface with
  | none => s
  | some q =>
    if iface = hvIface ∧ s.modl.recovery then s
    else if s.pageOpen q stream then s.updQueue iface f
    else s.emit (.unsupported iface)

/-- The same, on the stream of the host's access of this step. -/
def State.pageWrite (s : State) (iface : Nat) (f : Queue → Queue) : State := s.pageWriteOn s.hostStream iface f

/-- A read of the word at an offset of an interface's page; none: no such page, or an Unsupported Request (R87, R88, R352). The page of an
interface that no context holds reads as that of a DETACHED queue. -/
def State.pageRead (s : State) (stream : Option Nat) (iface off : Nat) : Option Word :=
  match s.queue? iface with
  | some q => if s.pageOpen q stream then some (q.pageRead off) else none
  | none => if iface < 4096 then some (({ iface := iface } : Queue).pageRead off) else none

/-- DOORBELL: a write to WRIDX. -/
def execDoorbell (iface : Nat) (wridx : Word) (stream : Option Nat) (s : State) : Out :=
  .next (s.pageWriteOn stream iface fun q => q.doorbell wridx.toNat)

/-- QBASE_QSIZE_WRITE. -/
def execQbaseQsizeWrite (iface : Nat) (r : QReg) (val : DWord) (s : State) : Out :=
  .next (s.pageWrite iface fun q => q.setRing fun q => match r with
    | .qbase => { q with qbase := val.toNat }
    | .qsize => { q with qsize := (val.extractLsb' 0 32).toNat })

/-- PAUSE: *gpause*. -/
def execPause (iface : Nat) (s : State) : Out := .next (s.pageWrite iface Queue.gpauseEv)

/-- RESUME: *gresume*. -/
def execResume (iface : Nat) (s : State) : Out := .next (s.pageWrite iface Queue.gresumeEv)

/-- CLEARERR: *clear*. -/
def execClearerr (iface : Nat) (s : State) : Out := .next (s.pageWrite iface Queue.clearEv)

/-- QUEUE_DRAIN: *drain*. -/
def execQueueDrain (iface : Nat) (s : State) : Out := .next (s.pageWrite iface Queue.drainEv)

/-! ## Host memory (R87, R91, R95) -/

/-- The PASID of a queue's accesses; 2^20 stands for physical addresses. -/
def State.pasidOf (s : State) (q : Queue) : Nat :=
  if q.iface = hvIface then 2 ^ 20 else ((s.ctx? q.cx).map fun c => c.bindRec.pasid).getD 0

def hostAddr (pasid a : Nat) : Nat := pasid * 2 ^ 64 + a

/-- The host refuses an access under a PASID. -/
def State.hostRefuses (s : State) (pasid a n : Nat) : Bool :=
  s.hostDenied.any fun d => d.1 == pasid && decide (a < d.2.1 + d.2.2) && decide (d.2.1 < a + n)

/-! ## Consumption (R92 to R95) -/

/-- What the consumption of a command comes to. -/
inductive CmdRes where
  /-- It waits; nothing is consumed. -/
  | wait (s : State)
  | bad (err : Nat)
  /-- Consumed; done says that it completes at consumption. -/
  | took (s : State) (done : Bool)

/-- Commands wait to be consumed (R88, R90). -/
def Queue.hasNext (q : Queue) : Bool :=
  (q.st == .active && q.rdidx != q.wridx) || (q.st == .draining && q.rdidx != q.drainIdx)

def opcLaunch : Nat := 1
def opcWaitver : Nat := 2
def opcSignal : Nat := 3
def opcFence : Nat := 4
def opcNop : Nat := 5
def opcCircuit : Nat := 6
def opcSetlt : Nat := 7
def opcSetlayout : Nat := 0x10
def opcSetkey : Nat := 0x11
def opcSetgen : Nat := 0x12

def opcPriv (o : Nat) : Bool := decide (0x10 ≤ o) && decide (o ≤ 0x12)

/-- Bytes 0x08 to 0x3F that no field of a command uses (R94). -/
def cmdReserved (opc : Nat) (bs : List Byte) : Bool :=
  match opc with
  | 1 => allZero bs 0x20 32
  | 2 => allZero bs 0xC 52
  | 3 => allZero bs 0x18 40
  | 4 | 5 => allZero bs 8 56
  | 6 => allZero bs 0x10 48
  | 7 => allZero bs 0xC 52
  | 0x10 => allZero bs 0xA 6
  | 0x11 => allZero bs 9 7 && allZero bs 0x38 8
  | _ => allZero bs 0xA 54

/-- The checks of a command that need nothing but its bytes and its queue; 0: they pass (R92, R93). -/
def cmdCheck (hv : Bool) (bs : List Byte) : Nat :=
  let opc := fieldNat bs 0 1
  if !((decide (1 ≤ opc) && decide (opc ≤ 7)) || opcPriv opc) then errBadcmd
  else if opcPriv opc && !hv then errPrivcmd
  else if fieldNat bs 1 1 > 1 ∨ (¬ hv ∧ fieldNat bs 2 2 ≠ 0) ∨ ¬ allZero bs 4 4 ∨ ¬ cmdReserved opc bs then errBadcmd
  else errNone

/-- The context of a command: the queue's, or the one that CXID names, in the state of R95. -/
def State.cmdCtx (s : State) (q : Queue) (bs : List Byte) : Except Nat Context :=
  if q.iface = hvIface then
    match s.ctx? (fieldNat bs 2 2) with
    | none => .error errCxstate
    | some c =>
      if opcPriv (fieldNat bs 0 1) then (if c.st == .bound then .ok c else .error errCxstate)
      else if c.st == .run then .ok c else .error errCxstate
  else match s.ctx? q.cx with
    | none => .error errCxstate
    | some c => .ok c

/-- A FENCE or SIGNAL before which an earlier command has not completed: it is not consumed yet, and so not checked (R92, R94). -/
def Queue.fenced (q : Queue) (bs : List Byte) : Bool :=
  (fieldNat bs 0 1 == opcFence || fieldNat bs 0 1 == opcSignal) && !q.inflight.isEmpty

/-- The next command of a queue is consumed by k if its OPC is one that p accepts; a command that fails its checks raises *invalid*. The
checks come in this order: the bytes that R92 and R93 name, the state of the named context (CXSTATE), then what k checks (BADARG, BADKD,
BADCIRC, BADWRAP) (DESIGN CHOICE, log 45: R92 and R95 give them no order). -/
def State.consume (s : State) (iface : Nat) (p : List Byte → State → Context → Bool)
    (k : Queue → Context → List Byte → State → CmdRes) : State :=
  match s.queue? iface with
  | none => s
  | some q =>
    if !q.hasNext then s
    else
      let a := q.qbase + 64 * q.rdidx
      -- the read of the ring is a request of the guest at the host port (R116)
      let cls := if iface = hvIface then [] else [clsHost]
      let bad (s : State) (e : Nat) : State := (s.updQueue iface fun q => q.invalid e).spend q.cx cls 64
      if !s.admits q.cx cls then s
      else if s.hostRefuses (s.pasidOf q) a 64 then bad s errXlate
      else
        let bs := sgetRun 0 s.hostMem (hostAddr (s.pasidOf q) a) 64
        if q.fenced bs then s
        else if cmdCheck (q.iface == hvIface) bs ≠ errNone then bad s (cmdCheck (q.iface == hvIface) bs)
        else
          match s.cmdCtx q bs with
          | .error e => bad s e
          | .ok c =>
            if !p bs s c then s
            else
              match k q c bs s with
              | .wait s1 => s1
              | .bad e => bad s e
              | .took s1 done =>
                let irq := fieldNat bs 1 1 == 1
                let s2 := (s1.updQueue iface fun q =>
                  (if done then q else ({ q with inflight := q.inflight ++ [(q.seq, q.rdidx, irq)] } : Queue)).advance).spend q.cx cls 64
                if done && irq then s2.emit (.msix iface) else s2

/-- The OPC of a command. -/
def isOpc (opc : Nat) (bs : List Byte) (_ : State) (_ : Context) : Bool := fieldNat bs 0 1 == opc

/-- LAUNCH (R94, R98, R99). -/
def execLaunch (iface : Nat) (s : State) : Out :=
  .next (s.consume iface (isOpc opcLaunch) fun q c bs s =>
    let arg := fieldNat bs 0x18 8
    if arg % 64 ≠ 0 then .bad errBadarg
    else
      match s.recordKernel c.cxid (fieldNat bs 8 8) (fieldNat bs 0x10 8) arg none (q.iface == hvIface) (some (iface, q.seq)) with
      | (s1, .recorded) => .took s1 false
      | (_, .full) => .wait s
      | (_, .badKd) => .bad errBadkd)

/-- WAITVER (R94). -/
def execWaitver (iface : Nat) (s : State) : Out :=
  .next (s.consume iface (isOpc opcWaitver) fun _ c bs s =>
    let id := fieldNat bs 8 2
    let v := fieldNat bs 0xA 2
    if id ≥ c.bindRec.sheafN ∨ v ≥ 4096 then .bad errBadarg
    else if s.sealedAt c.cxid id v then .took s true
    else .wait (s.askVersion c.cxid id))

/-- The write of a consumed SIGNAL: refused, it raises *invalid* and counts as completed (R91). -/
def State.signalWrite (s : State) (q : Queue) (refused : Bool) (e : Nat × Nat × Nat × DWord) : State :=
  let (seq, idx, a, v) := e
  let s1 := s.updQueue q.iface fun q => { q with signals := q.signals.filter fun x => x.1 != seq }
  if refused || s.hostRefuses (s.pasidOf q) a 8 then
    s1.updQueue q.iface fun q => ({ q with inflight := q.inflight.filter fun c => c.1 != seq } : Queue).refused idx
  else
    let s2 : State := { s1 with hostMem := wrMem s1.hostMem (hostAddr (s.pasidOf q) a) 8 v.toNat }
    (s2.emit (.hostWrite (s.pasidOf q) a)).cmdDone q.iface seq

/-- Writes of kernels that have left the record, by an abort, and are not yet published: stores in publish queues and running copies (R94,
R103). cx none: of every context, for the hypervisor queue. -/
def State.unpublished (s : State) (cx : Option Nat) : Bool :=
  let mine (c : Nat) : Bool := cx.isNone || cx == some c
  (s.cores.any fun c => c.pq.any fun e => mine e.site.cx && e.by_.any fun b => (s.kernel? e.site.cx b.1).isNone)
  || s.copies.any fun c => c.kind != .p && mine c.cx && (s.kernel? c.cx c.kernel).isNone

/-- SIGNAL: consumed when every earlier command has completed; a further step makes its write, once the writes of the kernels before it are
published (R91, R94). -/
def execSignal (iface : Nat) (refused : Bool) (s : State) : Out :=
  .next (match (s.queue? iface).bind fun q => (q.signals.head?).map fun e => (q, e) with
    | some (q, e) => if s.unpublished (if iface = hvIface then none else some q.cx) then s else s.signalWrite q refused e
    | none =>
      s.consume iface (isOpc opcSignal) fun _ _ bs s =>
        let a := fieldNat bs 8 8
        if a % 8 ≠ 0 then .bad errBadarg
        else .took (s.updQueue iface fun q =>
          { q with signals := q.signals ++ [(q.seq, q.rdidx, a, BitVec.ofNat 64 (fieldNat bs 0x10 8))] }) false)

/-- FENCE (R94). -/
def execFence (iface : Nat) (s : State) : Out :=
  .next (s.consume iface (isOpc opcFence) fun _ _ _ s => .took s true)

/-- NOP (R94). -/
def execQueueNop (iface : Nat) (s : State) : Out := .next (s.consume iface (isOpc opcNop) fun _ _ _ s => .took s true)

/-- SETLT (R94). -/
def execSetlt (iface : Nat) (s : State) : Out :=
  .next (s.consume iface (isOpc opcSetlt) fun _ c bs s => .took (s.updCtx c.cxid fun c => { c with lt := fieldNat bs 8 4 }) true)

/-! ## CIRCUIT (R277 to R280) -/

/-- The 64 bytes of a circuit descriptor; none: misaligned, untranslated or poisoned. -/
def State.circDesc (s : State) (cx a : Nat) : State × Option (List Byte) := if a % 64 ≠ 0 then (s, none) else s.engineRead cx a 64

/-- The layers of a layer table (R278). -/
def layersOf (bs : List Byte) (n : Nat) : Option (List (Nat × Nat)) :=
  (List.range n).foldr (fun i (acc : Option (List (Nat × Nat))) =>
    let base := fieldNat bs (16 * i) 8
    let k := fieldNat bs (16 * i + 8) 2
    match acc with
    | none => none
    | some l => if base % 1024 == 0 && decide (1 ≤ k) && allZero bs (16 * i + 10) 6 then some ((base, k) :: l) else none) (some [])

/-- The lanes of a mask, as a count. -/
def laneCount (m : BitVec 8) : Nat := (filterRange 8 fun i => m.getLsbD i).length

/-- Installed circuits (R279). -/
def State.installed (s : State) : List Circuit := s.circuits.filter fun c => c.st != .removed

/-- The fields of an INSTALL within their limits (R277). -/
def installOk (c : Context) (bs : List Byte) : Bool :=
  let f := fieldNat bs
  let lanes := BitVec.ofNat 8 (f 3 1)
  let paced := f 2 1 == 2
  decide (f 1 1 < 16) && decide (f 2 1 < 3) && lanes != 0 && lanes &&& ~~~c.bindRec.lanes == 0 && decide (f 4 1 < 4) && f 5 1 == 0
  && decide (f 6 2 ≤ 132 * laneCount lanes) && decide (1 ≤ f 0xC 2) && f 0xE 2 == 0 && f 0x10 8 % 16 == 0
  && (if paced then decide (1 ≤ f 0x28 8) && decide (f 0x28 8 ≤ 2 ^ 40) else f 0x20 8 == 0 && f 0x28 8 == 0) && allZero bs 0x30 16

/-- R279. -/
def State.installFits (s : State) (cx : Nat) (bs : List Byte) (layers : List (Nat × Nat)) : Bool :=
  let f := fieldNat bs
  let lanes := BitVec.ofNat 8 (f 3 1)
  let n := laneCount lanes
  let bales := baleSum layers
  (s.circ? cx (f 1 1)).isNone
  && (s.installed.all fun c => c.lanes &&& lanes == 0 || (f 2 1 == 0 && c.mode == 0))
  && (f 2 1 != 2 || (decide (17 * ((bales + n - 1) / n) * 4 ≤ 9 * f 0x28 8)
    && (f 6 2 == 0 || decide (1000 * bales ≤ f 0x28 8 * f 6 2))))

/-- *install*: the circuit takes the lowest free engine and begins lap 0 at once, or at EPOCH when PACED (R280). -/
def State.install (s : State) (c : Context) (bs : List Byte) : State × Option State :=
  if !installOk c bs then (s, none)
  else
    let f := fieldNat bs
    match s.engineRead c.cxid (f 0x10 8) (16 * f 0xC 2) with
    | (s1, none) => (s1, none)
    | (s1, some tab) =>
      match layersOf tab (f 0xC 2), lowestFree 16 fun e => s1.circuits.any fun x => x.engine == e with
      | some layers, some engine =>
        if !s1.installFits c.cxid bs layers then (s1, none)
        else
          let (s2, ok) := if f 0x18 8 = 0 then (s1, true) else s1.readChain c.cxid 8 (f 0x18 8)
          if !ok then (s2, none)
          else
            let x : Circuit :=
              { id := s2.nextId, cx := c.cxid, num := f 1 1, engine := engine, st := .running, mode := f 2 1,
                lanes := BitVec.ofNat 8 (f 3 1), dir := f 4 1, pace := f 6 2, lapLimit := f 8 4, layers := layers, rcb := f 0x18 8,
                epoch := f 0x20 8, period := f 0x28 8, begun := f 2 1 != 2 }
            (s2, some (({ s2 with nextId := s2.nextId + 1, circuits := s2.circuits ++ [x] } : State).lapTests x))
      | _, _ => (s1, none)

/-- The descriptor of a CIRCUIT has this OP, or one that every row turns away. -/
def isCirc (op : Nat) (bs : List Byte) (s : State) (c : Context) : Bool :=
  fieldNat bs 0 1 == opcCircuit
  && (match (s.circDesc c.cxid (fieldNat bs 8 8)).2 with
    | none => true
    | some d => fieldNat d 0 1 == op || fieldNat d 0 1 == 0 || decide (fieldNat d 0 1 > 3))

/-- The rate-limiter class of an engine's read of context memory (R116, log 47). -/
def State.engineClasses (s : State) (cx va : Nat) : List Nat :=
  match (s.engineKey cx va .quiet).2 with
  | .ok k => [if 128 * k.n ≥ Config.farBase then clsFar else clsHbm]
  | .error _ => []

/-- A CIRCUIT command with its descriptor, whose read and that of its layer table are requests of the context (R116). -/
def State.circuitCmd (s : State) (iface op : Nat) (k : Context → List Byte → State → CmdRes) : State :=
  s.consume iface (isCirc op) fun _ c bs s =>
    let cls := s.engineClasses c.cxid (fieldNat bs 8 8)
    if !s.admits c.cxid cls then .wait s
    else
      match (s.spend c.cxid cls 64).circDesc c.cxid (fieldNat bs 8 8) with
      | (_, none) => .bad errBadcirc
      | (s1, some d) =>
        let tab := if op = 1 then s1.engineClasses c.cxid (fieldNat d 0x10 8) else []
        if fieldNat d 0 1 ≠ op then .bad errBadcirc
        else if !s1.admits c.cxid tab then .wait s
        else k c d (s1.spend c.cxid tab (16 * fieldNat d 0xC 2))

/-- CIRCUIT INSTALL. -/
def execCircuitInstall (iface : Nat) (s : State) : Out :=
  .next (s.circuitCmd iface 1 fun c d s =>
    match s.install c d with
    | (_, none) => .bad errBadcirc
    | (_, some s1) => .took s1 true)

/-- CIRCUIT REMOVE. -/
def execCircuitRemove (iface : Nat) (s : State) : Out :=
  .next (s.circuitCmd iface 2 fun c d s =>
    match s.circ? c.cxid (fieldNat d 1 1) with
    | none => .bad errBadcirc
    | some x => if allZero d 2 62 then .took (s.stopCircuit x .removed) true else .bad errBadcirc)

/-- CIRCUIT REPACE: from the next lap start of a RUNNING circuit. -/
def execCircuitRepace (iface : Nat) (s : State) : Out :=
  .next (s.circuitCmd iface 3 fun c d s =>
    match s.circ? c.cxid (fieldNat d 1 1) with
    | none => .bad errBadcirc
    | some x =>
      if allZero d 2 4 && allZero d 8 56 && decide (fieldNat d 6 2 ≤ 132 * laneCount x.lanes) then
        .took (if x.st == .running then s.updCirc x.id fun x => { x with nextPace := some (fieldNat d 6 2) } else s) true
      else .bad errBadcirc)

/-! ## Privileged commands (R94, R95) -/

/-- A layout record within the limits of R268. -/
def layoutOk (bs : List Byte) : Bool :=
  ((List.range 4).all fun d => decide (1 ≤ fieldNat bs (2 * d) 2)) && decide (fieldNat bs 0x28 1 ≤ 4) && decide (fieldNat bs 0x29 1 ≤ 3)
  && allZero bs 0x2A 6

/-- SETLAYOUT (R268). -/
def execSetlayout (iface : Nat) (s : State) : Out :=
  .next (s.consume iface (isOpc opcSetlayout) fun _ c bs s =>
    let h := fieldNat bs 8 2
    let body := (bs.drop 0x10).take 48
    if h ≥ c.bindRec.layoutN ∨ ¬ layoutOk body then .bad errBadarg
    else
      let pa := c.bindRec.layoutBase + 64 * h
      let s1 : State := { s with mem := sputRun 0 s.mem pa (body ++ leBytes 2 c.cxid ++ [1]) }
      .took (s1.setMeta (pa / 128) { s1.lmeta (pa / 128) with stamp := none, poison := false }) true)

/-- SETKEY: a key wrapped under the context's transport key (R94, R345). -/
def execSetkey (iface : Nat) (s : State) : Out :=
  .next (s.consume iface (isOpc opcSetkey) fun _ c bs s =>
    let id := fieldNat bs 8 1
    if id > 1 then .bad errBadarg
    else
      match if c.noSession then none else keyUnwrap c.transKey ((bs.drop 0x10).take 40) with
      | none => .bad errBadwrap
      | some k =>
        .took (s.updCtx c.cxid fun c => if id = 0 then { c with memKey := k, keySet := true } else { c with granKey := k }) true)

/-- SETGEN: only after a new memory key (R95); BADARG comes before the CXSTATE of the missing key (DESIGN CHOICE, log 45). -/
def execSetgen (iface : Nat) (s : State) : Out :=
  .next (s.consume iface (isOpc opcSetgen) fun _ c bs s =>
    let g := fieldNat bs 8 2
    if g = 0 then .bad errBadarg
    else if !c.keySet then .bad errCxstate
    else .took (s.updCtx c.cxid fun c => { c with gen := BitVec.ofNat 16 g }) true)

/-! ## The device-side queue (R96, R97) -/

/-- DSQ_LAUNCH: the oldest entry is consumed, or dropped with a DSQDROP record. -/
def execDsqLaunch (cxid : Nat) (s : State) : Out :=
  .next (match s.ctx? cxid with
    | none => s
    | some c =>
      match c.dsq with
      | [] => s
      | e :: rest =>
        if c.st != .run || c.dsqPaused then s
        else
          let taken (s : State) : State := s.updCtx cxid fun c => { c with dsq := rest }
          let dropped (s : State) (err : Nat) : State :=
            let chain := s.rcbChain cxid 8 e.rcb
            let s1 := (taken s).writeRecord cxid chain { siteFields 4 e.site with detail := err }
            if policyOf chain = 2 then s1.abortKernel cxid e.site.kernel
            else if policyOf chain = 3 then s1.contextFault cxid faultPolicy
            else s1
          if e.arg % 64 ≠ 0 then dropped s errBadarg
          else
            match s.recordKernel cxid e.kd 0 e.arg (some e.rcb) false none with
            | (s1, .recorded) => taken s1
            | (_, .full) => s
            | (s1, .badKd) => dropped s1 errBadkd)

end Sys2Proof.Machine
end

