-- ==== Sys2Proof/Machine/BarEvents.lean ====
section
/-! DEFINITION. Writes to the physical function's configuration BAR (spec/04_context.md R74, spec/05_queue.md R95, spec/06_kernel.md R115,
spec/16_page.md R322, spec/17_link.md R337). Offsets without a writable field ignore a write (R3). -/

namespace Sys2Proof.Machine

def State.setCmd (s : State) (f : CmdRegs → CmdRegs) : State := { s with bar := { s.bar with cmd := f s.bar.cmd } }

def State.setPool (s : State) (f : PoolRegs → PoolRegs) : State := { s with bar := { s.bar with pool := f s.bar.pool } }

def State.setLink (s : State) (f : LinkRegs → LinkRegs) : State := { s with bar := { s.bar with link := f s.bar.link } }

/-- 0x100: the fields CXID and OP, and with GO a command. -/
def State.writeCmd (s : State) (w : Word) : State :=
  let (op, cx) := (w.extractLsb' 0 8, w.extractLsb' 8 16)
  if w.getLsbD 31 then s.contextCommand op.toNat cx.toNat else s.setCmd fun r => { r with op := op, cxid := cx }

/-- 0x140. -/
def State.writeRate (s : State) (w : Word) : State :=
  let (cls, cx) := (w.extractLsb' 0 3, w.extractLsb' 8 16)
  if w.getLsbD 31 then s.rateGo cx.toNat cls.toNat else { s with bar := { s.bar with rateClass := cls, rateCxid := cx } }

/-- 0x180. -/
def State.writePool (s : State) (w : Word) : State :=
  let (op, cx) := (w.extractLsb' 0 8, w.extractLsb' 8 16)
  if w.getLsbD 31 then s.poolGo op.toNat cx.toNat else s.setPool fun r => { r with op := op, cxid := cx }

/-- 0x1C0. -/
def State.writeLink (s : State) (w : Word) : State :=
  let (op, cx) := (w.extractLsb' 0 8, w.extractLsb' 8 16)
  if w.getLsbD 31 then s.linkGo op.toNat cx.toNat else s.setLink fun r => { r with op := op, cxid := cx }

/-- Where the offsets of BAR 2 begin in an operand of REGISTER_WRITE, above those of the configuration BAR; the MODEL's own. -/
def bar2 : Nat := 0x1_0000_0000

/-- A write of a value to the register at an offset. -/
def State.writeBar (s : State) (off : Nat) (v : DWord) : State :=
  let w := v.extractLsb' 0 32
  let allFree := s.ctxs.isEmpty
  match off with
  | 0x100 => s.writeCmd w
  | 0x108 => s.setCmd fun r => { r with arg := v }
  | 0x110 => if allFree then { s with bar := { s.bar with dirBase := v &&& ~~~0xFFF#64 } } else s
  | 0x118 => if allFree then { s with bar := { s.bar with dirN := v.extractLsb' 0 17 } } else s
  | 0x140 => s.writeRate w
  | 0x144 => { s with bar := { s.bar with rate := w } }
  | 0x148 => { s with bar := { s.bar with burst := w } }
  | 0x180 => s.writePool w
  | 0x188 => s.setPool fun r => { r with farg0 := v }
  | 0x190 => s.setPool fun r => { r with farg1 := v }
  | 0x1C0 => s.writeLink w
  | 0x1C8 => s.setLink fun r => { r with larg0 := v }
  | 0x1D0 => s.setLink fun r => { r with larg1 := v }
  | 0x1D8 => s.setLink fun r => { r with larg2 := v }
  | 0x1E0 => if allFree then s.setLink fun r => { r with pkgid := v.extractLsb' 0 16 } else s
  | _ =>
    if 0x200 ≤ off ∧ off < 0x220 then s.updQueue hvIface fun q => q.pageStore (off - 0x200) v
    else s

/-! ## Reads -/

/-- The words of the geometry block (R22); reserved fields read 0. -/
def Geometry.word (g : Geometry) (off : Nat) : Word :=
  match off with
  | 0x00 => 1
  | 0x04 => g.clmask.zeroExtend 32
  | 0x08 => g.slmask.extractLsb' 0 32
  | 0x0C => g.slmask.extractLsb' 32 32
  | 0x10 => g.slmask.extractLsb' 64 32
  | 0x14 => g.slmask.extractLsb' 96 32
  | 0x18 => (g.slmask.extractLsb' 128 16).zeroExtend 32
  | 0x1C => g.stmask.zeroExtend 32
  | 0x20 | 0x24 | 0x28 =>
    BitVec.ofNat 32 (leNat ((List.range 4).map fun j =>
      BitVec.ofNat 8 (if g.stmask.getLsbD (off - 0x20 + j) then g.pchan.getD (off - 0x20 + j) 0 else 0)))
  | 0x2C => g.ptmask.zeroExtend 32
  | 0x30 => BitVec.ofNat 32 g.ncore
  | _ => 0

/-- A command register: CXID and OP; GO reads 0. -/
def goWord (cxid : BitVec 16) (op : BitVec 8) : Word := (cxid.zeroExtend 32 <<< 8) ||| op.zeroExtend 32

/-- A result register: BUSY and ERR. -/
def busyWord (busy : Bool) (err : BitVec 8) : Word := BitVec.ofNat 32 (busy.toNat * 2 ^ 31) ||| (err.zeroExtend 32 <<< 8)

/-- The word at an offset of the configuration BAR (R22, R74, R95, R115, R322, R337). Reserved offsets read 0 (R3). -/
def State.barWord (s : State) (off : Nat) : Word :=
  let lo (v : DWord) : Word := v.extractLsb' 0 32
  let hi (v : DWord) : Word := v.extractLsb' 32 32
  let b := s.bar
  match off with
  | 0x100 => goWord b.cmd.cxid b.cmd.op
  | 0x104 => busyWord b.cmd.pending.isSome b.cmd.err ||| b.cmd.st.zeroExtend 32
  | 0x108 => lo b.cmd.arg
  | 0x10C => hi b.cmd.arg
  | 0x110 => lo b.dirBase
  | 0x114 => hi b.dirBase
  | 0x118 => b.dirN.zeroExtend 32
  | 0x140 => (b.rateCxid.zeroExtend 32 <<< 8) ||| b.rateClass.zeroExtend 32
  | 0x144 => b.rate
  | 0x148 => b.burst
  | 0x180 => goWord b.pool.cxid b.pool.op
  | 0x184 => busyWord false b.pool.err
  | 0x188 => lo b.pool.farg0
  | 0x18C => hi b.pool.farg0
  | 0x190 => lo b.pool.farg1
  | 0x194 => hi b.pool.farg1
  | 0x198 => lo b.pool.fres
  | 0x19C => hi b.pool.fres
  | 0x1C0 => goWord b.link.cxid b.link.op
  | 0x1C4 => busyWord b.link.pending.isSome b.link.err
  | 0x1C8 => lo b.link.larg0
  | 0x1CC => hi b.link.larg0
  | 0x1D0 => lo b.link.larg1
  | 0x1D4 => hi b.link.larg1
  | 0x1D8 => lo b.link.larg2
  | 0x1DC => hi b.link.larg2
  | 0x1E0 => b.link.pkgid.zeroExtend 32
  | 0x1E4 => b.link.portup.zeroExtend 32
  | _ =>
    if off < 0x40 then s.modl.geo.word off
    else if 0x200 ≤ off ∧ off < 0x220 then ((s.queue? hvIface).map fun q => q.pageRead (off - 0x200)).getD 0
    else 0

/-- What a read of the host gives, at an offset as REGISTER_WRITE names it; none: the host sees no BAR in recovery state (R364), no such
page (R87), or an Unsupported Request (R352). -/
def State.readBar (s : State) (off : Nat) : Option Word :=
  if s.modl.recovery then none
  else if off < bar2 then some (s.barWord off)
  else
    let (iface, o) := pageOf (off - bar2)
    if iface < 4096 then s.pageRead s.hostStream iface o else none

/-! ## Writes -/

/-- REGISTER_WRITE; in recovery state the host sees no BAR (R364). An offset from bar2 up names a notify page in BAR 2 (R87). -/
def execRegisterWrite (off : Nat) (val : DWord) (s : State) : Out :=
  .next (if s.modl.recovery then s
    else if off < bar2 then s.writeBar off val
    else
      let (iface, o) := pageOf (off - bar2)
      if iface < 4096 then s.pageWrite iface fun q => q.pageStore o val else s)

end Sys2Proof.Machine
end

