-- ==== Sys2Proof/Machine/CopyEvents.lean ====
section
/-! DEFINITION. The steps of the copy engine: chunks, completions, and the end of PFL2 (spec/13_barrier.md R262 to R267,
spec/11_line.md R226). -/

namespace Sys2Proof.Machine

/-! ## Chunks -/

/-- The plaintext of n bytes of a COPYX from byte o of the message (R267). -/
def Copy.plain (c : Copy) (k : Key) (o n x : Nat) : Nat :=
  let iv := (leBytes 12 c.iv).reverse
  let b0 := o / 16
  let ks := gcmCrypt k iv b0 (List.replicate (16 * ((o + n + 15) / 16 - b0)) 0)
  leNat (xorBytes (leBytes n x) (ks.drop (o % 16)))

/-- The extra bank cycles of n bytes of a COPYT from byte o, for the issuing group (R269). -/
def Copy.bankCost (c : Copy) (o n : Nat) : Nat :=
  if c.kind != .t || !(c.srcScratch || c.dstScratch) then 0
  else
    let at_ (j : Nat) : Nat := if c.dstScratch then c.dstAt j else c.srcAt j
    ((List.range ((n + 127) / 128)).map fun q =>
      bankExtra 4 false ((List.range (min 32 ((n - 128 * q + 3) / 4))).map fun j => (j, 0, at_ (o + 128 * q + 4 * j)))).foldl
      (· + ·) 0

/-- COUNT of R263, where a chunk of n bytes from o is placed: its bytes are counted at the barriers of the targets. -/
def State.countChunk (s : State) (c : Copy) (o n : Nat) : State :=
  let s1 := if c.cb && c.dstScratch then
      c.targets.foldl (fun s t => s.barEvent c.cx t.1 t.2 c.ctn fun b => b.bytes n) s
    else s
  s1.mapSite c.site fun g => g.addBank (c.bankCost o n)

/-- The last step of a COPYX: its tag is compared, and the version is sealed or dropped (R267). -/
def State.verifyCopy (s : State) (c : Copy) : State :=
  let key := ((s.ctx? c.cx).map (·.transKey)).getD 0
  let iv := (leBytes 12 c.iv).reverse
  let bad := c.flags &&& 6 != 0
  let known := !(((s.ctx? c.cx).map (·.noSession)).getD true)
  let tag := gcmTag key iv (gcmHash key 0 (c.xct.take c.bytes)) c.bytes
  let ok := !bad && known && c.xct.drop c.bytes == tag
  let s1 := if ok || bad then s else s.flagCopy c.id copyAuth
  (s1.sendSh { id := 0, kind := if ok then .seal else .drop, cx := c.cx, sheaf := c.shId, ver := c.shVer, copy := some c.id,
               writer := { vchip := s.vchipOf c.cx, gidx := c.gidx, kernel := c.kernel, wg := c.wg } }).updCopy c.id
    fun c => { c with xst := 2 }

/-- The destination of byte o lies in a local page in migration, so that the write waits (R316, R325). -/
def State.dstWaits (s : State) (c : Copy) (o : Nat) : Bool :=
  !c.dstScratch && (match (s.engineKey c.cx (c.dstAt o) .quiet).2 with
    | .error .wait => true
    | .ok _ | .error _ => false)

/-- The rate-limiter classes of the accesses of a run; packets are charged as they leave (R116, R331). -/
def State.runClasses (s : State) (c : Copy) (o : Nat) : List Nat :=
  let one (scr : Bool) (a : Nat) : List Nat :=
    if scr then []
    else match regionOf a, (s.engineKey c.cx a .quiet).2 with
      | .localTable, .ok k => s.lineClasses c.site.grp.core k
      | _, _ => []
  one c.srcScratch (c.srcAt o) ++ one c.dstScratch (c.dstAt o)

/-- What one run does: read, and written where it was read (R262). The answer is false where the run waits. -/
def State.copyRun (s : State) (id o n : Nat) : State × Bool :=
  match s.copy? id with
  | none => (s, false)
  | some c =>
    let cls := s.runClasses c o
    if s.dstWaits c o || !s.admits c.cx cls then (s, false) else
    let (s1, r) := s.readRun c o n
    let got (s0 : State) (x : Nat) : State :=
      let s := s0.spend c.cx cls n
      s.updCopy id fun c =>
        { c with done := o + n, xct := if c.kind == .x then c.xct ++ leBytes n x else c.xct,
                 podData := if c.srcScratch || (c.srcAt (o + n)) / 128 == (c.srcAt o) / 128 then c.podData else none,
                 podPoison := if c.srcScratch || (c.srcAt (o + n)) / 128 == (c.srcAt o) / 128 then c.podPoison else false }
    match r with
    | .wait => (s1, false)
    | .ask => (s1.askRun c o, false)
    | .skip bit => (got (if bit = 7 then s1 else s1.flagCopy id bit) 0, true)
    | .data x poi =>
      let s2 := if poi then s1.flagCopy id copyPoison else s1
      if c.kind == .x then
        let key := ((s.ctx? c.cx).map (·.transKey)).getD 0
        (got (if o < c.bytes && !poi then s2.writeRun c o n (c.plain key o n x) false else s2) x, true)
      else (got (s2.writeRun c o n x poi) x, true)

/-- COPY_CHUNK: the k-th copy moves on to the end of its chunk, or as far as it can (R262, R263). -/
def execCopyChunk (k : Nat) (s : State) : Out :=
  .next (match s.copies[k]? with
    | none => s
    | some c =>
      if c.kind == .p || decide (c.done ≥ c.total) || (c.kind == .x && c.xst != 1) || c.podWait.isSome
          || (s.core c.site.grp.core).pq.any (fun e => c.marker.contains e.id) then s
      else
        let start := c.done / 1024 * 1024
        let stop := min (start + 1024) c.total
        let r := (c.runs 2048 c.done stop).foldl (fun (acc : State × Bool) q =>
          if acc.2 then acc.1.copyRun c.id q.1 q.2 else acc) (s, true)
        if !r.2 then r.1
        else
          let r1 := r.1.endCure c.id
          let s1 := if start < c.bytes then r1.countChunk c start (min stop c.bytes - start) else r1
          if c.kind == .x && stop = c.total then
            match s1.copy? c.id with
            | none => s1
            | some c1 => if c1.podOut == 0 then s1.verifyCopy c1 else s1
          else s1)

/-- COPY_COMPLETE (R262, R264, R267): every byte is placed and acknowledged, and for COPYX the version is sealed or dropped. A COPYX whose
last open writes to the pod were answered behind its last chunk is verified first. -/
def execCopyComplete (k : Nat) (s : State) : Out :=
  .next (match s.copies[k]? with
    | none => s
    | some c =>
      let due := if c.kind == .x then c.xst == 3 else decide (c.done ≥ c.total)
      if c.kind == .p || c.podOut != 0 then s
      else if due then s.finishCopy c
      else if c.kind == .x && c.xst == 1 && decide (c.done ≥ c.total) then s.verifyCopy c
      else s)

/-! ## PFL2 -/

/-- What one line of PFL2 comes to (R226). -/
inductive FetchRes where
  /-- Brought to its home slice, and to a C copy where .local asks for one and R214 allows it. -/
  | here (s : State)
  | skipped
  /-- Its page is in migration (R316). -/
  | waits

/-- One line of PFL2. A line of the pod aperture that this TW9 homes comes to its home slice through the TLB of the vchip that exports it
(R314), and is never copied (R214). -/
def State.fetchLine (s : State) (c : Copy) (j : Nat) : FetchRes :=
  let va := (c.src + 128 * j) % 2 ^ 64
  match regionOf va with
  | .localTable =>
    match s.engineKey c.cx va .touch with
    | (s1, .ok k) =>
      let s2 := (s1.homeNote k).l2Touch k false
      let sec := coreSector c.site.grp.core
      let (d, poi) := s2.homeRead k
      if c.loc && !poi && s2.mayCopy k sec && !(s2.ccopies.any fun x => x.key.same k && x.sector == sec) then .here (s2.putCopy k sec d)
      else .here s2
    | (_, .error .wait) => .waits
    | (_, .error _) => .skipped
  | .pod =>
    match s.podHere c.cx va with
    | none => .skipped
    | some (own, a) =>
      match s.podTranslate own a .touch with
      | (s1, .ok t) => .here ((s1.homeNote (t.key a)).l2Touch (t.key a) false)
      | (_, .wait) => .waits
      | (_, .fail ..) => .skipped
  | .none | .mcast | .trap | .control => .skipped

/-- The lines of a PFL2 from the first that it has not brought; none: a line waits. -/
def State.fetchLines (s : State) (c : Copy) : Option (State × Nat × Nat) :=
  (List.range c.bytes).foldl (fun (acc : Option (State × Nat × Nat)) j =>
    acc.bind fun (s, first, n) => match s.fetchLine c j with
      | .here s1 => some (s1, first, n)
      | .skipped => some (s, if n = 0 then j else first, n + 1)
      | .waits => none) (some (s, 0xFFFFFFFF, 0))

/-- PFL2_COMPLETE: the PFL2 of a number ends with its completion word, tag and flag (R226, R256). -/
def execPfl2Complete (op : Nat) (s : State) : Out :=
  .next (match s.copy? op with
    | none => s
    | some c =>
      if c.kind != .p then s
      else
        match s.fetchLines c with
        | none => s
        | some (s0, first, n) =>
        let s1 := s0.mapSite c.site fun g =>
          (g.setS c.regD (BitVec.ofNat 32 first)).setS (c.regD + 1) (BitVec.ofNat 32 n)
        let s2 : State := { s1 with copies := s1.copies.filter fun x => x.id != c.id }
        let s3 := s2.tagDone c.cx c.kernel c.wg c.ctn 0
        match c.op with
        | none => s3
        | some o => s3.finishOp o)

end Sys2Proof.Machine
end

