-- ==== Sys2Proof/Machine/Exchange.lean ====
section
/-! DEFINITION. XCHG, the pairing of offers and their timeout (spec/09_lane.md R186 to R188). -/

namespace Sys2Proof.Machine

/-- XCHG: posts an offer of V[A] under the issue-time $EXEC; a commit (R187). -/
def execXchg (fs : Bool) (d a : BitVec 7) (b : BitVec 6) (pgrp : BitVec 5) (tag : BitVec 16) (s : State) : Out :=
  let i : Instr := .xchg fs d a b pgrp tag
  issueLong s i fs { v := [d.toNat, a.toNat], s := [b.toNat] } fun g p f =>
    gated s g p
      (if !s.flagRoom g f 1 then s.stall g p .poll
       else
         let (id, s1) := s.attach g p i f { vw := [g.wb + d.toNat] }
           (.xchg (g.wb + d.toNat) p.exec (p.clause.bind fun cl => cl.after 2))
         let o : Offer := { op := id, grp := g.ref, cx := g.cx, kernel := g.kernel, wg := g.wg, gidx := g.gidx,
                            partnerWg := (g.getS b.toNat).toNat, partnerGrp := pgrp.toNat, tag := tag.toNat,
                            data := (List.range 32).map (g.getV a.toNat), mask := p.exec, posted := s.cycle }
         (({ s1 with offers := s1.offers ++ [o] } : State).commit g p).done g p i)

/-- Two offers of one group to the same partner and TAG. -/
def Offer.alike (a b : Offer) : Bool :=
  a.cx == b.cx && a.kernel == b.kernel && a.wg == b.wg && a.gidx == b.gidx && a.partnerWg == b.partnerWg
  && a.partnerGrp == b.partnerGrp && a.tag == b.tag

/-- Each offer names the other's group, and the TAGs are equal (R187). -/
def Offer.meets (a b : Offer) : Bool :=
  a.cx == b.cx && a.kernel == b.kernel && a.tag == b.tag && a.partnerWg == b.wg && a.partnerGrp == b.gidx
  && b.partnerWg == a.wg && b.partnerGrp == a.gidx

/-- One side of a pair: V[D] takes the partner's data in the lanes of its own mask (R187, R188). -/
def State.takeOffer (s : State) (o : Offer) (data : List Word) : State :=
  match s.anyOp? o.op with
  | none => s
  | some p =>
    match p.kind with
    | .xchg d mask _ => (s.withOpGroup p fun g => g.setLanesP d mask fun l => data.getD l 0).finishOp p.id
    | _ => s

/-- An offer pairs within 2^22 cycles of its issue (R187). -/
def Offer.alive (o : Offer) (now : Nat) : Bool := decide (now ≤ o.posted + Config.xchgTimeout)

/-- Offers i and j pair in a cycle: both are within their time limit, each the first of its kind (R187). -/
def State.offersPair (s : State) (i j now : Nat) : Bool :=
  match s.offers[i]?, s.offers[j]? with
  | some a, some b =>
    let first (n : Nat) (o : Offer) : Bool := o.alive now && !((s.offers.take n).any fun x => x.alike o && x.alive now)
    let self := a.partnerWg == a.wg && a.partnerGrp == a.gidx
    a.meets b && first i a && first j b && (self == (i == j))
  | _, _ => false

/-- The offer that offer i pairs with in a cycle. -/
def State.offerMate (s : State) (i now : Nat) : Option Nat := (filterRange s.offers.length fun j => s.offersPair i j now).head?

/-- XCHG_PAIR: offers i and j pair within their time limit, each the first of its kind (R187). -/
def execXchgPair (i j : Nat) (s : State) : Out :=
  .next (match s.offers[i]?, s.offers[j]? with
    | some a, some b =>
      if s.offersPair i j s.cycle then
        let s1 : State := { s with offers := s.offers.filter fun o => o.op != a.op && o.op != b.op }
        if i = j then s1.takeOffer a a.data else (s1.takeOffer a b.data).takeOffer b a.data
      else s
    | _, _ => s)

/-- XCHG_TIMEOUT: an offer that has not paired within 2^22 cycles is withdrawn, and XCHGTO is raised (R187), at the group's first issue
where the group is saved (R188). -/
def execXchgTimeout (i : Nat) (s : State) : Out :=
  .next (match s.offers[i]? with
    | none => s
    | some o =>
      if o.alive s.cycle then s
      else
        let s1 : State := { s with offers := s.offers.filter fun x => x.op != o.op }
        match s1.anyOp? o.op with
        | none => s1
        | some p =>
          let resume := match p.kind with
            | .xchg _ _ r => r
            | _ => none
          (s1.withOpGroup p fun g =>
            { g with held := g.held ++ [{ split := p.split, cause := cXCHGTO, lanes := s1.opExec p, pc := p.pc, addr := 0, detail := 0,
                                          insn := p.insn, nextpc := p.pc + 8, resume := resume, clause := p.clause,
                                          rpc := some p.rpc, first := !(s1.ops.any fun x => x.id == p.id) }] }).finishOp p.id)

end Sys2Proof.Machine
end

