-- ==== Sys2Proof/Machine/LaneFloat.lean ====
section
/-! DEFINITION. The lane floating-point instructions (spec/09_lane.md R170 to R179). -/

namespace Sys2Proof.Machine

/-- An FP32 instruction of two sources in the current rounding mode (R170). -/
def fbin (s : State) (i : Instr) (d a : BitVec 7) (b : Opnd) (f : RM → Word → Word → FRes) : Out :=
  laneFloat s i ((opndUses b).append (useV [d.toNat, a.toNat])) d.toNat fun g l =>
    f (rmOf g.fpmode) (g.getV a.toNat l) (bopF g b l)

/-- A unary FP32 function (R171). -/
def funary (s : State) (i : Instr) (d : BitVec 7) (b : Opnd) (f : RM → FV → Nat × Flags) : Out :=
  laneFloat s i ((opndUses b).append (useV [d.toNat])) d.toNat fun g l => w32 (f (rmOf g.fpmode) (dec32 (bopF g b l)))

/-- FADD (R170). -/
def execFadd (d a : BitVec 7) (b : Opnd) (s : State) : Out :=
  fbin s (.fadd d a b) d a b fun rm x y => w32 (addF fp32 rm (dec32 x) (dec32 y))

/-- FSUB (R170). -/
def execFsub (d a : BitVec 7) (b : Opnd) (s : State) : Out :=
  fbin s (.fsub d a b) d a b fun rm x y => w32 (addF fp32 rm (dec32 x) (dec32 y).flip)

/-- FMUL (R170). -/
def execFmul (d a : BitVec 7) (b : Opnd) (s : State) : Out :=
  fbin s (.fmul d a b) d a b fun rm x y => w32 (mulF fp32 rm (dec32 x) (dec32 y))

/-- FFMA: A x B + D with one rounding (R62, R170). -/
def execFfma (d a : BitVec 7) (b : Opnd) (s : State) : Out :=
  laneFloat s (.ffma d a b) ((opndUses b).append (useV [d.toNat, a.toNat])) d.toNat fun g l =>
    w32 (fmaF fp32 (rmOf g.fpmode) (dec32 (g.getV a.toNat l)) (dec32 (bopF g b l)) (dec32 (g.getV d.toNat l)))

/-- FMIN (R62, R170). -/
def execFmin (d a : BitVec 7) (b : Opnd) (s : State) : Out := fbin s (.fmin d a b) d a b fun _ x y => minmaxF false x y

/-- FMAX (R62, R170). -/
def execFmax (d a : BitVec 7) (b : Opnd) (s : State) : Out := fbin s (.fmax d a b) d a b fun _ x y => minmaxF true x y

/-- FCMP: mask bits and NV (R172). -/
def execFcmp (comb : Bool) (cc : Fcc) (m : BitVec 3) (a : BitVec 7) (b : Opnd) (s : State) : Out :=
  laneCmp s (.fcmp comb cc m a b) ((opndUses b).append { v := [a.toNat], m := [m.toNat] }) m.toNat comb fun g l =>
    fcmp cc (g.getV a.toNat l) (bopF g b l)

/-- FRCP (R171). -/
def execFrcp (d : BitVec 7) (b : Opnd) (s : State) : Out := funary s (.frcp d b) d b frcp

/-- FRSQ (R171). -/
def execFrsq (d : BitVec 7) (b : Opnd) (s : State) : Out := funary s (.frsq d b) d b frsq

/-- FSQRT (R171). -/
def execFsqrt (d : BitVec 7) (b : Opnd) (s : State) : Out := funary s (.fsqrt d b) d b fsqrt

/-- FEXP2 (R171). -/
def execFexp2 (d : BitVec 7) (b : Opnd) (s : State) : Out := funary s (.fexp2 d b) d b fexp2

/-- FLOG2 (R171). -/
def execFlog2 (d : BitVec 7) (b : Opnd) (s : State) : Out := funary s (.flog2 d b) d b flog2

/-- FTANH (R171). -/
def execFtanh (d : BitVec 7) (b : Opnd) (s : State) : Out := funary s (.ftanh d b) d b ftanh

/-- SCALEX: a power of two, from an FP32 value or an E8M0 scale (R173). -/
def execScalex (e8 : Bool) (d a : BitVec 7) (b : Opnd) (s : State) : Out :=
  laneFloat s (.scalex e8 d a b) ((opndUses b).append (useV [d.toNat, a.toNat])) d.toNat fun g l =>
    if e8 then scalexE8 (rmOf g.fpmode) (g.getV a.toNat l) (bop g b l)
    else scalexF (rmOf g.fpmode) (g.getV a.toNat l) (bopF g b l)

/-- The 16-bit format that MD[2] selects (R174). -/
def hfmt (h : Bool) : FP := if h then fpF16 else fpBf16

/-- A 16-bit instruction on both halves of each lane (R174). -/
def hbin (s : State) (i : Instr) (h : Bool) (d a : BitVec 7) (b : Opnd) (f : FP → RM → FV → FV → FV → Nat × Flags) : Out :=
  laneFloat s i ((opndUses b).append (useV [d.toNat, a.toNat])) d.toNat fun g l =>
    halves fun e => f (hfmt h) (rmOf g.fpmode) (half (hfmt h) (g.getV a.toNat l) e) (half (hfmt h) (bopH (hfmt h) g b l) e)
      (half (hfmt h) (g.getV d.toNat l) e)

/-- HADD2 (R174). -/
def execHadd2 (h : Bool) (d a : BitVec 7) (b : Opnd) (s : State) : Out :=
  hbin s (.hadd2 h d a b) h d a b fun p rm x y _ => addF p rm x y

/-- HMUL2 (R174). -/
def execHmul2 (h : Bool) (d a : BitVec 7) (b : Opnd) (s : State) : Out :=
  hbin s (.hmul2 h d a b) h d a b fun p rm x y _ => mulF p rm x y

/-- HFMA2 (R174). -/
def execHfma2 (h : Bool) (d a : BitVec 7) (b : Opnd) (s : State) : Out :=
  hbin s (.hfma2 h d a b) h d a b fmaF

/-- CVTF (R175). -/
def execCvtf (src dst : FFmt) (sh dh : Bool) (d a : BitVec 7) (s : State) : Out :=
  laneFloat s (.cvtf src dst sh dh d a) (useV [d.toNat, a.toNat]) d.toNat fun g l =>
    cvtfF (rmOf g.fpmode) src dst sh dh (g.getV a.toNat l) (g.getV d.toNat l)

/-- CVTI (R176). -/
def execCvti (k : CvtiK) (t : Bool) (d a : BitVec 7) (s : State) : Out :=
  laneFloat s (.cvti k t d a) (useV [d.toNat, a.toNat]) d.toNat fun g l => cvtiF (rmOf g.fpmode) k t (g.getV a.toNat l)

/-- PACKn: n consecutive slots into one lane word (R177). -/
def packOp (s : State) (i : Instr) (n : Nat) (f : Fmt) (d a : BitVec 7) : Out :=
  laneFloat s i (useV (d.toNat :: runRegs a.toNat n)) d.toNat fun g l =>
    packLane f g.fpmode g.seed l ((runRegs a.toNat n).map fun r => g.getV r l)

def execPack8 (f : Fmt) (d a : BitVec 7) (s : State) : Out := packOp s (.pack8 f d a) 4 f d a
def execPack6 (f : Fmt) (d a : BitVec 7) (s : State) : Out := packOp s (.pack6 f d a) 4 f d a
def execPack4 (f : Fmt) (d a : BitVec 7) (s : State) : Out := packOp s (.pack4 f d a) 8 f d a

/-- UNPKn: one lane word into n consecutive slots (R178). -/
def unpackOp (s : State) (i : Instr) (n : Nat) (f : Fmt) (d a : BitVec 7) : Out :=
  issue s i (useV (a.toNat :: runRegs d.toNat n)) fun g p =>
    (s.updGroup g.ref fun h => (List.range n).foldl (fun h e =>
      h.setLanes (d.toNat + e) p.exec fun l => unpackElem f (g.getV a.toNat l) e) h).done g p i

def execUnpk8 (f : Fmt) (d a : BitVec 7) (s : State) : Out := unpackOp s (.unpk8 f d a) 4 f d a
def execUnpk6 (f : Fmt) (d a : BitVec 7) (s : State) : Out := unpackOp s (.unpk6 f d a) 4 f d a
def execUnpk4 (f : Fmt) (d a : BitVec 7) (s : State) : Out := unpackOp s (.unpk4 f d a) 8 f d a

/-- The dot products of R179 over n packed elements. -/
def fdotOp (s : State) (i : Instr) (f : Fmt) (n : Nat) (sig : Bool) (d a : BitVec 7) (b : Opnd) : Out :=
  laneFloat s i ((opndUses b).append (useV [d.toNat, a.toNat])) d.toNat fun g l =>
    let els (w : Word) : List FV := (List.range n).map fun e => narrowVal f (elemOf f w e)
    w32 (dotF (dec32 (g.getV d.toNat l)) (els (g.getV a.toNat l)) (els (bop g b l)) sig)

/-- FDP4 (R179). -/
def execFdp4 (e5 : Bool) (d a : BitVec 7) (b : Opnd) (s : State) : Out :=
  fdotOp s (.fdp4 e5 d a b) (if e5 then .e5m2 else .e4m3) 4 false d a b

/-- FDP8 (R179). -/
def execFdp8 (d a : BitVec 7) (b : Opnd) (s : State) : Out := fdotOp s (.fdp8 d a b) .e2m1 8 false d a b

/-- FDP2H (R179). -/
def execFdp2h (h : Bool) (d a : BitVec 7) (b : Opnd) (s : State) : Out :=
  fdotOp s (.fdp2h h d a b) (if h then .f16 else .bf16) 2 true d a b

end Sys2Proof.Machine
end

