-- ==== Sys2Proof/Machine/LaneInt.lean ====
section
/-! DEFINITION. The lane integer and logic instructions (spec/09_lane.md R164 to R169), and ILL and NOP (R41). -/

namespace Sys2Proof.Machine

/-- 0x00 is never an instruction: it traps ILL (R41, R43). -/
def execIll (z : BitVec 24) (s : State) : Out := withIssuer s fun g p => s.trap g p (.ill z) cILL

/-- NOP (R41). -/
def execNop (s : State) : Out := issue s .nop {} fun g p => s.done g p .nop

/-- A lane instruction of two sources (R161, R164). -/
def bin (s : State) (i : Instr) (d a : BitVec 7) (b : Opnd) (f : Word → Word → Word) : Out :=
  laneOp s i ((opndUses b).append (useV [d.toNat, a.toNat])) d.toNat fun g l => f (g.getV a.toNat l) (bop g b l)

/-- A lane instruction that also reads its destination (R164). -/
def tern (s : State) (i : Instr) (d a : BitVec 7) (b : Opnd) (f : Word → Word → Word → Word) : Out :=
  laneOp s i ((opndUses b).append (useV [d.toNat, a.toNat])) d.toNat fun g l =>
    f (g.getV d.toNat l) (g.getV a.toNat l) (bop g b l)

/-- A unary lane instruction (R162). -/
def unary (s : State) (i : Instr) (d : BitVec 7) (b : Opnd) (f : Word → Word) : Out :=
  laneOp s i ((opndUses b).append (useV [d.toNat])) d.toNat fun g l => f (bop g b l)

/-- IADD: (A + B) mod 2^32, or saturated (R164). -/
def execIadd (sat : Bool) (d a : BitVec 7) (b : Opnd) (s : State) : Out :=
  bin s (.iadd sat d a b) d a b fun x y => if sat then satS32 (x.toInt + y.toInt) else x + y

/-- ISUB: (A - B) mod 2^32, or saturated (R164). -/
def execIsub (sat : Bool) (d a : BitVec 7) (b : Opnd) (s : State) : Out :=
  bin s (.isub sat d a b) d a b fun x y => if sat then satS32 (x.toInt - y.toInt) else x - y

/-- IMUL: (A x B) mod 2^32 (R164). -/
def execImul (d a : BitVec 7) (b : Opnd) (s : State) : Out :=
  bin s (.imul d a b) d a b fun x y => x * y

/-- IMULH: bits [63:32] of the full product (R164). -/
def execImulh (u : Bool) (d a : BitVec 7) (b : Opnd) (s : State) : Out :=
  bin s (.imulh u d a b) d a b fun x y => if u then BitVec.ofNat 32 (x.toNat * y.toNat / 2 ^ 32) else BitVec.ofInt 32 (x.toInt * y.toInt / 2 ^ 32)

/-- IMAD: (A x B + D) mod 2^32 (R164). -/
def execImad (d a : BitVec 7) (b : Opnd) (s : State) : Out := tern s (.imad d a b) d a b fun z x y => x * y + z

/-- IADD64: a pair sum modulo 2^64, or saturated (R165). -/
def execIadd64 (sat : Bool) (d a : BitVec 6) (b : Opnd64) (s : State) : Out :=
  laneOp64 s (.iadd64 sat d a b) ((opnd64Uses b).append (useV (pairRegs d.toNat ++ pairRegs a.toNat))) (2 * d.toNat) fun g l =>
    let x := vPairVal g a.toNat l
    let y := bop64 g b l
    if sat then satS64 (x.toInt + y.toInt) else x + y

/-- IMIN: the minimum (R164). -/
def execImin (u : Bool) (d a : BitVec 7) (b : Opnd) (s : State) : Out :=
  bin s (.imin u d a b) d a b fun x y => if (if u then x.ule y else x.sle y) then x else y

/-- IMAX: the maximum (R164). -/
def execImax (u : Bool) (d a : BitVec 7) (b : Opnd) (s : State) : Out :=
  bin s (.imax u d a b) d a b fun x y => if (if u then y.ule x else y.sle x) then x else y

/-- IAMIN: the fused add and minimum with the destination (R164). -/
def execIamin (u : Bool) (d a : BitVec 7) (b : Opnd) (s : State) : Out :=
  tern s (.iamin u d a b) d a b fun z x y =>
    if u then (let t := satU32 ((x.toNat : Int) + y.toNat); if z.ule t then z else t)
    else (let t := satS32 (x.toInt + y.toInt); if z.sle t then z else t)

/-- IAMAX: the fused add and maximum with the destination (R164). -/
def execIamax (u : Bool) (d a : BitVec 7) (b : Opnd) (s : State) : Out :=
  tern s (.iamax u d a b) d a b fun z x y =>
    if u then (let t := satU32 ((x.toNat : Int) + y.toNat); if t.ule z then z else t)
    else (let t := satS32 (x.toInt + y.toInt); if t.sle z then z else t)

/-- AND: A AND B (R164). -/
def execAnd (d a : BitVec 7) (b : Opnd) (s : State) : Out :=
  bin s (.and d a b) d a b fun x y => x &&& y

/-- OR: A OR B (R164). -/
def execOr (d a : BitVec 7) (b : Opnd) (s : State) : Out :=
  bin s (.or d a b) d a b fun x y => x ||| y

/-- XOR: A XOR B (R164). -/
def execXor (d a : BitVec 7) (b : Opnd) (s : State) : Out :=
  bin s (.xor d a b) d a b fun x y => x ^^^ y

/-- ANDN: A AND NOT B (R164). -/
def execAndn (d a : BitVec 7) (b : Opnd) (s : State) : Out :=
  bin s (.andn d a b) d a b fun x y => x &&& ~~~y

/-- SHL: shift left by B[5:0] (R164). -/
def execShl (d a : BitVec 7) (b : Opnd) (s : State) : Out :=
  bin s (.shl d a b) d a b shlW

/-- SHR: shift right with zero fill (R164). -/
def execShr (d a : BitVec 7) (b : Opnd) (s : State) : Out :=
  bin s (.shr d a b) d a b shrW

/-- SAR: shift right with sign fill (R164). -/
def execSar (d a : BitVec 7) (b : Opnd) (s : State) : Out :=
  bin s (.sar d a b) d a b sarW

/-- ROL: rotate left by B[4:0] (R164). -/
def execRol (d a : BitVec 7) (b : Opnd) (s : State) : Out :=
  bin s (.rol d a b) d a b rolW

/-- BFX: a bit field, zero- or sign-extended (R166). -/
def execBfx (sx : Bool) (d a : BitVec 7) (b : Opnd) (s : State) : Out := bin s (.bfx sx d a b) d a b (bfx sx)

/-- BFI: a bit field inserted into the destination (R166). -/
def execBfi (d a : BitVec 7) (b : Opnd) (s : State) : Out := tern s (.bfi d a b) d a b bfi

/-- POPC: the number of 1 bits (R164). -/
def execPopc (d : BitVec 7) (b : Opnd) (s : State) : Out := unary s (.popc d b) d b fun x => BitVec.ofNat 32 (popc x)

/-- CLZ: the number of leading zeros, 0 to 32 (R164). -/
def execClz (d : BitVec 7) (b : Opnd) (s : State) : Out := unary s (.clz d b) d b fun x => BitVec.ofNat 32 (clz x)

/-- BREV: bit k moves to bit 31 - k (R164). -/
def execBrev (d : BitVec 7) (b : Opnd) (s : State) : Out := unary s (.brev d b) d b brev

/-- SEL: A where the mask bit is 1, else B (R168). -/
def execSel (m : BitVec 3) (d a b : BitVec 7) (s : State) : Out :=
  laneOp s (.sel m d a b) { v := [d.toNat, a.toNat, b.toNat], m := [m.toNat] } d.toNat fun g l =>
    if (g.getM m.toNat).getLsbD l then g.getV a.toNat l else g.getV b.toNat l

/-- ICMP: the mask bits of the active lanes (R167). -/
def execIcmp (comb : Bool) (cc : Icc) (m : BitVec 3) (a : BitVec 7) (b : Opnd) (s : State) : Out :=
  laneCmp s (.icmp comb cc m a b) ((opndUses b).append { v := [a.toNat], m := [m.toNat] }) m.toNat comb fun g l =>
    (icmp cc (g.getV a.toNat l) (bop g b l), 0)

/-- MOV: B (R164). -/
def execMov (d : BitVec 7) (b : Opnd) (s : State) : Out := unary s (.mov d b) d b fun x => x

/-- LEA: the pair A plus the extended 32-bit B (R165). -/
def execLea (zx : Bool) (d a : BitVec 6) (b : Opnd) (s : State) : Out :=
  laneOp64 s (.lea zx d a b) ((opndUses b).append (useV (pairRegs d.toNat ++ pairRegs a.toNat))) (2 * d.toNat) fun g l =>
    vPairVal g a.toNat l + (if zx then (bop g b l).zeroExtend 64 else (bop g b l).signExtend 64)

/-- IDP4: four signed byte products added to the destination (R169). -/
def execIdp4 (d a : BitVec 7) (b : Opnd) (s : State) : Out := tern s (.idp4 d a b) d a b (idp 4 8)

/-- IDP8: eight signed nibble products added to the destination (R169). -/
def execIdp8 (d a : BitVec 7) (b : Opnd) (s : State) : Out := tern s (.idp8 d a b) d a b (idp 8 4)

end Sys2Proof.Machine
end

