-- ==== Sys2Proof/Machine/LaneMove.lean ====
section
/-! DEFINITION. The lane movement instructions but XCHG (spec/09_lane.md R180 to R185). -/

namespace Sys2Proof.Machine

/-- SHFL: lane j of A, by index or XOR (R180). -/
def execShfl (x : Bool) (d a : BitVec 7) (b : Opnd) (s : State) : Out :=
  laneOp s (.shfl x d a b) ((opndUses b).append (useV [d.toNat, a.toNat])) d.toNat fun g l =>
    let k := (bop g b l).toNat % 32
    g.getV a.toNat (if x then l ^^^ k else k)

/-- LSHU and LSHD: the source lane, or none (R181). -/
def shiftOp (s : State) (i : Instr) (z : Bool) (d a : BitVec 7) (b : UOpnd) (src : Nat → Nat → Option Nat) : Out :=
  laneOp s i ((uopndUses b).append (useV [d.toNat, a.toNat])) d.toNat fun g l =>
    match src l ((uval g b).toNat % 64) with
    | some k => g.getV a.toNat k
    | none => if z then 0 else g.getV d.toNat l

/-- LSHU (R181). -/
def execLshu (z : Bool) (d a : BitVec 7) (b : UOpnd) (s : State) : Out :=
  shiftOp s (.lshu z d a b) z d a b fun l n => if l < n then none else some (l - n)

/-- LSHD (R181). -/
def execLshd (z : Bool) (d a : BitVec 7) (b : UOpnd) (s : State) : Out :=
  shiftOp s (.lshd z d a b) z d a b fun l n => if l + n > 31 then none else some (l + n)

/-- LROT (R181). -/
def execLrot (d a : BitVec 7) (b : UOpnd) (s : State) : Out :=
  laneOp s (.lrot d a b) ((uopndUses b).append (useV [d.toNat, a.toNat])) d.toNat fun g l =>
    g.getV a.toNat ((l + 32 - (uval g b).toNat % 32) % 32)

/-- BCAST: one lane of A into every active lane (R182). -/
def execBcast (d a : BitVec 7) (k : LaneSel) (s : State) : Out :=
  issue s (.bcast d a k) ((laneSelUses k).append (useV [d.toNat, a.toNat])) fun g p =>
    let x := match laneSel g p k with
      | some j => g.getV a.toNat j
      | none => 0
    (s.updGroup g.ref fun h => h.setLanes d.toNat p.exec fun _ => x).done g p (.bcast d a k)

/-- The active lanes whose V[A] is not 0 (R183). -/
def ballot (g : Group) (p : Split) (a : Nat) : Word := maskOfLanes ((lanesOf p.exec).filter fun l => g.getV a l != 0)

/-- BALLOT into a mask register (R183). -/
def execBallotM (d : BitVec 3) (a : BitVec 7) (s : State) : Out :=
  maskOp s (.ballotM d a) { v := [a.toNat], m := [d.toNat] } d.toNat fun g p => ballot g p a.toNat

/-- BALLOT into an S register (R183). -/
def execBallotS (d : BitVec 6) (a : BitVec 7) (s : State) : Out :=
  uniOp s (.ballotS d a) { v := [a.toNat], s := [d.toNat] } d.toNat fun g p => ballot g p a.toNat

/-- VOTE (R183). -/
def execVote (k : VoteK) (d : BitVec 6) (a : BitVec 7) (s : State) : Out :=
  uniOp s (.vote k d a) { v := [a.toNat], s := [d.toNat] } d.toNat fun g p =>
    let vs := (lanesOf p.exec).map fun l => g.getV a.toNat l
    let r := match k with
      | .any => vs.any fun x => x != 0
      | .all => vs.all fun x => x != 0
      | .uni => vs.all fun x => some x == vs.head?
    if r then 1 else 0

/-- RDLANE: one lane of A into an S register (R182). -/
def execRdlane (d : BitVec 6) (a : BitVec 7) (k : LaneSel) (s : State) : Out :=
  uniOp s (.rdlane d a k) ((laneSelUses k).append { v := [a.toNat], s := [d.toNat] }) d.toNat fun g p =>
    match laneSel g p k with
    | some j => g.getV a.toNat j
    | none => 0

/-- WRLANE: an S register into one lane, if it is active (R182). -/
def execWrlane (d : BitVec 7) (a : BitVec 6) (b : UOpnd) (s : State) : Out :=
  issue s (.wrlane d a b) ((uopndUses b).append { v := [d.toNat], s := [a.toNat] }) fun g p =>
    let k := (uval g b).toNat % 32
    (s.updGroup g.ref fun h => h.setLanes d.toNat (p.exec &&& BitVec.ofNat 32 (2 ^ k)) fun _ => g.getS a.toNat).done g p
      (.wrlane d a b)

/-- The operations of R184. -/
def redOp (op : RedOp) (x y : Word) : Word :=
  match op with
  | .add => x + y
  | .smin => if x.sle y then x else y
  | .smax => if x.sle y then y else x
  | .and => x &&& y
  | .or => x ||| y
  | .xor => x ^^^ y
  | .umin => if x.ule y then x else y
  | .umax => if x.ule y then y else x

/-- Their identities (R184). -/
def redId (op : RedOp) : Word :=
  match op with
  | .add | .or | .xor | .umax => 0
  | .smin => 0x7FFFFFFF
  | .smax => 0x80000000
  | .and | .umin => 0xFFFFFFFF

/-- REDI (R184). -/
def execRedi (op : RedOp) (d : BitVec 6) (a : BitVec 7) (s : State) : Out :=
  uniOp s (.redi op d a) { v := [a.toNat], s := [d.toNat] } d.toNat fun g p =>
    (lanesOf p.exec).foldl (fun acc l => redOp op acc (g.getV a.toNat l)) (redId op)

/-- The operation of a node of REDF's tree (R185). -/
def redfOp (op : RedF) (rm : RM) (x y : Word) : FRes :=
  match op with
  | .add => w32 (addF fp32 rm (dec32 x) (dec32 y))
  | .min => minmaxF false x y
  | .max => minmaxF true x y

/-- One level of the tree: neighbours joined, empty nodes passed over, flags united. -/
def redfLevel (f : Word → Word → FRes) : List (Option Word) → Flags → List (Option Word) × Flags
  | some x :: some y :: t, fl =>
    let r := f x y
    let q := redfLevel f t (fl ||| r.2)
    (some r.1 :: q.1, q.2)
  | some x :: none :: t, fl => let q := redfLevel f t fl; (some x :: q.1, q.2)
  | none :: y :: t, fl => let q := redfLevel f t fl; (y :: q.1, q.2)
  | [x], fl => ([x], fl)
  | [], fl => ([], fl)

/-- REDF along its fixed tree of five levels (R185). -/
def redfTree (f : Word → Word → FRes) (l : List (Option Word)) : Option Word × Flags :=
  let r := (List.range 5).foldl (fun (a : List (Option Word) × Flags) _ => redfLevel f a.1 a.2) (l, 0)
  (r.1.headD none, r.2)

/-- REDF (R185). -/
def execRedf (op : RedF) (d : BitVec 6) (a : BitVec 7) (s : State) : Out :=
  issue s (.redf op d a) { v := [a.toNat], s := [d.toNat] } fun g p =>
    let leaves := (List.range 32).map fun l => if p.exec.getLsbD l then some (g.getV a.toNat l) else none
    let r := redfTree (redfOp op (rmOf (g.modeAt s.cycle))) leaves
    let x := r.1.getD (match op with | .add => 0 | .min | .max => BitVec.ofNat 32 (nanF fp32))
    (s.updGroup g.ref fun h => (h.setS d.toNat x).setFlags r.2).done g p (.redf op d a)

/-- SCANI: inclusive prefixes over the active lanes (R184). -/
def execScani (op : RedOp) (d a : BitVec 7) (s : State) : Out :=
  issue s (.scani op d a) (useV [d.toNat, a.toNat]) fun g p =>
    (s.updGroup g.ref fun h => h.setLanes d.toNat p.exec fun l =>
      ((lanesOf p.exec).filter fun k => decide (k ≤ l)).foldl (fun acc k => redOp op acc (g.getV a.toNat k)) (redId op)).done g p
      (.scani op d a)

end Sys2Proof.Machine
end

