-- ==== Sys2Proof/Machine/Start.lean ====
section
/-! DEFINITION. The measured start (spec/18_operation.md R362 to R365) and the idle levels (R359 to R361). -/

namespace Sys2Proof.Machine

/-! ## Measurements -/

/-- slot ← SHA-384(slot ‖ hash). -/
def extend (slot hash : BitVec 384) : BitVec 384 := Config.sha384 (slot.toNat * 2 ^ 384 + hash.toNat) 96

def Module.slot (m : Module) (i : Nat) : BitVec 384 := m.measure.getD i 0

def Module.extendSlot (m : Module) (i : Nat) (hash : BitVec 384) : Module :=
  { m with measure := (List.range 8).map fun j => if j = i then extend (m.slot j) hash else m.slot j }

/-- The hash of a small number, for the slots of step 4 (the rate) and step 6 (the ports). -/
def hashNat (n : Nat) : BitVec 384 := Config.sha384 n 1

/-- The sealing key of step 5, from slots 0 and 1 (R81). -/
def Module.sealKey (m : Module) : Key := Config.hkdf ((m.slot 0).toNat * 2 ^ 384 + (m.slot 1).toNat) 0

def Module.log (m : Module) (step outcome attempts gtime : Nat) : Module :=
  let e : BootEntry := { step := BitVec.ofNat 8 step, outcome := BitVec.ofNat 8 outcome, attempts := BitVec.ofNat 16 attempts,
                         start := m.startCount, gtime := BitVec.ofNat 64 gtime }
  { m with bootLog := m.bootLog ++ [e] }

/-! ## The steps -/

/-- The pseudo-channels that a record gives a stack. -/
def recordChannels (r : ConfigRecord) (n : Nat) : Nat := if r.stmask.getLsbD n then min 64 (r.pchan.getD n 0) else 0

/-- The pseudo-channels of a record that a full retired-frame list has mapped out (R365). -/
def Module.pcLost (m : Module) (r : ConfigRecord) : List (Nat × Nat) := m.pcOut.filter fun e => decide (e.2 < recordChannels r e.1)

/-- The geometry of a record, without the pseudo-channels that a full retired-frame list has mapped out (R21, R365). -/
def Module.geometryOf (m : Module) (r : ConfigRecord) : Geometry :=
  { clmask := r.clmask, slmask := r.slmask, stmask := r.stmask, ptmask := r.ptmask,
    pchan := (List.range 12).map fun n => recordChannels r n - ((m.pcLost r).filter fun e => e.1 == n).length }

/-- One image of steps 1 to 3: its hash where both signatures verify. -/
def pickImage (i : ImageIn) (alt : Bool) : Option (BitVec 384) :=
  if alt then (if i.altEd25519 && i.altMldsa then some i.altHash else none) else (if i.ed25519 && i.mldsa then some i.hash else none)

/-- Required step k of R362, with its alternate or without; none: it fails. -/
def startStep (inp : StartIn) (m : Module) (k : Nat) (alt : Bool) : Option Module :=
  match k with
  | 1 => (pickImage inp.stage1 alt).map fun h => m.extendSlot 0 h
  | 2 => (pickImage inp.firmware alt).map fun h => m.extendSlot 1 h
  | 3 =>
    let r := if alt then inp.altRecord else inp.record
    if r.version < m.recordVersion then none
    else (pickImage inp.recordImg alt).map fun h =>
      { m.extendSlot 2 h with geo := m.geometryOf r, pcGone := m.pcLost r, recordVersion := r.version, serial := r.serial }
  | 4 =>
    if alt then (if inp.hbm8 then some { m.extendSlot 3 (hashNat 8) with hbmRate := 8 } else none)
    else if inp.hbm10 then some { m.extendSlot 3 (hashNat 10) with hbmRate := 10 } else none
  | _ => some m

/-- Steps k, k + 1, … up to 4 of one start; alts: the steps that use their alternate. The answer is the step that failed, if any. -/
def startSteps (inp : StartIn) (alts : List Nat) (gtime : Nat) : Nat → Nat → Module → Module × Option Nat
  | 0, _, m => (m, none)
  | fuel + 1, k, m =>
    let alt := alts.contains k
    match startStep inp m k alt with
    | none => (m.log k 1 (if alt then 2 else 1) gtime, some k)
    | some m1 => startSteps inp alts gtime fuel (k + 1) (m1.log k (if alt then 3 else 0) (if alt then 2 else 1) gtime)

/-- A start with what the flash keeps: slots at zero, the counter one up, the listed frames absent (R362, R363, R365). -/
def Module.restart (m : Module) : Module :=
  { bootLog := m.bootLog, startCount := m.startCount + 1, recordVersion := m.recordVersion, retired := m.retired, pcOut := m.pcOut,
    absent := m.retired, measure := List.replicate 8 0 }

/-- Starts until the required steps pass, or a step fails on its alternate too, which leaves the device in recovery state (R364). -/
def bootLoop (inp : StartIn) (gtime : Nat) : Nat → List Nat → Module → Module
  | 0, _, m => { m with recovery := true }
  | fuel + 1, alts, m =>
    match startSteps inp alts gtime 4 1 m.restart with
    | (m1, none) => ({ m1 with sealingKey := m1.sealKey } : Module).log 5 0 1 gtime
    | (m1, some k) => if alts.contains k then { m1 with recovery := true } else bootLoop inp gtime fuel (k :: alts) m1

/-- Steps 1 to 5. -/
def Module.boot (m : Module) (inp : StartIn) (gtime : Nat) : Module := bootLoop inp gtime 5 [] m

/-- The power-on start. What the flash keeps and the world around the device stay; memory and every register are as after reset. -/
def State.deviceStart (s : State) (inp : StartIn) : State :=
  let m := s.modl.boot inp 0
  let up := inp.portsUp &&& m.geo.ptmask
  let s1 : State :=
    { State.reset with modl := m, hostMem := s.hostMem, hostDenied := s.hostDenied, hostEvents := s.hostEvents, wire := s.wire,
                       nextId := s.nextId, freeCount := s.freeCount, keysDrawn := s.keysDrawn, issuer := s.issuer,
                       schedule := s.schedule }
  if m.recovery then s1
  else
    let m6 := if inp.portsOk then (m.extendSlot 4 (hashNat up.toNat)).log 6 0 1 0 else m.log 6 1 1 0
    let m7 := if inp.ptpOk then m6.log 7 0 1 0 else m6.log 7 1 1 0
    let bar : Bar := { s1.bar with link := { s1.bar.link with portup := if inp.portsOk then up else 0 } }
    let s2 : State := { s1 with modl := m7, ptpSync := inp.ptpOk, bar := bar }
    if inp.ptpOk then s2.emit .ptpLock else s2

/-! ## Warm reset (R368) -/

/-- What a warm reset leaves of a stopping circuit: its lap ends where it is. -/
def Circuit.afterReset (c : Circuit) : Circuit :=
  match c.st with
  | .running | .stopping =>
    { c with st := .stopped, ring := [], feed := [], feedWait := false, begun := false, ord := 0, lap := (c.lap + 1) % 2 ^ 32 }
  | .stopped | .ended | .faulted | .removed => { c with ring := [] }

/-- Packets that have not been acknowledged and requests without their answer are lost with their fabric interface: they take the fate of
those on a DOWN route (DEDUCED, log 37). -/
def State.losePackets (s : State) : State :=
  let s1 := (s.sent.filter fun k => !k.acked).foldl (fun s k => s.failPkt k causePoison) s
  let s2 := (s1.reqs.map (·.id)).foldl (fun s id => s.failReq id causePoison) s1
  { s2 with sent := [], net := [], reqs := [], rwatches := [], shMsgs := [], shProcs := [] }

/-- Everything is reset except HBM, the flash, the port PHYs, and what the contexts keep. -/
def State.resetUnits (s0 : State) (m : Module) : State :=
  let s := s0.losePackets
  let bar : Bar := { dirBase := s.bar.dirBase, dirN := s.bar.dirN, link := { pkgid := s.bar.link.pkgid, portup := s.bar.link.portup &&& m.geo.ptmask } }
  -- command numbers go on, so that no end of an earlier command is taken for that of a later one
  let hv : Queue := { iface := hvIface, st := .idle, seq := ((s.queue? hvIface).map (·.seq)).getD 0 }
  { s with modl := { m with domains := s.modl.domains }, bar := bar, queues := upd (fun q => q.iface == hvIface) (fun _ => hv) s.queues,
           cores := [], l2 := [], ccopies := [], cfills := [], fills := [], pushes := [], pushed := [], invals := [], sectorTlb := [],
           circuits := s.circuits.map Circuit.afterReset }

/-- The frames that a new record has removed are absent from the frame pools (R21). -/
def State.prunePools (s : State) : State :=
  { s with ctxs := s.ctxs.map fun c => { c with poolLocal := c.poolLocal.filter fun f => s.present (65536 * f) } }

/-- Every context that is not FREE or RETIRED is given *retire*, and a host event names it. -/
def State.retireAll (s : State) : State :=
  (s.holders.map (·.cxid)).foldl (fun s cx => (s.retireCtx cx).emit (.retired cx)) s

/-- The keys of every context without a slot are wrapped into its directory entry, where they are not wrapped yet (R81, R368). -/
def State.wrapAll (s : State) : State :=
  { s with ctxs := s.ctxs.map fun c => if c.slot || !c.wrapped.isEmpty then c else c.wrapKeys s.modl.sealingKey }

/-- The directory entries of contexts that are not SEALED give their keys back. -/
def State.unwrapAll (s : State) : State :=
  { s with ctxs := s.ctxs.map fun c => if c.st == .sealed then c else c.unwrapKeys s.modl.sealingKey }

/-- The second half of a warm reset: steps 1 to 5 again. Under other measurements no wrapped key unwraps, and every context retires. -/
def State.warmRestart (s : State) (inp : StartIn) : State :=
  let m := s.modl.boot inp s.gtime
  let s1 := (s.wrapAll.resetUnits m).prunePools
  if m.recovery then s1
  else if m.slot 0 == s.modl.slot 0 && m.slot 1 == s.modl.slot 1 then s1.unwrapAll
  else s1.retireAll

/-- The first half: RUN contexts are sealed, RESTORING and HALTED ones are given *reset*. -/
def State.warmBegin (s : State) : State :=
  (s.ctxs.map (·.cxid)).foldl (fun s cx =>
    match s.ctx? cx with
    | none => s
    | some c =>
      match c.st with
      | .run => (s.sealEv c).1
      | .restoring | .halted => (s.resetEv c).1
      | .bound | .locked | .sealing | .sealed | .error | .retired => s) s

/-- The sealing has ended, and no line waits to be published; messages and seals of sheaves have ended, and replies have been taken. -/
def State.warmReady (s : State) : Bool :=
  (s.ctxs.all fun c => c.st != .sealing && c.st != .run && c.st != .restoring) && (s.cores.all fun c => c.pq.isEmpty) && s.merges.isEmpty
  && s.shMsgs.isEmpty && s.shProcs.isEmpty && s.net.all fun k => !k.reply

/-! ## Idle levels (R359 to R361) -/

/-- The tolerance T, in µs. -/
def State.tolerance (s : State) : Nat :=
  (s.ctxs.filter fun c => c.st == .run).foldl (fun t c => min t c.lt) 4294967295

/-- Exit latencies in µs. -/
def exitUs (u : IdleUnit) : Nat :=
  match u with
  | .core _ => 2 | .sector _ => 20 | .hbm => 150 | .ports => 2000

/-- An access is homed in a sector: of a core, of the next chunk of a copy, of the next bale of a feeder, of another vchip, or of a line on
its way. -/
def State.sectorBusy (s : State) (sec : Nat) : Bool :=
  let here (k : LineKey) : Bool := !k.pod && s.homeSector k == sec
  let at_ (cx va : Nat) : Bool := match (s.engineKey cx va .quiet).2 with
    | .ok k => here k
    | .error _ => false
  (s.copies.any fun c => (!c.srcScratch && at_ c.cx (c.srcAt c.done)) || (!c.dstScratch && c.kind != .p && at_ c.cx (c.dstAt c.done)))
  || (s.circuits.any fun c => (c.st == .running || c.st == .stopping) && (match c.posOf c.lap c.ord with
      | (layer, bale) => ((c.layers[layer]?).map fun e => at_ c.cx (e.1 + Config.baleBytes * bale)).getD false))
  || (s.net.any fun k => !k.reply && (match k.body with
      | .load _ a _ | .merge _ a _ _ _ _ | .atomic _ _ a _ _ _ _ | .watch _ a _ _ _ _ | .openWrite _ a _ _ _ _ _ _ _ _ _
      | .pinned _ _ a _ _ _ => at_ k.cxid (podLocal a)
      | .sheaf .. | .sealMember .. | .send .. | .hint .. | .rData .. | .rAtomic .. | .rAck _ | .rNack .. | .rReject .. | .rWatch ..
      | .rSheaf .. | .rPinned .. | .rPoison .. | .rFull _ | .ack _ => false))
  || (s.cores.any fun c => c.pq.any fun e => here e.key) || (s.merges.any fun m => here m.key)
  || (s.fills.any fun f => here f.key) || (s.cfills.any fun f => here f.key || f.sector == sec)
  || s.ops.any fun o => match o.kind with
    | .load _ _ _ _ lines _ => lines.any fun l => here l.key
    | .atom _ _ _ _ _ _ lanes => lanes.any fun l => l.ctl.isSome || here l.key
    | .watch _ k .. => here k
    | .shld _ _ _ _ lanes => lanes.any fun l => here l.1.key
    | _ => false

/-- The condition of a unit's level. -/
def State.idleCond (s : State) (u : IdleUnit) : Bool :=
  let stopped (v : IdleUnit) : Bool := s.modl.idle.contains v
  match u with
  | .core n =>
    !(s.groups.any fun (g : Group) => g.ref.core == n) && (s.core n).jobs.isEmpty && decide ((s.core n).seqFree ≤ s.cycle)
    && !(s.copies.any fun (c : Copy) => c.grp.core == n)
  | .sector sec => decide (sec < 6)
    && ((List.range 128).all fun i => !s.corePresent (128 * sec + i) || stopped (.core (128 * sec + i))) && !s.sectorBusy sec
  | .hbm =>
    ((List.range 6).all fun sec => stopped (.sector sec))
    && !(s.circuits.any fun c => c.st == .running || c.st == .stopping)
    && !(s.ctxs.any fun c => c.st == .sealing || c.st == .restoring) && s.net.isEmpty
  | .ports => stopped .hbm && s.sent.isEmpty

/-- The levels that a wake of a unit leaves: the unit's own and every deeper one. -/
def wakes (u v : IdleUnit) : Bool :=
  match u, v with
  | .core a, .core b => a == b
  | .core a, .sector b => a / 128 == b
  | .sector a, .sector b => a == b
  | .core _, .hbm | .core _, .ports | .sector _, .hbm | .sector _, .ports | .hbm, .hbm | .hbm, .ports | .ports, .ports => true
  | .sector _, .core _ | .hbm, .core _ | .hbm, .sector _ | .ports, .core _ | .ports, .sector _ | .ports, .hbm => false

def State.wakeUnit (s : State) (u : IdleUnit) : State :=
  { s with modl := { s.modl with idle := s.modl.idle.filter fun v => !wakes u v } }

/-- Units whose level's condition no longer holds, or whose exit takes longer than the tolerance, are awake (R359, R360). -/
def State.wakeNeeded (s : State) : State :=
  s.modl.idle.foldl (fun s u => if decide (exitUs u ≤ s.tolerance) && s.idleCond u then s else s.wakeUnit u) s

/-- The times at which a dependence on time, a NOTBEFORE or a PACED lap start falls due. -/
def State.dueTimes (s : State) : List Nat :=
  (s.kernels.flatMap fun k => k.deps.filterMap fun d => match d with
    | .gtime t => some t
    | .kdone .. | .ktrig .. | .shver .. | .lap .. => none)
  ++ s.circuits.filterMap fun c => if c.mode == 2 && c.st == .running && !c.begun then some (c.epoch + c.lap * c.period) else none

def State.dueAt (s : State) (t : Nat) : Bool := s.dueTimes.contains t

/-- A due time lies within a unit's exit latency: the unit is in use then, and is not stopped before it (R361). -/
def State.soonDue (s : State) (u : IdleUnit) : Bool :=
  s.dueTimes.any fun t => decide (s.gtime ≤ t) && decide (t ≤ s.gtime + 1000 * exitUs u)

/-- The units that an event needs (R360): an arriving packet its port, and memory with the sector of its line; a doorbell, an access of the
host and a context command memory (DEDUCED, log 37). -/
def State.neededBy (s : State) (a : Act) : List IdleUnit :=
  let step (i : Instr) : List IdleUnit :=
    match i with
    | .packetIngress _ => IdleUnit.ports :: .hbm :: (filterRange 6 fun sec => s.sectorBusy sec).map IdleUnit.sector
    | .packetAck _ | .retransmit _ | .portTrained .. => [.ports]
    | .registerWrite .. | .doorbell .. | .qbaseQsizeWrite .. | .pause _ | .resume _ | .clearerr _ | .bind _ | .lock _ | .unlock _
    | .start _ | .sealCx _ | .restore _ | .reset _ | .flr _ | .retire _ | .release _ | .stop _ | .lockInterfaceRequest ..
    | .startInterfaceRequest .. | .stopInterfaceRequest .. | .vpod _ | .vkey _ | .addlocal _ | .addfar _ | .remove _ | .reclaim _
    | .sdcreate _ | .sdbind _ | .launch _ | .spdmMessage _ => [.hbm]
    | _ => []
  match a with
  | .event i | .access _ i => step i
  | .issue .. | .ambient .. | .upset .. | .ideFailure _ | .credit .. | .mctp .. => []

/-- What an event needs is awake behind it. -/
def State.wakeFor (s before : State) (a : Act) : State :=
  if s.modl.idle.isEmpty then s else (before.neededBy a).foldl (fun s u => s.wakeUnit u) s

/-- What still runs in recovery state: the MC, the SPDM responders, the messages of R366, and what happens to memory (R364). -/
def Act.inRecovery (a : Act) : Bool :=
  match a with
  | .mctp .. | .ambient _ | .upset .. => true
  | .event i | .access _ i => match i with
    | .spdmMessage _ | .groupkill .. | .kabort .. | .cxreset _ | .vflr _ | .warmreset _ | .status _ | .deviceStart _ => true
    | _ => false
  | .issue .. | .ideFailure _ | .credit .. => false

end Sys2Proof.Machine
end

