-- ==== Sys2Proof/Machine/PowerEvents.lean ====
section
/-! DEFINITION. The recovery commands (spec/18_operation.md R366 to R368), idle levels, power capping and the start of the device as
steps. -/

namespace Sys2Proof.Machine

def recOk : Nat := 0
def recBadop : Nat := 1
def recBadcxid : Nat := 2
def recNotarget : Nat := 3
def recBusy : Nat := 4
def recBadstate : Nat := 5

def State.recReply (s : State) (code : Nat) : State := s.emit (.recoveryReply code 0 none)

/-- A recovery command on a context: only in an authenticated session, and not while a warm reset goes on (R366, R367). -/
def State.recovery (s : State) (cxid : Nat) (k : Context → State) : State :=
  if !(s.modl.sessions.any fun x => x.authenticated) then s
  else if s.modl.recovering.isSome then s.recReply recBusy
  else
    match s.ctx? cxid with
    | none => s.recReply recBadcxid
    | some c => if cxid ≥ s.bar.dirN.toNat then s.recReply recBadcxid else k c

/-- The groups of a kernel that stand in saved images (R117, R146). -/
def State.savedGroups (s : State) (cx kernel : Nat) : List Group :=
  ((s.images.filter fun i => i.cx == cx).flatMap (·.groups)).filter fun g => g.kernel == kernel

/-- A KILL record of a group (R158). -/
def State.killRecord (s : State) (g : Group) : State :=
  s.kernelFault g.cx g.kernel { type := 6, kernel := g.kernel, wg := g.wg, gidx := g.gidx, core := g.ref.core }

/-- GROUPKILL (R366). -/
def execGroupkill (cxid core gctx : Nat) (s : State) : Out :=
  .next (s.recovery cxid fun c =>
    match s.groups.find? fun g => g.ref == ({ core := core, gctx := gctx } : GRef) && g.cx == c.cxid with
    | none => s.recReply recNotarget
    | some g => ((s.killGroup g.ref).killRecord g).recReply recOk)

/-- KABORT (R366): a KILL record for each group of the kernel, a RESERVED one too, as GROUPKILL of one writes it (DESIGN CHOICE, log 52). -/
def execKabort (cxid kernel : Nat) (s : State) : Out :=
  .next (s.recovery cxid fun c =>
    match s.kernel? c.cxid kernel with
    | none => s.recReply recNotarget
    | some _ =>
      let gs := s.groups.filter (fun (g : Group) => g.cx == c.cxid && g.kernel == kernel)
        ++ s.savedGroups c.cxid kernel
      ((gs.foldl State.killRecord s).abortKernel c.cxid kernel).recReply recOk)

/-- A context event whose refusal is BADSTATE. -/
def State.recEvent (s : State) (r : State × Option Nat) : State :=
  match r with
  | (s1, some 0) => s1.recReply recOk
  | _ => s.recReply recBadstate

/-- CXRESET (R366). -/
def execCxreset (cxid : Nat) (s : State) : Out := .next (s.recovery cxid fun c => s.recEvent (s.resetEv c))

/-- VFLR (R366). -/
def execVflr (cxid : Nat) (s : State) : Out := .next (s.recovery cxid fun c => s.recEvent (s.flrEv c))

/-- STATUS: the state and the last boot step log entry (R366). -/
def execStatus (cxid : Nat) (s : State) : Out :=
  .next (s.recovery cxid fun c => s.emit (.recoveryReply recOk (cxCode c.st) s.modl.bootLog.getLast?))

/-- The end of a warm reset, when it can come. -/
def State.warmEnd (s : State) : State :=
  match s.modl.warmIn with
  | none => s
  | some inp => if s.warmReady then (s.warmRestart inp).recReply recOk else s

/-- WARMRESET (R368): contexts are sealed or reset; as soon as the sealing has ended the device starts again. One that arrives meanwhile is
BUSY (R367). -/
def execWarmreset (inp : StartIn) (s : State) : Out :=
  .next (
    if !(s.modl.sessions.any fun x => x.authenticated) then s
    else if s.modl.recovering.isSome then s.recReply recBusy
    else (({ s with modl := { s.modl with recovering := some (0, 5), warmIn := some inp } } : State).warmBegin).warmEnd)

/-- A recovery message as its bytes, on a session that has authenticated its requester: the command it holds, or BADOP for a reserved
command or a nonzero reserved byte or argument bit (R366). -/
def execRecovery (session : Nat) (command zero : Byte) (cxid : Nat) (arg : DWord) (inp : StartIn) (s : State) : Out :=
  let bad : Out := .next (s.recReply recBadop)
  if !(s.modl.sessions.any fun x => x.id == session && x.authenticated) then .next s
  else if zero ≠ 0 then bad
  else
    let no (r : Out) : Out := if arg = 0 then r else bad
    match command.toNat with
    | 1 => if arg.extractLsb' 15 49 = 0 then
        execGroupkill cxid (arg.extractLsb' 0 10).toNat (arg.extractLsb' 10 5).toNat s else bad
    | 2 => if arg.extractLsb' 32 32 = 0 then execKabort cxid (arg.extractLsb' 0 32).toNat s else bad
    | 3 => no (execCxreset cxid s)
    | 4 => no (execVflr cxid s)
    | 5 => no (if s.modl.recovering.isNone && (decide (cxid ≥ s.bar.dirN.toNat) || (s.ctx? cxid).isNone) then .next (s.recReply recBadcxid)
        else execWarmreset inp s)
    | 6 => no (execStatus cxid s)
    | _ => bad

/-- IDLE_LEVEL_ENTRY: a unit is held stopped while its level's exit latency is within T and its condition holds (R359). -/
def execIdleLevelEntry (u : IdleUnit) (s : State) : Out :=
  .next (if decide (exitUs u ≤ s.tolerance) && s.idleCond u && !s.soonDue u && !s.modl.idle.contains u then
    { s with modl := { s.modl with idle := s.modl.idle ++ [u] } } else s)

/-- IDLE_LEVEL_EXIT (R360). -/
def execIdleLevelExit (u : IdleUnit) (s : State) : Out := .next (s.wakeUnit u)

/-- IDLE_PREWAKE: the exit begins its latency before the due time (R361). -/
def execIdlePrewake (u : IdleUnit) (due : DWord) (s : State) : Out :=
  .next (if s.dueAt due.toNat && decide (s.gtime ≤ due.toNat) && decide (due.toNat ≤ s.gtime + 1000 * exitUs u) then s.wakeUnit u else s)

/-- POWER_CAP: the MC begins or ends the insertion of idle issue slots (R19). -/
def execPowerCap (on : Bool) (s : State) : Out := .next { s with modl := { s.modl with powerCapped := on } }

/-- DEVICE_START (R362 to R365). -/
def execDeviceStart (inp : StartIn) (s : State) : Out := .next (s.deviceStart inp)

end Sys2Proof.Machine
end

