-- ==== Sys2Proof/Machine/TileEvents.lean ====
section
/-! DEFINITION. The steps of the matrix sequencer and of the fill ports (spec/15_tile.md R300 to R303, R308). -/

namespace Sys2Proof.Machine

/-- The cycle in which the next job starts (R301). -/
def Core.startCycle (c : Core) (j : Job) : Nat := max (j.issued + 4) c.seqFree

/-- Cycles of a .. b - 1 in which the sequencer ran jobs of other groups (R301). -/
def Core.conflicts (c : Core) (r : GRef) (a b : Nat) : Nat :=
  (c.past.filter fun p => p.1 != r).foldl (fun n p => n + (min b p.2.2 - max a p.2.1)) 0

/-- The first job that has not started takes its start and the slots that it reads. -/
def startFirst (st : Nat) (slots : List (Nat × Slot)) : List Job → List Job
  | [] => []
  | j :: rest =>
    if j.start.isSome then j :: startFirst st slots rest
    else
      { j with start := some st,
               tiles := slots.filter fun e => (List.range (min 8 j.steps)).any fun n => j.slotOf n == e.1 } :: rest

/-- MMA_JOB_START: the first job that has not started does so, once its cycle has come (R301). -/
def execMmaJobStart (core : Nat) (s : State) : Out :=
  .next (
    let c := s.core core
    match c.jobs.find? fun j => j.start.isNone with
    | none => s
    | some j =>
      let st := c.startCycle j
      if s.cycle < st then s
      else
        let stop := st + 128 * j.steps
        let s1 := s.updGroup j.grp fun g =>
          { g with mconf := BitVec.ofNat 32 (min (2 ^ 32 - 1) (g.mconf.toNat + c.conflicts j.grp (j.issued + 4) st)) }
        s1.updCore core fun c =>
          { c with jobs := startFirst st c.slots c.jobs, seqFree := stop, past := c.past ++ [(j.grp, st, stop)] })

/-- The result row m of MMAG: 64 FP32 words (R307). -/
def Core.gatherRow (c : Core) (j : Job) (r : QRec) (m : Nat) : List Word :=
  c.jobRow j r (j.steps * blocksOf r.fmt) m (List.replicate 64 0)

/-- Half h of the scatter of MMAG: 32 words of a row, each stored, or added in FP32 under RNE (R62, R307). The words of a row's first half
are written in the first of its two cycles (DESIGN CHOICE, log 54). -/
def scatterHalf (j : Job) (row : List Word) (x h : Nat) (a : Workgroup × List (Nat × Word × Word)) : Workgroup × List (Nat × Word × Word) :=
  (((row.zipIdx).drop (32 * h)).take 32).foldl (fun a e =>
    let at_ := x + 4 * e.2
    let y : Word := BitVec.ofNat 32 (a.1.nat at_ 4)
    let v : Word := if j.st then e.1 else BitVec.ofNat 32 (addF fp32 .rne (dec32 y) (dec32 e.1)).1
    (a.1.putBytes at_ (leBytes 4 v.toNat), (at_, y, v) :: a.2)) a

/-- The halves of a job's scatter from those that it has written up to the first n, in ascending m (R301). -/
def State.scatterTo (s : State) (core : Nat) (j : Job) (r : QRec) (n : Nat) : State :=
  match j.gather, (s.group? j.grp).bind fun g => (s.wgOf g).map fun w => (g, w) with
  | some (_, xs), some (g, w) =>
    let todo := (List.range n).drop j.halves
    let (w1, undo) := todo.foldl (fun a h =>
      match j.rows[h / 2]? with
      | none => a
      | some m => scatterHalf j ((s.core core).gatherRow j r m) (xs.getD m 0) (h % 2) a) (w, j.undo)
    (s.updWgOf g fun _ => w1).updCore core fun c =>
      { c with jobs := match c.jobs with
          | [] => []
          | x :: rest => { x with halves := n, undo := undo } :: rest }
  | _, _ => s

/-- The results of a job that ends: the drains into C, or the rest of MMAG's scatter (R301, R306, R307). -/
def State.jobResult (s : State) (core : Nat) (j : Job) (r : QRec) : State :=
  match j.gather with
  | none => s.updGroup j.grp fun g => (s.core core).drainJob j (j.steps * blocksOf r.fmt) g
  | some _ => s.scatterTo core j r (2 * j.rows.length)

/-- The cycle of the next half of the scatter of the oldest job, if it scatters (R301). -/
def Core.scatterDue (c : Core) : Option Nat :=
  match c.jobs with
  | [] => none
  | j :: _ => match j.start, c.rec? j.q with
    | some st, some r =>
      if j.gather.isNone || decide (2 * j.rows.length ≤ j.halves) then none
      else some (st + 128 * (j.steps - 1) + 131 + blocksOf r.fmt + j.halves)
    | _, _ => none

/-- The next half of the scatter of the oldest job. -/
def State.scatterStep (s : State) (core : Nat) : State :=
  match (s.core core).jobs with
  | [] => s
  | j :: _ => match (s.core core).rec? j.q with
    | none => s
    | some r => s.scatterTo core j r (j.halves + 1)

/-- One job of an operation ends; the last clears the flag (R300). -/
def State.jobOver (s : State) (op : Nat) : State :=
  match s.op? op with
  | none => s
  | some o =>
    match o.kind with
    | .mma n => if n ≤ 1 then s.finishOp op else s.updOp op fun o => { o with kind := .mma (n - 1) }
    | _ => s

/-- MMA_JOB_END: the oldest job ends, once its cycle has come (R301). -/
def execMmaJobEnd (core : Nat) (s : State) : Out :=
  .next (
    let c := s.core core
    match c.jobs with
    | [] => s
    | j :: rest =>
      match j.start, c.rec? j.q with
      | some st, some r =>
        if s.cycle < j.endCycle st (blocksOf r.fmt) then s
        else
          let s1 := s.jobResult core j r
          (s1.updCore core fun c => { c with jobs := rest, past := if rest.isEmpty then [] else c.past }).jobOver j.op
      | _, _ => s)

/-- MRES_FILL_DONE: a record is ready 4 + 2 × rows cycles after its MRES (R303). -/
def execMresFillDone (core k : Nat) (s : State) : Out :=
  .next (match (s.core core).rec? k with
    | none => s
    | some r =>
      match r.filling with
      | none => s
      | some (_, t) => if s.cycle < t + 4 + 2 * r.rows then s else s.fillRec core k)

/-- WLOAD_FILL_DONE: at the latest 136 cycles after its WLOAD (R308). -/
def execWloadFillDone (core slot : Nat) (s : State) : Out := .next (s.fillSlot core slot)

end Sys2Proof.Machine
end

