-- ==== Sys2Proof/Machine/Uniform.lean ====
section
/-! DEFINITION. The uniform instructions (spec/07_group.md R131, R132). -/

namespace Sys2Proof.Machine

/-- A uniform instruction of two sources (R131). -/
def ubin (s : State) (i : Instr) (d a : BitVec 6) (b : UOpnd) (f : Word → Word → Word) : Out :=
  uniOp s i ((uopndUses b).append (useS [d.toNat, a.toNat])) d.toNat fun g _ => f (g.getS a.toNat) (uval g b)

/-- SADD (R131). -/
def execSadd (sat : Bool) (d a : BitVec 6) (b : UOpnd) (s : State) : Out :=
  ubin s (.sadd sat d a b) d a b fun x y => if sat then satS32 (x.toInt + y.toInt) else x + y

/-- SSUB (R131). -/
def execSsub (sat : Bool) (d a : BitVec 6) (b : UOpnd) (s : State) : Out :=
  ubin s (.ssub sat d a b) d a b fun x y => if sat then satS32 (x.toInt - y.toInt) else x - y

/-- SMUL: the low or the signed high word (R131). -/
def execSmul (hi : Bool) (d a : BitVec 6) (b : UOpnd) (s : State) : Out :=
  ubin s (.smul hi d a b) d a b fun x y => if hi then BitVec.ofInt 32 (x.toInt * y.toInt / 2 ^ 32) else x * y

/-- SAND (R131). -/
def execSand (d a : BitVec 6) (b : UOpnd) (s : State) : Out := ubin s (.sand d a b) d a b fun x y => x &&& y

/-- SOR (R131). -/
def execSor (d a : BitVec 6) (b : UOpnd) (s : State) : Out := ubin s (.sor d a b) d a b fun x y => x ||| y

/-- SXOR (R131). -/
def execSxor (d a : BitVec 6) (b : UOpnd) (s : State) : Out := ubin s (.sxor d a b) d a b fun x y => x ^^^ y

/-- SSHL (R131). -/
def execSshl (d a : BitVec 6) (b : UOpnd) (s : State) : Out := ubin s (.sshl d a b) d a b shlW

/-- SSHR: zero or sign fill (R131). -/
def execSshr (ar : Bool) (d a : BitVec 6) (b : UOpnd) (s : State) : Out :=
  ubin s (.sshr ar d a b) d a b fun x y => if ar then sarW x y else shrW x y

/-- SMIN (R131). -/
def execSmin (u : Bool) (d a : BitVec 6) (b : UOpnd) (s : State) : Out :=
  ubin s (.smin u d a b) d a b fun x y => if (if u then x.ule y else x.sle y) then x else y

/-- SMAX (R131). -/
def execSmax (u : Bool) (d a : BitVec 6) (b : UOpnd) (s : State) : Out :=
  ubin s (.smax u d a b) d a b fun x y => if (if u then y.ule x else y.sle x) then x else y

/-- SCMP: -1, 0 or 1 (R131). -/
def execScmp (u : Bool) (d a : BitVec 6) (b : UOpnd) (s : State) : Out :=
  ubin s (.scmp u d a b) d a b fun x y =>
    if x = y then 0 else if (if u then x.ult y else x.slt y) then 0xFFFFFFFF else 1

/-- SMOV (R131). -/
def execSmov (d : BitVec 6) (b : UOpnd) (s : State) : Out :=
  uniOp s (.smov d b) ((uopndUses b).append (useS [d.toNat])) d.toNat fun g _ => uval g b

/-- SLEA: a pair plus the sign-extended B, times 4 in the .x4 form (R131). -/
def execSlea (x4 : Bool) (d a : BitVec 5) (b : UOpnd) (s : State) : Out :=
  issue s (.slea x4 d a b) ((uopndUses b).append (useS (pairRegs d.toNat ++ pairRegs a.toNat))) fun g p =>
    let x : DWord := (uval g b).signExtend 64
    (s.updGroup g.ref fun h => h.setSPair d.toNat (g.getSPair a.toNat + (if x4 then x * 4 else x))).done g p (.slea x4 d a b)

/-- MOP of two mask sources (R132). -/
def mop2 (s : State) (i : Instr) (d a b : BitVec 3) (f : Word → Word → Word) : Out :=
  maskOp s i (useM [d.toNat, a.toNat, b.toNat]) d.toNat fun g _ => f (g.getM a.toNat) (g.getM b.toNat)

/-- MOP.and (R132). -/
def execMopAnd (d a b : BitVec 3) (s : State) : Out := mop2 s (.mopAnd d a b) d a b fun x y => x &&& y

/-- MOP.or (R132). -/
def execMopOr (d a b : BitVec 3) (s : State) : Out := mop2 s (.mopOr d a b) d a b fun x y => x ||| y

/-- MOP.xor (R132). -/
def execMopXor (d a b : BitVec 3) (s : State) : Out := mop2 s (.mopXor d a b) d a b fun x y => x ^^^ y

/-- MOP.not (R132). -/
def execMopNot (d a : BitVec 3) (s : State) : Out :=
  maskOp s (.mopNot d a) (useM [d.toNat, a.toNat]) d.toNat fun g _ => ~~~(g.getM a.toNat)

/-- MOP.m2s (R132). -/
def execMopM2s (d : BitVec 6) (a : BitVec 3) (s : State) : Out :=
  uniOp s (.mopM2s d a) { s := [d.toNat], m := [a.toNat] } d.toNat fun g _ => g.getM a.toNat

/-- MOP.s2m (R132). -/
def execMopS2m (d : BitVec 3) (a : BitVec 6) (s : State) : Out :=
  maskOp s (.mopS2m d a) { s := [a.toNat], m := [d.toNat] } d.toNat fun g _ => g.getS a.toNat

/-- MOP.cnt (R132). -/
def execMopCnt (d : BitVec 6) (a : BitVec 3) (s : State) : Out :=
  uniOp s (.mopCnt d a) { s := [d.toNat], m := [a.toNat] } d.toNat fun g _ => BitVec.ofNat 32 (popc (g.getM a.toNat))

/-- MOP.exec (R132). -/
def execMopExec (d : BitVec 3) (s : State) : Out := maskOp s (.mopExec d) (useM [d.toNat]) d.toNat fun _ p => p.exec

end Sys2Proof.Machine
end

