-- ==== Sys2Proof/Machine/Visibility.lean ====
section
/-! DEFINITION. PHASE, REL, ACQ and FLUSHL (spec/10_phase.md R197 to R200). -/

namespace Sys2Proof.Machine

/-- An ACQ of the issuing split: at cluster scope and wider the split stalls for 16 cycles (R198). -/
def acquired (s : State) (g : Group) (p : Split) (i : Instr) (sc : Scope) : State :=
  let s1 := (s.acquire g.ref.core sc).done g p i
  if wideScope sc then s1.updSplit g.ref p.id fun q => { q with yieldTo := s.cycle + 16 } else s1

/-- PHASE: a release, then an acquire (R198). -/
def execPhase (sc : Scope) (s : State) : Out :=
  issue s (.phase sc) {} fun g p => released s g p sc (acquired s g p (.phase sc) sc)

/-- REL (R198). -/
def execRel (sc : Scope) (s : State) : Out := issue s (.rel sc) {} fun g p => released s g p sc (s.done g p (.rel sc))

/-- ACQ (R198). -/
def execAcq (sc : Scope) (s : State) : Out := issue s (.acq sc) {} fun g p => acquired s g p (.acq sc) sc

def FlushMode.publishes : FlushMode → Bool
  | .pub | .both => true
  | .drop => false

def FlushMode.drops : FlushMode → Bool
  | .drop | .both => true
  | .pub => false

/-- A line of FLUSHL lies in a page in migration, so that its access waits (R316). -/
def State.flushWaits (s : State) (g : Group) (base n : Nat) : Bool :=
  (List.range n).any fun j => match (s.resolve g none ((base + 128 * j) % 2 ^ 64) .quiet).2 with
    | .error .wait => true
    | .ok _ | .error _ => false

/-- The lines of FLUSHL in the pages that translate, and the state behind their walks (R200, R316). -/
def State.flushKeys (s : State) (g : Group) (base n : Nat) : State × List LineKey :=
  (List.range n).foldl (fun acc j =>
    match acc.1.resolve g none ((base + 128 * j) % 2 ^ 64) .touch with
    | (s1, .ok k) => (s1, acc.2 ++ [k])
    | (_, .error _) => acc) (s, [])

/-- The lines of a core without dirty bytes leave its L1 (R200, R209 drop). -/
def Core.dropLines (c : Core) (ks : List LineKey) : Core :=
  { c with l1 := c.l1.filter fun l => !(l.dirty == 0 && ks.any fun k => l.key.same k) }

/-- FLUSHL (R200): pub waits until the publications of the lines complete; its reference to a line is a *hit* (R209). -/
def execFlushl (n : BitVec 7) (mode : FlushMode) (a : BitVec 5) (s : State) : Out :=
  let i : Instr := .flushl n mode a
  issue s i (useS (pairRegs a.toNat)) fun g p =>
    match p.wait with
    | .marker pq stsr pkts core => if s.markerDone pq stsr pkts core then s.done g p i else s
    | _ =>
      let base := (g.getSPair a.toNat).toNat / 128 * 128
      if s.flushWaits g base (n.toNat + 1) then s.stall g p .poll else
      let (s0, ks) := s.flushKeys g base (n.toNat + 1)
      let s1 := s0.updCore g.ref.core fun c => if FlushMode.drops mode then c.dropLines ks else c.hitLines ks s.cycle
      let ids := ((s.core g.ref.core).pq.filter fun e => ks.any fun k => e.key.same k).map (·.id)
      if FlushMode.publishes mode && !ids.isEmpty then s1.stall g p (.marker ids [] [] g.ref.core) else s1.done g p i

end Sys2Proof.Machine
end

