-- ==== Sys2Proof/Machine/WindrowEvents.lean ====
section
/-! DEFINITION. The steps of feeders, ring and taps (spec/14_windrow.md R276 to R286). -/

namespace Sys2Proof.Machine

/-! ## Injection -/

/-- LAP_START: a PACED circuit begins its lap at EPOCH + lap × PERIOD, and its new pace applies (R280, R282). -/
def execLapStart (k : Nat) (s : State) : Out :=
  .next (match s.circuits[k]? with
    | none => s
    | some c =>
      if c.mode == 2 && (c.st == .running || c.st == .stopping) && !c.begun && decide (s.gtime ≥ c.epoch + c.lap * c.period) then
        s.updCirc c.id fun c => { c with begun := true, pace := c.nextPace.getD c.pace, nextPace := none }
      else s)

/-- The lane of the next bale (R276). -/
def Circuit.nextLane (c : Circuit) : Nat :=
  let ls := filterRange 8 fun l => c.lanes.getLsbD l
  ls.getD (c.ord % ls.length) 0

def Circuit.lastOn (c : Circuit) (lane : Nat) : Option Nat := (c.lastInject.find? fun e => e.1 == lane).map (·.2)

/-- The feeder may inject, as far as its own circuit says: the lap, the pace, no held header, and no late read (R276, R282). -/
def Circuit.mayInject (c : Circuit) (now : Nat) : Bool :=
  (c.st == .running || c.st == .stopping) && c.begun && decide (c.ord < c.bales)
  && !(c.ring.any fun b => b.heldAt.isSome)
  && (c.late.all fun e => !(e.1 == c.lap && e.2.1 == c.ord) || decide (e.2.2 ≤ now))
  && (c.pace == 0 || decide ((c.recent.filter fun t => decide (now < t + 2250)).length < c.pace))

/-- The lane is free for the circuit: 17 cycles after the last header, and in turn with the circuits that share it (R276, R279). -/
def State.laneFree (s : State) (c : Circuit) : Bool :=
  let l := c.nextLane
  s.circuits.all fun x =>
    ((x.lastOn l).map fun t => decide (t + 17 ≤ s.cycle)).getD true
    && (x.id == c.id || !(x.mayInject s.cycle && x.nextLane == l)
        || (match c.lastOn l, x.lastOn l with
            | none, _ => true
            | some _, none => false
            | some a, some b => decide (a ≤ b)))

/-- A bale record as the feeder reads it: its bytes and whether every line read well; none: lines of the pod are still missing. -/
def State.readBale (s : State) (c : Circuit) (va : Nat) : State × Option (List Byte × Bool) :=
  if regionOf va != .pod then
    match s.engineRead c.cx va Config.baleBytes with
    | (s1, some bs) => (s1, some (bs, true))
    | (s1, none) => (s1, some (List.replicate Config.baleBytes 0, false))
  else if c.feed.length ≥ 136 then
    (s, some (c.feed.flatMap fun e => lineBytes e.1, c.feed.all fun e => !e.2))
  else if c.feedWait then (s, none)
  else
    let a := va + 128 * c.feed.length
    let s1 := s.updCirc c.id fun x => { x with feedWait := true }
    (s1.podRequest c.cx (podVchip a) a (.feeder c.id) fun r => .load r a false, none)

/-- The bale that a record gives, before its MAC and CRC (R275, R286). -/
def baleOf (c : Circuit) (bs : List Byte) (ok : Bool) (now : Nat) : Bale :=
  let (layer, bale) := c.posOf c.lap c.ord
  let f := ((bs.getD 2 0).toNat)
  let good := ok && decide (f < 16) && (match decFmt (BitVec.ofNat 4 f) with
    | .ok x => Fmt.matrix x
    | .error _ => false)
  { lap := c.lap, layer := layer, bale := bale, ord := c.ord, lane := c.nextLane, at_ := now, rev := c.reverse c.lap,
    scaled := (bs.getD 1 0).getLsbD 0, fmtCode := f,
    scales := ((bs.drop 0x20).take 128).map (·.toNat), tile := sputRun 0 [] 0 (bs.drop 1024), poison := !good,
    circ := c.engine, carried := (bs.drop 0xA0).take 832,
    addr := ((c.layers[layer]?).map fun e => e.1 + Config.baleBytes * bale).getD 0 }

/-- *lapend* of R280: the header of the lap's last bale has been injected. A circuit that this injection made FAULTED stays so. The pace of
a PACED circuit changes at its lap start. -/
def State.lapEnd (s : State) (id : Nat) : State :=
  match s.circuits.find? fun c => c.id == id with
  | none => s
  | some c =>
    if c.ord < c.bales then s.lapTests c
    else
      let next := max (c.lap + 1) c.skipTo
      let c0 := if c.mode = 2 then c else { c with pace := c.nextPace.getD c.pace, nextPace := none }
      let c1 := { c0 with lap := next % 2 ^ 32, ord := 0, begun := c.mode != 2 }
      let s1 := s.updCirc id fun _ => c1
      if c.st != .running && c.st != .stopping then s1.lapTests c1
      else if c.st == .stopping then s1.stopCircuit c1 .stopped
      else if c.lapLimit ≠ 0 ∧ next ≥ c.lapLimit then s1.stopCircuit c1 .ended
      else s1.lapTests c1

/-- BALE_INJECT: the feeder of circuit k puts its next bale on the ring; noise: the bits of it that a hop gets wrong (R276, R286). -/
def execBaleInject (k : Nat) (noise : HopNoise) (s : State) : Out :=
  .next (match s.circuits[k]? with
    | none => s
    | some c =>
      if !c.mayInject s.cycle || !s.laneFree c then s
      else
        let (layer, bale) := c.posOf c.lap c.ord
        let va := ((c.layers[layer]?).map fun e => e.1 + Config.baleBytes * bale).getD 0
        match (s.takeRequest c.cx (if regionOf va == .pod then [] else [clsHbm]) Config.baleBytes).map fun s => s.readBale c va with
        | none => s
        | some (s1, none) => s1
        | some (s1, some (bs, ok)) =>
          let key := ((s1.ctx? c.cx).map (·.memKey)).getD 0
          let b0 := { (baleOf c bs ok s.cycle).coded key with flips := noise.flips, hop := noise.hop }
          -- the first tap stands at the feeder: its hop's check comes in this cycle, before *lapend* (R281)
          let b := { b0 with poison := b0.poison || (b0.hop == 0 && !b0.crcOk 0) }
          let s2 := s1.updCirc c.id fun c =>
            { c with ring := c.ring ++ [b], ord := c.ord + 1, feed := [], feedWait := false,
                     late := c.late.filter fun e => !(e.1 == b.lap && e.2.1 == b.ord),
                     recent := s.cycle :: c.recent.filter fun t => decide (s.cycle < t + 2250),
                     lastInject := (b.lane, s.cycle) :: c.lastInject.filter fun e => e.1 != b.lane }
          let s3 := if b.poison then s2.corruptBale c.id b.layer b.bale b.lap else s2
          s3.lapEnd c.id)

/-! ## Taps -/

/-- The cycles until $GTIME has reached a time, at 4/9 ns a cycle and under the slew of a backward correction (R350, R351). -/
def State.cyclesUntil (s : State) (t : Nat) : Nat :=
  let need := (t - s.gtime) * 90000 - s.gtimeSub
  min ((need + s.slew + 39999) / 40000) ((need + 39995) / 39996)

/-- The cycle in which the current lap begins, or began. -/
def State.lapFrom (s : State) (c : Circuit) : Nat :=
  s.cycle + (if c.begun then 0 else s.cyclesUntil (c.epoch + c.lap * c.period))

/-- The cycle in which a bale of the current lap is injected when the feeder's reads keep pace: its lane's 17 cycles, the pace cap, the
lap's start and the reads that are known to be late; n: the cycle from which the first of them may be injected (R276, R282). -/
def Circuit.injectAt (c : Circuit) (o n : Nat) : Nat :=
  let ls := filterRange 8 fun l => c.lanes.getLsbD l
  ((List.range (o - c.ord + 1)).foldl (fun (a : Nat × List (Nat × Nat) × List Nat) j =>
    let p := c.ord + j
    let l := ls.getD (p % ls.length) 0
    let onLane := ((a.2.1.find? fun e => e.1 == l).map fun e => e.2 + 17).getD 0
    let capped := if c.pace = 0 then 0 else ((a.2.2[c.pace - 1]?).map fun t => t + 2250).getD 0
    let late := ((c.late.find? fun e => e.1 == c.lap && e.2.1 == p).map fun e => e.2.2).getD 0
    let t := max a.1 (max onLane (max capped late))
    (t, (l, t) :: a.2.1, t :: a.2.2)) (n, c.lastInject, c.recent)).1

/-- The cycles by which a HELD stall in progress moves the circuit's ring (R282). -/
def State.stallOf (s : State) (c : Circuit) : Nat :=
  match c.ring.find? fun b => b.heldAt.isSome with
  | none => 0
  | some b => max s.cycle (s.heldUntil b) - (b.at_ + transit (b.heldAt.getD 0))

/-- The arrival of a header at a tap is certain: it is on the ring, and no header of the circuit is ever held. -/
def Circuit.certain (c : Circuit) (cl lap o : Nat) : Bool :=
  c.mode != 1 && c.ring.any fun b => b.lap == lap && b.ord == o && !b.passed.getLsbD cl

/-- The cycle in which the header of a bale of the lap at the tap reaches the tap, as the ring, its stall and the feeder stand; late says
by how many cycles from now the feeder's reads and later stalls hold it back at least (log 50). -/
def State.headerDue (s : State) (c : Circuit) (cl lap o late : Nat) : Nat :=
  let d := s.stallOf c
  match c.ring.find? fun b => b.lap == lap && b.ord == o && !b.passed.getLsbD cl with
  | some b => if c.mode = 1 then max (s.cycle + late) (b.at_ + transit cl + d) else b.at_ + transit cl
  | none =>
    let c1 : Circuit := { c with lastInject := c.lastInject.map fun e => (e.1, e.2 + d) }
    max (s.cycle + late) (c1.injectAt o (max (s.lapFrom c) (if d = 0 then 0 else s.cycle)) + transit cl)

/-- The target lap of a board that arms now, and whether it missed the current lap (R284). A board that waits at a miss takes the current
lap while its header has not arrived and the cycle of that is not certain: a miss is then found as the header arrives. -/
def State.boardTarget (s : State) (c : Circuit) (cl layer bale late : Nat) (nw : Bool) : Nat × Bool :=
  let (lap, pos) := c.tapPos cl
  let o := c.ordOf lap layer bale
  if decide (pos ≤ o) && ((!nw && !c.certain cl lap o) || decide (s.cycle + 64 ≤ s.headerDue c cl lap o late)) then (lap, false)
  else ((lap + 1) % 2 ^ 32, true)

/-- The read of a bale that is not injected is late: it is not injected before the cycle that a board's target counts on. -/
def Circuit.holdRead (c : Circuit) (cl layer bale late now : Nat) : Circuit :=
  let (lap, _) := c.tapPos cl
  let o := c.ordOf lap layer bale
  if late = 0 || c.lap != lap || decide (o < c.ord) then c else { c with late := (lap, o, now + late - transit cl) :: c.late }

/-- A board at its cluster's tap (R283, R284). late: the cycles by which the feeder's read of its bale is late. -/
def State.armBoard (s1 : State) (a : ArmMsg) (late : Nat) : State :=
  let core := a.grp.core
  let cl := coreCluster core
  let sl := (s1.core core).slot a.slot
  let early (code : Nat) : State := s1.boardDone a.op a.lowest 0 code
  match s1.circ? a.cx a.circ with
  | none => early boardNocirc
  | some c =>
    if c.over then early boardEnded
    else
      match c.layers[a.layer]? with
      | none => early boardBadpos
      | some e =>
        if a.bale ≥ e.2 then early boardBadpos
        else if (sl.owner.map fun r => r != a.grp).getD false then early boardSlotOwned
        else if sl.board.isSome then early boardSlotArmed
        else
          let (lap, missed) := s1.boardTarget c cl a.layer a.bale late a.nw
          let b : Board := { st := .armed, op := a.op, lowest := a.lowest, circ := c.id, layer := a.layer, bale := a.bale,
                             nw := a.nw, target := lap, armed := s1.cycle }
          let sl1 := { sl with owner := some a.grp, st := if sl.st == .free then .empty else sl.st, board := some b }
          let s2 := (s1.updCirc c.id fun c => c.holdRead cl a.layer a.bale late s1.cycle).updCore core fun co => co.setSlot a.slot sl1
          if missed && a.nw then s2.endBoard core a.slot 0 boardMiss else s2

/-- ARM: a board reaches the tap 8 cycles after its issue, the boards of one BOARD in the order of their lanes (R283, R288). An UNBOARD on
the same way cancels there, and its reply is back 8 cycles later (R289). -/
def execArm (k late : Nat) (s : State) : Out :=
  .next (match s.arms[k]? with
    | none => s
    | some a =>
      let s1 : State := { s with arms := s.arms.eraseIdx k }
      match a.un with
      | none =>
        if decide (s.cycle < a.issued + 8) || (s.arms.take k).any fun m => m.un.isNone && m.op == a.op then s else s1.armBoard a late
      | some (split, none) =>
        if s.cycle < a.issued + 8 then s
        else
          let (s2, code) := s1.cancelBoard a.grp a.slot
          { s2 with arms := s2.arms ++ [{ a with un := some (split, some code) }] }
      | some (split, some code) => if s.cycle < a.issued + 16 then s else s1.unboarded a split code)

/-- The armed boards of a cluster that wait for a bale: core and slot. -/
def State.waiting (s : State) (c : Circuit) (b : Bale) (cl : Nat) : List (Nat × Nat) :=
  (s.cores.filter fun co => coreCluster co.n == cl).flatMap fun co => co.slots.filterMap fun e =>
    match boardOn c e.2 with
    | none => none
    | some x => if x.st == .armed && x.layer == b.layer && x.bale == b.bale && x.target == b.lap then some (co.n, e.1) else none

/-- A header at a tap, less than 64 cycles behind the arm of a board that waits for it: the board has missed it (R284). -/
def State.lateBoards (s : State) (c : Circuit) (b : Bale) (cl : Nat) : State :=
  (s.waiting c b cl).foldl (fun s e =>
    match ((s.core e.1).slot e.2).board with
    | none => s
    | some y => if s.cycle < y.armed + 64 then s.missBoard e.1 e.2 y b.lap else s) s

/-- The slots of waiting boards that are busy. -/
def State.busySlots (s : State) (c : Circuit) (b : Bale) (cl : Nat) : List (Nat × Nat) :=
  (s.waiting c b cl).filter fun e => (s.core e.1).slotBusy e.2 s.cycle

/-- A header is held at a tap: it has reached it, and dependences and LAPWAITs on the circuit are tested (R282, R290, R291). -/
def State.holdHeader (s : State) (c : Circuit) (n : Nat) (b : Bale) (cl : Nat) : State :=
  let c1 := { c with ring := c.ring.set n { b with heldAt := some cl, heldFor := s.busySlots c b cl } }
  (s.updCirc c.id fun _ => c1).lapTests c1

/-- A bale at a tap: each waiting board captures it, or misses it on a busy slot (R283). The tap's own checks are those of the beats as they
come out there (R286). -/
def State.capture (s : State) (c : Circuit) (b : Bale) (cl : Nat) : State :=
  let x := b.seen cl
  let wrong := !b.crcOk cl || !b.macOk (((s.ctx? c.cx).map (·.memKey)).getD 0) cl
  (s.waiting c b cl).foldl (fun s e =>
    match ((s.core e.1).slot e.2).board with
    | none => s
    | some y =>
      if (s.core e.1).slotBusy e.2 s.cycle then s.missBoard e.1 e.2 y b.lap
      else s.updCore e.1 fun co => co.updSlot e.2 fun sl =>
        { sl with board := some { y with st := .capturing, lap := b.lap, bad := b.poison, macBad := wrong, fmtCode := x.fmtCode,
                                         scaled := x.scaled, scales := x.scales, tile := x.tile, at_ := s.cycle } }) s

/-- A header passes a tap. A hop that finds its CRC wrong has marked it poisoned, and told the feeder (R286). -/
def State.passTap (s : State) (c : Circuit) (n cl : Nat) : State :=
  match c.ring[n]? with
  | none => s
  | some b0 =>
    let found := b0.hop == cl && !b0.poison && !b0.crcOk cl
    let b := if found then { b0 with poison := true } else b0
    let s1 := s.capture c b cl
    let b1 := { b with passed := b.passed ||| BitVec.ofNat 24 (2 ^ cl), heldAt := none, heldFor := [] }
    let s2 := s1.updCirc c.id fun c => { c with ring := c.ring.set n b1 }
    let s3 := if found then s2.corruptBale c.id b.layer b.bale b.lap else s2
    match s3.circuits.find? fun x => x.id == c.id with
    | none => s3
    | some c1 => if c1.st == .removed then s3.endBoards c1 else (s3.endBoards c1).lapTests c1

/-- The bale leaves the ring; the engine of a circuit that has been removed is free behind its last one (R276, R280). -/
def State.leaveRing (s : State) (c : Circuit) (n : Nat) : State :=
  let c1 := { c with ring := c.ring.eraseIdx n }
  (s.updCirc c.id fun _ => c1).sweepCircuit c1

/-- The cycles from injection to the tap of a cluster, or for 24 to the ring's end (R276). -/
def ringCycles (cl : Nat) : Nat := if cl < 24 then transit cl else 116

/-- ARRIVE: the header of a bale of the ring reaches the tap of a cluster, or for 24 the bale leaves the ring; in HELD mode a busy slot
holds it (R276, R282, R283). -/
def execArrive (k bale cluster : Nat) (s : State) : Out :=
  .next (match s.circuits[k]? with
    | none => s
    | some c =>
      match c.ring[bale]? with
      | none => s
      | some b =>
        let ahead := (c.ring.take bale).any fun x => x.lane == b.lane && !x.passed.getLsbD cluster
        if decide (cluster > 24) || b.passed.getLsbD cluster || (decide (cluster > 0) && !b.passed.getLsbD (cluster - 1)) || ahead
            || decide (s.cycle < b.at_ + ringCycles cluster) || (c.ring.any fun x => x.heldAt.isSome) then s
        else if cluster = 24 then s.leaveRing c bale
        else
          let s1 := s.lateBoards c b cluster
          if c.mode == 1 && !(s1.busySlots c b cluster).isEmpty then s1.holdHeader c bale b cluster else s1.passTap c bale cluster)

/-- HELD_HEADER_FORWARD: the slots are no longer busy; every lane of the circuit has stood still meanwhile (R282). The tap takes the header
as if it had just arrived: a slot that has become busy meanwhile holds it again. -/
def execHeldHeaderForward (k bale cluster : Nat) (s : State) : Out :=
  .next (match s.circuits[k]? with
    | none => s
    | some c =>
      match c.ring[bale]? with
      | none => s
      | some b =>
        if b.heldAt != some cluster || decide (s.cycle < s.heldUntil b) then s
        else if !(s.busySlots c b cluster).isEmpty then s.holdHeader c bale b cluster
        else
          let d := s.cycle - (b.at_ + transit cluster)
          let c1 := { c with ring := c.ring.map fun x => { x with at_ := x.at_ + d, heldAt := none, heldFor := [] },
                             lastInject := c.lastInject.map fun e => (e.1, e.2 + d) }
          (s.updCirc c.id fun _ => c1).passTap c1 bale cluster)

/-- VERDICT: a capture's checks of CRC and MAC have ended (R283, R286). The slot takes its state 19 cycles after the header. tapFails: beats
that no hop found wrong have gone wrong at this tap. -/
def execVerdict (core slot : Nat) (tapFails : Bool) (s : State) : Out :=
  .next (
    let sl := (s.core core).slot slot
    match sl.board, sl.owner with
    | some b, some r =>
      if b.st != .capturing || decide (s.cycle < b.at_ + 19) then s
      else
        let bad := b.bad || b.macBad || tapFails
        let f := match decFmt (BitVec.ofNat 4 b.fmtCode) with
          | .ok f => f
          | .error _ => .e4m3
        let sl1 : Slot := if bad then { owner := some r, st := .poisoned }
          else { owner := some r, st := .full, fmt := f, scaled := b.scaled && !Fmt.wide f, scales := b.scales, tile := b.tile }
        let s1 := (s.updCore core fun c => c.setSlot slot sl1).boardDone b.op b.lowest b.lap (if bad then boardBad else boardOk)
        if bad && !b.bad then s1.corruptBale b.circ b.layer b.bale b.lap else s1
    | _, _ => s)

end Sys2Proof.Machine
end

