-- ==== Sys2Proof/Machine/Dispatch.lean ====
section
/-! DEFINITION. The meaning of every instruction: one direct call for each constructor of Instr. -/

namespace Sys2Proof.Machine

def exec (i : Instr) (s : State) : Host.Outcome State Fault Refusal :=
  match i with
  | .clauseHeader wait sav sa sbv sb n re yh => Sys2Proof.Machine.execClauseHeader wait sav sa sbv sb n re yh s
  | .ill z => Sys2Proof.Machine.execIll z s
  | .nop => Sys2Proof.Machine.execNop s
  | .iadd sat d a b => Sys2Proof.Machine.execIadd sat d a b s
  | .isub sat d a b => Sys2Proof.Machine.execIsub sat d a b s
  | .imul d a b => Sys2Proof.Machine.execImul d a b s
  | .imulh u d a b => Sys2Proof.Machine.execImulh u d a b s
  | .imad d a b => Sys2Proof.Machine.execImad d a b s
  | .iadd64 sat d a b => Sys2Proof.Machine.execIadd64 sat d a b s
  | .imin u d a b => Sys2Proof.Machine.execImin u d a b s
  | .imax u d a b => Sys2Proof.Machine.execImax u d a b s
  | .iamin u d a b => Sys2Proof.Machine.execIamin u d a b s
  | .iamax u d a b => Sys2Proof.Machine.execIamax u d a b s
  | .and d a b => Sys2Proof.Machine.execAnd d a b s
  | .or d a b => Sys2Proof.Machine.execOr d a b s
  | .xor d a b => Sys2Proof.Machine.execXor d a b s
  | .andn d a b => Sys2Proof.Machine.execAndn d a b s
  | .shl d a b => Sys2Proof.Machine.execShl d a b s
  | .shr d a b => Sys2Proof.Machine.execShr d a b s
  | .sar d a b => Sys2Proof.Machine.execSar d a b s
  | .rol d a b => Sys2Proof.Machine.execRol d a b s
  | .bfx sx d a b => Sys2Proof.Machine.execBfx sx d a b s
  | .bfi d a b => Sys2Proof.Machine.execBfi d a b s
  | .popc d b => Sys2Proof.Machine.execPopc d b s
  | .clz d b => Sys2Proof.Machine.execClz d b s
  | .brev d b => Sys2Proof.Machine.execBrev d b s
  | .sel m d a b => Sys2Proof.Machine.execSel m d a b s
  | .icmp comb cc m a b => Sys2Proof.Machine.execIcmp comb cc m a b s
  | .mov d b => Sys2Proof.Machine.execMov d b s
  | .lea zx d a b => Sys2Proof.Machine.execLea zx d a b s
  | .idp4 d a b => Sys2Proof.Machine.execIdp4 d a b s
  | .idp8 d a b => Sys2Proof.Machine.execIdp8 d a b s
  | .fadd d a b => Sys2Proof.Machine.execFadd d a b s
  | .fsub d a b => Sys2Proof.Machine.execFsub d a b s
  | .fmul d a b => Sys2Proof.Machine.execFmul d a b s
  | .ffma d a b => Sys2Proof.Machine.execFfma d a b s
  | .fmin d a b => Sys2Proof.Machine.execFmin d a b s
  | .fmax d a b => Sys2Proof.Machine.execFmax d a b s
  | .fcmp comb cc m a b => Sys2Proof.Machine.execFcmp comb cc m a b s
  | .frcp d b => Sys2Proof.Machine.execFrcp d b s
  | .frsq d b => Sys2Proof.Machine.execFrsq d b s
  | .fsqrt d b => Sys2Proof.Machine.execFsqrt d b s
  | .fexp2 d b => Sys2Proof.Machine.execFexp2 d b s
  | .flog2 d b => Sys2Proof.Machine.execFlog2 d b s
  | .ftanh d b => Sys2Proof.Machine.execFtanh d b s
  | .scalex e8 d a b => Sys2Proof.Machine.execScalex e8 d a b s
  | .hadd2 h d a b => Sys2Proof.Machine.execHadd2 h d a b s
  | .hmul2 h d a b => Sys2Proof.Machine.execHmul2 h d a b s
  | .hfma2 h d a b => Sys2Proof.Machine.execHfma2 h d a b s
  | .cvtf src dst sh dh d a => Sys2Proof.Machine.execCvtf src dst sh dh d a s
  | .cvti k t d a => Sys2Proof.Machine.execCvti k t d a s
  | .pack8 f d a => Sys2Proof.Machine.execPack8 f d a s
  | .pack6 f d a => Sys2Proof.Machine.execPack6 f d a s
  | .pack4 f d a => Sys2Proof.Machine.execPack4 f d a s
  | .unpk8 f d a => Sys2Proof.Machine.execUnpk8 f d a s
  | .unpk6 f d a => Sys2Proof.Machine.execUnpk6 f d a s
  | .unpk4 f d a => Sys2Proof.Machine.execUnpk4 f d a s
  | .fdp4 e5 d a b => Sys2Proof.Machine.execFdp4 e5 d a b s
  | .fdp8 d a b => Sys2Proof.Machine.execFdp8 d a b s
  | .fdp2h h d a b => Sys2Proof.Machine.execFdp2h h d a b s
  | .shfl x d a b => Sys2Proof.Machine.execShfl x d a b s
  | .lshu z d a b => Sys2Proof.Machine.execLshu z d a b s
  | .lshd z d a b => Sys2Proof.Machine.execLshd z d a b s
  | .lrot d a b => Sys2Proof.Machine.execLrot d a b s
  | .bcast d a k => Sys2Proof.Machine.execBcast d a k s
  | .ballotM d a => Sys2Proof.Machine.execBallotM d a s
  | .ballotS d a => Sys2Proof.Machine.execBallotS d a s
  | .vote k d a => Sys2Proof.Machine.execVote k d a s
  | .rdlane d a k => Sys2Proof.Machine.execRdlane d a k s
  | .wrlane d a b => Sys2Proof.Machine.execWrlane d a b s
  | .redi op d a => Sys2Proof.Machine.execRedi op d a s
  | .redf op d a => Sys2Proof.Machine.execRedf op d a s
  | .scani op d a => Sys2Proof.Machine.execScani op d a s
  | .xchg fs d a b pgrp tag => Sys2Proof.Machine.execXchg fs d a b pgrp tag s
  | .xchgPair x y => Sys2Proof.Machine.execXchgPair x y s
  | .xchgTimeout x => Sys2Proof.Machine.execXchgTimeout x s
  | .sadd sat d a b => Sys2Proof.Machine.execSadd sat d a b s
  | .ssub sat d a b => Sys2Proof.Machine.execSsub sat d a b s
  | .smul hi d a b => Sys2Proof.Machine.execSmul hi d a b s
  | .sand d a b => Sys2Proof.Machine.execSand d a b s
  | .sor d a b => Sys2Proof.Machine.execSor d a b s
  | .sxor d a b => Sys2Proof.Machine.execSxor d a b s
  | .sshl d a b => Sys2Proof.Machine.execSshl d a b s
  | .sshr ar d a b => Sys2Proof.Machine.execSshr ar d a b s
  | .smin u d a b => Sys2Proof.Machine.execSmin u d a b s
  | .smax u d a b => Sys2Proof.Machine.execSmax u d a b s
  | .scmp u d a b => Sys2Proof.Machine.execScmp u d a b s
  | .smov d b => Sys2Proof.Machine.execSmov d b s
  | .slea x4 d a b => Sys2Proof.Machine.execSlea x4 d a b s
  | .mopAnd d a b => Sys2Proof.Machine.execMopAnd d a b s
  | .mopOr d a b => Sys2Proof.Machine.execMopOr d a b s
  | .mopXor d a b => Sys2Proof.Machine.execMopXor d a b s
  | .mopNot d a => Sys2Proof.Machine.execMopNot d a s
  | .mopM2s d a => Sys2Proof.Machine.execMopM2s d a s
  | .mopS2m d a => Sys2Proof.Machine.execMopS2m d a s
  | .mopCnt d a => Sys2Proof.Machine.execMopCnt d a s
  | .mopExec d => Sys2Proof.Machine.execMopExec d s
  | .bra off => Sys2Proof.Machine.execBra off s
  | .brz c off => Sys2Proof.Machine.execBrz c off s
  | .brnz c off => Sys2Proof.Machine.execBrnz c off s
  | .brm c off => Sys2Proof.Machine.execBrm c off s
  | .loop c off => Sys2Proof.Machine.execLoop c off s
  | .jtab x t bound lbl => Sys2Proof.Machine.execJtab x t bound lbl s
  | .pad lbl => Sys2Proof.Machine.execPad lbl s
  | .call l off => Sys2Proof.Machine.execCall l off s
  | .calli l a lbl => Sys2Proof.Machine.execCalli l a lbl s
  | .ret a => Sys2Proof.Machine.execRet a s
  | .join => Sys2Proof.Machine.execJoin s
  | .execm m => Sys2Proof.Machine.execExecm m s
  | .execr => Sys2Proof.Machine.execExecr s
  | .ld fs sz d a off => Sys2Proof.Machine.execLd fs sz d a off s
  | .lds fs sz d a off => Sys2Proof.Machine.execLds fs sz d a off s
  | .ldsr fs sz d a off => Sys2Proof.Machine.execLdsr fs sz d a off s
  | .sld fs sz d a off => Sys2Proof.Machine.execSld fs sz d a off s
  | .st sz d a off => Sys2Proof.Machine.execSt sz d a off s
  | .sts sz d a off => Sys2Proof.Machine.execSts sz d a off s
  | .stsr sz d a off => Sys2Proof.Machine.execStsr sz d a off s
  | .sst sz d a off => Sys2Proof.Machine.execSst sz d a off s
  | .ldb fs f d a off => Sys2Proof.Machine.execLdb fs f d a off s
  | .ldbScratch fs f d a off => Sys2Proof.Machine.execLdbScratch fs f d a off s
  | .stb half d a off => Sys2Proof.Machine.execStb half d a off s
  | .stbScratch half d a off => Sys2Proof.Machine.execStbScratch half d a off s
  | .atom fs w64 op noret sc ord d a v => Sys2Proof.Machine.execAtom fs w64 op noret sc ord d a v s
  | .atomc fs w64 noret sc ord d a v => Sys2Proof.Machine.execAtomc fs w64 noret sc ord d a v s
  | .atoms fs w64 op noret d a v => Sys2Proof.Machine.execAtoms fs w64 op noret d a v s
  | .pfl2 fs loc d a t lines => Sys2Proof.Machine.execPfl2 fs loc d a t lines s
  | .recv fs cap d a nw => Sys2Proof.Machine.execRecv fs cap d a nw s
  | .sow sz d a m => Sys2Proof.Machine.execSow sz d a m s
  | .phase sc => Sys2Proof.Machine.execPhase sc s
  | .rel sc => Sys2Proof.Machine.execRel sc s
  | .acq sc => Sys2Proof.Machine.execAcq sc s
  | .watch fs cmp u w64 sc d a b => Sys2Proof.Machine.execWatch fs cmp u w64 sc d a b s
  | .flushl n mode a => Sys2Proof.Machine.execFlushl n mode a s
  | .shopen d a => Sys2Proof.Machine.execShopen d a s
  | .shst sz d a b => Sys2Proof.Machine.execShst sz d a b s
  | .shseal fs d a => Sys2Proof.Machine.execShseal fs d a s
  | .shpin fs d a => Sys2Proof.Machine.execShpin fs d a s
  | .shld fs sz d a b => Sys2Proof.Machine.execShld fs sz d a b s
  | .shunpin d a => Sys2Proof.Machine.execShunpin d a s
  | .shdrop d a => Sys2Proof.Machine.execShdrop d a s
  | .shq d a => Sys2Proof.Machine.execShq d a s
  | .copyl c => Sys2Proof.Machine.execCopyl c s
  | .copyt c => Sys2Proof.Machine.execCopyt c s
  | .copyg c => Sys2Proof.Machine.execCopyg c s
  | .copys c => Sys2Proof.Machine.execCopys c s
  | .copyx c => Sys2Proof.Machine.execCopyx c s
  | .twany a => Sys2Proof.Machine.execTwany a s
  | .twall a => Sys2Proof.Machine.execTwall a s
  | .tffr fs d a => Sys2Proof.Machine.execTffr fs d a s
  | .tclr a => Sys2Proof.Machine.execTclr a s
  | .binit n a b => Sys2Proof.Machine.execBinit n a b s
  | .barr n => Sys2Proof.Machine.execBarr n s
  | .bwait d n p => Sys2Proof.Machine.execBwait d n p s
  | .bwaitBytes d n k => Sys2Proof.Machine.execBwaitBytes d n k s
  | .barrw d n => Sys2Proof.Machine.execBarrw d n s
  | .bexp n a => Sys2Proof.Machine.execBexp n a s
  | .binv n => Sys2Proof.Machine.execBinv n s
  | .mres d a q base rowsm1 soff sc f => Sys2Proof.Machine.execMres d a q base rowsm1 soff sc f s
  | .mresFillDone core k => Sys2Proof.Machine.execMresFillDone core k s
  | .mrel q => Sys2Proof.Machine.execMrel q s
  | .mma fs acc c q w steps => Sys2Proof.Machine.execMma fs acc c q w steps s
  | .mmaLit fs acc c q w steps wadv ainc => Sys2Proof.Machine.execMmaLit fs acc c q w steps wadv ainc s
  | .mmag fs st g q w steps xs wadv ainc => Sys2Proof.Machine.execMmag fs st g q w steps xs wadv ainc s
  | .mmaJobStart core => Sys2Proof.Machine.execMmaJobStart core s
  | .mmaJobEnd core => Sys2Proof.Machine.execMmaJobEnd core s
  | .wload n a b => Sys2Proof.Machine.execWload n a b s
  | .wloadFillDone core slot => Sys2Proof.Machine.execWloadFillDone core slot s
  | .wfree n => Sys2Proof.Machine.execWfree n s
  | .mstat d sel => Sys2Proof.Machine.execMstat d sel s
  | .board fs d a nw w c => Sys2Proof.Machine.execBoard fs d a nw w c s
  | .unboard d n => Sys2Proof.Machine.execUnboard d n s
  | .lapq d c => Sys2Proof.Machine.execLapq d c s
  | .lapqSt d c => Sys2Proof.Machine.execLapqSt d c s
  | .lapwait fs d a c => Sys2Proof.Machine.execLapwait fs d a c s
  | .spawn d a off => Sys2Proof.Machine.execSpawn d a off s
  | .elect => Sys2Proof.Machine.execElect s
  | .elend => Sys2Proof.Machine.execElend s
  | .exit => Sys2Proof.Machine.execExit s
  | .trigger => Sys2Proof.Machine.execTrigger s
  | .winb w => Sys2Proof.Machine.execWinb w s
  | .region start1 count1 start2 count2 smask recipe => Sys2Proof.Machine.execRegion start1 count1 start2 count2 smask recipe s
  | .yield => Sys2Proof.Machine.execYield s
  | .trap code => Sys2Proof.Machine.execTrap code s
  | .trapHost code => Sys2Proof.Machine.execTrapHost code s
  | .tretRegion => Sys2Proof.Machine.execTretRegion s
  | .tretRetry => Sys2Proof.Machine.execTretRetry s
  | .tretNext => Sys2Proof.Machine.execTretNext s
  | .tclrc m => Sys2Proof.Machine.execTclrc m s
  | .sread v d n => Sys2Proof.Machine.execSread v d n s
  | .swrite d n => Sys2Proof.Machine.execSwrite d n s
  | .enq d a b => Sys2Proof.Machine.execEnq d a b s
  | .send m d a b => Sys2Proof.Machine.execSend m d a b s
  | .role d a b => Sys2Proof.Machine.execRole d a b s
  | .hostack core gctx val => Sys2Proof.Machine.execHostack core gctx val s
  | .splitWatchdog core gctx split => Sys2Proof.Machine.execSplitWatchdog core gctx split s
  | .impreciseStoreFault core gctx k => Sys2Proof.Machine.execImpreciseStoreFault core gctx k s
  | .haltRequest cxid => Sys2Proof.Machine.execHaltRequest cxid s
  | .loadDataReturn op => Sys2Proof.Machine.execLoadDataReturn op s
  | .atomicReply op => Sys2Proof.Machine.execAtomicReply op s
  | .publish core k => Sys2Proof.Machine.execPublish core k s
  | .homeRead op k => Sys2Proof.Machine.execHomeRead op k s
  | .homeMerge core k => Sys2Proof.Machine.execHomeMerge core k s
  | .atomicAtHome op lane => Sys2Proof.Machine.execAtomicAtHome op lane s
  | .cfill k => Sys2Proof.Machine.execCfill k s
  | .cInval k => Sys2Proof.Machine.execCInval k s
  | .l1Fill k => Sys2Proof.Machine.execL1Fill k s
  | .push k => Sys2Proof.Machine.execPush k s
  | .pushInval k => Sys2Proof.Machine.execPushInval k s
  | .watchPost op => Sys2Proof.Machine.execWatchPost op s
  | .watchRepost op => Sys2Proof.Machine.execWatchRepost op s
  | .shOpen k => Sys2Proof.Machine.execShOpen k s
  | .sheafSeal k => Sys2Proof.Machine.execSheafSeal k s
  | .drop k => Sys2Proof.Machine.execDrop k s
  | .pin k => Sys2Proof.Machine.execPin k s
  | .unpin k => Sys2Proof.Machine.execUnpin k s
  | .openWrite core k => Sys2Proof.Machine.execOpenWrite core k s
  | .sealMessage k m => Sys2Proof.Machine.execSealMessage k m s
  | .dropMessage k m => Sys2Proof.Machine.execDropMessage k m s
  | .acked k => Sys2Proof.Machine.execAcked k s
  | .dropped k => Sys2Proof.Machine.execDropped k s
  | .pinnedRead op lane => Sys2Proof.Machine.execPinnedRead op lane s
  | .copyChunk k => Sys2Proof.Machine.execCopyChunk k s
  | .copyComplete k => Sys2Proof.Machine.execCopyComplete k s
  | .heldArrival wg bar => Sys2Proof.Machine.execHeldArrival wg bar s
  | .pfl2Complete op => Sys2Proof.Machine.execPfl2Complete op s
  | .lapStart k => Sys2Proof.Machine.execLapStart k s
  | .baleInject k noise => Sys2Proof.Machine.execBaleInject k noise s
  | .arm k lead => Sys2Proof.Machine.execArm k lead s
  | .arrive k bale cluster => Sys2Proof.Machine.execArrive k bale cluster s
  | .heldHeaderForward k bale cluster => Sys2Proof.Machine.execHeldHeaderForward k bale cluster s
  | .verdict core slot tapFails => Sys2Proof.Machine.execVerdict core slot tapFails s
  | .registerWrite off val => Sys2Proof.Machine.execRegisterWrite off val s
  | .bind cxid => Sys2Proof.Machine.execBind cxid s
  | .lock cxid => Sys2Proof.Machine.execLock cxid s
  | .unlock cxid => Sys2Proof.Machine.execUnlock cxid s
  | .start cxid => Sys2Proof.Machine.execStart cxid s
  | .sealCx cxid => Sys2Proof.Machine.execSealCx cxid s
  | .restore cxid => Sys2Proof.Machine.execRestore cxid s
  | .reset cxid => Sys2Proof.Machine.execReset cxid s
  | .flr cxid => Sys2Proof.Machine.execFlr cxid s
  | .retire cxid => Sys2Proof.Machine.execRetire cxid s
  | .release cxid => Sys2Proof.Machine.execRelease cxid s
  | .stop cxid => Sys2Proof.Machine.execStop cxid s
  | .lockInterfaceRequest cxid session stream => Sys2Proof.Machine.execLockInterfaceRequest cxid session stream s
  | .startInterfaceRequest cxid session => Sys2Proof.Machine.execStartInterfaceRequest cxid session s
  | .stopInterfaceRequest cxid session => Sys2Proof.Machine.execStopInterfaceRequest cxid session s
  | .tdierror cxid => Sys2Proof.Machine.execTdierror cxid s
  | .saved cxid => Sys2Proof.Machine.execSaved cxid s
  | .restored cxid => Sys2Proof.Machine.execRestored cxid s
  | .granaryReplay cxid => Sys2Proof.Machine.execGranaryReplay cxid s
  | .contextWatchdogExpiry cxid => Sys2Proof.Machine.execContextWatchdogExpiry cxid s
  | .doorbell iface wridx stream => Sys2Proof.Machine.execDoorbell iface wridx stream s
  | .qbaseQsizeWrite iface r val => Sys2Proof.Machine.execQbaseQsizeWrite iface r val s
  | .pause iface => Sys2Proof.Machine.execPause iface s
  | .resume iface => Sys2Proof.Machine.execResume iface s
  | .clearerr iface => Sys2Proof.Machine.execClearerr iface s
  | .launch iface => Sys2Proof.Machine.execLaunch iface s
  | .waitver iface => Sys2Proof.Machine.execWaitver iface s
  | .signal iface refused => Sys2Proof.Machine.execSignal iface refused s
  | .fence iface => Sys2Proof.Machine.execFence iface s
  | .queueNop iface => Sys2Proof.Machine.execQueueNop iface s
  | .circuitInstall iface => Sys2Proof.Machine.execCircuitInstall iface s
  | .circuitRemove iface => Sys2Proof.Machine.execCircuitRemove iface s
  | .circuitRepace iface => Sys2Proof.Machine.execCircuitRepace iface s
  | .setlt iface => Sys2Proof.Machine.execSetlt iface s
  | .setlayout iface => Sys2Proof.Machine.execSetlayout iface s
  | .setkey iface => Sys2Proof.Machine.execSetkey iface s
  | .setgen iface => Sys2Proof.Machine.execSetgen iface s
  | .dsqLaunch cxid => Sys2Proof.Machine.execDsqLaunch cxid s
  | .gtimeDue cxid kernel => Sys2Proof.Machine.execGtimeDue cxid kernel s
  | .place => Sys2Proof.Machine.execPlace s
  | .exited wg => Sys2Proof.Machine.execExited wg s
  | .placementWait1ms cxid kernel => Sys2Proof.Machine.execPlacementWait1ms cxid kernel s
  | .rcbPeriodBoundary cxid => Sys2Proof.Machine.execRcbPeriodBoundary cxid s
  | .budgetExhausted cxid rcb => Sys2Proof.Machine.execBudgetExhausted cxid rcb s
  | .classAging core gctx split => Sys2Proof.Machine.execClassAging core gctx split s
  | .thermalMigration wg => Sys2Proof.Machine.execThermalMigration wg s
  | .rateLimiterGo cxid cls => Sys2Proof.Machine.execRateLimiterGo cxid cls s
  | .groupkill cxid core gctx => Sys2Proof.Machine.execGroupkill cxid core gctx s
  | .kabort cxid kernel => Sys2Proof.Machine.execKabort cxid kernel s
  | .cxreset cxid => Sys2Proof.Machine.execCxreset cxid s
  | .vflr cxid => Sys2Proof.Machine.execVflr cxid s
  | .warmreset inp => Sys2Proof.Machine.execWarmreset inp s
  | .status cxid => Sys2Proof.Machine.execStatus cxid s
  | .map op lane => Sys2Proof.Machine.execMap op lane s
  | .unmap op lane => Sys2Proof.Machine.execUnmap op lane s
  | .inval op lane => Sys2Proof.Machine.execInval op lane s
  | .poolst op lane => Sys2Proof.Machine.execPoolst op lane s
  | .addlocal cxid => Sys2Proof.Machine.execAddlocal cxid s
  | .addfar cxid => Sys2Proof.Machine.execAddfar cxid s
  | .remove cxid => Sys2Proof.Machine.execRemove cxid s
  | .reclaim cxid => Sys2Proof.Machine.execReclaim cxid s
  | .sdcreate cxid => Sys2Proof.Machine.execSdcreate cxid s
  | .sdbind cxid => Sys2Proof.Machine.execSdbind cxid s
  | .moved cxid page => Sys2Proof.Machine.execMoved cxid page s
  | .samplerTick cxid => Sys2Proof.Machine.execSamplerTick cxid s
  | .vpod cxid => Sys2Proof.Machine.execVpod cxid s
  | .vkey cxid => Sys2Proof.Machine.execVkey cxid s
  | .vswitch cxid => Sys2Proof.Machine.execVswitch cxid s
  | .hint cxid => Sys2Proof.Machine.execHint cxid s
  | .vclear cxid => Sys2Proof.Machine.execVclear cxid s
  | .packetIngress k => Sys2Proof.Machine.execPacketIngress k s
  | .packetAck k => Sys2Proof.Machine.execPacketAck k s
  | .retransmit k => Sys2Proof.Machine.execRetransmit k s
  | .routeDown k => Sys2Proof.Machine.execRouteDown k s
  | .corunHint cxid start len => Sys2Proof.Machine.execCorunHint cxid start len s
  | .ptpEventMessage corr => Sys2Proof.Machine.execPtpEventMessage corr s
  | .portTrained port up => Sys2Proof.Machine.execPortTrained port up s
  | .spdmMessage m => Sys2Proof.Machine.execSpdmMessage m s
  | .idleLevelEntry u => Sys2Proof.Machine.execIdleLevelEntry u s
  | .idleLevelExit u => Sys2Proof.Machine.execIdleLevelExit u s
  | .idlePrewake u due => Sys2Proof.Machine.execIdlePrewake u due s
  | .powerCap on => Sys2Proof.Machine.execPowerCap on s
  | .deviceStart inp => Sys2Proof.Machine.execDeviceStart inp s
  | .queueDrain iface => Sys2Proof.Machine.execQueueDrain iface s
  | .stsrAcknowledgement k => Sys2Proof.Machine.execStsrAcknowledgement k s
  | .tokenAccrual cxid cls => Sys2Proof.Machine.execTokenAccrual cxid cls s
  | .breakpointSet d => Sys2Proof.Machine.execBreakpointSet d s

end Sys2Proof.Machine
end

