-- ==== Sys2Proof/Machine/Order.lean ====
section
/-! DEFINITION. What a cycle fixes: the steps whose cycle the spec states exactly, and the order in which the events of one cycle reach an
object (spec/00_scope.md R8). -/

namespace Sys2Proof.Machine

/-! ## Steps with a stated cycle -/

/-- A step that is due in a cycle: that of a row without a word, or a flag that clears behind its last board (R283). The rows of the next
six stand by name: the watchdog's expiry (R85), a boundary of an RCB's period (R101), a budget that is spent (R102), a wait for room
(R106), a sampler's tick (R324), a watch posted again (R228). Then half a row of a scatter (R301), the end of a warm
reset (R368), and a wake ahead of a due time (R361). -/
inductive Timed where
  | event (i : Instr)
  | flag (op : Nat)
  | expiry (cx : Nat)
  | period (cx : Nat)
  | budget (cx rcb : Nat)
  | room (cx kernel : Nat)
  | sampler (cx : Nat)
  | repost (op : Nat)
  | scatter (core : Nat)
  | warm
  | prewake (u : IdleUnit)
  deriving DecidableEq, Repr, Inhabited

/-- Its cycle, and its place among those of one cycle. -/
structure Due where
  cycle : Nat
  rank : Nat
  step : Timed
  /-- Behind every move of its cycle. -/
  late : Bool := false
  deriving DecidableEq, Repr, Inhabited

/-- The sequencer's next job starts and its oldest one ends (R301). -/
def Core.jobDues (c : Core) : List Due :=
  let starts := ((c.jobs.find? fun j => j.start.isNone).map fun j =>
    ({ cycle := c.startCycle j, rank := 1, step := .event (.mmaJobStart c.n) } : Due)).toList
  let ends := match c.jobs with
    | [] => []
    | j :: _ => match j.start, c.rec? j.q with
      | some st, some r => [({ cycle := j.endCycle st (blocksOf r.fmt), rank := 0, step := .event (.mmaJobEnd c.n) } : Due)]
      | _, _ => []
  ends ++ starts ++ (c.scatterDue.map fun t => ({ cycle := t, rank := 0, step := .scatter c.n } : Due)).toList

/-- The fills of records and slots end (R303, R308). -/
def Core.fillDues (c : Core) : List Due :=
  (c.recs.filterMap fun e => e.2.filling.map fun f =>
    ({ cycle := f.2 + 4 + 2 * e.2.rows, rank := 2, step := .event (.mresFillDone c.n e.1) } : Due))
  ++ c.slots.filterMap fun e => if e.2.owner.isNone then none else e.2.filling.map fun f =>
    ({ cycle := f.2.2 + 136, rank := 2, step := .event (.wloadFillDone c.n e.1) } : Due)

/-- The captures of a core end (R283). -/
def Core.verdictDues (c : Core) : List Due :=
  c.slots.filterMap fun e => match e.2.board with
    | some b => if b.st == .capturing && e.2.owner.isSome then
        some { cycle := b.at_ + 19, rank := 4, step := .event (.verdict c.n e.1 false) } else none
    | none => none

/-- Boards and UNBOARDs on their way between core and tap (R283, R289). -/
def ArmMsg.due (a : ArmMsg) (k : Nat) : Due :=
  match a.un with
  | none => { cycle := a.issued + 8, rank := 5, step := .event (.arm k 0) }
  | some (_, none) => { cycle := a.issued + 8, rank := 6, step := .event (.arm k 0) }
  | some (_, some _) => { cycle := a.issued + 16, rank := 6, step := .event (.arm k 0) }

/-- The bales of a circuit reach their next taps, or the ring's end; a held header is forwarded when its slots are free, and the others
stand (R276, R282). -/
def State.ringDues (s : State) (k : Nat) (c : Circuit) : List Due :=
  match (c.ring.zipIdx).find? fun e => e.1.heldAt.isSome with
  | some (b, n) =>
    [{ cycle := s.heldUntil b, rank := 3, step := .event (.heldHeaderForward k n (b.heldAt.getD 0)) }]
  | none =>
    (c.ring.zipIdx).map fun e =>
      let cl := ((filterRange 24 fun j => !e.1.passed.getLsbD j).head?).getD 24
      { cycle := e.1.at_ + ringCycles cl, rank := 3, step := .event (.arrive k e.2 cl) }

/-- The lap of a PACED circuit begins (R282). -/
def State.lapDues (s : State) (k : Nat) (c : Circuit) : List Due :=
  if c.mode == 2 && (c.st == .running || c.st == .stopping) && !c.begun then
    [{ cycle := s.lapFrom c, rank := 7, step := .event (.lapStart k) }] else []

/-- The cycle in which $GTIME reaches g (R350, R351): each cycle adds 40,000 units of 1/90,000 ns, less 4 while a correction is absorbed. -/
def State.gtimeCycle (s : State) (g : Nat) : Nat :=
  let need := 90000 * (g - s.gtime) - s.gtimeSub
  s.cycle + min ((need + 39995) / 39996) ((need + s.slew + 39999) / 40000)

/-- The context's watchdog expires (R85); a boundary of its root's period (R101, R102); a millisecond of its sampler (R324). -/
def State.ctxDues (s : State) (c : Context) : List Due :=
  (if c.st == .run && c.bindRec.wdog != 0 && s.kernels.any (fun k => k.cx == c.cxid && k.inPool) then
    [{ cycle := c.wdogFrom + msCycles c.bindRec.wdog, rank := 10, step := .expiry c.cxid }] else [])
  ++ ((s.rootRcb? c.cxid).map fun r =>
    ({ cycle := if r.boundary then s.cycle else s.gtimeCycle (1000 * r.periodUs * (r.periodNo + 1)), rank := 11,
       step := .period c.cxid } : Due)).toList
  ++ (if c.pages.isEmpty then []
      else [{ cycle := s.gtimeCycle (1000000 * (c.samplerMs + 1)), rank := 12, step := .sampler c.cxid }])

/-- The resident workgroups under an RCB whose charge reaches its budget are pre-empted within 4,500 cycles (R102). -/
def State.budgetDue (s : State) (r : Rcb) : Option Due :=
  let n := s.chargers r
  match budgetOf (s.rcbChain r.cx 8 r.addr) with
  | none => none
  | some b =>
    if r.parked || n == 0 then none
    else
      let reached := if b ≤ r.charge then r.spentAt.getD s.cycle else s.cycle + (b - r.charge + n - 1) / n
      some { cycle := reached + 4500, rank := 13, step := .budget r.cx r.addr }

/-- A workgroup has waited 1 ms for room (R106). -/
def State.roomDue (s : State) (k : Kernel) : Option Due :=
  if k.blocking || !s.lacksRoom k then none
  else some { cycle := k.waitingSince + 2250000, rank := 14, step := .room k.cx k.id }

/-- A watch that its core holds is posted again behind the writes of the cycle (R228). -/
def repostDue (o : PendOp) : Option Due :=
  match o.kind with
  | .watch _ _ _ _ _ _ _ _ _ held none =>
    if held == some watchReturned then some { cycle := o.issued + 2250, rank := 15, step := .repost o.id, late := true } else none
  | _ => none

/-- Every step whose cycle is stated (log 50). -/
def State.dues (s : State) : List Due :=
  if s.modl.recovery then [] else
  (if s.modl.recovering.isSome && s.warmReady then [{ cycle := s.cycle, rank := 16, step := .warm }] else [])
  ++ (s.modl.idle.flatMap fun u => (s.dueTimes.filter fun t => decide (s.gtime < t)).map fun t =>
    ({ cycle := s.gtimeCycle (t - 1000 * exitUs u), rank := 17, step := .prewake u } : Due))
  ++ (s.cores.flatMap fun c => c.jobDues ++ c.fillDues ++ c.verdictDues)
  ++ ((s.arms.zipIdx).map fun e => e.1.due e.2)
  ++ ((s.circuits.zipIdx).flatMap fun e => s.ringDues e.2 e.1 ++ s.lapDues e.2 e.1)
  ++ (s.ops.filterMap fun o => o.kind.clearing.map fun t => ({ cycle := t, rank := 8, step := .flag o.id } : Due))
  ++ (s.ctxs.flatMap s.ctxDues) ++ s.rcbs.filterMap s.budgetDue ++ s.kernels.filterMap s.roomDue
  ++ s.ops.filterMap repostDue
  ++ (s.offers.zipIdx).map fun e =>
    let last := e.1.posted + Config.xchgTimeout
    match s.offerMate e.2 (max s.cycle last) with
    | some j => { cycle := last, rank := 9, step := .event (.xchgPair e.2 j) }
    | none => { cycle := last + 1, rank := 9, step := .event (.xchgTimeout e.2) }

/-- A move's act is this step, with what the surroundings add: a late read of the feeder, a failure at the tap. -/
def Timed.named (d : Timed) (a : Act) : Bool :=
  match d, a with
  | .event (.arm k _), .event (.arm j _) => k == j
  | .event (.verdict core slot _), .event (.verdict core' slot' _) => core == core' && slot == slot'
  | _, _ => false

def Due.before (a b : Due) : Bool := decide (a.cycle < b.cycle) || (a.cycle == b.cycle && decide (a.rank < b.rank))

/-- The first step that is due by a cycle; one whose cycle has passed is due now. -/
def State.dueBy (s : State) (t : Nat) : Option Due :=
  ((s.dues.map fun d => { d with cycle := max d.cycle s.cycle }).filter fun d => decide (d.cycle + d.late.toNat ≤ t)).foldl (fun (a : Option Due) d =>
    match a with
    | none => some d
    | some b => if d.before b then some d else a) none

/-! ## The order of one cycle (R8) -/

/-- The step that an act is, where it is one of a row without a word. -/
def Act.step? : Act → Option Instr
  | .event i | .access _ i => some i
  | .issue .. | .ambient .. | .upset .. | .ideFailure _ | .credit .. | .mctp .. => none

/-- The place of a context command in R73's order. -/
def opPlace (op : Nat) : Nat := match op with
  | 8 => 0 | 11 => 1 | 7 => 2 | _ => 5

/-- R73. A *fault* has noted itself. -/
def ctxReached (a : Act) (s t : State) : List (Obj × Nat) :=
  ((t.taken.take (t.taken.length - s.taken.length)).filter fun e => match e.1 with
    | .ctx _ => true
    | _ => false)
  ++ (match a with
    | .mctp _ command _ cxid _ _ =>
      if command = 4 then [(.ctx cxid.toNat, 0)] else if command = 3 then [(.ctx cxid.toNat, 2)] else []
    | _ => [])
  ++ (match a.step? with
    | some (.flr c) | some (.vflr c) => [(.ctx c, 0)]
    | some (.stop c) | some (.stopInterfaceRequest c _) => [(.ctx c, 1)]
    | some (.reset c) | some (.cxreset c) => [(.ctx c, 2)]
    | some (.tdierror c) => [(.ctx c, 3)]
    | some (.bind c) | some (.lock c) | some (.unlock c) | some (.start c) | some (.sealCx c) | some (.restore c) | some (.retire c)
    | some (.release c) | some (.lockInterfaceRequest c _ _) | some (.startInterfaceRequest c _) | some (.saved c)
    | some (.restored c) => [(.ctx c, 5)]
    | some (.registerWrite off v) =>
      if off = 0x100 ∧ v.getLsbD 31 then [(.ctx (v.extractLsb' 8 16).toNat, opPlace (v.extractLsb' 0 8).toNat)] else []
    | _ => [])
  ++ t.ctxs.flatMap fun c =>
    if c.st == .error && ((s.ctx? c.cxid).map fun d => d.st != .error).getD false then [(.ctx c.cxid, 3)] else []

/-- The queue whose WRIDX a step writes: *doorbell*. -/
def rungQueue (i : Instr) : Option Nat :=
  match i with
  | .doorbell q _ _ => some q
  | .registerWrite off _ =>
    if off = 0x20C then some hvIface
    else if off ≥ bar2 ∧ (pageOf (off - bar2)).2 = 0xC then some (pageOf (off - bar2)).1 else none
  | _ => none

/-- R90: *invalid* before *doorbell*, that of a resume included. -/
def queueReached (a : Act) (s t : State) : List (Obj × Nat) :=
  match a.step?.bind rungQueue with
  | some q => [(.queue q, 1)]
  | none =>
    (match a.step? with
      | some (.signal q true) => [(.queue q, 0)]
      | _ => [])
    ++ t.queues.flatMap fun q =>
      (s.queues.filter fun p => p.iface == q.iface && p.st != .error && q.st == .error).map fun p =>
        (.queue q.iface, if p.st == .paused then 1 else 0)

/-- R117: *kill* before *commit*, which turns a RESERVED context LIVE, at that context and at its spawner. -/
def groupReached (s t : State) : List (Obj × Nat) :=
  s.groups.flatMap fun g =>
    match t.group? g.ref with
    | some h => if g.status == .reserved && h.status != .reserved then
        (.group g.ref, 1) :: (g.spawner.map fun p => (Obj.group p.1, 1)).toList else []
    | none => if g.status == .ending then [] else [(.group g.ref, 0)]

/-- The word that an issue of a split has left behind it, with the group, where the split has gone on. -/
def issuedWord (a : Act) (s t : State) : Option (Group × Word) :=
  match a with
  | .issue core gctx split =>
    let r : GRef := { core := core, gctx := gctx }
    match s.group? r, t.group? r with
    | some g, some h => match g.split? split, h.split? split with
      | some p, some q => if p.pc == q.pc then none else some (g, s.insnAt g p)
      | _, _ => none
    | _, _ => none
  | .event _ | .access .. | .ambient _ | .upset .. | .ideFailure _ | .credit .. | .mctp .. => none

/-- The flags that a word tests: WAIT of a header, and every flag for ROLE (R29, R139). -/
def flagsTested (w : Word) : List Nat :=
  match decode w 0 with
  | .ok (.clauseHeader wait _ _ _ _ _ _ _) => filterRange 12 fun f => wait.getLsbD f
  | .ok (.role ..) => List.range 12
  | _ => []

/-- R31: a flag that loses its last operation and takes another in one cycle stays set, so an attachment comes before a word that finds
the flag clear. -/
def flagReached (a : Act) (s t : State) : List (Obj × Nat) :=
  let cleared := (s.ops.filter fun o => decide (o.flag < 12) && !t.flagSet o.grp o.flag).map fun o => (Obj.flag o.grp o.flag, 0)
  let attached := (t.ops.filter fun o => decide (s.nextId ≤ o.id) && decide (o.flag < 12)).map fun o => (Obj.flag o.grp o.flag, 0)
  let found := match issuedWord a s t with
    | none => []
    | some (g, w) => ((flagsTested w).filter fun n => s.taken.any fun e => e.1 == .flag g.ref n).map fun n => (Obj.flag g.ref n, 1)
  cleared ++ attached ++ found

/-- R213, R228: at a line's home a write, or the arrival of a merge, before a read and before a watch that arrives. -/
def homeReached (a : Act) (s t : State) : List (Obj × Nat) :=
  let at_ (k : LineKey) : List (Obj × Nat) := if k.pod then [] else [(.home false k.n, 1)]
  let watch (op : Nat) : List (Obj × Nat) := ((s.anyOp? op).map fun o => match o.kind with
    | .watch _ key _ _ _ _ _ _ _ _ _ => at_ key
    | _ => []).getD []
  let far (cx addr : Nat) : List (Obj × Nat) := match (s.podTranslate cx (podLocal addr) .read).2 with
    | .ok t => at_ (t.key (podLocal addr))
    | .wait | .fail .. => []
  let merged := s.cores.flatMap fun c => (c.pq.filter fun e => e.phase == .waiting && e.ow.isNone && !e.key.pod
    && !((t.core c.n).pq.any fun x => x.id == e.id && x.phase == .waiting)).map fun e => (Obj.home false e.key.n, 0)
  (match a.step? with
    | some (.homeRead op k) => (((s.op? op).bind fun o => o.kind.lines[k]?).map fun w => at_ w.key).getD []
    | some (.watchPost op) | some (.watchRepost op) => watch op
    | some (.packetIngress k) => ((s.net[k]?).map fun p => match p.body with
      | .load _ addr _ | .watch _ addr _ _ _ _ => far p.cxid addr
      | _ => []).getD []
    | _ => [])
  ++ merged ++ s.taken.filterMap fun e => match e.1 with
    | .home false n =>
      if rdMem s.mem (128 * n) 128 != rdMem t.mem (128 * n) 128 || (s.lmeta n).tag != (t.lmeta n).tag then some (.home false n, 0) else none
    | _ => none

/-- R209: at an L1 line the core's own accesses and acquires, then publications, then pushes and their invalidations, then replacement:
a line that leaves where another comes. -/
def l1Reached (a : Act) (s t : State) : List (Obj × Nat) :=
  let named : List (Obj × Nat) := match a.step? with
    | some (.publish core k) => (((s.core core).pq[k]?).map fun e => (Obj.l1 core e.key, 1)).toList
    | some (.push k) => ((s.pushes[k]?).map fun p => (Obj.l1 p.core p.key, 2)).toList
    | some (.pushInval k) => ((s.invals[k]?).bind fun p => p.core.map fun n => (Obj.l1 n p.key, 2)).toList
    | _ => []
  let own : Bool := match a with
    | .issue .. => true
    | .event _ | .access .. | .ambient _ | .upset .. | .ideFailure _ | .credit .. | .mctp .. => false
  named ++ s.cores.flatMap fun c =>
    let d := t.core c.n
    if d.l1 == c.l1 then []
    else
      let came := d.l1.any fun l => !(c.l1.any fun x => x.key == l.key)
      (if own || d.acqs != c.acqs then (d.l1.filter fun l => !c.l1.contains l).map fun l => (Obj.l1 c.n l.key, 0) else [])
      ++ ((c.l1.filter fun l => !(d.l1.any fun x => x.key == l.key)).map fun l =>
        (Obj.l1 c.n l.key, if came then 3 else if own || d.acqs != c.acqs then 0 else 2))

/-- The place of a sheaf message in R235: *seal* and *drop*, then the others by their sender. -/
def ShMsg.place (m : ShMsg) (sealing : Bool) : Nat := if sealing then 2 else 3 + 32 * m.grp.core + m.grp.gctx

/-- R235. A drop that no SHDROP asked for is an *abandon*; the opens, pins and unpins of other modules come last. -/
def descReached (a : Act) (s t : State) : List (Obj × Nat) :=
  let msg (k : Nat) (sealing : Bool) : List (Obj × Nat) := ((s.shMsgs[k]?).map fun m =>
    let o := s.ownerOf m.cx m.sheaf
    (Obj.desc o.1 o.2, if m.abandon then 1 else m.place sealing)).toList
  let far (k : Nat) : List (Obj × Nat) := ((s.net[k]?).map fun (p : Packet) => match p.body with
    | .sheaf _ kind sheaf _ _ => [(Obj.desc (s.vchipOf p.cxid) sheaf, if kind == .seal || kind == .drop then 2 else 3 + 32 * 1024)]
    | _ => []).getD []
  let proc (k : Nat) : List (Obj × Nat) := ((s.shProcs[k]?).map fun p => (Obj.desc (s.vchipOf p.cx) p.sheaf, 0)).toList
  let other : List (Obj × Nat) :=
    s.taken.filterMap fun e => match e.1 with
      | .desc v id => (s.ctxs.find? fun c => s.vchipOf c.cxid == v).bind fun c =>
          if (s.desc? c.cxid id).map (·.2) != (t.desc? c.cxid id).map (·.2) then some (.desc v id, 1) else none
      | _ => none
  match a.step? with
  | some (.acked k) | some (.dropped k) => proc k
  | some (.sheafSeal k) | some (.drop k) => msg k true
  | some (.shOpen k) | some (.pin k) | some (.unpin k) => msg k false
  | some (.packetIngress k) => far k
  | _ => other

/-- R255: bytes, then copy arrivals, then instructions. -/
def barReached (a : Act) (s t : State) : List (Obj × Nat) :=
  let ranks : List Nat := match a with
    | .issue .. => [2]
    | .event (.copyChunk _) | .event (.packetIngress _) => [0]
    -- a copy to a global destination counts its bytes as it completes (R263)
    | .event (.copyComplete k) => if ((s.copies[k]?).map fun c => !c.dstScratch && c.bytes != 0).getD false then [0, 1] else [1]
    | _ => [1]
  s.wgs.flatMap fun w =>
    match t.wg? w.cx w.kernel w.l with
    | some v => if v.barriers != w.barriers then ranks.map fun n => (.bars w.cx w.kernel w.l, n) else []
    | none => []

/-- R281. -/
def circReached (a : Act) (s t : State) : List (Obj × Nat) :=
  s.circuits.flatMap fun c =>
    let gone := !(t.circuits.any fun d => d.id == c.id && d.st != .removed)
    let o : Obj := .circ c.id
    if gone then (if c.st == .removed then [] else [(o, match a.step? with
      | some (.circuitRemove _) => 1
      | _ => 0)])
    else (t.circuits.find? fun d => d.id == c.id).toList.flatMap fun d =>
      (if d.st != c.st then [(o, match d.st with
        | .faulted => 2
        | .stopping => if ((t.ctx? c.cx).map fun x => x.st == .halted).getD false then 3 else 4
        | .running => 5
        | .stopped | .ended => 6
        | .removed => 0)] else [])
      ++ (if d.lap != c.lap && d.st == c.st then [(o, 6)] else [])
      ++ (if d.nextPace != c.nextPace && d.nextPace.isSome then [(o, 7)] else [])

/-- A slot that is found to belong to another group: by a board that completes SLOTOWNED, or by a WLOAD (R283, R302). -/
def foreignSlot (a : Act) (s t : State) : List (Obj × Nat) :=
  let foreign (r : GRef) (n : Nat) : Bool := (((s.core r.core).slot n).owner.map fun x => x != r).getD false
  match a with
  | .event (.arm k _) => ((s.arms[k]?).map fun m =>
      if m.un.isNone && foreign m.grp m.slot then [(Obj.tile m.grp.core, 4)] else []).getD []
  | _ => match issuedWord a s t with
    | some (g, w) => match decode w 0 with
      | .ok (.wload n _ _) => if foreign g.ref n.toNat then [(.tile g.ref.core, 5)] else []
      | _ => []
    | none => []

/-- R283, R295: release and save, preemptions, arrivals, verdicts, boards that arm, WFREE, WLOAD and cancellations, and the ends of boards. -/
def tileReached (a : Act) (s t : State) : List (Obj × Nat) :=
  foreignSlot a s t ++ s.cores.flatMap fun c =>
    let slots := (t.core c.n).slots
    if slots == c.slots then []
    else
      let owners := c.slots.filterMap (·.2.owner)
      let rank := match a with
        | .issue .. => 5
        | .event (.arrive ..) | .event (.heldHeaderForward ..) =>
          -- a board without NW that leaves its slot has ended
          if c.slots.any fun e => (e.2.board.map fun b => b.st == .armed && !b.nw).getD false
              && (slots.find? fun x => x.1 == e.1).any fun x => x.2.board.isNone then 6 else 2
        | .event (.verdict ..) => 3
        | .event (.arm k _) => if ((s.arms[k]?).map fun m => m.un.isSome).getD false then 5 else 4
        | .event (.mresFillDone ..) | .event (.wloadFillDone ..) => 5
        | _ => 6
      [(.tile c.n, if owners.any fun r => (s.group? r).isSome && (t.group? r).isNone then 0 else rank)]

/-- The objects that an act reaches, each with the act's place in the object's order. -/
def reached (a : Act) (s t : State) : List (Obj × Nat) :=
  ctxReached a s t ++ queueReached a s t ++ groupReached s t ++ flagReached a s t ++ homeReached a s t ++ l1Reached a s t
  ++ descReached a s t ++ barReached a s t ++ circReached a s t ++ tileReached a s t

/-- An event of this cycle that comes behind them has been taken. -/
def State.tooLate (s : State) (l : List (Obj × Nat)) : Bool :=
  l.any fun e => s.taken.any fun f => f.1 == e.1 && decide (e.2 < f.2)

/-- t, reached from s by an act, with what the act has taken. -/
def State.noted (t : State) (a : Act) (s : State) : State := { t with taken := reached a s t ++ t.taken }

end Sys2Proof.Machine
end

