-- ==== Sys2Proof/Machine/Issue.lean ====
section
/-! DEFINITION. An issue of a split (spec/02_words.md R29, R30, R33, R43; spec/07_group.md R112, R118, R125; spec/08_trap.md R148, R156,
R160): what is raised before the word, the fetch, the checks 1 to 4 of R43, decoding, single step, the order of the issue ports, the passing
of cycles, and a move of the schedule. -/

namespace Sys2Proof.Machine

/-- A split can issue (R112, R125, R148): its group is LIVE in a RUN context, it does not sleep, it is not stopped by a trap of its
group, and nothing that it waits for is outstanding. Waits that are tested again are no obstacle. -/
def State.ready (s : State) (g : Group) (p : Split) : Bool :=
  g.status == .live && ((s.ctx? g.cx).map fun c => c.st == .run).getD false
  && (match g.elected with
      | some (q, _) => q == p.id
      | none => true)
  && !((g.trapRec.map fun t => t.stopped.contains p.id).getD false)
  && decide (p.yieldTo ≤ s.cycle)
  && (match p.wait with
      | .join | .reply _ => false
      | .none | .marker .. | .got _ | .barWait .. | .host | .poll => true)

/-- A fetch that fails raises its cause at the word; one that meets a page in migration is tried again (R316). insn: the word at the
split's PC, where the fetch that fails is that of its literal or of the first word behind a header (R150). -/
def State.fetchFail (s : State) (g : Group) (p : Split) (pc : Nat) (r : XRes) (insn : Word := 0) : State :=
  match r with
  | .fail c d =>
    s.enterTrap g p { cause := causeBit c, lanes := p.exec, pc := p.pc, addr := pc, detail := d, insn := insn, clause := p.clause }
  | .wait | .ok _ => s

/-! ## The argument block (R118) -/

/-- The group's first issue reads its argument block; nothing else issues until it is here. -/
def State.readArgs (s : State) (g : Group) (p : Split) : State :=
  if s.ops.any fun o => o.grp == g.ref && o.flag == flagArgs then s
  else
    let (s1, l, f) := s.checkLanes g .read 64 (fun _ => true) [(32, g.argptr)]
    if f.cause ≠ 0 then
      s1.enterTrap g p { cause := f.cause, lanes := p.exec, pc := p.pc, addr := f.addr, detail := f.detail, insn := s.insnAt g p,
                         clause := p.clause }
    else if f.waits then s1
    else (s1.attachLoad g p .place flagArgs true 0 (.word 64) 64 {} p.exec l).2

/-! ## Causes raised before the word -/

/-- A failed walk of a store of the split, with no commit since: it may be found now, and the store traps (R156). -/
def State.dueWalk (s : State) (g : Group) (p : Split) : Option FailedWalk :=
  s.walks.find? fun w => w.site.grp == g.ref && w.site.split == p.id && w.commits == p.commits

def State.trapWalk (s : State) (g : Group) (p : Split) (w : FailedWalk) : State :=
  ({ s with walks := s.walks.filter fun x => x != w } : State).enterTrap g p
    { cause := w.cause, lanes := w.lanes, pc := w.site.pc, addr := w.va, detail := w.detail.toNat, insn := w.insn, clause := w.clause }

/-- A held cause of the split, or of a split that has ended (R148), or one due at the group's first issue (R146). -/
def Group.dueHeld (g : Group) (p : Split) : Option HeldCause :=
  g.held.find? fun h => h.first || h.split == p.id || (g.split? h.split).isNone

/-- The split restarts the count of R156. -/
def State.rearm (s : State) (g : Group) (p : Split) : State := s.updSplit g.ref p.id fun q => { q with progress := s.cycle }

/-- WATCHDOG before the word about to issue, which mode next resumes (R152, R156). -/
def State.trapWatchdog (s : State) (g : Group) (p : Split) : State :=
  (s.enterTrap g p { cause := cWATCHDOG, lanes := p.exec, pc := p.pc, insn := s.insnAt g p, nextpc := p.pc, resume := p.clause,
                     clause := p.clause }).rearm g p

def State.trapHeld (s : State) (g : Group) (p : Split) (h : HeldCause) : State :=
  let s1 := s.updGroup g.ref fun g => { g with held := g.held.erase h }
  if h.cause == cWATCHDOG then s1.trapWatchdog g p
  else
    s1.enterTrap g ((g.split? h.split).getD p)
      { cause := h.cause, lanes := h.lanes, pc := h.pc, addr := h.addr, detail := h.detail.toNat, insn := h.insn, nextpc := h.nextpc,
        resume := h.resume, clause := h.clause, rpc := h.rpc }

/-- BREAK is due: a breakpoint that has not been passed, or a halt request outside a handler (R83, R160). -/
def State.breakDue (s : State) (g : Group) (p : Split) : Bool :=
  (g.brk && !g.tactive)
  || (!p.passed && ((s.ctx? g.cx).map fun c => c.debugged && c.breakpoints.contains p.pc).getD false)

def State.trapBreak (s : State) (g : Group) (p : Split) : State :=
  (s.updGroup g.ref fun g => { g with brk := false }).enterTrap g p
    { cause := cBREAK, lanes := p.exec, pc := p.pc, insn := s.insnAt g p, nextpc := p.pc, resume := p.clause, clause := p.clause }

/-! ## Headers -/

/-- A cause raised at a header (R43): its frame allows mode region only. -/
def State.trapHdr (s : State) (g : Group) (p : Split) (c : Cause) (w : Word) : State :=
  s.enterTrap g p { cause := c, lanes := p.exec, pc := p.pc, insn := w, hdr := true }

/-- The word is a PAD with this label. -/
def isPad (w : Word) (lbl : Nat) : Bool :=
  match decode w 0 with
  | .ok (.pad l) => l.toNat == lbl
  | _ => false

/-- The header's own checks behind the word first that follows it (R30, R43 check 2); first counts only where a PAD is due or RE = 1. A
missing PAD traps JTAB before check 2 is made, with the header as PC and INSN (DEDUCED, log 40: the spec says only that the transfer
traps JTAB). -/
def State.startHeader (s : State) (g : Group) (p : Split) (w first : Word) : Out :=
  if (p.padDue.map fun l => !isPad first l).getD false then .next (s.trapHdr g p cJTAB w)
  else
    match decode w 0 with
    | .ok (.clauseHeader wait sav sa sbv sb n re yh) =>
      if re && !isRegion first then .next (s.trapHdr g p cILL w)
      -- its PAD is checked: the split stands at the header
      else exec (.clauseHeader wait sav sa sbv sb n re yh) (s.updSplit g.ref p.id fun q => { q with padDue := none })
    | _ => .next (s.trapHdr g p cILL w)

/-- A header with RE = 1, as far as it decodes. -/
def headerRe (w : Word) : Bool :=
  match decode w 0 with
  | .ok (.clauseHeader _ _ _ _ _ _ re _) => re
  | _ => false

/-- A header is expected (R30, R43 checks 1 and 2). A word whose top four bits are 0b1111 is taken as a header although it may be the
literal of another instruction (DEDUCED, log 40: R29 lets the top four bits alone mark a header, and R30 counts a literal as none).
Where a PAD is due or RE = 1, the first word behind the header is fetched, and a fetch that fails raises its own cause at the header
(DEDUCED, log 40). -/
def State.issueHeader (s : State) (g : Group) (p : Split) (w : Word) : Out :=
  if !isHeader w then .next (s.trapHdr g p (if p.jumped then cJTGT else cILL) w)
  else if p.padDue.isSome || headerRe w then
    match s.fetchWord g (p.pc + 4) with
    | (s1, .error r) => .next (s1.fetchFail g p (p.pc + 4) r w)
    | (s1, .ok first) => s1.startHeader g p w first
  else s.startHeader g p w 0

/-! ## Instructions -/

/-- Checks 1 and 4 of R43 at a word of a clause, and the rules of recipes (R143): c is the rest of the clause, n the words taken. REGION
stands first in an RE clause and nowhere else (R33). -/
def clauseRules (p : Split) (c : Clause) (w : Word) (n : Nat) : Bool :=
  !isHeader w && decide (n ≤ c.left) && (!isTransfer w || n == c.left) && (isRegion w == (c.re && c.first))
  && (!c.committed || isTransfer w) && !(p.recipe && isCommit w)

def State.trapILL (s : State) (g : Group) (p : Split) (w : Word) (n : Nat) : State :=
  s.enterTrap g p { cause := cILL, lanes := p.exec, pc := p.pc, insn := w, nextpc := p.pc + 4 * n,
                    resume := p.clause.bind fun c => c.after n, clause := p.clause }

/-- An instruction is expected. Its literal is fetched behind checks 1 and 4, and a literal that cannot be fetched raises its fetch cause
before checks 3 and 5 are made (DEDUCED, log 40: R43 does not place the fetch of a literal among the checks). -/
def State.issueWord (s : State) (g : Group) (p : Split) (c : Clause) (w : Word) : Out :=
  let n := if takesLiteral w then 2 else 1
  if !clauseRules p c w n then .next (s.trapILL g p w n)
  else
    let run (s : State) (lit : Word) : Out :=
      match decode w lit with
      | .error _ => .next (s.trapILL g p w n)
      | .ok i => exec i s
    if takesLiteral w then
      match s.fetchWord g (p.pc + 4) with
      | (s1, .error r) => .next (s1.fetchFail g p (p.pc + 4) r w)
      | (s1, .ok lit) => run s1 lit
    else run s 0

/-- The split of h that holds the lanes of a split of the group before: itself, or the one it has merged into. -/
def Group.heir? (h : Group) (o : Split) : Option Split :=
  match h.split? o.id with
  | some q => some q
  | none => h.splits.find? fun q => (q.lset &&& o.lset) != 0

/-- The STEPs that an issue of p raises under single step (R160): at p, and at the splits that the issue has let past their JOIN; g and h
are the group before and behind it, w is the word of p. -/
def Group.stepCauses (g : Group) (p : Split) (w : Word) (h : Group) : List HeldCause :=
  let olds := (p, w) :: (g.splits.filter fun o => o.id != p.id && o.wait == .join).map fun o => (o, word0 .join)
  olds.foldl (fun (l : List HeldCause) (o : Split × Word) =>
    match h.heir? o.1 with
    | none => l
    | some q =>
      if o.1.clause.isSome && (q.pc != o.1.pc || q.clause != o.1.clause) && !(l.any fun c => c.split == q.id) then
        l ++ [{ split := q.id, cause := cSTEP, lanes := q.exec, pc := o.1.pc, addr := 0, detail := 0, insn := o.2, nextpc := q.pc,
                resume := q.clause, clause := o.1.clause }]
      else l) []

/-- An instruction of p has issued: its split stands elsewhere. A clause header is no instruction, and takes no port (R112; DESIGN
CHOICE, log 24). -/
def State.issued (s : State) (g : Group) (p : Split) : Bool :=
  p.clause.isSome && match (s.group? g.ref).bind fun h => h.split? p.id with
    | some q => q.pc != p.pc || q.clause != p.clause
    | none => true

/-- A split stalls while its core's publish queue, or its L1, has no room for the 32 lines that an instruction may store to: the oldest
entry, or the line to give up, begins to publish in that cycle (R190, R211; the TW9 may publish any entry before it must, R192). -/
def State.relieve (s : State) (g : Group) (p : Split) : State :=
  let c := s.core g.ref.core
  if ((s.group? g.ref).bind fun h => h.split? p.id).any fun q => q.wait == .poll && q.pc == p.pc then
    if c.pq.length + 32 > Config.pqCap then s.drainOldest g.ref.core
    else if (c.l1.filter fun l => l.st == .D || l.st == .DS).length + 32 > c.l1Cap then s.evictDirty g.ref.core
    else s
  else s

/-- What an issue leaves behind: the port order of R112 sees it, and single step raises STEP after an instruction (R160). -/
def afterIssue (g : Group) (p : Split) (w : Word) (s : State) : State :=
  match s.group? g.ref with
  | none => s
  | some h =>
    let s1 := if s.issued g p then
        (s.updSplit g.ref p.id fun q => { q with lastIssue := s.cycle, readySince := s.cycle, aged := 0 }).updCore g.ref.core
          fun c => { c with issuedAt := (s.cycle, if c.issuedAt.1 = s.cycle then c.issuedAt.2 + 1 else 1) }
      else s
    let s1 := s1.relieve g p
    if g.step && !g.tactive && !h.tactive then
      s1.updGroup g.ref fun h1 => { h1 with held := h1.held ++ g.stepCauses p w h }
    else s1

def mapNext (f : State → State) (r : Out) : Out :=
  match r with
  | .next s => .next (f s)
  | .fault e => .fault e
  | .refused e => .refused e

/-- The word at the split's PC issues. -/
def State.issueAt (s : State) (g : Group) (p : Split) : Out :=
  if p.clause.isNone ∧ p.pc % 4 ≠ 0 then .next (s.trapHdr g p cJTGT 0)
  else
    match s.fetchWord g p.pc with
    | (s1, .error r) => .next (s1.fetchFail g p p.pc r)
    | (s1, .ok w) =>
      mapNext (afterIssue g p w) (match p.clause with
        | none => s1.issueHeader g p w
        | some c => s1.issueWord g p c w)

/-- After an issue the split still waits at the word at which it waited before. -/
def stillWaits (g : Group) (p : Split) (r : Out) : Bool :=
  match r with
  | .next t => ((t.group? g.ref).bind fun h => (h.split? p.id).map fun q =>
      q.wait != .none && q.pc == p.pc && q.clause == p.clause && h.tactive == g.tactive).getD false
  | .fault _ | .refused _ => false

/-- WATCHDOG is due (R156), and the split is ready or the issue that it tries ends its wait. -/
def State.watchdogRaised (s : State) (g : Group) (p : Split) : Bool :=
  s.watchdogDue g p && (p.wait == .none || !stillWaits g p (s.issueAt g p))

/-- What the split issues behind the causes that come first: the word, unless a failed walk, a held cause, WATCHDOG or BREAK is due. -/
def State.issueSplit (s : State) (g : Group) (p : Split) : Out :=
  let rest (s : State) : Out :=
    match g.dueHeld p with
    | some h =>
      if h.cause == cWATCHDOG && p.wait != .none && stillWaits g p (s.issueAt g p) then s.issueAt g p else .next (s.trapHeld g p h)
    | none =>
      if s.watchdogRaised g p then .next (s.trapWatchdog g p)
      else if s.breakDue g p then .next (s.trapBreak g p)
      else s.issueAt g p
  match s.dueWalk g p with
  | none => rest s
  | some w =>
    match s.drawBool with
    | (true, s1) => .next (s1.trapWalk g p w)
    | (false, s1) => rest s1

/-! ## The issue ports (R112) -/

/-- A split is ready: nothing stops it, its group's argument block is not being read, what it waits for has come, and the WAIT flags of a
clause that it is about to begin are clear. -/
def State.readyNow (s : State) (g : Group) (p : Split) : Bool :=
  s.ready g p && (g.argsRead || !s.flagSet g.ref flagArgs)
  && ((p.wait == .none && p.clause.isSome) || !stillWaits g p (s.issueAt g p))

/-- A co-run window is open for a RUN context (R343). -/
def State.hinted (s : State) (cx : Nat) : Bool := ((s.ctx? cx).map fun c => c.st == .run && c.hintOpen s.gtime).getD false

/-- Its class, plus one for each 4,096 cycles ready and unissued, and one in a co-run window, at most 7 (R112, R343). -/
def State.effClass (s : State) (g : Group) (p : Split) : Nat :=
  min 7 (g.cls + max p.aged ((s.cycle - p.readySince) / 4096) + (s.hinted g.cx).toNat)

/-- A port takes split q of group h before split p of group g. -/
def State.outranks (s : State) (h : Group) (q : Split) (g : Group) (p : Split) : Bool :=
  let a := s.effClass h q
  let b := s.effClass g p
  decide (b < a) || (a == b
    && (decide (q.lastIssue < p.lastIssue) || (q.lastIssue == p.lastIssue
      && (decide (h.ref.gctx < g.ref.gctx) || (h.ref.gctx == g.ref.gctx && decide (q.id < p.id))))))

/-- The split has issued in this cycle. -/
def State.issuedNow (s : State) (p : Split) : Bool := p.lastIssue == s.cycle && s.cycle != 0

/-- A port of the core may take the split in this cycle: one of the two is left, the split has not issued in this cycle, and no other
ready split that has not comes before it. A clause header takes no port. -/
def State.portAllows (s : State) (g : Group) (p : Split) : Bool :=
  let c := s.core g.ref.core
  p.clause.isNone
  || ((c.issuedAt.1 != s.cycle || decide (c.issuedAt.2 < 2)) && !s.issuedNow p
      && s.groups.all fun h => h.ref.core != g.ref.core || h.splits.all fun q =>
          (h.ref == g.ref && q.id == p.id) || s.issuedNow q || !s.outranks h q g p || !s.readyNow h q)

/-- The issuer issues, where it can and a port takes it: else only time has passed. -/
def stepIssue (s : State) : Out :=
  match (s.group? s.issuerRef).bind fun g => (g.split? s.issuer.split).map fun p => (g, p) with
  | none => .next s
  | some (g, p) =>
    if !s.ready g p || !s.portAllows g p then .next s
    else if !g.argsRead && !g.tactive && (g.dueHeld p).isNone then .next (s.readArgs g p)
    else s.issueSplit g p

/-! ## Time -/

/-- n groups charge an RCB for the dt cycles up to now; the cycle in which its budget is reached is kept (R102). -/
def State.chargeRcb (s : State) (r : Rcb) (dt n : Nat) : Rcb :=
  let total := r.charge + dt * n
  let at_ := (budgetOf (s.rcbChain r.cx 8 r.addr)).bind fun b =>
    if total < b then none
    else if r.charge < b then some (s.cycle - (total - b) / n)
    else some (r.spentAt.getD (s.cycle - dt))
  { r with charge := total, spentAt := at_ }

/-- Every resident group charges each cycle to its kernel's RCB and to the ancestors of that RCB (R102). -/
def State.charge (s : State) (dt : Nat) : State :=
  let run := s.groups.filter fun (g : Group) => g.status != .reserved
  if run.isEmpty ∨ s.rcbs.isEmpty then s
  else
    let under := run.flatMap fun (g : Group) => (s.kernelChain g.cx g.kernel).map fun r => (r.cx, r.addr)
    { s with rcbs := s.rcbs.map fun r => s.chargeRcb r dt (under.filter fun u => u == (r.cx, r.addr)).length }

/-- The RCB r of root at $GTIME g behind dt cycles: where a boundary of root's period lies in them, the charge returns to zero, its
subtree is parked no more, and the cycles behind the boundary charge anew (R102). n resident groups charged r before the cycles passed;
charge holds them already. -/
def Rcb.passPeriod (r root : Rcb) (g dt n : Nat) : Rcb :=
  let len := 1000 * root.periodUs
  let no := g / len
  if no = root.periodNo then r
  else
    let behind := min dt (9 * (g % len) / 4)
    { r with charge := n * behind, parked := false, spentAt := none,
             used := if no = root.periodNo + 1 then r.charge - n * behind else min (n * dt) (n * (2250 * root.periodUs)),
             periodNo := no, boundary := r.boundary || r.addr == root.addr }

/-- The periods that end in dt cycles (R102); a kernel that was parked begins to wait for room (R106). before: the state before the
cycles. -/
def State.chargePeriods (s before : State) (dt : Nat) : State :=
  let due (cx : Nat) : Bool := ((s.rootRcb? cx).map fun r => s.periodNo r != r.periodNo).getD false
  { s with rcbs := upd (fun r : Rcb => due r.cx) (fun r => match s.rootRcb? r.cx with
             | none => r
             | some root => r.passPeriod root s.gtime dt (before.chargers r)) s.rcbs,
           kernels := upd (fun k : Kernel => due k.cx && s.itemParked (.kernel k))
             (fun k => { k with waitingSince := s.cycle, blocking := false }) s.kernels }

/-- A split that is not ready gathers no age (R112): its count of cycles ready and unissued stands still. -/
def State.ageSplit (s : State) (dt : Nat) (g : Group) (p : Split) : Split :=
  if s.readyNow g p then p else { p with readySince := p.readySince + dt }

/-- The wait of R106 counts while a workgroup waits for room, and stands still else. -/
def State.ageKernel (s : State) (dt : Nat) (k : Kernel) : Kernel :=
  if k.blocking || s.lacksRoom k then k else { k with waitingSince := k.waitingSince + dt }

def State.age (s : State) (dt : Nat) : State :=
  { s with groups := s.groups.map fun g => { g with splits := g.splits.map (s.ageSplit dt g) }, kernels := s.kernels.map (s.ageKernel dt) }

/-- dt cycles pass: $GTIME counts 4/9 ns for each at 2.25 GHz, and a backward correction takes 100 ppm of that until it is absorbed
(R350, R351, log 7). gtimeSub and slew count 1/90,000 ns. -/
def State.tick (s : State) (dt : Nat) : State :=
  let back := min s.slew (4 * dt)
  let sub := s.gtimeSub + 40000 * dt - back
  ({ s with cycle := s.cycle + dt, slew := s.slew - back, gtimeSub := sub % 90000, gtime := (s.gtime + sub / 90000) % 2 ^ 64 } :
    State).charge dt

/-- dt cycles pass, with what each cycle does by itself. -/
def State.pass (s : State) (dt : Nat) : State :=
  if dt = 0 then s
  else
    let s1 := ((s.age dt).tick dt).chargePeriods s dt
    let held := ((s.wgs.flatMap fun w => w.barriers.map fun e => e.2.held.length).foldl (· + ·) 0) + 1
    let s2 := s1.takeAllHeld held dt
    if held < dt then { s2 with taken := [] } else s2

/-- Symbols of a line go wrong in memory, where no cache is to write it back (R326). -/
def State.upsetLine (s : State) (n symbols : Nat) : State :=
  if s.l2.any fun l => !l.key.pod && l.key.n == n then s
  else s.setMeta n { s.lmeta n with wrong := min 68 ((s.lmeta n).wrong + symbols) }

/-- What a move does when its time has come: a split issues or another agent acts (log 6). An instruction of a split is no step of another
agent. -/
def State.act (s : State) (a : Act) : Out :=
  if s.modl.recovery && !a.inRecovery then .next s
  else match a with
  | .issue core gctx split => stepIssue { s with issuer := { core := core, gctx := gctx, split := split } }
  | .event i => if i.words = 0 then exec i { s with hostStream := none } else .next s
  | .access stream i => if i.words = 0 then exec i { s with hostStream := some stream } else .next s
  | .ambient hot => .next { s with hot := hot }
  | .upset n k => .next (s.upsetLine n k)
  | .ideFailure n => .next (s.ideFailure n)
  | .credit pkg cxid held => .next (s.credit pkg cxid held)
  | .mctp session command zero cxid arg inp => execRecovery session command zero cxid.toNat arg inp s

/-- A step whose engine met a page in migration waits: nothing of it has happened (R316). -/
def State.unlessWaiting (s : State) (r : Out) : Out :=
  match r with
  | .next t => .next (if t.migWait then s else t)
  | .fault e => .fault e
  | .refused e => .refused e

/-- An act in the present cycle. Where an event that its object takes behind it has been taken in this cycle, it waits for the next
(R8). -/
def State.actInOrder (s : State) (a : Act) : Out :=
  match s.unlessWaiting (s.act a) with
  | .next t => .next (if s.tooLate (reached a s t) then { s with schedule := { dt := 1, act := a } :: s.schedule } else (t.wakeFor s a).noted a s)
  | .fault e => .fault e
  | .refused e => .refused e

/-- The step of a move: time passes, then its act is performed. -/
def stepMove (s : State) (m : Move) : Out := (s.pass m.dt).actInOrder m.act

/-- A step whose cycle is stated takes place in it. -/
def State.takeDue (s : State) (d : Timed) : Out :=
  let s0 : State := { s with hostStream := none }
  let behind (a : Act) (r : Out) : Out := mapNext (fun t => ({ t with migWait := false } : State).noted a s) r
  match d with
  | .event i => behind (.event i) (exec i s0)
  | .flag op => .next (s.finishOp op)
  | .expiry cx => behind (.ambient s.hot) (execContextWatchdogExpiry cx s0)
  | .period cx => behind (.ambient s.hot) (execRcbPeriodBoundary cx s0)
  | .budget cx rcb => behind (.ambient s.hot) (execBudgetExhausted cx rcb s0)
  | .room cx k => behind (.ambient s.hot) (execPlacementWait1ms cx k s0)
  | .sampler cx => behind (.ambient s.hot) (execSamplerTick cx s0)
  | .repost op => behind (.ambient s.hot) (execWatchRepost op s0)
  | .scatter core => .next (s.scatterStep core)
  | .warm => .next s.warmEnd
  | .prewake u => .next (s.wakeUnit u)

/-- The first move of the schedule, or an issue of the current issuer in the next cycle (log 6), and the schedule behind it. -/
def State.nextMove (s : State) : Move × List Move :=
  match s.schedule with
  | [] => ({ dt := 1, act := .issue s.issuer.core s.issuer.gctx s.issuer.split }, [])
  | m :: ms => (m, ms)

/-- The machine's next step: one whose cycle is stated and comes no later than the next move, else that move; where the move names that
step in its cycle, the move. A unit that the step needs is awake behind it (R360). -/
def stepNext (s : State) : Out :=
  let (m, ms) := s.nextMove
  mapNext State.wakeNeeded <| match s.dueBy (s.cycle + m.dt) with
  | none => stepMove { s with schedule := ms } m
  | some d =>
    if d.cycle = s.cycle + m.dt ∧ d.step.named m.act then stepMove { s with schedule := ms } m
    else
    let n := d.cycle - s.cycle
    let left := match s.schedule with
      | [] => []
      | x :: xs => { x with dt := x.dt - n } :: xs
    (({ s with schedule := left } : State).pass n).takeDue d.step

end Sys2Proof.Machine
end

