-- ==== Sys2Proof/Machine/Step.lean ====
section
/-! DEFINITION. The step of the machine, and a state whose next step runs a given instruction. -/

namespace Sys2Proof.Machine

/-- One step: the next move of the schedule, else an issue of the current issuer (log 6). -/
def step (s : State) : Host.Outcome State Fault Refusal := stepNext s

/-- The context, table, workgroup and group of withFetchWord (log 19). -/
def fetchCx : Nat := 1
def fetchRoot : Nat := 0x1000
def fetchTable : Nat := 0x2000
def fetchPc : Nat := 0x4000

def fetchContext : Context :=
  { cxid := fetchCx, st := .run, slot := true, bindRec := { ptRoot := fetchRoot, saveBase := 0x100000, saveSize := 0xD00000, debug := true } }

def fetchWg : Workgroup :=
  { cx := fetchCx, kernel := 0, l := 0, core := 0, rank := 0, launchBase := 0, launchSize := 1, scratchBytes := 4096, l1kib := 256 }

def fetchKernel : Kernel := { cx := fetchCx, id := 0, kdAddr := 0, kd := {}, st := .running, deps := [], nextL := 1, rcb := 0 }

/-- The split stands in a clause that holds exactly the instruction, with flags F0 and F1, or before a clause header. -/
def fetchSplit (w : Word) : Split :=
  let n := if takesLiteral w then 2 else 1
  { id := 0, pc := fetchPc, lset := BitVec.allOnes 32, exec := BitVec.allOnes 32, ended := false,
    clause := if isHeader w then none
              else some { hdr := fetchPc - 4, left := n, setA := some 0, setB := some 1, re := isRegion w, first := true },
    region := some { entry := fetchPc - 4, live := [], smask := 0, recipe := none, exec := BitVec.allOnes 32, depth := 0, elect := none,
                     serial := 0 } }

def fetchGroup (w : Word) : Group :=
  { ref := { core := 0, gctx := 0 }, status := .live, cx := fetchCx, kernel := 0, wg := 0, gidx := 0, allot := 256, cls := 0, priv := true,
    splits := [fetchSplit w] }

/-- s with an instruction, whose words lie as spec/opcode_table.json numbers their bits, where the next step fetches: a context in RUN
with a table of two entries, and a group on core 0 whose split is the issuer (log 19: what a load of a program amounts to). -/
def State.withFetchWord (s : State) (nbits w : Nat) : State :=
  let x := w % 2 ^ nbits
  let m1 := wrMem s.mem fetchRoot 8 (fetchTable + 1)
  let m2 := wrMem m1 fetchTable 8 0x00C0_0000_0000_000F
  let m3 := wrMem m2 fetchPc 8 (x % 2 ^ 64)
  let g := fetchGroup (BitVec.ofNat 32 x)
  let s1 : State := { s with mem := m3, ctxs := fetchContext :: s.ctxs.filter fun c => c.cxid != fetchCx,
                             sectorTlb := s.sectorTlb.filter fun e => e.2.cx != fetchCx,
                             groups := g :: s.groups.filter fun h => h.ref != g.ref,
                             wgs := fetchWg :: s.wgs.filter fun v => v.cx != fetchCx,
                             kernels := fetchKernel :: s.kernels.filter fun k => k.cx != fetchCx,
                             issuer := {}, schedule := [] }
  let s2 := s1.updCore 0 fun c => { c with tlb := c.tlb.filter fun t => t.cx != fetchCx }
  ((s2.setMeta (fetchRoot / 128) {}).setMeta (fetchTable / 128) {}).setMeta (fetchPc / 128) {}

end Sys2Proof.Machine
end

