-- ==== Sys2Proof/Safety.lean ====
section
/-! DEFINITION. What counts as a safe run, the invariant of memory, and the terms that the statements use: who issues, which operands
an instruction may touch, and what it leaves unchanged. -/

namespace Sys2Proof.Machine

/-! ## Runs -/

/-- A run of n steps from s ends in t: no step of it stops. -/
def RunsTo (n : Nat) (s t : State) : Prop := Sys2Proof.core.run n s = .next t

/-- A state from which no number of steps faults. The one fault of the model is noIssuer. -/
def Safe (s : State) : Prop := ∀ n e, Sys2Proof.core.run n s ≠ .fault e

/-- The canonical form of memory (Memory.wf, log 1). -/
def State.memWf (s : State) : Prop := Memory.wf s.mem = true

/-! ## The issuing split -/

/-- p, a split of group g, issues in s. -/
structure Issues (s : State) (g : Group) (p : Split) : Prop where
  group : s.group? s.issuerRef = some g
  split : g.split? s.issuer.split = some p

/-- Checks 7 and 8 of R43 pass: every slot lies in the allotment (R24), and no operation of the group holds a named register pending
(R32). -/
structure Readable (s : State) (g : Group) (u : Uses) : Prop where
  window : ∀ r ∈ u.v, g.wb + r < g.allot
  slots : ∀ o ∈ s.ops, o.grp = g.ref → ∀ r ∈ u.v, g.wb + r ∉ o.pend.vw ∧ g.wb + r ∉ o.pend.vr
  uniform : ∀ o ∈ s.ops, o.grp = g.ref → ∀ r ∈ u.s, r ∉ o.pend.sw
  masks : ∀ o ∈ s.ops, o.grp = g.ref → ∀ r ∈ u.m, r ∉ o.pend.mw

/-- The byte of physical memory at an address. -/
def State.byte (s : State) (a : Nat) : Byte := sget 0 s.mem a

/-! ## Frames -/

/-- From s to t only the groups with reference r have changed: every other piece of the machine, and every byte of memory, is as
before. g and g' are the group before and after. -/
structure OnlyGroup (s t : State) (g g' : Group) : Prop where
  before : s.group? g.ref = some g
  after : t.group? g.ref = some g'
  machine : t = { s with groups := t.groups }
  others : ∀ r, r ≠ g.ref → t.group? r = s.group? r
  memory : ∀ a, t.byte a = s.byte a

/-- The group g' differs from g at most in its V, S and M registers, $FPFLAGS and its split p, which has become p'. -/
structure OnlyRegs (g g' : Group) (p p' : Split) : Prop where
  record : g' = { g with v := g'.v, s := g'.s, m := g'.m, fpflags := g'.fpflags, splits := g'.splits }
  split : g'.split? p.id = some p'
  splits : ∀ n, n ≠ p.id → g'.split? n = g.split? n

/-- Every V register but those that V names keeps its lanes. -/
def SameV (g g' : Group) (V : Nat → Nat → Prop) : Prop := ∀ r l, l < 32 → ¬ V r l → g'.getP r l = g.getP r l

def SameS (g g' : Group) (S : Nat → Prop) : Prop := ∀ r, ¬ S r → g'.getS r = g.getS r

def SameM (g g' : Group) (M : Nat → Prop) : Prop := ∀ r, ¬ M r → g'.getM r = g.getM r

/-- i completes: in every active lane l slot d holds f l; every other lane, slot and register, the flags, memory and the rest of the
machine are as before, and the split stands behind the instruction. -/
def LaneResult (s : State) (g : Group) (p : Split) (i : Instr) (d : Nat) (f : Nat → Word) : Prop :=
  ∃ t g', exec i s = .next t ∧ OnlyGroup s t g g' ∧ OnlyRegs g g' p (p.past i.words) ∧ g'.fpflags = g.fpflags
    ∧ (∀ l, l < 32 → p.exec.getLsbD l = true → g'.getV d l = f l)
    ∧ SameV g g' (fun r l => r = g.wb + d ∧ p.exec.getLsbD l = true) ∧ SameS g g' (fun _ => False) ∧ SameM g g' (fun _ => False)

/-- The same for the pair of slots d and d + 1: in every active lane the pair holds f l, its low word in slot d (R25). -/
def PairResult (s : State) (g : Group) (p : Split) (i : Instr) (d : Nat) (f : Nat → DWord) : Prop :=
  ∃ t g', exec i s = .next t ∧ OnlyGroup s t g g' ∧ OnlyRegs g g' p (p.past i.words) ∧ g'.fpflags = g.fpflags
    ∧ (∀ l, l < 32 → p.exec.getLsbD l = true → g'.getV (d + 1) l ++ g'.getV d l = f l)
    ∧ SameV g g' (fun r l => (r = g.wb + d ∨ r = g.wb + d + 1) ∧ p.exec.getLsbD l = true)
    ∧ SameS g g' (fun _ => False) ∧ SameM g g' (fun _ => False)

/-- The sticky flags of R59: each is set if it was, or if an active lane sets it. -/
def FlagsJoined (g g' : Group) (p : Split) (fl : Nat → BitVec 5) : Prop :=
  ∀ k, g'.fpflags.getLsbD k = true ↔
    g.fpflags.getLsbD k = true ∨ ∃ l, l < 32 ∧ p.exec.getLsbD l = true ∧ (fl l).getLsbD k = true

/-- A lane result with the flags that its active lanes raise. -/
def FloatResult (s : State) (g : Group) (p : Split) (i : Instr) (d : Nat) (f : Nat → FRes) : Prop :=
  ∃ t g', exec i s = .next t ∧ OnlyGroup s t g g' ∧ OnlyRegs g g' p (p.past i.words)
    ∧ FlagsJoined g g' p (fun l => (f l).2)
    ∧ (∀ l, l < 32 → p.exec.getLsbD l = true → g'.getV d l = (f l).1)
    ∧ SameV g g' (fun r l => r = g.wb + d ∧ p.exec.getLsbD l = true) ∧ SameS g g' (fun _ => False) ∧ SameM g g' (fun _ => False)

/-- i completes: S register d holds x and nothing else but the split has changed. -/
def UniResult (s : State) (g : Group) (p : Split) (i : Instr) (d : Nat) (x : Word) : Prop :=
  ∃ t g', exec i s = .next t ∧ OnlyGroup s t g g' ∧ OnlyRegs g g' p (p.past i.words) ∧ g'.fpflags = g.fpflags
    ∧ g'.getS d = x ∧ SameV g g' (fun _ _ => False) ∧ SameS g g' (fun r => r = d) ∧ SameM g g' (fun _ => False)

/-- i completes: M register d holds a word whose bit l is f l for every lane l; nothing else but the split has changed. -/
def MaskResult (s : State) (g : Group) (p : Split) (i : Instr) (d : Nat) (f : Nat → Bool) : Prop :=
  ∃ t g', exec i s = .next t ∧ OnlyGroup s t g g' ∧ OnlyRegs g g' p (p.past i.words) ∧ g'.fpflags = g.fpflags
    ∧ (∀ l, l < 32 → (g'.getM d).getLsbD l = f l) ∧ SameV g g' (fun _ _ => False) ∧ SameS g g' (fun _ => False)
    ∧ SameM g g' (fun r => r = d)

/-- i completes: bit l of M register m is c l for every active lane, ANDed with the old bit in the combining form; the other bits are
kept (R167); the flags that the active lanes raise are joined. -/
def CmpResult (s : State) (g : Group) (p : Split) (i : Instr) (m : Nat) (comb : Bool) (c : Nat → Bool) (fl : Nat → BitVec 5) : Prop :=
  ∃ t g', exec i s = .next t ∧ OnlyGroup s t g g' ∧ OnlyRegs g g' p (p.past i.words) ∧ FlagsJoined g g' p fl
    ∧ (∀ l, l < 32 → (g'.getM m).getLsbD l =
        if p.exec.getLsbD l = true then (c l && (!comb || (g.getM m).getLsbD l)) else (g.getM m).getLsbD l)
    ∧ SameV g g' (fun _ _ => False) ∧ SameS g g' (fun _ => False) ∧ SameM g g' (fun r => r = m)

/-- i completes: the split p has become p', the S registers that S names hold its words, and nothing else has changed. -/
def MoveResult (s : State) (g : Group) (p : Split) (i : Instr) (p' : Split) (S : Nat → Option Word) : Prop :=
  ∃ t g', exec i s = .next t ∧ OnlyGroup s t g g' ∧ OnlyRegs g g' p p' ∧ g'.fpflags = g.fpflags
    ∧ SameV g g' (fun _ _ => False) ∧ (∀ r, g'.getS r = (S r).getD (g.getS r)) ∧ SameM g g' (fun _ => False)

/-- The split behind a control transfer to address a (R30): a header is expected there. -/
def Split.landed (p : Split) (a : Nat) : Split :=
  { p with pc := a, clause := none, wait := .none, jumped := true, padDue := none, passed := false }

/-- The split at the address after its clause (R30). -/
def Split.fallen (p : Split) : Split :=
  { p with pc := p.nextHeader, clause := none, wait := .none, jumped := false, padDue := none, passed := false }

/-- The target of a word offset (R38). -/
def wordTarget (pc : Nat) (off : Int) : Nat := (((pc : Int) + 4 * off) % 2 ^ 64).toNat

/-- A word for each register of a pair n that takes the 64-bit value x (R25). -/
def pairIs (n : Nat) (x : DWord) (r : Nat) : Option Word :=
  if r = 2 * n then some (x.extractLsb' 0 32) else if r = 2 * n + 1 then some (x.extractLsb' 32 32) else none

/-- The group g' differs from g in its split p alone, which has become p'. -/
structure OnlySplit (g g' : Group) (p p' : Split) : Prop where
  record : g' = { g with splits := g'.splits }
  split : g'.split? p.id = some p'
  splits : ∀ n, n ≠ p.id → g'.split? n = g.split? n

/-- x clamped to the range lo .. hi. -/
def clampTo (lo hi x : Int) : Int := if x < lo then lo else if hi < x then hi else x

/-- The registers of a lane instruction with destination d, source a and operand b. -/
def laneUses (d a : BitVec 7) (b : Opnd) : Uses := (opndUses b).append { v := [d.toNat, a.toNat] }

/-- The registers of a unary lane instruction. -/
def unaryUses (d : BitVec 7) (b : Opnd) : Uses := (opndUses b).append { v := [d.toNat] }

/-! ## Memory instructions -/

/-- The split p of group g goes on as p' in t, where s1 is the state behind the address checks of s. Only last-page registers and the
split differ in the group, no other group has changed since s, and no byte of memory since s1. -/
structure MovesOn (s s1 t : State) (g g' : Group) (p p' : Split) : Prop where
  group : t.group? g.ref = some g'
  record : g' = { g with lastPage := g'.lastPage, splits := g'.splits }
  split : g'.split? p.id = some p'
  splits : ∀ n, n ≠ p.id → g'.split? n = g.split? n
  others : ∀ r, r ≠ g.ref → t.group? r = s.group? r
  memory : ∀ a, t.byte a = s1.byte a

/-- The operation o belongs to the split p of g, waits on flag f, and holds the registers u pending. -/
structure Pends (g : Group) (p : Split) (f : Nat) (u : PendSet) (o : PendOp) : Prop where
  grp : o.grp = g.ref
  split : o.split = p.id
  flag : o.flag = f
  pend : o.pend = u
  pc : o.pc = p.pc

/-- A load of the lanes and addresses eas into n registers from d. No lane: it only moves on. A lane that fails its checks: a trap with
the causes of the failing lanes. Else one operation with an access per lane waits on flag f. -/
def LoadResult (s : State) (g : Group) (p : Split) (f : Nat) (i : Instr) (uni : Bool) (d n : Nat) (nar : Narrow)
    (eas : List (Nat × Nat)) : Prop :=
  (eas = [] → MoveResult s g p i (p.past i.words) (fun _ => none))
  ∧ ∀ (s1 : State) (l : List LaneEa) (e : LaneFail), eas ≠ [] →
    s.checkLanes g .read (narrowBytes nar) (fun _ => true) eas = (s1, l, e) →
    (e.cause ≠ 0 → exec i s = .next (s1.trapAt g p i e.cause (if uni then p.exec else e.lanes) e.addr e.detail))
    ∧ (e.cause = 0 → e.waits = false → ∃ t g' o accs lines, exec i s = .next t ∧ MovesOn s s1 t g g' p (p.past i.words) ∧ o ∈ t.ops
      ∧ Pends g p f (if uni then { sw := runRegs d n } else { vw := runRegs d n }) o
      ∧ o.kind = .load uni d nar accs lines p.exec ∧ accs.map (fun a => (a.lane, a.va)) = eas
      ∧ (∀ a ∈ accs, a.off = a.va % 128) ∧ (∀ a ∈ accs, ∃ w ∈ lines, w.key = a.key))

/-- A scratchpad load of accesses l into n registers from d (R218, R219): a trap where an access fails, else one operation. -/
def ScratchLoadResult (s : State) (g : Group) (p : Split) (f : Nat) (i : Instr) (d n : Nat) (nar : Narrow)
    (l : List (Nat × Nat × Option (Nat × Bool) × Nat)) : Prop :=
  (l = [] → MoveResult s g p i (p.past i.words) (fun _ => none))
  ∧ let e := scratchFail s g (narrowBytes nar) l
    (l ≠ [] → e.cause ≠ 0 → exec i s = .next (s.trapAt g p i e.cause e.lanes e.addr e.detail))
    ∧ (l ≠ [] → e.cause = 0 → ∃ t g' o accs, exec i s = .next t ∧ t = { s with groups := t.groups, ops := s.ops ++ [o], nextId := s.nextId + 1 }
      ∧ t.group? g.ref = some g' ∧ OnlySplit { g with bkcnt := g'.bkcnt } g' p (p.past i.words) ∧ g.bkcnt.toNat ≤ g'.bkcnt.toNat
      ∧ (∀ r, r ≠ g.ref → t.group? r = s.group? r) ∧ Pends g p f { vw := runRegs d n } o ∧ o.kind = .lds d nar accs
      ∧ accs.map (fun a => (a.1, a.2.2)) = l.map fun a => (a.1, a.2.2.2))

/-- A store of the lanes and addresses eas whose checks all pass and whose lines all take their bytes: the state behind it is k of the
state s3 that storeBytes leaves, which no byte of memory tells from s1 (a store reaches memory when its line is published, R191). In
s3 the storing core's L1 line of each lane's address holds the lane's bytes from the address on, dirty and valid, where no later lane
stores to them and they are no read-only bytes of a trap frame (R150, R190, R209, R219); the L1s of the other cores are as before. -/
def StoreResult (s : State) (g : Group) (p : Split) (i : Instr) (sow : Bool) (push : BitVec 32) (size : Nat) (ok : LineKey → Bool)
    (eas : List (Nat × Nat)) (val : Nat → Nat) (k : State → State) : Prop :=
  ∀ (s1 : State) (ls : List StoreLane), checkStore s g size ok eas = (s1, ls) →
    (∀ e ∈ ls, e.bad.cause = 0) → (∀ e ∈ ls, e.bad.waits = false) →
    let oks := ls.flatMap (·.ok)
    let s2 := s1.sampleLanes g oks
    oks.map (fun a => (a.lane, a.va)) = eas
    ∧ ∀ s3, storeBytes s2 (siteOf g p) sow push size val oks = some s3 →
      exec i s = .next (k s3) ∧ s3 = { s2 with cores := s3.cores, nextId := s3.nextId } ∧ (∀ a, (k s3).byte a = s1.byte a)
      ∧ (∀ n, n ≠ g.ref.core → s3.core n = s2.core n)
      ∧ ∀ (n : Nat) (a : LaneEa) (j : Nat), oks[n]? = some a → j < size → (s2.frameRo a.key).getLsbD (a.va % 128 + j) = false →
        (∀ (m : Nat) (b : LaneEa), n < m → oks[m]? = some b → b.key.same a.key = true →
          a.va % 128 + j < b.va % 128 ∨ b.va % 128 + size ≤ a.va % 128 + j) →
        ∃ l, (s3.core g.ref.core).line? a.key = some l ∧ lineNat l.data (a.va % 128 + j) 1 = val a.lane / 256 ^ j % 256
          ∧ l.valid.getLsbD (a.va % 128 + j) = true ∧ l.dirty.getLsbD (a.va % 128 + j) = true

/-- A scratchpad store of size bytes at off l in every active lane: each byte of the workgroup's scratchpad holds what the highest lane
that covers it stored, or what it held. -/
def ScratchStoreResult (s : State) (g : Group) (p : Split) (i : Instr) (size : Nat) (val off : Nat → Nat) : Prop :=
  let e := scratchFail s g size (localLanes p off)
  (e.cause ≠ 0 → exec i s = .next (s.trapAt g p i e.cause e.lanes e.addr e.detail))
  ∧ ∀ w, s.wgOf g = some w → e.cause = 0 → s.stsrAhead g g.wg = false →
    ∃ t g' w', exec i s = .next t ∧ t = { s with groups := t.groups, wgs := t.wgs } ∧ t.group? g.ref = some g'
      ∧ OnlySplit { g with bkcnt := g'.bkcnt } g' p (p.past i.words) ∧ (∀ r, r ≠ g.ref → t.group? r = s.group? r)
      ∧ t.wgOf g = some w' ∧ w' = { w with scratch := w'.scratch }
      ∧ (∀ b, (∀ l, l < 32 → p.exec.getLsbD l = true → b < off l ∨ off l + size ≤ b) → w'.byte b = w.byte b)
      ∧ ∀ l j, l < 32 → p.exec.getLsbD l = true → j < size →
        (∀ l', l < l' → l' < 32 → p.exec.getLsbD l' = true → off l + j < off l' ∨ off l' + size ≤ off l + j) →
        w'.byte (off l + j) = BitVec.ofNat 8 (val l / 256 ^ j)

/-- A release of a split at a scope has nothing left to wait for (R198). -/
def Released (s : State) (g : Group) (p : Split) (sc : Scope) : Prop :=
  wideScope sc = true → ∀ pq stsr pkts core,
    (p.wait = .marker pq stsr pkts core ∨ (∀ a b c d, p.wait ≠ .marker a b c d) ∧ s.marker g.ref.core sc = .marker pq stsr pkts core) →
    s.markerDone pq stsr pkts core = true

/-! ## Instructions that act outside their group -/

/-- From s to t the group of the split p keeps its V and M registers and $FPFLAGS, its S registers take the words that S names, and
the split stands behind i; the registers of every other group are as before. -/
def GoesOn (s t : State) (g : Group) (p : Split) (i : Instr) (S : Nat → Option Word) : Prop :=
  ∃ g' q, t.group? g.ref = some g' ∧ g'.v = g.v ∧ g'.m = g.m ∧ g'.fpflags = g.fpflags
    ∧ (∀ r, g'.getS r = (S r).getD (g.getS r)) ∧ g'.split? p.id = some q ∧ q.pc = p.pc + 4 * i.words ∧ q.exec = p.exec
    ∧ q.lset = p.lset ∧ q.wait = .none
    ∧ ∀ r, r ≠ g.ref → (t.group? r).map (fun h => (h.v, h.s, h.m, h.fpflags)) = (s.group? r).map fun h => (h.v, h.s, h.m, h.fpflags)

/-- Every byte of memory is as before. -/
def SameMem (s t : State) : Prop := ∀ a, t.byte a = s.byte a

/-- i completes: the split goes on, S registers take the words of S, memory is as before, and x holds of the state behind it. -/
def WordResult (s : State) (g : Group) (p : Split) (i : Instr) (S : Nat → Option Word) (x : State → Prop) : Prop :=
  ∃ t, exec i s = .next t ∧ GoesOn s t g p i S ∧ SameMem s t ∧ x t

/-- i completes by an operation on flag f that holds u pending; k says what it is. -/
def AttachResult (s : State) (g : Group) (p : Split) (i : Instr) (f : Nat) (u : PendSet) (k : OpKind → Prop) (x : State → Prop) :
    Prop :=
  WordResult s g p i (fun _ => none) fun t => (∃ o ∈ t.ops, Pends g p f u o ∧ k o.kind) ∧ x t

/-- Register d takes x. -/
def oneS (d : Nat) (x : Word) (r : Nat) : Option Word := if r = d then some x else none

/-- The state t has committed for the split p: its region has ended (R33). -/
def Committed (t : State) (g : Group) (p : Split) : Prop :=
  ∃ g' q, t.group? g.ref = some g' ∧ g'.split? p.id = some q ∧ q.ended = true ∧ q.commits = p.commits + 1

/-! ## Homes -/

/-- A line that this module homes outside sheaf pages and descriptor tables, not poisoned, and without copies at other slices or
cores. -/
structure PlainLine (s : State) (k : LineKey) : Prop where
  here : k.pod = false
  slot : k.sh = 0
  table : s.descOf k = false
  clean : s.poisoned k.n (s.domain k.cx k.kds) = false
  alone : s.copiesOf k = []

/-- From s to t the masked bytes of line n have become those of data; every other byte of memory is as before. -/
def LineWritten (s t : State) (n : Nat) (data : LineData) (mask : LineMask) : Prop :=
  ∀ a, t.byte a = if a / 128 = n ∧ mask.getLsbD (a % 128) = true then BitVec.ofNat 8 (lineNat data (a % 128) 1) else s.byte a

/-- The pending operation o of the live group g. -/
structure OpOf (s : State) (g : Group) (o : PendOp) : Prop where
  op : s.op? o.id = some o
  grp : o.grp = g.ref
  group : s.group? g.ref = some g
  live : g.status = .live

/-- The operation o has left its flag in t, no other has, and the group has become g'. -/
structure OpEnded (s t : State) (g g' : Group) (o : PendOp) : Prop where
  gone : ∀ q ∈ t.ops, q.id ≠ o.id
  kept : ∀ q ∈ s.ops, q.id ≠ o.id → ∃ q' ∈ t.ops, q'.id = q.id
  group : t.group? g.ref = some g'
  splits : g'.splits = g.splits

/-! ## Commands of the host -/

/-- A command on context cx finds it: no recovery state, no command under way, CXID below DIRN (R74 to R76). -/
structure Commands (s : State) (cx : Nat) (c : Context) : Prop where
  shown : s.modl.recovery = false
  idle : s.bar.cmd.pending = none
  small : cx < 65536
  dir : cx < s.bar.dirN.toNat
  ctx : s.ctx? cx = some c

/-- The command block of t shows that command op on context cx has ended with result err, and the context's state (R74, R76). -/
def Answered (t : State) (op cx err : Nat) : Prop :=
  t.bar.cmd.pending = none ∧ t.bar.cmd.op = BitVec.ofNat 8 op ∧ t.bar.cmd.cxid = BitVec.ofNat 16 cx
  ∧ t.bar.cmd.err = BitVec.ofNat 8 err ∧ t.bar.cmd.st = BitVec.ofNat 4 (t.cxStCode cx)

/-- From s to t context c has become c', and no other piece of the machine but the command block has changed. -/
def OnlyContext (s t : State) (c c' : Context) : Prop :=
  t = { s with ctxs := t.ctxs, bar := t.bar } ∧ t.bar = { s.bar with cmd := t.bar.cmd } ∧ t.ctx? c.cxid = some c'
  ∧ ∀ x, x ≠ c.cxid → t.ctx? x = s.ctx? x

/-- No work of a context is left (R72, R86). -/
def NoWork (t : State) (cx : Nat) : Prop :=
  (∀ g ∈ t.groups, g.cx ≠ cx) ∧ (∀ w ∈ t.wgs, w.cx ≠ cx) ∧ (∀ k ∈ t.kernels, k.cx ≠ cx) ∧ (∀ c ∈ t.copies, c.cx ≠ cx)
  ∧ ∀ im ∈ t.images, im.cx ≠ cx

/-- The rate-limiter classes of a read of a command: that of the host port for a guest's queue (R116, log 47). -/
def hostClasses (n : Nat) : List Nat := if n = hvIface then [] else [clsHost]

/-- Queue q of interface n consumes next the command of 64 bytes bs for context c, the limiter of the host port admits the read, and the
checks that its operation leaves out pass (R91 to R95, R116). -/
structure Takes (s : State) (n : Nat) (q : Queue) (c : Context) (bs : List Byte) : Prop where
  queue : s.queue? n = some q
  next : q.hasNext = true
  admitted : s.admits q.cx (hostClasses n) = true
  readable : s.hostRefuses (s.pasidOf q) (q.qbase + 64 * q.rdidx) 64 = false
  bytes : bs = sgetRun 0 s.hostMem (hostAddr (s.pasidOf q) (q.qbase + 64 * q.rdidx)) 64
  checks : cmdCheck (n == hvIface) bs = 0
  ctx : s.cmdCtx q bs = .ok c

/-- The state behind a consumed command (R88, R93): RDIDX has advanced; a command that is not done stays in flight, one that is done
sends its MSI-X if its IRQ bit is set. The limiter is charged for the read. s1 is the state with the command's effect. -/
def Consumed (s1 t : State) (n : Nat) (bs : List Byte) (done : Bool) : Prop :=
  ∃ q, s1.queue? n = some q
    ∧ t = { s1 with queues := t.queues, hostEvents := t.hostEvents, ctxs := (s1.spend q.cx (hostClasses n) 64).ctxs }
    ∧ t.queue? n = some (if done then q.advance
        else ({ q with inflight := q.inflight ++ [(q.seq, q.rdidx, fieldNat bs 1 1 == 1)] } : Queue).advance)
    ∧ (∀ m, m ≠ n → t.queue? m = s1.queue? m)
    ∧ t.hostEvents = (if done = true ∧ fieldNat bs 1 1 = 1 then s1.hostEvents ++ [.msix n] else s1.hostEvents)

/-- The command at the head of queue n raises *invalid* with a code; nothing else changes but the limiter's count (R88, R92). -/
def Invalid (s t : State) (n : Nat) (q : Queue) (err : Nat) : Prop :=
  t = { s with queues := t.queues, ctxs := (s.spend q.cx (hostClasses n) 64).ctxs } ∧ t.queue? n = some { q with st := .error, err := err, erridx := q.rdidx, dpend := false }
  ∧ ∀ m, m ≠ n → t.queue? m = s.queue? m

end Sys2Proof.Machine
end

