-- ==== Sys2Proof/Certificates/Slice0/Obligations.lean ====
section
/-! DEFINITION. The statements for the provers, each a def Obligations.Name : Prop. -/

open Sys2Proof Sys2Proof.Machine

/-- BOP(i) of R161 and the 64-bit operand of R165: a V slot through the window, an S register, the sign-extended imm7, the literal. -/
def Obligations.LaneOperandFormsRead : Prop :=
  ∀ (g : Group) (l : Nat), l < 32 →
    (∀ r : BitVec 7, bop g (.v r) l = g.getP (g.wb + r.toNat) l) ∧ (∀ r : BitVec 6, bop g (.s r) l = g.getS r.toNat)
    ∧ (∀ x : BitVec 7, (bop g (.imm x) l).toInt = x.toInt) ∧ (∀ w : Word, bop g (.lit w) l = w)
    ∧ (∀ n : BitVec 6, (bop64 g (.v n) l).toNat = (g.getV (2 * n.toNat) l).toNat + 2 ^ 32 * (g.getV (2 * n.toNat + 1) l).toNat)
    ∧ (∀ n : BitVec 5, (bop64 g (.s n) l).toNat = (g.getS (2 * n.toNat)).toNat + 2 ^ 32 * (g.getS (2 * n.toNat + 1)).toNat)
    ∧ (∀ x : BitVec 7, (bop64 g (.imm x) l).toInt = x.toInt) ∧ ∀ w : Word, (bop64 g (.lit w) l).toInt = w.toInt

/-- IADD, ISUB, IMUL, IMULH, IMAD, IMIN, IMAX, IAMIN and IAMAX (R164): results, completion and frame. IADD64 and LEA (R165): the pair
results. LEA's B is one 32-bit operand. AND to ROL, POPC, CLZ, BREV and MOV (R164). A shift count is B[5:0], a rotate count B[4:0]. BFX,
BFI, IDP4, IDP8 and SEL (R166, R168, R169). The field is w = B[12:8] + 1 bits at p = B[4:0]; bits above 31 do not exist. The twelve
conditions of R167 over exact readings of the operands. -/
def Obligations.LaneIntegerResults : Prop :=
  (∀ (s : State) (g : Group) (p : Split) (d a : BitVec 7) (b : Opnd), Issues s g p → Readable s g (laneUses d a b) →
    let A := fun l => g.getV a.toNat l
    let B := fun l => bop g b l
    let D := fun l => g.getV d.toNat l
    let sat := fun x => BitVec.ofInt 32 (clampTo (-(2 ^ 31)) (2 ^ 31 - 1) x)
    let satU := fun x => BitVec.ofInt 32 (clampTo 0 (2 ^ 32 - 1) x)
    LaneResult s g p (.iadd false d a b) d.toNat (fun l => BitVec.ofNat 32 ((A l).toNat + (B l).toNat))
    ∧ LaneResult s g p (.iadd true d a b) d.toNat (fun l => sat ((A l).toInt + (B l).toInt))
    ∧ LaneResult s g p (.isub false d a b) d.toNat (fun l => BitVec.ofInt 32 ((A l).toInt - (B l).toInt))
    ∧ LaneResult s g p (.isub true d a b) d.toNat (fun l => sat ((A l).toInt - (B l).toInt))
    ∧ LaneResult s g p (.imul d a b) d.toNat (fun l => BitVec.ofNat 32 ((A l).toNat * (B l).toNat))
    ∧ LaneResult s g p (.imulh false d a b) d.toNat
        (fun l => ((A l).signExtend 64 * (B l).signExtend 64).extractLsb' 32 32)
    ∧ LaneResult s g p (.imulh true d a b) d.toNat
        (fun l => ((A l).zeroExtend 64 * (B l).zeroExtend 64).extractLsb' 32 32)
    ∧ LaneResult s g p (.imad d a b) d.toNat (fun l => BitVec.ofNat 32 ((A l).toNat * (B l).toNat + (D l).toNat))
    ∧ LaneResult s g p (.imin false d a b) d.toNat (fun l => BitVec.ofInt 32 (min (A l).toInt (B l).toInt))
    ∧ LaneResult s g p (.imin true d a b) d.toNat (fun l => BitVec.ofNat 32 (min (A l).toNat (B l).toNat))
    ∧ LaneResult s g p (.imax false d a b) d.toNat (fun l => BitVec.ofInt 32 (max (A l).toInt (B l).toInt))
    ∧ LaneResult s g p (.imax true d a b) d.toNat (fun l => BitVec.ofNat 32 (max (A l).toNat (B l).toNat))
    ∧ LaneResult s g p (.iamin false d a b) d.toNat
        (fun l => BitVec.ofInt 32 (min (D l).toInt (sat ((A l).toInt + (B l).toInt)).toInt))
    ∧ LaneResult s g p (.iamin true d a b) d.toNat
        (fun l => BitVec.ofNat 32 (min (D l).toNat (satU ((A l).toNat + (B l).toNat)).toNat))
    ∧ LaneResult s g p (.iamax false d a b) d.toNat
        (fun l => BitVec.ofInt 32 (max (D l).toInt (sat ((A l).toInt + (B l).toInt)).toInt))
    ∧ LaneResult s g p (.iamax true d a b) d.toNat
        (fun l => BitVec.ofNat 32 (max (D l).toNat (satU ((A l).toNat + (B l).toNat)).toNat)))
  ∧ (∀ (s : State) (g : Group) (p : Split) (d a : BitVec 6), Issues s g p →
    let A := fun l => vPairVal g a.toNat l
    let slots : List Nat := [2 * d.toNat, 2 * d.toNat + 1, 2 * a.toNat, 2 * a.toNat + 1]
    (∀ b : Opnd64, Readable s g ((opnd64Uses b).append { v := slots }) →
      PairResult s g p (.iadd64 false d a b) (2 * d.toNat) (fun l => BitVec.ofNat 64 ((A l).toNat + (bop64 g b l).toNat))
      ∧ PairResult s g p (.iadd64 true d a b) (2 * d.toNat)
          (fun l => BitVec.ofInt 64 (clampTo (-(2 ^ 63)) (2 ^ 63 - 1) ((A l).toInt + (bop64 g b l).toInt))))
    ∧ ∀ b : Opnd, Readable s g ((opndUses b).append { v := slots }) →
      PairResult s g p (.lea false d a b) (2 * d.toNat) (fun l => BitVec.ofInt 64 ((A l).toInt + (bop g b l).toInt))
      ∧ PairResult s g p (.lea true d a b) (2 * d.toNat) (fun l => BitVec.ofNat 64 ((A l).toNat + (bop g b l).toNat)))
  ∧ (∀ (s : State) (g : Group) (p : Split) (d : BitVec 7) (b : Opnd), Issues s g p →
    let B := fun l => bop g b l
    let n := fun l => (B l).toNat % 64
    (∀ a : BitVec 7, Readable s g (laneUses d a b) →
      let A := fun l => g.getV a.toNat l
      LaneResult s g p (.and d a b) d.toNat (fun l => A l &&& B l)
      ∧ LaneResult s g p (.or d a b) d.toNat (fun l => A l ||| B l)
      ∧ LaneResult s g p (.xor d a b) d.toNat (fun l => A l ^^^ B l)
      ∧ LaneResult s g p (.andn d a b) d.toNat (fun l => A l &&& ~~~(B l))
      ∧ LaneResult s g p (.shl d a b) d.toNat (fun l => if n l ≥ 32 then 0 else BitVec.ofNat 32 ((A l).toNat * 2 ^ n l))
      ∧ LaneResult s g p (.shr d a b) d.toNat (fun l => if n l ≥ 32 then 0 else BitVec.ofNat 32 ((A l).toNat / 2 ^ n l))
      ∧ LaneResult s g p (.sar d a b) d.toNat
          (fun l => if n l ≥ 32 then (if (A l).msb then BitVec.allOnes 32 else 0) else BitVec.ofInt 32 ((A l).toInt / 2 ^ n l))
      ∧ LaneResult s g p (.rol d a b) d.toNat
          (fun l => BitVec.ofNat 32 ((A l).toNat * 2 ^ (n l % 32)) ||| BitVec.ofNat 32 ((A l).toNat / 2 ^ (32 - n l % 32))))
    ∧ (Readable s g (unaryUses d b) →
      LaneResult s g p (.popc d b) d.toNat (fun l => BitVec.ofNat 32 ((List.range 32).countP fun k => (B l).getLsbD k))
      ∧ LaneResult s g p (.clz d b) d.toNat (fun l => BitVec.ofNat 32 ((List.range 32).findIdx fun k => (B l).getLsbD (31 - k)))
      ∧ LaneResult s g p (.brev d b) d.toNat (fun l => (B l).reverse)
      ∧ LaneResult s g p (.mov d b) d.toNat B))
  ∧ (∀ (s : State) (g : Group) (p : Split) (d a : BitVec 7), Issues s g p →
    let A := fun l => g.getV a.toNat l
    let D := fun l => g.getV d.toNat l
    (∀ b : Opnd, Readable s g (laneUses d a b) →
      let B := fun l => bop g b l
      let pos := fun l => (B l).toNat % 32
      let wid := fun l => (B l).toNat / 2 ^ 8 % 32 + 1
      let dot := fun (n k l : Nat) => BitVec.ofInt 32 ((D l).toInt + ((List.range n).map fun e =>
        ((A l).extractLsb' (k * e) k).toInt * ((B l).extractLsb' (k * e) k).toInt).sum)
      LaneResult s g p (.bfx false d a b) d.toNat (fun l => BitVec.ofNat 32 ((A l).toNat / 2 ^ pos l % 2 ^ wid l))
      ∧ LaneResult s g p (.bfx true d a b) d.toNat
          (fun l => ((A l).extractLsb' (pos l) (min (wid l) (32 - pos l))).signExtend 32)
      ∧ LaneResult s g p (.bfi d a b) d.toNat
          (fun l => BitVec.ofFnLE fun k : Fin 32 =>
            if pos l ≤ k.val ∧ k.val < pos l + wid l then (A l).getLsbD (k.val - pos l) else (D l).getLsbD k.val)
      ∧ LaneResult s g p (.idp4 d a b) d.toNat (dot 4 8) ∧ LaneResult s g p (.idp8 d a b) d.toNat (dot 8 4))
    ∧ ∀ (m : BitVec 3) (b : BitVec 7), Readable s g { v := [d.toNat, a.toNat, b.toNat], m := [m.toNat] } →
      LaneResult s g p (.sel m d a b) d.toNat
        (fun l => if (g.getM m.toNat).getLsbD l = true then A l else g.getV b.toNat l))
  ∧ (∀ (s : State) (g : Group) (p : Split) (m : BitVec 3) (a : BitVec 7) (b : Opnd) (comb : Bool), Issues s g p →
    Readable s g ((opndUses b).append { v := [a.toNat], m := [m.toNat] }) →
    let A := fun l => g.getV a.toNat l
    let B := fun l => bop g b l
    let cmp := fun (cc : Icc) (c : Nat → Prop) [DecidablePred c] =>
      CmpResult s g p (.icmp comb cc m a b) m.toNat comb (fun l => decide (c l)) (fun _ => 0)
    cmp .eq (fun l => A l = B l) ∧ cmp .ne (fun l => A l ≠ B l)
    ∧ cmp .lt (fun l => (A l).toInt < (B l).toInt) ∧ cmp .le (fun l => (A l).toInt ≤ (B l).toInt)
    ∧ cmp .gt (fun l => (A l).toInt > (B l).toInt) ∧ cmp .ge (fun l => (A l).toInt ≥ (B l).toInt)
    ∧ cmp .ltu (fun l => (A l).toNat < (B l).toNat) ∧ cmp .leu (fun l => (A l).toNat ≤ (B l).toNat)
    ∧ cmp .gtu (fun l => (A l).toNat > (B l).toNat) ∧ cmp .geu (fun l => (A l).toNat ≥ (B l).toNat)
    ∧ cmp .any (fun l => A l &&& B l ≠ 0) ∧ cmp .none (fun l => A l &&& B l = 0))

/-- FADD, FSUB, FMUL, FFMA, FMIN, FMAX and SCALEX (R170, R173), and FDP4, FDP8 and FDP2H (R179): one rounding of the exact value in
$FPMODE.RM, RNE for the dot products, with the flags of the active lanes. imm7 stands for its exact FP32 value but in the dot products
and SCALEX.e8, which take bit patterns. FRCP, FRSQ, FSQRT, FEXP2, FLOG2 and FTANH (R171) and the 16-bit forms HADD2, HMUL2 and HFMA2
(R174), which act on each half with the format's own range. The eight conditions of R172: an unordered pair satisfies .ne and .unord
only, and the ordering conditions raise NV for any NaN. -/
def Obligations.LaneFloatResults : Prop :=
  (∀ (s : State) (g : Group) (p : Split) (d a : BitVec 7) (b : Opnd), Issues s g p → Readable s g (laneUses d a b) →
    let rm := rmOf (g.modeAt s.cycle)
    let A := fun l => dec32 (g.getV a.toNat l)
    let B := fun l => dec32 (bopF g b l)
    let D := fun l => dec32 (g.getV d.toNat l)
    let dot := fun (f : Fmt) (n : Nat) (sig : Bool) (l : Nat) => w32 (dotF (D l)
      ((List.range n).map fun e => narrowVal f (elemOf f (g.getV a.toNat l) e))
      ((List.range n).map fun e => narrowVal f (elemOf f (bop g b l) e)) sig)
    FloatResult s g p (.fadd d a b) d.toNat (fun l => w32 (addF fp32 rm (A l) (B l)))
    ∧ FloatResult s g p (.fsub d a b) d.toNat (fun l => w32 (addF fp32 rm (A l) (B l).flip))
    ∧ FloatResult s g p (.fmul d a b) d.toNat (fun l => w32 (mulF fp32 rm (A l) (B l)))
    ∧ FloatResult s g p (.ffma d a b) d.toNat (fun l => w32 (fmaF fp32 rm (A l) (B l) (D l)))
    ∧ FloatResult s g p (.fmin d a b) d.toNat (fun l => minmaxF false (g.getV a.toNat l) (bopF g b l))
    ∧ FloatResult s g p (.fmax d a b) d.toNat (fun l => minmaxF true (g.getV a.toNat l) (bopF g b l))
    ∧ FloatResult s g p (.scalex false d a b) d.toNat (fun l => scalexF rm (g.getV a.toNat l) (bopF g b l))
    ∧ FloatResult s g p (.scalex true d a b) d.toNat (fun l => scalexE8 rm (g.getV a.toNat l) (bop g b l))
    ∧ FloatResult s g p (.fdp4 false d a b) d.toNat (dot .e4m3 4 false)
    ∧ FloatResult s g p (.fdp4 true d a b) d.toNat (dot .e5m2 4 false)
    ∧ FloatResult s g p (.fdp8 d a b) d.toNat (dot .e2m1 8 false)
    ∧ FloatResult s g p (.fdp2h false d a b) d.toNat (dot .bf16 2 true)
    ∧ FloatResult s g p (.fdp2h true d a b) d.toNat (dot .f16 2 true))
  ∧ (∀ (s : State) (g : Group) (p : Split) (d : BitVec 7) (b : Opnd), Issues s g p →
    let rm := rmOf (g.modeAt s.cycle)
    let B := fun l => dec32 (bopF g b l)
    (Readable s g (unaryUses d b) →
      FloatResult s g p (.frcp d b) d.toNat (fun l => w32 (frcp rm (B l)))
      ∧ FloatResult s g p (.frsq d b) d.toNat (fun l => w32 (frsq rm (B l)))
      ∧ FloatResult s g p (.fsqrt d b) d.toNat (fun l => w32 (fsqrt rm (B l)))
      ∧ FloatResult s g p (.fexp2 d b) d.toNat (fun l => w32 (fexp2 rm (B l)))
      ∧ FloatResult s g p (.flog2 d b) d.toNat (fun l => w32 (flog2 rm (B l)))
      ∧ FloatResult s g p (.ftanh d b) d.toNat (fun l => w32 (ftanh rm (B l))))
    ∧ ∀ (a : BitVec 7) (h : Bool), Readable s g (laneUses d a b) →
      let q := if h then fpF16 else fpBf16
      let both := fun (f : FV → FV → FV → Nat × Flags) (l : Nat) =>
        let x := fun e => f (half q (g.getV a.toNat l) e) (half q (bopH q g b l) e) (half q (g.getV d.toNat l) e)
        ((BitVec.ofNat 32 ((x 0).1 + 2 ^ 16 * (x 1).1), (x 0).2 ||| (x 1).2) : FRes)
      FloatResult s g p (.hadd2 h d a b) d.toNat (both fun x y _ => addF q rm x y)
      ∧ FloatResult s g p (.hmul2 h d a b) d.toNat (both fun x y _ => mulF q rm x y)
      ∧ FloatResult s g p (.hfma2 h d a b) d.toNat (both fun x y z => fmaF q rm x y z))
  ∧ (∀ (s : State) (g : Group) (p : Split) (m : BitVec 3) (a : BitVec 7) (b : Opnd) (comb : Bool), Issues s g p →
    Readable s g ((opndUses b).append { v := [a.toNat], m := [m.toNat] }) →
    let A := fun l => dec32 (g.getV a.toNat l)
    let B := fun l => dec32 (bopF g b l)
    let un := fun l => (A l).isNan || (B l).isNan
    let quiet := fun l => if (A l).isSig || (B l).isSig then flNV else 0
    let loud := fun l => if un l then flNV else 0
    let same := fun l => !ltF (A l) (B l) && !ltF (B l) (A l)
    let cmp := fun (cc : Fcc) (c : Nat → Bool) (fl : Nat → Flags) => CmpResult s g p (.fcmp comb cc m a b) m.toNat comb c fl
    cmp .eq (fun l => !un l && same l) quiet ∧ cmp .ne (fun l => un l || !same l) quiet
    ∧ cmp .lt (fun l => !un l && ltF (A l) (B l)) loud ∧ cmp .le (fun l => !un l && (ltF (A l) (B l) || same l)) loud
    ∧ cmp .gt (fun l => !un l && ltF (B l) (A l)) loud ∧ cmp .ge (fun l => !un l && (ltF (B l) (A l) || same l)) loud
    ∧ cmp .ord (fun l => !un l) quiet ∧ cmp .unord un quiet)

/-- CVTF and CVTI (R175, R176), PACK8, PACK6 and PACK4 (R177). UNPK8, UNPK6 and UNPK4 (R178): element e of A, exact in FP32, in slot d + e
of every active lane; no flag is set. -/
def Obligations.LaneConversionsAndUnpacks : Prop :=
  (∀ (s : State) (g : Group) (p : Split) (d a : BitVec 7), Issues s g p →
    let A := fun l => g.getV a.toNat l
    (Readable s g { v := [d.toNat, a.toNat] } →
      (∀ src dst sh dh, FloatResult s g p (.cvtf src dst sh dh d a) d.toNat
        (fun l => cvtfF (rmOf (g.modeAt s.cycle)) src dst sh dh (A l) (g.getV d.toNat l)))
      ∧ ∀ k t, FloatResult s g p (.cvti k t d a) d.toNat (fun l => cvtiF (rmOf (g.modeAt s.cycle)) k t (A l)))
    ∧ (∀ f, Readable s g { v := d.toNat :: (List.range 4).map (a.toNat + ·) } →
      let r := fun l => packLane f (g.modeAt s.cycle) g.seed l ((List.range 4).map fun j => g.getV (a.toNat + j) l)
      FloatResult s g p (.pack8 f d a) d.toNat r ∧ FloatResult s g p (.pack6 f d a) d.toNat r)
    ∧ ∀ f, Readable s g { v := d.toNat :: (List.range 8).map (a.toNat + ·) } →
      FloatResult s g p (.pack4 f d a) d.toNat
        (fun l => packLane f (g.modeAt s.cycle) g.seed l ((List.range 8).map fun j => g.getV (a.toNat + j) l)))
  ∧ (∀ (s : State) (g : Group) (p : Split) (f : Fmt) (d a : BitVec 7), Issues s g p →
    let unpacks := fun (i : Instr) (n : Nat) => Readable s g { v := a.toNat :: (List.range n).map (d.toNat + ·) } →
      ∃ t g', exec i s = .next t ∧ OnlyGroup s t g g' ∧ OnlyRegs g g' p (p.past i.words) ∧ g'.fpflags = g.fpflags
        ∧ (∀ e l, e < n → l < 32 → p.exec.getLsbD l = true →
            g'.getV (d.toNat + e) l = BitVec.ofNat 32 (encodeF fp32 .rne (narrowVal f (elemOf f (g.getV a.toNat l) e))).1)
        ∧ SameV g g' (fun r l => g.wb + d.toNat ≤ r ∧ r < g.wb + d.toNat + n ∧ p.exec.getLsbD l = true)
        ∧ SameS g g' (fun _ => False) ∧ SameM g g' (fun _ => False)
    unpacks (.unpk8 f d a) 4 ∧ unpacks (.unpk6 f d a) 4 ∧ unpacks (.unpk4 f d a) 8)

/-- The special inputs of R171, in every rounding mode: the encodings of the results and their flags. The four modes of R58 on an exact m /
2^n of a sign: the nearest integer with ties to even, and the directed ones. The second component says whether the value was inexact. FADD,
FSUB, FMUL and FFMA over all operands: a NaN gives the canonical one, NV for a signalling one and for the invalid operations (R52, R59,
R62); a zero addend leaves every finite number as it is, a subnormal one too (R52); a product of normal numbers in the normal range is
the one rounding of the exact product (R60). -/
def Obligations.FloatSpecialInputsAndRounding : Prop :=
  (∀ rm : RM,
    let on := fun (f : RM → FV → Nat × Flags) (w : Word) => w32 (f rm (dec32 w))
    -- +0 and -0
    (on frcp 0 = (0x7F800000, flDZ) ∧ on frsq 0 = (0x7F800000, flDZ) ∧ on fsqrt 0 = (0, 0) ∧ on fexp2 0 = (0x3F800000, 0)
      ∧ on flog2 0 = (0xFF800000, flDZ) ∧ on ftanh 0 = (0, 0))
    ∧ (on frcp 0x80000000 = (0xFF800000, flDZ) ∧ on frsq 0x80000000 = (0xFF800000, flDZ)
      ∧ on fsqrt 0x80000000 = (0x80000000, 0) ∧ on fexp2 0x80000000 = (0x3F800000, 0)
      ∧ on flog2 0x80000000 = (0xFF800000, flDZ) ∧ on ftanh 0x80000000 = (0x80000000, 0))
    -- infinities
    ∧ (on frcp 0x7F800000 = (0, 0) ∧ on frsq 0x7F800000 = (0, 0) ∧ on fsqrt 0x7F800000 = (0x7F800000, 0)
      ∧ on fexp2 0x7F800000 = (0x7F800000, 0) ∧ on flog2 0x7F800000 = (0x7F800000, 0) ∧ on ftanh 0x7F800000 = (0x3F800000, 0))
    ∧ (on frcp 0xFF800000 = (0x80000000, 0) ∧ on frsq 0xFF800000 = (0x7FC00000, flNV) ∧ on fsqrt 0xFF800000 = (0x7FC00000, flNV)
      ∧ on fexp2 0xFF800000 = (0, 0) ∧ on flog2 0xFF800000 = (0x7FC00000, flNV) ∧ on ftanh 0xFF800000 = (0xBF800000, 0))
    -- negative finite numbers
    ∧ (∀ w : Word, w.toNat > 0x80000000 → w.toNat < 0xFF800000 →
      on frsq w = (0x7FC00000, flNV) ∧ on fsqrt w = (0x7FC00000, flNV) ∧ on flog2 w = (0x7FC00000, flNV))
    -- NaN: the canonical one, NV if the fraction's top bit is clear
    ∧ ∀ w : Word, w.toNat % 2 ^ 31 > 0x7F800000 →
      let r : FRes := (0x7FC00000, if w.getLsbD 22 then 0 else flNV)
      on frcp w = r ∧ on frsq w = r ∧ on fsqrt w = r ∧ on fexp2 w = r ∧ on flog2 w = r ∧ on ftanh w = r)
  ∧ (∀ (neg : Bool) (m n : Nat),
    (∀ rm, (roundShift rm neg m n false).2 = true ↔ m % 2 ^ n ≠ 0)
    ∧ (let q := (roundShift .rne neg m n false).1
       2 * m ≤ (2 * q + 1) * 2 ^ n ∧ 2 * q * 2 ^ n ≤ 2 * m + 2 ^ n
       ∧ (2 * m = (2 * q + 1) * 2 ^ n ∨ 2 * q * 2 ^ n = 2 * m + 2 ^ n → q % 2 = 0))
    ∧ (let q := (roundShift .rz neg m n false).1
       q * 2 ^ n ≤ m ∧ m < (q + 1) * 2 ^ n)
    ∧ (let q := (roundShift .ru neg m n false).1
       if neg then q * 2 ^ n ≤ m ∧ m < (q + 1) * 2 ^ n else m ≤ q * 2 ^ n ∧ q * 2 ^ n < m + 2 ^ n)
    ∧ (let q := (roundShift .rd neg m n false).1
       if neg then m ≤ q * 2 ^ n ∧ q * 2 ^ n < m + 2 ^ n else q * 2 ^ n ≤ m ∧ m < (q + 1) * 2 ^ n))
  ∧ (∀ (rm : RM) (a b c : Word),
    let add := fun x y : Word => w32 (addF fp32 rm (dec32 x) (dec32 y))
    let sub := fun x y : Word => w32 (addF fp32 rm (dec32 x) (dec32 y).flip)
    let mul := fun x y : Word => w32 (mulF fp32 rm (dec32 x) (dec32 y))
    let fma := fun x y z : Word => w32 (fmaF fp32 rm (dec32 x) (dec32 y) (dec32 z))
    let mag := fun w : Word => w.toNat % 2 ^ 31
    let nan := fun w : Word => mag w > 0x7F800000
    let sig := fun w : Word => nan w ∧ w.getLsbD 22 = false
    let bad := mag a = 0x7F800000 ∧ mag b = 0 ∨ mag a = 0 ∧ mag b = 0x7F800000
    let canon := fun f : Flags => ((0x7FC00000, f) : FRes)
    -- a NaN operand gives the canonical NaN, and NV where one is signalling
    (nan a ∨ nan b → (sig a ∨ sig b → add a b = canon flNV ∧ sub a b = canon flNV ∧ mul a b = canon flNV)
      ∧ (¬ (sig a ∨ sig b) → add a b = canon 0 ∧ sub a b = canon 0 ∧ mul a b = canon 0))
    ∧ (¬ bad → nan a ∨ nan b ∨ nan c → (sig a ∨ sig b ∨ sig c → fma a b c = canon flNV)
      ∧ (¬ (sig a ∨ sig b ∨ sig c) → fma a b c = canon 0))
    -- infinity times zero, and the difference of infinities
    ∧ (bad → mul a b = canon flNV ∧ fma a b c = canon flNV)
    ∧ (mag a = 0x7F800000 → mag b = 0x7F800000 → a ≠ b → add a b = canon flNV ∧ sub a a = canon flNV)
    -- the sum with a zero is the operand, a subnormal one too: nothing is flushed
    ∧ (mag a ≠ 0 → mag a < 0x7F800000 → mag b = 0 → add a b = (a, 0) ∧ add b a = (a, 0) ∧ sub a b = (a, 0))
    -- the product of normal numbers in the normal range: one rounding of the exact product of the significands
    ∧ (let ex := fun w : Word => w.toNat / 2 ^ 23 % 256
       let m := (2 ^ 23 + a.toNat % 2 ^ 23) * (2 ^ 23 + b.toNat % 2 ^ 23)
       let sh := if m < 2 ^ 47 then 23 else 24
       let neg := a.msb != b.msb
       let q := (roundShift rm neg m sh false).1
       0 < ex a → ex a < 255 → 0 < ex b → ex b < 255 → 128 ≤ ex a + ex b → ex a + ex b ≤ 379 →
       mul a b = (BitVec.ofNat 32 ((if neg then 2 ^ 31 else 0) + (ex a + ex b - 127 + (sh - 23)) * 2 ^ 23 - 2 ^ 23 + q),
         if m % 2 ^ sh = 0 then 0 else flNX)))

/-- SHFL, LSHU, LSHD, LROT, BCAST and WRLANE (R180 to R182): a source lane is read whether or not it is active. BALLOT, VOTE and RDLANE
(R182, R183). REDI, SCANI and REDF (R184, R185): REDI and SCANI over the active lanes in ascending order from the identity; REDF along
the tree whose first level joins lanes 2j and 2j + 1, empty nodes passed over, so that a single active lane is its own result. -/
def Obligations.LaneMovementVotesAndReductions : Prop :=
  (∀ (s : State) (g : Group) (p : Split) (d a : BitVec 7), Issues s g p →
    let A := fun l => g.getV a.toNat l
    let D := fun l => g.getV d.toNat l
    (∀ b : Opnd, Readable s g (laneUses d a b) →
      LaneResult s g p (.shfl false d a b) d.toNat (fun l => A ((bop g b l).toNat % 32))
      ∧ LaneResult s g p (.shfl true d a b) d.toNat (fun l => A (l ^^^ (bop g b l).toNat % 32)))
    ∧ (∀ b : UOpnd, Readable s g ((uopndUses b).append { v := [d.toNat, a.toNat] }) →
      let n := (uval g b).toNat % 64
      LaneResult s g p (.lshu false d a b) d.toNat (fun l => if l < n then D l else A (l - n))
      ∧ LaneResult s g p (.lshu true d a b) d.toNat (fun l => if l < n then 0 else A (l - n))
      ∧ LaneResult s g p (.lshd false d a b) d.toNat (fun l => if l + n > 31 then D l else A (l + n))
      ∧ LaneResult s g p (.lshd true d a b) d.toNat (fun l => if l + n > 31 then 0 else A (l + n))
      ∧ LaneResult s g p (.lrot d a b) d.toNat (fun l => A (((l : Int) - n) % 32).toNat)
      ∧ LaneResult s g p (.bcast d a (.idx b)) d.toNat (fun _ => A (n % 32)))
    ∧ (Readable s g { v := [d.toNat, a.toNat] } →
      ∀ e w, LaneResult s g p (.bcast d a (.lo e w)) d.toNat (fun _ => A ((List.range 32).findIdx fun l => p.exec.getLsbD l)))
    ∧ ∀ (r : BitVec 6) (b : UOpnd), Readable s g ((uopndUses b).append { v := [d.toNat], s := [r.toNat] }) →
      let k := (uval g b).toNat % 32
      ∃ t g', exec (.wrlane d r b) s = .next t ∧ OnlyGroup s t g g' ∧ OnlyRegs g g' p (p.past (Instr.words (.wrlane d r b)))
        ∧ g'.fpflags = g.fpflags ∧ (p.exec.getLsbD k = true → g'.getV d.toNat k = g.getS r.toNat)
        ∧ SameV g g' (fun q l => q = g.wb + d.toNat ∧ l = k ∧ p.exec.getLsbD k = true) ∧ SameS g g' (fun _ => False)
        ∧ SameM g g' (fun _ => False))
  ∧ (∀ (s : State) (g : Group) (p : Split) (a : BitVec 7), Issues s g p →
    let A := fun l => g.getV a.toNat l
    let on := fun l => l < 32 ∧ p.exec.getLsbD l = true
    (∀ d : BitVec 3, Readable s g { v := [a.toNat], m := [d.toNat] } →
      MaskResult s g p (.ballotM d a) d.toNat (fun l => p.exec.getLsbD l && A l != 0))
    ∧ ∀ d : BitVec 6, Readable s g { v := [a.toNat], s := [d.toNat] } →
      (∃ x : Word, UniResult s g p (.ballotS d a) d.toNat x ∧ ∀ l, l < 32 → x.getLsbD l = (p.exec.getLsbD l && A l != 0))
      ∧ ((∃ l, on l ∧ A l ≠ 0) → UniResult s g p (.vote .any d a) d.toNat 1)
      ∧ ((∀ l, on l → A l = 0) → UniResult s g p (.vote .any d a) d.toNat 0)
      ∧ ((∀ l, on l → A l ≠ 0) → UniResult s g p (.vote .all d a) d.toNat 1)
      ∧ ((∃ l, on l ∧ A l = 0) → UniResult s g p (.vote .all d a) d.toNat 0)
      ∧ ((∀ l k, on l → on k → A l = A k) → UniResult s g p (.vote .uni d a) d.toNat 1)
      ∧ ((∃ l k, on l ∧ on k ∧ A l ≠ A k) → UniResult s g p (.vote .uni d a) d.toNat 0)
      ∧ (∀ b : UOpnd, Readable s g ((uopndUses b).append { v := [a.toNat], s := [d.toNat] }) →
        UniResult s g p (.rdlane d a (.idx b)) d.toNat (A ((uval g b).toNat % 32)))
      ∧ ∀ e w, UniResult s g p (.rdlane d a (.lo e w)) d.toNat
        (if p.exec = 0 then 0 else A ((List.range 32).findIdx fun l => p.exec.getLsbD l)))
  ∧ (∀ (s : State) (g : Group) (p : Split) (a : BitVec 7), Issues s g p →
    let A := fun l => g.getV a.toNat l
    let act := fun n => (List.range n).filter fun l => p.exec.getLsbD l
    let ops : List (RedOp × (Word → Word → Word) × Word) :=
      [(.add, (fun x y => x + y), 0), (.smin, (fun x y => if x.toInt ≤ y.toInt then x else y), 0x7FFFFFFF),
       (.smax, (fun x y => if x.toInt ≤ y.toInt then y else x), 0x80000000), (.and, (fun x y => x &&& y), 0xFFFFFFFF),
       (.or, (fun x y => x ||| y), 0), (.xor, (fun x y => x ^^^ y), 0),
       (.umin, (fun x y => if x.toNat ≤ y.toNat then x else y), 0xFFFFFFFF), (.umax, (fun x y => if x.toNat ≤ y.toNat then y else x), 0)]
    (∀ d : BitVec 6, Readable s g { v := [a.toNat], s := [d.toNat] } → ∀ o ∈ ops,
      UniResult s g p (.redi o.1 d a) d.toNat ((act 32).foldl (fun x l => o.2.1 x (A l)) o.2.2))
    ∧ (∀ d : BitVec 7, Readable s g { v := [d.toNat, a.toNat] } → ∀ o ∈ ops,
      LaneResult s g p (.scani o.1 d a) d.toNat (fun l => (act (l + 1)).foldl (fun x l => o.2.1 x (A l)) o.2.2))
    ∧ ∀ (d : BitVec 6) (op : RedF), Readable s g { v := [a.toNat], s := [d.toNat] } →
      ∃ t g' x fl, exec (.redf op d a) s = .next t ∧ OnlyGroup s t g g' ∧ OnlyRegs g g' p (p.past (Instr.words (.redf op d a)))
        ∧ g'.getS d.toNat = x ∧ g'.fpflags = g.fpflags ||| BitVec.zeroExtend 32 fl
        ∧ SameV g g' (fun _ _ => False) ∧ SameS g g' (fun r => r = d.toNat) ∧ SameM g g' (fun _ => False)
        ∧ (act 32 = [] → x = (if op = .add then 0 else 0x7FC00000) ∧ fl = 0)
        ∧ (∀ l, act 32 = [l] → x = A l ∧ fl = 0)
        -- the nodes of the tree: level k + 1 joins nodes 2j and 2j + 1 of level k, with the flags of both and of the join
        ∧ ∃ node : Nat → Nat → Option (Word × Flags),
          (∀ l, l < 32 → node 0 l = if p.exec.getLsbD l = true then some (A l, 0) else none)
          ∧ (∀ k j, k < 5 → j < 2 ^ (4 - k) → node (k + 1) j = match node k (2 * j), node k (2 * j + 1) with
            | none, y => y
            | some x, none => some x
            | some x, some y =>
              let r : FRes := match op with
                | .add => w32 (addF fp32 (rmOf (g.modeAt s.cycle)) (dec32 x.1) (dec32 y.1))
                | .min => minmaxF false x.1 y.1
                | .max => minmaxF true x.1 y.1
              some (r.1, x.2 ||| y.2 ||| r.2))
          ∧ (x, fl) = (node 5 0).getD (if op = .add then 0 else 0x7FC00000, 0))

/-- The uniform class (R131), once per issue: imm7 and the literal are sign-extended, SCMP gives -1, 0 or 1. SLEA (R131): the pair A plus
the sign-extended B, times 4 in the .x4 form, modulo 2^64, into the pair D. MOP (R132). -/
def Obligations.UniformAndMaskResults : Prop :=
  (∀ (s : State) (g : Group) (p : Split) (d a : BitVec 6) (b : UOpnd), Issues s g p →
    Readable s g ((uopndUses b).append { s := [d.toNat, a.toNat] }) →
    let A := g.getS a.toNat
    let B := uval g b
    let n := B.toNat % 64
    let sat := fun x => BitVec.ofInt 32 (clampTo (-(2 ^ 31)) (2 ^ 31 - 1) x)
    UniResult s g p (.sadd false d a b) d.toNat (BitVec.ofNat 32 (A.toNat + B.toNat))
    ∧ UniResult s g p (.sadd true d a b) d.toNat (sat (A.toInt + B.toInt))
    ∧ UniResult s g p (.ssub false d a b) d.toNat (BitVec.ofInt 32 (A.toInt - B.toInt))
    ∧ UniResult s g p (.ssub true d a b) d.toNat (sat (A.toInt - B.toInt))
    ∧ UniResult s g p (.smul false d a b) d.toNat (BitVec.ofNat 32 (A.toNat * B.toNat))
    ∧ UniResult s g p (.smul true d a b) d.toNat ((A.signExtend 64 * B.signExtend 64).extractLsb' 32 32)
    ∧ UniResult s g p (.sand d a b) d.toNat (A &&& B) ∧ UniResult s g p (.sor d a b) d.toNat (A ||| B)
    ∧ UniResult s g p (.sxor d a b) d.toNat (A ^^^ B)
    ∧ UniResult s g p (.sshl d a b) d.toNat (if n ≥ 32 then 0 else BitVec.ofNat 32 (A.toNat * 2 ^ n))
    ∧ UniResult s g p (.sshr false d a b) d.toNat (if n ≥ 32 then 0 else BitVec.ofNat 32 (A.toNat / 2 ^ n))
    ∧ UniResult s g p (.sshr true d a b) d.toNat
        (if n ≥ 32 then (if A.msb then BitVec.allOnes 32 else 0) else BitVec.ofInt 32 (A.toInt / 2 ^ n))
    ∧ UniResult s g p (.smin false d a b) d.toNat (BitVec.ofInt 32 (min A.toInt B.toInt))
    ∧ UniResult s g p (.smin true d a b) d.toNat (BitVec.ofNat 32 (min A.toNat B.toNat))
    ∧ UniResult s g p (.smax false d a b) d.toNat (BitVec.ofInt 32 (max A.toInt B.toInt))
    ∧ UniResult s g p (.smax true d a b) d.toNat (BitVec.ofNat 32 (max A.toNat B.toNat))
    ∧ UniResult s g p (.scmp false d a b) d.toNat (if A.toInt < B.toInt then -1 else if A = B then 0 else 1)
    ∧ UniResult s g p (.scmp true d a b) d.toNat (if A.toNat < B.toNat then -1 else if A = B then 0 else 1)
    ∧ UniResult s g p (.smov d b) d.toNat B)
  ∧ (∀ (s : State) (g : Group) (p : Split) (x4 : Bool) (d a : BitVec 5) (b : UOpnd), Issues s g p →
    Readable s g ((uopndUses b).append { s := [2 * d.toNat, 2 * d.toNat + 1, 2 * a.toNat, 2 * a.toNat + 1] }) →
    ∃ t g', exec (.slea x4 d a b) s = .next t ∧ OnlyGroup s t g g' ∧ OnlyRegs g g' p (p.past (Instr.words (.slea x4 d a b)))
      ∧ g'.fpflags = g.fpflags
      ∧ g'.getSPair d.toNat = BitVec.ofInt 64 ((g.getSPair a.toNat).toInt + (if x4 then 4 else 1) * (uval g b).toInt)
      ∧ SameV g g' (fun _ _ => False) ∧ SameS g g' (fun r => r = 2 * d.toNat ∨ r = 2 * d.toNat + 1) ∧ SameM g g' (fun _ => False))
  ∧ (∀ (s : State) (g : Group) (p : Split), Issues s g p →
    (∀ d a b : BitVec 3, Readable s g { m := [d.toNat, a.toNat, b.toNat] } →
      let A := fun l => (g.getM a.toNat).getLsbD l
      let B := fun l => (g.getM b.toNat).getLsbD l
      MaskResult s g p (.mopAnd d a b) d.toNat (fun l => A l && B l) ∧ MaskResult s g p (.mopOr d a b) d.toNat (fun l => A l || B l)
      ∧ MaskResult s g p (.mopXor d a b) d.toNat (fun l => A l != B l))
    ∧ (∀ d a : BitVec 3, Readable s g { m := [d.toNat, a.toNat] } →
      MaskResult s g p (.mopNot d a) d.toNat (fun l => !(g.getM a.toNat).getLsbD l))
    ∧ (∀ (d : BitVec 6) (a : BitVec 3), Readable s g { s := [d.toNat], m := [a.toNat] } →
      UniResult s g p (.mopM2s d a) d.toNat (g.getM a.toNat)
      ∧ UniResult s g p (.mopCnt d a) d.toNat (BitVec.ofNat 32 ((List.range 32).countP fun k => (g.getM a.toNat).getLsbD k)))
    ∧ (∀ (d : BitVec 3) (a : BitVec 6), Readable s g { s := [a.toNat], m := [d.toNat] } →
      MaskResult s g p (.mopS2m d a) d.toNat (fun l => (g.getS a.toNat).getLsbD l))
    ∧ ∀ d : BitVec 3, Readable s g { m := [d.toNat] } → MaskResult s g p (.mopExec d) d.toNat (fun l => p.exec.getLsbD l))

/-- BRA, BRZ, BRNZ and LOOP (R126): the transfer or the next clause, and LOOP's count. BRM (R122, R126). All active lanes fall through, or
all are taken; else the split divides: with fewer than four splits live a new split of the lowest free id takes the taken lanes to the
target, and with four live a deferred entry is pushed. It waits while an earlier operation of the split has not passed its checks
(R156), and a 33rd entry traps QUOTA. CALL, CALLI and RET (R127): the link pair takes the address after the clause; CALLI reads its
target before it writes the link and leaves the PAD label due. JTAB (R128): an index at or above the bound traps JTAB, a misaligned
table traps ALIGN, else the entry's eight bytes are loaded, and the transfer goes where they say with the PAD label due. -/
def Obligations.BranchesCallsAndTables : Prop :=
  (∀ (s : State) (g : Group) (p : Split) (off : BitVec 18), Issues s g p →
    let target := wordTarget p.pc off.toInt
    MoveResult s g p (.bra off) (p.landed target) (fun _ => none)
    ∧ ∀ c : BitVec 6, Readable s g { s := [c.toNat] } →
      let x := g.getS c.toNat
      MoveResult s g p (.brz c off) (if x = 0 then p.landed target else p.fallen) (fun _ => none)
      ∧ MoveResult s g p (.brnz c off) (if x ≠ 0 then p.landed target else p.fallen) (fun _ => none)
      ∧ MoveResult s g p (.loop c off) (if x = 1 then p.fallen else p.landed target)
          (fun r => if r = c.toNat then some (BitVec.ofInt 32 (x.toInt - 1)) else none))
  ∧ (∀ (s : State) (g : Group) (p : Split) (c : BitVec 3) (off : BitVec 18), Issues s g p → Readable s g { m := [c.toNat] } →
    s.unchecked g p = true → exec (.brm c off) s = .next (s.stall g p .poll))
  ∧ (∀ (s : State) (g : Group) (p : Split) (c : BitVec 3) (off : BitVec 18), Issues s g p → Readable s g { m := [c.toNat] } →
    s.unchecked g p = false →
    let i : Instr := .brm c off
    let target := wordTarget p.pc off.toInt
    let T := p.exec &&& g.getM c.toNat
    let F := p.exec &&& ~~~(g.getM c.toNat)
    let free := fun id => id < 4 ∧ g.split? id = none
    let stay : Split := { p.fallen with lset := p.lset &&& ~~~T, exec := F }
    (T = 0 → MoveResult s g p i p.fallen (fun _ => none))
    ∧ (T ≠ 0 → F = 0 → MoveResult s g p i (p.landed target) (fun _ => none))
    ∧ (T ≠ 0 → F ≠ 0 → ∀ id, free id → (∀ k, k < id → ¬ free k) →
      ∃ t g' q, exec i s = .next t ∧ OnlyGroup s t g g' ∧ g' = { g with splits := g'.splits } ∧ g'.split? p.id = some stay
        ∧ g'.split? id = some q ∧ q.pc = target ∧ q.clause = none ∧ q.jumped = true ∧ q.lset = T ∧ q.exec = T ∧ q.stack = []
        ∧ q.region = p.region ∧ ∀ n, n ≠ p.id → n ≠ id → g'.split? n = g.split? n)
    ∧ (T ≠ 0 → F ≠ 0 → (∀ id, ¬ free id) → p.stack.length < 32 →
      MoveResult s g p i { stay with stack := .deferred target T :: p.stack } (fun _ => none))
    ∧ (T ≠ 0 → F ≠ 0 → (∀ id, ¬ free id) → 32 ≤ p.stack.length → exec i s = .next (s.trap g p i cQUOTA 1)))
  ∧ (∀ (s : State) (g : Group) (p : Split), Issues s g p →
    let link := BitVec.ofNat 64 p.nextHeader
    (∀ (l : BitVec 5) (off : BitVec 18), Readable s g { s := [2 * l.toNat, 2 * l.toNat + 1] } →
      MoveResult s g p (.call l off) (p.landed (wordTarget p.pc off.toInt)) (pairIs l.toNat link))
    ∧ (∀ (l a : BitVec 5) (lbl : BitVec 16),
      Readable s g { s := [2 * l.toNat, 2 * l.toNat + 1, 2 * a.toNat, 2 * a.toNat + 1] } →
      MoveResult s g p (.calli l a lbl) { p.landed (g.getSPair a.toNat).toNat with padDue := some lbl.toNat } (pairIs l.toNat link))
    ∧ ∀ a : BitVec 5, Readable s g { s := [2 * a.toNat, 2 * a.toNat + 1] } →
      MoveResult s g p (.ret a) (p.landed (g.getSPair a.toNat).toNat) (fun _ => none))
  ∧ (∀ (s : State) (g : Group) (p : Split) (x : BitVec 6) (t : BitVec 5) (bound lbl : BitVec 16), Issues s g p →
    Readable s g { s := [x.toNat, 2 * t.toNat, 2 * t.toNat + 1] } →
    let i : Instr := .jtab x t bound lbl
    let base := (g.getSPair t.toNat).toNat
    let idx := (g.getS x.toNat).toNat
    let va := (base + 8 * idx) % 2 ^ 64
    (∀ dest : DWord, p.wait = .got dest →
      MoveResult s g p i { p.landed dest.toNat with padDue := some lbl.toNat } (fun _ => none))
    ∧ (∀ n, p.wait = .reply n → exec i s = .next s)
    ∧ ((∀ dest, p.wait ≠ .got dest) → (∀ n, p.wait ≠ .reply n) →
      (bound.toNat ≤ idx → exec i s = .next (s.trap g p i cJTAB))
      ∧ (idx < bound.toNat → base % 8 ≠ 0 → exec i s = .next (s.trap g p i cALIGN))
      ∧ ∀ (s1 : State) (l : List LaneEa) (f : LaneFail), idx < bound.toNat → base % 8 = 0 →
        s.checkLanes g .read 8 (fun _ => true) [(32, va)] = (s1, l, f) →
        (f.cause ≠ 0 → exec i s = .next (s1.trapAt g p i f.cause p.exec f.addr f.detail))
        ∧ (f.cause = 0 → f.waits = false →
          ∃ u g' o, exec i s = .next u ∧ u.group? g.ref = some g' ∧ (g'.split? p.id).map (·.wait) = some (.reply o.id) ∧ o ∈ u.ops
            ∧ o.grp = g.ref ∧ o.split = p.id ∧ o.flag = flagTable ∧ (∀ a, u.byte a = s1.byte a)
            ∧ ∃ accs lines, o.kind = .load true 0 (.word 8) accs lines p.exec ∧ accs.map (·.va) = [va])))
  ∧ (∀ (s : State) (g : Group) (p : Split) (o : PendOp) (accs : List LaneAcc) (a : LaneAcc) (lines : List LineWait) (m : LaneMask),
    OpOf s g o → g.split? o.split = some p → o.flag = flagTable → o.kind = .load true 0 (.word 8) accs lines m → accs = [a] →
    (∀ w ∈ lines, w.st = .got) → loadFails accs lines = [] →
    ∃ t g', exec (.loadDataReturn o.id) s = .next t ∧ t.group? g.ref = some g'
      ∧ g'.split? p.id = some { p with wait := .got (BitVec.ofNat 64 (accNat lines a 8)) } ∧ SameMem s t)

/-- ILL, PAD, NOP and YIELD (R41, R128, R137): 0x00 traps ILL, PAD and NOP only move on, YIELD keeps the split from issuing for the 16
cycles that follow. ELECT and ELEND (R134). JOIN (R123, R129): the only live split with an empty stack passes at once; with a sibling
that does not wait at a JOIN it waits; a deferred entry is run next, and becomes the resume entry that leads back. -/
def Obligations.PlainElectionAndJoin : Prop :=
  (∀ (s : State) (g : Group) (p : Split), Issues s g p →
    (∀ z, exec (.ill z) s = .next (s.trap g p (.ill z) cILL))
    ∧ MoveResult s g p .nop (p.past 1) (fun _ => none) ∧ (∀ l, MoveResult s g p (.pad l) (p.past 1) (fun _ => none))
    ∧ MoveResult s g p .yield { p.past 1 with yieldTo := s.cycle + 17 } (fun _ => none))
  ∧ (∀ (s : State) (g : Group) (p : Split), Issues s g p →
    (s.unchecked g p = false → g.elected = none → ∃ t g' q, exec .elect s = .next t ∧ OnlyGroup s t g g'
        ∧ OnlySplit { g with elected := some (p.id, p.exec) } g' p q ∧ q = { p.past 1 with exec := q.exec }
        ∧ ∀ l, l < 32 → (q.exec.getLsbD l = true ↔ p.exec.getLsbD l = true ∧ ∀ k, k < l → p.exec.getLsbD k = false))
    ∧ (s.unchecked g p = false → g.elected ≠ none → exec .elect s = .next (s.trap g p .elect cILL))
    ∧ (∀ sv, g.elected = some (p.id, sv) → ∃ t g', exec .elend s = .next t ∧ OnlyGroup s t g g'
        ∧ OnlySplit { g with elected := none } g' p { p.past 1 with exec := sv })
    ∧ ((∀ sv, g.elected ≠ some (p.id, sv)) → exec .elend s = .next (s.trap g p .elend cILL)))
  ∧ (∀ (s : State) (g : Group) (p : Split), Issues s g p → s.unchecked g p = true →
    exec .elect s = .next (s.stall g p .poll) ∧ exec .join s = .next (s.stall g p .poll))
  ∧ (∀ (s : State) (g : Group) (p : Split), Issues s g p → s.unchecked g p = false →
    (p.stack = [] → g.splits = [p] → MoveResult s g p .join p.fallen (fun _ => none))
    ∧ (p.stack = [] → (∃ n q, n ≠ p.id ∧ g.split? n = some q ∧ q.wait ≠ .join) →
      MoveResult s g p .join { p with wait := .join } (fun _ => none))
    ∧ (∀ pc lanes rest, p.stack = .deferred pc lanes :: rest →
      MoveResult s g p .join
        { p.landed (pc % 2 ^ 64) with lset := lanes, exec := lanes, stack := .resume (some p.nextHeader) p.lset p.exec :: rest }
        (fun _ => none))
    ∧ (∀ l e, p.stack = [.resume (some p.nextHeader) l e] → g.splits = [p] →
      MoveResult s g p .join { p.fallen with lset := p.lset ||| l, exec := p.exec ||| e, stack := [] } (fun _ => none))
    ∧ (∀ pc l e rest, p.stack = .resume pc l e :: rest → pc ≠ some p.nextHeader → MoveResult s g p .join p.fallen (fun _ => none))
    ∧ ∀ q : Split, p.stack = [] → g.splits = [p, q] → p.id < q.id → q.wait = .join → q.pc = p.pc →
      ∃ t g' r, exec .join s = .next t ∧ t.group? g.ref = some g' ∧ g'.splits = [r] ∧ r.id = p.id ∧ r.lset = p.lset ||| q.lset
        ∧ r.exec = p.exec ||| q.exec ∧ r.pc = p.nextHeader ∧ r.clause = none ∧ r.wait = .none ∧ g'.v = g.v ∧ g'.s = g.s ∧ g'.m = g.m
        ∧ (∀ x, x ≠ g.ref → (t.group? x).map (fun h => (h.v, h.s, h.m, h.splits)) = (s.group? x).map fun h => (h.v, h.s, h.m, h.splits))
        ∧ SameMem s t)

/-- WINB (R136): the word's low three bits name the window w / 32, its other operand bits are 0; a window base at or beyond the allotment
traps REGRANGE and changes no register, $WB among them; else $WB takes w for the whole group, and no register's contents move. -/
def Obligations.WinbMovesTheWindow : Prop :=
  (∀ w lit : Word, w.extractLsb' 24 8 = 0xE5#8 →
    (w.extractLsb' 3 21 = 0 → decode w lit = .ok (.winb (w.extractLsb' 0 3))) ∧ (w.extractLsb' 3 21 ≠ 0 → ∀ i, decode w lit ≠ .ok i))
  ∧ ∀ (s : State) (g : Group) (p : Split) (w : BitVec 3), Issues s g p →
    (g.allot ≤ 32 * w.toNat → exec (.winb w) s = .next (s.trap g p (.winb w) cREGRANGE)
      ∧ ∀ h, (s.trap g p (.winb w) cREGRANGE).group? g.ref = some h → h.wb = g.wb)
    ∧ (32 * w.toNat < g.allot → ∃ t g', exec (.winb w) s = .next t ∧ OnlyGroup s t g g'
      ∧ OnlySplit { g with wb := 32 * w.toNat } g' p (p.past 1))

/-- EXECM and EXECR (R130): $EXEC takes LSET AND M[a], or LSET, an empty one too; no split is created; under the split's own ELECT they act
on the saved mask and leave $EXEC. -/
def Obligations.ExecMasksFollowTheLaneSet : Prop :=
  (∀ w lit : Word, w.extractLsb' 24 8 = 0x9B#8 →
    let plain := w.extractLsb' 14 10 = 0 ∧ w.extractLsb' 10 4 = 0 ∧ w.extractLsb' 0 7 = 0
    (plain → decode w lit = .ok (.execm (w.extractLsb' 7 3))) ∧ (¬ plain → ∀ i, decode w lit ≠ .ok i))
  ∧ (∀ w lit : Word, w.extractLsb' 24 8 = 0x9C#8 →
    (w.extractLsb' 0 24 = 0 → decode w lit = .ok .execr) ∧ (w.extractLsb' 0 24 ≠ 0 → ∀ i, decode w lit ≠ .ok i))
  ∧ ∀ (s : State) (g : Group) (p : Split), Issues s g p →
    (∀ m : BitVec 3, Readable s g { m := [m.toNat] } → (∀ sv, g.elected ≠ some (p.id, sv)) →
      MoveResult s g p (.execm m) { p.past 1 with exec := p.lset &&& g.getM m.toNat } (fun _ => none))
    ∧ ((∀ sv, g.elected ≠ some (p.id, sv)) → MoveResult s g p .execr { p.past 1 with exec := p.lset } (fun _ => none))
    ∧ (∀ (m : BitVec 3) (sv : LaneMask), Readable s g { m := [m.toNat] } → g.elected = some (p.id, sv) →
      ∃ t g', exec (.execm m) s = .next t ∧ OnlyGroup s t g g'
        ∧ OnlySplit { g with elected := some (p.id, p.lset &&& g.getM m.toNat) } g' p (p.past 1))
    ∧ (∀ sv : LaneMask, g.elected = some (p.id, sv) → ∃ t g', exec .execr s = .next t ∧ OnlyGroup s t g g'
        ∧ OnlySplit { g with elected := some (p.id, p.lset) } g' p (p.past 1))

/-- A clause header (R29, R30, R33): with its WAIT flags clear it starts its clause, with the set-flags that it names, whose first word
issues in the next cycle at the earliest where flags are named; with a flag of WAIT set it waits; without RE behind the end of a region
it traps ILL with itself as the region entry, and behind a ROLE without effect it traps ILL too (R139); a deferred entry at its address
joins first (R123). -/
def Obligations.ClauseHeaderStartsItsClause : Prop :=
  ∀ (s : State) (g : Group) (p : Split) (wait : BitVec 12) (sav : Bool) (sa : BitVec 4) (sbv : Bool) (sb : BitVec 4) (n : BitVec 3)
    (re yh : Bool), Issues s g p →
    let i : Instr := .clauseHeader wait sav sa sbv sb n re yh
    let alone := (∀ q ∈ g.splits, canMerge p q = false) ∧ ∀ pc lanes rest, p.stack = .deferred pc lanes :: rest → pc ≠ p.pc
    let clear := ∀ f, f < 12 → wait.getLsbD f = true → ∀ o ∈ s.ops, o.grp = g.ref → o.flag ≠ f
    (alone → clear → (p.ended = true ∨ p.needRe = true → re = true) →
      ∃ q : Split, MoveResult s g p i q (fun _ => none) ∧ q.pc = p.pc + 4 ∧ q.lset = p.lset ∧ q.exec = p.exec ∧ q.stack = p.stack
        ∧ q.region = p.region ∧ q.ended = p.ended ∧ q.yieldTo = (if wait = 0 then p.yieldTo else s.cycle + 1)
        ∧ q.clause = some { hdr := p.pc, left := n.toNat + 1, setA := if sav then some sa.toNat else none,
                            setB := if sbv then some sb.toNat else none, re := re, first := true })
    ∧ (alone → ¬ clear → MoveResult s g p i { p with wait := .poll } (fun _ => none))
    ∧ (alone → clear → p.ended = true ∨ p.needRe = true → re = false → exec i s = .next (s.enterTrap g p
        { cause := cILL, lanes := p.exec, pc := p.pc, insn := word0 i, hdr := true })
      ∧ (p.clause = none → p.ended = true → g.tactive = false →
        ∃ t g' r, exec i s = .next t ∧ t.group? g.ref = some g' ∧ g'.trapRec = some r ∧ r.rpc = p.pc ∧ r.pc = p.pc ∧ r.cause = cILL))
    ∧ ∀ lanes rest, p.stack = .deferred p.pc lanes :: rest →
      MoveResult s g p i { p with lset := p.lset ||| lanes, exec := p.exec ||| lanes, stack := rest } (fun _ => none)

/-- LD, SLD and LDB (R217, R219, R220): the addresses, the checks, and one operation that holds the destinations pending. LDS, LDSR and LDB
of the scratchpad (R217 to R220). -/
def Obligations.LoadsAttachOneReply : Prop :=
  (∀ (s : State) (g : Group) (p : Split) (fs : Bool) (f : Nat), Issues s g p → p.flag? fs = some f → s.flagRoom g f 1 = true →
    (∀ (sz : Size) (d : BitVec 7) (a : BitVec 6) (off : BitVec 7),
      Readable s g { v := runRegs d.toNat (sizeWords sz) ++ pairRegs a.toNat } →
      LoadResult s g p f (.ld fs sz d a off) false (g.wb + d.toNat) (sizeWords sz) (.word (sizeBytes sz))
        (activeEas p fun l => eaPair (g.getV (2 * a.toNat + 1) l ++ g.getV (2 * a.toNat) l) off (sizeBytes sz)))
    ∧ (∀ (sz : Size) (d : BitVec 6) (a : BitVec 5) (off : BitVec 7),
      Readable s g { s := runRegs d.toNat (sizeWords sz) ++ pairRegs a.toNat } →
      LoadResult s g p f (.sld fs sz d a off) true d.toNat (sizeWords sz) (.word (sizeBytes sz))
        [(32, eaPair (g.getSPair a.toNat) off (sizeBytes sz))])
    ∧ ∀ (bf : ByteForm) (d : BitVec 7) (a : BitVec 6) (off : BitVec 6), Readable s g { v := d.toNat :: pairRegs a.toNat } →
      LoadResult s g p f (.ldb fs bf d a off) false (g.wb + d.toNat) 1 (.byteForm bf)
        (activeEas p fun l => ((g.getV (2 * a.toNat + 1) l ++ g.getV (2 * a.toNat) l).toNat + off.toNat) % 2 ^ 64))
  ∧ (∀ (s : State) (g : Group) (p : Split) (fs : Bool) (f : Nat), Issues s g p → p.flag? fs = some f → s.flagRoom g f 1 = true →
    (∀ (sz : Size) (d a off : BitVec 7), Readable s g { v := a.toNat :: runRegs d.toNat (sizeWords sz) } →
      ScratchLoadResult s g p f (.lds fs sz d a off) (g.wb + d.toNat) (sizeWords sz) (.word (sizeBytes sz))
        (localLanes p (localOff g a.toNat off (sizeBytes sz)))
      ∧ ScratchLoadResult s g p f (.ldsr fs sz d a off) (g.wb + d.toNat) (sizeWords sz) (.word (sizeBytes sz))
        (clusterLanes g p a.toNat off (sizeBytes sz)))
    ∧ ∀ (bf : ByteForm) (d a : BitVec 7) (off : BitVec 6), Readable s g { v := [d.toNat, a.toNat] } →
      ScratchLoadResult s g p f (.ldbScratch fs bf d a off) (g.wb + d.toNat) 1 (.byteForm bf)
        (localLanes p fun l => ((g.getV a.toNat l).toNat + off.toNat) % 2 ^ 32))

/-- ST, SST, STB and SOW (R203, R217, R219 to R221). SOW is a commit, and its push mask leaves out the storing core. A store of masked bytes
of one line (R190, R209): but for the read-only words of a trap frame (R150), which it leaves as they are, the core's L1 holds them dirty
and valid, its other bytes of the line are as before, a publish-queue entry of the line covers them and carries the push mask, and no
other core and no byte of memory changes. -/
def Obligations.GlobalStoresFillLineAndQueue : Prop :=
  (∀ (s : State) (g : Group) (p : Split), Issues s g p →
    (∀ (sz : Size) (d : BitVec 7) (a : BitVec 6) (off : BitVec 7),
      Readable s g { v := runRegs d.toNat (sizeWords sz) ++ pairRegs a.toNat } →
      StoreResult s g p (.st sz d a off) false 0 (sizeBytes sz) (fun _ => true)
        (activeEas p fun l => eaPair (g.getV (2 * a.toNat + 1) l ++ g.getV (2 * a.toNat) l) off (sizeBytes sz))
        (vNat g d.toNat (sizeWords sz)) (fun u => u.updSplit g.ref p.id fun q => q.past 1))
    ∧ (∀ (sz : Size) (d : BitVec 6) (a : BitVec 5) (off : BitVec 7),
      Readable s g { s := runRegs d.toNat (sizeWords sz) ++ pairRegs a.toNat } →
      StoreResult s g p (.sst sz d a off) false 0 (sizeBytes sz) (fun _ => true) [(32, eaPair (g.getSPair a.toNat) off (sizeBytes sz))]
        (fun _ => sNat g d.toNat (sizeWords sz)) (fun u => u.updSplit g.ref p.id fun q => q.past 1))
    ∧ (∀ (half : Bool) (d : BitVec 7) (a off : BitVec 6), Readable s g { v := d.toNat :: pairRegs a.toNat } →
      StoreResult s g p (.stb half d a off) false 0 (if half then 2 else 1) (fun _ => true)
        (activeEas p fun l => ((g.getV (2 * a.toNat + 1) l ++ g.getV (2 * a.toNat) l).toNat + off.toNat) % 2 ^ 64)
        (fun l => (g.getV d.toNat l).toNat) (fun u => u.updSplit g.ref p.id fun q => q.past 1))
    ∧ ∀ (sz : Size) (d : BitVec 7) (a m : BitVec 6),
      Readable s g { v := runRegs d.toNat (sizeWords sz) ++ pairRegs a.toNat, s := [m.toNat] } → s.unchecked g p = false →
      let push := g.getS m.toNat &&& ~~~(BitVec.ofNat 32 (2 ^ (g.ref.core % 32)))
      StoreResult s g p (.sow sz d a m) (push != 0) push (sizeBytes sz) (fun k => !k.remote)
        (activeEas p fun l => (g.getV (2 * a.toNat + 1) l ++ g.getV (2 * a.toNat) l).toNat)
        (vNat g d.toNat (sizeWords sz)) (fun u => (u.commit g p).updSplit g.ref p.id fun q => q.past 1))
  ∧ (∀ (s : State) (site : Site) (va : Nat) (k : LineKey) (data : LineData) (bytes : LineMask) (push : BitVec 32) (sow : Bool)
    (t : State), s.storeLine site va k data bytes push sow = some t →
    let mask := bytes &&& ~~~(s.frameRo k)
    let c := s.core site.grp.core
    let c' := t.core site.grp.core
    t = { s with cores := t.cores, nextId := t.nextId } ∧ (∀ n, n ≠ site.grp.core → t.core n = s.core n)
    ∧ (∃ l', c'.line? k = some l' ∧ l'.age = s.cycle ∧ (l'.st = .D ∨ l'.st = .DS) ∧ (sow = true → l'.st = .DS)
      ∧ ∀ b, b < 128 →
        (mask.getLsbD b = true → lineNat l'.data b 1 = lineNat data b 1 ∧ l'.valid.getLsbD b = true ∧ l'.dirty.getLsbD b = true)
        ∧ (mask.getLsbD b = false → ∀ l, c.line? k = some l → lineNat l'.data b 1 = lineNat l.data b 1
          ∧ l'.valid.getLsbD b = l.valid.getLsbD b ∧ l'.dirty.getLsbD b = l.dirty.getLsbD b))
    ∧ (∃ e ∈ c'.pq, e.key.same k = true ∧ e.phase = .waiting ∧ e.mask &&& mask = mask ∧ e.push &&& push = push
      ∧ (site.kernel, site.wg) ∈ e.by_ ∧ (sow = true → (site, push) ∈ e.sows))
    ∧ (∀ l ∈ c'.l1, l.key.same k = false → l ∈ c.l1)
    ∧ ∀ l ∈ c.l1, l.key.same k = false → l ∉ c'.l1 → ∃ v ∈ c.l1, v.key = l.key ∧ (v.st = .P ∨ v.st = .V))

/-- ATOM and ATOMC (R224): a commit that attaches one operation with a request per active lane; V[D] is pending unless NORET. ATOMS (R225)
of one lane: the bank holds the new value, the operation carries the old one to V[D], other bytes are as before. STS, STB and STSR of
the scratchpad (R205, R217 to R220). -/
def Obligations.AtomicsAndScratchWrites : Prop :=
  (∀ (s : State) (g : Group) (p : Split) (fs w64 noret : Bool) (f : Nat) (sc : Scope) (ord : AOrd) (d : BitVec 7) (a : BitVec 6)
    (v : BitVec 7), Issues s g p → p.flag? fs = some f → s.flagRoom g f 1 = true → s.unchecked g p = false →
    let n := if w64 then 2 else 1
    let eas := activeEas p fun l => (g.getV (2 * a.toNat + 1) l ++ g.getV (2 * a.toNat) l).toNat
    let completes := fun (i : Instr) (op : Option Aop) =>
      ∀ (s1 : State) (l : List (LaneEa × Option Nat)) (e : LaneFail), checkAtom s g op w64 eas = (s1, l, e) →
        (e.cause ≠ 0 → exec i s = .next (s1.trapAt g p i e.cause e.lanes e.addr e.detail))
        ∧ (e.cause = 0 → e.waits = false → l ≠ [] → (AOrd.rel ord = true → Released s1 g p sc) →
          ∃ t o lanes, exec i s = .next t ∧ o ∈ t.ops
            ∧ Pends g p f (if noret then {} else { vw := runRegs (g.wb + d.toNat) n }) o
            ∧ o.kind = .atom w64 op noret sc ord (g.wb + d.toNat) lanes ∧ lanes.map (fun x => (x.lane, x.va)) = eas
            ∧ (∀ x ∈ lanes, x.v = BitVec.ofNat 64 (vNat g v.toNat n x.lane) ∧ x.cmp = BitVec.ofNat 64 (vNat g d.toNat n x.lane)
              ∧ x.reply = none)
            ∧ (∃ g', t.group? g.ref = some g' ∧ g'.v = g.v ∧ g'.s = g.s ∧ g'.m = g.m ∧ g'.fpflags = g.fpflags
              ∧ ∃ q, g'.split? p.id = some q ∧ q.pc = p.pc + 8 ∧ q.ended = true ∧ q.commits = p.commits + 1 ∧ q.exec = p.exec)
            ∧ ∀ b, t.byte b = s1.byte b)
    (∀ op : Aop, Readable s g { v := (if noret then [] else runRegs d.toNat n) ++ pairRegs a.toNat ++ runRegs v.toNat n } →
      completes (.atom fs w64 op noret sc ord d a v) (some op))
    ∧ (Readable s g { v := runRegs d.toNat n ++ pairRegs a.toNat ++ runRegs v.toNat n } →
      completes (.atomc fs w64 noret sc ord d a v) none))
  ∧ (∀ (s : State) (g : Group) (p : Split) (fs w64 noret : Bool) (op : Aop) (f lane : Nat) (d a v : BitVec 7) (w : Workgroup),
    Issues s g p → p.flag? fs = some f → s.flagRoom g f 1 = true → s.unchecked g p = false →
    let n := if w64 then 2 else 1
    Readable s g { v := (if noret && op != .cas then [] else runRegs d.toNat n) ++ [a.toNat] ++ runRegs v.toNat n } →
    lanesOf p.exec = [lane] →
    let l := clusterLanes g p a.toNat 0 (4 * n)
    (scratchFail s g (4 * n) l).cause = 0 →
    ∀ r o, scratchAccs s g l = [(lane, r, o)] → s.stsrAhead g r = false → s.wg? g.cx g.kernel r = some w →
    let old := w.nat o (4 * n)
    let new := aopNew (some op) (32 * n) old (vNat g v.toNat n lane) (vNat g d.toNat n lane)
    ∃ t w' q, exec (.atoms fs w64 op noret d a v) s = .next t ∧ t.wg? g.cx g.kernel r = some w'
      ∧ w'.nat o (4 * n) = new % 2 ^ (32 * n) ∧ (∀ b, b < o ∨ o + 4 * n ≤ b → w'.byte b = w.byte b)
      ∧ q ∈ t.ops ∧ Pends g p f (if noret then {} else { vw := runRegs (g.wb + d.toNat) n }) q
      ∧ q.kind = .atoms w64 noret (g.wb + d.toNat) [(lane, BitVec.ofNat 64 old)] ∧ ∀ b, t.byte b = s.byte b)
  ∧ (∀ (s : State) (g : Group) (p : Split), Issues s g p →
    (∀ (sz : Size) (d a off : BitVec 7), Readable s g { v := a.toNat :: runRegs d.toNat (sizeWords sz) } →
      ScratchStoreResult s g p (.sts sz d a off) (sizeBytes sz) (vNat g d.toNat (sizeWords sz)) (localOff g a.toNat off (sizeBytes sz)))
    ∧ (∀ (half : Bool) (d a : BitVec 7) (off : BitVec 6), Readable s g { v := [d.toNat, a.toNat] } →
      ScratchStoreResult s g p (.stbScratch half d a off) (if half then 2 else 1) (fun l => (g.getV d.toNat l).toNat)
        (fun l => ((g.getV a.toNat l).toNat + off.toNat) % 2 ^ 32))
    ∧ ∀ (sz : Size) (d a off : BitVec 7), Readable s g { v := a.toNat :: runRegs d.toNat (sizeWords sz) } →
      let l := clusterLanes g p a.toNat off (sizeBytes sz)
      let e := scratchFail s g (sizeBytes sz) l
      (e.cause ≠ 0 → exec (.stsr sz d a off) s = .next (s.trapAt g p (.stsr sz d a off) e.cause e.lanes e.addr e.detail))
      ∧ (e.cause = 0 → ∃ t g' out, exec (.stsr sz d a off) s = .next t
        ∧ t = { s with groups := t.groups, stsrs := s.stsrs ++ out, nextId := s.nextId + out.length }
        ∧ t.group? g.ref = some g' ∧ OnlySplit { g with bkcnt := g'.bkcnt } g' p (p.past 1)
        ∧ (∀ r, r ≠ g.ref → t.group? r = s.group? r)
        ∧ out.map (fun m => (m.core, m.cx, m.kernel)) = l.map (fun _ => (g.ref.core, g.cx, g.kernel))
        ∧ out.map (fun m => (m.wg, m.off)) = (scratchAccs s g l).map (fun x => x.2)
        ∧ out.map (·.bytes) = l.map fun x => leBytes (sizeBytes sz) (vNat g d.toNat (sizeWords sz) x.1)))

/-- REL, ACQ, PHASE and FLUSHL (R198 to R200). A release that is done and an acquire move on; an acquire at cluster scope and wider empties
V, ages P and keeps only the core's own unpublished bytes, and the split stalls for 16 cycles. FLUSHL waits for the publication of its
lines where it publishes, drops clean ones where it drops, and a line that only publishes is a hit. WATCH and PFL2 (R226, R227): a
watch whose address fails a check of R218 traps, a misaligned one with ALIGN among its causes, a tag in use TAGBUSY, a prefetch whose
start address lies in the multicast aperture or has one of bits 63:57 set PROT, else each attaches its operation. That PFL2 takes its
PROT by the start address alone, once per issue, is the model's reading of R218 (DEDUCED, log 46). -/
def Obligations.PhasesWatchAndPrefetch : Prop :=
  (∀ (s : State) (g : Group) (p : Split), Issues s g p →
    let n := g.ref.core
    let acquires := fun (sc : Scope) (i : Instr) =>
      (wideScope sc = false → MoveResult s g p i (p.past 1) (fun _ => none))
      ∧ (wideScope sc = true → ∃ t g', exec i s = .next t ∧ t = { s with groups := t.groups, cores := t.cores }
        ∧ t.group? g.ref = some g' ∧ OnlySplit g g' p { p.past 1 with yieldTo := s.cycle + 16 }
        ∧ (∀ m, m ≠ n → t.core m = s.core m) ∧ (t.core n).pq = (s.core n).pq
        ∧ (∀ l ∈ (t.core n).l1, l.st ≠ .V ∧ (l.st = .P → l.aged = true) ∧ (l.st = .D ∨ l.st = .DS → l.valid = l.dirty))
        ∧ ∀ l ∈ (s.core n).l1, l.st = .D ∨ l.st = .DS → { l with valid := l.dirty } ∈ (t.core n).l1)
    (∀ sc, Released s g p sc → MoveResult s g p (.rel sc) (p.past 1) (fun _ => none))
    ∧ (∀ sc a b c d, wideScope sc = true → (∀ a b c d, p.wait ≠ .marker a b c d) → s.marker n sc = .marker a b c d →
      s.markerDone a b c d = false → MoveResult s g p (.rel sc) { p with wait := .marker a b c d } (fun _ => none))
    ∧ (∀ sc, acquires sc (.acq sc)) ∧ (∀ sc, Released s g p sc → acquires sc (.phase sc))
    ∧ ∀ (k : BitVec 7) (mode : FlushMode) (a : BitVec 5), Readable s g { s := pairRegs a.toNat } →
      let i : Instr := .flushl k mode a
      let base := (g.getSPair a.toNat).toNat / 128 * 128
      -- the walks of the lines' pages mark and note what they read (R200, R316): s0 is the state behind them
      let s0 := (s.flushKeys g base (k.toNat + 1)).1
      let ks := (s.flushKeys g base (k.toNat + 1)).2
      let named := fun (e : PqEntry) => ∃ x ∈ ks, e.key.same x = true
      (∀ b c d e, p.wait = .marker b c d e →
        if s.markerDone b c d e then MoveResult s g p i (p.past 1) (fun _ => none) else exec i s = .next s)
      ∧ ((∀ b c d e, p.wait ≠ .marker b c d e) → s.flushWaits g base (k.toNat + 1) = true →
        MoveResult s g p i { p with wait := .poll } (fun _ => none))
      ∧ ((∀ b c d e, p.wait ≠ .marker b c d e) → s.flushWaits g base (k.toNat + 1) = false →
        (mode ≠ .drop → (∃ e ∈ (s.core n).pq, named e) → ∃ t g' ids, exec i s = .next t ∧ t.group? g.ref = some g'
          ∧ OnlySplit g g' p { p with wait := .marker ids [] [] n } ∧ (t.core n).pq = (s.core n).pq ∧ SameMem s0 t
          ∧ (∀ e ∈ (s.core n).pq, named e → e.id ∈ ids) ∧ ∀ x ∈ ids, ∃ e ∈ (s.core n).pq, named e ∧ e.id = x)
        ∧ (mode = .drop ∨ (∀ e ∈ (s.core n).pq, ¬ named e) →
          ∃ t, exec i s = .next t ∧ GoesOn s t g p i (fun _ => none) ∧ SameMem s0 t ∧ (t.core n).pq = (s.core n).pq
            ∧ (mode ≠ .pub → ∀ l, l ∈ (t.core n).l1 ↔ l ∈ (s0.core n).l1 ∧ ¬ (l.dirty = 0 ∧ ∃ x ∈ ks, l.key.same x = true))
            ∧ (mode = .pub → (t.core n).l1.map (fun l => (l.key, l.data, l.valid, l.dirty))
                = (s0.core n).l1.map (fun l => (l.key, l.data, l.valid, l.dirty))
              ∧ ∀ l ∈ (t.core n).l1, (∃ x ∈ ks, l.key.same x = true) → l.st ≠ .P))))
  ∧ (∀ (s : State) (g : Group) (p : Split) (fs : Bool) (f : Nat), Issues s g p → p.flag? fs = some f → s.flagRoom g f 1 = true →
    (∀ (cmp : WCmp) (u w64 : Bool) (sc : Scope) (d : BitVec 6) (a : BitVec 5) (b : BitVec 6),
      let n := if w64 then 2 else 1
      let i : Instr := .watch fs cmp u w64 sc d a b
      Readable s g { s := runRegs d.toNat n ++ pairRegs a.toNat ++ runRegs b.toNat n } →
      let va := (g.getSPair a.toNat).toNat
      let v := BitVec.ofNat 64 (sNat g b.toNat n)
      ∀ (s1 : State) (l : List LaneEa) (e : LaneFail), s.checkLanes g .read (4 * n) (fun _ => true) [(32, va)] = (s1, l, e) →
        (va % (4 * n) ≠ 0 → e.cause &&& cALIGN = cALIGN ∧ e.addr = va)
        ∧ (e.cause ≠ 0 → exec i s = .next (s1.trapAt g p i e.cause p.exec e.addr e.detail))
        ∧ (e.cause = 0 → e.waits = true → exec i s = .next (s1.stall g p .poll))
        ∧ (e.cause = 0 → e.waits = false → (∀ o ∈ s1.ops, o.flag ≠ flagRecorded) →
          ∃ t o k, l.map (·.key) = [k] ∧ exec i s = .next t ∧ GoesOn s t g p i (fun _ => none) ∧ SameMem s1 t ∧ t.ops = s1.ops ++ [o]
            ∧ Pends g p f { sw := runRegs d.toNat n } o
            ∧ o.kind = .watch va k (va % 128) cmp u w64 v sc d.toNat none none))
    ∧ ∀ (loc : Bool) (d a : BitVec 5) (tag : BitVec 6) (lines : BitVec 24),
      let i : Instr := .pfl2 fs loc d a tag lines
      Readable s g { s := pairRegs d.toNat ++ pairRegs a.toNat } → p.toMatch = [] →
      let start := (g.getSPair a.toNat).toNat
      let prot := 2 ^ 57 ≤ start ∨ regionOf start = .mcast
      (s.tagOut g tag.toNat = true → exec i s = .next (s.trap g p i cTAGBUSY))
      ∧ (s.tagOut g tag.toNat = false → prot → exec i s = .next (s.trapAt g p i cPROT p.exec start 0))
      ∧ (s.tagOut g tag.toNat = false → ¬ prot → 128 ≤ p.copyCount → exec i s = .next (s.trap g p i cQUOTA 2))
      ∧ (s.tagOut g tag.toNat = false → ¬ prot → p.copyCount < 128 →
        AttachResult s g p i f { sw := pairRegs d.toNat } (fun k => ∃ id, k = .pfl2 id) fun t =>
          ∃ c, t.copies = s.copies ++ [c] ∧ c.kind = .p ∧ c.src = (g.getSPair a.toNat).toNat / 128 * 128
            ∧ c.bytes = lines.toNat + 1 ∧ c.ctn = tag.toNat ∧ c.loc = loc))

/-- SHOPEN, SHPIN, SHUNPIN, SHDROP, SHSEAL and SHQ (R243 to R252): the answers that the core gives itself, and the messages that go to the
descriptor's home. SHST and SHLD (R246, R249): without the open version or the pin a trap PROT; else an open write per lane enters the
publish queue, and a pinned read attaches one operation. OPENFULL and PINFULL count the opens and pins that an SHOPEN or SHPIN still under
way asks for (DEDUCED by the model, log 49). -/
def Obligations.SheafInstructions : Prop :=
  (∀ (s : State) (g : Group) (p : Split) (d a : BitVec 6), Issues s g p → Readable s g { s := [d.toNat, a.toNat] } →
    let w := g.getS a.toNat
    let id := (w.extractLsb' 20 12).toNat
    let ver := (w.extractLsb' 8 12).toNat
    let tells := fun (i : Instr) (ver st : Nat) (x : State → Prop) => WordResult s g p i (oneS d.toNat (sheafWord id ver st)) x
    let sends := fun (t : State) (kind : ShMsgKind) (v : Nat) =>
      ∃ m, t.shMsgs = s.shMsgs ++ [m] ∧ m.kind = kind ∧ m.cx = g.cx ∧ m.sheaf = id ∧ m.ver = v ∧ m.grp = g.ref
    let quiet := fun (t : State) => t.shMsgs = s.shMsgs
    let fresh := (∀ v, p.wait ≠ .got v) ∧ ∀ n, p.wait ≠ .reply n
    -- SHOPEN: the reply ends it; a fifth open version is OPENFULL (an entry is kept for each SHOPEN of another split that still waits,
    -- log 49); else it sends and stalls
    (∀ v : DWord, p.wait = .got v → WordResult s g p (.shopen d a) (oneS d.toNat (v.extractLsb' 0 32)) quiet)
    ∧ (∀ n, p.wait = .reply n → exec (.shopen d a) s = .next s ∧ exec (.shq d a) s = .next s)
    ∧ (fresh → 4 ≤ g.opens.length + s.opensDue g → tells (.shopen d a) 0 5 quiet)
    ∧ (fresh → g.opens.length + s.opensDue g < 4 → ∃ t g', exec (.shopen d a) s = .next t ∧ t.group? g.ref = some g'
      ∧ OnlySplit g g' p { p with wait := .reply s.nextId } ∧ sends t .open_ 0)
    -- SHPIN (an entry is kept for each SHPIN under way, log 49)
    ∧ (∀ fs f, p.flag? fs = some f →
      (8 ≤ g.pins.length + s.pinsDue g → tells (.shpin fs d a) 0 6 quiet)
      ∧ (g.pins.length + s.pinsDue g < 8 → s.flagRoom g f 1 = true →
        AttachResult s g p (.shpin fs d a) f { sw := [d.toNat] } (fun k => k = .shpin d.toNat id) fun t => sends t .pin 0))
    -- SHUNPIN
    ∧ ((∀ q ∈ g.pins, (q.1, q.2.1) ≠ (id, ver)) → tells (.shunpin d a) ver 7 quiet)
    ∧ ((∃ q ∈ g.pins, (q.1, q.2.1) = (id, ver)) → tells (.shunpin d a) ver 0 fun t => sends t .unpin ver
      ∧ ∃ g', t.group? g.ref = some g' ∧ g'.pins.length + 1 = g.pins.length)
    -- SHDROP, a commit
    ∧ (s.unchecked g p = false → (id, ver) ∉ g.opens → tells (.shdrop d a) ver 8 fun t => quiet t ∧ Committed t g p)
    ∧ (s.unchecked g p = false → (id, ver) ∈ g.opens → tells (.shdrop d a) ver 0 fun t => sends t .drop ver ∧ Committed t g p
      ∧ ∃ g', t.group? g.ref = some g' ∧ (id, ver) ∉ g'.opens)
    -- SHSEAL, a commit
    ∧ (∀ fs f, p.flag? fs = some f → s.unchecked g p = false →
      ((id, ver) ∉ g.opens → tells (.shseal fs d a) ver 8 fun t => quiet t ∧ Committed t g p)
      ∧ ((id, ver) ∈ g.opens → s.flagRoom g f 1 = true →
        AttachResult s g p (.shseal fs d a) f { sw := [d.toNat] } (fun k => k = .shseal d.toNat id ver true) fun t =>
          sends t .seal ver ∧ Committed t g p ∧ ∃ g', t.group? g.ref = some g' ∧ (id, ver) ∉ g'.opens))
    -- SHQ
    ∧ (∀ v : DWord, p.wait = .got v → WordResult s g p (.shq d a) (oneS d.toNat (v.extractLsb' 0 32)) quiet)
    ∧ (fresh → s.shTarget g.cx id = .bad → WordResult s g p (.shq d a) (oneS d.toNat 0xF0000000) quiet)
    ∧ (fresh → s.shTarget g.cx id = .own → ∀ k e, s.desc? g.cx id = some (k, e) →
      WordResult s g p (.shq d a) (oneS d.toNat (BitVec.ofNat 32 e.word0)) quiet)
    ∧ (fresh → ∀ v pid, s.shTarget g.cx id = .proxy v pid → ∃ t g', exec (.shq d a) s = .next t ∧ t.group? g.ref = some g'
      ∧ g'.s = g.s ∧ SameMem s t ∧ ((g'.split? p.id).map (·.wait) = some (.reply s.nextId)
        ∨ (g'.split? p.id).map (·.wait) = some (.got 0xF0000000))))
  ∧ (∀ (s : State) (g : Group) (p : Split) (sz : Size) (d : BitVec 7) (a b : BitVec 6), Issues s g p →
    let n := sizeWords sz
    Readable s g { v := runRegs d.toNat n ++ pairRegs a.toNat, s := [b.toNat] } →
    let w := g.getS b.toNat
    let id := (w.extractLsb' 20 12).toNat
    let ver := (w.extractLsb' 8 12).toNat
    let eas := activeEas p fun l => (g.getV (2 * a.toNat + 1) l ++ g.getV (2 * a.toNat) l).toNat
    ((id, ver) ∉ g.opens → exec (.shst sz d a b) s = .next (s.trap g p (.shst sz d a b) cPROT))
    ∧ (∀ s1 l e va (k : LineKey), (id, ver) ∈ g.opens →
      s.checkLanes g .openWrite (sizeBytes sz) (fun k => k.pod || k.sh != 0) eas = (s1, l, e) → e.cause = 0 → e.waits = false →
      l = [{ lane := 0, va := va, key := k }] → (s1.core g.ref.core).pq.length < Config.pqCap →
      ∃ t e, exec (.shst sz d a b) s = .next t ∧ GoesOn s t g p (.shst sz d a b) (fun _ => none) ∧ SameMem s1 t
        ∧ (t.core g.ref.core).l1 = (s1.core g.ref.core).l1 ∧ e ∈ (t.core g.ref.core).pq ∧ e.key = k
        ∧ e.ow.map (fun o => (o.ver, o.copy)) = some (ver, false)
        ∧ ∀ j, j < sizeBytes sz → e.mask.getLsbD (va % 128 + j) = true
          ∧ lineNat e.data (va % 128 + j) 1 = vNat g d.toNat n 0 / 256 ^ j % 256)
    ∧ ∀ fs f, p.flag? fs = some f →
      ((∀ q ∈ g.pins, (q.1, q.2.1) ≠ (id, ver)) → exec (.shld fs sz d a b) s = .next (s.trap g p (.shld fs sz d a b) cPROT))
      ∧ ∀ s1 l e, (∃ q ∈ g.pins, (q.1, q.2.1) = (id, ver)) → eas ≠ [] → s.flagRoom g f 1 = true →
        s.checkLanes g .read (sizeBytes sz) (fun _ => true) eas = (s1, l, e) → e.cause = 0 → e.waits = false →
        (∀ x ∈ l, s1.inSheaf g.cx id x.va x.key = true) →
        ∃ t o lanes, exec (.shld fs sz d a b) s = .next t ∧ GoesOn s t g p (.shld fs sz d a b) (fun _ => none) ∧ SameMem s1 t
          ∧ o ∈ t.ops ∧ Pends g p f { vw := runRegs (g.wb + d.toNat) n } o
          ∧ o.kind = .shld (g.wb + d.toNat) n id ver lanes ∧ lanes.map (fun x => (x.1.lane, x.1.va)) = eas
          ∧ ∀ x ∈ lanes, x.2 = none)

/-- SEND and RECV (R356 to R358). SEND, a commit: its statuses, and the packet, which leaves or is held behind an earlier one of its label
or by the rate limiter; it waits while a VPOD holds the context's requests or the destination withholds its credits. RECV: the words that
a delivered message writes, the one that the split's re-executed region has reserved before the oldest unreserved one; TOOBIG, EMPTY in
the form that does not wait, and the operation that waits. A delivery is an acquire at pod scope. -/
def Obligations.MessagesAreSentAndReceived : Prop :=
  ∀ (s : State) (g : Group) (p : Split), Issues s g p →
    (∀ (m : BitVec 3) (d a b : BitVec 6), Readable s g { s := d.toNat :: a.toNat :: runRegs b.toNat (2 ^ m.toNat) } →
      let i : Instr := .send m d a b
      let w := g.getS a.toNat
      (s.unchecked g p = true → exec i s = .next (s.stall g p .poll))
      ∧ (s.unchecked g p = false →
      let egress := ((s.ctx? g.cx).map fun c => c.egress (w.extractLsb' 0 12).toNat (w.extractLsb' 12 16).toNat).getD
        (.error statusNovchip)
      (w.extractLsb' 28 4 ≠ 0 → WordResult s g p i (oneS d.toNat (BitVec.ofNat 32 statusBadarg)) fun t =>
        t.sent = s.sent ∧ Committed t g p)
      ∧ (w.extractLsb' 28 4 = 0 → s.vpodHolds g.cx = false → ∀ st, egress = .error st →
        WordResult s g p i (oneS d.toNat (BitVec.ofNat 32 st)) fun t => t.sent = s.sent ∧ Committed t g p)
      ∧ (w.extractLsb' 28 4 = 0 → s.vpodHolds g.cx = true → exec i s = .next (s.stall g p .poll))
      ∧ (w.extractLsb' 28 4 = 0 → s.vpodHolds g.cx = false → ∀ label port pkg cxid vlink, egress = .ok (label, port, pkg, cxid, vlink) →
        let body : PktBody := .send ((runRegs b.toNat (2 ^ m.toNat)).map g.getS) (siteOf g p)
        let held := s.destHolds { pkg := pkg, cxid := cxid, vlink := vlink, loopback := pkg == s.bar.link.pkgid, body := body }
        (held = true → exec i s = .next (s.stall g p .poll))
        ∧ (held = false → WordResult s g p i (oneS d.toNat (BitVec.ofNat 32 statusOk)) fun t => Committed t g p
          ∧ ∃ k ∈ t.sent, k.id = s.nextId ∧ k.cx = g.cx ∧ k.label = label ∧ k.port = port ∧ k.pkt.pkg = pkg ∧ k.pkt.cxid = cxid
            ∧ k.pkt.vlink = vlink ∧ k.pkt.body = body
            ∧ (k.held = true ∨ k.pkt ∈ (if k.pkt.loopback = true then t.net else t.wire))))))
    ∧ ∀ (fs : Bool) (cap : BitVec 2) (d a : BitVec 6) (nw : Bool) (f : Nat), p.flag? fs = some f →
      let n := 4 * 2 ^ cap.toNat
      let i : Instr := .recv fs cap d a nw
      Readable s g { s := a.toNat :: runRegs d.toNat n } → s.flagRoom g f 1 = true →
      let k := (p.region.map (·.recvCount)).getD 0
      let s0 := s.updSplit g.ref p.id fun q => { q with region := q.region.map fun rc => { rc with recvCount := k + 1 } }
      let delivers := fun (src : Nat) (payload : List Word) =>
        WordResult s g p i (fun x => if x = a.toNat then some (recvWord 0 payload.length src)
          else if d.toNat ≤ x ∧ x < d.toNat + n then some (payload.getD (x - d.toNat) 0) else none) fun t =>
            t.core g.ref.core = (s.core g.ref.core).acquire
      ∀ c, s.ctx? g.cx = some c →
      let known := (p.region.bind fun rc => (rc.recvs[k]?).bind id).bind fun m => c.gran.recs.find? fun e => e.1 == m
      (∀ x y src payload, known = some (x, y, .msg src payload) → delivers src payload)
      ∧ ((∀ x y src payload, known ≠ some (x, y, .msg src payload)) → ∀ s1 r, s0.nextMsg g.cx (c.gran.recs.length + 1) = (s1, r) →
      (∀ m src payload, r = some (m, src, payload) → payload.length ≤ n → delivers src payload)
      ∧ (∀ m src payload, r = some (m, src, payload) → n < payload.length →
        WordResult s g p i (oneS a.toNat (recvWord 2 payload.length src)) fun _ => True)
      ∧ (r = none → nw = true → WordResult s g p i (oneS a.toNat 0x10000000) fun _ => True)
      ∧ (r = none → nw = false → AttachResult s g p i f { sw := a.toNat :: runRegs d.toNat n }
          (fun o => o = .recv d.toNat a.toNat n k) fun _ => True))

/-- COPYL, COPYT, COPYG, COPYS and COPYX (R257 to R270): the checks in the order of R259, then one copy for each active lane with the
addresses and counts that the S registers give, on the tag or barrier of the instruction and on flag f. COPYX is a commit. TWANY, TWALL,
TCLR and TFFR (R256, R273): what each does with the tags of its mask that are idle, outstanding and READY. A tag that is done in the cycle
of a TCLR stays READY. -/
def Obligations.CopiesAndTags : Prop :=
  (∀ (s : State) (g : Group) (p : Split) (c : CopyArgs) (f : Nat), Issues s g p → p.flag? c.fs = some f → p.exec ≠ 0 → p.toMatch = [] →
    let n := (lanesOf p.exec).length
    s.flagRoom g f n = true →
    let copies := fun (kind : CopyKind) (i : Instr) => Readable s g (copyUses kind c) → (kind = .x → s.unchecked g p = false) →
      let c0 := (copyOf s g p kind c).1
      let idx := (g.getS c.b.toNat).toNat
      let rows := (g.getS (c.b.toNat + 1)).toNat
      let tagOk := c.cb = true ∨ n = 1 ∧ s.tagOut g c.ctn.toNat = false
      let maskOk := c.mc = true → c.dir = .g2s ∧ g.getS c.ms.toNat ≠ 0
        ∧ (g.getS c.ms.toNat).toNat < 2 ^ ((s.wgOf g).map (·.launchSize)).getD 1
      let fits := (copyOf s g p kind c).2 = true ∧ c0.inBounds (((s.wgOf g).map (·.scratchBytes)).getD 0) idx rows = true
        ∧ (kind ≠ .x → c.shm = .write → (c0.shId, c0.shVer) ∈ g.opens)
        ∧ (c.shm = .pin → ∃ q ∈ g.pins, (q.1, q.2.1) = (c0.shId, c0.shVer))
      (¬ tagOk → exec i s = .next (s.trap g p i cTAGBUSY))
      ∧ (tagOk → ¬ maskOk → exec i s = .next (s.trap g p i cCOPYMASK))
      ∧ (tagOk → maskOk → c0.aligned idx = false → exec i s = .next (s.trap g p i cALIGN))
      ∧ (tagOk → maskOk → c0.aligned idx = true → ¬ fits → exec i s = .next (s.trap g p i cPROT))
      ∧ (tagOk → maskOk → c0.aligned idx = true → fits → 128 < p.copyCount + n → exec i s = .next (s.trap g p i cQUOTA 2))
      ∧ (tagOk → maskOk → c0.aligned idx = true → fits → p.copyCount + n ≤ 128 → n ≤ s.frontFree g.ref → c0.bytes ≠ 0 →
        AttachResult s g p i f {} (fun k => ∃ id, k = .copy id) fun t => (kind = .x → Committed t g p)
          ∧ t.copies.length = s.copies.length + n ∧ ∃ x ∈ t.copies,
          x.kind = kind ∧ x.dir = c.dir ∧ x.cb = c.cb ∧ x.ctn = c.ctn.toNat ∧ x.bytes = c0.bytes ∧ x.done = 0
          ∧ x.dst = (if c.dir = .g2s then (g.getS c.d.toNat).toNat else (g.getSPair (c.d.toNat / 2)).toNat)
          ∧ x.src = (if c.dir = .s2g then (g.getS c.a.toNat).toNat else (g.getSPair (c.a.toNat / 2)).toNat)
          ∧ (kind = .l ∨ kind = .x → x.bytes = idx)
          ∧ (kind = .g ∨ kind = .s → x.bytes = rows * (g.getS (c.b.toNat + 2)).toNat ∧ x.rowBytes = (g.getS (c.b.toNat + 2)).toNat
            ∧ x.stride = (g.getS (c.b.toNat + 3)).toNat))
    copies .l (.copyl c) ∧ copies .t (.copyt c) ∧ copies .g (.copyg c) ∧ copies .s (.copys c) ∧ copies .x (.copyx c))
  ∧ (∀ (s : State) (g : Group) (p : Split) (a : BitVec 5), Issues s g p →
    let m := g.getSPair a.toNat
    let named := fun t => t < 64 ∧ m.getLsbD t = true
    let out := fun t => ((s.wgOf g).bind fun w => w.tag? t).isSome = true
    let ready := fun t => ((s.wgOf g).bind fun w => w.tag? t).map (·.st) = some .ready
    let acquired := fun (t : State) => t.core g.ref.core = (s.core g.ref.core).acquire
    (Readable s g { s := pairRegs a.toNat } →
      (∀ i : Instr, i = .twany a ∨ i = .twall a →
        ((∀ t, ¬ named t) → MoveResult s g p i (p.past 1) (fun _ => none))
        ∧ (p.wait = .none → (∃ t, named t) → (∀ t, named t → ¬ out t) → exec i s = .next (s.trap g p i cBARMISUSE)))
      ∧ ((∃ t, named t ∧ ready t) → WordResult s g p (.twany a) (fun _ => none) acquired)
      ∧ ((∃ t, named t ∧ out t) → (∀ t, named t → ¬ ready t) →
        MoveResult s g p (.twany a) { p with wait := .poll } (fun _ => none))
      ∧ ((∃ t, named t) → (∀ t, named t → ready t) → WordResult s g p (.twall a) (fun _ => none) acquired)
      ∧ ((∀ t, named t → out t) → (∃ t, named t ∧ ¬ ready t) →
        MoveResult s g p (.twall a) { p with wait := .poll } (fun _ => none))
      ∧ ((∃ t, named t ∧ out t) → p.wait = .none → (∃ t, named t ∧ ¬ out t) →
        exec (.twall a) s = .next (s.trap g p (.twall a) cBARMISUSE))
      ∧ ∀ w, s.wgOf g = some w → WordResult s g p (.tclr a) (fun _ => none) fun u => ∃ w', u.wgOf g = some w'
          ∧ w' = { w with tags := w'.tags } ∧ ∀ e, e ∈ w'.tags ↔ e ∈ w.tags
            ∧ ¬ (m.getLsbD e.1 = true ∧ e.2.st = .ready ∧ ∀ x ∈ s.taken, x.1 ≠ .tag g.cx g.kernel g.wg e.1))
    ∧ ∀ (fs : Bool) (d : BitVec 5) (f : Nat), p.flag? fs = some f → Readable s g { s := pairRegs d.toNat ++ pairRegs a.toNat } →
      let i : Instr := .tffr fs d a
      let put := fun (x y : Word) r => if r = 2 * d.toNat then some x else if r = 2 * d.toNat + 1 then some y else none
      ((∀ t, named t → ¬ out t) → WordResult s g p i (put 0xFFFFFFFF 0) fun _ => True)
      ∧ (∀ t w e, s.wgOf g = some w → w.tag? t = some e → e.st = .ready → named t → (∀ k, k < t → ¬ (named k ∧ ready k)) →
        WordResult s g p i (put (BitVec.ofNat 32 t) e.status) acquired)
      ∧ ((∃ t, named t ∧ out t) → (∀ t, named t → ¬ ready t) → s.flagRoom g f 1 = true →
        AttachResult s g p i f { sw := [2 * d.toNat, 2 * d.toNat + 1] } (fun k => k = .tffr (2 * d.toNat) m) fun _ => True))

/-- BINIT, BINV, BEXP, BARR, BWAIT, BWAIT.bytes and BARRW (R253 to R255, R272) of a group whose workgroup w holds the barrier b. -/
def Obligations.BarrierInstructionResults : Prop :=
  ∀ (s : State) (g : Group) (p : Split) (n : BitVec 4) (w : Workgroup), Issues s g p → s.wgOf g = some w → p.wait = .none →
    let b := w.bar n.toNat
    let leaves := fun (i : Instr) (b' : Barrier) => WordResult s g p i (fun _ => none) fun t =>
      ∃ w', t.wgOf g = some w' ∧ w'.bar n.toNat = b' ∧ ∀ m, m ≠ n.toNat → w'.bar m = w.bar m
    let idle := b.arra = 0 ∧ b.arrb = 0 ∧ b.out = 0 ∧ b.held = [] ∧ s.barWaited g n.toNat = false
    let misuse := fun (i : Instr) => exec i s = .next (s.trap g p i cBARMISUSE)
    (∀ x y : BitVec 6, Readable s g { s := [x.toNat, y.toNat] } →
      let arr := (g.getS x.toNat).toNat
      let byt := (g.getS y.toNat).toNat
      (1 ≤ arr → arr ≤ 64 → byt ≤ 2 ^ 24 → b.isOpen = false ∨ idle →
        leaves (.binit n x y) { isOpen := true, expa := arr, expb0 := byt, expb := byt, out := b.out })
      ∧ (arr = 0 ∨ 64 < arr ∨ 2 ^ 24 < byt ∨ b.isOpen = true ∧ ¬ idle → misuse (.binit n x y)))
    ∧ (b.isOpen = false → MoveResult s g p (.binv n) (p.past 1) (fun _ => none))
    ∧ (b.isOpen = true → b.out = 0 → s.barWaited g n.toNat = false → leaves (.binv n) {})
    ∧ (b.isOpen = true → b.out ≠ 0 ∨ s.barWaited g n.toNat = true → misuse (.binv n))
    ∧ (∀ x : BitVec 6, Readable s g { s := [x.toNat] } →
      let e := b.expb + (g.getS x.toNat).toNat
      (b.isOpen = true → e ≤ 2 ^ 24 → b.arra ≠ b.expa ∨ b.arrb < e → leaves (.bexp n x) { b with expb := e })
      ∧ (b.isOpen = false ∨ 2 ^ 24 < e → misuse (.bexp n x)))
    ∧ (s.unchecked g p = false → s.scratchRead g p = true →
      (b.isOpen = true → b.arra < b.expa → b.arra + 1 ≠ b.expa ∨ b.arrb < b.expb → leaves (.barr n) { b with arra := b.arra + 1 })
      ∧ (b.isOpen = true → b.arra + 1 = b.expa → b.expb ≤ b.arrb →
        leaves (.barr n) { b with arra := 0, arrb := 0, par := !b.par, pstat := 0, lstat := b.pstat, expb := b.expb0,
                                  lastExpb := b.expb, lastCpy := b.cpy, cpy := false })
      ∧ (b.isOpen = false ∨ b.expa ≤ b.arra → misuse (.barr n)))
    ∧ ∀ d q : BitVec 6, Readable s g { s := [d.toNat, q.toNat] } →
      let par := (g.getS q.toNat).getLsbD 0
      let need := (g.getS q.toNat).toNat
      (b.isOpen = false → misuse (.bwait d n q) ∧ misuse (.bwaitBytes d n q))
      ∧ (b.isOpen = true → b.par ≠ par →
        WordResult s g p (.bwait d n q) (oneS d.toNat (b.lstat.zeroExtend 32)) fun t =>
          b.lastCpy = true → t.core g.ref.core = (s.core g.ref.core).acquire)
      ∧ (b.isOpen = true → b.par = par →
        MoveResult s g p (.bwait d n q) { p with wait := .barWait n.toNat par none } (fun _ => none))
      ∧ (b.isOpen = true → need ≤ b.arrb → b.arrb < 2 ^ 32 →
        WordResult s g p (.bwaitBytes d n q) (oneS d.toNat (BitVec.ofNat 32 b.arrb)) fun t =>
          b.cpy = true → t.core g.ref.core = (s.core g.ref.core).acquire)
      ∧ (b.isOpen = true → b.arrb < need →
        MoveResult s g p (.bwaitBytes d n q) { p with wait := .barWait n.toNat b.par (some need) } (fun _ => none))
      ∧ (s.unchecked g p = false → s.scratchRead g p = true → p.arrived = [] → b.isOpen = true → b.arra + 1 = b.expa →
        b.expb ≤ b.arrb → WordResult s g p (.barrw d n) (oneS d.toNat (b.pstat.zeroExtend 32)) fun t => Committed t g p)
      ∧ (s.unchecked g p = false → s.scratchRead g p = true → p.arrived = [] → b.isOpen = true → b.arra + 1 < b.expa →
        ∃ t g' p', exec (.barrw d n) s = .next t ∧ t.group? g.ref = some g' ∧ g'.s = g.s ∧ g'.split? p.id = some p' ∧ p'.pc = p.pc
          ∧ p'.wait = .barWait n.toNat b.par none ∧ p'.arrived = [(n.toNat, b.par)] ∧ (t.barOf g n.toNat).arra = b.arra + 1)

/-- MRES, MREL, WLOAD, WFREE and MSTAT (R303, R304, R308 to R310). MMA and MMAG (R305 to R307): the first check that fails traps WSLOT or
BALE; else one job for each active lane joins the sequencer, with the C slots pending and the record in use. The checks come behind the
wait for fills, for the queue and for the flag (R296, R300, R302). -/
def Obligations.TileInstructions : Prop :=
  (∀ (s : State) (g : Group) (p : Split), Issues s g p →
    let n := g.ref.core
    let c := s.core n
    let quiet := fun (i : Instr) => MoveResult s g p i (p.past 1) (fun _ => none)
    (∀ (d a : BitVec 6) (q : BitVec 3) (base rowsm1 : BitVec 8) (soff : BitVec 11) (sc : Bool) (fm : Fmt),
      Readable s g { s := [d.toNat, a.toNat] } → c.recFills q.toNat = false →
      let i : Instr := .mres d a q base rowsm1 soff sc fm
      let off := (g.getS a.toNat).toNat
      let rows := rowsm1.toNat + 1
      let meets := ∃ e ∈ c.recs, e.1 ≠ q.toNat ∧ e.2.base < base.toNat + rows ∧ base.toNat < e.2.base + e.2.rows
      (off % 128 ≠ 0 → exec i s = .next (s.trapAt g p i cALIGN p.exec off 0))
      ∧ (off % 128 = 0 → s.scratchSize g < off + 256 * rows → exec i s = .next (s.trapAt g p i cPROT p.exec off 0))
      ∧ (off % 128 = 0 → off + 256 * rows ≤ s.scratchSize g →
        (∀ r, c.rec? q.toNat = some r → r.owner = g.ref → c.inUse q.toNat = true → exec i s = .next (s.trap g p i cWSLOT 8))
        ∧ (∀ r, c.rec? q.toNat = some r → r.owner ≠ g.ref → WordResult s g p i (oneS d.toNat 1) fun t => t.cores = s.cores)
        ∧ ((∀ r, c.rec? q.toNat = some r → r.owner = g.ref ∧ c.inUse q.toNat = false) → meets →
          WordResult s g p i (oneS d.toNat 2) fun t => t.cores = s.cores)
        ∧ ((∀ r, c.rec? q.toNat = some r → r.owner = g.ref ∧ c.inUse q.toNat = false) → ¬ meets →
          WordResult s g p i (oneS d.toNat 0) fun t => (t.core n).rec? q.toNat = some
            { owner := g.ref, base := base.toNat, rows := rows, fmt := fm, sc := sc, soff := 32 * soff.toNat,
              filling := some (off, s.cycle) })))
    ∧ (∀ q : BitVec 3, c.recFills q.toNat = false →
      ((∀ r, c.rec? q.toNat = some r → r.owner ≠ g.ref) → quiet (.mrel q))
      ∧ ∀ r, c.rec? q.toNat = some r → r.owner = g.ref →
        (c.inUse q.toNat = true → exec (.mrel q) s = .next (s.trap g p (.mrel q) cWSLOT 8))
        ∧ (c.inUse q.toNat = false → WordResult s g p (.mrel q) (fun _ => none) fun t =>
          ∀ k, (t.core n).rec? k = if k = q.toNat then none else c.rec? k))
    ∧ (∀ (k : BitVec 3) (a b : BitVec 6) (fm : Fmt), Readable s g { s := [a.toNat, b.toNat] } → c.slotFills k.toNat = false →
      let i : Instr := .wload k a b
      let off := (g.getS a.toNat).toNat
      let w := g.getS b.toNat
      let sc := w.getLsbD 4
      let soff := 32 * (w.extractLsb' 16 13).toNat
      let sl := c.slot k.toNat
      decFmt (w.extractLsb' 0 4) = .ok fm → w.extractLsb' 29 3 = 0 → w.extractLsb' 5 11 = 0 → Fmt.matrix fm = true →
      (sc = true → Fmt.wide fm = false) → (sc = false → soff = 0) →
      (off % 128 ≠ 0 → exec i s = .next (s.trapAt g p i cALIGN p.exec off 0))
      ∧ (off % 128 = 0 → off + 16384 ≤ s.scratchSize g → (sc = true → soff + 64 * blocksOf fm ≤ s.scratchSize g) →
        (sl.owner ≠ none → sl.owner ≠ some g.ref → exec i s = .next (s.trap g p i cWSLOT 2))
        ∧ (sl.owner = none ∨ sl.owner = some g.ref → sl.board ≠ none → exec i s = .next (s.trap g p i cWSLOT 3))
        ∧ (sl.owner = none ∨ sl.owner = some g.ref → sl.board = none → c.mmaBusy k.toNat s.cycle = true →
          exec i s = .next (s.trap g p i cWSLOT 5))
        ∧ (sl.owner = none ∨ sl.owner = some g.ref → sl.board = none → c.mmaBusy k.toNat s.cycle = false →
          WordResult s g p i (fun _ => none) fun t => (t.core n).slot k.toNat =
            { owner := some g.ref, st := .full, fmt := fm, scaled := sc, filling := some (off, soff, s.cycle) })))
    ∧ (∀ k : BitVec 3, c.slotFills k.toNat = false →
      let sl := c.slot k.toNat
      (sl.owner ≠ some g.ref → quiet (.wfree k))
      ∧ (sl.owner = some g.ref → c.mmaBusy k.toNat s.cycle = true → exec (.wfree k) s = .next (s.trap g p (.wfree k) cWSLOT 5))
      ∧ (sl.owner = some g.ref → c.mmaBusy k.toNat s.cycle = false → sl.board = none →
        WordResult s g p (.wfree k) (fun _ => none) fun t => ∀ j, (t.core n).slot j = if j = k.toNat then {} else c.slot j))
    ∧ ∀ (d : BitVec 6) (x : BitVec 7), Readable s g { s := [d.toNat] } →
      let ans := fun (v : Word) => WordResult s g p (.mstat d x) (oneS d.toNat v)
      (x = 0 → ans (BitVec.ofNat 32 (c.slotWord g.ref)) fun _ => True)
      ∧ (x = 1 → ans (BitVec.ofNat 32 (c.recWord g.ref)) fun _ => True)
      ∧ (x = 2 → ans (BitVec.ofNat 32 (c.jobs.length + 65536 * (c.jobs.filter fun j => j.grp == g.ref).length)) fun _ => True)
      ∧ (x = 3 → ans g.mconf fun _ => True)
      ∧ (x = 4 → ans g.mconf fun t => (t.group? g.ref).map (·.mconf) = some 0)
      ∧ (4 < x.toNat → exec (.mstat d x) s = .next (s.trap g p (.mstat d x) cILL)))
  ∧ (∀ (s : State) (g : Group) (p : Split) (fs : Bool) (f : Nat) (q w : BitVec 3) (steps : BitVec 8), Issues s g p →
    p.flag? fs = some f → p.exec ≠ 0 →
    let c := s.core g.ref.core
    let lanes := (lanesOf p.exec).length
    let queues := fun (i : Instr) (us : Uses) (u : PendSet) (j : Job) =>
      let free := c.recFills j.q = false ∧ (∀ st, st < min 8 j.steps → c.slotFills (j.slotOf st) = false)
        ∧ c.jobs.length + lanes ≤ Config.jobCap ∧ s.flagRoom g f lanes = true
      (¬ free → exec i s = .next (s.stall g p .poll))
      ∧ (free → Readable s g us → (∀ cause detail, c.jobCheck g j = some (cause, detail) → exec i s = .next (s.trap g p i cause detail))
      ∧ (c.jobCheck g j = none →
        (∀ m ∈ j.rows, ∀ gs xs, j.gather = some (gs, xs) → xs.getD m 0 % 4 = 0 ∧ xs.getD m 0 + 256 ≤ s.scratchSize g) →
        AttachResult s g p i f u (fun k => k = .mma lanes) fun t => (t.core g.ref.core).inUse j.q = true ∧ ∃ op,
          (t.core g.ref.core).jobs = c.jobs ++ List.replicate lanes { j with op := op }))
    (∀ (acc : Bool) (d : BitVec 7),
      let us : Uses := { v := runRegs d.toNat 64 }
      let job : Job := { op := 0, grp := g.ref, issued := s.cycle, acc := acc, c := g.wb + d.toNat, q := q.toNat, w := w.toNat,
                         steps := steps.toNat + 1, wadv := true, ainc := 32 }
      queues (.mma fs acc d q w steps) us { vw := runRegs (g.wb + d.toNat) 64 } job
      ∧ ∀ (wadv : Bool) (ainc : BitVec 8), queues (.mmaLit fs acc d q w steps wadv ainc) us { vw := runRegs (g.wb + d.toNat) 64 }
          { job with wadv := wadv, ainc := ainc.toNat })
    ∧ ∀ (st wadv : Bool) (r xs : BitVec 7) (ainc : BitVec 8),
      queues (.mmag fs st r q w steps xs wadv ainc) { v := [r.toNat, xs.toNat] } {}
        { op := 0, grp := g.ref, issued := s.cycle, acc := false, c := 0, q := q.toNat, w := w.toNat, steps := steps.toNat + 1,
          wadv := wadv, ainc := ainc.toNat, st := st,
          gather := some ((List.range 32).map fun m => (g.getV r.toNat m).toNat, (List.range 32).map fun m => (g.getV xs.toNat m).toNat) })

/-- BOARD, UNBOARD, LAPQ, LAPQ.st and LAPWAIT (R288 to R291). A BOARD sends one board for each active lane to its tap; an UNBOARD sends its
message and stalls, the tap answers it 8 cycles after its issue (1: no board of the group; 2: the board is capturing; 0: the board is
cancelled), and the answer is in S[d] 16 cycles after its issue. Bit 4 of LAPQ.st is read of the lap of the tap position (DEDUCED by the
model, log 32). -/
def Obligations.WindrowWordsResults : Prop :=
  (∀ (s : State) (g : Group) (p : Split), Issues s g p →
    let cl := g.ref.core / 32
    (∀ (fs : Bool) (f : Nat) (d a : BitVec 6) (nw : Bool) (w : BitVec 3) (c : BitVec 4), p.flag? fs = some f →
      Readable s g { s := [d.toNat, a.toNat] } → p.exec ≠ 0 → (s.core g.ref.core).slotFills w.toNat = false →
      s.flagRoom g f 1 = true →
      AttachResult s g p (.board fs d a nw w c) f { sw := [d.toNat] } (fun k => k = .board d.toNat (lanesOf p.exec).length 0) fun t =>
        ∃ l, t.arms = s.arms ++ l ∧ l.length = (lanesOf p.exec).length ∧ ∀ m ∈ l, m.grp = g.ref ∧ m.un = none ∧ m.slot = w.toNat ∧ m.circ = c.toNat ∧ m.issued = s.cycle
          ∧ m.layer = ((g.getS a.toNat).extractLsb' 16 16).toNat ∧ m.bale = ((g.getS a.toNat).extractLsb' 0 16).toNat ∧ m.nw = nw)
    ∧ (∀ (d : BitVec 6) (k : BitVec 3), Readable s g { s := [d.toNat] } →
      (s.core g.ref.core).slotFills k.toNat = false →
      (∀ n, p.wait = .reply n → exec (.unboard d k) s = .next s)
      ∧ ((∀ n, p.wait ≠ .reply n) → ∃ t g' a, exec (.unboard d k) s = .next t
        ∧ t = { s with groups := t.groups, arms := s.arms ++ [a], nextId := s.nextId + 1 } ∧ t.group? g.ref = some g'
        ∧ OnlySplit g g' p { p with wait := .reply s.nextId } ∧ (∀ r, r ≠ g.ref → t.group? r = s.group? r)
        ∧ a.grp = g.ref ∧ a.slot = k.toNat ∧ a.op = d.toNat ∧ a.issued = s.cycle ∧ a.un = some (p.id, none)))
    ∧ (∀ (d : BitVec 5) (c : BitVec 4), Readable s g { s := pairRegs d.toNat } →
      (s.circ? g.cx c.toNat = none → WordResult s g p (.lapq d c) (pairIs d.toNat (BitVec.allOnes 64)) fun _ => True)
      ∧ ∀ x, s.circ? g.cx c.toNat = some x →
        let pos := x.tapPos cl
        let lb := x.posOf pos.1 pos.2
        WordResult s g p (.lapq d c) (pairIs d.toNat (BitVec.ofNat 64 (pos.1 + 2 ^ 32 * (65536 * lb.1 + lb.2)))) fun _ => True)
    ∧ (∀ (d : BitVec 6) (c : BitVec 4), Readable s g { s := [d.toNat] } →
      (s.circ? g.cx c.toNat = none → WordResult s g p (.lapqSt d c) (oneS d.toNat 0) fun _ => True)
      ∧ ∀ x, s.circ? g.cx c.toNat = some x →
        WordResult s g p (.lapqSt d c) (oneS d.toNat (BitVec.ofNat 32 (256 * x.lanes.toNat + 32 * x.mode
          + (if x.reverse (x.tapPos cl).1 then 16 else 0) + circCode x.st))) fun _ => True)
    ∧ ∀ (fs : Bool) (f : Nat) (d : BitVec 6) (a : BitVec 5) (c : BitVec 4), p.flag? fs = some f →
      Readable s g { s := d.toNat :: pairRegs a.toNat } →
      let i : Instr := .lapwait fs d a c
      let v := g.getSPair a.toNat
      let lap := (v.extractLsb' 0 32).toNat
      let layer := (v.extractLsb' 48 16).toNat
      let bale := (v.extractLsb' 32 16).toNat
      (s.circ? g.cx c.toNat = none → WordResult s g p i (oneS d.toNat 3) fun _ => True)
      ∧ ∀ x, s.circ? g.cx c.toNat = some x →
        ((∀ e, x.layers[layer]? = some e → e.2 ≤ bale) → WordResult s g p i (oneS d.toNat 2) fun _ => True)
        ∧ ∀ e, x.layers[layer]? = some e → bale < e.2 →
          (x.reached cl lap layer bale = true → WordResult s g p i (oneS d.toNat 0) fun _ => True)
          ∧ (x.reached cl lap layer bale = false → x.over = true → WordResult s g p i (oneS d.toNat 1) fun _ => True)
          ∧ (x.reached cl lap layer bale = false → x.over = false → s.flagRoom g f 1 = true →
            AttachResult s g p i f { sw := [d.toNat] } (fun k => k = .lapwait d.toNat c.toNat lap layer bale) fun _ => True))
  ∧ ∀ (s : State) (g : Group) (p : Split) (a : ArmMsg) (late : Nat), s.arms = [a] → a.grp = g.ref → s.group? g.ref = some g →
    g.split? p.id = some p → g.status = .live →
    let sl := (s.core g.ref.core).slot a.slot
    let gets := fun (code : Nat) (x : State → Prop) => a.issued + 8 ≤ s.cycle → ∃ t, exec (.arm 0 late) s = .next t
      ∧ t.arms = [{ a with un := some (p.id, some code) }] ∧ SameMem s t ∧ x t
    (a.un = some (p.id, none) → (s.cycle < a.issued + 8 → exec (.arm 0 late) s = .next s)
      ∧ (sl.board = none ∨ sl.owner ≠ some g.ref → gets 1 fun t => t.cores = s.cores)
      ∧ ∀ b, sl.board = some b → sl.owner = some g.ref →
        (b.st = .capturing → s.cycle < b.at_ + 18 → gets 2 fun t => t.cores = s.cores)
        ∧ (b.st ≠ .capturing → gets 0 fun t => ((t.core g.ref.core).slot a.slot).board = none))
    ∧ ∀ code, a.un = some (p.id, some code) → (s.cycle < a.issued + 16 → exec (.arm 0 late) s = .next s)
      ∧ (a.issued + 16 ≤ s.cycle → ∃ t g' q, exec (.arm 0 late) s = .next t ∧ t.arms = [] ∧ t.group? g.ref = some g'
        ∧ (∀ x, g'.getS x = if x = a.op then BitVec.ofNat 32 code else g.getS x) ∧ g'.v = g.v ∧ g'.m = g.m
        ∧ g'.split? p.id = some q ∧ q.pc = p.pc + 4 ∧ q.wait = .none ∧ q.yieldTo = s.cycle + 1 ∧ SameMem s t)

/-- XCHG, XCHG_PAIR and XCHG_TIMEOUT (R186 to R188): an offer carries V[A] of every lane under the issue-time $EXEC; two offers that name
each other give each side the partner's data in the lanes of its own mask; an offer unpaired for 2^22 cycles pairs no more and holds XCHGTO. -/
def Obligations.ExchangesPairOrTimeOut : Prop :=
  (∀ (s : State) (g : Group) (p : Split) (fs : Bool) (f : Nat) (d a : BitVec 7) (b : BitVec 6) (pgrp : BitVec 5) (tag : BitVec 16),
    Issues s g p → p.flag? fs = some f → Readable s g { v := [d.toNat, a.toNat], s := [b.toNat] } → s.unchecked g p = false →
    s.flagRoom g f 1 = true →
    AttachResult s g p (.xchg fs d a b pgrp tag) f { vw := [g.wb + d.toNat] } (fun k => ∃ r, k = .xchg (g.wb + d.toNat) p.exec r) fun t =>
      Committed t g p ∧ ∃ o, t.offers = s.offers ++ [o] ∧ o.op = s.nextId ∧ o.grp = g.ref ∧ o.partnerWg = (g.getS b.toNat).toNat
        ∧ o.partnerGrp = pgrp.toNat ∧ o.tag = tag.toNat ∧ o.mask = p.exec ∧ o.data = (List.range 32).map (g.getV a.toNat))
  ∧ (∀ (s : State) (a b : Offer) (p q : PendOp) (g h : Group) (d e : Nat) (m k : LaneMask) (r u : Option Clause), s.offers = [a, b] →
    a.meets b = true → a.alike b = false → ¬ (a.partnerWg = a.wg ∧ a.partnerGrp = a.gidx) → s.ops = [p, q] → p.id = a.op → q.id = b.op →
    p.id ≠ q.id → p.grp = g.ref → q.grp = h.ref → g.ref ≠ h.ref → s.group? g.ref = some g → s.group? h.ref = some h →
    g.status = .live → h.status = .live → p.kind = .xchg d m r → q.kind = .xchg e k u →
    (a.posted + 2 ^ 22 ≤ s.cycle ∨ b.posted + 2 ^ 22 ≤ s.cycle → exec (.xchgPair 0 1) s = .next s)
    ∧ (s.cycle < a.posted + 2 ^ 22 → s.cycle < b.posted + 2 ^ 22 → ∃ t g' h', exec (.xchgPair 0 1) s = .next t ∧ t.offers = [] ∧ t.ops = [] ∧ t.group? g.ref = some g' ∧ t.group? h.ref = some h'
      ∧ (∀ x l, l < 32 → g'.getP x l = if x = d ∧ m.getLsbD l = true then b.data.getD l 0 else g.getP x l)
      ∧ (∀ x l, l < 32 → h'.getP x l = if x = e ∧ k.getLsbD l = true then a.data.getD l 0 else h.getP x l) ∧ SameMem s t))
  ∧ ∀ (s : State) (a : Offer) (p : PendOp) (g : Group) (d : Nat) (m : LaneMask) (r : Option Clause), s.offers = [a] → s.ops = [p] →
    p.id = a.op → p.grp = g.ref → s.group? g.ref = some g → g.status = .live → p.kind = .xchg d m r →
    (s.cycle < a.posted + 2 ^ 22 → exec (.xchgTimeout 0) s = .next s)
    ∧ (a.posted + 2 ^ 22 ≤ s.cycle → ∃ t g' c, exec (.xchgTimeout 0) s = .next t ∧ t.offers = [] ∧ t.ops = []
      ∧ t.group? g.ref = some g' ∧ g' = { g with held := g.held ++ [c] } ∧ c.split = p.split ∧ c.cause = cXCHGTO ∧ c.pc = p.pc)

/-- REGION (R140): with legal live ranges and no recipe running it opens a record whose entry is the header of its clause, $REGCNT counts
one more and the region has not ended; the first range beyond slot 127 traps ILL, the first beyond the allotment REGRANGE, and a REGION
in a recipe ILL whatever its ranges (R43, R147). SPAWN (R117, R118, R133): a free group context of the core, a free index and enough registers give a reserved group,
with eight slots of arguments, S0 to S18 and its index in S17; else S[D] takes 0xFFFFFFFF. A commit of the spawner makes its reserved
groups LIVE, and no others: that a commit of another split of the spawning group does not is DEDUCED by the model (log 26). ROLE (R139): privileged; a bad role word traps ILL; it waits for the group's flags to clear; with other
splits live or too few registers it only reports, at the next clause; else the allotment, class and level change, V0 up to the smaller
allotment is kept, S[D] takes the old ones, and control passes to the pair as it then stands. -/
def Obligations.RegionSpawnAndRole : Prop :=
  (∀ (s : State) (g : Group) (p : Split) (a1 n1 a2 n2 : BitVec 7) (sm : BitVec 4) (rcp : BitVec 21), Issues s g p →
    let i : Instr := .region a1 n1 a2 n2 sm rcp
    let ranges := [(a1.toNat, n1.toNat), (a2.toNat, n2.toNat)].filter fun r => r.2 != 0
    let legal := ∀ r ∈ ranges, r.1 + r.2 ≤ 128
    let inside := ∀ r ∈ ranges, g.wb + r.1 + r.2 ≤ g.allot
    (legal → inside → p.recipe = false → ∃ t g' q rc, exec i s = .next t ∧ t = { s with groups := t.groups, nextId := s.nextId + 1 }
      ∧ t.group? g.ref = some g' ∧ OnlySplit { g with regcnt := g.regcnt + 1 } g' p q ∧ (∀ r, r ≠ g.ref → t.group? r = s.group? r)
      ∧ q = { p.past (Instr.words i) with region := some rc, ended := false, needRe := false, progress := s.cycle }
      ∧ rc.entry = (p.clause.map (·.hdr)).getD p.pc ∧ rc.live = ranges.map (fun r => (g.wb + r.1, r.2)) ∧ rc.smask = sm
      ∧ rc.recipe = (if rcp = 0 then none else some (wordTarget p.pc rcp.toInt)) ∧ rc.exec = p.exec ∧ rc.depth = p.stack.length
      ∧ rc.elect = g.elected)
    ∧ (p.recipe = true → exec i s = .next (s.trap g p i cILL))
    ∧ ∀ (k : Nat) (r : Nat × Nat), p.recipe = false → ranges[k]? = some r → (128 < r.1 + r.2 ∨ g.allot < g.wb + r.1 + r.2) →
      (∀ (j : Nat) (q : Nat × Nat), j < k → ranges[j]? = some q → q.1 + q.2 ≤ 128 ∧ g.wb + q.1 + q.2 ≤ g.allot) →
      exec i s = .next (s.trap g p i (if 128 < r.1 + r.2 then cILL else cREGRANGE)))
  ∧ (∀ (s : State) (g : Group) (p : Split) (d : BitVec 6) (a : BitVec 7) (off : Word), Issues s g p →
    Readable s g { v := runRegs a.toNat 8, s := [d.toNat] } → s.unchecked g p = false →
    let i : Instr := .spawn d a off
    let mates := s.groupsOf g.cx g.kernel g.wg
    let idx := lowestFree 32 fun n => mates.any fun h => h.gidx == n
    let room := g.allot ≤ s.freeRegs g.ref.core ∧ mates.length < 32
    (∀ ctx n, s.freeGctx g.ref.core = some ctx → idx = some n → room →
      ∃ t g' h, exec i s = .next t ∧ t = { s with groups := t.groups, nextId := s.nextId + 1 } ∧ t.group? g.ref = some g'
        ∧ g' = { g with s := g'.s, splits := g'.splits } ∧ (∀ r, g'.getS r = if r = d.toNat then BitVec.ofNat 32 n else g.getS r)
        ∧ g'.split? p.id = some (p.past (Instr.words i)) ∧ t.group? { core := g.ref.core, gctx := ctx } = some h
        ∧ (∀ r, r ≠ g.ref → r ≠ { core := g.ref.core, gctx := ctx } → t.group? r = s.group? r)
        ∧ h.status = .reserved ∧ h.cx = g.cx ∧ h.kernel = g.kernel ∧ h.wg = g.wg ∧ h.gidx = n ∧ h.allot = g.allot ∧ h.cls = g.cls
        ∧ h.ownCls = g.ownCls ∧ h.priv = g.priv ∧ h.spawner = some (g.ref, p.id)
        ∧ h.splits.map (fun q => (q.id, q.pc, q.exec)) = [(0, wordTarget p.pc off.toInt, BitVec.allOnes 32)]
        ∧ (∀ r, h.getS r = if r = 17 then BitVec.ofNat 32 n else if r < 19 then g.getS r else 0)
        ∧ ∀ k l, l < 32 → h.getP k l = if k < 8 then g.getV (a.toNat + k) l else 0)
    ∧ (s.freeGctx g.ref.core = none ∨ idx = none ∨ ¬ room → WordResult s g p i (oneS d.toNat 0xFFFFFFFF) fun t => t.groups.length = s.groups.length))
  ∧ (∀ (s : State) (g : Group) (p : Split) (d : BitVec 6) (a : BitVec 7) (off : Word), Issues s g p →
    Readable s g { v := runRegs a.toNat 8, s := [d.toNat] } → s.unchecked g p = true →
    exec (.spawn d a off) s = .next (s.stall g p .poll))
  ∧ (∀ (s : State) (g h : Group) (p : Split), s.group? h.ref = some h →
    ∃ h', (s.commit g p).group? h.ref = some h' ∧ (h.status = .reserved → h.spawner = some (g.ref, p.id) → h'.status = .live)
      ∧ (h.status ≠ .reserved ∨ h.spawner ≠ some (g.ref, p.id) → h'.status = h.status))
  ∧ (∀ (s : State) (g : Group) (p : Split) (d : BitVec 6) (a : BitVec 5) (b : BitVec 6), Issues s g p →
    let i : Instr := .role d a b
    (g.priv = false → exec i s = .next (s.trap g p i cPRIV))
    ∧ (g.priv = true → Readable s g { s := [d.toNat, b.toNat] ++ pairRegs a.toNat } → s.unchecked g p = false →
      let r := g.getS b.toNat
      let n := (r.extractLsb' 0 4).toNat
      let bad := r &&& 0xFFFFE8F0 ≠ 0 ∨ n = 0 ∨ 8 < n
      let closed := fun q : Split => { q with ended := true }
      let old : Word := BitVec.ofNat 32 (g.allot / 32 + 256 * g.cls + 4096 * g.priv.toNat)
      let S := fun x => if x = d.toNat then old else g.getS x
      (bad → exec i s = .next (s.trap g p i cILL))
      ∧ (¬ bad → (∃ o ∈ s.ops, o.grp = g.ref ∧ o.flag < 12) → exec i s = .next (s.stall g p .poll))
      ∧ (¬ bad → (∀ o ∈ s.ops, o.grp = g.ref → 12 ≤ o.flag) →
        (1 < g.splits.length → MoveResult s g p i { p.fallen with needRe := true } (oneS d.toNat 2))
        ∧ (g.splits.length ≤ 1 → s.freeRegs g.ref.core + g.allot < 32 * n → MoveResult s g p i { p.fallen with needRe := true } (oneS d.toNat 1))
        ∧ (g.splits.length ≤ 1 → 32 * n ≤ s.freeRegs g.ref.core + g.allot → ∃ t g', exec i s = .next t ∧ OnlyGroup s t g g'
          ∧ g' = { g with v := g'.v, s := g'.s, allot := 32 * n, cls := (r.extractLsb' 8 3).toNat, ownCls := true,
                          priv := r.getLsbD 12, wb := 0, splits := g'.splits }
          ∧ g'.split? p.id = some { closed (p.landed (S (2 * a.toNat + 1) ++ S (2 * a.toNat)).toNat) with progress := s.cycle }
          ∧ (∀ x, g'.getS x = S x)
          ∧ ∀ x l, l < 32 → g'.getP x l = if x < min g.allot (32 * n) then g.getP x l else 0))))

/-- EXIT (R117, R123, R135): a commit after a release at pod scope. The active lanes leave; a split without lanes and stack ends, and the
last split frees the group context once no operation of it is pending. TRIGGER and ENQ (R110, R111): commits after a release at pod
scope. TRIGGER counts its workgroup once; ENQ appends a launch to the device-side queue and reports OK, or QFULL when the queue holds
256. -/
def Obligations.ExitTriggerAndEnqueue : Prop :=
  (∀ (s : State) (g : Group) (p : Split), Issues s g p → s.unchecked g p = false → Released s g p .pod → g.elected = none →
    let rest := p.lset &&& ~~~p.exec
    (rest ≠ 0 ∨ p.exec = 0 → ∃ t g' q, exec .exit s = .next t ∧ t.group? g.ref = some g' ∧ g'.split? p.id = some q ∧ q.lset = rest
      ∧ q.exec = 0 ∧ q.pc = p.nextHeader ∧ q.clause = none ∧ q.ended = true ∧ q.commits = p.commits + 1 ∧ SameMem s t)
    ∧ (rest = 0 → p.exec ≠ 0 → (∀ pc lanes more, p.stack = .deferred pc lanes :: more →
      ∃ t g' q, exec .exit s = .next t ∧ t.group? g.ref = some g' ∧ g'.split? p.id = some q ∧ q.lset = lanes ∧ q.exec = lanes
        ∧ q.pc = pc % 2 ^ 64 ∧ q.clause = none))
    ∧ (rest = 0 → p.exec ≠ 0 → p.stack = [] → (∃ q ∈ g.splits, q.id ≠ p.id ∧ q.wait ≠ .join) →
      ∃ t g', exec .exit s = .next t ∧ t.group? g.ref = some g' ∧ g'.split? p.id = none ∧ ∀ n, n ≠ p.id → g'.split? n = g.split? n)
    ∧ (rest = 0 → p.exec ≠ 0 → p.stack = [] → g.splits = [p] → (∀ o ∈ s.ops, o.grp ≠ g.ref) →
      ∃ t, exec .exit s = .next t ∧ t.group? g.ref = none ∧ SameMem s t)
    ∧ (rest = 0 → p.exec ≠ 0 → p.stack = [] → g.splits = [p] → (∃ o ∈ s.ops, o.grp = g.ref ∧ o.kind.isCopy = false ∧ o.flag < 12) →
      ∃ t g', exec .exit s = .next t ∧ t.group? g.ref = some g' ∧ g'.status = .ending ∧ g'.splits = []))
  ∧ (∀ (s : State) (g : Group) (p : Split), Issues s g p → s.unchecked g p = false → Released s g p .pod →
    (∀ w k, s.wgOf g = some w → s.kernel? g.cx g.kernel = some k →
      let n := k.trigCount + 1
      (w.counted = true → WordResult s g p .trigger (fun _ => none) fun t => Committed t g p ∧ t.kernel? g.cx g.kernel = some k)
      ∧ (w.counted = false → n ≠ k.kd.wgx * k.kd.wgy * k.kd.wgz → WordResult s g p .trigger (fun _ => none) fun t => Committed t g p
        ∧ t.kernel? g.cx g.kernel = some { k with trigCount := n } ∧ t.wgOf g = some { w with counted := true })
      ∧ (w.counted = false → n = k.kd.wgx * k.kd.wgy * k.kd.wgz → WordResult s g p .trigger (fun _ => none) fun t => Committed t g p
        ∧ (t.kernel? g.cx g.kernel).map (fun j => (j.trigCount, j.triggered)) = some (n, true)))
    ∧ ∀ (d : BitVec 6) (a b : BitVec 5) (c : Context), Readable s g { s := d.toNat :: pairRegs a.toNat ++ pairRegs b.toNat } →
      s.ctx? g.cx = some c →
      (256 ≤ c.dsq.length → WordResult s g p (.enq d a b) (oneS d.toNat 1) fun t => Committed t g p
        ∧ (t.ctx? g.cx).map (·.dsq) = some c.dsq)
      ∧ (c.dsq.length < 256 → WordResult s g p (.enq d a b) (oneS d.toNat 0) fun t => Committed t g p
        ∧ ∃ e, (t.ctx? g.cx).map (·.dsq) = some (c.dsq ++ [e]) ∧ e.kd = (g.getSPair a.toNat).toNat ∧ e.arg = (g.getSPair b.toNat).toNat))

/-- SREAD and SWRITE (R26, R27, R42, R58, R59, R138): every special register reads as R26 says, $TAGS with a bit for each tag that is READY,
and the five writable ones take what R138 gives; $TFRAME at level 0 traps PRIV. Words that R27 and R42 refuse decode to no instruction and
trap ILL: a nonzero A[6:3] or MD[2:1], a reserved number, a write to a read-only register or from a V slot, a 64-bit register into a V slot
or from an odd S register, $LANEID into S registers, and an S number beyond 63. -/
def Obligations.SpecialRegisterAccess : Prop :=
  ∀ (s : State) (g : Group) (p : Split), Issues s g p →
    let core := g.ref.core
    let reads := fun (n : BitVec 10) (x : Word) =>
      (∀ d : BitVec 7, Readable s g { s := [d.toNat] } → UniResult s g p (.sread false d n) d.toNat x)
      ∧ ∀ d : BitVec 7, Readable s g { v := [d.toNat] } → LaneResult s g p (.sread true d n) d.toNat (fun _ => x)
    let reads64 := fun (n : BitVec 10) (x : DWord) => ∀ d : BitVec 7, Readable s g { s := [d.toNat, d.toNat + 1] } →
      MoveResult s g p (.sread false d n) (p.past 1) (fun r =>
        if r = d.toNat then some (x.extractLsb' 0 32) else if r = d.toNat + 1 then some (x.extractLsb' 32 32) else none)
    let writes := fun (n : BitVec 10) (f : Word → Group) => ∀ d : BitVec 6, Readable s g { s := [d.toNat] } →
      ∃ t g', exec (.swrite d n) s = .next t ∧ OnlyGroup s t g g' ∧ OnlySplit (f (g.getS d.toNat)) g' p (p.past 1)
    (∀ d : BitVec 7, Readable s g { v := [d.toNat] } → LaneResult s g p (.sread true d 0) d.toNat (fun l => BitVec.ofNat 32 l))
    ∧ reads 0x001 (BitVec.ofNat 32 g.ref.gctx) ∧ reads 0x002 (BitVec.ofNat 32 g.wg) ∧ reads 0x003 (BitVec.ofNat 32 g.kernel)
    ∧ reads 0x004 (BitVec.ofNat 32 core) ∧ reads 0x005 (BitVec.ofNat 32 (core / 32)) ∧ reads 0x006 (BitVec.ofNat 32 (core / 128))
    ∧ (∀ c, s.ctx? g.cx = some c → reads 0x007 (BitVec.ofNat 32 c.bindRec.vchip))
    ∧ (∀ w, s.wgOf g = some w → ∃ x, reads64 0x014 x
      ∧ ∀ t, t < 64 → (x.getLsbD t = true ↔ ∃ e ∈ w.tags, e.1 = t ∧ e.2.st = .ready))
    ∧ reads64 0x010 (BitVec.ofNat 64 s.gtime) ∧ reads64 0x012 (BitVec.ofNat 64 s.cycle)
    ∧ reads 0x020 g.fpmode ∧ reads 0x021 g.fpflags ∧ reads 0x022 g.seed ∧ reads 0x023 (BitVec.ofNat 32 g.wb) ∧ reads 0x024 p.exec
    ∧ reads 0x025 g.bkcnt ∧ reads 0x026 g.regcnt ∧ reads 0x027 g.sowref ∧ reads 0x031 (BitVec.ofNat 32 g.priv.toNat)
    ∧ (g.priv = true → reads 0x030 (BitVec.ofNat 32 (512 * (32 * core + g.ref.gctx))))
    ∧ (g.priv = false → ∀ (v : Bool) (d : BitVec 7), exec (.sread v d 0x030) s = .next (s.trap g p (.sread v d 0x030) cPRIV))
    ∧ writes 0x020 (fun x => { g with fpmode := x &&& 0x1F, fpmodeOld := g.modeAt s.cycle, fpmodeFrom := s.cycle + 1 }) ∧ writes 0x021 (fun x => { g with fpflags := g.fpflags &&& ~~~x })
    ∧ writes 0x022 (fun x => { g with seed := x }) ∧ writes 0x025 (fun x => { g with bkcnt := x })
    ∧ writes 0x027 (fun x => { g with sowref := x })
    ∧ ∀ w : Word,
      let op := w.extractLsb' 24 8
      let n := (w.extractLsb' 0 10).toNat
      let d := (w.extractLsb' 14 7).toNat
      let v := w.getLsbD 21
      let wide := n = 0x010 ∨ n = 0x012 ∨ n = 0x014
      let known := n ≤ 0x007 ∨ (0x020 ≤ n ∧ n ≤ 0x027) ∨ n = 0x030 ∨ n = 0x031
      let stops := (∀ lit i, decode w lit ≠ .ok i) ∧ ∀ c : Clause, s.issueWord g p c w = .next (s.trapILL g p w 1)
      (op = 0xEB ∨ op = 0xEC → w.extractLsb' 10 4 ≠ 0 ∨ w.extractLsb' 22 2 ≠ 0 → stops)
      ∧ (op = 0xEB → ¬ wide → ¬ known → stops)
      ∧ (op = 0xEB → v = true → wide → stops)
      ∧ (op = 0xEB → v = false → wide → d % 2 = 1 → stops)
      ∧ (op = 0xEB → v = false → n = 0 → stops)
      ∧ (op = 0xEB ∨ op = 0xEC → v = false → 64 ≤ d → stops)
      ∧ (op = 0xEC → n ≠ 0x020 → n ≠ 0x021 → n ≠ 0x022 → n ≠ 0x025 → n ≠ 0x027 → stops)
      ∧ (op = 0xEC → v = true → stops)

/-- Exception entry (R148 to R150): level 1, class 7, no election, the split alone at the vector with its faulting lanes and an empty
stack, the group's other splits stopped; the record keeps cause, PC, NEXTPC, address, detail, level, open and pin tables and the
interrupted split; no other group changes. The frame in the group's save slot takes the fields of R150 at their offsets and S and M of the
trap image of R148, and no byte outside the slot's 512 changes. Of the rest of the machine only what a write of those bytes at their home
changes is changed: copies of the lines in L1s and L2s, pushes and watches on them with the replies they give; no host event arises unless a
line of the slot is poisoned. -/
def Obligations.ExceptionEntrySavesAndVectors : Prop :=
  ∀ (s : State) (g : Group) (p : Split) (x : TrapIn), s.group? g.ref = some g → g.split? p.id = some p → g.tactive = false →
    let t := s.enterTrap g p x
    let vec := if x.cause.getLsbD 18 = true ∨ x.cause.getLsbD 19 = true then 0x200 else if x.cause &&& ~~~cPAGE = 0 then 0x100 else 0
    (∃ g' q r, t.group? g.ref = some g' ∧ g' = { g with trapRec := some r, priv := true, cls := 7, elected := none, splits := g'.splits }
      ∧ g'.split? p.id = some q ∧ q.pc = Config.tvec + vec ∧ q.exec = x.lanes ∧ q.stack = [] ∧ q.clause = none ∧ q.jumped = false
      ∧ q.wait = .none ∧ (∀ n, n ≠ p.id → g'.split? n = g.split? n) ∧ r.cause = x.cause ∧ r.lanes = x.lanes ∧ r.pc = x.pc
      ∧ r.addr = x.addr ∧ r.nextpc = x.nextpc ∧ r.rpc = x.rpc.getD p.rpc ∧ r.ppriv = g.priv ∧ r.cls = g.cls ∧ r.split = p
      ∧ r.elected = g.elected ∧ r.opens = g.opens ∧ r.pins = g.pins ∧ r.detail = BitVec.ofNat 16 x.detail
      ∧ r.allow = allowOf x.cause x.hdr ∧ r.allow.getLsbD 0 = true
      ∧ ∀ k, k ∈ r.stopped ↔ ∃ o ∈ g.splits, o.id = k ∧ k ≠ p.id)
    ∧ (∀ q, q ≠ g.ref → t.group? q = s.group? q)
    ∧ t = { s with groups := t.groups, mem := t.mem, lineMeta := t.lineMeta, cores := t.cores, ops := t.ops, images := t.images,
                   rwatches := t.rwatches, net := t.net, wire := t.wire, l2 := t.l2, ccopies := t.ccopies, cfills := t.cfills,
                   pushed := t.pushed, pushes := t.pushes, modl := t.modl, hostEvents := t.hostEvents, freeCount := t.freeCount }
    ∧ t.modl = { s.modl with corrections := t.modl.corrections }
    ∧ (∀ n, t.core n = { s.core n with l1 := (t.core n).l1 })
    ∧ t.ops.map (fun o => (o.id, o.grp, o.split, o.flag, o.pend, o.pc)) = s.ops.map (fun o => (o.id, o.grp, o.split, o.flag, o.pend, o.pc))
    ∧ t.images.map (·.groups) = s.images.map (·.groups)
    ∧ ∀ c, s.ctx? g.cx = some c →
      let base := c.slotAddr g.ref
      (∀ a, a < base ∨ base + 512 ≤ a → t.byte a = s.byte a)
      ∧ ((∀ n, base / 128 ≤ n → n ≤ (base + 511) / 128 → s.poisoned n (s.domain g.cx 0) = false) →
        let allow := allowOf x.cause x.hdr
        let word := fun off len v : Nat => ∀ j, j < len → t.byte (base + off + j) = BitVec.ofNat 8 (v / 256 ^ j)
        t.hostEvents = s.hostEvents
        ∧ word 0x00 4 x.cause.toNat ∧ word 0x04 4 x.lanes.toNat ∧ word 0x08 8 x.pc ∧ word 0x10 8 (x.rpc.getD p.rpc) ∧ word 0x18 8 x.addr
        ∧ word 0x20 4 g.regcnt.toNat ∧ word 0x24 4 x.insn.toNat ∧ word 0x28 4 p.exec.toNat
        ∧ (∃ pf : BitVec 12, word 0x2C 4 pf.toNat ∧ ∀ f, f < 12 → (pf.getLsbD f = true ↔ ∃ o ∈ s.ops, o.grp = g.ref ∧ o.flag = f))
        ∧ word 0x30 8 (if allow.getLsbD 2 = true then x.nextpc else 0)
        ∧ word 0x38 4 (x.detail % 2 ^ 16 * 2 ^ 16 + 16 * allow.toNat + 8 * g.elected.isSome.toNat + 4 * g.priv.toNat + p.id % 4)
        ∧ word 0x3C 4 0 ∧ (∀ r, r < 64 → word (0x40 + 4 * r) 4 (g.getS r).toNat) ∧ ∀ r, r < 8 → word (0x140 + 4 * r) 4 (g.getM r).toNat)

/-- A cause raised inside a handler, a fetch fault among them, kills the group, and a DOUBLE record of it goes to the kernel's fault domain,
whose policy applies (R153). -/
def Obligations.DoubleTrapKillsGroup : Prop :=
  ∀ (s : State) (g : Group) (p : Split), s.group? g.ref = some g → g.tactive = true → (s.killGroup g.ref).group? g.ref = none
    ∧ (∀ pc c d, s.fetchFail g p pc (.fail c d) = (s.killGroup g.ref).kernelFault g.cx g.kernel
        { siteFields 2 (siteOf g p) with cause := (causeBit c).toNat, pc := p.pc, addr := pc })
    ∧ ∀ x : TrapIn, s.enterTrap g p x = (s.killGroup g.ref).kernelFault g.cx g.kernel
        { siteFields 2 (siteOf g p) with cause := x.cause.toNat, pc := x.pc, addr := x.addr }

/-- Checks 5 to 8 of R43 in their order, for every instruction that issues through them: a privileged instruction at level 0 traps PRIV,
a flag that the clause does not set traps ILL, a slot beyond the allotment REGRANGE, a pending register HAZARD. -/
def Obligations.IssueChecksTrapInOrder : Prop :=
  ∀ (s : State) (g : Group) (p : Split) (u : Uses) (i : Instr) (k : Group → Split → State) (kf : Group → Split → Nat → State),
    Issues s g p →
    let outside := ∃ r ∈ u.v, g.allot ≤ g.wb + r
    let pending := ∃ o ∈ s.ops, o.grp = g.ref ∧ ((∃ r ∈ u.v, g.wb + r ∈ o.pend.vw ∨ g.wb + r ∈ o.pend.vr) ∨ (∃ r ∈ u.s, r ∈ o.pend.sw)
      ∨ ∃ r ∈ u.m, r ∈ o.pend.mw)
    (outside → issue s i u k = .next (s.trap g p i cREGRANGE))
    ∧ (¬ outside → pending → issue s i u k = .next (s.trap g p i cHAZARD))
    ∧ (¬ outside → ¬ pending → issue s i u k = .next (k g p))
    ∧ (g.priv = false → issuePriv s i u k = .next (s.trap g p i cPRIV))
    ∧ (g.priv = true → issuePriv s i u k = issue s i u k)
    ∧ ∀ fs, (p.flag? fs = none → issueLong s i fs u kf = .next (s.trap g p i cILL))
      ∧ ∀ f, p.flag? fs = some f → issueLong s i fs u kf = issue s i u fun g p => kf g p f

/-- TRAP and TRAP.host (R152, R154): SWTRAP with its code and the next clause as NEXTPC; outside a handler TRAP.host traps ILL, inside it
posts the host event and waits until HOSTACK is not 0. TRET and TCLRC (R155): at level 0 PRIV, without a record ILL; with causes left
TRET re-enters the handler; a mode that ALLOW does not hold traps ILL; else S and M take the frame's words, level, class, election and
the open and pin tables are restored, the record is gone, and the split stands at the resume point of the mode. TCLRC clears causes. -/
def Obligations.SoftwareTrapsAndReturn : Prop :=
  (∀ (s : State) (g : Group) (p : Split) (code : BitVec 16), Issues s g p →
    exec (.trap code) s = .next (s.enterTrap g p
      { cause := causeBit 20, lanes := p.exec, pc := p.pc, detail := code.toNat, insn := word0 (.trap code), nextpc := p.nextHeader,
        clause := p.clause })
    ∧ (g.trapRec = none → exec (.trapHost code) s = .next (s.trap g p (.trapHost code) cILL))
    ∧ (g.trapRec ≠ none → p.wait ≠ .host → ∃ t g', exec (.trapHost code) s = .next t
      ∧ t = { s with groups := t.groups, hostEvents := s.hostEvents ++ [.trapHost g.cx (512 * (32 * g.ref.core + g.ref.gctx)) code.toNat] }
      ∧ t.group? g.ref = some g' ∧ OnlySplit g g' p { p with wait := .host })
    ∧ (g.trapRec ≠ none → p.wait = .host → s.hostack g = 0 → exec (.trapHost code) s = .next s)
    ∧ (g.trapRec ≠ none → p.wait = .host → s.hostack g ≠ 0 → ∃ t g', exec (.trapHost code) s = .next t
      ∧ t = { s with groups := t.groups, cores := t.cores } ∧ t.group? g.ref = some g' ∧ OnlySplit g g' p p.fallen))
  ∧ (∀ (s : State) (g : Group) (p : Split), Issues s g p →
    let every := fun (P : Instr → Nat → Prop) => P .tretRegion 0 ∧ P .tretRetry 1 ∧ P .tretNext 2
    every (fun i mode =>
      (g.priv = false → exec i s = .next (s.trap g p i cPRIV))
      ∧ (g.priv = true → g.trapRec = none → exec i s = .next (s.trap g p i cILL))
      ∧ ∀ r, g.priv = true → g.trapRec = some r →
        let lanes := r.split.lset &&& p.allLanes
        (r.cause ≠ 0 → MoveResult s g p i { p.landed (vectorOf r.cause % 2 ^ 64) with exec := r.lanes, jumped := false }
          (fun _ => none))
        ∧ (r.cause = 0 → r.allow.getLsbD mode = false → exec i s = .next (s.trap g p i cILL))
        ∧ (r.cause = 0 → r.allow.getLsbD mode = true → (∀ o ∈ s.ops, o.grp = g.ref → o.pend.sw = [] ∧ o.pend.mw = []) →
          ∃ t g' q, exec i s = .next t ∧ OnlyGroup s t g g'
            ∧ g' = { g with s := g'.s, m := g'.m, priv := r.ppriv, cls := r.cls, elected := g'.elected, trapRec := none,
                            opens := r.opens, pins := r.pins, splits := g'.splits }
            ∧ (∀ x, g'.getS x = if x < 64 then BitVec.ofNat 32 (s.frameNat g (0x40 + 4 * x) 4) else g.getS x)
            ∧ (∀ x, g'.getM x = if x < 8 then BitVec.ofNat 32 (s.frameNat g (0x140 + 4 * x) 4) else g.getM x)
            ∧ q ∈ g'.splits ∧ q.wait = .none
            ∧ (mode = 0 → r.split.ended = true → g'.elected = r.elected ∧ q.lset = lanes ∧ q.exec = r.split.exec &&& lanes
              ∧ q.pc = r.rpc ∧ q.clause = none)
            ∧ (mode = 0 → ∀ rc, r.split.ended = false → r.split.region = some rc → q.pc = rc.entry ∧ q.clause = none
              ∧ q.exec = rc.exec &&& q.lset ∧ (rc.depth = r.split.stack.length → q.lset = lanes))
            ∧ (mode = 1 → g'.elected = r.elected ∧ q.lset = lanes ∧ q.exec = r.split.exec &&& lanes ∧ q.pc = r.pc
              ∧ q.clause = r.clause)
            ∧ (mode = 2 → g'.elected = r.elected ∧ q.lset = lanes ∧ q.exec = r.split.exec &&& lanes ∧ q.clause = r.resume
              ∧ q.pc = r.nextpc ∧ q.jumped = r.resume.isNone ∧ (q.passed = true ↔ r.raised &&& cBREAK ≠ 0)
              ∧ q.padDue = if r.nextpc = r.split.pc then r.split.padDue else none)))
    ∧ ∀ m : BitVec 22,
      (g.priv = false → exec (.tclrc m) s = .next (s.trap g p (.tclrc m) cPRIV))
      ∧ (g.priv = true → g.trapRec = none → exec (.tclrc m) s = .next (s.trap g p (.tclrc m) cILL))
      ∧ ∀ r, g.priv = true → g.trapRec = some r → ∃ t g', exec (.tclrc m) s = .next t ∧ t.group? g.ref = some g'
        ∧ OnlySplit { g with trapRec := some { r with cause := r.cause &&& ~~~m } } g' p (p.past 1)
        ∧ (∀ q, q ≠ g.ref → t.group? q = s.group? q)
        ∧ ∀ c, s.ctx? g.cx = some c → ∀ a, a < c.slotAddr g.ref ∨ c.slotAddr g.ref + 4 ≤ a → t.byte a = s.byte a)

/-- LOAD_DATA_RETURN, ATOMIC_REPLY and STSR_ACKNOWLEDGEMENT (R31, R205, R219, R220, R224): the registers of each lane take the words of its
bytes, other registers keep theirs, and the operation leaves its flag. ATOMIC_AT_HOME, WATCH_POST and WATCH_REPOST (R201, R224, R227,
R228): the atomic of a lane reads and writes its bytes in one step and records the old value, where the limiter of its class admits it
(R115), but none of an atomic with a lane on a poisoned line (R218); a watch that is admitted completes with the value where its comparison
holds, else its home's slice holds it or returns it; a returned watch that the limiter does not admit 1 µs later waits to be posted. -/
def Obligations.RepliesAndHomeAccesses : Prop :=
  ((∀ (s : State) (g : Group) (o : PendOp) (d : Nat) (nar : Narrow) (accs : List LaneAcc) (lines : List LineWait) (mask : LaneMask),
    OpOf s g o → o.flag < 12 → (∀ w ∈ lines, w.st = .got ∧ w.poison = false ∧ w.refused = false) →
    let words := fun a : LaneAcc => narrowWords nar (accNat lines a (narrowBytes nar))
    (o.kind = .load false d nar accs lines mask → (accs.map (·.lane)).Nodup → (∀ a ∈ accs, a.lane < 32) →
      ∃ t g', exec (.loadDataReturn o.id) s = .next t ∧ OpEnded s t g g' o ∧ g' = { g with v := g'.v } ∧ SameMem s t
        ∧ (∀ a ∈ accs, ∀ j x, (words a)[j]? = some x → g'.getP (d + j) a.lane = x)
        ∧ ∀ r l, l < 32 → (∀ a ∈ accs, a.lane = l → r < d ∨ d + (words a).length ≤ r) → g'.getP r l = g.getP r l)
    ∧ (∀ a, o.kind = .load true d nar [a] lines mask → ∃ t g', exec (.loadDataReturn o.id) s = .next t ∧ OpEnded s t g g' o
        ∧ g' = { g with s := g'.s } ∧ SameMem s t ∧ (∀ j x, (words a)[j]? = some x → g'.getS (d + j) = x)
        ∧ ∀ r, r < d ∨ d + (words a).length ≤ r → g'.getS r = g.getS r))
  ∧ (∀ (s : State) (g : Group) (o : PendOp) (d l off lane : Nat) (nar : Narrow) (w : Workgroup), OpOf s g o →
    o.kind = .lds d nar [(lane, l, off)] → lane < 32 → s.anyWg? g.cx g.kernel l = some w →
    let words := narrowWords nar (w.nat off (narrowBytes nar))
    ∃ t g', exec (.loadDataReturn o.id) s = .next t ∧ OpEnded s t g g' o ∧ g' = { g with v := g'.v } ∧ SameMem s t
      ∧ (∀ j x, words[j]? = some x → g'.getP (d + j) lane = x)
      ∧ ∀ r k, k < 32 → (k ≠ lane ∨ r < d ∨ d + words.length ≤ r) → g'.getP r k = g.getP r k)
  ∧ (∀ (s : State) (g : Group) (o : PendOp) (w64 noret : Bool) (op : Option Aop) (sc : Scope) (ord : AOrd) (d : Nat)
    (lanes : List AtomLane), OpOf s g o → g.ref.gctx < 32 → o.kind = .atom w64 op noret sc ord d lanes → (lanes.map (·.lane)).Nodup →
    (∀ x ∈ lanes, x.lane < 32 ∧ x.fate = 0 ∧ x.reply ≠ none) →
    ∃ t g', exec (.atomicReply o.id) s = .next t ∧ OpEnded s t g g' o ∧ g' = { g with v := g'.v } ∧ SameMem s t
      ∧ (noret = true → g' = g)
      ∧ (noret = false → ∀ x ∈ lanes, ∀ v, x.reply = some v → g'.getP d x.lane = v.extractLsb' 0 32
        ∧ (w64 = true → g'.getP (d + 1) x.lane = v.extractLsb' 32 32))
      ∧ ∀ r l, l < 32 → (r ≠ d ∧ (w64 = true → r ≠ d + 1) ∨ ∀ x ∈ lanes, x.lane ≠ l) → g'.getP r l = g.getP r l)
  ∧ ∀ (s : State) (m : StsrMsg) (rest : List StsrMsg) (w : Workgroup), s.stsrs = m :: rest → s.anyWg? m.cx m.kernel m.wg = some w →
    w.exited = false → ∃ t w', exec (.stsrAcknowledgement 0) s = .next t ∧ t.stsrs = rest ∧ SameMem s t
      ∧ t.anyWg? m.cx m.kernel m.wg = some w' ∧ (∀ j x, m.bytes[j]? = some x → w'.byte (m.off + j) = x)
      ∧ ∀ b, b < m.off ∨ m.off + m.bytes.length ≤ b → w'.byte b = w.byte b)
  ∧ ((∀ (s : State) (o : PendOp) (w64 noret : Bool) (op : Option Aop) (sc : Scope) (ord : AOrd) (d : Nat) (lanes : List AtomLane)
    (l : AtomLane), s.anyOp? o.id = some o → o.kind = .atom w64 op noret sc ord d lanes → o.lane? l.lane = some l →
    s.atomReady o l lanes = true → s.merging l.key = false → PlainLine s l.key →
    let n := if w64 then 8 else 4
    l.off + n ≤ 128 →
    let old := lineNat (s.homeRead l.key).1 l.off n
    let new := aopNew op (8 * n) old (l.v.toNat % 2 ^ (8 * n)) (l.cmp.toNat % 2 ^ (8 * n))
    let admitted := s.admits l.key.cx (s.lineClasses o.grp.core l.key)
    (s.atomPoisoned lanes = true → ∃ t o', exec (.atomicAtHome o.id l.lane) s = .next t ∧ SameMem s t ∧ t.anyOp? o.id = some o'
      ∧ (o'.lane? l.lane).map (·.reply) = some (some 0))
    ∧ (s.atomPoisoned lanes = false → admitted = false → exec (.atomicAtHome o.id l.lane) s = .next s)
    ∧ (s.atomPoisoned lanes = false → admitted = true → ∃ t o', exec (.atomicAtHome o.id l.lane) s = .next t
      ∧ (∀ a, t.byte a = if 128 * l.key.n + l.off ≤ a ∧ a < 128 * l.key.n + l.off + n ∧ (s.frameRo l.key).getLsbD (a % 128) = false
          then BitVec.ofNat 8 (new / 256 ^ (a - (128 * l.key.n + l.off))) else s.byte a)
      ∧ t.anyOp? o.id = some o' ∧ (o'.lane? l.lane).map (·.reply) = some (some (BitVec.ofNat 64 old))))
  ∧ ∀ (s : State) (g : Group) (o : PendOp) (va off d : Nat) (k : LineKey) (cmp : WCmp) (u w64 : Bool) (v : DWord) (sc : Scope)
    (held : Option Nat), OpOf s g o → o.kind = .watch va k off cmp u w64 v sc d held none → o.flag < 12 → k.pod = false →
    (s.homeRead k).2 = false →
    let x := lineNat (s.homeRead k).1 off (if w64 then 8 else 4)
    let admitted := s.admits k.cx (s.lineClasses o.grp.core k)
    let outcome := fun i : Instr =>
      (admitted = true → watchHolds cmp u w64 x v.toNat = true → ∃ t g', exec i s = .next t ∧ OpEnded s t g g' o ∧ g' = { g with s := g'.s } ∧ SameMem s t
        ∧ g'.getS d = BitVec.ofNat 32 x ∧ (w64 = true → g'.getS (d + 1) = BitVec.ofNat 32 (x / 2 ^ 32))
        ∧ ∀ r, r ≠ d → (w64 = true → r ≠ d + 1) → g'.getS r = g.getS r)
      ∧ (admitted = true → watchHolds cmp u w64 x v.toNat = false → ∃ t o', exec i s = .next t ∧ t.groups = s.groups ∧ SameMem s t ∧ t.op? o.id = some o'
        ∧ (s.watchesIn (s.homeSlice k) < 256 → o'.kind = .watch va k off cmp u w64 v sc d (some (s.homeSlice k)) none)
        ∧ (256 ≤ s.watchesIn (s.homeSlice k) →
          o'.kind = .watch va k off cmp u w64 v sc d (some watchReturned) none ∧ o'.issued = s.cycle))
    (held = none → outcome (.watchPost o.id) ∧ (admitted = false → exec (.watchPost o.id) s = .next s))
    ∧ (held = some watchReturned → s.cycle < o.issued + 2250 → exec (.watchRepost o.id) s = .next s)
    ∧ (held = some watchReturned → o.issued + 2250 ≤ s.cycle → s.homeSlice k ≠ watchReturned → outcome (.watchRepost o.id)
      ∧ (admitted = false → exec (.watchRepost o.id) s = .next (s.updOp o.id fun o => o.setWatch none none o.issued))))

/-- HOME_READ, CFILL and L1_FILL (R115, R194, R199, R209, R211 to R214): a fetch that the limiter admits takes the line as its home holds it
at that instant; a copy arrives in the slice that the hash names, and the home's presence bit is set; the core takes the line with its own
unpublished bytes over it, into V where no ACQ has passed; where every line of a full L1 is dirty, the oldest is published first.
HOME_MERGE and PUBLISH (R115, R190, R191, R203): the oldest entry of a line without copies is merged at its home, which changes exactly its
dirty bytes, less the read-only words of a trap frame (R150); with copies it waits for their invalidations. A merged entry leaves the
queue, its line is clean, and one push leaves for each bit of its mask. C_INVAL, PUSH_INVAL and PUSH (R203, R209 to R211, R213): an
invalidation drops its copy; a push that a core accepts leaves the line in P and is recorded at the home, a refused one counts in $SOWREF
of its writer. -/
def Obligations.LinesFillPublishAndPush : Prop :=
  ((∀ (s : State) (o : PendOp) (k : Nat) (w : LineWait), s.op? o.id = some o → o.kind.lines[k]? = some w → w.st = .needed →
    w.key.pod = false → s.merging w.key = false → s.fetchAhead o w.key = false → (∀ c ∈ s.ccopies, c.key.same w.key = false) →
    let admitted := s.admits w.key.cx (s.lineClasses o.grp.core w.key)
    (admitted = false → exec (.homeRead o.id k) s = .next s)
    ∧ (admitted = true → ∃ t f o', exec (.homeRead o.id k) s = .next t ∧ t.fills = s.fills ++ [f] ∧ f.core = o.grp.core ∧ f.key = w.key
      ∧ f.op = o.id ∧ f.data = (s.homeRead w.key).1 ∧ f.poison = (s.homeRead w.key).2 ∧ f.acqs = w.acqs ∧ SameMem s t
      ∧ t.op? o.id = some o' ∧ o'.kind.lines[k]? = some { w with st := .served }))
  ∧ (∀ (s : State) (k : Nat) (m : CfillMsg), s.cfills[k]? = some m → ∃ t, exec (.cfill k) s = .next t
    ∧ t = { s with cfills := t.cfills, ccopies := t.ccopies, l2 := t.l2, freeCount := t.freeCount }
    ∧ (∀ x ∈ t.cfills, x ∈ s.cfills.eraseIdx k)
    ∧ (∃ c ∈ t.ccopies, c.key = m.key ∧ c.sector = m.sector ∧ c.data = m.data ∧ c.slice = s.sliceIn m.sector m.key.n)
    ∧ (m.sector < 6 → ∀ l ∈ t.l2, l.key.same m.key = true → l.presence.getLsbD m.sector = true))
  ∧ ∀ (s : State) (f : FillMsg) (rest : List FillMsg) (o : PendOp) (k : Nat) (w : LineWait), s.fills = f :: rest →
    s.op? f.op = some o → o.kind.lines[k]? = some w → w.key.same f.key = true → w.st = .served →
    let keeps := f.poison = false ∧ f.refused = false ∧ f.install = true ∧ (s.core f.core).acqs = f.acqs
    (keeps → (s.core f.core).hasRoom f.key = false → exec (.l1Fill 0) s = .next (s.evictDirty f.core))
    ∧ ((keeps → (s.core f.core).hasRoom f.key = true) → ∃ t o', exec (.l1Fill 0) s = .next t ∧ t.fills = rest ∧ SameMem s t
      ∧ t.op? f.op = some o'
      ∧ o'.kind.lines[k]? = some { w with st := .got, data := mergeLine f.data w.data w.own, poison := f.poison, refused := f.refused }
      ∧ (keeps → (s.core f.core).line? f.key = none → (s.core f.core).l1.length < (s.core f.core).l1Cap →
        (t.core f.core).line? f.key = some { key := f.key, st := .V, data := f.data, valid := BitVec.allOnes 128, age := s.cycle,
                                             refd := s.cycle })
      ∧ (keeps → ∀ l, (s.core f.core).line? f.key = some l → (t.core f.core).line? f.key =
          some { l with data := mergeLine f.data l.data l.dirty, valid := BitVec.allOnes 128 })
      ∧ (f.install = false ∨ (s.core f.core).acqs ≠ f.acqs → t.cores = s.cores)))
  ∧ ((∀ (s : State) (core : Nat) (e : PqEntry) (rest : List PqEntry), (s.core core).pq = e :: rest → e.phase = .waiting → e.ow = none →
    s.merging e.key = false →
    let line := (s.core core).line? e.key
    let data := (line.map (·.data)).getD e.data
    let mask := (line.map fun l => e.mask &&& l.dirty).getD e.mask
    let admitted := s.admits e.key.cx (s.lineClasses core e.key)
    (e.key.pod = false → admitted = false → exec (.homeMerge core 0) s = .next s)
    ∧ (PlainLine s e.key → admitted = true → e.homesLeft ≤ 1 → ∃ t, exec (.homeMerge core 0) s = .next t
      ∧ LineWritten s t e.key.n data (mask &&& ~~~s.frameRo e.key)
      ∧ (t.core core).pq.head? = some { e with phase := .merged, homesLeft := e.homesLeft - 1, data := data, mask := mask }
      ∧ (t.core core).l1 = (s.core core).l1)
    ∧ (e.key.pod = false → admitted = true → s.copiesOf e.key ≠ [] → ∃ t m, exec (.homeMerge core 0) s = .next t ∧ SameMem s t
      ∧ t.merges = s.merges ++ [m] ∧ m.key = e.key ∧ m.data = data ∧ m.mask = mask
      ∧ t.invals = s.invals ++ (s.copiesOf e.key).map fun x => { key := e.key, core := x.1, sector := x.2 }))
  ∧ ∀ (s : State) (core : Nat) (e : PqEntry) (rest : List PqEntry), (s.core core).pq = e :: rest → (∀ x ∈ rest, x.id ≠ e.id) →
    e.phase = .merged → e.ow = none → e.key.pod = false → (s.homeRead e.key).2 = false →
    ∃ t, exec (.publish core 0) s = .next t ∧ (t.core core).pq = rest ∧ SameMem s t
      ∧ t.pushes = s.pushes ++ (((List.range 32).filter fun i => e.push.getLsbD i).map fun i =>
          { core := 32 * (core / 32) + i, key := e.key, data := (s.homeRead e.key).1, entry := e.id,
            sites := ((e.sows.filter fun x => x.2.getLsbD i).map (·.1)).dedup })
      ∧ ∀ l, (s.core core).line? e.key = some l → (∀ x ∈ rest, x.key.same e.key = false) → ∃ l', (t.core core).line? e.key = some l'
        ∧ l'.dirty = l.dirty &&& ~~~e.mask ∧ l'.data = l.data ∧ l'.valid = l.valid ∧ (l'.dirty = 0 → l'.st = .V))
  ∧ ((∀ (s : State) (k : Nat) (m : InvalMsg), s.invals[k]? = some m → (∀ x ∈ s.merges, x.key.same m.key = false) →
    (m.core = none → ∃ t, exec (.cInval k) s = .next t ∧ t.invals = s.invals.eraseIdx k ∧ SameMem s t ∧ t.cores = s.cores
      ∧ ∀ c, c ∈ t.ccopies ↔ c ∈ s.ccopies ∧ ¬ (c.key.same m.key = true ∧ c.sector = m.sector))
    ∧ ∀ n, m.core = some n → ∃ t, exec (.pushInval k) s = .next t ∧ t.invals = s.invals.eraseIdx k ∧ SameMem s t
      ∧ (∀ c, c ≠ n → t.core c = s.core c) ∧ (t.core n).pq = (s.core n).pq
      ∧ (∀ l ∈ (t.core n).l1, l.key.same m.key = true → l.st ≠ .V ∧ l.st ≠ .P ∧ l.valid = l.dirty)
      ∧ (∀ p, p ∈ t.pushed ↔ p ∈ s.pushed ∧ ¬ (p.1.same m.key = true ∧ p.2 = n)))
  ∧ ∀ (s : State) (k : Nat) (m : PushMsg), s.pushes[k]? = some m →
    let c := s.core m.core
    let eligible := ∃ w ∈ s.wgs, w.core = m.core ∧ w.cx = m.key.cx ∧ w.exited = false
    (eligible → (c.l1.filter fun l => l.st == .P).length < 64 → c.hasRoom m.key = false → exec (.push k) s = .next (s.evictDirty m.core))
    ∧ (eligible → (c.l1.filter fun l => l.st == .P).length < 64 →
      c.line? m.key = none → c.l1.length < c.l1Cap → ∃ t, exec (.push k) s = .next t ∧ t.pushes = s.pushes.eraseIdx k ∧ SameMem s t
        ∧ (t.core m.core).line? m.key = some { key := m.key, st := .P, data := m.data, valid := BitVec.allOnes 128, age := s.cycle,
                                                   refd := s.cycle }
        ∧ ∃ p ∈ t.pushed, p.1 = m.key ∧ p.2 = m.core)
    ∧ (¬ eligible ∨ 64 ≤ (c.l1.filter fun l => l.st == .P).length → c.line? m.key = none →
      ∃ t, exec (.push k) s = .next t ∧ t.pushes = s.pushes.eraseIdx k ∧ SameMem s t ∧ t.cores = s.cores ∧ t.pushed = s.pushed
        ∧ ∀ g si, s.groups = [g] → m.sites = [si] → g.uid = si.uid → g.cx = si.cx → g.kernel = si.kernel → g.wg = si.wg → g.gidx = si.gidx →
          g.status = .live → t.groups = [{ g with sowref := BitVec.ofNat 32 (min (2 ^ 32 - 1) (g.sowref.toNat + 1)) }]))

/-- OPEN, PIN, UNPIN, SHEAF_SEAL and DROP at the descriptor's home (R230, R234 to R238, R245 to R248, R250, R251): the version and status that the sender
gets, and the word 0, the pin count and the writer that the descriptor then holds; its reserved bits are written 0. The version of an open
that is not granted is a free value (log 49). A drop discards the open writes of its version that wait in publish queues. -/
def Obligations.DescriptorHomeDecides : Prop :=
  ∀ (s : State) (m : ShMsg) (k : LineKey) (d : Desc), s.shMsgs = [m] → s.shTarget m.cx m.sheaf = .own →
    s.desc? m.cx m.sheaf = some (k, d) → s.poisoned k.n (s.domain k.cx k.kds) = false → s.copiesOf k = [] →
    let member := s.membersOk m.cx d = true
    let holds := fun (t : State) (st openv pins : Nat) (w : Writer) => ∃ data, LineWritten s t k.n data (maskOf 0 4 ||| maskOf 7 25)
      ∧ lineNat data 0 4 = st * 2 ^ 28 + d.nmem * 2 ^ 24 + openv * 2 ^ 12 + d.version ∧ lineNat data 8 4 = pins
      ∧ lineNat data 0xC 4 = (w.vchip * 2 ^ 20 + w.gidx * 2 ^ 15) % 2 ^ 32 ∧ lineNat data 0x10 4 = w.kernel % 2 ^ 32
      ∧ lineNat data 0x14 4 = w.wg % 2 ^ 32 ∧ lineNat data 7 1 = 0 ∧ lineNat data 0x18 8 = 0
    let answers := fun (g : Group) (ver st : Nat) =>
      [{ g with opens := if (st = 0 ∨ st = 1) ∧ (m.sheaf, ver) ∉ g.opens then g.opens ++ [(m.sheaf, ver)] else g.opens,
                splits := g.splits.map fun p => if p.wait = .reply m.id then { p with wait := .got ((sheafWord m.sheaf ver st).zeroExtend 64) }
                  else p }]
    (∀ g, m.kind = .open_ → m.copy = none → s.groups = [g] → g.cx = m.cx → g.kernel = m.writer.kernel → g.wg = m.writer.wg →
      g.gidx = m.writer.gidx → g.status = .live →
      (d.st = 0 → member → ∃ t, exec (.shOpen 0) s = .next t ∧ t.shMsgs = [] ∧ t.groups = answers g ((d.version + 1) % 4096) 0
        ∧ holds t 1 ((d.version + 1) % 4096) d.pins m.writer)
      ∧ (d.st = 0 → ¬ member → ∃ t ver, exec (.shOpen 0) s = .next t ∧ t.shMsgs = [] ∧ t.groups = answers g ver 4 ∧ SameMem s t)
      ∧ (d.st = 1 → d.writer = m.writer → ∃ t, exec (.shOpen 0) s = .next t ∧ t.groups = answers g d.openv 1 ∧ SameMem s t)
      ∧ (d.st ≠ 0 → ¬ (d.st = 1 ∧ d.writer = m.writer) →
        ∃ t ver, exec (.shOpen 0) s = .next t ∧ t.groups = answers g ver 2 ∧ SameMem s t))
    ∧ (∀ g o r, m.kind = .pin → m.copy = none → m.op = some o.id → OpOf s g o → o.kind = .shpin r m.sheaf →
      (d.pins < 65535 → member → ∃ t g', exec (.pin 0) s = .next t ∧ t.shMsgs = [] ∧ OpEnded s t g g' o
        ∧ g'.getS r = sheafWord m.sheaf d.version 0 ∧ g'.pins = g.pins ++ [(m.sheaf, d.version, m.region)]
        ∧ holds t d.st d.openv (d.pins + 1) d.writer)
      ∧ (65535 ≤ d.pins ∨ ¬ member → ∃ t g', exec (.pin 0) s = .next t ∧ OpEnded s t g g' o
        ∧ g'.getS r = sheafWord m.sheaf d.version (if 65535 ≤ d.pins then 6 else 4) ∧ g'.pins = g.pins ∧ SameMem s t))
    ∧ (m.kind = .unpin → d.pins ≠ 0 → ∃ t, exec (.unpin 0) s = .next t ∧ t.shMsgs = [] ∧ t.groups = s.groups
      ∧ holds t d.st d.openv (d.pins - 1) d.writer)
    ∧ (m.kind = .seal → s.openOut m = false → d.st = 1 → d.openv = m.ver → ∃ t q, exec (.sheafSeal 0) s = .next t ∧ t.shMsgs = []
      ∧ t.shProcs = s.shProcs ++ [q] ∧ q.drop = false ∧ q.cx = m.cx ∧ q.sheaf = m.sheaf ∧ q.ver = m.ver ∧ q.left = s.memberHomes m.cx d
      ∧ holds t 2 d.openv d.pins d.writer)
    ∧ (m.kind = .drop → d.st = 1 → d.openv = m.ver → ∃ t q, exec (.drop 0) s = .next t ∧ t.shMsgs = [] ∧ t.shProcs = s.shProcs ++ [q]
      ∧ q.drop = true ∧ q.sheaf = m.sheaf ∧ q.ver = m.ver ∧ q.left = s.memberHomes m.cx d ∧ holds t 3 d.openv d.pins d.writer
      ∧ ∀ c ∈ t.cores, ∀ e ∈ c.pq, ∀ w, e.ow = some w → w.id = m.sheaf → w.ver = m.ver → s.vchipCtx e.key.cx w.owner ≠ some m.cx)

/-- SEAL_MESSAGE, DROP_MESSAGE, ACKED, DROPPED, OPEN_WRITE and PINNED_READ (R234 to R240, R249): a slice applies the seal or the drop at
every line that it homes and acknowledges; the last acknowledgement returns the descriptor to IDLE, a seal with its version; an open write
that its home takes leaves the queue; a pinned read takes what SELECT names, and raises PROT on a line of another sheaf. -/
def Obligations.MemberHomesServeVersions : Prop :=
  (∀ (s : State) (k m h : Nat) (q : ShProc), s.shProcs[k]? = some q → q.left[m]? = some h → h < 100000 →
    (q.drop = false → ∃ t, exec (.sealMessage k m) s = .next t ∧ (t.shProcs[k]?).map (·.left) = some (q.left.eraseIdx m) ∧ SameMem s t
      ∧ (q.cx, s.vchipOf q.cx, q.sheaf, h, q.ver) ∈ t.shSealed)
    ∧ (q.drop = true → ∃ t, exec (.dropMessage k m) s = .next t ∧ (t.shProcs[k]?).map (·.left) = some (q.left.eraseIdx m) ∧ SameMem s t
      ∧ ∀ x ∈ s.ownedLines q.cx (s.vchipOf q.cx), s.homeSlice x = h → ∀ b, b < 2 →
        ¬ ((t.tag (x.slot b)).valid = true ∧ (t.tag (x.slot b)).isOpen = true ∧ (t.tag (x.slot b)).id = q.sheaf
          ∧ (t.tag (x.slot b)).ver = q.ver)))
  ∧ (∀ (s : State) (q : ShProc) (k : LineKey) (d : Desc), s.shProcs = [q] → q.left = [] → q.msg = none → q.remote = none →
    s.desc? q.cx q.sheaf = some (k, d) → s.poisoned k.n (s.domain k.cx k.kds) = false → s.copiesOf k = [] →
    q.ver < 4096 →
    let ends := fun (i : Instr) (version : Nat) => ∃ t data, exec i s = .next t ∧ t.shProcs = []
      ∧ LineWritten s t k.n data (maskOf 0 4 ||| maskOf 7 25)
      ∧ lineNat data 8 4 = d.pins ∧ lineNat data 0 4 = d.nmem * 2 ^ 24 + d.openv * 2 ^ 12 + version
    (q.drop = false → ends (.acked 0) q.ver) ∧ (q.drop = true → ends (.dropped 0) d.version))
  ∧ (∀ (s s1 : State) (core : Nat) (e : PqEntry) (rest : List PqEntry) (w : OpenWr), (s.core core).pq = e :: rest →
    (∀ x ∈ rest, x.id ≠ e.id) → e.ow = some w → e.phase = .waiting → e.key.pod = false →
    s.openWriteAt e.key.cx e.key w.owner w.id w.ver e.data e.mask none w.va = (s1, true) →
    ∃ t, exec (.openWrite core 0) s = .next t ∧ (t.core core).pq = rest ∧ SameMem s1 t ∧ t.lineMeta = s1.lineMeta)
  ∧ ∀ (s : State) (o : PendOp) (d n id ver lane : Nat) (a : LaneAcc) (lanes : List (LaneAcc × Option (Option LineData))),
    s.op? o.id = some o → o.kind = .shld d n id ver lanes → (a, none) ∈ lanes → a.lane = lane → (lanes.map (·.1.lane)).Nodup →
    a.key.pod = false →
    let sel := s.select a.key.cx (s.ownerOf a.key.cx id).1 (s.ownerOf a.key.cx id).2 ver a.key
    let foreign := s.foreignLine a.key.cx (s.ownerOf a.key.cx id).1 (s.ownerOf a.key.cx id).2 a.key
    let becomes := fun (x : Option LineData) => ∃ t o' l', exec (.pinnedRead o.id lane) s = .next t ∧ t.op? o.id = some o'
      ∧ o'.kind = .shld d n id ver l' ∧ (a, some x) ∈ l' ∧ l'.length = lanes.length ∧ SameMem s t
    (foreign = true → exec (.pinnedRead o.id lane) s
      = .next (s.failOp o cPROT (maskOfLanes ((lanes.filter fun l => l.1.key == a.key).map (·.1.lane))) a.va 0))
    ∧ (foreign = false → sel = .stale → becomes none) ∧ (foreign = false → sel = .zero → becomes (some 0))
    ∧ ∀ n, foreign = false → sel = .line n → s.poisoned n (s.domain a.key.cx a.key.kds) = false → becomes (some (s.physLine n))

/-- COPY_CHUNK, COPY_COMPLETE, PFL2_COMPLETE and HELD_ARRIVAL (R226, R254 to R256, R262 to R265): one run of a linear copy into a
scratchpad places its bytes, where the limiter admits it (R115); a completed copy leaves and makes its tag READY; PFL2 writes its
completion word, and waits for a page in migration (R316); a held arrival counts in the next phase, one in a cycle. -/
def Obligations.CopiesMoveAndComplete : Prop :=
  (∀ (s s1 : State) (c : Copy) (k x n : Nat) (w : Workgroup), s.copies[k]? = some c → (∀ y ∈ s.copies, y.id = c.id → y = c) →
    c.kind = .l → c.dir = .g2s → c.cb = false → c.targets = [(c.kernel, c.wg)] → c.podWait = none → c.done < c.bytes →
    (∀ e ∈ (s.core c.site.grp.core).pq, e.id ∉ c.marker) → c.cure = [] →
    c.runs 2048 c.done (min (c.done / 1024 * 1024 + 1024) c.bytes) = [(c.done, n)] → s.readRun c c.done n = (s1, .data x false) →
    s1.copies = s.copies → s1.anyWg? c.cx c.kernel c.wg = some w → w.exited = false →
    let admitted := s.admits c.cx (s.runClasses c c.done)
    (admitted = false → exec (.copyChunk k) s = .next s)
    ∧ (admitted = true → ∃ t c' w', exec (.copyChunk k) s = .next t ∧ SameMem s1 t ∧ t.copy? c.id = some c' ∧ c'.done = c.done + n
      ∧ c'.flags = c.flags ∧ t.anyWg? c.cx c.kernel c.wg = some w'
      ∧ (∀ j, j < n → w'.byte (c.dst + c.done + j) = BitVec.ofNat 8 (x / 256 ^ j))
      ∧ ∀ b, b < c.dst + c.done ∨ c.dst + c.done + n ≤ b → w'.byte b = w.byte b))
  ∧ (∀ (s : State) (c : Copy) (w : Workgroup) (e : TagEnt), s.copies = [c] → c.kind ≠ .p → c.kind ≠ .x → c.bytes ≤ c.done →
    c.podOut = 0 → c.cb = false → c.targets = [(c.kernel, c.wg)] → c.op = none → s.kernel? c.cx c.kernel = none → s.ops = [] →
    s.wgs = [w] → s.images = [] → w.cx = c.cx → w.kernel = c.kernel → w.l = c.wg → w.tags = [(c.ctn, e)] →
    ∃ t w', exec (.copyComplete 0) s = .next t ∧ t.copies = [] ∧ t.wgs = [w'] ∧ SameMem s t
      ∧ w'.tags = [(c.ctn, { st := .ready, status := c.status })])
  ∧ (∀ (s s1 : State) (c : Copy) (g : Group), s.copies = [c] → c.kind = .p → c.bytes = 1 → c.op = none → s.images = [] →
    s.groups = [g] → g.uid = c.site.uid → g.cx = c.site.cx → g.kernel = c.site.kernel → g.wg = c.site.wg → g.gidx = c.site.gidx →
    g.status = .live → s.ops = [] →
    (s.fetchLine c 0 = .waits → exec (.pfl2Complete c.id) s = .next s)
    ∧ (s.fetchLine c 0 = .skipped → ∃ t g', exec (.pfl2Complete c.id) s = .next t ∧ t.copies = [] ∧ t.groups = [g'] ∧ SameMem s t
      ∧ g'.getS c.regD = 0 ∧ g'.getS (c.regD + 1) = 1)
    ∧ (s.fetchLine c 0 = .here s1 → s1.groups = s.groups → s1.images = s.images → s1.copies = s.copies → s1.ops = [] →
      ∃ t g', exec (.pfl2Complete c.id) s = .next t ∧ t.copies = [] ∧ t.groups = [g'] ∧ SameMem s1 t
        ∧ g'.getS c.regD = 0xFFFFFFFF ∧ g'.getS (c.regD + 1) = 0))
  ∧ ∀ (s : State) (k bar : Nat) (w : Workgroup) (f : BitVec 8) (rest : List (BitVec 8)), s.wgs[k]? = some w →
    s.anyWg? w.cx w.kernel w.l = some w → (w.bar bar).held = f :: rest → (w.bar bar).isOpen = true →
    (w.bar bar).arra + 1 < (w.bar bar).expa → ((∃ e ∈ s.taken, e.1 = .held w.cx w.kernel w.l bar) → exec (.heldArrival k bar) s = .next s)
    ∧ ((∀ e ∈ s.taken, e.1 ≠ .held w.cx w.kernel w.l bar) → ∃ t w', exec (.heldArrival k bar) s = .next t ∧ SameMem s t
      ∧ t.anyWg? w.cx w.kernel w.l = some w'
      ∧ w'.bar bar = { w.bar bar with held := rest, arra := (w.bar bar).arra + 1, pstat := (w.bar bar).pstat ||| f, cpy := true })

/-- MRES_FILL_DONE, WLOAD_FILL_DONE, MMA_JOB_START and MMA_JOB_END (R300 to R303, R306 to R308): a fill puts the scratchpad's bytes in the
record or the slot and nothing elsewhere; a job starts in the cycle of R301, not before; a job that ends gives each row of C its drains,
or, for MMAG, adds or stores its row in the scratchpad. A block of exact values of one exponent sums exactly (R67), and a row of INT8
elements without scales takes for each column the FP32 word of its 256 products' sum (R57, R64, R67, R298). -/
def Obligations.TileFillsAndJobs : Prop :=
  (∀ (s : State) (core k off t0 : Nat) (r : QRec) (g : Group) (w : Workgroup), (s.core core).rec? k = some r → r.filling = some (off, t0) →
    t0 + 4 + 2 * r.rows ≤ s.cycle → s.group? r.owner = some g → s.wgOf g = some w → ∃ t, exec (.mresFillDone core k) s = .next t
      ∧ SameMem s t ∧ (t.core core).rec? k = some { r with filling := none }
      ∧ (∀ j, j < 256 * r.rows → sget 0 (t.core core).opbuf (256 * r.base + j) = w.byte (off + j))
      ∧ ∀ a, a < 256 * r.base ∨ 256 * (r.base + r.rows) ≤ a → sget 0 (t.core core).opbuf a = sget 0 (s.core core).opbuf a)
  ∧ (∀ (s : State) (core n off soff t0 : Nat) (g : Group) (w : Workgroup), ((s.core core).slot n).filling = some (off, soff, t0) →
    ((s.core core).slot n).owner = some g.ref → s.group? g.ref = some g → s.wgOf g = some w →
    ∃ t, exec (.wloadFillDone core n) s = .next t ∧ SameMem s t ∧ ((t.core core).slot n).filling = none
      ∧ ∀ j, j < 16384 → sget 0 ((t.core core).slot n).tile j = w.byte (off + j))
  ∧ (∀ (s : State) (core : Nat) (j : Job) (rest : List Job), (s.core core).jobs = j :: rest → j.start = none →
    let st := max (j.issued + 4) (s.core core).seqFree
    (s.cycle < st → exec (.mmaJobStart core) s = .next s)
    ∧ (st ≤ s.cycle → ∃ t j', exec (.mmaJobStart core) s = .next t ∧ SameMem s t ∧ (t.core core).jobs = j' :: rest ∧ j'.start = some st
      ∧ j'.c = j.c ∧ j'.q = j.q ∧ j'.w = j.w ∧ j'.steps = j.steps ∧ (t.core core).seqFree = st + 128 * j.steps))
  ∧ (∀ (s : State) (core st : Nat) (g : Group) (o : PendOp) (j : Job) (rest : List Job) (r : QRec), (s.core core).jobs = j :: rest →
    j.start = some st → (s.core core).rec? j.q = some r → j.endCycle st (blocksOf r.fmt) ≤ s.cycle → j.gather = none → j.grp = g.ref →
    j.op = o.id → OpOf s g o → o.kind = .mma 1 → ∃ t g', exec (.mmaJobEnd core) s = .next t ∧ OpEnded s t g g' o ∧ SameMem s t
      ∧ (t.core core).jobs = rest ∧ g' = { g with v := g'.v }
      ∧ (∀ m k, m < 32 → k < 64 → g'.getP (j.c + k) m = ((s.core core).jobRow j r (j.steps * blocksOf r.fmt) m
          ((List.range 64).map fun i => if j.acc then g.getP (j.c + i) m else 0)).getD k 0)
      ∧ ∀ x l, l < 32 → x < j.c ∨ j.c + 64 ≤ x → g'.getP x l = g.getP x l)
  ∧ (∀ (s : State) (core st m : Nat) (gl xs : List Nat) (g : Group) (o : PendOp) (j : Job) (rest : List Job) (r : QRec) (w : Workgroup),
    (s.core core).jobs = j :: rest → j.start = some st → (s.core core).rec? j.q = some r → j.endCycle st (blocksOf r.fmt) ≤ s.cycle →
    j.gather = some (gl, xs) → j.rows = [m] → j.halves = 0 → j.grp = g.ref → j.op = o.id → OpOf s g o → o.kind = .mma 1 →
    s.wgOf g = some w → ∃ t w', exec (.mmaJobEnd core) s = .next t ∧ OpEnded s t g g o ∧ SameMem s t ∧ (t.core core).jobs = rest
      ∧ t.wgOf g = some w'
      ∧ (∀ k, k < 64 →
        let y := ((s.core core).jobRow j r (j.steps * blocksOf r.fmt) m (List.replicate 64 0)).getD k 0
        let old : Word := BitVec.ofNat 32 (w.nat (xs.getD m 0 + 4 * k) 4)
        w'.nat (xs.getD m 0 + 4 * k) 4 = if j.st then y.toNat else (addF fp32 .rne (dec32 old) (dec32 y)).1 % 2 ^ 32)
      ∧ ∀ b, b < xs.getD m 0 ∨ xs.getD m 0 + 256 ≤ b → w'.byte b = w.byte b)
  ∧ (∀ (xs ys : List Int) (ea eb : Int), xs.length = ys.length → xs ≠ [] →
    blockSum false (xs.map fun x => ofInt x ea) (ys.map fun y => ofInt y eb) = .fin (List.zipWith (· * ·) xs ys).sum (ea + eb))
  ∧ ∀ (c : Core) (j : Job) (r : QRec) (sl : Slot) (m col : Nat), r.fmt = .i8 → r.sc = false → j.steps = 1 →
    (j.tiles.find? fun e => e.1 == j.slotOf 0) = some (j.slotOf 0, sl) → sl.fmt = .i8 → sl.scaled = false →
    (c.opbuf.map Prod.fst).Nodup → (sl.tile.map Prod.fst).Nodup → col < 64 →
    let a := fun k => (sget (0 : Byte) c.opbuf (256 * (r.base + j.rowOf 0 m) + k)).toInt
    let b := fun k => (sget (0 : Byte) sl.tile (256 * col + k)).toInt
    let P := ((List.range 256).map fun k => a k * b k).sum
    let e := Nat.log2 P.natAbs
    ((c.jobRow j r 1 m (List.replicate 64 0)).getD col 0).toNat =
      if P = 0 then 0 else (if P < 0 then 2 ^ 31 else 0) + (127 + e) * 2 ^ 23 + (P.natAbs * 2 ^ (23 - e) - 2 ^ 23)

/-- LAP_START, BALE_INJECT, ARM, ARRIVE, HELD_HEADER_FORWARD and VERDICT (R275, R276, R280 to R286): a PACED lap begins at its time, with its
new pace; a bale that the feeder may inject enters the ring with its MAC and CRC; a board that arms waits for the lap that R284 names; a
header passes its tap, waits there or leaves the ring no earlier than R276 tells; a capture's verdict fills or poisons the slot, writes
S[d], and leaves the flag to clear in the next cycle. -/
def Obligations.WindrowStepsCarryBales : Prop :=
  (∀ (s : State) (k : Nat) (c : Circuit), s.circuits[k]? = some c →
    (c.mode = 2 → c.st = .running → c.begun = false → c.epoch + c.lap * c.period ≤ s.gtime →
      ∃ t, exec (.lapStart k) s = .next t ∧ SameMem s t
        ∧ ∃ c' ∈ t.circuits, c' = { c with begun := true, pace := c.nextPace.getD c.pace, nextPace := none })
    ∧ (∀ (s0 s1 : State) (bs : List Byte) (ok : Bool) (noise : HopNoise), s.circuits = [c] → c.mayInject s.cycle = true →
      s.laneFree c = true →
      let va := ((c.layers[(c.posOf c.lap c.ord).1]?).map fun e => e.1 + Config.baleBytes * (c.posOf c.lap c.ord).2).getD 0
      let admitted := s.takeRequest c.cx (if regionOf va == .pod then [] else [clsHbm]) Config.baleBytes
      (admitted = none → exec (.baleInject k noise) s = .next s)
      ∧ (admitted = some s0 → s0.readBale c va = (s1, some (bs, ok)) → s1.circuits = [c] → s1.ops = [] →
        (baleOf c bs ok s.cycle).poison = false → c.ord + 1 < c.bales →
        (noise.hop = 0 → ({ (baleOf c bs ok s.cycle).coded (((s1.ctx? c.cx).map Context.memKey).getD 0) with
          flips := noise.flips, hop := noise.hop }).crcOk 0 = true) → ∃ t c', exec (.baleInject k noise) s = .next t ∧ SameMem s1 t
          ∧ t.circuits = [c'] ∧ c'.ord = c.ord + 1 ∧ c'.lap = c.lap
          ∧ c'.ring = c.ring ++ [{ (baleOf c bs ok s.cycle).coded (((s1.ctx? c.cx).map (·.memKey)).getD 0) with
              flips := noise.flips, hop := noise.hop }])))
  ∧ (∀ (s : State) (a : ArmMsg) (c : Circuit) (e : Nat × Nat) (late : Nat), s.arms = [a] → a.un = none → a.issued + 8 ≤ s.cycle →
    s.circ? a.cx a.circ = some c → c.over = false → c.layers[a.layer]? = some e → a.bale < e.2 →
    let sl := (s.core a.grp.core).slot a.slot
    sl.owner = none ∨ sl.owner = some a.grp → sl.board = none →
    let target := s.boardTarget c (a.grp.core / 32) a.layer a.bale late a.nw
    (target.2 = true → a.nw = false) → ∃ t b, exec (.arm 0 late) s = .next t ∧ t.arms = [] ∧ SameMem s t
      ∧ ((t.core a.grp.core).slot a.slot).owner = some a.grp ∧ ((t.core a.grp.core).slot a.slot).board = some b ∧ b.st = .armed
      ∧ b.op = a.op ∧ b.circ = c.id ∧ b.layer = a.layer ∧ b.bale = a.bale ∧ b.target = target.1)
  ∧ (∀ (s : State) (c : Circuit) (b : Bale) (cl : Nat), s.circuits = [c] → c.ring = [b] → cl < 24 → b.passed.getLsbD cl = false →
    (cl = 0 ∨ b.passed.getLsbD (cl - 1) = true) → c.st = .running → s.kernels = [] → s.ops = [] → s.waiting c b cl = [] →
    (b.hop = cl → b.crcOk cl = true ∨ b.poison = true) →
    (b.heldAt = none → s.cycle < b.at_ + transit cl → exec (.arrive 0 0 cl) s = .next s)
    ∧ (b.heldAt = none → b.at_ + transit cl ≤ s.cycle → ∃ t c' b', exec (.arrive 0 0 cl) s = .next t ∧ SameMem s t ∧ t.circuits = [c']
      ∧ c'.ring = [b'] ∧ b' = { b with passed := b.passed ||| BitVec.ofNat 24 (2 ^ cl), heldFor := [] })
    ∧ (b.heldAt = some cl → s.cycle < s.heldUntil b → exec (.heldHeaderForward 0 0 cl) s = .next s)
    ∧ (b.heldAt = some cl → s.heldUntil b ≤ s.cycle → ∃ t c' b', exec (.heldHeaderForward 0 0 cl) s = .next t ∧ SameMem s t ∧ t.circuits = [c'] ∧ c'.ring = [b']
      ∧ b'.passed = b.passed ||| BitVec.ofNat 24 (2 ^ cl) ∧ b'.heldAt = none
      ∧ b'.at_ = b.at_ + (s.cycle - (b.at_ + transit cl))))
  ∧ (∀ (s : State) (c : Circuit) (b : Bale), s.circuits = [c] → c.ring = [b] → b.passed.getLsbD 23 = true → b.heldAt = none →
    c.st = .running → exec (.arrive 0 0 24) s = .next (if s.cycle < b.at_ + 116 then s else { s with circuits := [{ c with ring := [] }] }))
  ∧ ∀ (s : State) (core k left : Nat) (b : Board) (g : Group) (o : PendOp) (d w : Nat) (tapFails : Bool),
    ((s.core core).slot k).board = some b → ((s.core core).slot k).owner = some g.ref → b.st = .capturing → b.at_ + 19 ≤ s.cycle →
    b.op = o.id → b.lowest = true → OpOf s g o → o.kind = .board d left w → left ≤ 1 → ((b.macBad || tapFails) = true → b.bad = true) →
    ∃ t g' o', exec (.verdict core k tapFails) s = .next t ∧ SameMem s t ∧ t.op? o.id = some o' ∧ o'.kind = .board d 0 (s.cycle + 1)
      ∧ t.group? g.ref = some g' ∧ g' = { g with s := g'.s }
      ∧ (∀ r, g'.getS r = if r = d then BitVec.ofNat 32 (b.lap % 2 ^ 24 * 256 + if b.bad = true then 2 else 0) else g.getS r)
      ∧ ((t.core core).slot k).owner = some g.ref ∧ ((t.core core).slot k).board = none
      ∧ ((t.core core).slot k).st = (if b.bad = true then .poisoned else .full)
      ∧ (b.bad = false → ((t.core core).slot k).tile = b.tile ∧ ((t.core core).slot k).scales = b.scales)

/-- HOSTACK, SPLIT_WATCHDOG, IMPRECISE_STORE_FAULT, HALT_REQUEST and BREAKPOINT_SET (R83, R150, R156 to R158, R160): the host writes one
word of the frame; a split that is due gets one held WATCHDOG; a failed walk of a group that has gone writes its record; a debugger acts
on a context that was locked with DEBUG, on its resident groups and on those of its images, where a single step of a sealed one is latched
as BREAK. -/
def Obligations.HostAndDebugSteps : Prop :=
  (∀ (s : State) (core gctx : Nat) (val : Word) (g : Group) (c : Context), s.group? { core := core, gctx := gctx } = some g →
    s.ctx? g.cx = some c →
    let pa := c.slotAddr g.ref + 0x3C
    PlainLine s (State.physKey g.cx pa) → pa % 128 ≤ 124 → ∃ t, exec (.hostack core gctx val) s = .next t ∧ t.groups = s.groups
      ∧ ∀ a, t.byte a = if pa ≤ a ∧ a < pa + 4 then BitVec.ofNat 8 (val.toNat / 256 ^ (a - pa)) else s.byte a)
  ∧ (∀ (s : State) (core gctx split : Nat) (g : Group) (p : Split) (c : Context), s.group? { core := core, gctx := gctx } = some g →
    g.split? split = some p → s.ctx? g.cx = some c →
    let due := c.bindRec.wdog ≠ 0 ∧ 2250000 * c.bindRec.wdog ≤ 2 * (s.cycle - p.progress)
    let known := ∃ h ∈ g.held, h.split = split ∧ h.cause = cWATCHDOG
    (due → ¬ known → ∃ t g' h, exec (.splitWatchdog core gctx split) s = .next t ∧ OnlyGroup s t g g' ∧ g' = { g with held := g.held ++ [h] }
      ∧ h.split = split ∧ h.cause = cWATCHDOG ∧ h.lanes = p.exec ∧ h.pc = p.pc)
    ∧ (¬ due ∨ known → exec (.splitWatchdog core gctx split) s = .next s))
  ∧ (∀ (s : State) (core gctx k : Nat) (w : FailedWalk),
    (s.walks.filter fun w => w.site.grp == { core := core, gctx := gctx })[k]? = some w →
    (∀ g p, s.group? w.site.grp = some g → g.uid = w.site.uid →
      g.split? w.site.split = some p → p.commits = w.commits → exec (.impreciseStoreFault core gctx k) s = .next s)
    ∧ ((∀ g, s.group? w.site.grp = some g → g.uid ≠ w.site.uid) → (∀ r ∈ s.kernelChain w.site.cx w.site.kernel, r.fdlog = 0) →
      policyOf (s.kernelChain w.site.cx w.site.kernel) = 1 →
      exec (.impreciseStoreFault core gctx k) s = .next { s with walks := s.walks.filter fun x => x != w,
                                                                 hostEvents := s.hostEvents ++ [.faultLog w.site.cx 1] }))
  ∧ (∀ (s : State) (cx : Nat) (c : Context), s.ctx? cx = some c →
      let dbg := c.bindRec.debug = true ∧ c.st ≠ .bound ∧ c.st ≠ .retired
      ∃ t, exec (.haltRequest cx) s = .next t ∧ t = { s with groups := t.groups, images := t.images } ∧ SameMem s t
      ∧ (dbg → ∀ r, t.group? r = (s.group? r).map fun g => if g.cx = cx then { g with brk := true } else g)
      ∧ (dbg → ∀ im ∈ t.images, im.cx = cx → ∀ g ∈ im.groups, g.brk = true) ∧ (¬ dbg → t = s))
  ∧ (∀ (s : State) (cx : Nat) (c : Context) (a : DWord), s.ctx? cx = some c →
    let dbg := c.bindRec.debug = true ∧ c.st ≠ .bound ∧ c.st ≠ .retired
    (¬ dbg → ∀ on, exec (.breakpointSet (.breakpoint cx a on)) s = .next s)
    ∧ (dbg → ∃ t c', exec (.breakpointSet (.breakpoint cx a false)) s = .next t ∧ t = { s with ctxs := t.ctxs }
      ∧ t.ctx? cx = some c' ∧ c' = { c with breakpoints := c'.breakpoints } ∧ ∀ b, b ∈ c'.breakpoints ↔ b ∈ c.breakpoints ∧ b ≠ a.toNat)
    ∧ (dbg → c.breakpoints.length < 16 → ∃ t c', exec (.breakpointSet (.breakpoint cx a true)) s = .next t
      ∧ t = { s with ctxs := t.ctxs } ∧ t.ctx? cx = some c' ∧ c' = { c with breakpoints := c'.breakpoints }
      ∧ ∀ b, b ∈ c'.breakpoints ↔ b ∈ c.breakpoints ∨ b = a.toNat))
  ∧ (∀ (s : State) (core gctx : Nat) (on : Bool) (g : Group) (c : Context), s.group? { core := core, gctx := gctx } = some g →
    s.ctx? g.cx = some c →
    let dbg := c.bindRec.debug = true ∧ c.st ≠ .bound ∧ c.st ≠ .retired
    (dbg → ∃ t, exec (.breakpointSet (.step core gctx on)) s = .next t ∧ OnlyGroup s t g { g with step := on })
    ∧ (¬ dbg → exec (.breakpointSet (.step core gctx on)) s = .next s))
  ∧ ∀ (s : State) (core gctx : Nat) (on : Bool) (im : Image) (g : Group) (c : Context), s.group? { core := core, gctx := gctx } = none →
    s.images = [im] → im.groups = [g] → g.ref = { core := core, gctx := gctx } → s.ctx? im.cx = some c → c.bindRec.debug = true →
    c.st ≠ .bound → c.st ≠ .retired → exec (.breakpointSet (.step core gctx on)) s = .next
      { s with images := [{ im with groups := [{ g with step := on, brk := g.brk || (on && im.reason == .seal) }] }] }

/-- The commands of R72 and R76: one that R72 does not list for the context's state answers BADSTATE, one that belongs to TDISP answers
TDIOWNED, an unbound CXID BADCXID; none has another effect. While a command is under way, and in recovery state, GO is ignored. BIND,
LOCK, UNLOCK, START, SEAL and RESTORE (R72, R76 to R82): a context that takes a slot loads its keys, unwrapped where it was sealed, into
the key slot; where no slot is free the answer is NOSLOT, and where a context of its sectors holds one NORES (of both, NOSLOT is the
model's choice, log 43; that START and RESTORE answer BADSTATE while a warm reset goes on is its choice too, log 52; so is what a hard
bind does to the pools of others, log 51). -/
def Obligations.ContextCommandsFollowTheTable : Prop :=
  (let every := fun (P : (Nat → Instr) → Nat → Bool → List CxState → Prop) =>
    P .lock 2 true [.bound] ∧ P .unlock 3 true [.locked] ∧ P .start 4 true [.locked] ∧ P .sealCx 5 false [.run]
    ∧ P .restore 6 false [.sealed] ∧ P .reset 7 false [.run, .sealing, .restoring, .halted]
    ∧ P .flr 8 false [.bound, .locked, .run, .sealing, .sealed, .restoring, .halted, .error]
    ∧ P .retire 9 false [.bound, .locked, .sealed, .halted, .error] ∧ P .release 10 false [.retired]
    ∧ P .stop 11 true [.locked, .run, .sealing, .sealed, .restoring, .halted, .error]
  every fun i op tdi states => ∀ (s : State) (cx : Nat), cx < 65536 →
    let ends := fun (err : Nat) => ∃ t, exec (i cx) s = .next t ∧ t = { s with bar := { s.bar with cmd := t.bar.cmd } } ∧ Answered t op cx err
    (s.bar.cmd.pending ≠ none ∨ s.modl.recovery = true → exec (i cx) s = .next s)
    ∧ (s.modl.recovery = false → s.bar.cmd.pending = none → s.bar.dirN.toNat ≤ cx ∨ s.ctx? cx = none → ends 5)
    ∧ ∀ c, Commands s cx c → c.cxid = cx → (tdi = true → c.bindRec.tdi = true → ends 7)
      ∧ ((tdi = true → c.bindRec.tdi = false) → c.st ∉ states → ends 2))
  ∧ ((∀ (s : State) (cx : Nat) (r : BindRec) (first far : Nat), s.modl.recovery = false → s.bar.cmd.pending = none → cx < 65536 →
    cx < s.bar.dirN.toNat → s.ctx? cx = none → s.bar.cmd.arg.toNat % 128 = 0 → (s.hvRead s.bar.cmd.arg.toNat 128).bind bindRecOf = some r →
    s.saveFits r = true → s.bindFits r = true → s.freeRun r.queues = some first → s.farHomeFor r.hard = some far →
    (r.hard = 0 ∨ ∀ x ∈ s.ctxs, x.bindRec.hard ≠ 0) → ∃ t c, exec (.bind cx) s = .next t ∧ Answered t 1 cx 0 ∧ t.bar.cmd.arg = BitVec.ofNat 64 first ∧ SameMem s t
      ∧ t.ctxs = (s.ctxs.map fun x => if r.hard = 0 ∨ x.bindRec.hard = r.hard then x
        else { x with poolLocal := x.poolLocal.filter fun f => !inStacks r.hard f }) ++ [c]
      ∧ c.cxid = cx ∧ c.st = .bound ∧ c.bindRec = r ∧ c.firstIface = first ∧ c.farHome = far ∧ c.gen = 1 ∧ c.slot = false ∧ c.keySlot = none
      ∧ c.pages = []
      ∧ t.queues = s.queues ++ (List.range r.queues).map fun i => { iface := first + i, cx := cx, st := .detached })
  ∧ ∀ (s : State) (cx : Nat) (c : Context), Commands s cx c → c.cxid = cx →
    let sent := fun (op : Nat) => ({ s with bar := { s.bar with cmd := { s.bar.cmd with cxid := BitVec.ofNat 16 cx,
                                                                                        op := BitVec.ofNat 8 op } } } : State)
    let held := (s.ctxs.filter fun x => x.slot).length
    let partner := c.bindRec.hard ≠ 0 ∧ ∃ x ∈ s.ctxs, x.slot = true ∧ x.cxid ≠ cx ∧ x.bindRec.hard = c.bindRec.hard
    (c.bindRec.tdi = false → c.st = .bound → ∃ t, exec (.lock cx) s = .next t ∧ Answered t 2 cx 0
      ∧ OnlyContext s t c { c with st := .locked })
    ∧ (c.bindRec.tdi = false → c.st = .locked → ∃ t, exec (.unlock cx) s = .next t ∧ Answered t 3 cx 0
      ∧ OnlyContext s t c { c with st := .bound, keySet := false })
    ∧ (s.modl.recovering ≠ none → (c.bindRec.tdi = false → c.st = .locked → ∃ t, exec (.start cx) s = .next t ∧ Answered t 4 cx 2
        ∧ t = { s with bar := t.bar })
      ∧ (c.st = .sealed → ∃ t, exec (.restore cx) s = .next t ∧ Answered t 6 cx 2 ∧ t = { s with bar := t.bar }))
    ∧ (s.modl.recovering = none → c.bindRec.tdi = false → c.st = .locked → held < 64 → ¬ partner → ∀ s1 r s2 c2,
      (sent 4).readRcb cx c.bindRec.rootRcb = (s1, some r) → s1.fixTables cx = some s2 → s2.ctx? cx = some c2 →
      ∃ t, exec (.start cx) s = .next t ∧ Answered t 4 cx 0 ∧ SameMem s2 t
        ∧ t.ctx? cx = some { c2 with st := .run, slot := true, keySlot := some (c2.memKey, c2.granKey, c2.transKey), dsqPaused := false,
                                     wdogFrom := s.cycle,
                                     gran := { c2.gran with replayed := !c2.gran.pendingReq } }
        ∧ ∀ q ∈ t.queues, q.cx = cx → q.iface ≠ 4096 → q.st ≠ .detached)
    ∧ (s.modl.recovering = none → c.bindRec.tdi = false → c.st = .locked → 64 ≤ held ∨ partner → ∃ t, exec (.start cx) s = .next t
      ∧ Answered t 4 cx (if 64 ≤ held then 3 else 4) ∧ t = { s with bar := t.bar })
    ∧ (s.modl.recovering = none → c.st = .sealed → held < 64 → ¬ partner →
      let u := c.unwrapKeys s.modl.sealingKey
      ∃ t, exec (.restore cx) s = .next t ∧ t.bar.cmd.pending = some (6, cx)
        ∧ OnlyContext s t c { u with st := .restoring, slot := true, keySlot := some (u.memKey, u.granKey, u.transKey),
                                     gran := { c.gran with replayed := false } })
    ∧ (s.modl.recovering = none → c.st = .sealed → 64 ≤ held ∨ partner → ∃ t, exec (.restore cx) s = .next t ∧ Answered t 6 cx (if 64 ≤ held then 3 else 4)
      ∧ t = { s with bar := t.bar })
    ∧ (c.st = .run → (∀ w ∈ s.wgs, w.cx ≠ cx) → ∃ t, exec (.sealCx cx) s = .next t ∧ t.bar.cmd.pending = some (5, cx) ∧ SameMem s t
      ∧ t.ctx? cx = some { c with st := .sealing, dsqPaused := true } ∧ t.groups = s.groups
      ∧ (∀ q ∈ t.queues, q.cx = cx → q.iface ≠ 4096 → q.st = .paused ∨ q.st = .error ∨ q.st = .detached)
      ∧ ∀ x ∈ t.circuits, x.cx = cx → x.st ≠ .running))

/-- RESET, FLR, STOP, RETIRE, RELEASE and TDIERROR (R72, R75, R86, R97, R322): the work of the context is discarded. *reset* leaves it
LOCKED, a TDI in ERROR; *flr* and *stop* leave it BOUND under the next generation with its queues DETACHED; *retire* returns its frames;
*release* frees its CXID. LOCK_INTERFACE_REQUEST, START_INTERFACE_REQUEST and STOP_INTERFACE_REQUEST (R345, R353, R354): only in a
session whose requester has the ML-DSA-65 signature, only for a TDI, and the last two only in the session that locked it; each is answered
with the interface state that R71 gives the TDI. A TDI whose IDE stream has no key is not locked (R352 wants the stream; that the request
then has no effect is DEDUCED by the model, log 36). -/
def Obligations.ContextsEndAndTdisp : Prop :=
  ((∀ (s : State) (cx : Nat) (c : Context), Commands s cx c → c.cxid = cx →
    let erased := fun (t : State) (st : CxState) => ∃ c', t.ctx? cx = some c' ∧ c'.st = st ∧ c'.slot = false ∧ c'.dsq = []
      ∧ c'.sheafFixed = false ∧ c'.session = none ∧ (c.gen ≠ 65535 → c'.gen = c.gen + 1) ∧ (c.gen = 65535 → c'.gen = 1)
      ∧ (∀ q ∈ t.queues, q.cx = cx → q.iface ≠ 4096 → q = { iface := q.iface, cx := cx, st := .detached })
    (c.st ∈ [CxState.run, .sealing, .restoring, .halted] → ∃ t c', exec (.reset cx) s = .next t ∧ Answered t 7 cx 0 ∧ NoWork t cx
      ∧ t.ctx? cx = some c' ∧ c'.st = (if c.bindRec.tdi = true then .error else .locked) ∧ c'.slot = false ∧ c'.dsq = [] ∧ c'.gen = c.gen
      ∧ ∀ q ∈ t.queues, q.cx = cx → q.iface ≠ 4096 → q.st = .detached ∨ q.st = .paused ∧ q.rdidx = q.wridx ∧ q.inflight = [])
    ∧ (c.st ∈ [CxState.bound, .locked, .run, .sealing, .sealed, .restoring, .halted, .error] →
      ∃ t, exec (.flr cx) s = .next t ∧ Answered t 8 cx 0 ∧ NoWork t cx ∧ erased t .bound)
    ∧ (c.bindRec.tdi = false → c.st ∈ [CxState.locked, .run, .sealing, .sealed, .restoring, .halted, .error] →
      ∃ t, exec (.stop cx) s = .next t ∧ Answered t 11 cx 0 ∧ NoWork t cx ∧ erased t .bound)
    ∧ (c.st ∈ [CxState.bound, .locked, .sealed, .halted, .error] →
      ∃ t c', exec (.retire cx) s = .next t ∧ Answered t 9 cx 0 ∧ NoWork t cx ∧ erased t .retired ∧ t.ctx? cx = some c'
        ∧ c'.poolLocal = [] ∧ c'.poolFar = [] ∧ c'.farMeta = [] ∧ c'.pages = [] ∧ c'.inUse = 0
        ∧ ∀ d ∈ t.modl.domains, d.granted ≠ some cx)
    ∧ (c.st = .retired → ∃ t, exec (.release cx) s = .next t ∧ Answered t 10 cx 0 ∧ SameMem s t ∧ t.ctx? cx = none
      ∧ (∀ x, x ≠ cx → t.ctx? x = s.ctx? x) ∧ ∀ q ∈ t.queues, q.cx = cx → q.iface = 4096))
  ∧ ∀ (s : State) (cx : Nat) (c : Context), s.ctx? cx = some c →
    let hit := c.bindRec.tdi = true ∧ c.st ∈ [CxState.locked, .run, .sealing, .sealed, .restoring, .halted]
    (hit → ∃ t c', exec (.tdierror cx) s = .next t ∧ NoWork t cx ∧ t.ctx? cx = some c' ∧ c'.st = .error ∧ c'.slot = false)
    ∧ (¬ hit → exec (.tdierror cx) s = .next s))
  ∧ (∀ (s : State) (cx sess stream : Nat),
    let requests := [Instr.lockInterfaceRequest cx sess stream, .startInterfaceRequest cx sess, .stopInterfaceRequest cx sess]
    (∀ i ∈ requests, s.session? sess = none ∨ s.ctx? cx = none → exec i s = .next s)
    ∧ ∀ c x, s.ctx? cx = some c → s.session? sess = some x →
      (∀ i ∈ requests, c.bindRec.tdi = false → exec i s = .next s)
      ∧ (∀ i ∈ requests.tail, c.session ≠ some sess → exec i s = .next s)
      ∧ ((∀ e ∈ s.modl.ideStreams, e.1 ≠ stream) → exec (.lockInterfaceRequest cx sess stream) s = .next s)
      ∧ (let told : State := { s with hostEvents := s.hostEvents ++ (tdispOf c.st).toList.map fun r => HostEvent.tdispState cx r }
      (c.bindRec.tdi = true → (∃ e ∈ s.modl.ideStreams, e.1 = stream) → c.st ≠ .bound →
        exec (.lockInterfaceRequest cx sess stream) s = .next told)
      ∧ (c.bindRec.tdi = true → (∃ e ∈ s.modl.ideStreams, e.1 = stream) → c.st = .bound →
        ∃ t, exec (.lockInterfaceRequest cx sess stream) s = .next t ∧ OnlyContext s { t with hostEvents := s.hostEvents } c
          { c with st := .locked, session := some sess, stream := some stream,
                   transKey := Config.hkdf x.secret (transInfo cx c.gen), noSession := false }
          ∧ t.hostEvents = s.hostEvents ++ [.tdispState cx .configLocked])
      ∧ (c.bindRec.tdi = true → c.session = some sess →
        (c.st ≠ .locked ∨ s.modl.recovering ≠ none → exec (.startInterfaceRequest cx sess) s = .next told)
        ∧ (c.st = .locked → s.modl.recovering = none → (s.ctxs.filter fun x => x.slot).length < 64 →
          ¬ (c.bindRec.hard ≠ 0 ∧ ∃ x ∈ s.ctxs, x.slot = true ∧ x.cxid ≠ cx ∧ x.bindRec.hard = c.bindRec.hard) → ∀ s1 r s2 c2,
          s.readRcb cx c.bindRec.rootRcb = (s1, some r) → s1.fixTables cx = some s2 → s2.ctx? cx = some c2 →
          ∃ t c', exec (.startInterfaceRequest cx sess) s = .next t ∧ SameMem s2 t ∧ t.ctx? cx = some c' ∧ c'.st = .run ∧ c'.slot = true
            ∧ HostEvent.tdispState cx .run ∈ t.hostEvents
            ∧ ∀ q ∈ t.queues, q.cx = cx → q.iface ≠ 4096 → q.st ≠ .detached)
        ∧ (c.st ∈ [CxState.bound, .retired] → exec (.stopInterfaceRequest cx sess) s = .next told)
        ∧ (c.st ∈ [CxState.locked, .run, .sealing, .sealed, .restoring, .halted, .error] →
          ∃ t c', exec (.stopInterfaceRequest cx sess) s = .next t ∧ NoWork t cx ∧ t.ctx? cx = some c' ∧ c'.st = .bound
            ∧ c'.session = none ∧ c'.stream = none ∧ HostEvent.tdispState cx .configUnlocked ∈ t.hostEvents))))

/-- SAVED, RESTORED, GRANARY_REPLAY, CONTEXT_WATCHDOG_EXPIRY and REGISTER_WRITE (R74, R76, R80 to R82, R85, R349, R364): a sealed context's
keys are wrapped and its key slot is cleared; it is RUN again when its image is back and its granary replayed, the watches of the image
before that; a watchdog that expires halts its context (the cause number 2 of the host event is the model's, log 44); the command register
of the BAR is a second way to each command. -/
def Obligations.SaveEngineWatchdogAndBar : Prop :=
  (∀ (s : State) (cx : Nat) (c : Context), s.ctx? cx = some c →
    let saved := (∀ im ∈ s.images, im.cx = cx → im.complete = true) ∧ ∀ k ∈ s.copies, k.cx ≠ cx
    let back := ∀ im ∈ s.images, im.cx = cx → im.reason ≠ .seal
    let noWatch := ∀ o ∈ s.ops, o.flag ≠ flagRecorded
    let answered := fun (t : State) => (s.bar.cmd.pending.map (·.2) = some cx → t.bar.cmd.pending = none ∧ t.bar.cmd.err = 0
      ∧ t.bar.cmd.st = BitVec.ofNat 4 (t.cxStCode cx)) ∧ (s.bar.cmd.pending.map (·.2) ≠ some cx → t.bar = s.bar)
    let expired := c.st = .run ∧ c.bindRec.wdog ≠ 0 ∧ (∃ k ∈ s.kernels, k.cx = cx ∧ k.inPool = true)
      ∧ c.wdogFrom + 2250000 * c.bindRec.wdog ≤ s.cycle
    (c.st = .sealing → saved → ∃ t, exec (.saved cx) s = .next t ∧ OnlyContext s t c
      { c with st := .sealed, slot := false, keySlot := none,
               wrapped := [c.memKey, c.granKey, c.transKey].map (keyWrap s.modl.sealingKey), memKey := 0, granKey := 0, transKey := 0 }
      ∧ answered t)
    ∧ (c.st ≠ .sealing ∨ ¬ saved → exec (.saved cx) s = .next s)
    ∧ (c.st = .restoring → c.gran.replayed = true → back → ∃ t c', exec (.restored cx) s = .next t ∧ (noWatch → SameMem s t) ∧ t.ctx? cx = some c'
      ∧ c'.st = .run ∧ c'.dsqPaused = false ∧ answered t
      ∧ ∀ q ∈ t.queues, q.cx = cx → q.iface ≠ 4096 → q.spause = true → q.st ≠ .paused ∧ q.st ≠ .error)
    ∧ (c.st ≠ .restoring ∨ c.gran.replayed = false ∨ ¬ back → exec (.restored cx) s = .next s)
    ∧ (c.gran.replayed = true ∨ c.st ≠ .run ∧ ¬ (c.st = .restoring ∧ back) → exec (.granaryReplay cx) s = .next s)
    ∧ (c.gran.replayed = false → c.st = .run ∨ c.st = .restoring ∧ back → (∀ e ∈ c.gran.recs, e.2.2.isReq = false) → noWatch →
      ∃ t, exec (.granaryReplay cx) s = .next t ∧ OnlyContext s t c { c with gran := { c.gran with replayed := true } })
    ∧ (expired → ∃ t c', exec (.contextWatchdogExpiry cx) s = .next t ∧ t.ctx? cx = some c' ∧ c'.st = .halted ∧ c'.dsqPaused = true
      ∧ HostEvent.cxFault cx 2 ∈ t.hostEvents
      ∧ ∀ q ∈ t.queues, q.cx = cx → q.iface ≠ 4096 → q.st = .paused ∨ q.st = .error ∨ q.st = .detached)
    ∧ (¬ expired → exec (.contextWatchdogExpiry cx) s = .next s))
  ∧ ∀ (s : State) (v : DWord),
    let go := fun (i : Nat → Instr) (op : Nat) => ∀ cx, cx < 65536 → v.extractLsb' 0 32 = BitVec.ofNat 32 (2 ^ 31 + 256 * cx + op) →
      s.modl.recovery = false → exec (.registerWrite 0x100 v) s = exec (i cx) s
    (∀ off, s.modl.recovery = true → exec (.registerWrite off v) s = .next s)
    ∧ go .bind 1 ∧ go .lock 2 ∧ go .unlock 3 ∧ go .start 4 ∧ go .sealCx 5 ∧ go .restore 6 ∧ go .reset 7 ∧ go .flr 8 ∧ go .retire 9
    ∧ go .release 10 ∧ go .stop 11
    ∧ (s.modl.recovery = false → exec (.registerWrite 0x108 v) s = .next { s with bar := { s.bar with cmd := { s.bar.cmd with arg := v } } })
    ∧ (s.ctxs ≠ [] → exec (.registerWrite 0x110 v) s = .next s ∧ exec (.registerWrite 0x118 v) s = .next s)
    ∧ (s.modl.recovery = false → s.ctxs = [] →
      exec (.registerWrite 0x118 v) s = .next { s with bar := { s.bar with dirN := v.extractLsb' 0 17 } })

/-- The register writes of a notify page (R88, R90 to R92): DOORBELL, QBASE_QSIZE_WRITE, PAUSE, RESUME, CLEARERR and QUEUE_DRAIN act as the
transition table says for the queue's state, and on that queue alone (that a doorbell in ACTIVE which makes WRIDX equal RDIDX leaves the
queue IDLE is the model's choice, log 45: no row of the table says it); a TDI's page that is reached on another stream is an Unsupported
Request (R352). Consumption (R91 to R95, R116): no step consumes while no command waits, while the limiter of the host port holds its read,
while a FENCE or SIGNAL waits, or another operation's step; an access that the host refuses raises *invalid* XLATE, a command that fails
its checks the code of the first check that fails, one on a context in another state CXSTATE (the order of the checks is the model's where
R92 gives none, log 45). -/
def Obligations.QueuesAndCommandChecks : Prop :=
  (∀ (s : State) (n : Nat) (q : Queue), s.queue? n = some q → ¬ (n = 4096 ∧ s.modl.recovery = true) →
    let becomes := fun (i : Instr) (P : Queue → Prop) => ∃ t q', exec i s = .next t ∧ t = { s with queues := t.queues }
      ∧ t.queue? n = some q' ∧ P q' ∧ ∀ m, m ≠ n → t.queue? m = s.queue? m
    let size := fun (q : Queue) => 2 ≤ q.qsize ∧ q.qsize ≤ 65536 ∧ ∃ k, q.qsize = 2 ^ k
    let base := fun (q : Queue) => q.qbase % 64 = 0 ∧ q.qbase + 64 * q.qsize ≤ 2 ^ 57
    let fails := fun (q : Queue) (e : Nat) => { q with st := .error, err := e, erridx := q.rdidx }
    let rung := fun (q q' : Queue) =>
      (¬ size q → q' = fails q 2) ∧ (size q → ¬ base q → q' = fails q 1) ∧ (size q → base q → q.qsize ≤ q.wridx → q' = fails q 3)
      ∧ (size q → base q → q.wridx < q.qsize → q' = { q with st := if q.wridx = q.rdidx then .idle else .active })
    let works := q.st = .idle ∨ q.st = .active
    let mine := fun (stream : Option Nat) =>
      ∀ c, n ≠ 4096 → s.ctx? q.cx = some c → c.bindRec.tdi = true → c.stream = none ∨ c.stream = stream
    let refused : State := { s with hostEvents := s.hostEvents ++ [.unsupported n] }
    (∀ (w : Word) (stream : Option Nat),
      (mine stream → works → becomes (.doorbell n w stream) (rung { q with wridx := w.toNat }))
      ∧ (mine stream → q.st = .paused ∨ q.st = .draining ∨ q.st = .error →
        becomes (.doorbell n w stream) (· = { q with wridx := w.toNat }))
      ∧ (mine stream → q.st = .detached → becomes (.doorbell n w stream) (· = q))
      ∧ (¬ mine stream → exec (.doorbell n w stream) s = .next refused))
    ∧ (¬ mine s.hostStream → (∀ r v, exec (.qbaseQsizeWrite n r v) s = .next refused) ∧ exec (.pause n) s = .next refused
      ∧ exec (.resume n) s = .next refused ∧ exec (.clearerr n) s = .next refused ∧ exec (.queueDrain n) s = .next refused)
    ∧ (mine s.hostStream → (∀ v : DWord,
      let writable := q.st = .idle ∧ q.rdidx = q.wridx ∨ q.st = .error
      (writable → becomes (.qbaseQsizeWrite n .qbase v) (· = { q with qbase := v.toNat, rdidx := 0, wridx := 0 })
        ∧ becomes (.qbaseQsizeWrite n .qsize v) (· = { q with qsize := v.toNat % 2 ^ 32, rdidx := 0, wridx := 0 }))
      ∧ (¬ writable → ∀ r, becomes (.qbaseQsizeWrite n r v) (· = q)))
    ∧ (works → becomes (.pause n) (· = { q with st := .paused, gpause := true })) ∧ (¬ works → becomes (.pause n) (· = q))
    ∧ (q.st = .paused → q.spause = true → becomes (.resume n) (· = { q with gpause := false }))
    ∧ (q.st = .paused → q.spause = false → becomes (.resume n) (rung { q with st := .idle, gpause := false }))
    ∧ (q.st ≠ .paused → becomes (.resume n) (· = q))
    ∧ (q.st = .error → becomes (.clearerr n) (· = { q with st := if q.spause = true then .paused else .idle, err := 0,
                                                           wridx := q.rdidx }))
    ∧ (q.st ≠ .error → becomes (.clearerr n) (· = q))
    ∧ (works → q.rdidx ≠ q.wridx ∨ q.inflight ≠ [] →
      becomes (.queueDrain n) (· = { q with st := .draining, drainIdx := q.wridx, dpend := true }))
    ∧ (works → q.rdidx = q.wridx → q.inflight = [] →
      becomes (.queueDrain n) (rung { q with st := .idle, drainIdx := q.wridx, dpend := false }))
    ∧ (¬ works → becomes (.queueDrain n) (· = q))))
  ∧ (∀ (s : State) (n : Nat) (q : Queue), s.queue? n = some q → q.signals = [] →
    let every := fun (P : Instr → Nat → Prop) => P (.launch n) 1 ∧ P (.waitver n) 2 ∧ P (.signal n false) 3 ∧ P (.fence n) 4
      ∧ P (.queueNop n) 5 ∧ P (.circuitInstall n) 6 ∧ P (.circuitRemove n) 6 ∧ P (.circuitRepace n) 6 ∧ P (.setlt n) 7
      ∧ P (.setlayout n) 0x10 ∧ P (.setkey n) 0x11 ∧ P (.setgen n) 0x12
    every fun i opc =>
      let next := q.st = .active ∧ q.rdidx ≠ q.wridx ∨ q.st = .draining ∧ q.rdidx ≠ q.drainIdx
      let admitted := s.admits q.cx (hostClasses n) = true
      let waits := next ∧ admitted
      let ends := fun (e : Nat) => ∃ t, exec i s = .next t ∧ Invalid s t n q e
      let refused := s.hostRefuses (s.pasidOf q) (q.qbase + 64 * q.rdidx) 64 = true
      let bs := sgetRun 0 s.hostMem (hostAddr (s.pasidOf q) (q.qbase + 64 * q.rdidx)) 64
      let known := 1 ≤ fieldNat bs 0 1 ∧ fieldNat bs 0 1 ≤ 7 ∨ 0x10 ≤ fieldNat bs 0 1 ∧ fieldNat bs 0 1 ≤ 0x12
      let fenced := (fieldNat bs 0 1 = 3 ∨ fieldNat bs 0 1 = 4) ∧ q.inflight ≠ []
      (¬ waits → exec i s = .next s)
      ∧ (waits → refused → ends 4)
      ∧ (waits → ¬ refused → fenced → exec i s = .next s)
      ∧ (waits → ¬ refused → ¬ known → ends 5)
      ∧ (waits → ¬ refused → known → n ≠ 4096 → 0x10 ≤ fieldNat bs 0 1 → ends 6)
      ∧ (waits → ¬ refused → ¬ fenced → known → (n ≠ 4096 → fieldNat bs 0 1 ≤ 7) → ¬ allZero bs 4 4 → ends 5)
      ∧ (waits → ¬ refused → ¬ fenced → cmdCheck (n == 4096) bs = 0 → n = 4096 → s.ctx? (fieldNat bs 2 2) = none → ends 10)
      ∧ (waits → ¬ refused → ¬ fenced → cmdCheck (n == 4096) bs = 0 → n = 4096 → ∀ c, s.ctx? (fieldNat bs 2 2) = some c →
        (if 0x10 ≤ fieldNat bs 0 1 then c.st ≠ .bound else c.st ≠ .run) → ends 10)
      ∧ ∀ c, Takes s n q c bs → fieldNat bs 0 1 ≠ opc → exec i s = .next s)

/-- LAUNCH, WAITVER, SIGNAL, FENCE, NOP and SETLT (R91, R93, R94, R98, R99): each has its effect and completes, or waits, or raises *invalid*
with its code; a SIGNAL and a FENCE wait until every earlier command has completed, and a SIGNAL's write until the stores of aborted
kernels are published (R103; how long the model lets it wait is log 45); a SIGNAL that the host refuses sends no MSI-X (DEDUCED by the
model, log 22). A WAITVER on a proxy whose owner is on another module
asks that module for the version while it waits (the model's way to learn of the seal, log 49). -/
def Obligations.GuestCommandsComplete : Prop :=
  (∀ (s : State) (n : Nat) (q : Queue) (c : Context) (bs : List Byte), Takes s n q c bs →
    let opc := fieldNat bs 0 1
    let ends := fun (i : Instr) (e : Nat) => ∃ t, exec i s = .next t ∧ Invalid s t n q e
    let done := fun (i : Instr) (s1 : State) => ∃ t, exec i s = .next t ∧ Consumed s1 t n bs true
    let arg := fieldNat bs 0x18 8
    (opc = 1 → arg % 64 ≠ 0 → ends (.launch n) 7)
    ∧ (opc = 1 → arg % 64 = 0 → s.liveKernels c.cxid ≥ 1024 → s.ctx? c.cxid ≠ none → exec (.launch n) s = .next s)
    ∧ (opc = 1 → arg % 64 = 0 → ∀ s1,
      s.recordKernel c.cxid (fieldNat bs 8 8) (fieldNat bs 0x10 8) arg none (n == 4096) (some (n, q.seq)) = (s1, .recorded) →
      ∃ t k, exec (.launch n) s = .next t ∧ Consumed s1 t n bs false ∧ k ∈ t.kernels ∧ k.cx = c.cxid ∧ k.kdAddr = fieldNat bs 8 8
        ∧ k.launchedBy = some (n, q.seq) ∧ (k.st = .recorded ∨ k.st = .ready ∧ k.deps = []) ∧ t.kernels.length = s.kernels.length + 1)
    ∧ (opc = 1 → arg % 64 = 0 → ∀ s1,
      s.recordKernel c.cxid (fieldNat bs 8 8) (fieldNat bs 0x10 8) arg none (n == 4096) (some (n, q.seq)) = (s1, .badKd) →
      ends (.launch n) 8)
    ∧ (opc = 2 → c.bindRec.sheafN ≤ fieldNat bs 8 2 ∨ 4096 ≤ fieldNat bs 0xA 2 → ends (.waitver n) 7)
    ∧ (opc = 2 → fieldNat bs 8 2 < c.bindRec.sheafN → fieldNat bs 0xA 2 < 4096 →
      (s.sealedAt c.cxid (fieldNat bs 8 2) (fieldNat bs 0xA 2) = true → done (.waitver n) s)
      ∧ (s.sealedAt c.cxid (fieldNat bs 8 2) (fieldNat bs 0xA 2) = false →
        exec (.waitver n) s = .next (s.askVersion c.cxid (fieldNat bs 8 2))))
    ∧ (opc = 3 → q.signals = [] → ∀ refused, q.inflight = [] → fieldNat bs 8 8 % 8 ≠ 0 → ends (.signal n refused) 7)
    ∧ (opc = 3 → q.signals = [] → ∀ refused, q.inflight ≠ [] → exec (.signal n refused) s = .next s)
    ∧ (opc = 3 → q.signals = [] → ∀ refused, fieldNat bs 8 8 % 8 = 0 → q.inflight = [] →
      ∃ t q', exec (.signal n refused) s = .next t
        ∧ t = { s with queues := t.queues, ctxs := (s.spend q.cx (hostClasses n) 64).ctxs } ∧ t.queue? n = some q'
        ∧ q'.inflight = [(q.seq, q.rdidx, fieldNat bs 1 1 == 1)] ∧ q'.rdidx = (q.rdidx + 1) % q.qsize
        ∧ q'.signals = [(q.seq, q.rdidx, fieldNat bs 8 8, BitVec.ofNat 64 (fieldNat bs 0x10 8))])
    ∧ (opc = 4 → q.inflight = [] → done (.fence n) s) ∧ (opc = 4 → q.inflight ≠ [] → exec (.fence n) s = .next s)
    ∧ (opc = 5 → done (.queueNop n) s)
    ∧ (opc = 7 → done (.setlt n) (s.updCtx c.cxid fun c => { c with lt := fieldNat bs 8 4 })))
  ∧ ∀ (s : State) (n seq idx a at_ : Nat) (v : DWord) (irq refused : Bool) (q : Queue), s.queue? n = some q →
    q.signals = [(seq, idx, a, v)] → q.inflight = [(seq, at_, irq)] →
    let place := hostAddr (s.pasidOf q) a
    let turned := refused = true ∨ s.hostRefuses (s.pasidOf q) a 8 = true
    let waits := s.unpublished (if n = 4096 then none else some q.cx)
    (waits = true → exec (.signal n refused) s = .next s)
    ∧ (waits = false → ¬ turned → ∃ t, exec (.signal n refused) s = .next t ∧ t = { s with queues := t.queues, hostMem := t.hostMem, hostEvents := t.hostEvents }
      ∧ (∀ x, sget 0 t.hostMem x = if place ≤ x ∧ x < place + 8 then BitVec.ofNat 8 (v.toNat / 256 ^ (x - place)) else sget 0 s.hostMem x)
      ∧ t.queue? n = some (({ q with signals := [], inflight := [] } : Queue).tryDrained)
      ∧ t.hostEvents = s.hostEvents ++ [HostEvent.hostWrite (s.pasidOf q) a] ++ if irq = true then [HostEvent.msix n] else [])
    ∧ (waits = false → turned → q.st = .active ∨ q.st = .draining → ∃ t, exec (.signal n refused) s = .next t ∧ t = { s with queues := t.queues }
      ∧ t.queue? n = some { q with signals := [], inflight := [], st := .error, err := 4, erridx := idx, dpend := false })
    ∧ (waits = false → turned → q.st = .idle ∨ q.st = .paused → ∃ t, exec (.signal n refused) s = .next t ∧ t = { s with queues := t.queues }
      ∧ t.queue? n = some { q with signals := [], inflight := [], st := .error, err := 4, erridx := idx, dpend := false, gpause := false })

/-- SETLAYOUT, SETKEY and SETGEN of the hypervisor queue (R94, R95, R268, R345), CIRCUIT INSTALL, REMOVE and REPACE (R277 to R280): each has
its effect and completes, or raises *invalid* with its code (that BADARG of a SETGEN comes before CXSTATE is the model's choice, log 45).
The reads of a circuit descriptor and of its layer table wait for the limiter (R116). -/
def Obligations.PrivilegedAndCircuitCommands : Prop :=
  ∀ (s : State) (n : Nat) (q : Queue) (c : Context) (bs : List Byte), Takes s n q c bs →
    let opc := fieldNat bs 0 1
    let ends := fun (i : Instr) (e : Nat) => ∃ t, exec i s = .next t ∧ Invalid s t n q e
    let done := fun (i : Instr) (s1 : State) => ∃ t, exec i s = .next t ∧ Consumed s1 t n bs true
    let h := fieldNat bs 8 2
    let body := (bs.drop 0x10).take 48
    let bytes := body ++ leBytes 2 c.cxid ++ [1]
    let pa := c.bindRec.layoutBase + 64 * h
    let wrapped := (bs.drop 0x10).take 40
    (opc = 0x10 → c.bindRec.layoutN ≤ h ∨ layoutOk body = false → ends (.setlayout n) 7)
    ∧ (opc = 0x10 → h < c.bindRec.layoutN → layoutOk body = true → ∃ t s1, exec (.setlayout n) s = .next t ∧ Consumed s1 t n bs true
      ∧ s1 = { s with mem := t.mem, lineMeta := t.lineMeta }
      ∧ ∀ a, t.byte a = if pa ≤ a ∧ a < pa + 51 then bytes.getD (a - pa) 0 else s.byte a)
    ∧ (opc = 0x11 → 1 < fieldNat bs 8 1 → ends (.setkey n) 7)
    ∧ (opc = 0x11 → fieldNat bs 8 1 ≤ 1 → c.noSession = true ∨ keyUnwrap c.transKey wrapped = none → ends (.setkey n) 11)
    ∧ (opc = 0x11 → c.noSession = false → ∀ k, keyUnwrap c.transKey wrapped = some k →
      (fieldNat bs 8 1 = 0 → done (.setkey n) (s.updCtx c.cxid fun c => { c with memKey := k, keySet := true }))
      ∧ (fieldNat bs 8 1 = 1 → done (.setkey n) (s.updCtx c.cxid fun c => { c with granKey := k })))
    ∧ (opc = 0x12 → h = 0 → ends (.setgen n) 7)
    ∧ (opc = 0x12 → h ≠ 0 → c.keySet = false → ends (.setgen n) 10)
    ∧ (opc = 0x12 → h ≠ 0 → c.keySet = true → done (.setgen n) (s.updCtx c.cxid fun c => { c with gen := BitVec.ofNat 16 h }))
    ∧ (opc = 6 →
      let cls := s.engineClasses c.cxid (fieldNat bs 8 8)
      let read := (s.spend c.cxid cls 64).circDesc c.cxid (fieldNat bs 8 8)
      let held := fun (i : Instr) => exec i s = .next s
      (s.admits c.cxid cls = false → held (.circuitInstall n) ∧ held (.circuitRemove n) ∧ held (.circuitRepace n))
      ∧ (s.admits c.cxid cls = true → ∀ s1, read = (s1, none) →
        ends (.circuitInstall n) 9 ∧ ends (.circuitRemove n) 9 ∧ ends (.circuitRepace n) 9)
      ∧ (s.admits c.cxid cls = true → ∀ s1 d, read = (s1, some d) →
      let op := fieldNat d 0 1
      let pace := fieldNat d 6 2
      let table := s1.engineClasses c.cxid (fieldNat d 0x10 8)
      let s1' := s1.spend c.cxid table (16 * fieldNat d 0xC 2)
      (op = 0 ∨ 3 < op → ends (.circuitInstall n) 9 ∧ ends (.circuitRemove n) 9 ∧ ends (.circuitRepace n) 9)
      ∧ (op = 1 → s1.admits c.cxid table = false → held (.circuitInstall n))
      ∧ (op = 1 → s1.admits c.cxid table = true → (s1'.install c d).2 = none → ends (.circuitInstall n) 9)
      ∧ (op = 1 → s1.admits c.cxid table = true → ∀ s2, (s1'.install c d).2 = some s2 → done (.circuitInstall n) s2 ∧ ∃ x, s2.circuits = s.circuits ++ [x] ∧ x.cx = c.cxid
        ∧ x.num = fieldNat d 1 1 ∧ x.mode = fieldNat d 2 1 ∧ x.lanes = BitVec.ofNat 8 (fieldNat d 3 1) ∧ x.pace = pace ∧ x.st = .running
        ∧ x.lap = 0 ∧ x.ord = 0 ∧ x.ring = [] ∧ x.layers.length = fieldNat d 0xC 2 ∧ x.engine < 16 ∧ ∀ y ∈ s.circuits, y.engine ≠ x.engine)
      ∧ (op = 2 → s1.circ? c.cxid (fieldNat d 1 1) = none → ends (.circuitRemove n) 9)
      ∧ (op = 2 → ∀ x, s1.circ? c.cxid (fieldNat d 1 1) = some x → allZero d 2 62 = true →
        done (.circuitRemove n) (s1.stopCircuit x .removed) ∧ ∀ y ∈ (s1.stopCircuit x .removed).circuits, y.id = x.id → y.st = .removed)
      ∧ (op = 3 → ∀ x, s1.circ? c.cxid (fieldNat d 1 1) = some x → allZero d 2 4 = true → allZero d 8 56 = true →
        (132 * laneCount x.lanes < pace → ends (.circuitRepace n) 9)
        ∧ (pace ≤ 132 * laneCount x.lanes → x.st = .running →
          done (.circuitRepace n) (s1.updCirc x.id fun x => { x with nextPace := some pace }))
        ∧ (pace ≤ 132 * laneCount x.lanes → x.st ≠ .running → done (.circuitRepace n) s1))))

/-- GTIME_DUE, PLACE, PLACEMENT_WAIT_1MS, EXITED and DSQ_LAUNCH (R97 to R99, R104 to R106, R109, R117, R118): a launch that is due becomes
READY; a workgroup whose kernel may be placed takes the first core that has room, and its sector places no more in this cycle; a kernel
that has found no room for 1 ms is blocking; a workgroup whose groups are gone exits, the last one with its kernel; the oldest entry of a
device-side queue is recorded or dropped. -/
def Obligations.DispatcherSteps : Prop :=
  (∀ (s : State) (cx id : Nat), (∀ k ∈ s.kernels, k.st = .recorded → k.inPool = false) → ∃ t, exec (.gtimeDue cx id) s = .next t ∧ SameMem s t
    ∧ t.groups = s.groups ∧ t.kernels.length = s.kernels.length ∧ ∀ (i : Nat) (k : Kernel), s.kernels[i]? = some k → ∃ k' : Kernel, t.kernels[i]? = some k'
      ∧ k'.cx = k.cx ∧ k'.id = k.id ∧ k'.kd = k.kd
      ∧ (∀ d, d ∈ k'.deps ↔ d ∈ k.deps ∧ ¬ (k.cx = cx ∧ k.id = id ∧ k.st = .recorded ∧ ∃ u, d = .gtime u ∧ u ≤ s.gtime))
      ∧ (k'.st = k.st ∨ k.st = .recorded ∧ k'.st = .ready ∧ k'.deps = [])
      ∧ (k.cx = cx → k.st = .recorded → k'.deps = [] → (s.kernels.filter fun j => j.cx == cx).length ≤ 256 → k'.st = .ready))
  ∧ (∀ (s : State) (k : Kernel) (c : Nat), s.images = [] → s.kernels = [k] → k.kd.coop = false → k.st = .ready ∨ k.st = .running →
    k.nextL < k.total → (∃ x, s.ctx? k.cx = some x ∧ x.st = .run) →
    (∀ r ∈ s.kernelChain k.cx k.id, r.parked = false ∧ s.rcbSpent r = false) → k.coopBad = false → k.kd.clog = 0 →
    k.kd.groups ≤ 32 → s.coresFor k (s.openClusters k.cx) = some [c] → s.splitWaits k.need c = false → (∀ g ∈ s.groups, g.ref.core ≠ c) →
    ∃ t w, exec .place s = .next t ∧ SameMem s t ∧ t.wgs = s.wgs ++ [w] ∧ w.cx = k.cx ∧ w.kernel = k.id ∧ w.l = k.nextL ∧ w.core = c
      ∧ w.scratchBytes = k.kd.scratch ∧ w.l1kib = k.kd.l1kib ∧ w.exited = false
      ∧ (∀ cl ∈ t.openClusters k.cx, clusterSector cl ≠ c / 128)
      ∧ t.kernels = [{ k with st := .running, nextL := k.nextL + 1, waitingSince := s.cycle, blocking := false }]
      ∧ (∀ g ∈ s.groups, g ∈ t.groups) ∧ ∀ j, j < k.kd.groups → ∃ h, t.group? { core := c, gctx := j } = some h ∧ h.status = .live
        ∧ h.cx = k.cx ∧ h.kernel = k.id ∧ h.wg = k.nextL ∧ h.gidx = j ∧ h.allot = 32 * k.kd.allot ∧ h.priv = k.kd.super
        ∧ h.argptr = k.kd.argptr ∧ h.getS 16 = BitVec.ofNat 32 k.nextL ∧ h.getS 17 = BitVec.ofNat 32 j ∧ h.getS 18 = 0
        ∧ h.splits.map (fun p => (p.id, p.pc, p.exec, p.lset)) = [(0, k.kd.entry, BitVec.allOnes 32, BitVec.allOnes 32)])
  ∧ (∀ s : State, s.images = [] → (∀ k ∈ s.kernels, k.st = .recorded ∨ k.total ≤ k.nextL ∧ (k.st = .ready → k.coopBad = false)) →
    exec .place s = .next s)
  ∧ (∀ (s : State) (k : Kernel), s.kernels = [k] →
    let placeable := (k.st = .ready ∨ k.st = .running) ∧ k.nextL < k.total ∧ (∃ x, s.ctx? k.cx = some x ∧ x.st = .run)
      ∧ ∀ r ∈ s.kernelChain k.cx k.id, r.parked = false ∧ s.rcbSpent r = false
    let due := placeable ∧ (k.kd.coop = false → s.coresFor k (s.clustersFor k.cx) = none)
      ∧ (k.kd.coop = true → s.placeAll k.cx k.id (s.clustersFor k.cx) (k.total + 1) = .no) ∧ k.waitingSince + 2250000 ≤ s.cycle
    (due → exec (.placementWait1ms k.cx k.id) s = .next { s with kernels := [{ k with blocking := true }] })
    ∧ (¬ due → exec (.placementWait1ms k.cx k.id) s = .next s))
  ∧ (∀ (s : State) (i : Nat) (w : Workgroup), s.wgs[i]? = some w → w.exited = true ∨ s.wgGone w = false → exec (.exited i) s = .next s)
  ∧ (∀ (s : State) (w : Workgroup) (k : Kernel), s.wgs = [w] → s.kernels = [k] → k.st = .running → k.launchedBy = none → k.cx = w.cx →
    k.id = w.kernel → w.exited = false → s.wgGone w = true → k.total = k.kd.wgx * k.kd.wgy * k.kd.wgz →
    let n := if w.counted = true then k.trigCount else k.trigCount + 1
    (k.exits + 1 < k.total → ∃ t, exec (.exited 0) s = .next t ∧ SameMem s t ∧ t.wgs = [{ w with exited := true, counted := true }]
      ∧ ∃ k', t.kernels = [k'] ∧ k'.exits = k.exits + 1 ∧ k'.trigCount = n ∧ k'.st = .running
        ∧ (k'.triggered = true ↔ k.triggered = true ∨ w.counted = false ∧ n = k.total))
    ∧ (k.exits + 1 = k.total → (∀ c ∈ s.copies, c.cx ≠ w.cx) → ∃ t, exec (.exited 0) s = .next t ∧ SameMem s t ∧ t.wgs = []
      ∧ t.kernels = []))
  ∧ ∀ (s : State) (cx : Nat) (c : Context), s.ctx? cx = some c →
    let stopped := c.st ≠ .run ∨ c.dsqPaused = true
    (c.dsq = [] ∨ stopped → exec (.dsqLaunch cx) s = .next s)
    ∧ ∀ e rest, c.dsq = e :: rest → ¬ stopped →
      (e.arg % 64 ≠ 0 → (∀ r ∈ s.rcbChain cx 8 e.rcb, r.fdlog = 0) → policyOf (s.rcbChain cx 8 e.rcb) = 1 →
        ∃ t, exec (.dsqLaunch cx) s = .next t ∧ OnlyContext { s with hostEvents := s.hostEvents ++ [.faultLog cx 4] } t c { c with dsq := rest })
      ∧ (e.arg % 64 = 0 → 1024 ≤ s.liveKernels cx → exec (.dsqLaunch cx) s = .next s)
      ∧ (e.arg % 64 = 0 → ∀ s1 c1, s.recordKernel cx e.kd 0 e.arg (some e.rcb) false none = (s1, .recorded) → s1.ctx? cx = some c1 →
        ∃ t, exec (.dsqLaunch cx) s = .next t ∧ OnlyContext s1 t c1 { c1 with dsq := rest } ∧ t.kernels.length = s.kernels.length + 1)

/-- BUDGET_EXHAUSTED, RCB_PERIOD_BOUNDARY, CLASS_AGING, RATE_LIMITER_GO and TOKEN_ACCRUAL (R101, R102, R112, R115): at a period boundary
the charges return to zero and the subtree is parked no more, and the boundary's event counts a new PERIOD from there. Flashback (R102,
R114, R143 to R145): a set leaves its core whole for an image. Of a group whose region is open the live slots are kept with S, M and the
flags, and its split stands at the recipe, or at the region's entry, with the lanes of the region. -/
def Obligations.BudgetsAndFlashback : Prop :=
  ((∀ (s : State) (cx addr : Nat) (r : Rcb), s.rcb? cx addr = some r →
    let spent := ∃ b, budgetOf (s.rcbChain cx 8 addr) = some b ∧ r.parked = false ∧ b ≤ r.charge
    (¬ spent → exec (.budgetExhausted cx addr) s = .next s)
    ∧ (spent → ∃ t, exec (.budgetExhausted cx addr) s = .next t ∧ t.rcb? cx addr = some { r with parked := true } ∧ t.kernels = s.kernels
      ∧ ∀ y, y ≠ addr → t.rcb? cx y = s.rcb? cx y))
  ∧ (∀ (s : State) (cx : Nat) (c : Context) (r : Rcb), s.ctx? cx = some c → s.rcb? cx c.bindRec.rootRcb = some r →
    let us := fun x : Rcb => if x.period = 0 then 1000 else max 100 (min 1000000 x.period)
    (r.boundary = false → exec (.rcbPeriodBoundary cx) s = .next s)
    ∧ (r.boundary = true → ∃ t r', exec (.rcbPeriodBoundary cx) s = .next t ∧ t.rcb? cx r.addr = some r' ∧ r'.boundary = false
      ∧ r'.periodNo = s.gtime / (1000 * us r') ∧ (∀ x ∈ t.rcbs, x.cx ≠ cx → x ∈ s.rcbs)
      ∧ ∀ a x, s.rcb? cx a = some x → ∃ x', t.rcb? cx a = some x' ∧ x'.charge = x.charge ∧ x'.used = x.used ∧ x'.parked = x.parked)
    ∧ ∀ (before : State) (dt : Nat), before.groups = [] → s.gtime / (1000 * us r) ≠ r.periodNo → ∀ a x, s.rcb? cx a = some x →
      ∃ x', (s.chargePeriods before dt).rcb? cx a = some x' ∧ x'.charge = 0 ∧ x'.parked = false
        ∧ x'.periodNo = s.gtime / (1000 * us r) ∧ (a = r.addr → x'.boundary = true))
  ∧ (∀ (s : State) (core gctx split : Nat) (g : Group) (p : Split), s.group? { core := core, gctx := gctx } = some g →
    g.split? split = some p →
    let due := g.status = .live ∧ p.readySince + 4096 * (p.aged + 1) ≤ s.cycle
    (due → ∃ t g', exec (.classAging core gctx split) s = .next t ∧ OnlyGroup s t g g' ∧ OnlySplit g g' p { p with aged := p.aged + 1 })
    ∧ (¬ due → exec (.classAging core gctx split) s = .next s))
  ∧ ∀ (s : State) (cx cls : Nat), cx < 65536 → cls < 8 → s.modl.recovery = false →
    let regs := { s with bar := { s.bar with rateCxid := BitVec.ofNat 16 cx, rateClass := BitVec.ofNat 3 cls } }
    let burst := max 1 s.bar.burst.toNat
    let us := s.cycle / 2250
    let changes := fun (i : Instr) (c : Context) (b : Bucket) => ∃ t c', exec i s = .next t ∧ t.ctx? cx = some c'
      ∧ c' = { c with buckets := c'.buckets } ∧ bucketOf c' cls = b ∧ (∀ n, n ≠ cls → bucketOf c' n = bucketOf c n) ∧ SameMem s t
      ∧ ∀ x, x ≠ cx → t.ctx? x = s.ctx? x
    (5 ≤ cls → exec (.rateLimiterGo cx cls) s = .next regs)
    ∧ ∀ c, s.ctx? cx = some c → (cls < 5 → changes (.rateLimiterGo cx cls) c
        { rate := s.bar.rate.toNat, burst := burst, lastUs := us,
          count := let old := bucketOf c cls
            min (if old.rate = 0 then old.count else min (old.count + old.rate * (us - old.lastUs)) (1024 * old.burst)) (1024 * burst) })
      ∧ ((bucketOf c cls).rate = 0 → changes (.tokenAccrual cx cls) c (bucketOf c cls))
      ∧ ((bucketOf c cls).rate ≠ 0 → changes (.tokenAccrual cx cls) c { bucketOf c cls with
          count := min ((bucketOf c cls).count + (bucketOf c cls).rate * (us - (bucketOf c cls).lastUs)) (1024 * (bucketOf c cls).burst),
          lastUs := us }))
  ∧ (∀ (s : State) (w : Workgroup) (g : Group) (p : Split) (rc : RegionRec), s.wgs = [w] → w.exited = false → s.groups = [g] →
    g.status = .live → g.cx = w.cx → g.kernel = w.kernel → g.wg = w.l → g.trapRec = none → g.splits = [p] → p.ended = false →
    p.region = some rc → rc.depth = p.stack.length → g.pins = [] → s.ops = [] → s.offers = [] → s.arms = [] → s.copies = [] →
    (s.core g.ref.core).recs = [] → (s.core g.ref.core).slots = [] → (s.core g.ref.core).jobs = [] →
    let leaves := fun (i : Instr) (reason : SaveReason) => ∃ t im g' q, exec i s = .next t ∧ SameMem s t ∧ t.groups = [] ∧ t.wgs = []
      ∧ t.kernels = s.kernels ∧ t.images = s.images ++ [im] ∧ im.cx = w.cx ∧ im.reason = reason ∧ im.wgs = [w] ∧ im.groups = [g']
      ∧ im.ops = [] ∧ im.records = [] ∧ g'.s = g.s ∧ g'.m = g.m ∧ g'.fpflags = g.fpflags ∧ g'.fpmode = g.fpmode ∧ g'.priv = g.priv
      ∧ g'.allot = g.allot ∧ g'.gidx = g.gidx
      ∧ (∀ x l, l < 32 → g'.getP x l = if ∃ r ∈ rc.live, r.1 ≤ x ∧ x < r.1 + r.2 then g.getP x l else 0)
      ∧ g'.splits = [q] ∧ q.id = p.id ∧ q.pc = rc.recipe.getD rc.entry ∧ q.recipe = rc.recipe.isSome ∧ q.clause = none ∧ q.lset = p.lset
      ∧ q.exec = rc.exec &&& p.lset ∧ q.stack = p.stack ∧ q.wait = .none
    (∀ k, s.kernel? w.cx w.kernel = some k → k.kd.coop = false → w.core ∈ s.hot → w.since + 11250000 ≤ s.cycle →
      leaves (.thermalMigration 0) .migrate)
    ∧ (∀ k, s.kernel? w.cx w.kernel = some k → k.kd.coop = true ∨ w.core ∉ s.hot ∨ s.cycle < w.since + 11250000 →
      exec (.thermalMigration 0) s = .next s)
    ∧ ∀ (addr b : Nat) (r : Rcb), s.rcb? w.cx addr = some r → budgetOf (s.rcbChain w.cx 8 addr) = some b → r.parked = false → b ≤ r.charge →
      (∃ x ∈ s.kernelChain w.cx w.kernel, x.addr = addr) → leaves (.budgetExhausted w.cx addr) .park)

/-- GROUPKILL, KABORT, CXRESET, VFLR, STATUS and WARMRESET (R366 to R368): only in an authenticated session, BUSY while a warm reset goes
on, and each answers as its row says. -/
def Obligations.RecoveryCommandsAct : Prop :=
  ∀ (s : State) (cx core gctx kernel : Nat) (inp : StartIn),
    let commands := [Instr.groupkill cx core gctx, .kabort cx kernel, .cxreset cx, .vflr cx, .status cx]
    let secure := ∃ x ∈ s.modl.sessions, x.authenticated = true
    let answers := fun (i : Instr) (code : Nat) => exec i s = .next { s with hostEvents := s.hostEvents ++ [.recoveryReply code 0 none] }
    let replied := fun (t : State) => t.hostEvents.getLast? = some (HostEvent.recoveryReply 0 0 none)
    (∀ i ∈ commands, ¬ secure → exec i s = .next s)
    ∧ (secure → s.modl.recovering ≠ none → ∀ i ∈ commands, answers i 4)
    ∧ (secure → s.modl.recovering = none → s.ctx? cx = none → ∀ i ∈ commands, answers i 2)
    ∧ (secure → s.modl.recovering = none → ∀ c, s.ctx? cx = some c → cx < s.bar.dirN.toNat →
      exec (.status cx) s = .next { s with hostEvents := s.hostEvents ++ [.recoveryReply 0 (cxCode c.st) s.modl.bootLog.getLast?] }
      ∧ (s.group? { core := core, gctx := gctx } = none → answers (.groupkill cx core gctx) 3)
      ∧ (∀ g, s.group? { core := core, gctx := gctx } = some g → g.cx = cx → ∃ t, exec (.groupkill cx core gctx) s = .next t ∧ replied t
        ∧ t.group? { core := core, gctx := gctx } = none)
      ∧ (s.kernel? cx kernel = none → answers (.kabort cx kernel) 3)
      ∧ (s.kernel? cx kernel ≠ none → ∃ t, exec (.kabort cx kernel) s = .next t ∧ replied t ∧ t.kernel? cx kernel = none
        ∧ ((∀ w ∈ s.wgs, w.cx = cx → w.kernel = kernel → w.exited = true ∨ s.wgGone w = false) →
          ∀ g ∈ t.groups, g.cx = cx → g.kernel ≠ kernel))
      ∧ (c.st ∉ [CxState.run, .sealing, .restoring, .halted] → answers (.cxreset cx) 5)
      ∧ (c.st ∈ [CxState.run, .sealing, .restoring, .halted] → ∃ t c', exec (.cxreset cx) s = .next t ∧ replied t ∧ NoWork t cx
        ∧ t.ctx? cx = some c' ∧ c'.st = if c.bindRec.tdi = true then .error else .locked)
      ∧ (c.st = .retired → answers (.vflr cx) 5)
      ∧ (c.st ≠ .retired → ∃ t c', exec (.vflr cx) s = .next t ∧ replied t ∧ NoWork t cx ∧ t.ctx? cx = some c' ∧ c'.st = .bound))
    ∧ (¬ secure → exec (.warmreset inp) s = .next s)
    ∧ (secure → s.modl.recovering ≠ none → answers (.warmreset inp) 4)
    ∧ (secure → s.modl.recovering = none → (∀ c ∈ s.ctxs, c.st ∉ [CxState.run, .restoring, .halted]) → s.warmReady = true → s.sent = [] →
      s.reqs = [] → ∃ t, exec (.warmreset inp) s = .next t ∧ replied t
      ∧ (s.groups = [] → s.copies = [] → s.images = [] → s.circuits = [] → SameMem s t ∧ t.cores = []) ∧ t.modl.recovering = none ∧ t.bar.dirBase = s.bar.dirBase ∧ t.bar.dirN = s.bar.dirN ∧ t.modl.startCount ≠ s.modl.startCount)
    ∧ (secure → s.modl.recovering = none → (∀ c ∈ s.ctxs, c.st ∉ [CxState.run, .restoring, .halted]) → (∃ c ∈ s.ctxs, c.st = .sealing) →
      exec (.warmreset inp) s = .next { s with modl := { s.modl with recovering := some (0, 5), warmIn := some inp } })

/-- MAP_REQUEST, UNMAP_REQUEST, INVAL_REQUEST and POOLST_REQUEST (R319 to R321): requests are taken one at a time for a context; MAP zeroes
the frames that it takes and writes the entry; UNMAP clears V, waits for the invalidation, and returns the frames that are present (R21),
not retired (R328), and in no hard partition of another context (R15; log 51); INVAL drops every translation of the page. -/
def Obligations.PageRequestsAnswer : Prop :=
  ∀ (s : State) (op lane : Nat) (o : PendOp) (l : AtomLane) (c : Context), s.anyOp? op = some o → o.lane? lane = some l →
    s.ctx? l.key.cx = some c →
    let turn := fun (off : Nat) => l.ctl = some off ∧ l.reply = none ∧ s.ctlWaits o l = false
    let rows := [(Instr.map op lane, 0x000), (.unmap op lane, 0x008), (.inval op lane, 0x010), (.poolst op lane, 0x018)]
    let lane' := fun (t : State) (l' : AtomLane) => ∃ o', t.anyOp? op = some o' ∧ o'.lane? lane = some l'
    let answers := fun (t : State) (v : Nat) => lane' t { l with reply := some (BitVec.ofNat 64 v) }
    let tells := fun (i : Instr) (v : Nat) => ∃ t, exec i s = .next t ∧ SameMem s t ∧ t.ctxs = s.ctxs ∧ answers t v
    let va := l.v.toNat / 65536 * 65536
    let bit := fun (n : Nat) => l.v.getLsbD n
    let word := fun (t : State) (ea : Nat) (x : BitVec 64) (rest : Nat → Byte) => ∀ a, t.byte a =
      if ea ≤ a ∧ a < ea + 8 then BitVec.ofNat 8 (x.toNat / 256 ^ (a - ea)) else rest a
    (∀ r ∈ rows, ¬ turn r.2 → exec r.1 s = .next s)
    ∧ ((∀ p ∈ c.pages, p.st.isUnmapping = false) →
      (turn 0x018 → tells (.poolst op lane) (c.poolLocal.length * 2 ^ 32 + c.inUse))
      ∧ (turn 0x000 →
        let bad := l.v.extractLsb' 57 7 ≠ 0 ∨ l.v.extractLsb' 4 12 ≠ 0 ∨ bit 0 = true
        let full := c.poolLocal = [] ∨ c.bindRec.frameB < c.inUse + if bit 1 = true then 2 else 1
        (bad → tells (.map op lane) 6)
        ∧ (¬ bad → s.pteOf c va = none → tells (.map op lane) 3)
        ∧ ∀ ea p, ¬ bad → s.pteOf c va = some (ea, p) → (p.v = true → tells (.map op lane) 5)
          ∧ (p.v = false → p.ft = false → tells (.map op lane) 2) ∧ (p.v = false → p.ft = true → full → tells (.map op lane) 1)
          ∧ (p.v = false → p.ft = true → ¬ full → takeFrames c.poolLocal (bit 1) = none → tells (.map op lane) 4)
          ∧ ∀ fs, p.v = false → p.ft = true → ¬ full → takeFrames c.poolLocal (bit 1) = some fs → ea / 65536 ∉ fs → ea % 8 = 0 →
            c.cxid = l.key.cx → PlainLine s (State.physKey c.cxid ea) → ∃ t c', exec (.map op lane) s = .next t ∧ answers t 0
              ∧ t.ctx? l.key.cx = some c' ∧ c' = { c with
                poolLocal := c'.poolLocal, inUse := c.inUse + fs.length, pages := c'.pages,
                samplerMs := if c.pages = [] then s.gtime / 1000000 else c.samplerMs }
              ∧ (∀ f, f ∈ c'.poolLocal ↔ f ∈ c.poolLocal ∧ f ∉ fs)
              ∧ (∀ q, q ∈ c'.pages ↔ q = { page := va, frame := fs.headD 0, sh := bit 1, st := .mapped } ∨ q ∈ c.pages)
              ∧ word t ea (mapPte (bit 2) (bit 3) (bit 1) (fs.headD 0)) (fun a => if a / 65536 ∈ fs then 0 else s.byte a))
      ∧ (turn 0x008 →
        let bad := l.v.extractLsb' 57 7 ≠ 0 ∨ l.v.extractLsb' 0 16 ≠ 0
        (bad → tells (.unmap op lane) 6)
        ∧ (¬ bad → c.page? va = none → l.sent = false → tells (.unmap op lane) 7)
        ∧ ∀ p, ¬ bad → c.page? va = some p → (∀ q ∈ c.pages, q.page = va → q = p) → (p.st = .migrating → exec (.unmap op lane) s = .next s)
          ∧ ∀ ea e, p.st = .mapped ∨ p.st = .far → s.pteOf c p.page = some (ea, e) → ea % 8 = 0 → c.cxid = l.key.cx →
            PlainLine s (State.physKey c.cxid ea) → ∃ t c', exec (.unmap op lane) s = .next t ∧ lane' t { l with sent := true, waits := [] }
              ∧ t.ctx? l.key.cx = some c' ∧ (c'.page? va).map (·.st) = some (.unmapping (p.st == .far)) ∧ c'.poolLocal = c.poolLocal
              ∧ word t ea (e.raw &&& ~~~1#64) s.byte)
      ∧ (turn 0x010 →
        let bad := l.v.extractLsb' 57 7 ≠ 0 ∨ l.v.extractLsb' 1 15 ≠ 0
        let gone := fun (x : Xlat) => ¬ (x.cx = c.cxid ∧ (bit 0 = true ∨ x.holds va = true))
        (bad → tells (.inval op lane) 6)
        ∧ (¬ bad → l.sent = true → s.stillOut l.waits = [] → tells (.inval op lane) 0)
        ∧ (¬ bad → l.sent = true → s.stillOut l.waits ≠ [] → exec (.inval op lane) s = .next s)
        ∧ (¬ bad → l.sent = false → ∃ t l', exec (.inval op lane) s = .next t ∧ SameMem s t ∧ lane' t l' ∧ l'.sent = true ∧ l'.reply = none
          ∧ (∀ e ∈ t.sectorTlb, gone e.2) ∧ (∀ x ∈ t.cores, ∀ e ∈ x.tlb, gone e)
          ∧ ∀ g ∈ t.groups, g.cx = c.cxid → ∀ e ∈ g.lastPage, gone e.2)))
    ∧ ∀ p b, c.pages = [p] → p.page = va → p.st = .unmapping b → s.pageFree p = true → turn 0x008 → l.sent = true → c.cxid = l.key.cx →
      l.v.extractLsb' 57 7 = 0 → l.v.extractLsb' 0 16 = 0 → ∃ t c', exec (.unmap op lane) s = .next t ∧ SameMem s t ∧ answers t 0
        ∧ t.ctx? l.key.cx = some c' ∧ c'.pages = [] ∧ c'.inUse = c.inUse - p.frames.length
        ∧ (∀ f, f ∈ c'.poolLocal ↔ f ∈ c.poolLocal ∨ f ∈ p.frames ∧ s.present (65536 * f) = true ∧ f ∉ s.modl.retired
          ∧ s.foreignFrame c.cxid f = false)
        ∧ ∀ f, f ∈ c'.poolFar ↔ f ∈ c.poolFar ∨ f ∈ p.farFrames

/-- ADDLOCAL, ADDFAR, REMOVE, RECLAIM, SDCREATE and SDBIND (R322 to R325, R328): each answers the first check that fails and has no other
effect then; else the pools, the page or the key-domain table change as its row tells; a frame in a hard partition of another context
is taken for one that is held (the model's choice: log 51). MOVED and SAMPLER_TICK (R324, R325): when the
invalidation of a migrating page has ended, its bytes stand in the far frame, its local frame is free again, and its entry names the far
frame; each millisecond of $GTIME halves HOT and counts COLD up to 255. -/
def Obligations.PoolCommandsAndMigration : Prop :=
  (∀ (s : State) (cx : Nat), s.modl.recovery = false → cx < 65535 →
    let a := s.bar.pool.farg0.toNat
    let n := s.bar.pool.farg1.toNat
    let frames := (List.range n).map fun i => a + i
    let metas := (List.range ((n + 7) / 8)).map fun i => a + n + i
    let shows := fun (t : State) (op err fres : Nat) => t.bar = { s.bar with pool := { s.bar.pool with
      cxid := BitVec.ofNat 16 cx, op := BitVec.ofNat 8 op, err := BitVec.ofNat 8 err, fres := BitVec.ofNat 64 fres } }
    let ends := fun (i : Instr) (op err : Nat) => ∃ t, exec i s = .next t ∧ t = { s with bar := t.bar } ∧ shows t op err 0
    let held := s.ctx? cx = none ∨ ∃ c, s.ctx? cx = some c ∧ c.st = .retired
    (held → ends (.addlocal cx) 1 2 ∧ ends (.addfar cx) 2 2 ∧ ends (.remove cx) 3 2 ∧ ends (.reclaim cx) 4 2 ∧ ends (.sdbind cx) 6 2)
    ∧ (65536 ≤ a ∨ n ≠ 0 → ends (.sdcreate cx) 5 6)
    ∧ (a < 65536 → n = 0 → (∃ d ∈ s.modl.domains, d.id = a) → ends (.sdcreate cx) 5 4)
    ∧ (a < 65536 → n = 0 → (∀ d ∈ s.modl.domains, d.id ≠ a) → ∃ t d, exec (.sdcreate cx) s = .next t ∧ shows t 5 0 0
      ∧ t.modl = { s.modl with domains := s.modl.domains ++ [d] } ∧ d.id = a ∧ d.gen = 1 ∧ d.granted = none
      ∧ t = { s with bar := t.bar, modl := t.modl, keysDrawn := s.keysDrawn + 1 })
    ∧ ∀ c, s.ctx? cx = some c → c.st ≠ .retired →
      let changes := fun (i : Instr) (op fres : Nat) (c' : Context) => ∃ t, exec i s = .next t ∧ t = { s with bar := t.bar, ctxs := t.ctxs }
        ∧ shows t op 0 fres ∧ t.ctx? cx = some c' ∧ ∀ x, x ≠ cx → t.ctx? x = s.ctx? x
      let wide := 2 ^ 32 < a + n
      let bad := ∃ f ∈ frames, s.frameGood f = false
      let taken := ∃ f ∈ frames, s.inArea f = true ∨ s.foreignFrame cx f = true ∨ ∃ d ∈ s.ctxs, d.holdsLocal f = true
      let farTaken := ∃ f ∈ frames ++ metas, ∃ d ∈ s.ctxs, d.holdsFar f = true
      let free := ∀ f ∈ frames, f ∈ c.poolLocal
      let farFree := ∀ f ∈ frames, f ∈ c.poolFar
      let inUse := ∃ f ∈ frames, ∃ p ∈ c.pages, f ∈ p.frames
      let farInUse := ∃ f ∈ frames, ∃ p ∈ c.pages, f ∈ p.farFrames
      (wide ∨ bad → ends (.addlocal cx) 1 5) ∧ (¬ wide → ¬ bad → taken → ends (.addlocal cx) 1 3)
      ∧ (¬ wide → ¬ bad → ¬ taken → ∃ pool, changes (.addlocal cx) 1 n { c with poolLocal := pool }
        ∧ ∀ f, f ∈ pool ↔ f ∈ c.poolLocal ∨ a ≤ f ∧ f < a + n)
      ∧ (wide ∨ 2 ^ 32 < a + n + (n + 7) / 8 → ends (.addfar cx) 2 5)
      ∧ (a + n + (n + 7) / 8 ≤ 2 ^ 32 → farTaken → ends (.addfar cx) 2 3)
      ∧ (a + n + (n + 7) / 8 ≤ 2 ^ 32 → ¬ farTaken → ∃ pool ms, changes (.addfar cx) 2 n { c with poolFar := pool, farMeta := ms }
        ∧ (∀ f, f ∈ pool ↔ f ∈ c.poolFar ∨ a ≤ f ∧ f < a + n)
        ∧ ∀ f, f ∈ ms ↔ f ∈ c.farMeta ∨ a + n ≤ f ∧ f < a + n + (n + 7) / 8)
      ∧ (wide → ends (.remove cx) 3 5)
      ∧ (¬ wide → free → ∃ pool, changes (.remove cx) 3 n { c with poolLocal := pool } ∧ ∀ f, f ∈ pool ↔ f ∈ c.poolLocal ∧ f ∉ frames)
      ∧ (¬ wide → ¬ free → inUse → ends (.remove cx) 3 4)
      ∧ (¬ wide → ¬ free → ¬ inUse → farFree → ∃ pool, changes (.remove cx) 3 n { c with poolFar := pool }
        ∧ ∀ f, f ∈ pool ↔ f ∈ c.poolFar ∧ f ∉ frames)
      ∧ (¬ wide → ¬ free → ¬ inUse → ¬ farFree → farInUse → ends (.remove cx) 3 4)
      ∧ (¬ wide → ¬ free → ¬ inUse → ¬ farFree → ¬ farInUse → ends (.remove cx) 3 5)
      ∧ (n ≠ 0 → ends (.reclaim cx) 4 6)
      ∧ (n = 0 → a = 0 → ends (.reclaim cx) 4 0) ∧ (n = 0 → s.noteTables = s → s.victim (some cx) = none → ends (.reclaim cx) 4 0)
      ∧ (n = 0 → a = 1 → s.noteTables = s → ∀ p far, s.victim (some cx) = some (cx, p, far) → (∀ q ∈ c.pages, q.page = p.page → q = p) →
        ∃ t c' p', exec (.reclaim cx) s = .next t ∧ shows t 4 0 1
        ∧ t.ctx? cx = some c' ∧ c'.page? p.page = some p' ∧ p'.st = .migrating ∧ p'.far = far ∧ c'.poolFar = c.poolFar.erase far
        ∧ c'.poolLocal = c.poolLocal)
      ∧ let entry := a % 16
        let grant := s.bar.pool.farg0.getLsbD 8
        let id := a / 65536 % 65536
        let wrong := a / 16 % 16 ≠ 0 ∨ a / 512 % 128 ≠ 0 ∨ 2 ^ 32 ≤ a ∨ entry = 0 ∨ n ≠ 0
        (wrong ∨ (∀ d ∈ s.modl.domains, d.id ≠ id) → ends (.sdbind cx) 6 6)
        ∧ (¬ wrong → ∀ d, (s.modl.domains.find? fun d => d.id == id) = some d →
          (grant = true → d.granted ≠ none → d.granted ≠ some cx → ends (.sdbind cx) 6 4)
          ∧ (grant = false ∨ d.granted = none ∨ d.granted = some cx → ∃ t c', exec (.sdbind cx) s = .next t ∧ shows t 6 0 0
            ∧ t.ctx? cx = some c' ∧ c' = { c with kdt := c'.kdt }
            ∧ (∀ e, e ∈ c'.kdt ↔ e = (entry, id, grant) ∨ e ∈ c.kdt ∧ e.1 ≠ entry)
            ∧ (grant = true → (t.modl.domains.find? fun d => d.id == id).map (·.granted) = some (some cx)))))
  ∧ ((∀ (s : State) (cx page : Nat) (c : Context) (p : PoolPage), s.ctx? cx = some c → c.page? (page / 65536 * 65536) = some p →
    (∀ q ∈ c.pages, q.page = p.page → q = p) →
    (p.st ≠ .migrating ∨ s.pageFree p = false → exec (.moved cx page) s = .next s)
    ∧ (p.st = .migrating → s.pageFree p = true → s.memWf →
      let far := farFrameNo p.far
      let s1 := s.moveFrame p.frame far (some (c.memKey, c.gen))
      ∀ ea e, s1.pteOf c p.page = some (ea, e) → ea % 8 = 0 → PlainLine s1 (State.physKey cx ea) →
        ∃ t c' p', exec (.moved cx page) s = .next t ∧ t.ctx? cx = some c' ∧ c'.page? p.page = some p' ∧ p'.st = .far ∧ p'.frame = p.far
          ∧ (∀ f, f ∈ c'.poolLocal ↔ f ∈ c.poolLocal ∨ f = p.frame ∧ s.poolable cx f = true) ∧ c'.inUse = c.inUse - 1 ∧ c'.poolFar = c.poolFar
          ∧ ∀ b, t.byte b = if ea ≤ b ∧ b < ea + 8 then BitVec.ofNat 8 ((farPte e.raw p.far).toNat / 256 ^ (b - ea))
              else if b / 65536 = far then s.byte (65536 * p.frame + b % 65536) else s.byte b))
  ∧ ∀ (s : State) (cx : Nat) (c : Context), s.ctx? cx = some c →
    let now := s.gtime / 1000000
    let n := now - c.samplerMs
    (now ≤ c.samplerMs → exec (.samplerTick cx) s = .next s)
    ∧ (c.samplerMs < now → ∃ t c', exec (.samplerTick cx) s = .next t ∧ OnlyContext s t c c'
      ∧ c' = { c with samplerMs := now, pages := c'.pages } ∧ c'.pages.length = c.pages.length
      ∧ ∀ (i : Nat) (p : PoolPage), c.pages[i]? = some p → p.hot < 256 → c'.pages[i]? = some { p with
          hot := p.hot / 2 ^ n, cold := min 255 (p.cold + (n - if p.seen = true then 1 else 0)), seen := false }))

/-- VPOD, VKEY, VSWITCH, HINT and VCLEAR (R333 to R338, R341 to R343), while no packet is held: GO is ignored while a command is under
way; each answers the first check that fails and has no other effect then but what the read of its list or key block leaves (R327). VPOD waits
until every packet has been acknowledged. -/
def Obligations.LinkCommandsAnswer : Prop :=
  ∀ (s : State) (cx : Nat), cx < 65536 → (∀ k ∈ s.sent, k.held = false) → s.modl.recovery = false →
    let every := fun (P : Instr → Nat → Prop) => P (.vpod cx) 1 ∧ P (.vkey cx) 2 ∧ P (.vswitch cx) 3 ∧ P (.hint cx) 4 ∧ P (.vclear cx) 5
    let shows := fun (t : State) (op err : Nat) => t.bar = { s.bar with link := { s.bar.link with
      cxid := BitVec.ofNat 16 cx, op := BitVec.ofNat 8 op, pending := none, err := BitVec.ofNat 8 err } }
    let ends := fun (i : Instr) (op err : Nat) => ∃ t, exec i s = .next t ∧ t = { s with bar := t.bar } ∧ shows t op err
    let endsIn := fun (x : State) (i : Instr) (op err : Nat) => ∃ t, exec i s = .next t ∧ t = { x with bar := t.bar } ∧ shows t op err
    let a := s.bar.link.larg0.toNat
    let n := s.bar.link.larg1.toNat
    every (fun i op => (s.bar.link.pending = none → s.ctx? cx = none ∨ (∃ c, s.ctx? cx = some c ∧ c.st = .retired) → ends i op 2))
    ∧ every (fun i op => op ≠ 1 → s.bar.link.pending ≠ none → exec i s = .next s)
    ∧ ∀ c, s.ctx? cx = some c → c.st ≠ .retired → s.bar.link.pending = none →
      let changesIn := fun (b : State) (i : Instr) (op : Nat) (c' : Context) => ∃ t, exec i s = .next t
        ∧ t = { b with bar := t.bar, ctxs := t.ctxs } ∧ shows t op 0 ∧ t.ctx? cx = some c' ∧ ∀ x, x ≠ cx → t.ctx? x = s.ctx? x
      let changes := changesIn s
      let shape := a % 32 = 0 ∧ n ≠ 0 ∧ n < 65536
      let listRead := s.hvNote a (32 * n)
      let keyRead := s.hvNote a 64
      (¬ shape → ends (.vpod cx) 1 1) ∧ (shape → s.vpodList a n = none → endsIn listRead (.vpod cx) 1 3)
      ∧ (∀ rs, shape → s.vpodList a n = some rs → s.checkRecs c rs ≠ 0 → endsIn listRead (.vpod cx) 1 (s.checkRecs c rs))
      ∧ (∀ rs, shape → s.vpodList a n = some rs → s.checkRecs c rs = 0 → (∃ k ∈ s.sent, k.cx = cx ∧ k.untr = false) →
        ∃ t, exec (.vpod cx) s = .next t ∧ t = { listRead with bar := t.bar } ∧ t.bar.link.pending = some (cx, rs.map fun r => (r.table, r.idx, r.entry)))
      ∧ (∀ r, shape → s.vpodList a n = some [r] → s.checkRecs c [r] = 0 → (∀ k ∈ s.sent, k.cx ≠ cx ∨ k.untr = true) →
        let e := if r.valid = true then r.entry else 0
        let put := fun (f g : Nat → BitVec 128) => f r.idx = e ∧ ∀ i, i ≠ r.idx → f i = g i
        ∃ c', changesIn listRead (.vpod cx) 1 c'
          ∧ c' = { c with vchips := c'.vchips, routes := c'.routes, mcast := c'.mcast, ingress := c'.ingress, downRoutes := c'.downRoutes }
          ∧ (r.table = 1 → sget 0 c'.vchips r.idx = e.extractLsb' 0 64 ∧ (∀ i, i ≠ r.idx → sget 0 c'.vchips i = sget 0 c.vchips i)
            ∧ c'.routes = c.routes ∧ c'.mcast = c.mcast ∧ c'.ingress = c.ingress)
          ∧ (r.table = 2 → put (sget 0 c'.routes) (sget 0 c.routes) ∧ r.idx ∉ c'.downRoutes ∧ c'.vchips = c.vchips ∧ c'.mcast = c.mcast
            ∧ c'.ingress = c.ingress)
          ∧ (r.table = 3 → put (sget 0 c'.mcast) (sget 0 c.mcast) ∧ c'.vchips = c.vchips ∧ c'.routes = c.routes ∧ c'.ingress = c.ingress)
          ∧ (r.table = 4 → put (sget 0 c'.ingress) (sget 0 c.ingress) ∧ c'.vchips = c.vchips ∧ c'.routes = c.routes ∧ c'.mcast = c.mcast))
      ∧ (a % 64 ≠ 0 → ends (.vkey cx) 2 1) ∧ (a % 64 = 0 → s.hvRead a 64 = none → endsIn keyRead (.vkey cx) 2 3)
      ∧ (∀ bs, a % 64 = 0 → s.hvRead a 64 = some bs →
        let dir := fieldNat bs 0 1
        let i := fieldNat bs 1 1
        let good := dir ≤ 1 ∧ allZero bs 2 6 = true ∧ allZero bs 48 16 = true
        let wrapped := (bs.drop 8).take 40
        (¬ good → endsIn keyRead (.vkey cx) 2 3)
        ∧ (good → c.noSession = true ∨ keyUnwrap c.transKey wrapped = none → endsIn keyRead (.vkey cx) 2 6)
        ∧ ∀ k, good → c.noSession = false → keyUnwrap c.transKey wrapped = some k →
          let loaded := fun (e : KeyEntry) => if e.k0 = none ∧ e.k1 = none then { k0 := some k }
            else if e.phase = true then { e with k0 := some k, rolling := true } else { e with k1 := some k, rolling := true }
          (dir = 0 → ∃ c', changesIn keyRead (.vkey cx) 2 c' ∧ c' = { c with egKeys := c'.egKeys } ∧ keyAt c'.egKeys i = loaded (keyAt c.egKeys i)
            ∧ ∀ j, j ≠ i → keyAt c'.egKeys j = keyAt c.egKeys j)
          ∧ (dir = 1 → ∃ c', changesIn keyRead (.vkey cx) 2 c' ∧ c' = { c with inKeys := c'.inKeys } ∧ keyAt c'.inKeys i = loaded (keyAt c.inKeys i)
            ∧ ∀ j, j ≠ i → keyAt c'.inKeys j = keyAt c.inKeys j))
      ∧ (256 ≤ a → ends (.vswitch cx) 3 1)
      ∧ (let e := keyAt c.egKeys a
        (a < 256 → e.rolling = false → ends (.vswitch cx) 3 7)
        ∧ (a < 256 → e.rolling = true → ∃ c', changes (.vswitch cx) 3 c' ∧ c' = { c with egKeys := c'.egKeys }
          ∧ keyAt c'.egKeys a = (if e.phase = true then { e with k1 := none, phase := false, seq := 0, rolling := false }
            else { e with k0 := none, phase := true, seq := 0, rolling := false }) ∧ ∀ j, j ≠ a → keyAt c'.egKeys j = keyAt c.egKeys j))
      ∧ (let len := s.bar.link.larg2.toNat
        let right := a < 4096 ∧ len ≠ 0 ∧ len ≤ 1000000000
        (¬ right → ends (.hint cx) 4 1)
        ∧ (right → ∀ st, c.egress a 0 = .error st → if st = 3 then ends (.hint cx) 4 0 else ends (.hint cx) 4 8)
        ∧ (right → ∀ label port cxid vlink, c.egress a 0 = .ok (label, port, s.bar.link.pkgid, cxid, vlink) → 
          (∀ d, s.ctx? cxid = some d → d.resident = true ∨ d.gran.withheld = false ∧ d.gran.used + s.inFlight d + 256 ≤ d.bindRec.granSize) →
          (∀ k ∈ s.sent, k.id ≠ s.nextId) → ∃ t p, exec (.hint cx) s = .next t ∧ shows t 4 0 ∧ t = { s with bar := t.bar, sent := t.sent, net := s.net ++ [p], nextId := s.nextId + 1 }
            ∧ p.body = .hint n len ∧ p.cxid = cxid ∧ p.vlink = vlink ∧ p.loopback = true ∧ p.reply = false))
      ∧ changes (.vclear cx) 5 { c with vchips := [], routes := [], mcast := [], ingress := [], egKeys := [], inKeys := [] }

/-- PACKET_INGRESS, PACKET_ACK, RETRANSMIT, ROUTE_DOWN and CORUN_HINT (R330, R339, R341, R343, R347): what the checks of R339 turn away is
dropped or refused, what passes them is delivered and acknowledged under its key entry. Where a packet of another module has been
discarded, the later ones of its vlink wait for its resend (R330 keeps their order; the model's way, log 36). -/
def Obligations.PacketsArriveAndLeave : Prop :=
  (∀ (s : State) (k : Nat) (p : Packet), s.net[k]? = some p → p.reply = false →
    let first := ∀ q ∈ s.net.take k, ¬ (q.reply = false ∧ q.vlink = p.vlink ∧ q.loopback = p.loopback ∧ q.cxid = p.cxid)
    let gone := s.net.eraseIdx k
    let drops := exec (.packetIngress k) s = .next { s with net := gone }
    let answer := fun (b : PktBody) =>
      ({ pkg := s.backPkg p, cxid := 0, vlink := p.vlink, loopback := false, reply := true, body := b } : Packet)
    let tells := fun (b : PktBody) => exec (.packetIngress k) s = .next { s with net := gone, wire := s.wire ++ [answer b] }
    let discards := fun (c : Context) => ∃ t c', exec (.packetIngress k) s = .next t ∧ t = { s with net := gone, ctxs := t.ctxs }
      ∧ t.ctx? p.cxid = some c' ∧ c' = { c with lostPkts := c'.lostPkts } ∧ ∃ e ∈ c'.lostPkts, e.1 = p.vlink
    (¬ first → exec (.packetIngress k) s = .next s)
    ∧ (first → p.pkg ≠ s.bar.link.pkgid → drops)
    ∧ (first → p.pkg = s.bar.link.pkgid → p.loopback = false →
      (s.ctx? p.cxid = none → tells (.rNack p.answerTo p.body.site))
      ∧ ∀ c, s.ctx? p.cxid = some c →
        (c.st ∈ [CxState.bound, .locked, .error, .retired] → tells (.rNack p.answerTo p.body.site))
        ∧ (c.st ∈ [CxState.run, .sealing, .sealed, .restoring, .halted] → (c.ingress? p.vlink = none → discards c)
          ∧ ∀ src ki, c.ingress? p.vlink = some (src, ki) →
            let e := keyAt c.inKeys ki
            let opens := p.intact = true ∧ e.slot p.phase ≠ none ∧ e.slot p.phase = p.sealedUnder
            let fresh := opens ∧ (p.phase ≠ e.phase ∨ e.seq ≤ p.seq) ∧ c.awaitsLost s.cycle p = false
            let append := fun (r : GranRec) => ∃ t c', exec (.packetIngress k) s = .next t ∧ SameMem s t ∧ t.ctx? p.cxid = some c'
              ∧ c'.gran.recs = c.gran.recs ++ [(c.gran.next, c.gran.head, r)] ∧ keyAt c'.inKeys ki = e.accept p.phase p.seq
              ∧ t.wire = s.wire ++ [answer (.ack p.id)]
            (¬ opens → p.phase = e.phase ∧ p.seq < e.seq → drops)
            ∧ (¬ opens → ¬ (p.phase = e.phase ∧ p.seq < e.seq) → discards c)
            ∧ (opens → p.phase = e.phase → p.seq < e.seq → tells (.ack p.id))
            ∧ (opens → p.phase ≠ e.phase ∨ e.seq ≤ p.seq → c.awaitsLost s.cycle p = true → drops)
            ∧ (fresh → ∀ start len, p.body = .hint start len → s.gtime < start + len → c.resident = true →
              ∃ t c', exec (.packetIngress k) s = .next t ∧ t = { s with net := gone, ctxs := t.ctxs, wire := t.wire }
                ∧ t.wire = s.wire ++ [answer (.ack p.id)] ∧ t.ctx? p.cxid = some c'
                ∧ c' = { c with hints := (start, len) :: c.hints.filter fun h => decide (s.gtime < h.1 + h.2), inKeys := c'.inKeys,
                                lostPkts := c.lostPkts.filter fun x => x.1 != p.vlink }
                ∧ keyAt c'.inKeys ki = e.accept p.phase p.seq)
            ∧ (fresh → ∀ start len, p.body = .hint start len → c.resident = false → c.granRoom = true →
              append (.req p.cxid p.vlink src false p.body))
            ∧ (fresh → ∀ x si, p.body = .send x si → c.granRoom = false → exec (.packetIngress k) s = .next s)
            ∧ (fresh → ∀ x si, p.body = .send x si → c.granRoom = true → append (.msg src x)))))
  ∧ (∀ (s : State) (k id : Nat) (p : Packet), s.net[k]? = some p → p.reply = true → p.body = .ack id →
    let passes := p.loopback = true ∨ p.pkg = s.bar.link.pkgid ∧ p.intact = true
    (¬ passes → exec (.packetIngress k) s = .next { s with net := s.net.eraseIdx k })
    ∧ (passes → ∃ t, exec (.packetIngress k) s = .next t ∧ t = { s with net := s.net.eraseIdx k, sent := t.sent }
      ∧ t.sent = s.sent.map fun x => if x.id = id then { x with acked := true } else x))
  ∧ (∀ (s : State) (k : Nat) (p : SentPkt), s.sent[k]? = some p →
    let quiet := s.bar.link.pending = none ∧ ∀ x ∈ s.sent, x.held = false
    (p.held = true ∨ p.pkt.loopback = true ∧ p.acked = false → exec (.packetAck k) s = .next s)
    ∧ (quiet → p.pkt.loopback = false ∨ p.acked = true → ∃ t, exec (.packetAck k) s = .next t ∧ t = { s with sent := t.sent }
      ∧ ∀ x, x ∈ t.sent ↔ x ∈ s.sent ∧ x.id ≠ p.id)
    ∧ (p.held = false → s.cycle < p.lastSent + 22500 ∨ p.acked = true → exec (.retransmit k) s = .next s)
    ∧ (p.held = false → p.lastSent + 22500 ≤ s.cycle → p.acked = false → p.pkt.loopback = false → ∃ t, exec (.retransmit k) s = .next t
      ∧ t = { s with sent := t.sent, wire := s.wire ++ [p.pkt] }
      ∧ t.sent = s.sent.map fun x => if x.id = p.id then { x with lastSent := s.cycle } else x)
    ∧ (p.untr = true ∨ p.acked = true ∨ s.cycle < p.since + 225000000 → exec (.routeDown k) s = .next s)
    ∧ (∀ c r core key acqs op addr plain, s.sent = [p] → quiet → p.untr = false → p.acked = false → p.since + 225000000 ≤ s.cycle →
      s.ctx? p.cx = some c → p.pkt.body = .load r.id addr plain → s.reqs = [r] → r.kind = .fill core key acqs op →
      ∃ t c' f, exec (.routeDown k) s = .next t ∧ t.sent = [] ∧ t.reqs = [] ∧ t.fills = s.fills ++ [f] ∧ f.core = core ∧ f.key = key
        ∧ f.op = op ∧ f.poison = true ∧ t.hostEvents = s.hostEvents ++ [.linkDown p.port p.label] ∧ SameMem s t
        ∧ t.ctx? p.cx = some c' ∧ c' = { c with downRoutes := c'.downRoutes }
        ∧ ∀ x, x ∈ c'.downRoutes ↔ x = p.label ∨ x ∈ c.downRoutes))
  ∧ ∀ (s : State) (cx : Nat) (start : DWord) (len : Nat) (c : Context), s.ctx? cx = some c →
    (start.toNat + len ≤ s.gtime → exec (.corunHint cx start len) s = .next s)
    ∧ (s.gtime < start.toNat + len → c.st = .sealed →
      exec (.corunHint cx start len) s = .next { s with hostEvents := s.hostEvents ++ [.corun cx start.toNat len] })
    ∧ (s.gtime < start.toNat + len → c.st ≠ .sealed → ∃ t, exec (.corunHint cx start len) s = .next t
      ∧ OnlyContext s t c { c with hints := (start.toNat, len) :: c.hints.filter fun h => decide (s.gtime < h.1 + h.2) })

/-- PTP_EVENT_MESSAGE, PORT_TRAINED, SPDM_MESSAGE, the idle levels, POWER_CAP and DEVICE_START (R19, R337, R350 to R354, R359, R361 to
R365). -/
def Obligations.TimePortsIdleAndStart : Prop :=
  (∀ (s : State) (corr : Int),
    let locks := fun (x : State) => if s.ptpSync = true then x else { x with ptpSync := true, hostEvents := s.hostEvents ++ [.ptpLock] }
    (corr = 0 → exec (.ptpEventMessage corr) s = .next (locks s))
    ∧ (corr < 0 → exec (.ptpEventMessage corr) s = .next (locks { s with slew := s.slew + 90000 * corr.natAbs }))
    ∧ (0 < corr → ∃ t, exec (.ptpEventMessage corr) s = .next t ∧ t.gtime = (s.gtime + corr.natAbs) % 2 ^ 64 ∧ t.ptpSync = true ∧ SameMem s t
      ∧ t.kernels.length = s.kernels.length
      ∧ ∀ k ∈ t.kernels, s.ctx? k.cx ≠ none → k.st = .recorded → ∀ u, Dep.gtime u ∈ k.deps → t.gtime < u))
  ∧ (∀ (s : State) (port : Nat) (up : Bool),
    (8 ≤ port ∨ s.modl.geo.ptmask.getLsbD port = false → exec (.portTrained port up) s = .next s)
    ∧ (port < 8 → s.modl.geo.ptmask.getLsbD port = true → ∃ t b, exec (.portTrained port up) s = .next t
      ∧ t = { s with bar := { s.bar with link := { s.bar.link with portup := b } } }
      ∧ ∀ j, j < 8 → b.getLsbD j = if j = port then up else s.bar.link.portup.getLsbD j))
  ∧ (∀ (s : State) (id : Nat),
    let tells := fun (m : SpdmMsg) (modl : Module) (code sigs : Nat) =>
      exec (.spdmMessage m) s = .next { s with modl := modl, hostEvents := s.hostEvents ++ [.spdmReply id code sigs] }
    let known := ∃ x ∈ s.modl.sessions, x.id = id
    let become := fun (f : SpdmSession → SpdmSession) => { s.modl with sessions := s.modl.sessions.map fun x => if x.id = id then f x else x }
    let others := s.modl.sessions.filter fun x => x.id != id
    let signs := fun (k : SpdmSigned) (m : Module) => { m with signed := (id, k) :: m.signed.filter (· != (id, k)) }
    (∀ x, tells (.keyExchange id x)
      (signs .keyExchange { s.modl with sessions := others ++ [{ id := id, secret := x }], lastSession := some x }) 0 1)
    ∧ (known → ∀ auth, tells (.finish id auth) (become fun x => { x with authenticated := auth }) 0 0)
    ∧ (∀ k, (id, k) ∈ s.modl.signed →
      tells (.fetchMldsa id k) (if k = .keyExchange then become fun x => { x with mldsa := true } else s.modl) 0 2)
    ∧ (∀ k, (id, k) ∉ s.modl.signed → tells (.fetchMldsa id k) s.modl 1 0)
    ∧ (¬ known → ∀ auth, tells (.finish id auth) s.modl 1 0)
    ∧ tells (.challenge id) (signs .challengeAuth s.modl) 0 1
    ∧ exec (.spdmMessage (.measurements id)) s = .next { s with modl := signs .measurements s.modl, hostEvents := s.hostEvents ++
      [.spdmReply id 0 1 ((List.range 8).map fun i => s.modl.measure.getD i 0)] }
    ∧ (∀ slot, slot < 2 → exec (.spdmMessage (.getCertificate id slot)) s = .next { s with hostEvents := s.hostEvents ++
      [.certificate id slot (slot + 1)] }) ∧ (∀ slot, 2 ≤ slot → tells (.getCertificate id slot) s.modl 1 0)
    ∧ tells (.endSession id) { s.modl with sessions := others, signed := s.modl.signed.filter fun e => e.1 != id } 0 0
    ∧ ∀ (stream : Nat) (key : Key),
      let rest := s.modl.ideStreams.filter fun e => e.1 != stream
      let secure := ∃ x ∈ s.modl.sessions, x.id = id ∧ x.mldsa = true
      (secure → rest.length < 8 → tells (.ideKm id stream key) { s.modl with ideStreams := rest ++ [(stream, key)] } 0 0)
      ∧ (¬ secure ∨ 8 ≤ rest.length → tells (.ideKm id stream key) s.modl 1 0)
      ∧ (secure → tells (.ideKmLink id key) { s.modl with linkIde := some key } 0 0) ∧ (¬ secure → tells (.ideKmLink id key) s.modl 1 0)
      ∧ (∀ cx, ¬ secure ∨ s.ctx? cx = none → tells (.tdiReport id cx) s.modl 1 0)
      ∧ ∀ cx c, s.ctx? cx = some c → secure → (c.bindRec.tdi = false → tells (.tdiReport id cx) s.modl 1 0)
        ∧ (c.bindRec.tdi = true → ∃ rep, exec (.spdmMessage (.tdiReport id cx)) s = .next { s with hostEvents := s.hostEvents ++ [.tdiReport id cx rep] }
          ∧ rep.first = 0x1000 * c.firstIface ∧ rep.stop = 0x1000 * (c.firstIface + c.bindRec.queues) ∧ rep.pasid = c.bindRec.pasid
          ∧ rep.digest = Config.sha384 (leNat c.bindRec.bytes.reverse) 128 ∧ rep.state = tdispOf c.st))
  ∧ (∀ (s : State) (u : IdleUnit),
    let idle := fun (l : List IdleUnit) => ({ s with modl := { s.modl with idle := l } } : State)
    let us := match u with | .core _ => 2 | .sector _ => 20 | .hbm => 150 | .ports => 2000
    let left := s.modl.idle.filter fun v => !wakes u v
    let soon := ∃ n ∈ s.dueTimes, s.gtime ≤ n ∧ n ≤ s.gtime + 1000 * us
    ((∀ c ∈ s.ctxs, c.st = .run → us ≤ c.lt) → s.idleCond u = true → ¬ soon → u ∉ s.modl.idle →
      exec (.idleLevelEntry u) s = .next (idle (s.modl.idle ++ [u])))
      ∧ (s.idleCond u = false ∨ soon ∨ u ∈ s.modl.idle → exec (.idleLevelEntry u) s = .next s)
      ∧ exec (.idleLevelExit u) s = .next (idle left)
      ∧ ∀ due : DWord,
        let near := due.toNat ∈ s.dueTimes ∧ s.gtime ≤ due.toNat ∧ due.toNat ≤ s.gtime + 1000 * us
        (near → exec (.idlePrewake u due) s = .next (idle left)) ∧ (¬ near → exec (.idlePrewake u due) s = .next s))
  ∧ (∀ (s : State) (u : IdleUnit) (c : Context), c ∈ s.ctxs → c.st = .run →
    c.lt < (match u with | .core _ => 2 | .sector _ => 20 | .hbm => 150 | .ports => 2000) → exec (.idleLevelEntry u) s = .next s)
  ∧ (∀ (s : State) (on : Bool), exec (.powerCap on) s = .next { s with modl := { s.modl with powerCapped := on } })
  ∧ ∀ (s : State) (inp : StartIn),
    let zero : BitVec 384 := 0
    let good := fun (i : ImageIn) => i.ed25519 = true ∧ i.mldsa = true
    let altBad := fun (i : ImageIn) => i.altEd25519 = false ∨ i.altMldsa = false
    (good inp.stage1 → good inp.firmware → good inp.recordImg → s.modl.recordVersion ≤ inp.record.version →
      inp.hbm10 = true → inp.portsOk = true → inp.ptpOk = true → ∃ t, exec (.deviceStart inp) s = .next t ∧ t.mem = [] ∧ t.ctxs = []
        ∧ t.groups = [] ∧ t.kernels = [] ∧ t.cores = [] ∧ t.queues = [{ iface := 4096, st := .idle }] ∧ t.cycle = 0 ∧ t.hostMem = s.hostMem
        ∧ t.hostEvents = s.hostEvents ++ [.ptpLock] ∧ t.ptpSync = true ∧ t.modl.recovery = false ∧ t.modl.hbmRate = 10
        ∧ t.modl.startCount = s.modl.startCount + 1 ∧ t.modl.recordVersion = inp.record.version
        ∧ t.modl.serial = inp.record.serial ∧ t.modl.signed = [] ∧ t.modl.geo.clmask = inp.record.clmask
        ∧ t.modl.slot 0 = extend zero inp.stage1.hash ∧ t.modl.slot 1 = extend zero inp.firmware.hash
        ∧ t.modl.slot 2 = extend zero inp.recordImg.hash ∧ t.modl.slot 3 = extend zero (hashNat 10) ∧ t.modl.absent = s.modl.retired
        ∧ t.bar.link.portup = inp.portsUp &&& inp.record.ptmask ∧ t.modl.sessions = [] ∧ t.modl.lastSession = none
        ∧ t.modl.bootLog.map (fun e => (e.step, e.outcome, e.attempts)) =
          s.modl.bootLog.map (fun e => (e.step, e.outcome, e.attempts)) ++ (List.range 7).map fun j => (BitVec.ofNat 8 (j + 1), 0#8, 1#16))
    ∧ (¬ good inp.stage1 → altBad inp.stage1 → ∃ t, exec (.deviceStart inp) s = .next t ∧ t.modl.recovery = true ∧ t.ctxs = []
      ∧ t.modl.bootLog.map (fun e => (e.step, e.outcome, e.attempts)) =
        s.modl.bootLog.map (fun e => (e.step, e.outcome, e.attempts)) ++ [(1, 1, 1), (1, 1, 2)])

/-- A step runs the decoded instruction (R8, R29, R30, R41, R43): where no step with a stated cycle is due before it, a port takes the
issuer and nothing is raised before its word, the step executes the instruction that the words at its PC decode to, in the state behind
the fetch; afterwards only the port order, the record of what the cycle has taken, the units that are awake and, under single step, a
held STEP have changed beside. An act that its object takes before one that this cycle has taken waits for the next cycle. The step of
another agent executes its row, and so does a step that is due in its stated cycle. -/
def Obligations.StepRunsTheDecodedInstruction : Prop :=
  let ends := fun (s s0 : State) (a : Act) (t : State) => t.migWait = false →
    (s0.tooLate (reached a s0 t) = false → step s = .next ((t.wakeFor s0 a).noted a s0).wakeNeeded)
    ∧ (s0.tooLate (reached a s0 t) = true → step s = .next ({ s0 with schedule := { dt := 1, act := a } :: s0.schedule } : State).wakeNeeded)
  (∀ (s : State) (g : Group) (p : Split), s.schedule = [] → s.modl.recovery = false → s.dueBy (s.cycle + 1) = none →
    let s0 := s.pass 1
    Issues s0 g p → s0.ready g p = true → s0.portAllows g p = true → g.argsRead = true ∨ g.trapRec ≠ none → s0.dueWalk g p = none →
    g.dueHeld p = none → s0.watchdogDue g p = false → s0.breakDue g p = false → ∀ s1 w, s0.fetchWord g p.pc = (s1, .ok w) →
    let ends := ends s s0 (.issue g.ref.core g.ref.gctx p.id)
    let runs := fun (i : Instr) (x : State) => ∀ t, exec i x = .next t → ends (afterIssue g p w t)
    (∀ c i, p.clause = some c → takesLiteral w = false → clauseRules p c w 1 = true → decode w 0 = .ok i → runs i s1)
    ∧ (∀ c i s2 lit, p.clause = some c → takesLiteral w = true → clauseRules p c w 2 = true → s1.fetchWord g (p.pc + 4) = (s2, .ok lit) →
      decode w lit = .ok i → runs i s2)
    ∧ (∀ wait sav sa sbv sb n yh, p.clause = none → p.pc % 4 = 0 → p.padDue = none → isHeader w = true →
      decode w 0 = .ok (.clauseHeader wait sav sa sbv sb n false yh) →
      runs (.clauseHeader wait sav sa sbv sb n false yh) (s1.updSplit g.ref p.id fun q => { q with padDue := none }))
    ∧ (∀ c n, p.clause = some c → n = (if takesLiteral w = true then 2 else 1) → clauseRules p c w n = false →
      ends (afterIssue g p w (s1.trapILL g p w n))))
  ∧ (∀ (s : State) (m : Move) (ms : List Move) (i : Instr), s.schedule = m :: ms → m.act = .event i → i.words = 0 →
    s.modl.recovery = false ∨ m.act.inRecovery = true →
    (s.dueBy (s.cycle + m.dt) = none
      ∨ (∃ d, s.dueBy (s.cycle + m.dt) = some d ∧ d.cycle = s.cycle + m.dt ∧ d.step.named m.act = true) → let s0 := ({ s with schedule := ms } : State).pass m.dt
      ∀ t, exec i { s0 with hostStream := none } = .next t → ends s s0 m.act t)
    ∧ ∀ d j t, s.dueBy (s.cycle + m.dt) = some d → d.step = .event j → d.step.named m.act = false →
      let n := d.cycle - s.cycle
      let s0 := ({ s with schedule := { m with dt := m.dt - n } :: ms } : State).pass n
      exec j { s0 with hostStream := none } = .next t →
      step s = .next (({ t with migWait := false } : State).noted (.event j) s0).wakeNeeded)
  ∧ ∀ (t : State) (g h : Group) (p q : Split) (w : Word), t.group? g.ref = some h → h.split? p.id = some q → h.ref = g.ref → q.id = p.id →
    (q.wait = .poll → q.pc ≠ p.pc) →
    let t' := afterIssue g p w t
    let issued := p.clause ≠ none ∧ (q.pc ≠ p.pc ∨ q.clause ≠ p.clause)
    t' = { t with groups := t'.groups, cores := t'.cores } ∧ (∀ r, r ≠ g.ref → t'.group? r = t.group? r)
      ∧ (∀ n, n ≠ g.ref.core → t'.core n = t.core n) ∧ ∃ h' q', t'.group? g.ref = some h' ∧ h'.split? p.id = some q'
      ∧ h' = { h with held := h'.held, splits := h'.splits } ∧ (∀ n, n ≠ p.id → h'.split? n = h.split? n)
      ∧ (¬ issued → q' = q ∧ t'.cores = t.cores)
      ∧ (issued → q' = { q with lastIssue := t.cycle, readySince := t.cycle, aged := 0 } ∧ ∃ n, t'.core g.ref.core =
        { t.core g.ref.core with issuedAt := (t.cycle, n) })
      ∧ (g.step = false → h'.held = h.held)

/-- Words of the spec's own example and of its encodings decode to the instructions that they stand for (R29, R37 to R41). -/
def Obligations.WordsDecodeAsWritten : Prop :=
  decode 0xF0010020 0 = .ok (.clauseHeader 1 false 0 false 0 4 false false)
  ∧ decode 0x02428185 0 = .ok (.iadd false 10 3 (.imm 5))
  ∧ decode 0x02E2C180 0x000186A0 = .ok (.iadd true 11 3 (.lit 100000))
  ∧ decode 0x1943050B 0 = .ok (.sel 2 12 10 11)
  ∧ decode 0x9217FFFB 0 = .ok (.brnz 5 0x3FFFB)
  ∧ decode 0x43220482 0 = .ok (.ffma 8 9 (.s 2))
  ∧ decode 0x8040C20C 0 = .ok (.sadd false 3 4 (.imm 12))
  ∧ decode 0x7C028584 0x04000005 = .ok (.xchg false 10 11 4 1 5)
  ∧ decode 0xE0050400 0x28 = .ok (.spawn 20 8 0x28)
  ∧ decode 0xEB010012 0 = .ok (.sread false 4 0x012)

/-- Decoding gives back every well-formed instruction that has words: no field of an encoding is dropped. -/
def Obligations.DecodeInvertsEncode : Prop :=
  ∀ i : Instr, i.wf = true → encode i ≠ [] →
    ∃ w rest, encode i = w :: rest ∧ rest.length ≤ 1 ∧ (rest ≠ [] ↔ takesLiteral w = true) ∧ decode w (rest.headD 0) = .ok i

/-- Reserved opcodes (R41, R43): no word with one decodes, and in a clause it traps ILL. -/
def Obligations.ReservedOpcodesTrap : Prop :=
  ∀ w lit : Word,
    let op := (w.extractLsb' 24 8).toNat
    0x1F ≤ op ∧ op ≤ 0x3F ∨ op = 0x4E ∨ op = 0x4F ∨ 0x53 ≤ op ∧ op ≤ 0x57 ∨ 0x63 ≤ op ∧ op ≤ 0x6F ∨ 0x7D ≤ op ∧ op ≤ 0x7F ∨ op = 0x8E
      ∨ op = 0x8F ∨ 0x9D ≤ op ∧ op ≤ 0x9F ∨ op = 0xAF ∨ op = 0xB6 ∨ op = 0xB7 ∨ op = 0xCF ∨ op = 0xD7 ∨ 0xDC ≤ op ∧ op ≤ 0xDF →
    (∀ i, decode w lit ≠ .ok i)
    ∧ ∀ (s : State) (g : Group) (p : Split) (c : Clause), takesLiteral w = false → s.issueWord g p c w = .next (s.trapILL g p w 1)

/-- The machine right after start (R71, R95, R350, R362): every context is FREE, no group, kernel or copy exists, the hypervisor queue is
IDLE with its registers 0, $GTIME and $CYCLE count from 0, and the command blocks read 0. -/
def Obligations.ResetState : Prop :=
  let s := State.reset
  s.ctxs = [] ∧ s.groups = [] ∧ s.wgs = [] ∧ s.kernels = [] ∧ s.ops = [] ∧ s.copies = [] ∧ s.circuits = [] ∧ s.images = []
  ∧ s.queues = [{ iface := 4096, st := .idle, qbase := 0, qsize := 0, wridx := 0, rdidx := 0 }] ∧ s.gtime = 0 ∧ s.cycle = 0
  ∧ s.bar.cmd = { cxid := 0, op := 0, pending := none, err := 0, st := 0, arg := 0 }
  ∧ s.bar.pool = { cxid := 0, op := 0, err := 0, farg0 := 0, farg1 := 0, fres := 0 } ∧ s.sent = [] ∧ s.hostEvents = []

/-- Memory is canonical at reset. -/
def Obligations.ResetMemoryIsCanonical : Prop := State.reset.memWf

/-- Memory stays canonical: its addresses rise, and no entry equals what an unlisted byte reads as (log 1), whatever step is taken. -/
def Obligations.MemoryStaysCanonical : Prop := ∀ s t : State, s.memWf → step s = .next t → t.memWf

/-- Translation (R316, R327): a walk that translates an access writes one entry of memory, that at which it ends, with A set, and D for a
write; it drops the copies of that entry's line and wakes the watches on it, as every write at a home does, and leaves the rest of the
machine. A walk that gives a cause, or that waits for a page in migration, changes no memory: it leaves what a read of a line that is
poisoned or corrected leaves. A look of the model's own (Acc.quiet) that translates leaves all. -/
def Obligations.WalksSetAccessedAndDirty : Prop :=
  ∀ (s : State) (cx va : Nat) (a : Acc), regionOf va = .localTable → (∀ c, s.ctx? cx = some c → c.bindRec.ptRoot % 8 = 0) →
    let t := (s.walk cx va a).1
    let r := (s.walk cx va a).2
    let noted : State := { s with lineMeta := t.lineMeta, hostEvents := t.hostEvents, modl := { s.modl with corrections := t.modl.corrections } }
    ((∀ x, r ≠ .ok x) → t = noted) ∧ (r = .wait → t = s)
    ∧ ∀ x, r = .ok x → (a = .quiet → t = s) ∧ ∃ c ea p, s.ctx? cx = some c ∧ s.pteOf c va = some (ea, p) ∧ p.v = true ∧ p.leaf = true
      ∧ p.mig = false ∧ (a ≠ .quiet →
        let raw := p.raw ||| 0x40000000000000#64 ||| if a = .write ∨ a = .openWrite then 0x80000000000000#64 else 0#64
        (∀ b, t.byte b = if ea ≤ b ∧ b < ea + 8 then BitVec.ofNat 8 (raw.toNat / 256 ^ (b - ea)) else s.byte b)
        ∧ t = { noted with mem := t.mem, cores := t.cores, ops := t.ops, images := t.images, rwatches := t.rwatches, net := t.net,
                           wire := t.wire, l2 := t.l2, ccopies := t.ccopies, cfills := t.cfills, pushed := t.pushed, pushes := t.pushes,
                           freeCount := t.freeCount }
        ∧ (s.pushed = [] → t.cores = s.cores) ∧ (s.rwatches = [] → t.net = s.net ∧ t.wire = s.wire)
        ∧ ((∀ o ∈ s.ops, o.kind.isWatch = false) → t.ops = s.ops))
end

