-- ==== Sys2Proof/Laws/Sparse.lean ====
section
/-! SUPPORT. Laws of the canonical sparse maps: a read after a write gives the value written, a write leaves every other key alone, and
every write keeps the canonical form. -/

namespace Sys2Proof.Machine

variable {α : Type}

@[simp] theorem sget_nil (d : α) (k : Nat) : sget d ([] : Sparse α) k = d := rfl

/-- Below all its keys a map reads as unlisted. -/
theorem sget_below (d : α) {j : Nat} (l : Sparse α) (h : ∀ e ∈ l, j < e.1) : sget d l j = d := by
  induction l with
  | nil => simp
  | cons e t ih =>
    have := h e (by simp)
    have hne : j ≠ e.1 := by omega
    simp [sget, hne, ih fun x hx => h x (by simp [hx])]

theorem sget_sins_same (d : α) (k : Nat) (v : α) (m : Sparse α) (h : ∀ e ∈ m, e.1 ≠ k) : sget d (sins k v m) k = v := by
  induction m with
  | nil => simp [sins, sget]
  | cons e t ih =>
    have he : k ≠ e.1 := fun c => h e (by simp) c.symm
    have ht : ∀ x ∈ t, x.1 ≠ k := fun x hx => h x (by simp [hx])
    by_cases hlt : k < e.1
    · simp [sins, hlt, sget]
    · simp [sins, hlt, sget, he, ih ht]

theorem sget_sins_other (d : α) {k j : Nat} (hj : j ≠ k) (v : α) (m : Sparse α) : sget d (sins k v m) j = sget d m j := by
  induction m with
  | nil => simp [sins, sget, hj]
  | cons e t ih =>
    by_cases hlt : k < e.1
    · simp [sins, hlt, sget, hj]
    · simp [sins, hlt, sget, ih]

theorem sget_filter_other (d : α) {k j : Nat} (hj : j ≠ k) (m : Sparse α) :
    sget d (m.filter fun e => e.1 != k) j = sget d m j := by
  induction m with
  | nil => rfl
  | cons e t ih =>
    by_cases he : e.1 = k
    · have : j ≠ e.1 := fun c => hj (c.trans he)
      simp [he, sget, hj, ih]
    · simp [he, sget, ih]

theorem sget_filter_same (d : α) (k : Nat) (m : Sparse α) : sget d (m.filter fun e => e.1 != k) k = d := by
  induction m with
  | nil => rfl
  | cons e t ih =>
    by_cases he : e.1 = k
    · simp [he, ih]
    · have : k ≠ e.1 := fun c => he c.symm
      simp [he, sget, this, ih]

variable [DecidableEq α]

/-- A read after a write to the same key gives the value written. -/
@[simp] theorem sget_sput_same (d : α) (m : Sparse α) (k : Nat) (v : α) : sget d (sput d m k v) k = v := by
  unfold sput
  by_cases hv : v = d
  · simp [hv, sget_filter_same]
  · simp [hv]
    exact sget_sins_same d k v _ (by simp)

/-- A write leaves every other key alone. -/
theorem sget_sput_other (d : α) (m : Sparse α) {k j : Nat} (hj : j ≠ k) (v : α) :
    sget d (sput d m k v) j = sget d m j := by
  unfold sput
  by_cases hv : v = d
  · simp [hv, sget_filter_other d hj]
  · simp [hv, sget_sins_other d hj, sget_filter_other d hj]

theorem sget_sput (d : α) (m : Sparse α) (k j : Nat) (v : α) :
    sget d (sput d m k v) j = if j = k then v else sget d m j := by
  by_cases h : j = k
  · simp [h]
  · simp [h, sget_sput_other d m h]

/-- A run of writes: the keys of the run read as written, every other key as before. -/
theorem sget_sputRun (d : α) (m : Sparse α) (k : Nat) (l : List α) (j : Nat) :
    sget d (sputRun d m k l) j = if k ≤ j ∧ j < k + l.length then l.getD (j - k) d else sget d m j := by
  induction l generalizing k with
  | nil => simp [sputRun]
  | cons v vs ih =>
    simp only [sputRun, sget_sput, ih (k + 1), List.length_cons]
    by_cases h : j = k
    · simp [h]
    · by_cases h2 : k + 1 ≤ j ∧ j < k + 1 + vs.length
      · have e : j - k = (j - (k + 1)) + 1 := by omega
        have h3 : k ≤ j ∧ j < k + (vs.length + 1) := by omega
        simp only [h, if_false, if_pos h2, if_pos h3, e, List.getD_cons_succ]
      · have h3 : ¬ (k ≤ j ∧ j < k + (vs.length + 1)) := by omega
        simp only [h, if_false, if_neg h2, if_neg h3]

/-! ## The canonical form -/

/-- The canonical form as a proposition: keys strictly rising, no entry that an unlisted key would read as. -/
theorem Sparse.wf_iff (d : α) (m : Sparse α) :
    Sparse.wf d m = true ↔ m.Pairwise (fun a b => a.1 < b.1) ∧ ∀ e ∈ m, e.2 ≠ d := by
  induction m with
  | nil => simp [Sparse.wf]
  | cons e t ih =>
    cases t with
    | nil => simp [Sparse.wf]
    | cons e2 t2 =>
      obtain ⟨a, v⟩ := e
      obtain ⟨b, w⟩ := e2
      simp only [Sparse.wf, Bool.and_eq_true, decide_eq_true_eq, bne_iff_ne, ih]
      constructor
      · rintro ⟨⟨hab, hv⟩, hp, hall⟩
        refine ⟨?_, ?_⟩
        · rw [List.pairwise_cons]
          refine ⟨?_, hp⟩
          intro x hx
          rcases List.mem_cons.mp hx with rfl | hx
          · exact hab
          · exact Nat.lt_trans hab ((List.pairwise_cons.mp hp).1 x hx)
        · intro x hx
          rcases List.mem_cons.mp hx with rfl | hx
          · exact hv
          · exact hall x hx
      · rintro ⟨hp, hall⟩
        rw [List.pairwise_cons] at hp
        exact ⟨⟨hp.1 (b, w) (by simp), hall (a, v) (by simp)⟩, hp.2, fun x hx => hall x (by simp [List.mem_cons.mp hx])⟩

theorem sins_mem (k : Nat) (v : α) (m : Sparse α) (e : Nat × α) : e ∈ sins k v m ↔ e = (k, v) ∨ e ∈ m := by
  induction m with
  | nil => simp [sins]
  | cons x t ih =>
    by_cases h : k < x.1
    · simp [sins, h]
    · simp only [sins, h, if_false, List.mem_cons, ih]
      tauto

theorem sins_pairwise (k : Nat) (v : α) (m : Sparse α) (hp : m.Pairwise (fun a b => a.1 < b.1)) (hk : ∀ e ∈ m, e.1 ≠ k) :
    (sins k v m).Pairwise (fun a b => a.1 < b.1) := by
  induction m with
  | nil => simp [sins]
  | cons x t ih =>
    rw [List.pairwise_cons] at hp
    by_cases h : k < x.1
    · simp only [sins, h, if_true]
      refine List.pairwise_cons.mpr ⟨?_, List.pairwise_cons.mpr hp⟩
      intro e he
      rcases List.mem_cons.mp he with rfl | he
      · exact h
      · exact Nat.lt_trans h (hp.1 e he)
    · simp only [sins, h, if_false]
      refine List.pairwise_cons.mpr ⟨?_, ih hp.2 fun e he => hk e (by simp [he])⟩
      intro e he
      rcases (sins_mem k v t e).mp he with rfl | he
      · have := hk x (by simp)
        show x.1 < k
        omega
      · exact hp.1 e he

/-- Every write keeps the canonical form. -/
theorem sput_wf (d : α) (m : Sparse α) (k : Nat) (v : α) (h : Sparse.wf d m = true) : Sparse.wf d (sput d m k v) = true := by
  rw [Sparse.wf_iff] at h ⊢
  have hf : (m.filter fun e => e.1 != k).Pairwise (fun a b => a.1 < b.1) := h.1.filter _
  unfold sput
  by_cases hv : v = d
  · simp only [hv, if_true]
    exact ⟨hf, fun e he => h.2 e (List.mem_filter.mp he).1⟩
  · simp only [hv, if_false]
    refine ⟨sins_pairwise k v _ hf (by simp), ?_⟩
    intro e he
    rcases (sins_mem k v _ e).mp he with rfl | he
    · exact hv
    · exact h.2 e (List.mem_filter.mp he).1

theorem sputRun_wf (d : α) (m : Sparse α) (k : Nat) (l : List α) (h : Sparse.wf d m = true) :
    Sparse.wf d (sputRun d m k l) = true := by
  induction l generalizing k with
  | nil => exact h
  | cons v vs ih => exact sput_wf d _ k v (ih (k + 1))

/-- Below its first key a canonical map reads as unlisted. -/
theorem sparse_head (d : α) {a : Nat} {v : α} {t : Sparse α} (h : Sparse.wf d ((a, v) :: t) = true) {j : Nat} (hj : j < a) :
    sget d ((a, v) :: t) j = d := by
  rw [Sparse.wf_iff] at h
  have hp := List.pairwise_cons.mp h.1
  refine sget_below d _ ?_
  intro e he
  rcases List.mem_cons.mp he with rfl | he
  · exact hj
  · exact Nat.lt_trans hj (hp.1 e he)

theorem Sparse.wf_tail (d : α) {e : Nat × α} {t : Sparse α} (h : Sparse.wf d (e :: t) = true) : Sparse.wf d t = true := by
  rw [Sparse.wf_iff] at h ⊢
  exact ⟨(List.pairwise_cons.mp h.1).2, fun x hx => h.2 x (by simp [hx])⟩

/-- Two canonical maps that read alike are equal data. -/
theorem sparse_ext (d : α) (m n : Sparse α) (hm : Sparse.wf d m = true) (hn : Sparse.wf d n = true)
    (h : ∀ k, sget d m k = sget d n k) : m = n := by
  induction m generalizing n with
  | nil =>
    cases n with
    | nil => rfl
    | cons e t =>
      have := (Sparse.wf_iff d _).mp hn
      have h1 := h e.1
      simp [sget] at h1
      exact absurd h1.symm (this.2 e (by simp))
  | cons x t ih =>
    cases n with
    | nil =>
      have := (Sparse.wf_iff d _).mp hm
      have h1 := h x.1
      simp [sget] at h1
      exact absurd h1 (this.2 x (by simp))
    | cons y u =>
      obtain ⟨a, v⟩ := x
      obtain ⟨b, w⟩ := y
      have hv := ((Sparse.wf_iff d _).mp hm).2 (a, v) (by simp)
      have hw := ((Sparse.wf_iff d _).mp hn).2 (b, w) (by simp)
      have hab : a = b := by
        rcases Nat.lt_trichotomy a b with hlt | heq | hgt
        · have h1 := h a
          rw [sparse_head d hn hlt] at h1
          simp [sget] at h1
          exact absurd h1 hv
        · exact heq
        · have h1 := h b
          rw [sparse_head d hm hgt] at h1
          simp [sget] at h1
          exact absurd h1.symm hw
      subst hab
      have hvw : v = w := by simpa [sget] using h a
      subst hvw
      have ht : ∀ k, sget d t k = sget d u k := by
        intro k
        by_cases hk : k = a
        · subst hk
          have hp := (List.pairwise_cons.mp ((Sparse.wf_iff d _).mp hm).1).1
          have hq := (List.pairwise_cons.mp ((Sparse.wf_iff d _).mp hn).1).1
          rw [sget_below d t hp, sget_below d u hq]
        · simpa [sget, hk] using h k
      rw [ih u (Sparse.wf_tail d hm) (Sparse.wf_tail d hn) ht]

end Sys2Proof.Machine
end

