-- ==== Sys2Proof/Laws/State.lean ====
section
/-! SUPPORT. One lemma per field per update of State and of Group, true by rfl, so that no proof unfolds a record update; and what a
lookup of a group or split gives behind an update. -/

namespace Sys2Proof.Machine

/-! ## Fields of State behind its updates -/

@[simp] theorem State.updGroup_cycle (s : State) (r : GRef) (f : Group → Group) : (s.updGroup r f).cycle = s.cycle := rfl
@[simp] theorem State.updGroup_gtime (s : State) (r : GRef) (f : Group → Group) : (s.updGroup r f).gtime = s.gtime := rfl
@[simp] theorem State.updGroup_gtimeSub (s : State) (r : GRef) (f : Group → Group) : (s.updGroup r f).gtimeSub = s.gtimeSub := rfl
@[simp] theorem State.updGroup_slew (s : State) (r : GRef) (f : Group → Group) : (s.updGroup r f).slew = s.slew := rfl
@[simp] theorem State.updGroup_ptpSync (s : State) (r : GRef) (f : Group → Group) : (s.updGroup r f).ptpSync = s.ptpSync := rfl
@[simp] theorem State.updGroup_modl (s : State) (r : GRef) (f : Group → Group) : (s.updGroup r f).modl = s.modl := rfl
@[simp] theorem State.updGroup_bar (s : State) (r : GRef) (f : Group → Group) : (s.updGroup r f).bar = s.bar := rfl
@[simp] theorem State.updGroup_mem (s : State) (r : GRef) (f : Group → Group) : (s.updGroup r f).mem = s.mem := rfl
@[simp] theorem State.updGroup_lineMeta (s : State) (r : GRef) (f : Group → Group) : (s.updGroup r f).lineMeta = s.lineMeta := rfl
@[simp] theorem State.updGroup_sheafOwner (s : State) (r : GRef) (f : Group → Group) : (s.updGroup r f).sheafOwner = s.sheafOwner := rfl
@[simp] theorem State.updGroup_shSealed (s : State) (r : GRef) (f : Group → Group) : (s.updGroup r f).shSealed = s.shSealed := rfl
@[simp] theorem State.updGroup_hostMem (s : State) (r : GRef) (f : Group → Group) : (s.updGroup r f).hostMem = s.hostMem := rfl
@[simp] theorem State.updGroup_hostDenied (s : State) (r : GRef) (f : Group → Group) : (s.updGroup r f).hostDenied = s.hostDenied := rfl
@[simp] theorem State.updGroup_l2 (s : State) (r : GRef) (f : Group → Group) : (s.updGroup r f).l2 = s.l2 := rfl
@[simp] theorem State.updGroup_ccopies (s : State) (r : GRef) (f : Group → Group) : (s.updGroup r f).ccopies = s.ccopies := rfl
@[simp] theorem State.updGroup_pushed (s : State) (r : GRef) (f : Group → Group) : (s.updGroup r f).pushed = s.pushed := rfl
@[simp] theorem State.updGroup_cores (s : State) (r : GRef) (f : Group → Group) : (s.updGroup r f).cores = s.cores := rfl
@[simp] theorem State.updGroup_sectorTlb (s : State) (r : GRef) (f : Group → Group) : (s.updGroup r f).sectorTlb = s.sectorTlb := rfl
@[simp] theorem State.updGroup_wgs (s : State) (r : GRef) (f : Group → Group) : (s.updGroup r f).wgs = s.wgs := rfl
@[simp] theorem State.updGroup_images (s : State) (r : GRef) (f : Group → Group) : (s.updGroup r f).images = s.images := rfl
@[simp] theorem State.updGroup_kernels (s : State) (r : GRef) (f : Group → Group) : (s.updGroup r f).kernels = s.kernels := rfl
@[simp] theorem State.updGroup_rcbs (s : State) (r : GRef) (f : Group → Group) : (s.updGroup r f).rcbs = s.rcbs := rfl
@[simp] theorem State.updGroup_ctxs (s : State) (r : GRef) (f : Group → Group) : (s.updGroup r f).ctxs = s.ctxs := rfl
@[simp] theorem State.updGroup_queues (s : State) (r : GRef) (f : Group → Group) : (s.updGroup r f).queues = s.queues := rfl
@[simp] theorem State.updGroup_ops (s : State) (r : GRef) (f : Group → Group) : (s.updGroup r f).ops = s.ops := rfl
@[simp] theorem State.updGroup_offers (s : State) (r : GRef) (f : Group → Group) : (s.updGroup r f).offers = s.offers := rfl
@[simp] theorem State.updGroup_walks (s : State) (r : GRef) (f : Group → Group) : (s.updGroup r f).walks = s.walks := rfl
@[simp] theorem State.updGroup_copies (s : State) (r : GRef) (f : Group → Group) : (s.updGroup r f).copies = s.copies := rfl
@[simp] theorem State.updGroup_circuits (s : State) (r : GRef) (f : Group → Group) : (s.updGroup r f).circuits = s.circuits := rfl
@[simp] theorem State.updGroup_arms (s : State) (r : GRef) (f : Group → Group) : (s.updGroup r f).arms = s.arms := rfl
@[simp] theorem State.updGroup_fills (s : State) (r : GRef) (f : Group → Group) : (s.updGroup r f).fills = s.fills := rfl
@[simp] theorem State.updGroup_cfills (s : State) (r : GRef) (f : Group → Group) : (s.updGroup r f).cfills = s.cfills := rfl
@[simp] theorem State.updGroup_merges (s : State) (r : GRef) (f : Group → Group) : (s.updGroup r f).merges = s.merges := rfl
@[simp] theorem State.updGroup_invals (s : State) (r : GRef) (f : Group → Group) : (s.updGroup r f).invals = s.invals := rfl
@[simp] theorem State.updGroup_pushes (s : State) (r : GRef) (f : Group → Group) : (s.updGroup r f).pushes = s.pushes := rfl
@[simp] theorem State.updGroup_stsrs (s : State) (r : GRef) (f : Group → Group) : (s.updGroup r f).stsrs = s.stsrs := rfl
@[simp] theorem State.updGroup_shMsgs (s : State) (r : GRef) (f : Group → Group) : (s.updGroup r f).shMsgs = s.shMsgs := rfl
@[simp] theorem State.updGroup_shProcs (s : State) (r : GRef) (f : Group → Group) : (s.updGroup r f).shProcs = s.shProcs := rfl
@[simp] theorem State.updGroup_sent (s : State) (r : GRef) (f : Group → Group) : (s.updGroup r f).sent = s.sent := rfl
@[simp] theorem State.updGroup_net (s : State) (r : GRef) (f : Group → Group) : (s.updGroup r f).net = s.net := rfl
@[simp] theorem State.updGroup_wire (s : State) (r : GRef) (f : Group → Group) : (s.updGroup r f).wire = s.wire := rfl
@[simp] theorem State.updGroup_reqs (s : State) (r : GRef) (f : Group → Group) : (s.updGroup r f).reqs = s.reqs := rfl
@[simp] theorem State.updGroup_rwatches (s : State) (r : GRef) (f : Group → Group) : (s.updGroup r f).rwatches = s.rwatches := rfl
@[simp] theorem State.updGroup_hostEvents (s : State) (r : GRef) (f : Group → Group) : (s.updGroup r f).hostEvents = s.hostEvents := rfl
@[simp] theorem State.updGroup_nextId (s : State) (r : GRef) (f : Group → Group) : (s.updGroup r f).nextId = s.nextId := rfl
@[simp] theorem State.updGroup_freeCount (s : State) (r : GRef) (f : Group → Group) : (s.updGroup r f).freeCount = s.freeCount := rfl
@[simp] theorem State.updGroup_keysDrawn (s : State) (r : GRef) (f : Group → Group) : (s.updGroup r f).keysDrawn = s.keysDrawn := rfl
@[simp] theorem State.updGroup_issuer (s : State) (r : GRef) (f : Group → Group) : (s.updGroup r f).issuer = s.issuer := rfl
@[simp] theorem State.updGroup_schedule (s : State) (r : GRef) (f : Group → Group) : (s.updGroup r f).schedule = s.schedule := rfl
@[simp] theorem State.updGroup_migWait (s : State) (r : GRef) (f : Group → Group) : (s.updGroup r f).migWait = s.migWait := rfl
@[simp] theorem State.updGroup_hot (s : State) (r : GRef) (f : Group → Group) : (s.updGroup r f).hot = s.hot := rfl
@[simp] theorem State.updGroup_placeFree (s : State) (r : GRef) (f : Group → Group) : (s.updGroup r f).placeFree = s.placeFree := rfl
@[simp] theorem State.updGroup_taken (s : State) (r : GRef) (f : Group → Group) : (s.updGroup r f).taken = s.taken := rfl
@[simp] theorem State.updGroup_heldDests (s : State) (r : GRef) (f : Group → Group) : (s.updGroup r f).heldDests = s.heldDests := rfl
@[simp] theorem State.updGroup_hostStream (s : State) (r : GRef) (f : Group → Group) : (s.updGroup r f).hostStream = s.hostStream := rfl

@[simp] theorem State.updCore_cycle (s : State) (n : Nat) (f : Core → Core) : (s.updCore n f).cycle = s.cycle := rfl
@[simp] theorem State.updCore_gtime (s : State) (n : Nat) (f : Core → Core) : (s.updCore n f).gtime = s.gtime := rfl
@[simp] theorem State.updCore_gtimeSub (s : State) (n : Nat) (f : Core → Core) : (s.updCore n f).gtimeSub = s.gtimeSub := rfl
@[simp] theorem State.updCore_slew (s : State) (n : Nat) (f : Core → Core) : (s.updCore n f).slew = s.slew := rfl
@[simp] theorem State.updCore_ptpSync (s : State) (n : Nat) (f : Core → Core) : (s.updCore n f).ptpSync = s.ptpSync := rfl
@[simp] theorem State.updCore_modl (s : State) (n : Nat) (f : Core → Core) : (s.updCore n f).modl = s.modl := rfl
@[simp] theorem State.updCore_bar (s : State) (n : Nat) (f : Core → Core) : (s.updCore n f).bar = s.bar := rfl
@[simp] theorem State.updCore_mem (s : State) (n : Nat) (f : Core → Core) : (s.updCore n f).mem = s.mem := rfl
@[simp] theorem State.updCore_lineMeta (s : State) (n : Nat) (f : Core → Core) : (s.updCore n f).lineMeta = s.lineMeta := rfl
@[simp] theorem State.updCore_sheafOwner (s : State) (n : Nat) (f : Core → Core) : (s.updCore n f).sheafOwner = s.sheafOwner := rfl
@[simp] theorem State.updCore_shSealed (s : State) (n : Nat) (f : Core → Core) : (s.updCore n f).shSealed = s.shSealed := rfl
@[simp] theorem State.updCore_hostMem (s : State) (n : Nat) (f : Core → Core) : (s.updCore n f).hostMem = s.hostMem := rfl
@[simp] theorem State.updCore_hostDenied (s : State) (n : Nat) (f : Core → Core) : (s.updCore n f).hostDenied = s.hostDenied := rfl
@[simp] theorem State.updCore_l2 (s : State) (n : Nat) (f : Core → Core) : (s.updCore n f).l2 = s.l2 := rfl
@[simp] theorem State.updCore_ccopies (s : State) (n : Nat) (f : Core → Core) : (s.updCore n f).ccopies = s.ccopies := rfl
@[simp] theorem State.updCore_pushed (s : State) (n : Nat) (f : Core → Core) : (s.updCore n f).pushed = s.pushed := rfl
@[simp] theorem State.updCore_sectorTlb (s : State) (n : Nat) (f : Core → Core) : (s.updCore n f).sectorTlb = s.sectorTlb := rfl
@[simp] theorem State.updCore_groups (s : State) (n : Nat) (f : Core → Core) : (s.updCore n f).groups = s.groups := rfl
@[simp] theorem State.updCore_wgs (s : State) (n : Nat) (f : Core → Core) : (s.updCore n f).wgs = s.wgs := rfl
@[simp] theorem State.updCore_images (s : State) (n : Nat) (f : Core → Core) : (s.updCore n f).images = s.images := rfl
@[simp] theorem State.updCore_kernels (s : State) (n : Nat) (f : Core → Core) : (s.updCore n f).kernels = s.kernels := rfl
@[simp] theorem State.updCore_rcbs (s : State) (n : Nat) (f : Core → Core) : (s.updCore n f).rcbs = s.rcbs := rfl
@[simp] theorem State.updCore_ctxs (s : State) (n : Nat) (f : Core → Core) : (s.updCore n f).ctxs = s.ctxs := rfl
@[simp] theorem State.updCore_queues (s : State) (n : Nat) (f : Core → Core) : (s.updCore n f).queues = s.queues := rfl
@[simp] theorem State.updCore_ops (s : State) (n : Nat) (f : Core → Core) : (s.updCore n f).ops = s.ops := rfl
@[simp] theorem State.updCore_offers (s : State) (n : Nat) (f : Core → Core) : (s.updCore n f).offers = s.offers := rfl
@[simp] theorem State.updCore_walks (s : State) (n : Nat) (f : Core → Core) : (s.updCore n f).walks = s.walks := rfl
@[simp] theorem State.updCore_copies (s : State) (n : Nat) (f : Core → Core) : (s.updCore n f).copies = s.copies := rfl
@[simp] theorem State.updCore_circuits (s : State) (n : Nat) (f : Core → Core) : (s.updCore n f).circuits = s.circuits := rfl
@[simp] theorem State.updCore_arms (s : State) (n : Nat) (f : Core → Core) : (s.updCore n f).arms = s.arms := rfl
@[simp] theorem State.updCore_fills (s : State) (n : Nat) (f : Core → Core) : (s.updCore n f).fills = s.fills := rfl
@[simp] theorem State.updCore_cfills (s : State) (n : Nat) (f : Core → Core) : (s.updCore n f).cfills = s.cfills := rfl
@[simp] theorem State.updCore_merges (s : State) (n : Nat) (f : Core → Core) : (s.updCore n f).merges = s.merges := rfl
@[simp] theorem State.updCore_invals (s : State) (n : Nat) (f : Core → Core) : (s.updCore n f).invals = s.invals := rfl
@[simp] theorem State.updCore_pushes (s : State) (n : Nat) (f : Core → Core) : (s.updCore n f).pushes = s.pushes := rfl
@[simp] theorem State.updCore_stsrs (s : State) (n : Nat) (f : Core → Core) : (s.updCore n f).stsrs = s.stsrs := rfl
@[simp] theorem State.updCore_shMsgs (s : State) (n : Nat) (f : Core → Core) : (s.updCore n f).shMsgs = s.shMsgs := rfl
@[simp] theorem State.updCore_shProcs (s : State) (n : Nat) (f : Core → Core) : (s.updCore n f).shProcs = s.shProcs := rfl
@[simp] theorem State.updCore_sent (s : State) (n : Nat) (f : Core → Core) : (s.updCore n f).sent = s.sent := rfl
@[simp] theorem State.updCore_net (s : State) (n : Nat) (f : Core → Core) : (s.updCore n f).net = s.net := rfl
@[simp] theorem State.updCore_wire (s : State) (n : Nat) (f : Core → Core) : (s.updCore n f).wire = s.wire := rfl
@[simp] theorem State.updCore_reqs (s : State) (n : Nat) (f : Core → Core) : (s.updCore n f).reqs = s.reqs := rfl
@[simp] theorem State.updCore_rwatches (s : State) (n : Nat) (f : Core → Core) : (s.updCore n f).rwatches = s.rwatches := rfl
@[simp] theorem State.updCore_hostEvents (s : State) (n : Nat) (f : Core → Core) : (s.updCore n f).hostEvents = s.hostEvents := rfl
@[simp] theorem State.updCore_nextId (s : State) (n : Nat) (f : Core → Core) : (s.updCore n f).nextId = s.nextId := rfl
@[simp] theorem State.updCore_freeCount (s : State) (n : Nat) (f : Core → Core) : (s.updCore n f).freeCount = s.freeCount := rfl
@[simp] theorem State.updCore_keysDrawn (s : State) (n : Nat) (f : Core → Core) : (s.updCore n f).keysDrawn = s.keysDrawn := rfl
@[simp] theorem State.updCore_issuer (s : State) (n : Nat) (f : Core → Core) : (s.updCore n f).issuer = s.issuer := rfl
@[simp] theorem State.updCore_schedule (s : State) (n : Nat) (f : Core → Core) : (s.updCore n f).schedule = s.schedule := rfl
@[simp] theorem State.updCore_migWait (s : State) (n : Nat) (f : Core → Core) : (s.updCore n f).migWait = s.migWait := rfl
@[simp] theorem State.updCore_hot (s : State) (n : Nat) (f : Core → Core) : (s.updCore n f).hot = s.hot := rfl
@[simp] theorem State.updCore_placeFree (s : State) (n : Nat) (f : Core → Core) : (s.updCore n f).placeFree = s.placeFree := rfl
@[simp] theorem State.updCore_taken (s : State) (n : Nat) (f : Core → Core) : (s.updCore n f).taken = s.taken := rfl
@[simp] theorem State.updCore_heldDests (s : State) (n : Nat) (f : Core → Core) : (s.updCore n f).heldDests = s.heldDests := rfl
@[simp] theorem State.updCore_hostStream (s : State) (n : Nat) (f : Core → Core) : (s.updCore n f).hostStream = s.hostStream := rfl

@[simp] theorem State.updCtx_cycle (s : State) (n : Nat) (f : Context → Context) : (s.updCtx n f).cycle = s.cycle := rfl
@[simp] theorem State.updCtx_gtime (s : State) (n : Nat) (f : Context → Context) : (s.updCtx n f).gtime = s.gtime := rfl
@[simp] theorem State.updCtx_gtimeSub (s : State) (n : Nat) (f : Context → Context) : (s.updCtx n f).gtimeSub = s.gtimeSub := rfl
@[simp] theorem State.updCtx_slew (s : State) (n : Nat) (f : Context → Context) : (s.updCtx n f).slew = s.slew := rfl
@[simp] theorem State.updCtx_ptpSync (s : State) (n : Nat) (f : Context → Context) : (s.updCtx n f).ptpSync = s.ptpSync := rfl
@[simp] theorem State.updCtx_modl (s : State) (n : Nat) (f : Context → Context) : (s.updCtx n f).modl = s.modl := rfl
@[simp] theorem State.updCtx_bar (s : State) (n : Nat) (f : Context → Context) : (s.updCtx n f).bar = s.bar := rfl
@[simp] theorem State.updCtx_mem (s : State) (n : Nat) (f : Context → Context) : (s.updCtx n f).mem = s.mem := rfl
@[simp] theorem State.updCtx_lineMeta (s : State) (n : Nat) (f : Context → Context) : (s.updCtx n f).lineMeta = s.lineMeta := rfl
@[simp] theorem State.updCtx_sheafOwner (s : State) (n : Nat) (f : Context → Context) : (s.updCtx n f).sheafOwner = s.sheafOwner := rfl
@[simp] theorem State.updCtx_shSealed (s : State) (n : Nat) (f : Context → Context) : (s.updCtx n f).shSealed = s.shSealed := rfl
@[simp] theorem State.updCtx_hostMem (s : State) (n : Nat) (f : Context → Context) : (s.updCtx n f).hostMem = s.hostMem := rfl
@[simp] theorem State.updCtx_hostDenied (s : State) (n : Nat) (f : Context → Context) : (s.updCtx n f).hostDenied = s.hostDenied := rfl
@[simp] theorem State.updCtx_l2 (s : State) (n : Nat) (f : Context → Context) : (s.updCtx n f).l2 = s.l2 := rfl
@[simp] theorem State.updCtx_ccopies (s : State) (n : Nat) (f : Context → Context) : (s.updCtx n f).ccopies = s.ccopies := rfl
@[simp] theorem State.updCtx_pushed (s : State) (n : Nat) (f : Context → Context) : (s.updCtx n f).pushed = s.pushed := rfl
@[simp] theorem State.updCtx_cores (s : State) (n : Nat) (f : Context → Context) : (s.updCtx n f).cores = s.cores := rfl
@[simp] theorem State.updCtx_sectorTlb (s : State) (n : Nat) (f : Context → Context) : (s.updCtx n f).sectorTlb = s.sectorTlb := rfl
@[simp] theorem State.updCtx_groups (s : State) (n : Nat) (f : Context → Context) : (s.updCtx n f).groups = s.groups := rfl
@[simp] theorem State.updCtx_wgs (s : State) (n : Nat) (f : Context → Context) : (s.updCtx n f).wgs = s.wgs := rfl
@[simp] theorem State.updCtx_images (s : State) (n : Nat) (f : Context → Context) : (s.updCtx n f).images = s.images := rfl
@[simp] theorem State.updCtx_kernels (s : State) (n : Nat) (f : Context → Context) : (s.updCtx n f).kernels = s.kernels := rfl
@[simp] theorem State.updCtx_rcbs (s : State) (n : Nat) (f : Context → Context) : (s.updCtx n f).rcbs = s.rcbs := rfl
@[simp] theorem State.updCtx_queues (s : State) (n : Nat) (f : Context → Context) : (s.updCtx n f).queues = s.queues := rfl
@[simp] theorem State.updCtx_ops (s : State) (n : Nat) (f : Context → Context) : (s.updCtx n f).ops = s.ops := rfl
@[simp] theorem State.updCtx_offers (s : State) (n : Nat) (f : Context → Context) : (s.updCtx n f).offers = s.offers := rfl
@[simp] theorem State.updCtx_walks (s : State) (n : Nat) (f : Context → Context) : (s.updCtx n f).walks = s.walks := rfl
@[simp] theorem State.updCtx_copies (s : State) (n : Nat) (f : Context → Context) : (s.updCtx n f).copies = s.copies := rfl
@[simp] theorem State.updCtx_circuits (s : State) (n : Nat) (f : Context → Context) : (s.updCtx n f).circuits = s.circuits := rfl
@[simp] theorem State.updCtx_arms (s : State) (n : Nat) (f : Context → Context) : (s.updCtx n f).arms = s.arms := rfl
@[simp] theorem State.updCtx_fills (s : State) (n : Nat) (f : Context → Context) : (s.updCtx n f).fills = s.fills := rfl
@[simp] theorem State.updCtx_cfills (s : State) (n : Nat) (f : Context → Context) : (s.updCtx n f).cfills = s.cfills := rfl
@[simp] theorem State.updCtx_merges (s : State) (n : Nat) (f : Context → Context) : (s.updCtx n f).merges = s.merges := rfl
@[simp] theorem State.updCtx_invals (s : State) (n : Nat) (f : Context → Context) : (s.updCtx n f).invals = s.invals := rfl
@[simp] theorem State.updCtx_pushes (s : State) (n : Nat) (f : Context → Context) : (s.updCtx n f).pushes = s.pushes := rfl
@[simp] theorem State.updCtx_stsrs (s : State) (n : Nat) (f : Context → Context) : (s.updCtx n f).stsrs = s.stsrs := rfl
@[simp] theorem State.updCtx_shMsgs (s : State) (n : Nat) (f : Context → Context) : (s.updCtx n f).shMsgs = s.shMsgs := rfl
@[simp] theorem State.updCtx_shProcs (s : State) (n : Nat) (f : Context → Context) : (s.updCtx n f).shProcs = s.shProcs := rfl
@[simp] theorem State.updCtx_sent (s : State) (n : Nat) (f : Context → Context) : (s.updCtx n f).sent = s.sent := rfl
@[simp] theorem State.updCtx_net (s : State) (n : Nat) (f : Context → Context) : (s.updCtx n f).net = s.net := rfl
@[simp] theorem State.updCtx_wire (s : State) (n : Nat) (f : Context → Context) : (s.updCtx n f).wire = s.wire := rfl
@[simp] theorem State.updCtx_reqs (s : State) (n : Nat) (f : Context → Context) : (s.updCtx n f).reqs = s.reqs := rfl
@[simp] theorem State.updCtx_rwatches (s : State) (n : Nat) (f : Context → Context) : (s.updCtx n f).rwatches = s.rwatches := rfl
@[simp] theorem State.updCtx_hostEvents (s : State) (n : Nat) (f : Context → Context) : (s.updCtx n f).hostEvents = s.hostEvents := rfl
@[simp] theorem State.updCtx_nextId (s : State) (n : Nat) (f : Context → Context) : (s.updCtx n f).nextId = s.nextId := rfl
@[simp] theorem State.updCtx_freeCount (s : State) (n : Nat) (f : Context → Context) : (s.updCtx n f).freeCount = s.freeCount := rfl
@[simp] theorem State.updCtx_keysDrawn (s : State) (n : Nat) (f : Context → Context) : (s.updCtx n f).keysDrawn = s.keysDrawn := rfl
@[simp] theorem State.updCtx_issuer (s : State) (n : Nat) (f : Context → Context) : (s.updCtx n f).issuer = s.issuer := rfl
@[simp] theorem State.updCtx_schedule (s : State) (n : Nat) (f : Context → Context) : (s.updCtx n f).schedule = s.schedule := rfl
@[simp] theorem State.updCtx_migWait (s : State) (n : Nat) (f : Context → Context) : (s.updCtx n f).migWait = s.migWait := rfl
@[simp] theorem State.updCtx_hot (s : State) (n : Nat) (f : Context → Context) : (s.updCtx n f).hot = s.hot := rfl
@[simp] theorem State.updCtx_placeFree (s : State) (n : Nat) (f : Context → Context) : (s.updCtx n f).placeFree = s.placeFree := rfl
@[simp] theorem State.updCtx_taken (s : State) (n : Nat) (f : Context → Context) : (s.updCtx n f).taken = s.taken := rfl
@[simp] theorem State.updCtx_heldDests (s : State) (n : Nat) (f : Context → Context) : (s.updCtx n f).heldDests = s.heldDests := rfl
@[simp] theorem State.updCtx_hostStream (s : State) (n : Nat) (f : Context → Context) : (s.updCtx n f).hostStream = s.hostStream := rfl

@[simp] theorem State.updKernel_cycle (s : State) (a b : Nat) (f : Kernel → Kernel) : (s.updKernel a b f).cycle = s.cycle := rfl
@[simp] theorem State.updKernel_gtime (s : State) (a b : Nat) (f : Kernel → Kernel) : (s.updKernel a b f).gtime = s.gtime := rfl
@[simp] theorem State.updKernel_gtimeSub (s : State) (a b : Nat) (f : Kernel → Kernel) : (s.updKernel a b f).gtimeSub = s.gtimeSub := rfl
@[simp] theorem State.updKernel_slew (s : State) (a b : Nat) (f : Kernel → Kernel) : (s.updKernel a b f).slew = s.slew := rfl
@[simp] theorem State.updKernel_ptpSync (s : State) (a b : Nat) (f : Kernel → Kernel) : (s.updKernel a b f).ptpSync = s.ptpSync := rfl
@[simp] theorem State.updKernel_modl (s : State) (a b : Nat) (f : Kernel → Kernel) : (s.updKernel a b f).modl = s.modl := rfl
@[simp] theorem State.updKernel_bar (s : State) (a b : Nat) (f : Kernel → Kernel) : (s.updKernel a b f).bar = s.bar := rfl
@[simp] theorem State.updKernel_mem (s : State) (a b : Nat) (f : Kernel → Kernel) : (s.updKernel a b f).mem = s.mem := rfl
@[simp] theorem State.updKernel_lineMeta (s : State) (a b : Nat) (f : Kernel → Kernel) : (s.updKernel a b f).lineMeta = s.lineMeta := rfl
@[simp] theorem State.updKernel_sheafOwner (s : State) (a b : Nat) (f : Kernel → Kernel) : (s.updKernel a b f).sheafOwner = s.sheafOwner := rfl
@[simp] theorem State.updKernel_shSealed (s : State) (a b : Nat) (f : Kernel → Kernel) : (s.updKernel a b f).shSealed = s.shSealed := rfl
@[simp] theorem State.updKernel_hostMem (s : State) (a b : Nat) (f : Kernel → Kernel) : (s.updKernel a b f).hostMem = s.hostMem := rfl
@[simp] theorem State.updKernel_hostDenied (s : State) (a b : Nat) (f : Kernel → Kernel) : (s.updKernel a b f).hostDenied = s.hostDenied := rfl
@[simp] theorem State.updKernel_l2 (s : State) (a b : Nat) (f : Kernel → Kernel) : (s.updKernel a b f).l2 = s.l2 := rfl
@[simp] theorem State.updKernel_ccopies (s : State) (a b : Nat) (f : Kernel → Kernel) : (s.updKernel a b f).ccopies = s.ccopies := rfl
@[simp] theorem State.updKernel_pushed (s : State) (a b : Nat) (f : Kernel → Kernel) : (s.updKernel a b f).pushed = s.pushed := rfl
@[simp] theorem State.updKernel_cores (s : State) (a b : Nat) (f : Kernel → Kernel) : (s.updKernel a b f).cores = s.cores := rfl
@[simp] theorem State.updKernel_sectorTlb (s : State) (a b : Nat) (f : Kernel → Kernel) : (s.updKernel a b f).sectorTlb = s.sectorTlb := rfl
@[simp] theorem State.updKernel_groups (s : State) (a b : Nat) (f : Kernel → Kernel) : (s.updKernel a b f).groups = s.groups := rfl
@[simp] theorem State.updKernel_wgs (s : State) (a b : Nat) (f : Kernel → Kernel) : (s.updKernel a b f).wgs = s.wgs := rfl
@[simp] theorem State.updKernel_images (s : State) (a b : Nat) (f : Kernel → Kernel) : (s.updKernel a b f).images = s.images := rfl
@[simp] theorem State.updKernel_rcbs (s : State) (a b : Nat) (f : Kernel → Kernel) : (s.updKernel a b f).rcbs = s.rcbs := rfl
@[simp] theorem State.updKernel_ctxs (s : State) (a b : Nat) (f : Kernel → Kernel) : (s.updKernel a b f).ctxs = s.ctxs := rfl
@[simp] theorem State.updKernel_queues (s : State) (a b : Nat) (f : Kernel → Kernel) : (s.updKernel a b f).queues = s.queues := rfl
@[simp] theorem State.updKernel_ops (s : State) (a b : Nat) (f : Kernel → Kernel) : (s.updKernel a b f).ops = s.ops := rfl
@[simp] theorem State.updKernel_offers (s : State) (a b : Nat) (f : Kernel → Kernel) : (s.updKernel a b f).offers = s.offers := rfl
@[simp] theorem State.updKernel_walks (s : State) (a b : Nat) (f : Kernel → Kernel) : (s.updKernel a b f).walks = s.walks := rfl
@[simp] theorem State.updKernel_copies (s : State) (a b : Nat) (f : Kernel → Kernel) : (s.updKernel a b f).copies = s.copies := rfl
@[simp] theorem State.updKernel_circuits (s : State) (a b : Nat) (f : Kernel → Kernel) : (s.updKernel a b f).circuits = s.circuits := rfl
@[simp] theorem State.updKernel_arms (s : State) (a b : Nat) (f : Kernel → Kernel) : (s.updKernel a b f).arms = s.arms := rfl
@[simp] theorem State.updKernel_fills (s : State) (a b : Nat) (f : Kernel → Kernel) : (s.updKernel a b f).fills = s.fills := rfl
@[simp] theorem State.updKernel_cfills (s : State) (a b : Nat) (f : Kernel → Kernel) : (s.updKernel a b f).cfills = s.cfills := rfl
@[simp] theorem State.updKernel_merges (s : State) (a b : Nat) (f : Kernel → Kernel) : (s.updKernel a b f).merges = s.merges := rfl
@[simp] theorem State.updKernel_invals (s : State) (a b : Nat) (f : Kernel → Kernel) : (s.updKernel a b f).invals = s.invals := rfl
@[simp] theorem State.updKernel_pushes (s : State) (a b : Nat) (f : Kernel → Kernel) : (s.updKernel a b f).pushes = s.pushes := rfl
@[simp] theorem State.updKernel_stsrs (s : State) (a b : Nat) (f : Kernel → Kernel) : (s.updKernel a b f).stsrs = s.stsrs := rfl
@[simp] theorem State.updKernel_shMsgs (s : State) (a b : Nat) (f : Kernel → Kernel) : (s.updKernel a b f).shMsgs = s.shMsgs := rfl
@[simp] theorem State.updKernel_shProcs (s : State) (a b : Nat) (f : Kernel → Kernel) : (s.updKernel a b f).shProcs = s.shProcs := rfl
@[simp] theorem State.updKernel_sent (s : State) (a b : Nat) (f : Kernel → Kernel) : (s.updKernel a b f).sent = s.sent := rfl
@[simp] theorem State.updKernel_net (s : State) (a b : Nat) (f : Kernel → Kernel) : (s.updKernel a b f).net = s.net := rfl
@[simp] theorem State.updKernel_wire (s : State) (a b : Nat) (f : Kernel → Kernel) : (s.updKernel a b f).wire = s.wire := rfl
@[simp] theorem State.updKernel_reqs (s : State) (a b : Nat) (f : Kernel → Kernel) : (s.updKernel a b f).reqs = s.reqs := rfl
@[simp] theorem State.updKernel_rwatches (s : State) (a b : Nat) (f : Kernel → Kernel) : (s.updKernel a b f).rwatches = s.rwatches := rfl
@[simp] theorem State.updKernel_hostEvents (s : State) (a b : Nat) (f : Kernel → Kernel) : (s.updKernel a b f).hostEvents = s.hostEvents := rfl
@[simp] theorem State.updKernel_nextId (s : State) (a b : Nat) (f : Kernel → Kernel) : (s.updKernel a b f).nextId = s.nextId := rfl
@[simp] theorem State.updKernel_freeCount (s : State) (a b : Nat) (f : Kernel → Kernel) : (s.updKernel a b f).freeCount = s.freeCount := rfl
@[simp] theorem State.updKernel_keysDrawn (s : State) (a b : Nat) (f : Kernel → Kernel) : (s.updKernel a b f).keysDrawn = s.keysDrawn := rfl
@[simp] theorem State.updKernel_issuer (s : State) (a b : Nat) (f : Kernel → Kernel) : (s.updKernel a b f).issuer = s.issuer := rfl
@[simp] theorem State.updKernel_schedule (s : State) (a b : Nat) (f : Kernel → Kernel) : (s.updKernel a b f).schedule = s.schedule := rfl
@[simp] theorem State.updKernel_migWait (s : State) (a b : Nat) (f : Kernel → Kernel) : (s.updKernel a b f).migWait = s.migWait := rfl
@[simp] theorem State.updKernel_hot (s : State) (a b : Nat) (f : Kernel → Kernel) : (s.updKernel a b f).hot = s.hot := rfl
@[simp] theorem State.updKernel_placeFree (s : State) (a b : Nat) (f : Kernel → Kernel) : (s.updKernel a b f).placeFree = s.placeFree := rfl
@[simp] theorem State.updKernel_taken (s : State) (a b : Nat) (f : Kernel → Kernel) : (s.updKernel a b f).taken = s.taken := rfl
@[simp] theorem State.updKernel_heldDests (s : State) (a b : Nat) (f : Kernel → Kernel) : (s.updKernel a b f).heldDests = s.heldDests := rfl
@[simp] theorem State.updKernel_hostStream (s : State) (a b : Nat) (f : Kernel → Kernel) : (s.updKernel a b f).hostStream = s.hostStream := rfl

@[simp] theorem State.updWg_cycle (s : State) (a b c : Nat) (f : Workgroup → Workgroup) : (s.updWg a b c f).cycle = s.cycle := rfl
@[simp] theorem State.updWg_gtime (s : State) (a b c : Nat) (f : Workgroup → Workgroup) : (s.updWg a b c f).gtime = s.gtime := rfl
@[simp] theorem State.updWg_gtimeSub (s : State) (a b c : Nat) (f : Workgroup → Workgroup) : (s.updWg a b c f).gtimeSub = s.gtimeSub := rfl
@[simp] theorem State.updWg_slew (s : State) (a b c : Nat) (f : Workgroup → Workgroup) : (s.updWg a b c f).slew = s.slew := rfl
@[simp] theorem State.updWg_ptpSync (s : State) (a b c : Nat) (f : Workgroup → Workgroup) : (s.updWg a b c f).ptpSync = s.ptpSync := rfl
@[simp] theorem State.updWg_modl (s : State) (a b c : Nat) (f : Workgroup → Workgroup) : (s.updWg a b c f).modl = s.modl := rfl
@[simp] theorem State.updWg_bar (s : State) (a b c : Nat) (f : Workgroup → Workgroup) : (s.updWg a b c f).bar = s.bar := rfl
@[simp] theorem State.updWg_mem (s : State) (a b c : Nat) (f : Workgroup → Workgroup) : (s.updWg a b c f).mem = s.mem := rfl
@[simp] theorem State.updWg_lineMeta (s : State) (a b c : Nat) (f : Workgroup → Workgroup) : (s.updWg a b c f).lineMeta = s.lineMeta := rfl
@[simp] theorem State.updWg_sheafOwner (s : State) (a b c : Nat) (f : Workgroup → Workgroup) : (s.updWg a b c f).sheafOwner = s.sheafOwner := rfl
@[simp] theorem State.updWg_shSealed (s : State) (a b c : Nat) (f : Workgroup → Workgroup) : (s.updWg a b c f).shSealed = s.shSealed := rfl
@[simp] theorem State.updWg_hostMem (s : State) (a b c : Nat) (f : Workgroup → Workgroup) : (s.updWg a b c f).hostMem = s.hostMem := rfl
@[simp] theorem State.updWg_hostDenied (s : State) (a b c : Nat) (f : Workgroup → Workgroup) : (s.updWg a b c f).hostDenied = s.hostDenied := rfl
@[simp] theorem State.updWg_l2 (s : State) (a b c : Nat) (f : Workgroup → Workgroup) : (s.updWg a b c f).l2 = s.l2 := rfl
@[simp] theorem State.updWg_ccopies (s : State) (a b c : Nat) (f : Workgroup → Workgroup) : (s.updWg a b c f).ccopies = s.ccopies := rfl
@[simp] theorem State.updWg_pushed (s : State) (a b c : Nat) (f : Workgroup → Workgroup) : (s.updWg a b c f).pushed = s.pushed := rfl
@[simp] theorem State.updWg_cores (s : State) (a b c : Nat) (f : Workgroup → Workgroup) : (s.updWg a b c f).cores = s.cores := rfl
@[simp] theorem State.updWg_sectorTlb (s : State) (a b c : Nat) (f : Workgroup → Workgroup) : (s.updWg a b c f).sectorTlb = s.sectorTlb := rfl
@[simp] theorem State.updWg_groups (s : State) (a b c : Nat) (f : Workgroup → Workgroup) : (s.updWg a b c f).groups = s.groups := rfl
@[simp] theorem State.updWg_images (s : State) (a b c : Nat) (f : Workgroup → Workgroup) : (s.updWg a b c f).images = s.images := rfl
@[simp] theorem State.updWg_kernels (s : State) (a b c : Nat) (f : Workgroup → Workgroup) : (s.updWg a b c f).kernels = s.kernels := rfl
@[simp] theorem State.updWg_rcbs (s : State) (a b c : Nat) (f : Workgroup → Workgroup) : (s.updWg a b c f).rcbs = s.rcbs := rfl
@[simp] theorem State.updWg_ctxs (s : State) (a b c : Nat) (f : Workgroup → Workgroup) : (s.updWg a b c f).ctxs = s.ctxs := rfl
@[simp] theorem State.updWg_queues (s : State) (a b c : Nat) (f : Workgroup → Workgroup) : (s.updWg a b c f).queues = s.queues := rfl
@[simp] theorem State.updWg_ops (s : State) (a b c : Nat) (f : Workgroup → Workgroup) : (s.updWg a b c f).ops = s.ops := rfl
@[simp] theorem State.updWg_offers (s : State) (a b c : Nat) (f : Workgroup → Workgroup) : (s.updWg a b c f).offers = s.offers := rfl
@[simp] theorem State.updWg_walks (s : State) (a b c : Nat) (f : Workgroup → Workgroup) : (s.updWg a b c f).walks = s.walks := rfl
@[simp] theorem State.updWg_copies (s : State) (a b c : Nat) (f : Workgroup → Workgroup) : (s.updWg a b c f).copies = s.copies := rfl
@[simp] theorem State.updWg_circuits (s : State) (a b c : Nat) (f : Workgroup → Workgroup) : (s.updWg a b c f).circuits = s.circuits := rfl
@[simp] theorem State.updWg_arms (s : State) (a b c : Nat) (f : Workgroup → Workgroup) : (s.updWg a b c f).arms = s.arms := rfl
@[simp] theorem State.updWg_fills (s : State) (a b c : Nat) (f : Workgroup → Workgroup) : (s.updWg a b c f).fills = s.fills := rfl
@[simp] theorem State.updWg_cfills (s : State) (a b c : Nat) (f : Workgroup → Workgroup) : (s.updWg a b c f).cfills = s.cfills := rfl
@[simp] theorem State.updWg_merges (s : State) (a b c : Nat) (f : Workgroup → Workgroup) : (s.updWg a b c f).merges = s.merges := rfl
@[simp] theorem State.updWg_invals (s : State) (a b c : Nat) (f : Workgroup → Workgroup) : (s.updWg a b c f).invals = s.invals := rfl
@[simp] theorem State.updWg_pushes (s : State) (a b c : Nat) (f : Workgroup → Workgroup) : (s.updWg a b c f).pushes = s.pushes := rfl
@[simp] theorem State.updWg_stsrs (s : State) (a b c : Nat) (f : Workgroup → Workgroup) : (s.updWg a b c f).stsrs = s.stsrs := rfl
@[simp] theorem State.updWg_shMsgs (s : State) (a b c : Nat) (f : Workgroup → Workgroup) : (s.updWg a b c f).shMsgs = s.shMsgs := rfl
@[simp] theorem State.updWg_shProcs (s : State) (a b c : Nat) (f : Workgroup → Workgroup) : (s.updWg a b c f).shProcs = s.shProcs := rfl
@[simp] theorem State.updWg_sent (s : State) (a b c : Nat) (f : Workgroup → Workgroup) : (s.updWg a b c f).sent = s.sent := rfl
@[simp] theorem State.updWg_net (s : State) (a b c : Nat) (f : Workgroup → Workgroup) : (s.updWg a b c f).net = s.net := rfl
@[simp] theorem State.updWg_wire (s : State) (a b c : Nat) (f : Workgroup → Workgroup) : (s.updWg a b c f).wire = s.wire := rfl
@[simp] theorem State.updWg_reqs (s : State) (a b c : Nat) (f : Workgroup → Workgroup) : (s.updWg a b c f).reqs = s.reqs := rfl
@[simp] theorem State.updWg_rwatches (s : State) (a b c : Nat) (f : Workgroup → Workgroup) : (s.updWg a b c f).rwatches = s.rwatches := rfl
@[simp] theorem State.updWg_hostEvents (s : State) (a b c : Nat) (f : Workgroup → Workgroup) : (s.updWg a b c f).hostEvents = s.hostEvents := rfl
@[simp] theorem State.updWg_nextId (s : State) (a b c : Nat) (f : Workgroup → Workgroup) : (s.updWg a b c f).nextId = s.nextId := rfl
@[simp] theorem State.updWg_freeCount (s : State) (a b c : Nat) (f : Workgroup → Workgroup) : (s.updWg a b c f).freeCount = s.freeCount := rfl
@[simp] theorem State.updWg_keysDrawn (s : State) (a b c : Nat) (f : Workgroup → Workgroup) : (s.updWg a b c f).keysDrawn = s.keysDrawn := rfl
@[simp] theorem State.updWg_issuer (s : State) (a b c : Nat) (f : Workgroup → Workgroup) : (s.updWg a b c f).issuer = s.issuer := rfl
@[simp] theorem State.updWg_schedule (s : State) (a b c : Nat) (f : Workgroup → Workgroup) : (s.updWg a b c f).schedule = s.schedule := rfl
@[simp] theorem State.updWg_migWait (s : State) (a b c : Nat) (f : Workgroup → Workgroup) : (s.updWg a b c f).migWait = s.migWait := rfl
@[simp] theorem State.updWg_hot (s : State) (a b c : Nat) (f : Workgroup → Workgroup) : (s.updWg a b c f).hot = s.hot := rfl
@[simp] theorem State.updWg_placeFree (s : State) (a b c : Nat) (f : Workgroup → Workgroup) : (s.updWg a b c f).placeFree = s.placeFree := rfl
@[simp] theorem State.updWg_taken (s : State) (a b c : Nat) (f : Workgroup → Workgroup) : (s.updWg a b c f).taken = s.taken := rfl
@[simp] theorem State.updWg_heldDests (s : State) (a b c : Nat) (f : Workgroup → Workgroup) : (s.updWg a b c f).heldDests = s.heldDests := rfl
@[simp] theorem State.updWg_hostStream (s : State) (a b c : Nat) (f : Workgroup → Workgroup) : (s.updWg a b c f).hostStream = s.hostStream := rfl

@[simp] theorem State.updQueue_cycle (s : State) (n : Nat) (f : Queue → Queue) : (s.updQueue n f).cycle = s.cycle := rfl
@[simp] theorem State.updQueue_gtime (s : State) (n : Nat) (f : Queue → Queue) : (s.updQueue n f).gtime = s.gtime := rfl
@[simp] theorem State.updQueue_gtimeSub (s : State) (n : Nat) (f : Queue → Queue) : (s.updQueue n f).gtimeSub = s.gtimeSub := rfl
@[simp] theorem State.updQueue_slew (s : State) (n : Nat) (f : Queue → Queue) : (s.updQueue n f).slew = s.slew := rfl
@[simp] theorem State.updQueue_ptpSync (s : State) (n : Nat) (f : Queue → Queue) : (s.updQueue n f).ptpSync = s.ptpSync := rfl
@[simp] theorem State.updQueue_modl (s : State) (n : Nat) (f : Queue → Queue) : (s.updQueue n f).modl = s.modl := rfl
@[simp] theorem State.updQueue_bar (s : State) (n : Nat) (f : Queue → Queue) : (s.updQueue n f).bar = s.bar := rfl
@[simp] theorem State.updQueue_mem (s : State) (n : Nat) (f : Queue → Queue) : (s.updQueue n f).mem = s.mem := rfl
@[simp] theorem State.updQueue_lineMeta (s : State) (n : Nat) (f : Queue → Queue) : (s.updQueue n f).lineMeta = s.lineMeta := rfl
@[simp] theorem State.updQueue_sheafOwner (s : State) (n : Nat) (f : Queue → Queue) : (s.updQueue n f).sheafOwner = s.sheafOwner := rfl
@[simp] theorem State.updQueue_shSealed (s : State) (n : Nat) (f : Queue → Queue) : (s.updQueue n f).shSealed = s.shSealed := rfl
@[simp] theorem State.updQueue_hostMem (s : State) (n : Nat) (f : Queue → Queue) : (s.updQueue n f).hostMem = s.hostMem := rfl
@[simp] theorem State.updQueue_hostDenied (s : State) (n : Nat) (f : Queue → Queue) : (s.updQueue n f).hostDenied = s.hostDenied := rfl
@[simp] theorem State.updQueue_l2 (s : State) (n : Nat) (f : Queue → Queue) : (s.updQueue n f).l2 = s.l2 := rfl
@[simp] theorem State.updQueue_ccopies (s : State) (n : Nat) (f : Queue → Queue) : (s.updQueue n f).ccopies = s.ccopies := rfl
@[simp] theorem State.updQueue_pushed (s : State) (n : Nat) (f : Queue → Queue) : (s.updQueue n f).pushed = s.pushed := rfl
@[simp] theorem State.updQueue_cores (s : State) (n : Nat) (f : Queue → Queue) : (s.updQueue n f).cores = s.cores := rfl
@[simp] theorem State.updQueue_sectorTlb (s : State) (n : Nat) (f : Queue → Queue) : (s.updQueue n f).sectorTlb = s.sectorTlb := rfl
@[simp] theorem State.updQueue_groups (s : State) (n : Nat) (f : Queue → Queue) : (s.updQueue n f).groups = s.groups := rfl
@[simp] theorem State.updQueue_wgs (s : State) (n : Nat) (f : Queue → Queue) : (s.updQueue n f).wgs = s.wgs := rfl
@[simp] theorem State.updQueue_images (s : State) (n : Nat) (f : Queue → Queue) : (s.updQueue n f).images = s.images := rfl
@[simp] theorem State.updQueue_kernels (s : State) (n : Nat) (f : Queue → Queue) : (s.updQueue n f).kernels = s.kernels := rfl
@[simp] theorem State.updQueue_rcbs (s : State) (n : Nat) (f : Queue → Queue) : (s.updQueue n f).rcbs = s.rcbs := rfl
@[simp] theorem State.updQueue_ctxs (s : State) (n : Nat) (f : Queue → Queue) : (s.updQueue n f).ctxs = s.ctxs := rfl
@[simp] theorem State.updQueue_ops (s : State) (n : Nat) (f : Queue → Queue) : (s.updQueue n f).ops = s.ops := rfl
@[simp] theorem State.updQueue_offers (s : State) (n : Nat) (f : Queue → Queue) : (s.updQueue n f).offers = s.offers := rfl
@[simp] theorem State.updQueue_walks (s : State) (n : Nat) (f : Queue → Queue) : (s.updQueue n f).walks = s.walks := rfl
@[simp] theorem State.updQueue_copies (s : State) (n : Nat) (f : Queue → Queue) : (s.updQueue n f).copies = s.copies := rfl
@[simp] theorem State.updQueue_circuits (s : State) (n : Nat) (f : Queue → Queue) : (s.updQueue n f).circuits = s.circuits := rfl
@[simp] theorem State.updQueue_arms (s : State) (n : Nat) (f : Queue → Queue) : (s.updQueue n f).arms = s.arms := rfl
@[simp] theorem State.updQueue_fills (s : State) (n : Nat) (f : Queue → Queue) : (s.updQueue n f).fills = s.fills := rfl
@[simp] theorem State.updQueue_cfills (s : State) (n : Nat) (f : Queue → Queue) : (s.updQueue n f).cfills = s.cfills := rfl
@[simp] theorem State.updQueue_merges (s : State) (n : Nat) (f : Queue → Queue) : (s.updQueue n f).merges = s.merges := rfl
@[simp] theorem State.updQueue_invals (s : State) (n : Nat) (f : Queue → Queue) : (s.updQueue n f).invals = s.invals := rfl
@[simp] theorem State.updQueue_pushes (s : State) (n : Nat) (f : Queue → Queue) : (s.updQueue n f).pushes = s.pushes := rfl
@[simp] theorem State.updQueue_stsrs (s : State) (n : Nat) (f : Queue → Queue) : (s.updQueue n f).stsrs = s.stsrs := rfl
@[simp] theorem State.updQueue_shMsgs (s : State) (n : Nat) (f : Queue → Queue) : (s.updQueue n f).shMsgs = s.shMsgs := rfl
@[simp] theorem State.updQueue_shProcs (s : State) (n : Nat) (f : Queue → Queue) : (s.updQueue n f).shProcs = s.shProcs := rfl
@[simp] theorem State.updQueue_sent (s : State) (n : Nat) (f : Queue → Queue) : (s.updQueue n f).sent = s.sent := rfl
@[simp] theorem State.updQueue_net (s : State) (n : Nat) (f : Queue → Queue) : (s.updQueue n f).net = s.net := rfl
@[simp] theorem State.updQueue_wire (s : State) (n : Nat) (f : Queue → Queue) : (s.updQueue n f).wire = s.wire := rfl
@[simp] theorem State.updQueue_reqs (s : State) (n : Nat) (f : Queue → Queue) : (s.updQueue n f).reqs = s.reqs := rfl
@[simp] theorem State.updQueue_rwatches (s : State) (n : Nat) (f : Queue → Queue) : (s.updQueue n f).rwatches = s.rwatches := rfl
@[simp] theorem State.updQueue_hostEvents (s : State) (n : Nat) (f : Queue → Queue) : (s.updQueue n f).hostEvents = s.hostEvents := rfl
@[simp] theorem State.updQueue_nextId (s : State) (n : Nat) (f : Queue → Queue) : (s.updQueue n f).nextId = s.nextId := rfl
@[simp] theorem State.updQueue_freeCount (s : State) (n : Nat) (f : Queue → Queue) : (s.updQueue n f).freeCount = s.freeCount := rfl
@[simp] theorem State.updQueue_keysDrawn (s : State) (n : Nat) (f : Queue → Queue) : (s.updQueue n f).keysDrawn = s.keysDrawn := rfl
@[simp] theorem State.updQueue_issuer (s : State) (n : Nat) (f : Queue → Queue) : (s.updQueue n f).issuer = s.issuer := rfl
@[simp] theorem State.updQueue_schedule (s : State) (n : Nat) (f : Queue → Queue) : (s.updQueue n f).schedule = s.schedule := rfl
@[simp] theorem State.updQueue_migWait (s : State) (n : Nat) (f : Queue → Queue) : (s.updQueue n f).migWait = s.migWait := rfl
@[simp] theorem State.updQueue_hot (s : State) (n : Nat) (f : Queue → Queue) : (s.updQueue n f).hot = s.hot := rfl
@[simp] theorem State.updQueue_placeFree (s : State) (n : Nat) (f : Queue → Queue) : (s.updQueue n f).placeFree = s.placeFree := rfl
@[simp] theorem State.updQueue_taken (s : State) (n : Nat) (f : Queue → Queue) : (s.updQueue n f).taken = s.taken := rfl
@[simp] theorem State.updQueue_heldDests (s : State) (n : Nat) (f : Queue → Queue) : (s.updQueue n f).heldDests = s.heldDests := rfl
@[simp] theorem State.updQueue_hostStream (s : State) (n : Nat) (f : Queue → Queue) : (s.updQueue n f).hostStream = s.hostStream := rfl

@[simp] theorem State.updOp_cycle (s : State) (n : Nat) (f : PendOp → PendOp) : (s.updOp n f).cycle = s.cycle := rfl
@[simp] theorem State.updOp_gtime (s : State) (n : Nat) (f : PendOp → PendOp) : (s.updOp n f).gtime = s.gtime := rfl
@[simp] theorem State.updOp_gtimeSub (s : State) (n : Nat) (f : PendOp → PendOp) : (s.updOp n f).gtimeSub = s.gtimeSub := rfl
@[simp] theorem State.updOp_slew (s : State) (n : Nat) (f : PendOp → PendOp) : (s.updOp n f).slew = s.slew := rfl
@[simp] theorem State.updOp_ptpSync (s : State) (n : Nat) (f : PendOp → PendOp) : (s.updOp n f).ptpSync = s.ptpSync := rfl
@[simp] theorem State.updOp_modl (s : State) (n : Nat) (f : PendOp → PendOp) : (s.updOp n f).modl = s.modl := rfl
@[simp] theorem State.updOp_bar (s : State) (n : Nat) (f : PendOp → PendOp) : (s.updOp n f).bar = s.bar := rfl
@[simp] theorem State.updOp_mem (s : State) (n : Nat) (f : PendOp → PendOp) : (s.updOp n f).mem = s.mem := rfl
@[simp] theorem State.updOp_lineMeta (s : State) (n : Nat) (f : PendOp → PendOp) : (s.updOp n f).lineMeta = s.lineMeta := rfl
@[simp] theorem State.updOp_sheafOwner (s : State) (n : Nat) (f : PendOp → PendOp) : (s.updOp n f).sheafOwner = s.sheafOwner := rfl
@[simp] theorem State.updOp_shSealed (s : State) (n : Nat) (f : PendOp → PendOp) : (s.updOp n f).shSealed = s.shSealed := rfl
@[simp] theorem State.updOp_hostMem (s : State) (n : Nat) (f : PendOp → PendOp) : (s.updOp n f).hostMem = s.hostMem := rfl
@[simp] theorem State.updOp_hostDenied (s : State) (n : Nat) (f : PendOp → PendOp) : (s.updOp n f).hostDenied = s.hostDenied := rfl
@[simp] theorem State.updOp_l2 (s : State) (n : Nat) (f : PendOp → PendOp) : (s.updOp n f).l2 = s.l2 := rfl
@[simp] theorem State.updOp_ccopies (s : State) (n : Nat) (f : PendOp → PendOp) : (s.updOp n f).ccopies = s.ccopies := rfl
@[simp] theorem State.updOp_pushed (s : State) (n : Nat) (f : PendOp → PendOp) : (s.updOp n f).pushed = s.pushed := rfl
@[simp] theorem State.updOp_cores (s : State) (n : Nat) (f : PendOp → PendOp) : (s.updOp n f).cores = s.cores := rfl
@[simp] theorem State.updOp_sectorTlb (s : State) (n : Nat) (f : PendOp → PendOp) : (s.updOp n f).sectorTlb = s.sectorTlb := rfl
@[simp] theorem State.updOp_groups (s : State) (n : Nat) (f : PendOp → PendOp) : (s.updOp n f).groups = s.groups := rfl
@[simp] theorem State.updOp_wgs (s : State) (n : Nat) (f : PendOp → PendOp) : (s.updOp n f).wgs = s.wgs := rfl
@[simp] theorem State.updOp_images (s : State) (n : Nat) (f : PendOp → PendOp) : (s.updOp n f).images = s.images := rfl
@[simp] theorem State.updOp_kernels (s : State) (n : Nat) (f : PendOp → PendOp) : (s.updOp n f).kernels = s.kernels := rfl
@[simp] theorem State.updOp_rcbs (s : State) (n : Nat) (f : PendOp → PendOp) : (s.updOp n f).rcbs = s.rcbs := rfl
@[simp] theorem State.updOp_ctxs (s : State) (n : Nat) (f : PendOp → PendOp) : (s.updOp n f).ctxs = s.ctxs := rfl
@[simp] theorem State.updOp_queues (s : State) (n : Nat) (f : PendOp → PendOp) : (s.updOp n f).queues = s.queues := rfl
@[simp] theorem State.updOp_offers (s : State) (n : Nat) (f : PendOp → PendOp) : (s.updOp n f).offers = s.offers := rfl
@[simp] theorem State.updOp_walks (s : State) (n : Nat) (f : PendOp → PendOp) : (s.updOp n f).walks = s.walks := rfl
@[simp] theorem State.updOp_copies (s : State) (n : Nat) (f : PendOp → PendOp) : (s.updOp n f).copies = s.copies := rfl
@[simp] theorem State.updOp_circuits (s : State) (n : Nat) (f : PendOp → PendOp) : (s.updOp n f).circuits = s.circuits := rfl
@[simp] theorem State.updOp_arms (s : State) (n : Nat) (f : PendOp → PendOp) : (s.updOp n f).arms = s.arms := rfl
@[simp] theorem State.updOp_fills (s : State) (n : Nat) (f : PendOp → PendOp) : (s.updOp n f).fills = s.fills := rfl
@[simp] theorem State.updOp_cfills (s : State) (n : Nat) (f : PendOp → PendOp) : (s.updOp n f).cfills = s.cfills := rfl
@[simp] theorem State.updOp_merges (s : State) (n : Nat) (f : PendOp → PendOp) : (s.updOp n f).merges = s.merges := rfl
@[simp] theorem State.updOp_invals (s : State) (n : Nat) (f : PendOp → PendOp) : (s.updOp n f).invals = s.invals := rfl
@[simp] theorem State.updOp_pushes (s : State) (n : Nat) (f : PendOp → PendOp) : (s.updOp n f).pushes = s.pushes := rfl
@[simp] theorem State.updOp_stsrs (s : State) (n : Nat) (f : PendOp → PendOp) : (s.updOp n f).stsrs = s.stsrs := rfl
@[simp] theorem State.updOp_shMsgs (s : State) (n : Nat) (f : PendOp → PendOp) : (s.updOp n f).shMsgs = s.shMsgs := rfl
@[simp] theorem State.updOp_shProcs (s : State) (n : Nat) (f : PendOp → PendOp) : (s.updOp n f).shProcs = s.shProcs := rfl
@[simp] theorem State.updOp_sent (s : State) (n : Nat) (f : PendOp → PendOp) : (s.updOp n f).sent = s.sent := rfl
@[simp] theorem State.updOp_net (s : State) (n : Nat) (f : PendOp → PendOp) : (s.updOp n f).net = s.net := rfl
@[simp] theorem State.updOp_wire (s : State) (n : Nat) (f : PendOp → PendOp) : (s.updOp n f).wire = s.wire := rfl
@[simp] theorem State.updOp_reqs (s : State) (n : Nat) (f : PendOp → PendOp) : (s.updOp n f).reqs = s.reqs := rfl
@[simp] theorem State.updOp_rwatches (s : State) (n : Nat) (f : PendOp → PendOp) : (s.updOp n f).rwatches = s.rwatches := rfl
@[simp] theorem State.updOp_hostEvents (s : State) (n : Nat) (f : PendOp → PendOp) : (s.updOp n f).hostEvents = s.hostEvents := rfl
@[simp] theorem State.updOp_nextId (s : State) (n : Nat) (f : PendOp → PendOp) : (s.updOp n f).nextId = s.nextId := rfl
@[simp] theorem State.updOp_freeCount (s : State) (n : Nat) (f : PendOp → PendOp) : (s.updOp n f).freeCount = s.freeCount := rfl
@[simp] theorem State.updOp_keysDrawn (s : State) (n : Nat) (f : PendOp → PendOp) : (s.updOp n f).keysDrawn = s.keysDrawn := rfl
@[simp] theorem State.updOp_issuer (s : State) (n : Nat) (f : PendOp → PendOp) : (s.updOp n f).issuer = s.issuer := rfl
@[simp] theorem State.updOp_schedule (s : State) (n : Nat) (f : PendOp → PendOp) : (s.updOp n f).schedule = s.schedule := rfl
@[simp] theorem State.updOp_migWait (s : State) (n : Nat) (f : PendOp → PendOp) : (s.updOp n f).migWait = s.migWait := rfl
@[simp] theorem State.updOp_hot (s : State) (n : Nat) (f : PendOp → PendOp) : (s.updOp n f).hot = s.hot := rfl
@[simp] theorem State.updOp_placeFree (s : State) (n : Nat) (f : PendOp → PendOp) : (s.updOp n f).placeFree = s.placeFree := rfl
@[simp] theorem State.updOp_taken (s : State) (n : Nat) (f : PendOp → PendOp) : (s.updOp n f).taken = s.taken := rfl
@[simp] theorem State.updOp_heldDests (s : State) (n : Nat) (f : PendOp → PendOp) : (s.updOp n f).heldDests = s.heldDests := rfl
@[simp] theorem State.updOp_hostStream (s : State) (n : Nat) (f : PendOp → PendOp) : (s.updOp n f).hostStream = s.hostStream := rfl

@[simp] theorem State.updCirc_cycle (s : State) (n : Nat) (f : Circuit → Circuit) : (s.updCirc n f).cycle = s.cycle := rfl
@[simp] theorem State.updCirc_gtime (s : State) (n : Nat) (f : Circuit → Circuit) : (s.updCirc n f).gtime = s.gtime := rfl
@[simp] theorem State.updCirc_gtimeSub (s : State) (n : Nat) (f : Circuit → Circuit) : (s.updCirc n f).gtimeSub = s.gtimeSub := rfl
@[simp] theorem State.updCirc_slew (s : State) (n : Nat) (f : Circuit → Circuit) : (s.updCirc n f).slew = s.slew := rfl
@[simp] theorem State.updCirc_ptpSync (s : State) (n : Nat) (f : Circuit → Circuit) : (s.updCirc n f).ptpSync = s.ptpSync := rfl
@[simp] theorem State.updCirc_modl (s : State) (n : Nat) (f : Circuit → Circuit) : (s.updCirc n f).modl = s.modl := rfl
@[simp] theorem State.updCirc_bar (s : State) (n : Nat) (f : Circuit → Circuit) : (s.updCirc n f).bar = s.bar := rfl
@[simp] theorem State.updCirc_mem (s : State) (n : Nat) (f : Circuit → Circuit) : (s.updCirc n f).mem = s.mem := rfl
@[simp] theorem State.updCirc_lineMeta (s : State) (n : Nat) (f : Circuit → Circuit) : (s.updCirc n f).lineMeta = s.lineMeta := rfl
@[simp] theorem State.updCirc_sheafOwner (s : State) (n : Nat) (f : Circuit → Circuit) : (s.updCirc n f).sheafOwner = s.sheafOwner := rfl
@[simp] theorem State.updCirc_shSealed (s : State) (n : Nat) (f : Circuit → Circuit) : (s.updCirc n f).shSealed = s.shSealed := rfl
@[simp] theorem State.updCirc_hostMem (s : State) (n : Nat) (f : Circuit → Circuit) : (s.updCirc n f).hostMem = s.hostMem := rfl
@[simp] theorem State.updCirc_hostDenied (s : State) (n : Nat) (f : Circuit → Circuit) : (s.updCirc n f).hostDenied = s.hostDenied := rfl
@[simp] theorem State.updCirc_l2 (s : State) (n : Nat) (f : Circuit → Circuit) : (s.updCirc n f).l2 = s.l2 := rfl
@[simp] theorem State.updCirc_ccopies (s : State) (n : Nat) (f : Circuit → Circuit) : (s.updCirc n f).ccopies = s.ccopies := rfl
@[simp] theorem State.updCirc_pushed (s : State) (n : Nat) (f : Circuit → Circuit) : (s.updCirc n f).pushed = s.pushed := rfl
@[simp] theorem State.updCirc_cores (s : State) (n : Nat) (f : Circuit → Circuit) : (s.updCirc n f).cores = s.cores := rfl
@[simp] theorem State.updCirc_sectorTlb (s : State) (n : Nat) (f : Circuit → Circuit) : (s.updCirc n f).sectorTlb = s.sectorTlb := rfl
@[simp] theorem State.updCirc_groups (s : State) (n : Nat) (f : Circuit → Circuit) : (s.updCirc n f).groups = s.groups := rfl
@[simp] theorem State.updCirc_wgs (s : State) (n : Nat) (f : Circuit → Circuit) : (s.updCirc n f).wgs = s.wgs := rfl
@[simp] theorem State.updCirc_images (s : State) (n : Nat) (f : Circuit → Circuit) : (s.updCirc n f).images = s.images := rfl
@[simp] theorem State.updCirc_kernels (s : State) (n : Nat) (f : Circuit → Circuit) : (s.updCirc n f).kernels = s.kernels := rfl
@[simp] theorem State.updCirc_rcbs (s : State) (n : Nat) (f : Circuit → Circuit) : (s.updCirc n f).rcbs = s.rcbs := rfl
@[simp] theorem State.updCirc_ctxs (s : State) (n : Nat) (f : Circuit → Circuit) : (s.updCirc n f).ctxs = s.ctxs := rfl
@[simp] theorem State.updCirc_queues (s : State) (n : Nat) (f : Circuit → Circuit) : (s.updCirc n f).queues = s.queues := rfl
@[simp] theorem State.updCirc_ops (s : State) (n : Nat) (f : Circuit → Circuit) : (s.updCirc n f).ops = s.ops := rfl
@[simp] theorem State.updCirc_offers (s : State) (n : Nat) (f : Circuit → Circuit) : (s.updCirc n f).offers = s.offers := rfl
@[simp] theorem State.updCirc_walks (s : State) (n : Nat) (f : Circuit → Circuit) : (s.updCirc n f).walks = s.walks := rfl
@[simp] theorem State.updCirc_copies (s : State) (n : Nat) (f : Circuit → Circuit) : (s.updCirc n f).copies = s.copies := rfl
@[simp] theorem State.updCirc_arms (s : State) (n : Nat) (f : Circuit → Circuit) : (s.updCirc n f).arms = s.arms := rfl
@[simp] theorem State.updCirc_fills (s : State) (n : Nat) (f : Circuit → Circuit) : (s.updCirc n f).fills = s.fills := rfl
@[simp] theorem State.updCirc_cfills (s : State) (n : Nat) (f : Circuit → Circuit) : (s.updCirc n f).cfills = s.cfills := rfl
@[simp] theorem State.updCirc_merges (s : State) (n : Nat) (f : Circuit → Circuit) : (s.updCirc n f).merges = s.merges := rfl
@[simp] theorem State.updCirc_invals (s : State) (n : Nat) (f : Circuit → Circuit) : (s.updCirc n f).invals = s.invals := rfl
@[simp] theorem State.updCirc_pushes (s : State) (n : Nat) (f : Circuit → Circuit) : (s.updCirc n f).pushes = s.pushes := rfl
@[simp] theorem State.updCirc_stsrs (s : State) (n : Nat) (f : Circuit → Circuit) : (s.updCirc n f).stsrs = s.stsrs := rfl
@[simp] theorem State.updCirc_shMsgs (s : State) (n : Nat) (f : Circuit → Circuit) : (s.updCirc n f).shMsgs = s.shMsgs := rfl
@[simp] theorem State.updCirc_shProcs (s : State) (n : Nat) (f : Circuit → Circuit) : (s.updCirc n f).shProcs = s.shProcs := rfl
@[simp] theorem State.updCirc_sent (s : State) (n : Nat) (f : Circuit → Circuit) : (s.updCirc n f).sent = s.sent := rfl
@[simp] theorem State.updCirc_net (s : State) (n : Nat) (f : Circuit → Circuit) : (s.updCirc n f).net = s.net := rfl
@[simp] theorem State.updCirc_wire (s : State) (n : Nat) (f : Circuit → Circuit) : (s.updCirc n f).wire = s.wire := rfl
@[simp] theorem State.updCirc_reqs (s : State) (n : Nat) (f : Circuit → Circuit) : (s.updCirc n f).reqs = s.reqs := rfl
@[simp] theorem State.updCirc_rwatches (s : State) (n : Nat) (f : Circuit → Circuit) : (s.updCirc n f).rwatches = s.rwatches := rfl
@[simp] theorem State.updCirc_hostEvents (s : State) (n : Nat) (f : Circuit → Circuit) : (s.updCirc n f).hostEvents = s.hostEvents := rfl
@[simp] theorem State.updCirc_nextId (s : State) (n : Nat) (f : Circuit → Circuit) : (s.updCirc n f).nextId = s.nextId := rfl
@[simp] theorem State.updCirc_freeCount (s : State) (n : Nat) (f : Circuit → Circuit) : (s.updCirc n f).freeCount = s.freeCount := rfl
@[simp] theorem State.updCirc_keysDrawn (s : State) (n : Nat) (f : Circuit → Circuit) : (s.updCirc n f).keysDrawn = s.keysDrawn := rfl
@[simp] theorem State.updCirc_issuer (s : State) (n : Nat) (f : Circuit → Circuit) : (s.updCirc n f).issuer = s.issuer := rfl
@[simp] theorem State.updCirc_schedule (s : State) (n : Nat) (f : Circuit → Circuit) : (s.updCirc n f).schedule = s.schedule := rfl
@[simp] theorem State.updCirc_migWait (s : State) (n : Nat) (f : Circuit → Circuit) : (s.updCirc n f).migWait = s.migWait := rfl
@[simp] theorem State.updCirc_hot (s : State) (n : Nat) (f : Circuit → Circuit) : (s.updCirc n f).hot = s.hot := rfl
@[simp] theorem State.updCirc_placeFree (s : State) (n : Nat) (f : Circuit → Circuit) : (s.updCirc n f).placeFree = s.placeFree := rfl
@[simp] theorem State.updCirc_taken (s : State) (n : Nat) (f : Circuit → Circuit) : (s.updCirc n f).taken = s.taken := rfl
@[simp] theorem State.updCirc_heldDests (s : State) (n : Nat) (f : Circuit → Circuit) : (s.updCirc n f).heldDests = s.heldDests := rfl
@[simp] theorem State.updCirc_hostStream (s : State) (n : Nat) (f : Circuit → Circuit) : (s.updCirc n f).hostStream = s.hostStream := rfl

@[simp] theorem State.emit_cycle (s : State) (e : HostEvent) : (s.emit e).cycle = s.cycle := rfl
@[simp] theorem State.emit_gtime (s : State) (e : HostEvent) : (s.emit e).gtime = s.gtime := rfl
@[simp] theorem State.emit_gtimeSub (s : State) (e : HostEvent) : (s.emit e).gtimeSub = s.gtimeSub := rfl
@[simp] theorem State.emit_slew (s : State) (e : HostEvent) : (s.emit e).slew = s.slew := rfl
@[simp] theorem State.emit_ptpSync (s : State) (e : HostEvent) : (s.emit e).ptpSync = s.ptpSync := rfl
@[simp] theorem State.emit_modl (s : State) (e : HostEvent) : (s.emit e).modl = s.modl := rfl
@[simp] theorem State.emit_bar (s : State) (e : HostEvent) : (s.emit e).bar = s.bar := rfl
@[simp] theorem State.emit_mem (s : State) (e : HostEvent) : (s.emit e).mem = s.mem := rfl
@[simp] theorem State.emit_lineMeta (s : State) (e : HostEvent) : (s.emit e).lineMeta = s.lineMeta := rfl
@[simp] theorem State.emit_sheafOwner (s : State) (e : HostEvent) : (s.emit e).sheafOwner = s.sheafOwner := rfl
@[simp] theorem State.emit_shSealed (s : State) (e : HostEvent) : (s.emit e).shSealed = s.shSealed := rfl
@[simp] theorem State.emit_hostMem (s : State) (e : HostEvent) : (s.emit e).hostMem = s.hostMem := rfl
@[simp] theorem State.emit_hostDenied (s : State) (e : HostEvent) : (s.emit e).hostDenied = s.hostDenied := rfl
@[simp] theorem State.emit_l2 (s : State) (e : HostEvent) : (s.emit e).l2 = s.l2 := rfl
@[simp] theorem State.emit_ccopies (s : State) (e : HostEvent) : (s.emit e).ccopies = s.ccopies := rfl
@[simp] theorem State.emit_pushed (s : State) (e : HostEvent) : (s.emit e).pushed = s.pushed := rfl
@[simp] theorem State.emit_cores (s : State) (e : HostEvent) : (s.emit e).cores = s.cores := rfl
@[simp] theorem State.emit_sectorTlb (s : State) (e : HostEvent) : (s.emit e).sectorTlb = s.sectorTlb := rfl
@[simp] theorem State.emit_groups (s : State) (e : HostEvent) : (s.emit e).groups = s.groups := rfl
@[simp] theorem State.emit_wgs (s : State) (e : HostEvent) : (s.emit e).wgs = s.wgs := rfl
@[simp] theorem State.emit_images (s : State) (e : HostEvent) : (s.emit e).images = s.images := rfl
@[simp] theorem State.emit_kernels (s : State) (e : HostEvent) : (s.emit e).kernels = s.kernels := rfl
@[simp] theorem State.emit_rcbs (s : State) (e : HostEvent) : (s.emit e).rcbs = s.rcbs := rfl
@[simp] theorem State.emit_ctxs (s : State) (e : HostEvent) : (s.emit e).ctxs = s.ctxs := rfl
@[simp] theorem State.emit_queues (s : State) (e : HostEvent) : (s.emit e).queues = s.queues := rfl
@[simp] theorem State.emit_ops (s : State) (e : HostEvent) : (s.emit e).ops = s.ops := rfl
@[simp] theorem State.emit_offers (s : State) (e : HostEvent) : (s.emit e).offers = s.offers := rfl
@[simp] theorem State.emit_walks (s : State) (e : HostEvent) : (s.emit e).walks = s.walks := rfl
@[simp] theorem State.emit_copies (s : State) (e : HostEvent) : (s.emit e).copies = s.copies := rfl
@[simp] theorem State.emit_circuits (s : State) (e : HostEvent) : (s.emit e).circuits = s.circuits := rfl
@[simp] theorem State.emit_arms (s : State) (e : HostEvent) : (s.emit e).arms = s.arms := rfl
@[simp] theorem State.emit_fills (s : State) (e : HostEvent) : (s.emit e).fills = s.fills := rfl
@[simp] theorem State.emit_cfills (s : State) (e : HostEvent) : (s.emit e).cfills = s.cfills := rfl
@[simp] theorem State.emit_merges (s : State) (e : HostEvent) : (s.emit e).merges = s.merges := rfl
@[simp] theorem State.emit_invals (s : State) (e : HostEvent) : (s.emit e).invals = s.invals := rfl
@[simp] theorem State.emit_pushes (s : State) (e : HostEvent) : (s.emit e).pushes = s.pushes := rfl
@[simp] theorem State.emit_stsrs (s : State) (e : HostEvent) : (s.emit e).stsrs = s.stsrs := rfl
@[simp] theorem State.emit_shMsgs (s : State) (e : HostEvent) : (s.emit e).shMsgs = s.shMsgs := rfl
@[simp] theorem State.emit_shProcs (s : State) (e : HostEvent) : (s.emit e).shProcs = s.shProcs := rfl
@[simp] theorem State.emit_sent (s : State) (e : HostEvent) : (s.emit e).sent = s.sent := rfl
@[simp] theorem State.emit_net (s : State) (e : HostEvent) : (s.emit e).net = s.net := rfl
@[simp] theorem State.emit_wire (s : State) (e : HostEvent) : (s.emit e).wire = s.wire := rfl
@[simp] theorem State.emit_reqs (s : State) (e : HostEvent) : (s.emit e).reqs = s.reqs := rfl
@[simp] theorem State.emit_rwatches (s : State) (e : HostEvent) : (s.emit e).rwatches = s.rwatches := rfl
@[simp] theorem State.emit_nextId (s : State) (e : HostEvent) : (s.emit e).nextId = s.nextId := rfl
@[simp] theorem State.emit_freeCount (s : State) (e : HostEvent) : (s.emit e).freeCount = s.freeCount := rfl
@[simp] theorem State.emit_keysDrawn (s : State) (e : HostEvent) : (s.emit e).keysDrawn = s.keysDrawn := rfl
@[simp] theorem State.emit_issuer (s : State) (e : HostEvent) : (s.emit e).issuer = s.issuer := rfl
@[simp] theorem State.emit_schedule (s : State) (e : HostEvent) : (s.emit e).schedule = s.schedule := rfl
@[simp] theorem State.emit_migWait (s : State) (e : HostEvent) : (s.emit e).migWait = s.migWait := rfl
@[simp] theorem State.emit_hot (s : State) (e : HostEvent) : (s.emit e).hot = s.hot := rfl
@[simp] theorem State.emit_placeFree (s : State) (e : HostEvent) : (s.emit e).placeFree = s.placeFree := rfl
@[simp] theorem State.emit_taken (s : State) (e : HostEvent) : (s.emit e).taken = s.taken := rfl
@[simp] theorem State.emit_heldDests (s : State) (e : HostEvent) : (s.emit e).heldDests = s.heldDests := rfl
@[simp] theorem State.emit_hostStream (s : State) (e : HostEvent) : (s.emit e).hostStream = s.hostStream := rfl

@[simp] theorem State.setMeta_cycle (s : State) (n : Nat) (m : LineMeta) : (s.setMeta n m).cycle = s.cycle := rfl
@[simp] theorem State.setMeta_gtime (s : State) (n : Nat) (m : LineMeta) : (s.setMeta n m).gtime = s.gtime := rfl
@[simp] theorem State.setMeta_gtimeSub (s : State) (n : Nat) (m : LineMeta) : (s.setMeta n m).gtimeSub = s.gtimeSub := rfl
@[simp] theorem State.setMeta_slew (s : State) (n : Nat) (m : LineMeta) : (s.setMeta n m).slew = s.slew := rfl
@[simp] theorem State.setMeta_ptpSync (s : State) (n : Nat) (m : LineMeta) : (s.setMeta n m).ptpSync = s.ptpSync := rfl
@[simp] theorem State.setMeta_modl (s : State) (n : Nat) (m : LineMeta) : (s.setMeta n m).modl = s.modl := rfl
@[simp] theorem State.setMeta_bar (s : State) (n : Nat) (m : LineMeta) : (s.setMeta n m).bar = s.bar := rfl
@[simp] theorem State.setMeta_mem (s : State) (n : Nat) (m : LineMeta) : (s.setMeta n m).mem = s.mem := rfl
@[simp] theorem State.setMeta_sheafOwner (s : State) (n : Nat) (m : LineMeta) : (s.setMeta n m).sheafOwner = s.sheafOwner := rfl
@[simp] theorem State.setMeta_shSealed (s : State) (n : Nat) (m : LineMeta) : (s.setMeta n m).shSealed = s.shSealed := rfl
@[simp] theorem State.setMeta_hostMem (s : State) (n : Nat) (m : LineMeta) : (s.setMeta n m).hostMem = s.hostMem := rfl
@[simp] theorem State.setMeta_hostDenied (s : State) (n : Nat) (m : LineMeta) : (s.setMeta n m).hostDenied = s.hostDenied := rfl
@[simp] theorem State.setMeta_l2 (s : State) (n : Nat) (m : LineMeta) : (s.setMeta n m).l2 = s.l2 := rfl
@[simp] theorem State.setMeta_ccopies (s : State) (n : Nat) (m : LineMeta) : (s.setMeta n m).ccopies = s.ccopies := rfl
@[simp] theorem State.setMeta_pushed (s : State) (n : Nat) (m : LineMeta) : (s.setMeta n m).pushed = s.pushed := rfl
@[simp] theorem State.setMeta_cores (s : State) (n : Nat) (m : LineMeta) : (s.setMeta n m).cores = s.cores := rfl
@[simp] theorem State.setMeta_sectorTlb (s : State) (n : Nat) (m : LineMeta) : (s.setMeta n m).sectorTlb = s.sectorTlb := rfl
@[simp] theorem State.setMeta_groups (s : State) (n : Nat) (m : LineMeta) : (s.setMeta n m).groups = s.groups := rfl
@[simp] theorem State.setMeta_wgs (s : State) (n : Nat) (m : LineMeta) : (s.setMeta n m).wgs = s.wgs := rfl
@[simp] theorem State.setMeta_images (s : State) (n : Nat) (m : LineMeta) : (s.setMeta n m).images = s.images := rfl
@[simp] theorem State.setMeta_kernels (s : State) (n : Nat) (m : LineMeta) : (s.setMeta n m).kernels = s.kernels := rfl
@[simp] theorem State.setMeta_rcbs (s : State) (n : Nat) (m : LineMeta) : (s.setMeta n m).rcbs = s.rcbs := rfl
@[simp] theorem State.setMeta_ctxs (s : State) (n : Nat) (m : LineMeta) : (s.setMeta n m).ctxs = s.ctxs := rfl
@[simp] theorem State.setMeta_queues (s : State) (n : Nat) (m : LineMeta) : (s.setMeta n m).queues = s.queues := rfl
@[simp] theorem State.setMeta_ops (s : State) (n : Nat) (m : LineMeta) : (s.setMeta n m).ops = s.ops := rfl
@[simp] theorem State.setMeta_offers (s : State) (n : Nat) (m : LineMeta) : (s.setMeta n m).offers = s.offers := rfl
@[simp] theorem State.setMeta_walks (s : State) (n : Nat) (m : LineMeta) : (s.setMeta n m).walks = s.walks := rfl
@[simp] theorem State.setMeta_copies (s : State) (n : Nat) (m : LineMeta) : (s.setMeta n m).copies = s.copies := rfl
@[simp] theorem State.setMeta_circuits (s : State) (n : Nat) (m : LineMeta) : (s.setMeta n m).circuits = s.circuits := rfl
@[simp] theorem State.setMeta_arms (s : State) (n : Nat) (m : LineMeta) : (s.setMeta n m).arms = s.arms := rfl
@[simp] theorem State.setMeta_fills (s : State) (n : Nat) (m : LineMeta) : (s.setMeta n m).fills = s.fills := rfl
@[simp] theorem State.setMeta_cfills (s : State) (n : Nat) (m : LineMeta) : (s.setMeta n m).cfills = s.cfills := rfl
@[simp] theorem State.setMeta_merges (s : State) (n : Nat) (m : LineMeta) : (s.setMeta n m).merges = s.merges := rfl
@[simp] theorem State.setMeta_invals (s : State) (n : Nat) (m : LineMeta) : (s.setMeta n m).invals = s.invals := rfl
@[simp] theorem State.setMeta_pushes (s : State) (n : Nat) (m : LineMeta) : (s.setMeta n m).pushes = s.pushes := rfl
@[simp] theorem State.setMeta_stsrs (s : State) (n : Nat) (m : LineMeta) : (s.setMeta n m).stsrs = s.stsrs := rfl
@[simp] theorem State.setMeta_shMsgs (s : State) (n : Nat) (m : LineMeta) : (s.setMeta n m).shMsgs = s.shMsgs := rfl
@[simp] theorem State.setMeta_shProcs (s : State) (n : Nat) (m : LineMeta) : (s.setMeta n m).shProcs = s.shProcs := rfl
@[simp] theorem State.setMeta_sent (s : State) (n : Nat) (m : LineMeta) : (s.setMeta n m).sent = s.sent := rfl
@[simp] theorem State.setMeta_net (s : State) (n : Nat) (m : LineMeta) : (s.setMeta n m).net = s.net := rfl
@[simp] theorem State.setMeta_wire (s : State) (n : Nat) (m : LineMeta) : (s.setMeta n m).wire = s.wire := rfl
@[simp] theorem State.setMeta_reqs (s : State) (n : Nat) (m : LineMeta) : (s.setMeta n m).reqs = s.reqs := rfl
@[simp] theorem State.setMeta_rwatches (s : State) (n : Nat) (m : LineMeta) : (s.setMeta n m).rwatches = s.rwatches := rfl
@[simp] theorem State.setMeta_hostEvents (s : State) (n : Nat) (m : LineMeta) : (s.setMeta n m).hostEvents = s.hostEvents := rfl
@[simp] theorem State.setMeta_nextId (s : State) (n : Nat) (m : LineMeta) : (s.setMeta n m).nextId = s.nextId := rfl
@[simp] theorem State.setMeta_freeCount (s : State) (n : Nat) (m : LineMeta) : (s.setMeta n m).freeCount = s.freeCount := rfl
@[simp] theorem State.setMeta_keysDrawn (s : State) (n : Nat) (m : LineMeta) : (s.setMeta n m).keysDrawn = s.keysDrawn := rfl
@[simp] theorem State.setMeta_issuer (s : State) (n : Nat) (m : LineMeta) : (s.setMeta n m).issuer = s.issuer := rfl
@[simp] theorem State.setMeta_schedule (s : State) (n : Nat) (m : LineMeta) : (s.setMeta n m).schedule = s.schedule := rfl
@[simp] theorem State.setMeta_migWait (s : State) (n : Nat) (m : LineMeta) : (s.setMeta n m).migWait = s.migWait := rfl
@[simp] theorem State.setMeta_hot (s : State) (n : Nat) (m : LineMeta) : (s.setMeta n m).hot = s.hot := rfl
@[simp] theorem State.setMeta_placeFree (s : State) (n : Nat) (m : LineMeta) : (s.setMeta n m).placeFree = s.placeFree := rfl
@[simp] theorem State.setMeta_taken (s : State) (n : Nat) (m : LineMeta) : (s.setMeta n m).taken = s.taken := rfl
@[simp] theorem State.setMeta_heldDests (s : State) (n : Nat) (m : LineMeta) : (s.setMeta n m).heldDests = s.heldDests := rfl
@[simp] theorem State.setMeta_hostStream (s : State) (n : Nat) (m : LineMeta) : (s.setMeta n m).hostStream = s.hostStream := rfl

/-! ## Fields of Group behind the writes of its registers -/

@[simp] theorem Group.setS_ref (g : Group) (r : Nat) (x : Word) : (g.setS r x).ref = g.ref := rfl
@[simp] theorem Group.setS_status (g : Group) (r : Nat) (x : Word) : (g.setS r x).status = g.status := rfl
@[simp] theorem Group.setS_cx (g : Group) (r : Nat) (x : Word) : (g.setS r x).cx = g.cx := rfl
@[simp] theorem Group.setS_kernel (g : Group) (r : Nat) (x : Word) : (g.setS r x).kernel = g.kernel := rfl
@[simp] theorem Group.setS_wg (g : Group) (r : Nat) (x : Word) : (g.setS r x).wg = g.wg := rfl
@[simp] theorem Group.setS_gidx (g : Group) (r : Nat) (x : Word) : (g.setS r x).gidx = g.gidx := rfl
@[simp] theorem Group.setS_allot (g : Group) (r : Nat) (x : Word) : (g.setS r x).allot = g.allot := rfl
@[simp] theorem Group.setS_cls (g : Group) (r : Nat) (x : Word) : (g.setS r x).cls = g.cls := rfl
@[simp] theorem Group.setS_priv (g : Group) (r : Nat) (x : Word) : (g.setS r x).priv = g.priv := rfl
@[simp] theorem Group.setS_wb (g : Group) (r : Nat) (x : Word) : (g.setS r x).wb = g.wb := rfl
@[simp] theorem Group.setS_v (g : Group) (r : Nat) (x : Word) : (g.setS r x).v = g.v := rfl
@[simp] theorem Group.setS_m (g : Group) (r : Nat) (x : Word) : (g.setS r x).m = g.m := rfl
@[simp] theorem Group.setS_fpmode (g : Group) (r : Nat) (x : Word) : (g.setS r x).fpmode = g.fpmode := rfl
@[simp] theorem Group.setS_fpflags (g : Group) (r : Nat) (x : Word) : (g.setS r x).fpflags = g.fpflags := rfl
@[simp] theorem Group.setS_seed (g : Group) (r : Nat) (x : Word) : (g.setS r x).seed = g.seed := rfl
@[simp] theorem Group.setS_bkcnt (g : Group) (r : Nat) (x : Word) : (g.setS r x).bkcnt = g.bkcnt := rfl
@[simp] theorem Group.setS_regcnt (g : Group) (r : Nat) (x : Word) : (g.setS r x).regcnt = g.regcnt := rfl
@[simp] theorem Group.setS_sowref (g : Group) (r : Nat) (x : Word) : (g.setS r x).sowref = g.sowref := rfl
@[simp] theorem Group.setS_mconf (g : Group) (r : Nat) (x : Word) : (g.setS r x).mconf = g.mconf := rfl
@[simp] theorem Group.setS_trapRec (g : Group) (r : Nat) (x : Word) : (g.setS r x).trapRec = g.trapRec := rfl
@[simp] theorem Group.setS_elected (g : Group) (r : Nat) (x : Word) : (g.setS r x).elected = g.elected := rfl
@[simp] theorem Group.setS_opens (g : Group) (r : Nat) (x : Word) : (g.setS r x).opens = g.opens := rfl
@[simp] theorem Group.setS_pins (g : Group) (r : Nat) (x : Word) : (g.setS r x).pins = g.pins := rfl
@[simp] theorem Group.setS_splits (g : Group) (r : Nat) (x : Word) : (g.setS r x).splits = g.splits := rfl
@[simp] theorem Group.setS_held (g : Group) (r : Nat) (x : Word) : (g.setS r x).held = g.held := rfl
@[simp] theorem Group.setS_argsRead (g : Group) (r : Nat) (x : Word) : (g.setS r x).argsRead = g.argsRead := rfl
@[simp] theorem Group.setS_argptr (g : Group) (r : Nat) (x : Word) : (g.setS r x).argptr = g.argptr := rfl
@[simp] theorem Group.setS_frameImg (g : Group) (r : Nat) (x : Word) : (g.setS r x).frameImg = g.frameImg := rfl
@[simp] theorem Group.setS_brk (g : Group) (r : Nat) (x : Word) : (g.setS r x).brk = g.brk := rfl
@[simp] theorem Group.setS_step (g : Group) (r : Nat) (x : Word) : (g.setS r x).step = g.step := rfl
@[simp] theorem Group.setS_spawner (g : Group) (r : Nat) (x : Word) : (g.setS r x).spawner = g.spawner := rfl
@[simp] theorem Group.setS_lastPage (g : Group) (r : Nat) (x : Word) : (g.setS r x).lastPage = g.lastPage := rfl
@[simp] theorem Group.setS_acqDue (g : Group) (r : Nat) (x : Word) : (g.setS r x).acqDue = g.acqDue := rfl
@[simp] theorem Group.setS_xopens (g : Group) (r : Nat) (x : Word) : (g.setS r x).xopens = g.xopens := rfl
@[simp] theorem Group.setS_fpmodeFrom (g : Group) (r : Nat) (x : Word) : (g.setS r x).fpmodeFrom = g.fpmodeFrom := rfl
@[simp] theorem Group.setS_fpmodeOld (g : Group) (r : Nat) (x : Word) : (g.setS r x).fpmodeOld = g.fpmodeOld := rfl
@[simp] theorem Group.setS_uid (g : Group) (r : Nat) (x : Word) : (g.setS r x).uid = g.uid := rfl
@[simp] theorem Group.setS_ownCls (g : Group) (r : Nat) (x : Word) : (g.setS r x).ownCls = g.ownCls := rfl

@[simp] theorem Group.setM_ref (g : Group) (r : Nat) (x : Word) : (g.setM r x).ref = g.ref := rfl
@[simp] theorem Group.setM_status (g : Group) (r : Nat) (x : Word) : (g.setM r x).status = g.status := rfl
@[simp] theorem Group.setM_cx (g : Group) (r : Nat) (x : Word) : (g.setM r x).cx = g.cx := rfl
@[simp] theorem Group.setM_kernel (g : Group) (r : Nat) (x : Word) : (g.setM r x).kernel = g.kernel := rfl
@[simp] theorem Group.setM_wg (g : Group) (r : Nat) (x : Word) : (g.setM r x).wg = g.wg := rfl
@[simp] theorem Group.setM_gidx (g : Group) (r : Nat) (x : Word) : (g.setM r x).gidx = g.gidx := rfl
@[simp] theorem Group.setM_allot (g : Group) (r : Nat) (x : Word) : (g.setM r x).allot = g.allot := rfl
@[simp] theorem Group.setM_cls (g : Group) (r : Nat) (x : Word) : (g.setM r x).cls = g.cls := rfl
@[simp] theorem Group.setM_priv (g : Group) (r : Nat) (x : Word) : (g.setM r x).priv = g.priv := rfl
@[simp] theorem Group.setM_wb (g : Group) (r : Nat) (x : Word) : (g.setM r x).wb = g.wb := rfl
@[simp] theorem Group.setM_s (g : Group) (r : Nat) (x : Word) : (g.setM r x).s = g.s := rfl
@[simp] theorem Group.setM_v (g : Group) (r : Nat) (x : Word) : (g.setM r x).v = g.v := rfl
@[simp] theorem Group.setM_fpmode (g : Group) (r : Nat) (x : Word) : (g.setM r x).fpmode = g.fpmode := rfl
@[simp] theorem Group.setM_fpflags (g : Group) (r : Nat) (x : Word) : (g.setM r x).fpflags = g.fpflags := rfl
@[simp] theorem Group.setM_seed (g : Group) (r : Nat) (x : Word) : (g.setM r x).seed = g.seed := rfl
@[simp] theorem Group.setM_bkcnt (g : Group) (r : Nat) (x : Word) : (g.setM r x).bkcnt = g.bkcnt := rfl
@[simp] theorem Group.setM_regcnt (g : Group) (r : Nat) (x : Word) : (g.setM r x).regcnt = g.regcnt := rfl
@[simp] theorem Group.setM_sowref (g : Group) (r : Nat) (x : Word) : (g.setM r x).sowref = g.sowref := rfl
@[simp] theorem Group.setM_mconf (g : Group) (r : Nat) (x : Word) : (g.setM r x).mconf = g.mconf := rfl
@[simp] theorem Group.setM_trapRec (g : Group) (r : Nat) (x : Word) : (g.setM r x).trapRec = g.trapRec := rfl
@[simp] theorem Group.setM_elected (g : Group) (r : Nat) (x : Word) : (g.setM r x).elected = g.elected := rfl
@[simp] theorem Group.setM_opens (g : Group) (r : Nat) (x : Word) : (g.setM r x).opens = g.opens := rfl
@[simp] theorem Group.setM_pins (g : Group) (r : Nat) (x : Word) : (g.setM r x).pins = g.pins := rfl
@[simp] theorem Group.setM_splits (g : Group) (r : Nat) (x : Word) : (g.setM r x).splits = g.splits := rfl
@[simp] theorem Group.setM_held (g : Group) (r : Nat) (x : Word) : (g.setM r x).held = g.held := rfl
@[simp] theorem Group.setM_argsRead (g : Group) (r : Nat) (x : Word) : (g.setM r x).argsRead = g.argsRead := rfl
@[simp] theorem Group.setM_argptr (g : Group) (r : Nat) (x : Word) : (g.setM r x).argptr = g.argptr := rfl
@[simp] theorem Group.setM_frameImg (g : Group) (r : Nat) (x : Word) : (g.setM r x).frameImg = g.frameImg := rfl
@[simp] theorem Group.setM_brk (g : Group) (r : Nat) (x : Word) : (g.setM r x).brk = g.brk := rfl
@[simp] theorem Group.setM_step (g : Group) (r : Nat) (x : Word) : (g.setM r x).step = g.step := rfl
@[simp] theorem Group.setM_spawner (g : Group) (r : Nat) (x : Word) : (g.setM r x).spawner = g.spawner := rfl
@[simp] theorem Group.setM_lastPage (g : Group) (r : Nat) (x : Word) : (g.setM r x).lastPage = g.lastPage := rfl
@[simp] theorem Group.setM_acqDue (g : Group) (r : Nat) (x : Word) : (g.setM r x).acqDue = g.acqDue := rfl
@[simp] theorem Group.setM_xopens (g : Group) (r : Nat) (x : Word) : (g.setM r x).xopens = g.xopens := rfl
@[simp] theorem Group.setM_fpmodeFrom (g : Group) (r : Nat) (x : Word) : (g.setM r x).fpmodeFrom = g.fpmodeFrom := rfl
@[simp] theorem Group.setM_fpmodeOld (g : Group) (r : Nat) (x : Word) : (g.setM r x).fpmodeOld = g.fpmodeOld := rfl
@[simp] theorem Group.setM_uid (g : Group) (r : Nat) (x : Word) : (g.setM r x).uid = g.uid := rfl
@[simp] theorem Group.setM_ownCls (g : Group) (r : Nat) (x : Word) : (g.setM r x).ownCls = g.ownCls := rfl

@[simp] theorem Group.setP_ref (g : Group) (r i : Nat) (x : Word) : (g.setP r i x).ref = g.ref := rfl
@[simp] theorem Group.setP_status (g : Group) (r i : Nat) (x : Word) : (g.setP r i x).status = g.status := rfl
@[simp] theorem Group.setP_cx (g : Group) (r i : Nat) (x : Word) : (g.setP r i x).cx = g.cx := rfl
@[simp] theorem Group.setP_kernel (g : Group) (r i : Nat) (x : Word) : (g.setP r i x).kernel = g.kernel := rfl
@[simp] theorem Group.setP_wg (g : Group) (r i : Nat) (x : Word) : (g.setP r i x).wg = g.wg := rfl
@[simp] theorem Group.setP_gidx (g : Group) (r i : Nat) (x : Word) : (g.setP r i x).gidx = g.gidx := rfl
@[simp] theorem Group.setP_allot (g : Group) (r i : Nat) (x : Word) : (g.setP r i x).allot = g.allot := rfl
@[simp] theorem Group.setP_cls (g : Group) (r i : Nat) (x : Word) : (g.setP r i x).cls = g.cls := rfl
@[simp] theorem Group.setP_priv (g : Group) (r i : Nat) (x : Word) : (g.setP r i x).priv = g.priv := rfl
@[simp] theorem Group.setP_wb (g : Group) (r i : Nat) (x : Word) : (g.setP r i x).wb = g.wb := rfl
@[simp] theorem Group.setP_s (g : Group) (r i : Nat) (x : Word) : (g.setP r i x).s = g.s := rfl
@[simp] theorem Group.setP_m (g : Group) (r i : Nat) (x : Word) : (g.setP r i x).m = g.m := rfl
@[simp] theorem Group.setP_fpmode (g : Group) (r i : Nat) (x : Word) : (g.setP r i x).fpmode = g.fpmode := rfl
@[simp] theorem Group.setP_fpflags (g : Group) (r i : Nat) (x : Word) : (g.setP r i x).fpflags = g.fpflags := rfl
@[simp] theorem Group.setP_seed (g : Group) (r i : Nat) (x : Word) : (g.setP r i x).seed = g.seed := rfl
@[simp] theorem Group.setP_bkcnt (g : Group) (r i : Nat) (x : Word) : (g.setP r i x).bkcnt = g.bkcnt := rfl
@[simp] theorem Group.setP_regcnt (g : Group) (r i : Nat) (x : Word) : (g.setP r i x).regcnt = g.regcnt := rfl
@[simp] theorem Group.setP_sowref (g : Group) (r i : Nat) (x : Word) : (g.setP r i x).sowref = g.sowref := rfl
@[simp] theorem Group.setP_mconf (g : Group) (r i : Nat) (x : Word) : (g.setP r i x).mconf = g.mconf := rfl
@[simp] theorem Group.setP_trapRec (g : Group) (r i : Nat) (x : Word) : (g.setP r i x).trapRec = g.trapRec := rfl
@[simp] theorem Group.setP_elected (g : Group) (r i : Nat) (x : Word) : (g.setP r i x).elected = g.elected := rfl
@[simp] theorem Group.setP_opens (g : Group) (r i : Nat) (x : Word) : (g.setP r i x).opens = g.opens := rfl
@[simp] theorem Group.setP_pins (g : Group) (r i : Nat) (x : Word) : (g.setP r i x).pins = g.pins := rfl
@[simp] theorem Group.setP_splits (g : Group) (r i : Nat) (x : Word) : (g.setP r i x).splits = g.splits := rfl
@[simp] theorem Group.setP_held (g : Group) (r i : Nat) (x : Word) : (g.setP r i x).held = g.held := rfl
@[simp] theorem Group.setP_argsRead (g : Group) (r i : Nat) (x : Word) : (g.setP r i x).argsRead = g.argsRead := rfl
@[simp] theorem Group.setP_argptr (g : Group) (r i : Nat) (x : Word) : (g.setP r i x).argptr = g.argptr := rfl
@[simp] theorem Group.setP_frameImg (g : Group) (r i : Nat) (x : Word) : (g.setP r i x).frameImg = g.frameImg := rfl
@[simp] theorem Group.setP_brk (g : Group) (r i : Nat) (x : Word) : (g.setP r i x).brk = g.brk := rfl
@[simp] theorem Group.setP_step (g : Group) (r i : Nat) (x : Word) : (g.setP r i x).step = g.step := rfl
@[simp] theorem Group.setP_spawner (g : Group) (r i : Nat) (x : Word) : (g.setP r i x).spawner = g.spawner := rfl
@[simp] theorem Group.setP_lastPage (g : Group) (r i : Nat) (x : Word) : (g.setP r i x).lastPage = g.lastPage := rfl
@[simp] theorem Group.setP_acqDue (g : Group) (r i : Nat) (x : Word) : (g.setP r i x).acqDue = g.acqDue := rfl
@[simp] theorem Group.setP_xopens (g : Group) (r i : Nat) (x : Word) : (g.setP r i x).xopens = g.xopens := rfl
@[simp] theorem Group.setP_fpmodeFrom (g : Group) (r i : Nat) (x : Word) : (g.setP r i x).fpmodeFrom = g.fpmodeFrom := rfl
@[simp] theorem Group.setP_fpmodeOld (g : Group) (r i : Nat) (x : Word) : (g.setP r i x).fpmodeOld = g.fpmodeOld := rfl
@[simp] theorem Group.setP_uid (g : Group) (r i : Nat) (x : Word) : (g.setP r i x).uid = g.uid := rfl
@[simp] theorem Group.setP_ownCls (g : Group) (r i : Nat) (x : Word) : (g.setP r i x).ownCls = g.ownCls := rfl

@[simp] theorem Group.setFlags_ref (g : Group) (x : BitVec 5) : (g.setFlags x).ref = g.ref := rfl
@[simp] theorem Group.setFlags_status (g : Group) (x : BitVec 5) : (g.setFlags x).status = g.status := rfl
@[simp] theorem Group.setFlags_cx (g : Group) (x : BitVec 5) : (g.setFlags x).cx = g.cx := rfl
@[simp] theorem Group.setFlags_kernel (g : Group) (x : BitVec 5) : (g.setFlags x).kernel = g.kernel := rfl
@[simp] theorem Group.setFlags_wg (g : Group) (x : BitVec 5) : (g.setFlags x).wg = g.wg := rfl
@[simp] theorem Group.setFlags_gidx (g : Group) (x : BitVec 5) : (g.setFlags x).gidx = g.gidx := rfl
@[simp] theorem Group.setFlags_allot (g : Group) (x : BitVec 5) : (g.setFlags x).allot = g.allot := rfl
@[simp] theorem Group.setFlags_cls (g : Group) (x : BitVec 5) : (g.setFlags x).cls = g.cls := rfl
@[simp] theorem Group.setFlags_priv (g : Group) (x : BitVec 5) : (g.setFlags x).priv = g.priv := rfl
@[simp] theorem Group.setFlags_wb (g : Group) (x : BitVec 5) : (g.setFlags x).wb = g.wb := rfl
@[simp] theorem Group.setFlags_s (g : Group) (x : BitVec 5) : (g.setFlags x).s = g.s := rfl
@[simp] theorem Group.setFlags_v (g : Group) (x : BitVec 5) : (g.setFlags x).v = g.v := rfl
@[simp] theorem Group.setFlags_m (g : Group) (x : BitVec 5) : (g.setFlags x).m = g.m := rfl
@[simp] theorem Group.setFlags_fpmode (g : Group) (x : BitVec 5) : (g.setFlags x).fpmode = g.fpmode := rfl
@[simp] theorem Group.setFlags_seed (g : Group) (x : BitVec 5) : (g.setFlags x).seed = g.seed := rfl
@[simp] theorem Group.setFlags_bkcnt (g : Group) (x : BitVec 5) : (g.setFlags x).bkcnt = g.bkcnt := rfl
@[simp] theorem Group.setFlags_regcnt (g : Group) (x : BitVec 5) : (g.setFlags x).regcnt = g.regcnt := rfl
@[simp] theorem Group.setFlags_sowref (g : Group) (x : BitVec 5) : (g.setFlags x).sowref = g.sowref := rfl
@[simp] theorem Group.setFlags_mconf (g : Group) (x : BitVec 5) : (g.setFlags x).mconf = g.mconf := rfl
@[simp] theorem Group.setFlags_trapRec (g : Group) (x : BitVec 5) : (g.setFlags x).trapRec = g.trapRec := rfl
@[simp] theorem Group.setFlags_elected (g : Group) (x : BitVec 5) : (g.setFlags x).elected = g.elected := rfl
@[simp] theorem Group.setFlags_opens (g : Group) (x : BitVec 5) : (g.setFlags x).opens = g.opens := rfl
@[simp] theorem Group.setFlags_pins (g : Group) (x : BitVec 5) : (g.setFlags x).pins = g.pins := rfl
@[simp] theorem Group.setFlags_splits (g : Group) (x : BitVec 5) : (g.setFlags x).splits = g.splits := rfl
@[simp] theorem Group.setFlags_held (g : Group) (x : BitVec 5) : (g.setFlags x).held = g.held := rfl
@[simp] theorem Group.setFlags_argsRead (g : Group) (x : BitVec 5) : (g.setFlags x).argsRead = g.argsRead := rfl
@[simp] theorem Group.setFlags_argptr (g : Group) (x : BitVec 5) : (g.setFlags x).argptr = g.argptr := rfl
@[simp] theorem Group.setFlags_frameImg (g : Group) (x : BitVec 5) : (g.setFlags x).frameImg = g.frameImg := rfl
@[simp] theorem Group.setFlags_brk (g : Group) (x : BitVec 5) : (g.setFlags x).brk = g.brk := rfl
@[simp] theorem Group.setFlags_step (g : Group) (x : BitVec 5) : (g.setFlags x).step = g.step := rfl
@[simp] theorem Group.setFlags_spawner (g : Group) (x : BitVec 5) : (g.setFlags x).spawner = g.spawner := rfl
@[simp] theorem Group.setFlags_lastPage (g : Group) (x : BitVec 5) : (g.setFlags x).lastPage = g.lastPage := rfl
@[simp] theorem Group.setFlags_acqDue (g : Group) (x : BitVec 5) : (g.setFlags x).acqDue = g.acqDue := rfl
@[simp] theorem Group.setFlags_xopens (g : Group) (x : BitVec 5) : (g.setFlags x).xopens = g.xopens := rfl
@[simp] theorem Group.setFlags_fpmodeFrom (g : Group) (x : BitVec 5) : (g.setFlags x).fpmodeFrom = g.fpmodeFrom := rfl
@[simp] theorem Group.setFlags_fpmodeOld (g : Group) (x : BitVec 5) : (g.setFlags x).fpmodeOld = g.fpmodeOld := rfl
@[simp] theorem Group.setFlags_uid (g : Group) (x : BitVec 5) : (g.setFlags x).uid = g.uid := rfl
@[simp] theorem Group.setFlags_ownCls (g : Group) (x : BitVec 5) : (g.setFlags x).ownCls = g.ownCls := rfl

@[simp] theorem Group.updSplit_ref (g : Group) (n : Nat) (f : Split → Split) : (g.updSplit n f).ref = g.ref := rfl
@[simp] theorem Group.updSplit_status (g : Group) (n : Nat) (f : Split → Split) : (g.updSplit n f).status = g.status := rfl
@[simp] theorem Group.updSplit_cx (g : Group) (n : Nat) (f : Split → Split) : (g.updSplit n f).cx = g.cx := rfl
@[simp] theorem Group.updSplit_kernel (g : Group) (n : Nat) (f : Split → Split) : (g.updSplit n f).kernel = g.kernel := rfl
@[simp] theorem Group.updSplit_wg (g : Group) (n : Nat) (f : Split → Split) : (g.updSplit n f).wg = g.wg := rfl
@[simp] theorem Group.updSplit_gidx (g : Group) (n : Nat) (f : Split → Split) : (g.updSplit n f).gidx = g.gidx := rfl
@[simp] theorem Group.updSplit_allot (g : Group) (n : Nat) (f : Split → Split) : (g.updSplit n f).allot = g.allot := rfl
@[simp] theorem Group.updSplit_cls (g : Group) (n : Nat) (f : Split → Split) : (g.updSplit n f).cls = g.cls := rfl
@[simp] theorem Group.updSplit_priv (g : Group) (n : Nat) (f : Split → Split) : (g.updSplit n f).priv = g.priv := rfl
@[simp] theorem Group.updSplit_wb (g : Group) (n : Nat) (f : Split → Split) : (g.updSplit n f).wb = g.wb := rfl
@[simp] theorem Group.updSplit_s (g : Group) (n : Nat) (f : Split → Split) : (g.updSplit n f).s = g.s := rfl
@[simp] theorem Group.updSplit_v (g : Group) (n : Nat) (f : Split → Split) : (g.updSplit n f).v = g.v := rfl
@[simp] theorem Group.updSplit_m (g : Group) (n : Nat) (f : Split → Split) : (g.updSplit n f).m = g.m := rfl
@[simp] theorem Group.updSplit_fpmode (g : Group) (n : Nat) (f : Split → Split) : (g.updSplit n f).fpmode = g.fpmode := rfl
@[simp] theorem Group.updSplit_fpflags (g : Group) (n : Nat) (f : Split → Split) : (g.updSplit n f).fpflags = g.fpflags := rfl
@[simp] theorem Group.updSplit_seed (g : Group) (n : Nat) (f : Split → Split) : (g.updSplit n f).seed = g.seed := rfl
@[simp] theorem Group.updSplit_bkcnt (g : Group) (n : Nat) (f : Split → Split) : (g.updSplit n f).bkcnt = g.bkcnt := rfl
@[simp] theorem Group.updSplit_regcnt (g : Group) (n : Nat) (f : Split → Split) : (g.updSplit n f).regcnt = g.regcnt := rfl
@[simp] theorem Group.updSplit_sowref (g : Group) (n : Nat) (f : Split → Split) : (g.updSplit n f).sowref = g.sowref := rfl
@[simp] theorem Group.updSplit_mconf (g : Group) (n : Nat) (f : Split → Split) : (g.updSplit n f).mconf = g.mconf := rfl
@[simp] theorem Group.updSplit_trapRec (g : Group) (n : Nat) (f : Split → Split) : (g.updSplit n f).trapRec = g.trapRec := rfl
@[simp] theorem Group.updSplit_elected (g : Group) (n : Nat) (f : Split → Split) : (g.updSplit n f).elected = g.elected := rfl
@[simp] theorem Group.updSplit_opens (g : Group) (n : Nat) (f : Split → Split) : (g.updSplit n f).opens = g.opens := rfl
@[simp] theorem Group.updSplit_pins (g : Group) (n : Nat) (f : Split → Split) : (g.updSplit n f).pins = g.pins := rfl
@[simp] theorem Group.updSplit_held (g : Group) (n : Nat) (f : Split → Split) : (g.updSplit n f).held = g.held := rfl
@[simp] theorem Group.updSplit_argsRead (g : Group) (n : Nat) (f : Split → Split) : (g.updSplit n f).argsRead = g.argsRead := rfl
@[simp] theorem Group.updSplit_argptr (g : Group) (n : Nat) (f : Split → Split) : (g.updSplit n f).argptr = g.argptr := rfl
@[simp] theorem Group.updSplit_frameImg (g : Group) (n : Nat) (f : Split → Split) : (g.updSplit n f).frameImg = g.frameImg := rfl
@[simp] theorem Group.updSplit_brk (g : Group) (n : Nat) (f : Split → Split) : (g.updSplit n f).brk = g.brk := rfl
@[simp] theorem Group.updSplit_step (g : Group) (n : Nat) (f : Split → Split) : (g.updSplit n f).step = g.step := rfl
@[simp] theorem Group.updSplit_spawner (g : Group) (n : Nat) (f : Split → Split) : (g.updSplit n f).spawner = g.spawner := rfl
@[simp] theorem Group.updSplit_lastPage (g : Group) (n : Nat) (f : Split → Split) : (g.updSplit n f).lastPage = g.lastPage := rfl
@[simp] theorem Group.updSplit_acqDue (g : Group) (n : Nat) (f : Split → Split) : (g.updSplit n f).acqDue = g.acqDue := rfl
@[simp] theorem Group.updSplit_xopens (g : Group) (n : Nat) (f : Split → Split) : (g.updSplit n f).xopens = g.xopens := rfl
@[simp] theorem Group.updSplit_fpmodeFrom (g : Group) (n : Nat) (f : Split → Split) : (g.updSplit n f).fpmodeFrom = g.fpmodeFrom := rfl
@[simp] theorem Group.updSplit_fpmodeOld (g : Group) (n : Nat) (f : Split → Split) : (g.updSplit n f).fpmodeOld = g.fpmodeOld := rfl
@[simp] theorem Group.updSplit_uid (g : Group) (n : Nat) (f : Split → Split) : (g.updSplit n f).uid = g.uid := rfl
@[simp] theorem Group.updSplit_ownCls (g : Group) (n : Nat) (f : Split → Split) : (g.updSplit n f).ownCls = g.ownCls := rfl

end Sys2Proof.Machine
end

