-- ==== Sys2Proof/Laws/Lookup.lean ====
section
/-! SUPPORT. Lookups behind updates, and reads of registers behind writes of registers. -/

namespace Sys2Proof.Machine

/-! ## Lists of objects -/

theorem find?_upd {α : Type} (p q : α → Bool) (f : α → α) (l : List α) (h : ∀ x, p x = true → q (f x) = q x) :
    (upd p f l).find? q = (l.find? q).map fun x => if p x then f x else x := by
  induction l with
  | nil => rfl
  | cons a t ih =>
    have e : q (if p a = true then f a else a) = q a := by
      by_cases hp : p a = true
      · simp [hp, h a hp]
      · simp [hp]
    simp only [upd, List.map_cons, List.find?_cons, e]
    cases hq : q a
    · simpa [upd] using ih
    · simp

theorem upd_nil {α : Type} (p : α → Bool) (f : α → α) : upd p f [] = [] := rfl

theorem mem_upd {α : Type} {p : α → Bool} {f : α → α} {l : List α} {y : α} :
    y ∈ upd p f l ↔ ∃ x ∈ l, (if p x then f x else x) = y := by simp [upd]

/-! ## Groups and splits -/

theorem group?_ref {s : State} {r : GRef} {g : Group} (h : s.group? r = some g) : g.ref = r := by
  have := List.find?_some h
  simpa using this

theorem split?_id {g : Group} {n : Nat} {p : Split} (h : g.split? n = some p) : p.id = n := by
  have := List.find?_some h
  simpa using this

theorem group?_updGroup (s : State) (r q : GRef) (f : Group → Group) (hf : ∀ g, g.ref = r → (f g).ref = g.ref) :
    (s.updGroup r f).group? q = (s.group? q).map fun g => if g.ref == r then f g else g := by
  refine find?_upd _ _ _ _ ?_
  intro x hx
  simp [hf x (by simpa using hx)]

theorem group?_updGroup_same {s : State} {r : GRef} {g : Group} (f : Group → Group) (hf : ∀ g, g.ref = r → (f g).ref = g.ref)
    (h : s.group? r = some g) : (s.updGroup r f).group? r = some (f g) := by
  rw [group?_updGroup s r r f hf, h]
  simp [group?_ref h]

theorem group?_updGroup_other (s : State) {r q : GRef} (hq : q ≠ r) (f : Group → Group) (hf : ∀ g, g.ref = r → (f g).ref = g.ref) :
    (s.updGroup r f).group? q = s.group? q := by
  rw [group?_updGroup s r q f hf]
  cases h : s.group? q with
  | none => rfl
  | some g => simp [group?_ref h, hq]

theorem split?_updSplit (g : Group) (n m : Nat) (f : Split → Split) (hf : ∀ p, p.id = n → (f p).id = p.id) :
    (g.updSplit n f).split? m = (g.split? m).map fun p => if p.id == n then f p else p := by
  refine find?_upd _ _ _ _ ?_
  intro x hx
  simp [hf x (by simpa using hx)]

theorem split?_updSplit_same {g : Group} {n : Nat} {p : Split} (f : Split → Split) (hf : ∀ p, p.id = n → (f p).id = p.id)
    (h : g.split? n = some p) : (g.updSplit n f).split? n = some (f p) := by
  rw [split?_updSplit g n n f hf, h]
  simp [split?_id h]

theorem split?_updSplit_other (g : Group) {n m : Nat} (hm : m ≠ n) (f : Split → Split) (hf : ∀ p, p.id = n → (f p).id = p.id) :
    (g.updSplit n f).split? m = g.split? m := by
  rw [split?_updSplit g n m f hf]
  cases h : g.split? m with
  | none => rfl
  | some p => simp [split?_id h, hm]

theorem updGroup_updGroup (s : State) (r : GRef) (f h : Group → Group) (hf : ∀ g, g.ref = r → (f g).ref = g.ref) :
    (s.updGroup r f).updGroup r h = s.updGroup r fun g => h (f g) := by
  simp only [State.updGroup, upd, List.map_map]
  congr 1
  refine List.map_congr_left fun x _ => ?_
  by_cases hx : x.ref = r
  · simp [hx, hf x hx]
  · simp [hx]

/-! ## Registers -/

@[simp] theorem getS_setS (g : Group) (r q : Nat) (x : Word) : (g.setS r x).getS q = if q = r then x else g.getS q := by
  simp [Group.getS, Group.setS, sget_sput]

@[simp] theorem getM_setM (g : Group) (r q : Nat) (x : Word) : (g.setM r x).getM q = if q = r then x else g.getM q := by
  simp [Group.getM, Group.setM, sget_sput]

theorem getP_setP (g : Group) (r q i j : Nat) (x : Word) (hi : i < 32) (hj : j < 32) :
    (g.setP r i x).getP q j = if q = r ∧ j = i then x else g.getP q j := by
  have e : (32 * q + j = 32 * r + i) ↔ (q = r ∧ j = i) := by omega
  simp [Group.getP, Group.setP, sget_sput, e]

@[simp] theorem getS_setM (g : Group) (r q : Nat) (x : Word) : (g.setM r x).getS q = g.getS q := rfl
@[simp] theorem getS_setP (g : Group) (r i q : Nat) (x : Word) : (g.setP r i x).getS q = g.getS q := rfl
@[simp] theorem getS_setFlags (g : Group) (fl : BitVec 5) (q : Nat) : (g.setFlags fl).getS q = g.getS q := rfl
@[simp] theorem getS_updSplit (g : Group) (n : Nat) (f : Split → Split) (q : Nat) : (g.updSplit n f).getS q = g.getS q := rfl
@[simp] theorem getM_setS (g : Group) (r q : Nat) (x : Word) : (g.setS r x).getM q = g.getM q := rfl
@[simp] theorem getM_setP (g : Group) (r i q : Nat) (x : Word) : (g.setP r i x).getM q = g.getM q := rfl
@[simp] theorem getM_setFlags (g : Group) (fl : BitVec 5) (q : Nat) : (g.setFlags fl).getM q = g.getM q := rfl
@[simp] theorem getM_updSplit (g : Group) (n : Nat) (f : Split → Split) (q : Nat) : (g.updSplit n f).getM q = g.getM q := rfl
@[simp] theorem getP_setS (g : Group) (r q i : Nat) (x : Word) : (g.setS r x).getP q i = g.getP q i := rfl
@[simp] theorem getP_setM (g : Group) (r q i : Nat) (x : Word) : (g.setM r x).getP q i = g.getP q i := rfl
@[simp] theorem getP_setFlags (g : Group) (fl : BitVec 5) (q i : Nat) : (g.setFlags fl).getP q i = g.getP q i := rfl
@[simp] theorem getP_updSplit (g : Group) (n : Nat) (f : Split → Split) (q i : Nat) : (g.updSplit n f).getP q i = g.getP q i := rfl

theorem mem_lanesOf (m : LaneMask) (l : Nat) : l ∈ lanesOf m ↔ l < 32 ∧ m.getLsbD l = true := by
  simp [lanesOf, filterRange]

theorem foldl_setP_v (l : List Nat) (r : Nat) (f : Nat → Word) (g : Group) :
    l.foldl (fun g i => g.setP r i (f i)) g = { g with v := (l.foldl (fun g i => g.setP r i (f i)) g).v } := by
  induction l generalizing g with
  | nil => rfl
  | cons a t ih => simp only [List.foldl_cons]; rw [ih]; rfl

/-- A write of lanes changes V and nothing else. -/
theorem setLanesP_eq (g : Group) (r : Nat) (m : LaneMask) (f : Nat → Word) :
    g.setLanesP r m f = { g with v := (g.setLanesP r m f).v } := foldl_setP_v _ _ _ _

theorem getP_foldl_setP (l : List Nat) (hl : ∀ i ∈ l, i < 32) (r : Nat) (f : Nat → Word) (g : Group) (q j : Nat) (hj : j < 32) :
    (l.foldl (fun g i => g.setP r i (f i)) g).getP q j = if q = r ∧ j ∈ l then f j else g.getP q j := by
  induction l generalizing g with
  | nil => simp
  | cons a t ih =>
    have ha : a < 32 := hl a (by simp)
    simp only [List.foldl_cons]
    rw [ih (fun i hi => hl i (by simp [hi])), getP_setP g r q a j (f a) ha hj]
    by_cases hq : q = r
    · by_cases hjt : j ∈ t
      · simp [hq, hjt]
      · by_cases hja : j = a <;> simp [hq, hjt, hja]
    · simp [hq]

/-- What lane j of register q reads behind a write of lanes of register r. -/
theorem getP_setLanesP (g : Group) (r : Nat) (m : LaneMask) (f : Nat → Word) (q j : Nat) (hj : j < 32) :
    (g.setLanesP r m f).getP q j = if q = r ∧ m.getLsbD j = true then f j else g.getP q j := by
  rw [Group.setLanesP, getP_foldl_setP _ (fun i hi => ((mem_lanesOf m i).mp hi).1) r f g q j hj]
  simp [mem_lanesOf, hj]

@[simp] theorem setLanesP_ref (g : Group) (r : Nat) (m : LaneMask) (f : Nat → Word) : (g.setLanesP r m f).ref = g.ref := by
  rw [setLanesP_eq]
@[simp] theorem setLanesP_wb (g : Group) (r : Nat) (m : LaneMask) (f : Nat → Word) : (g.setLanesP r m f).wb = g.wb := by
  rw [setLanesP_eq]
@[simp] theorem setLanesP_splits (g : Group) (r : Nat) (m : LaneMask) (f : Nat → Word) : (g.setLanesP r m f).splits = g.splits := by
  rw [setLanesP_eq]
@[simp] theorem setLanesP_fpflags (g : Group) (r : Nat) (m : LaneMask) (f : Nat → Word) : (g.setLanesP r m f).fpflags = g.fpflags := by
  rw [setLanesP_eq]
@[simp] theorem setLanesP_getS (g : Group) (r : Nat) (m : LaneMask) (f : Nat → Word) (q : Nat) : (g.setLanesP r m f).getS q = g.getS q := by
  rw [setLanesP_eq]; rfl
@[simp] theorem setLanesP_getM (g : Group) (r : Nat) (m : LaneMask) (f : Nat → Word) (q : Nat) : (g.setLanesP r m f).getM q = g.getM q := by
  rw [setLanesP_eq]; rfl

@[simp] theorem setLanes_ref (g : Group) (r : Nat) (m : LaneMask) (f : Nat → Word) : (g.setLanes r m f).ref = g.ref := setLanesP_ref ..
@[simp] theorem setLanes_wb (g : Group) (r : Nat) (m : LaneMask) (f : Nat → Word) : (g.setLanes r m f).wb = g.wb := setLanesP_wb ..
@[simp] theorem setLanes_splits (g : Group) (r : Nat) (m : LaneMask) (f : Nat → Word) : (g.setLanes r m f).splits = g.splits :=
  setLanesP_splits ..
@[simp] theorem setLanes_fpflags (g : Group) (r : Nat) (m : LaneMask) (f : Nat → Word) : (g.setLanes r m f).fpflags = g.fpflags :=
  setLanesP_fpflags ..
@[simp] theorem setLanes_getS (g : Group) (r : Nat) (m : LaneMask) (f : Nat → Word) (q : Nat) : (g.setLanes r m f).getS q = g.getS q :=
  setLanesP_getS ..
@[simp] theorem setLanes_getM (g : Group) (r : Nat) (m : LaneMask) (f : Nat → Word) (q : Nat) : (g.setLanes r m f).getM q = g.getM q :=
  setLanesP_getM ..

theorem getP_setLanes (g : Group) (d : Nat) (m : LaneMask) (f : Nat → Word) (q j : Nat) (hj : j < 32) :
    (g.setLanes d m f).getP q j = if q = g.wb + d ∧ m.getLsbD j = true then f j else g.getP q j := getP_setLanesP g _ m f q j hj

end Sys2Proof.Machine
end

