-- ==== Sys2Proof/Laws/Issue.lean ====
section
/-! SUPPORT. What an issue of an instruction does behind the checks of R43, and what each shape of a fixed-latency instruction leaves: one
lemma per shared operation of Ops and Flags. -/

namespace Sys2Proof.Machine

/-! ## The checks -/

theorem Issues.ref {s : State} {g : Group} {p : Split} (h : Issues s g p) : s.issuerRef = g.ref := (group?_ref h.group).symm

theorem Issues.group' {s : State} {g : Group} {p : Split} (h : Issues s g p) : s.group? g.ref = some g := h.ref ▸ h.group

theorem Issues.id {s : State} {g : Group} {p : Split} (h : Issues s g p) : p.id = s.issuer.split := split?_id h.split

theorem Issues.split' {s : State} {g : Group} {p : Split} (h : Issues s g p) : g.split? p.id = some p := h.id ▸ h.split

theorem withIssuer_next {s : State} {g : Group} {p : Split} (h : Issues s g p) (k : Group → Split → State) :
    withIssuer s k = .next (k g p) := by
  simp [withIssuer, h.group, h.split]

theorem Readable.inRange {s : State} {g : Group} {u : Uses} (h : Readable s g u) : u.inRange g = true := by
  simpa [Uses.inRange] using h.window

theorem Readable.noHazard {s : State} {g : Group} {u : Uses} (h : Readable s g u) : u.hazard s g = false := by
  simp only [Uses.hazard, List.any_eq_false, Bool.and_eq_true, Bool.or_eq_true, List.any_eq_true, List.contains_iff_mem,
    beq_iff_eq, not_and, not_or, not_exists]
  intro o ho hg
  exact ⟨⟨fun r hr => h.slots o ho hg r hr, fun r hr => h.uniform o ho hg r hr⟩, fun r hr => h.masks o ho hg r hr⟩

theorem checkUses_ok {s : State} {g : Group} {p : Split} {i : Instr} {u : Uses} {k : State} (h : Readable s g u) :
    checkUses s g p i u k = k := by
  simp [checkUses, h.inRange, h.noHazard]

theorem issue_next {s : State} {g : Group} {p : Split} {i : Instr} {u : Uses} (k : Group → Split → State) (h : Issues s g p)
    (hu : Readable s g u) : issue s i u k = .next (k g p) := by
  simp [issue, withIssuer_next h, checkUses_ok hu]

theorem issuePriv_next {s : State} {g : Group} {p : Split} {i : Instr} {u : Uses} (k : Group → Split → State) (h : Issues s g p)
    (hp : g.priv = true) (hu : Readable s g u) : issuePriv s i u k = .next (k g p) := by
  simp [issuePriv, withIssuer_next h, hp, checkUses_ok hu]

theorem issuePriv_trap {s : State} {g : Group} {p : Split} {i : Instr} {u : Uses} (k : Group → Split → State) (h : Issues s g p)
    (hp : g.priv = false) : issuePriv s i u k = .next (s.trap g p i cPRIV) := by
  simp [issuePriv, withIssuer_next h, hp]

theorem issueLong_next {s : State} {g : Group} {p : Split} {i : Instr} {u : Uses} {fs : Bool} {f : Nat}
    (k : Group → Split → Nat → State) (h : Issues s g p) (hf : p.flag? fs = some f) (hu : Readable s g u) :
    issueLong s i fs u k = .next (k g p f) := by
  simp [issueLong, withIssuer_next h, hf, checkUses_ok hu]

/-- A pair of words is put together from its halves (R25). -/
theorem pair_halves (x : DWord) : x.extractLsb' 32 32 ++ x.extractLsb' 0 32 = x := by
  apply BitVec.eq_of_getLsbD_eq
  intro i hi
  rw [BitVec.getLsbD_append]
  by_cases h : i < 32
  · simp [h]
  · have h1 : i - 32 < 32 := by omega
    have h2 : 32 + (i - 32) = i := by omega
    simp [h, h1, h2]

/-! ## Register steps -/

/-- A step that changes V, S, M and $FPFLAGS of the issuing group by F and moves on. -/
theorem regStep {s : State} {g : Group} {p : Split} (i : Instr) (F : Group → Group) (h : Issues s g p)
    (hF : ∀ x, F x = { x with v := (F x).v, s := (F x).s, m := (F x).m, fpflags := (F x).fpflags }) :
    OnlyGroup s ((s.updGroup g.ref F).done g p i) g ((F g).updSplit p.id fun q => q.past i.words)
      ∧ OnlyRegs g ((F g).updSplit p.id fun q => q.past i.words) p (p.past i.words) := by
  have hFr : ∀ x, (F x).ref = x.ref := fun x => by rw [hF x]
  have hFs : ∀ x, (F x).splits = x.splits := fun x => by rw [hF x]
  have hd : (s.updGroup g.ref F).done g p i
      = s.updGroup g.ref fun x => (F x).updSplit p.id fun q => q.past i.words := by
    unfold State.done State.updSplit
    exact updGroup_updGroup s g.ref F _ fun x _ => hFr x
  have hid : ∀ q : Split, q.id = p.id → (q.past i.words).id = q.id := fun q _ => rfl
  refine ⟨⟨h.group', ?_, ?_, ?_, ?_⟩, ⟨?_, ?_, ?_⟩⟩
  · rw [hd]
    exact group?_updGroup_same _ (fun x _ => by simp [hFr]) h.group'
  · rw [hd]
    rfl
  · intro r hr
    rw [hd]
    exact group?_updGroup_other s hr _ fun x _ => by simp [hFr]
  · intro a
    rw [hd]
    rfl
  · have := hF g
    rw [this]
    rfl
  · have : (F g).split? p.id = some p := by
      unfold Group.split?
      rw [hFs]
      exact h.split'
    exact split?_updSplit_same _ hid this
  · intro n hn
    rw [split?_updSplit_other _ hn _ hid]
    unfold Group.split?
    rw [hFs]

/-- A write of the lanes of a mask of one slot. -/
theorem lanesWritten {s : State} {g : Group} {p : Split} {i : Instr} {u : Uses} {d : Nat} {m : Group → Split → LaneMask}
    {f : Group → Split → Nat → Word} (h : Issues s g p) (hu : Readable s g u)
    (he : exec i s = issue s i u fun g p => (s.updGroup g.ref fun x => x.setLanes d (m g p) (f g p)).done g p i) :
    ∃ t g', exec i s = .next t ∧ OnlyGroup s t g g' ∧ OnlyRegs g g' p (p.past i.words) ∧ g'.fpflags = g.fpflags
      ∧ (∀ l, l < 32 → (m g p).getLsbD l = true → g'.getV d l = f g p l)
      ∧ SameV g g' (fun r l => r = g.wb + d ∧ (m g p).getLsbD l = true) ∧ SameS g g' (fun _ => False)
      ∧ SameM g g' (fun _ => False) := by
  obtain ⟨h1, h2⟩ := regStep i (fun x => x.setLanes d (m g p) (f g p)) h
    (fun x => by rw [Group.setLanes, setLanesP_eq])
  refine ⟨_, _, by rw [he, issue_next _ h hu], h1, h2, by simp, ?_, ?_, fun r _ => by simp, fun r _ => by simp⟩
  · intro l hl hm
    simp [Group.getV, getP_setLanes _ _ _ _ _ _ hl, hm]
  · intro r l hl hn
    simp [getP_setLanes _ _ _ _ _ _ hl, hn]

/-- A fixed-latency lane instruction (laneOp). -/
theorem laneOp_result {s : State} {g : Group} {p : Split} {i : Instr} {u : Uses} {d : Nat} {f : Group → Nat → Word}
    {f' : Nat → Word} (h : Issues s g p) (hu : Readable s g u) (he : exec i s = laneOp s i u d f) (e : ∀ l, f g l = f' l) :
    LaneResult s g p i d f' := by
  obtain rfl : f g = f' := funext e
  exact lanesWritten (m := fun _ p => p.exec) (f := fun g _ => f g) h hu he

/-- A lane instruction on pairs (laneOp64). -/
theorem laneOp64_result {s : State} {g : Group} {p : Split} {i : Instr} {u : Uses} {d : Nat} {f : Group → Nat → DWord}
    {f' : Nat → DWord} (h : Issues s g p) (hu : Readable s g u) (he : exec i s = laneOp64 s i u d f) (e : ∀ l, f g l = f' l) :
    PairResult s g p i d f' := by
  obtain rfl : f g = f' := funext e
  obtain ⟨h1, h2⟩ := regStep i (fun x => (x.setLanes d p.exec fun l => (f g l).extractLsb' 0 32).setLanes (d + 1) p.exec
    fun l => (f g l).extractLsb' 32 32) h (fun x => by rw [Group.setLanes, Group.setLanes, setLanesP_eq, setLanesP_eq])
  refine ⟨_, _, by rw [he, laneOp64, issue_next _ h hu], h1, h2, by simp, ?_, ?_, fun r _ => by simp, fun r _ => by simp⟩
  · intro l hl hm
    simp only [Group.getV, getP_updSplit, getP_setLanes _ _ _ _ _ _ hl, hm, Group.updSplit_wb, setLanes_wb]
    simp
    exact pair_halves (f g l)
  · intro r l hl hn
    have a : ¬ (r = g.wb + d ∧ p.exec.getLsbD l = true) := fun c => hn ⟨Or.inl c.1, c.2⟩
    have b : ¬ (r = g.wb + d + 1 ∧ p.exec.getLsbD l = true) := fun c => hn ⟨Or.inr c.1, c.2⟩
    simp [getP_setLanes _ _ _ _ _ _ hl, a, b, ← Nat.add_assoc]

theorem flagsOf_bit (m : LaneMask) (f : Nat → FRes) (k : Nat) :
    (flagsOf m f).getLsbD k = true ↔ ∃ l, l < 32 ∧ m.getLsbD l = true ∧ (f l).2.getLsbD k = true := by
  have key : ∀ (ls : List Nat) (a : Flags), (ls.foldl (fun a i => a ||| (f i).2) a).getLsbD k = true ↔
      a.getLsbD k = true ∨ ∃ l ∈ ls, (f l).2.getLsbD k = true := by
    intro ls
    induction ls with
    | nil => simp
    | cons x t ih =>
      intro a
      simp only [List.foldl_cons, ih, BitVec.getLsbD_or, Bool.or_eq_true, List.mem_cons]
      constructor
      · rintro ((h | h) | ⟨l, hl, h⟩)
        · exact Or.inl h
        · exact Or.inr ⟨x, Or.inl rfl, h⟩
        · exact Or.inr ⟨l, Or.inr hl, h⟩
      · rintro (h | ⟨l, rfl | hl, h⟩)
        · exact Or.inl (Or.inl h)
        · exact Or.inl (Or.inr h)
        · exact Or.inr ⟨l, hl, h⟩
  simp only [flagsOf, key, mem_lanesOf]
  simp [and_assoc]

theorem setFlags_bit (g : Group) (fl : BitVec 5) (k : Nat) :
    (g.setFlags fl).fpflags.getLsbD k = true ↔ g.fpflags.getLsbD k = true ∨ fl.getLsbD k = true := by
  simp only [Group.setFlags, BitVec.getLsbD_or, Bool.or_eq_true, BitVec.zeroExtend, BitVec.getLsbD_setWidth, Bool.and_eq_true,
    decide_eq_true_eq]
  constructor
  · rintro (h | ⟨_, h⟩)
    · exact Or.inl h
    · exact Or.inr h
  · rintro (h | h)
    · exact Or.inl h
    · refine Or.inr ⟨?_, h⟩
      have := BitVec.lt_of_getLsbD h
      omega

/-- A float lane instruction (laneFloat). -/
theorem laneFloat_result {s : State} {g : Group} {p : Split} {i : Instr} {u : Uses} {d : Nat} {f : Group → Nat → FRes}
    {f' : Nat → FRes} (h : Issues s g p) (hu : Readable s g u) (he : exec i s = laneFloat s i u d f)
    (e : ∀ l, f (g.inMode s.cycle) l = f' l) : FloatResult s g p i d f' := by
  obtain rfl : f (g.inMode s.cycle) = f' := funext e
  obtain ⟨h1, h2⟩ := regStep i (fun x => (x.setLanes d p.exec fun l => (f (g.inMode s.cycle) l).1).setFlags
    (flagsOf p.exec (f (g.inMode s.cycle)))) h
    (fun x => by rw [Group.setLanes, setLanesP_eq]; rfl)
  refine ⟨_, _, by rw [he, laneFloat, issue_next _ h hu], h1, h2, ?_, ?_, ?_, fun r _ => by simp, fun r _ => by simp⟩
  · intro k
    simp [setFlags_bit, flagsOf_bit]
  · intro l hl hm
    simp [Group.getV, getP_setLanes _ _ _ _ _ _ hl, hm]
  · intro r l hl hn
    simp [getP_setLanes _ _ _ _ _ _ hl, hn]

/-- An instruction that writes one S register (uniOp). -/
theorem uniOp_result {s : State} {g : Group} {p : Split} {i : Instr} {u : Uses} {d : Nat} {f : Group → Split → Word}
    {x : Word} (h : Issues s g p) (hu : Readable s g u) (he : exec i s = uniOp s i u d f) (e : f g p = x) :
    UniResult s g p i d x := by
  subst e
  obtain ⟨h1, h2⟩ := regStep i (fun x => x.setS d (f g p)) h (fun x => rfl)
  exact ⟨_, _, by rw [he, uniOp, issue_next _ h hu], h1, h2, by simp, by simp, fun r l _ _ => by simp,
    fun r hr => by simp [hr], fun r _ => by simp⟩

/-- An instruction that writes one M register (maskOp). -/
theorem maskOp_result {s : State} {g : Group} {p : Split} {i : Instr} {u : Uses} {d : Nat} {f : Group → Split → Word}
    {c : Nat → Bool} (h : Issues s g p) (hu : Readable s g u) (he : exec i s = maskOp s i u d f)
    (e : ∀ l, l < 32 → (f g p).getLsbD l = c l) : MaskResult s g p i d c := by
  obtain ⟨h1, h2⟩ := regStep i (fun x => x.setM d (f g p)) h (fun x => rfl)
  exact ⟨_, _, by rw [he, maskOp, issue_next _ h hu], h1, h2, by simp, fun l hl => by simp [e l hl], fun r l _ _ => by simp,
    fun r _ => by simp, fun r hr => by simp [hr]⟩

theorem maskUpd_bit (old ex : Word) (comb : Bool) (c : Nat → Bool) (l : Nat) (hl : l < 32) :
    (maskUpd old ex comb c).getLsbD l
      = if ex.getLsbD l = true then (c l && (!comb || old.getLsbD l)) else old.getLsbD l := by
  have key : ∀ (ls : List Nat) (m : Word), (∀ i ∈ ls, i < 32) →
      (ls.foldl (fun m i => let b := c i && (!comb || old.getLsbD i)
        if b then m ||| BitVec.ofNat 32 (2 ^ i) else m &&& ~~~(BitVec.ofNat 32 (2 ^ i))) m).getLsbD l
        = if l ∈ ls then (c l && (!comb || old.getLsbD l)) else m.getLsbD l := by
    intro ls
    induction ls with
    | nil => simp
    | cons x t ih =>
      intro m hm
      simp only [List.foldl_cons]
      rw [ih _ fun i hi => hm i (by simp [hi])]
      by_cases ht : l ∈ t
      · simp [ht]
      · have hx := hm x (by simp)
        have e : (BitVec.ofNat 32 (2 ^ x)).getLsbD l = decide (l = x) := by
          simp only [BitVec.getLsbD_ofNat, Nat.testBit_two_pow, hl]
          simp [eq_comm]
        by_cases hlx : l = x
        · subst hlx
          simp only [ht, if_false, List.mem_cons, true_or, if_true]
          by_cases hb : (c l && (!comb || old.getLsbD l)) = true
          · simp only [hb, if_true, BitVec.getLsbD_or, e]; simp
          · simp only [hb, if_false, BitVec.getLsbD_and, BitVec.getLsbD_not, e, Bool.false_eq_true]; simp
        · simp only [ht, if_false, List.mem_cons, hlx, or_false]
          by_cases hb : (c x && (!comb || old.getLsbD x)) = true
          · simp only [hb, if_true, BitVec.getLsbD_or, e, hlx]; simp
          · simp only [hb, if_false, BitVec.getLsbD_and, BitVec.getLsbD_not, e, hlx, hl, Bool.false_eq_true]; simp
  unfold maskUpd
  rw [key _ _ fun i hi => ((mem_lanesOf ex i).mp hi).1]
  simp [mem_lanesOf, hl]

/-- ICMP and FCMP (laneCmp). -/
theorem laneCmp_result {s : State} {g : Group} {p : Split} {i : Instr} {u : Uses} {m : Nat} {comb : Bool}
    {f : Group → Nat → Bool × Flags} {c : Nat → Bool} {fl : Nat → BitVec 5} (h : Issues s g p) (hu : Readable s g u)
    (he : exec i s = laneCmp s i u m comb f) (e : ∀ l, f g l = (c l, fl l)) : CmpResult s g p i m comb c fl := by
  obtain rfl : (fun l => (f g l).1) = c := funext fun l => by rw [e]
  obtain rfl : (fun l => (f g l).2) = fl := funext fun l => by rw [e]
  obtain ⟨h1, h2⟩ := regStep i (fun x => (x.setM m (maskUpd (x.getM m) p.exec comb fun l => (f g l).1)).setFlags
    (flagsOf p.exec fun l => (0, (f g l).2))) h (fun x => rfl)
  refine ⟨_, _, by rw [he, laneCmp, issue_next _ h hu], h1, h2, ?_, ?_, fun r l _ _ => by simp, fun r _ => by simp,
    fun r hr => by simp [hr]⟩
  · intro k
    simp [setFlags_bit, flagsOf_bit]
  · intro l hl
    simp [maskUpd_bit _ _ _ _ _ hl]

/-- An instruction without operands passes checks 7 and 8. -/
theorem Readable.empty (s : State) (g : Group) : Readable s g {} := ⟨by simp, by simp, by simp, by simp⟩

/-- A step that changes S registers of the issuing group by F and puts p' in the place of p. -/
theorem move_result {s : State} {g : Group} {p p' : Split} {i : Instr} {u : Uses} (F : Group → Group)
    {S : Nat → Option Word} {k : Group → Split → State} (h : Issues s g p) (hu : Readable s g u) (he : exec i s = issue s i u k)
    (hid : p'.id = p.id) (hk : k g p = (s.updGroup g.ref F).putSplit g p') (hF : ∀ x, F x = { x with s := (F x).s })
    (hS : ∀ r, (F g).getS r = (S r).getD (g.getS r)) : MoveResult s g p i p' S := by
  have hFr : ∀ x, (F x).ref = x.ref := fun x => by rw [hF x]
  have hFs : ∀ x, (F x).splits = x.splits := fun x => by rw [hF x]
  have hd : (s.updGroup g.ref F).putSplit g p' = s.updGroup g.ref fun x => (F x).updSplit p'.id fun _ => p' := by
    unfold State.putSplit State.updSplit
    exact updGroup_updGroup s g.ref F _ fun x _ => hFr x
  have hidf : ∀ q : Split, q.id = p'.id → ((fun _ => p') q : Split).id = q.id := fun q hq => hq.symm
  have hsp : (F g).split? p'.id = some p := by
    unfold Group.split?
    rw [hFs, hid]
    exact h.split'
  refine ⟨(s.updGroup g.ref F).putSplit g p', (F g).updSplit p'.id fun _ => p', by rw [he, issue_next _ h hu, hk],
    ⟨h.group', ?_, ?_, ?_, ?_⟩, ⟨?_, ?_, ?_⟩, ?_, ?_, ?_, ?_⟩
  · rw [hd]
    exact group?_updGroup_same _ (fun x _ => by simp [hFr]) h.group'
  · rw [hd]; rfl
  · intro r hr
    rw [hd]
    exact group?_updGroup_other s hr _ fun x _ => by simp [hFr]
  · intro a; rw [hd]; rfl
  · rw [hF g]; rfl
  · rw [← hid]; exact split?_updSplit_same _ hidf hsp
  · intro n hn
    rw [← hid] at hn
    rw [split?_updSplit_other _ hn _ hidf]
    unfold Group.split?
    rw [hFs]
  · rw [hF g]; rfl
  · intro r l _ _; rw [hF g]; rfl
  · intro r; simpa using hS r
  · intro r _; rw [hF g]; rfl

end Sys2Proof.Machine
end

