-- ==== Sys2Proof/Laws/Memory.lean ====
section
/-! SUPPORT. Every operation that writes memory keeps its canonical form, and the primitive ones leave every byte outside their line
alone. -/

namespace Sys2Proof.Machine

/-! ## Folds -/

/-- A fold of steps that keep the form keeps it. -/
theorem foldl_memWf {α : Type} (f : State → α → State) (h : ∀ s a, s.memWf → (f s a).memWf) (l : List α) (s : State)
    (hs : s.memWf) : (l.foldl f s).memWf := by
  induction l generalizing s with
  | nil => exact hs
  | cons a t ih => exact ih _ (h s a hs)

/-- The same of a fold that carries something beside the state. -/
theorem foldl_memWf_fst {α β : Type} (f : State × β → α → State × β) (h : ∀ s a, s.1.memWf → (f s a).1.memWf) (l : List α)
    (s : State × β) (hs : s.1.memWf) : (l.foldl f s).1.memWf := by
  induction l generalizing s with
  | nil => exact hs
  | cons a t ih => exact ih _ (h s a hs)

/-- A fold of steps that keep memory keeps memory. -/
theorem foldl_mem {α : Type} (f : State → α → State) (h : ∀ s a, (f s a).mem = s.mem) (l : List α) (s : State) :
    (l.foldl f s).mem = s.mem := by
  induction l generalizing s with
  | nil => rfl
  | cons a t ih => exact (ih _).trans (h s a)

theorem memWf_of_mem {s t : State} (h : t.mem = s.mem) (hs : s.memWf) : t.memWf := by
  unfold State.memWf at *; rw [h]; exact hs

/-! ## The list itself -/

theorem filter_wf (d : Byte) (m : List Host.Cell) (q : Host.Cell → Bool) (h : Sparse.wf d m = true) :
    Sparse.wf d (m.filter q) = true := by
  rw [Sparse.wf_iff] at h ⊢
  exact ⟨h.1.filter _, fun e he => h.2 e (List.mem_filter.mp he).1⟩

theorem foldl_sput_wf (l m : List Host.Cell) (h : Memory.wf m = true) :
    Memory.wf (l.foldl (fun m c => sput 0 m c.1 c.2) m) = true := by
  induction l generalizing m with
  | nil => exact h
  | cons c t ih => exact ih _ (sput_wf 0 m c.1 c.2 h)

theorem memRun_wf (m : List Host.Cell) (a : Nat) (l : List Byte) (h : Memory.wf m = true) : Memory.wf (sputRun 0 m a l) = true :=
  sputRun_wf 0 m a l h

theorem wrMem_wf (m : List Host.Cell) (a n v : Nat) (h : Memory.wf m = true) : Memory.wf (wrMem m a n v) = true :=
  sputRun_wf 0 m a (leBytes n v) h

@[simp] theorem leBytes_length (n v : Nat) : (leBytes n v).length = n := by
  induction n generalizing v with
  | zero => rfl
  | succ n ih => simp [leBytes, ih]

@[simp] theorem lineBytes_length (d : LineData) : (lineBytes d).length = 128 := leBytes_length 128 _

/-- A byte outside the n bytes from a reads as before. -/
theorem wrMem_other (m : List Host.Cell) (a n v b : Nat) (hb : b < a ∨ a + n ≤ b) :
    sget 0 (wrMem m a n v) b = sget 0 m b := by
  unfold wrMem
  rw [sget_sputRun, leBytes_length, if_neg (by omega)]

/-! ## Lines -/

@[simp] theorem setMeta_mem (s : State) (n : Nat) (m : LineMeta) : (s.setMeta n m).mem = s.mem := rfl

@[simp] theorem setTag_mem (s : State) (n : Nat) (t : Tag) : (s.setTag n t).mem = s.mem := rfl

@[simp] theorem retireFrame_mem (s : State) (f : Nat) : (s.retireFrame f).mem = s.mem := by
  unfold State.retireFrame
  dsimp only
  split
  · rfl
  · split
    · rfl
    · split <;> rfl

@[simp] theorem noteRead_mem (s : State) (n : Nat) (dom : Option (Key × BitVec 16)) (kds : Nat) :
    (s.noteRead n dom kds).mem = s.mem := by
  unfold State.noteRead
  split
  · dsimp only
    split
    · split
      · rw [retireFrame_mem]; rfl
      · rw [retireFrame_mem]; rfl
    · split <;> rfl
  · split <;> rfl

/-- The reads of a partial merge leave memory alone. -/
theorem ite_noteRead_mem (c : Prop) [Decidable c] (s : State) (n : Nat) (dom : Option (Key × BitVec 16)) (kds : Nat) :
    (if c then s.noteRead n dom kds else s).mem = s.mem := by
  split
  · exact noteRead_mem ..
  · rfl

theorem mergePhys_memWf (s : State) (n : Nat) (dom : Option (Key × BitVec 16)) (kds : Nat) (d : LineData) (m : LineMask) (h : s.memWf) :
    (s.mergePhys n dom kds d m).1.memWf := by
  unfold State.mergePhys
  dsimp only
  split
  · exact memWf_of_mem (ite_noteRead_mem ..) h
  · simp only [State.memWf, setMeta_mem, ite_noteRead_mem] at h ⊢
    exact memRun_wf _ _ _ h

/-- A merge leaves every byte outside its line alone. -/
theorem mergePhys_other (s : State) (n : Nat) (dom : Option (Key × BitVec 16)) (kds : Nat) (d : LineData) (m : LineMask) (b : Nat)
    (hb : b / 128 ≠ n) : sget 0 (s.mergePhys n dom kds d m).1.mem b = sget 0 s.mem b := by
  unfold State.mergePhys
  dsimp only
  split
  · rw [ite_noteRead_mem]
  · simp only [setMeta_mem, ite_noteRead_mem]
    rw [sget_sputRun, lineBytes_length, if_neg (by omega)]

theorem poisonLine_memWf (s : State) (n : Nat) (dom : Option (Key × BitVec 16)) (h : s.memWf) : (s.poisonLine n dom).memWf := by
  simp only [State.memWf, State.poisonLine, setMeta_mem] at h ⊢
  exact memRun_wf _ _ _ h

theorem copyPhys_memWf (s : State) (a b : Nat) (dom : Option (Key × BitVec 16)) (h : s.memWf) : (s.copyPhys a b dom).memWf := by
  simp only [State.memWf, State.copyPhys, setMeta_mem] at h ⊢
  exact memRun_wf _ _ _ h

theorem claim_memWf (s : State) (k : LineKey) (id x m : Nat) (dom : Option (Key × BitVec 16)) (h : s.memWf) :
    (s.claim k id x m dom).memWf := by
  simp only [State.memWf, State.claim, setTag_mem, setMeta_mem] at h ⊢
  exact memRun_wf _ _ _ (memRun_wf _ _ _ h)

/-! ## Frames -/

@[simp] theorem uncacheFrame_mem (s : State) (f : Nat) : (s.uncacheFrame f).mem = s.mem := rfl

theorem zeroFrame_memWf (s : State) (f : Nat) (dom : Option (Key × BitVec 16)) (h : s.memWf) : (s.zeroFrame f dom).memWf := by
  unfold State.zeroFrame
  apply foldl_memWf _ (fun s i hs => memWf_of_mem (setMeta_mem ..) hs)
  simp only [State.memWf, Memory.wf] at h ⊢
  exact filter_wf 0 _ _ h

theorem moveFrame_memWf (s : State) (a b : Nat) (dom : Option (Key × BitVec 16)) (h : s.memWf) : (s.moveFrame a b dom).memWf := by
  unfold State.moveFrame
  generalize List.range 512 = l
  apply foldl_memWf _ (fun s i hs => memWf_of_mem (setMeta_mem ..) hs)
  have h1 := foldl_memWf (fun s i => s.noteRead (512 * a + i) dom 0) (fun s i hs => memWf_of_mem (noteRead_mem ..) hs)
    l s h
  exact foldl_sput_wf _ _ (filter_wf 0 _ _ h1)

/-! ## Writes at a line's home -/

@[simp] theorem replyTo_mem (s : State) (cx src : Nat) (vlink : BitVec 32) (lb : Bool) (b : PktBody) :
    (s.replyTo cx src vlink lb b).mem = s.mem := by
  unfold State.replyTo
  dsimp only
  split <;> rfl

@[simp] theorem wake_mem (s : State) (k : LineKey) : (s.wake k).mem = s.mem := by
  unfold State.wake
  exact foldl_mem (fun (s : State) (h : RWatch × DWord) =>
    s.replyTo h.1.cx h.1.src h.1.vlink h.1.loopback (.rWatch h.1.req h.2)) (fun s h => replyTo_mem ..) _ _

@[simp] theorem invalCopy_mem (s : State) (k : LineKey) (c : Option Nat) (n : Nat) : (s.invalCopy k c n).mem = s.mem := by
  cases c <;> rfl

@[simp] theorem dropCopies_mem (s : State) (k : LineKey) : (s.dropCopies k).mem = s.mem :=
  foldl_mem (fun (s : State) (c : Option Nat × Nat) => s.invalCopy k c.1 c.2) (fun s c => invalCopy_mem s k c.1 c.2) _ s

@[simp] theorem l2Evict_mem (s : State) (n : Nat) : (s.l2Evict n).mem = s.mem := by
  unfold State.l2Evict
  split
  · rfl
  · dsimp only
    split
    · rfl
    · split
      next v hv =>
        exact foldl_mem (fun (s : State) (c : Option Nat × Nat) => if c.1.isNone then s.invalCopy v none c.2 else s)
          (fun s c => by split <;> simp) _ _
      · split <;> rfl

@[simp] theorem l2Touch_mem (s : State) (k : LineKey) (w : Bool) : (s.l2Touch k w).mem = s.mem := by
  unfold State.l2Touch
  split
  · rfl
  · exact l2Evict_mem ..

theorem homeWrite_memWf (s : State) (k : LineKey) (d : LineData) (m : LineMask) (h : s.memWf) : (s.homeWrite k d m).1.memWf := by
  have h1 : (s.dropCopies k).memWf := memWf_of_mem (dropCopies_mem ..) h
  unfold State.homeWrite
  dsimp only
  split
  · exact h1
  · simp only [State.memWf, wake_mem, l2Touch_mem]
    have h2 := fun n dom => mergePhys_memWf (s.dropCopies k) n dom k.kds d m h1
    split
    · rw [setMeta_mem]; exact h2 _ _
    · exact h2 _ _

/-- A write at the home of a line that is no sheaf slot leaves every byte outside the line alone. -/
theorem homeWrite_other (s : State) (k : LineKey) (d : LineData) (m : LineMask) (b : Nat) (hk : k.sh = 0) (hb : b / 128 ≠ k.n) :
    sget 0 (s.homeWrite k d m).1.mem b = sget 0 s.mem b := by
  have hc : (s.dropCopies k).curLine k = some k.n := by simp [State.curLine, hk]
  unfold State.homeWrite
  dsimp only
  rw [hc]
  simp only [wake_mem, l2Touch_mem, hk, if_true, setMeta_mem]
  rw [mergePhys_other _ _ _ _ _ _ _ hb, dropCopies_mem]

/-! ## The walk -/

theorem markEntry_memWf (s : State) (c : Context) (ea : Nat) (p : Pte) (d : Bool) (h : s.memWf) : (s.markEntry c ea p d).memWf := by
  unfold State.markEntry
  generalize (p.raw ||| BitVec.ofNat 64 (2 ^ 54) ||| if d = true then BitVec.ofNat 64 (2 ^ 55) else 0) = raw
  dsimp only
  split
  · exact h
  · exact homeWrite_memWf _ _ _ _ h

/-- A write of an entry leaves every byte outside its line alone. -/
theorem markEntry_other (s : State) (c : Context) (ea : Nat) (p : Pte) (d : Bool) (b : Nat) (hb : b / 128 ≠ ea / 128) :
    sget 0 (s.markEntry c ea p d).mem b = sget 0 s.mem b := by
  unfold State.markEntry
  generalize (p.raw ||| BitVec.ofNat 64 (2 ^ 54) ||| if d = true then BitVec.ofNat 64 (2 ^ 55) else 0) = raw
  dsimp only
  split
  · rfl
  · exact homeWrite_other s { cx := c.cxid, pod := false, n := ea / 128 } _ _ _ rfl hb

@[simp] theorem noteWalk_mem (s : State) (c : Context) (va : Nat) : (s.noteWalk c va).mem = s.mem :=
  foldl_mem (fun (s : State) (ea : Nat) => s.noteRead (ea / 128) (some (c.memKey, c.gen)) 0) (fun _ _ => noteRead_mem ..) _ s

/-- What a walk can do: nothing, note what it read, and mark the entry at which it ended. -/
theorem walk_cases (s : State) (cx va : Nat) (a : Acc) :
    (s.walk cx va a).1 = s ∨ (∃ c, s.ctx? cx = some c ∧ (s.walk cx va a).1 = s.noteWalk c va)
      ∨ ∃ c ea p d, s.ctx? cx = some c ∧ (∃ level, s.walkTo c va 4 0 c.bindRec.ptRoot = .ok (ea, level, p))
        ∧ (s.walk cx va a).1 = (s.noteWalk c va).markEntry c ea p d := by
  unfold State.walk
  split
  · exact .inl rfl
  next c hc =>
    split
    · exact .inr (.inl ⟨c, hc, rfl⟩)
    next ea level p hw =>
      split
      · exact .inl rfl
      · dsimp only
        split
        · exact .inr (.inl ⟨c, hc, rfl⟩)
        · split
          · exact .inl rfl
          · exact .inr (.inr ⟨c, ea, p, _, hc, ⟨level, hw⟩, rfl⟩)

theorem walk_memWf (s : State) (cx va : Nat) (a : Acc) (h : s.memWf) : (s.walk cx va a).1.memWf := by
  rcases walk_cases s cx va a with e | ⟨c, -, e⟩ | ⟨c, ea, p, d, -, -, e⟩ <;> rw [e]
  · exact h
  · exact memWf_of_mem (noteWalk_mem ..) h
  · exact markEntry_memWf _ _ _ _ _ (memWf_of_mem (noteWalk_mem ..) h)

theorem refillSector_mem (s : State) (sec : Nat) (t : Xlat) : (s.refillSector sec t).mem = s.mem := rfl

theorem refill_mem (s : State) (core : Nat) (t : Xlat) (both : Bool) : (s.refill core t both).mem = s.mem := by
  unfold State.refill
  dsimp only
  split <;> rfl

theorem translate_memWf (s : State) (core cx va : Nat) (a : Acc) (h : s.memWf) : (s.translate core cx va a).1.memWf := by
  unfold State.translate
  dsimp only
  split
  · exact h
  · split
    · split
      · exact h
      · exact memWf_of_mem (refill_mem ..) h
    · have hw := walk_memWf s cx va a h
      split
      next s1 t e =>
        rw [e] at hw
        dsimp only
        split
        · exact hw
        · exact memWf_of_mem (refill_mem ..) hw
      next s1 r _ e =>
        rw [e] at hw
        exact hw

theorem resolve_memWf (s : State) (g : Group) (last : Option Nat) (va : Nat) (a : Acc) (h : s.memWf) :
    (s.resolve g last va a).1.memWf := by
  have ht := translate_memWf s g.ref.core g.cx va a h
  unfold State.resolve
  cases regionOf va with
  | none => exact h
  | pod => cases a <;> exact h
  | mcast => cases a <;> exact h
  | control => exact h
  | trap =>
    dsimp only
    split
    · exact h
    · split
      · exact h
      · split <;> exact h
  | localTable =>
    dsimp only
    split
    · split <;> exact h
    · split
      next s1 t e =>
        rw [e] at ht
        cases last with
        | none => exact ht
        | some l => exact memWf_of_mem rfl ht
      next s1 r _ e =>
        rw [e] at ht
        exact ht

/-! ## Engines -/

theorem engineKey_memWf (s : State) (cx va : Nat) (a : Acc) (h : s.memWf) : (s.engineKey cx va a).1.memWf := by
  have hw := walk_memWf s cx va a h
  unfold State.engineKey
  split
  · split
    next s1 t e => rw [e] at hw; exact hw
    next s1 r _ e => rw [e] at hw; exact hw
  all_goals exact h

theorem engineNow_memWf (s : State) (cx va : Nat) (a : Acc) (h : s.memWf) : (s.engineNow cx va a).1.memWf := by
  have hk := engineKey_memWf s cx va a h
  unfold State.engineNow
  split
  next e => rw [e] at hk; exact hk
  next s0 e =>
    rw [e] at hk
    have h1 : ({ s0 with migWait := true } : State).memWf := hk
    dsimp only
    split
    · exact hk
    · split
      · exact hk
      · split
        · exact hk
        · exact markEntry_memWf _ _ _ _ _ h1
  next e => rw [e] at hk; exact hk

theorem homeNote_mem (s : State) (k : LineKey) : (s.homeNote k).mem = s.mem := by
  unfold State.homeNote
  split
  · rfl
  · exact noteRead_mem ..

theorem engineWrite_memWf (s : State) (cx va : Nat) (bs : List Byte) (h : s.memWf) : (s.engineWrite cx va bs).1.memWf := by
  unfold State.engineWrite
  refine foldl_memWf_fst _ ?_ _ _ h
  intro q p hq
  have hk := engineNow_memWf q.1 cx p.1 .write hq
  dsimp only
  split
  next s1 r e => rw [e] at hk; exact hk
  next s1 k e => rw [e] at hk; exact homeWrite_memWf _ _ _ _ hk

theorem physWrite_memWf (s : State) (cx pa : Nat) (bs : List Byte) (h : s.memWf) : (s.physWrite cx pa bs).memWf := by
  unfold State.physWrite
  exact foldl_memWf _ (fun s p hs => homeWrite_memWf _ _ _ _ hs) _ _ h

theorem engineRead_memWf (s : State) (cx va n : Nat) (h : s.memWf) : (s.engineRead cx va n).1.memWf := by
  unfold State.engineRead
  refine foldl_memWf_fst _ ?_ _ _ h
  intro q p hq
  have hk := engineNow_memWf q.1 cx p.1 .read hq
  dsimp only
  split
  · exact hq
  · split
    next s1 r e => rw [e] at hk; exact hk
    next s1 k e =>
      rw [e] at hk
      split
      · exact memWf_of_mem (homeNote_mem ..) hk
      · exact memWf_of_mem (homeNote_mem ..) hk

/-! ## Reset -/

theorem reset_memWf : State.reset.memWf := rfl

end Sys2Proof.Machine
end

