-- ==== Sys2Proof/Laws/Ops.lean ====
section
/-! SUPPORT. What each shared operation of an instruction can do, said once: the issuer, the checks of R43, attaching an operation, the
gates of R156 and R198, commits, stores, and the entry of an exception. -/

namespace Sys2Proof.Machine

/-! ## The issuer and the checks -/

/-- The issuer issues: the step goes on with its group and split; else there is none. -/
theorem withIssuer_cases (s : State) (k : Group → Split → State) :
    (∃ g p, s.group? s.issuerRef = some g ∧ g.split? s.issuer.split = some p ∧ withIssuer s k = .next (k g p))
      ∨ (withIssuer s k = .fault .noIssuer ∧ ∀ g, s.group? s.issuerRef = some g → g.split? s.issuer.split = none) := by
  unfold withIssuer
  cases hg : s.group? s.issuerRef with
  | none => exact .inr ⟨rfl, by simp⟩
  | some g =>
    cases hp : g.split? s.issuer.split with
    | none => exact .inr ⟨by simp [hp], by simpa using hp⟩
    | some p => exact .inl ⟨g, p, rfl, hp, by simp [hp]⟩

/-- Checks 7 and 8: a slot out of range traps REGRANGE, a pending register HAZARD, else the instruction goes on. -/
theorem checkUses_cases (s : State) (g : Group) (p : Split) (i : Instr) (u : Uses) (k : State) :
    (u.inRange g = false ∧ checkUses s g p i u k = s.trap g p i cREGRANGE)
      ∨ (u.inRange g = true ∧ u.hazard s g = true ∧ checkUses s g p i u k = s.trap g p i cHAZARD)
      ∨ (u.inRange g = true ∧ u.hazard s g = false ∧ checkUses s g p i u k = k) := by
  unfold checkUses
  cases hr : u.inRange g <;> cases hh : u.hazard s g <;> simp

/-- The gate of R156 stalls the split or lets it go on. -/
theorem gated_cases (s : State) (g : Group) (p : Split) (k : State) :
    (s.unchecked g p = true ∧ gated s g p k = s.stall g p .poll) ∨ (s.unchecked g p = false ∧ gated s g p k = k) := by
  unfold gated
  cases h : s.unchecked g p <;> simp

/-- An access traps on the causes of its lanes, waits for a page in migration, or goes on. -/
theorem laneTrap_cases (s : State) (g : Group) (p : Split) (i : Instr) (f : LaneFail) (uni : Bool) (k : State) :
    (f.cause ≠ 0 ∧ s.laneTrap g p i f uni k = s.trapAt g p i f.cause (if uni then p.exec else f.lanes) f.addr f.detail)
      ∨ (f.cause = 0 ∧ f.waits = true ∧ s.laneTrap g p i f uni k = s.stall g p .poll)
      ∨ (f.cause = 0 ∧ f.waits = false ∧ s.laneTrap g p i f uni k = k) := by
  unfold State.laneTrap
  split
  · exact .inl ⟨‹_›, rfl⟩
  · split
    · exact .inr (.inl ⟨of_not_not ‹_›, ‹_›, rfl⟩)
    · exact .inr (.inr ⟨of_not_not ‹_›, Bool.eq_false_iff.mpr ‹_›, rfl⟩)

/-- A release goes on, keeps its marker, or takes a new one and stalls. -/
theorem released_cases (s : State) (g : Group) (p : Split) (sc : Scope) (k : State) :
    released s g p sc k = k ∨ released s g p sc k = s ∨ ∃ w, released s g p sc k = s.stall g p w := by
  unfold released
  split
  · exact .inl rfl
  · split
    · split
      · exact .inl rfl
      · exact .inr (.inl rfl)
    · split
      · split
        · exact .inl rfl
        · exact .inr (.inr ⟨_, rfl⟩)
      · exact .inl rfl

/-! ## Attaching, stalling, moving on -/

@[simp] theorem attach_id (s : State) (g : Group) (p : Split) (i : Instr) (f : Nat) (pe : PendSet) (k : OpKind) :
    (s.attach g p i f pe k).1 = s.nextId := rfl

/-- Attaching adds one operation of a fresh number behind the others and changes nothing else. -/
theorem attach_state (s : State) (g : Group) (p : Split) (i : Instr) (f : Nat) (pe : PendSet) (k : OpKind) :
    ∃ o, (s.attach g p i f pe k).2 = { s with ops := s.ops ++ [o], nextId := s.nextId + 1 } ∧ o.id = s.nextId ∧ o.grp = g.ref
      ∧ o.split = p.id ∧ o.flag = f ∧ o.pend = pe ∧ o.kind = k ∧ o.pc = p.pc :=
  ⟨_, rfl, rfl, rfl, rfl, rfl, rfl, rfl, rfl⟩

@[simp] theorem updGroup_mem (s : State) (r : GRef) (f : Group → Group) : (s.updGroup r f).mem = s.mem := rfl
@[simp] theorem updSplit_mem (s : State) (r : GRef) (n : Nat) (f : Split → Split) : (s.updSplit r n f).mem = s.mem := rfl
@[simp] theorem updCtx_mem (s : State) (cx : Nat) (f : Context → Context) : (s.updCtx cx f).mem = s.mem := rfl
@[simp] theorem updCore_mem (s : State) (n : Nat) (f : Core → Core) : (s.updCore n f).mem = s.mem := rfl
@[simp] theorem done_mem (s : State) (g : Group) (p : Split) (i : Instr) : (s.done g p i).mem = s.mem := rfl
@[simp] theorem stall_mem (s : State) (g : Group) (p : Split) (w : Wait) : (s.stall g p w).mem = s.mem := rfl
@[simp] theorem attach_mem (s : State) (g : Group) (p : Split) (i : Instr) (f : Nat) (pe : PendSet) (k : OpKind) :
    (s.attach g p i f pe k).2.mem = s.mem := rfl

/-! ## Commits -/

@[simp] theorem startSpawned_mem (s : State) (g : Group) (p : Split) : (s.startSpawned g p).mem = s.mem := rfl

/-- A commit changes groups and contexts only. -/
theorem commit_state (s : State) (g : Group) (p : Split) :
    s.commit g p = { s with groups := (s.commit g p).groups, ctxs := (s.commit g p).ctxs } := rfl

@[simp] theorem commit_mem (s : State) (g : Group) (p : Split) : (s.commit g p).mem = s.mem := rfl

/-! ## Stores, acquires -/

/-- A store changes its core and, for a new entry of the publish queue, the next number; it changes no memory. -/
theorem storeLine_state (s t : State) (si : Site) (va : Nat) (k : LineKey) (d : LineData) (m : LineMask) (push : BitVec 32)
    (sow : Bool) (h : s.storeLine si va k d m push sow = some t) : t = { s with cores := t.cores, nextId := t.nextId } := by
  unfold State.storeLine at h
  dsimp only at h
  split at h
  · exact absurd h (by simp)
  · split at h
    · obtain rfl := Option.some.inj h
      rfl
    · split at h
      · exact absurd h (by simp)
      · obtain rfl := Option.some.inj h
        rfl

@[simp] theorem acquire_mem (s : State) (n : Nat) (sc : Scope) : (s.acquire n sc).mem = s.mem := by
  unfold State.acquire
  split <;> rfl

/-- An acquire changes its core only. -/
theorem acquire_state (s : State) (n : Nat) (sc : Scope) : s.acquire n sc = { s with cores := (s.acquire n sc).cores } := by
  unfold State.acquire
  split <;> rfl

/-! ## Checked accesses -/

@[simp] theorem sample_mem (s : State) (core cx va : Nat) : (s.sample core cx va).mem = s.mem := by
  unfold State.sample
  split
  · rfl
  · dsimp only
    split <;> rfl

@[simp] theorem sampleLanes_mem (s : State) (g : Group) (l : List LaneEa) : (s.sampleLanes g l).mem = s.mem :=
  foldl_mem (fun (s : State) (e : LaneEa) => s.sample g.ref.core g.cx e.va) (fun _ _ => sample_mem ..) l s

theorem checkEas_memWf (s : State) (g : Group) (a : Acc) (size : Nat) (ok : LineKey → Bool) (eas : List (Nat × Nat))
    (h : s.memWf) : (s.checkEas g a size ok eas).1.memWf := by
  unfold State.checkEas
  refine foldl_memWf_fst _ ?_ _ _ h
  rintro ⟨s, l, f⟩ ⟨lane, va⟩ hs
  dsimp only
  have hr := resolve_memWf s ((s.group? g.ref).getD g) (some lane) va a hs
  split
  · split
    next s1 c d e => rw [e] at hr; exact hr
    next => exact hs
    next => exact hs
  · split
    next s1 k e =>
      rw [e] at hr
      split
      · exact hr
      · exact hr
    next s1 c d e => rw [e] at hr; exact hr
    next s1 e => rw [e] at hr; exact hr
    next s1 t e => rw [e] at hr; exact hr

/-- checkLanes is checkEas, followed by the sampler where every access is made. -/
theorem checkLanes_memWf (s : State) (g : Group) (a : Acc) (size : Nat) (ok : LineKey → Bool) (eas : List (Nat × Nat))
    (h : s.memWf) : (s.checkLanes g a size ok eas).1.memWf := by
  have hc := checkEas_memWf s g a size ok eas h
  unfold State.checkLanes
  dsimp only
  split
  · exact memWf_of_mem (sampleLanes_mem ..) hc
  · exact hc

/-! ## Taking an exception -/

theorem frameWrite_memWf (s : State) (g : Group) (off : Nat) (bs : List Byte) (h : s.memWf) : (s.frameWrite g off bs).memWf := by
  unfold State.frameWrite
  split
  · exact h
  · exact memWf_of_mem rfl (physWrite_memWf s g.cx _ bs h)

/-- Exception entry outside a handler keeps the form of memory. -/
theorem enterTrap_memWf (s : State) (g : Group) (p : Split) (t : TrapIn) (hg : g.tactive = false) (h : s.memWf) :
    (s.enterTrap g p t).memWf := by
  unfold State.enterTrap
  simp only [hg, Bool.false_eq_true, if_false]
  refine memWf_of_mem (updGroup_mem ..) ?_
  refine memWf_of_mem (s := State.frameWrite _ g 0x160 _) rfl ?_
  exact frameWrite_memWf _ _ _ _ (frameWrite_memWf _ _ _ _ h)

end Sys2Proof.Machine
end

