-- ==== Sys2Proof/Laws/PerInstr.lean ====
section
/-! SUPPORT. Lemmas per instruction. WordCount: an instruction has at most two words (R29, R37 to R40). -/

namespace Sys2Proof.Laws.WordCount

/-- An instruction is at most one word and its literal. -/
def Statement (i : Instr) : Prop := (encode i).length ≤ 2

theorem optWord_length (o : Option Word) : o.toList.length ≤ 1 := by
  cases o <;> simp

theorem encLane_length (op : BitVec 8) (x : Bool) (d a : BitVec 7) (b : Opnd) : (encLane op x d a b).length ≤ 2 := by
  have := optWord_length b.litWord
  simp only [encLane, List.length_cons]
  omega

theorem encUni_length (op : BitVec 8) (x : Bool) (d a : BitVec 7) (b : UOpnd) : (encUni op x d a b).length ≤ 2 := by
  have := optWord_length b.litWord
  simp only [encUni, List.length_cons]
  omega

theorem encSel_length (op : BitVec 8) (d a : BitVec 7) (k : LaneSel) : (encSel op d a k).length ≤ 2 := by
  have := optWord_length k.litWord
  simp only [encSel, List.length_cons]
  omega

theorem clauseHeader wait sav sa sbv sb n re yh : Statement (.clauseHeader wait sav sa sbv sb n re yh) := Nat.le_of_ble_eq_true rfl
theorem ill z : Statement (.ill z) := Nat.le_of_ble_eq_true rfl
theorem nop : Statement .nop := Nat.le_of_ble_eq_true rfl
theorem iadd sat d a b : Statement (.iadd sat d a b) := encLane_length ..
theorem isub sat d a b : Statement (.isub sat d a b) := encLane_length ..
theorem imul d a b : Statement (.imul d a b) := encLane_length ..
theorem imulh u d a b : Statement (.imulh u d a b) := encLane_length ..
theorem imad d a b : Statement (.imad d a b) := encLane_length ..
theorem iadd64 sat d a b : Statement (.iadd64 sat d a b) := Nat.succ_le_succ (optWord_length _)
theorem imin u d a b : Statement (.imin u d a b) := encLane_length ..
theorem imax u d a b : Statement (.imax u d a b) := encLane_length ..
theorem iamin u d a b : Statement (.iamin u d a b) := encLane_length ..
theorem iamax u d a b : Statement (.iamax u d a b) := encLane_length ..
theorem and d a b : Statement (.and d a b) := encLane_length ..
theorem or d a b : Statement (.or d a b) := encLane_length ..
theorem xor d a b : Statement (.xor d a b) := encLane_length ..
theorem andn d a b : Statement (.andn d a b) := encLane_length ..
theorem shl d a b : Statement (.shl d a b) := encLane_length ..
theorem shr d a b : Statement (.shr d a b) := encLane_length ..
theorem sar d a b : Statement (.sar d a b) := encLane_length ..
theorem rol d a b : Statement (.rol d a b) := encLane_length ..
theorem bfx sx d a b : Statement (.bfx sx d a b) := encLane_length ..
theorem bfi d a b : Statement (.bfi d a b) := encLane_length ..
theorem popc d b : Statement (.popc d b) := encLane_length ..
theorem clz d b : Statement (.clz d b) := encLane_length ..
theorem brev d b : Statement (.brev d b) := encLane_length ..
theorem sel m d a b : Statement (.sel m d a b) := Nat.le_of_ble_eq_true rfl
theorem icmp comb cc m a b : Statement (.icmp comb cc m a b) := encLane_length ..
theorem mov d b : Statement (.mov d b) := encLane_length ..
theorem lea zx d a b : Statement (.lea zx d a b) := encLane_length ..
theorem idp4 d a b : Statement (.idp4 d a b) := encLane_length ..
theorem idp8 d a b : Statement (.idp8 d a b) := encLane_length ..
theorem fadd d a b : Statement (.fadd d a b) := encLane_length ..
theorem fsub d a b : Statement (.fsub d a b) := encLane_length ..
theorem fmul d a b : Statement (.fmul d a b) := encLane_length ..
theorem ffma d a b : Statement (.ffma d a b) := encLane_length ..
theorem fmin d a b : Statement (.fmin d a b) := encLane_length ..
theorem fmax d a b : Statement (.fmax d a b) := encLane_length ..
theorem fcmp comb cc m a b : Statement (.fcmp comb cc m a b) := encLane_length ..
theorem frcp d b : Statement (.frcp d b) := encLane_length ..
theorem frsq d b : Statement (.frsq d b) := encLane_length ..
theorem fsqrt d b : Statement (.fsqrt d b) := encLane_length ..
theorem fexp2 d b : Statement (.fexp2 d b) := encLane_length ..
theorem flog2 d b : Statement (.flog2 d b) := encLane_length ..
theorem ftanh d b : Statement (.ftanh d b) := encLane_length ..
theorem scalex e8 d a b : Statement (.scalex e8 d a b) := encLane_length ..
theorem hadd2 h d a b : Statement (.hadd2 h d a b) := encLane_length ..
theorem hmul2 h d a b : Statement (.hmul2 h d a b) := encLane_length ..
theorem hfma2 h d a b : Statement (.hfma2 h d a b) := encLane_length ..
theorem cvtf src dst sh dh d a : Statement (.cvtf src dst sh dh d a) := Nat.le_of_ble_eq_true rfl
theorem cvti k t d a : Statement (.cvti k t d a) := Nat.le_of_ble_eq_true rfl
theorem pack8 f d a : Statement (.pack8 f d a) := Nat.le_of_ble_eq_true rfl
theorem pack6 f d a : Statement (.pack6 f d a) := Nat.le_of_ble_eq_true rfl
theorem pack4 f d a : Statement (.pack4 f d a) := Nat.le_of_ble_eq_true rfl
theorem unpk8 f d a : Statement (.unpk8 f d a) := Nat.le_of_ble_eq_true rfl
theorem unpk6 f d a : Statement (.unpk6 f d a) := Nat.le_of_ble_eq_true rfl
theorem unpk4 f d a : Statement (.unpk4 f d a) := Nat.le_of_ble_eq_true rfl
theorem fdp4 e5 d a b : Statement (.fdp4 e5 d a b) := encLane_length ..
theorem fdp8 d a b : Statement (.fdp8 d a b) := encLane_length ..
theorem fdp2h h d a b : Statement (.fdp2h h d a b) := encLane_length ..
theorem shfl x d a b : Statement (.shfl x d a b) := encLane_length ..
theorem lshu z d a b : Statement (.lshu z d a b) := encUni_length ..
theorem lshd z d a b : Statement (.lshd z d a b) := encUni_length ..
theorem lrot d a b : Statement (.lrot d a b) := encUni_length ..
theorem bcast d a k : Statement (.bcast d a k) := encSel_length ..
theorem ballotM d a : Statement (.ballotM d a) := Nat.le_of_ble_eq_true rfl
theorem ballotS d a : Statement (.ballotS d a) := Nat.le_of_ble_eq_true rfl
theorem vote k d a : Statement (.vote k d a) := Nat.le_of_ble_eq_true rfl
theorem rdlane d a k : Statement (.rdlane d a k) := encSel_length ..
theorem wrlane d a b : Statement (.wrlane d a b) := encUni_length ..
theorem redi op d a : Statement (.redi op d a) := Nat.le_of_ble_eq_true rfl
theorem redf op d a : Statement (.redf op d a) := Nat.le_of_ble_eq_true rfl
theorem scani op d a : Statement (.scani op d a) := Nat.le_of_ble_eq_true rfl
theorem xchg fs d a b pgrp tag : Statement (.xchg fs d a b pgrp tag) := Nat.le_of_ble_eq_true rfl
theorem xchgPair i j : Statement (.xchgPair i j) := Nat.le_of_ble_eq_true rfl
theorem xchgTimeout i : Statement (.xchgTimeout i) := Nat.le_of_ble_eq_true rfl
theorem sadd sat d a b : Statement (.sadd sat d a b) := encUni_length ..
theorem ssub sat d a b : Statement (.ssub sat d a b) := encUni_length ..
theorem smul hi d a b : Statement (.smul hi d a b) := encUni_length ..
theorem sand d a b : Statement (.sand d a b) := encUni_length ..
theorem sor d a b : Statement (.sor d a b) := encUni_length ..
theorem sxor d a b : Statement (.sxor d a b) := encUni_length ..
theorem sshl d a b : Statement (.sshl d a b) := encUni_length ..
theorem sshr ar d a b : Statement (.sshr ar d a b) := encUni_length ..
theorem smin u d a b : Statement (.smin u d a b) := encUni_length ..
theorem smax u d a b : Statement (.smax u d a b) := encUni_length ..
theorem scmp u d a b : Statement (.scmp u d a b) := encUni_length ..
theorem smov d b : Statement (.smov d b) := encUni_length ..
theorem slea x4 d a b : Statement (.slea x4 d a b) := encUni_length ..
theorem mopAnd d a b : Statement (.mopAnd d a b) := Nat.le_of_ble_eq_true rfl
theorem mopOr d a b : Statement (.mopOr d a b) := Nat.le_of_ble_eq_true rfl
theorem mopXor d a b : Statement (.mopXor d a b) := Nat.le_of_ble_eq_true rfl
theorem mopNot d a : Statement (.mopNot d a) := Nat.le_of_ble_eq_true rfl
theorem mopM2s d a : Statement (.mopM2s d a) := Nat.le_of_ble_eq_true rfl
theorem mopS2m d a : Statement (.mopS2m d a) := Nat.le_of_ble_eq_true rfl
theorem mopCnt d a : Statement (.mopCnt d a) := Nat.le_of_ble_eq_true rfl
theorem mopExec d : Statement (.mopExec d) := Nat.le_of_ble_eq_true rfl
theorem bra off : Statement (.bra off) := Nat.le_of_ble_eq_true rfl
theorem brz c off : Statement (.brz c off) := Nat.le_of_ble_eq_true rfl
theorem brnz c off : Statement (.brnz c off) := Nat.le_of_ble_eq_true rfl
theorem brm c off : Statement (.brm c off) := Nat.le_of_ble_eq_true rfl
theorem loop c off : Statement (.loop c off) := Nat.le_of_ble_eq_true rfl
theorem jtab x t bound lbl : Statement (.jtab x t bound lbl) := Nat.le_of_ble_eq_true rfl
theorem pad lbl : Statement (.pad lbl) := Nat.le_of_ble_eq_true rfl
theorem call l off : Statement (.call l off) := Nat.le_of_ble_eq_true rfl
theorem calli l a lbl : Statement (.calli l a lbl) := Nat.le_of_ble_eq_true rfl
theorem ret a : Statement (.ret a) := Nat.le_of_ble_eq_true rfl
theorem join : Statement .join := Nat.le_of_ble_eq_true rfl
theorem execm m : Statement (.execm m) := Nat.le_of_ble_eq_true rfl
theorem execr : Statement .execr := Nat.le_of_ble_eq_true rfl
theorem ld fs sz d a off : Statement (.ld fs sz d a off) := Nat.le_of_ble_eq_true rfl
theorem lds fs sz d a off : Statement (.lds fs sz d a off) := Nat.le_of_ble_eq_true rfl
theorem ldsr fs sz d a off : Statement (.ldsr fs sz d a off) := Nat.le_of_ble_eq_true rfl
theorem sld fs sz d a off : Statement (.sld fs sz d a off) := Nat.le_of_ble_eq_true rfl
theorem st sz d a off : Statement (.st sz d a off) := Nat.le_of_ble_eq_true rfl
theorem sts sz d a off : Statement (.sts sz d a off) := Nat.le_of_ble_eq_true rfl
theorem stsr sz d a off : Statement (.stsr sz d a off) := Nat.le_of_ble_eq_true rfl
theorem sst sz d a off : Statement (.sst sz d a off) := Nat.le_of_ble_eq_true rfl
theorem ldb fs f d a off : Statement (.ldb fs f d a off) := Nat.le_of_ble_eq_true rfl
theorem ldbScratch fs f d a off : Statement (.ldbScratch fs f d a off) := Nat.le_of_ble_eq_true rfl
theorem stb half d a off : Statement (.stb half d a off) := Nat.le_of_ble_eq_true rfl
theorem stbScratch half d a off : Statement (.stbScratch half d a off) := Nat.le_of_ble_eq_true rfl
theorem atom fs w64 op noret sc ord d a v : Statement (.atom fs w64 op noret sc ord d a v) := Nat.le_of_ble_eq_true rfl
theorem atomc fs w64 noret sc ord d a v : Statement (.atomc fs w64 noret sc ord d a v) := Nat.le_of_ble_eq_true rfl
theorem atoms fs w64 op noret d a v : Statement (.atoms fs w64 op noret d a v) := Nat.le_of_ble_eq_true rfl
theorem pfl2 fs loc d a t lines : Statement (.pfl2 fs loc d a t lines) := Nat.le_of_ble_eq_true rfl
theorem recv fs cap d a nw : Statement (.recv fs cap d a nw) := Nat.le_of_ble_eq_true rfl
theorem sow sz d a m : Statement (.sow sz d a m) := Nat.le_of_ble_eq_true rfl
theorem phase sc : Statement (.phase sc) := Nat.le_of_ble_eq_true rfl
theorem rel sc : Statement (.rel sc) := Nat.le_of_ble_eq_true rfl
theorem acq sc : Statement (.acq sc) := Nat.le_of_ble_eq_true rfl
theorem watch fs cmp u w64 sc d a b : Statement (.watch fs cmp u w64 sc d a b) := Nat.le_of_ble_eq_true rfl
theorem flushl n mode a : Statement (.flushl n mode a) := Nat.le_of_ble_eq_true rfl
theorem shopen d a : Statement (.shopen d a) := Nat.le_of_ble_eq_true rfl
theorem shst sz d a b : Statement (.shst sz d a b) := Nat.le_of_ble_eq_true rfl
theorem shseal fs d a : Statement (.shseal fs d a) := Nat.le_of_ble_eq_true rfl
theorem shpin fs d a : Statement (.shpin fs d a) := Nat.le_of_ble_eq_true rfl
theorem shld fs sz d a b : Statement (.shld fs sz d a b) := Nat.le_of_ble_eq_true rfl
theorem shunpin d a : Statement (.shunpin d a) := Nat.le_of_ble_eq_true rfl
theorem shdrop d a : Statement (.shdrop d a) := Nat.le_of_ble_eq_true rfl
theorem shq d a : Statement (.shq d a) := Nat.le_of_ble_eq_true rfl
theorem copyl c : Statement (.copyl c) := Nat.le_of_ble_eq_true rfl
theorem copyt c : Statement (.copyt c) := Nat.le_of_ble_eq_true rfl
theorem copyg c : Statement (.copyg c) := Nat.le_of_ble_eq_true rfl
theorem copys c : Statement (.copys c) := Nat.le_of_ble_eq_true rfl
theorem copyx c : Statement (.copyx c) := Nat.le_of_ble_eq_true rfl
theorem twany a : Statement (.twany a) := Nat.le_of_ble_eq_true rfl
theorem twall a : Statement (.twall a) := Nat.le_of_ble_eq_true rfl
theorem tffr fs d a : Statement (.tffr fs d a) := Nat.le_of_ble_eq_true rfl
theorem tclr a : Statement (.tclr a) := Nat.le_of_ble_eq_true rfl
theorem binit n a b : Statement (.binit n a b) := Nat.le_of_ble_eq_true rfl
theorem barr n : Statement (.barr n) := Nat.le_of_ble_eq_true rfl
theorem bwait d n p : Statement (.bwait d n p) := Nat.le_of_ble_eq_true rfl
theorem bwaitBytes d n k : Statement (.bwaitBytes d n k) := Nat.le_of_ble_eq_true rfl
theorem barrw d n : Statement (.barrw d n) := Nat.le_of_ble_eq_true rfl
theorem bexp n a : Statement (.bexp n a) := Nat.le_of_ble_eq_true rfl
theorem binv n : Statement (.binv n) := Nat.le_of_ble_eq_true rfl
theorem mres d a q base rowsm1 soff sc f : Statement (.mres d a q base rowsm1 soff sc f) := Nat.le_of_ble_eq_true rfl
theorem mresFillDone core k : Statement (.mresFillDone core k) := Nat.le_of_ble_eq_true rfl
theorem mrel q : Statement (.mrel q) := Nat.le_of_ble_eq_true rfl
theorem mma fs acc c q w steps : Statement (.mma fs acc c q w steps) := Nat.le_of_ble_eq_true rfl
theorem mmaLit fs acc c q w steps wadv ainc : Statement (.mmaLit fs acc c q w steps wadv ainc) := Nat.le_of_ble_eq_true rfl
theorem mmag fs st g q w steps xs wadv ainc : Statement (.mmag fs st g q w steps xs wadv ainc) := Nat.le_of_ble_eq_true rfl
theorem mmaJobStart core : Statement (.mmaJobStart core) := Nat.le_of_ble_eq_true rfl
theorem mmaJobEnd core : Statement (.mmaJobEnd core) := Nat.le_of_ble_eq_true rfl
theorem wload n a b : Statement (.wload n a b) := Nat.le_of_ble_eq_true rfl
theorem wloadFillDone core slot : Statement (.wloadFillDone core slot) := Nat.le_of_ble_eq_true rfl
theorem wfree n : Statement (.wfree n) := Nat.le_of_ble_eq_true rfl
theorem mstat d sel : Statement (.mstat d sel) := Nat.le_of_ble_eq_true rfl
theorem board fs d a nw w c : Statement (.board fs d a nw w c) := Nat.le_of_ble_eq_true rfl
theorem unboard d n : Statement (.unboard d n) := Nat.le_of_ble_eq_true rfl
theorem lapq d c : Statement (.lapq d c) := Nat.le_of_ble_eq_true rfl
theorem lapqSt d c : Statement (.lapqSt d c) := Nat.le_of_ble_eq_true rfl
theorem lapwait fs d a c : Statement (.lapwait fs d a c) := Nat.le_of_ble_eq_true rfl
theorem spawn d a off : Statement (.spawn d a off) := Nat.le_of_ble_eq_true rfl
theorem elect : Statement .elect := Nat.le_of_ble_eq_true rfl
theorem elend : Statement .elend := Nat.le_of_ble_eq_true rfl
theorem exit : Statement .exit := Nat.le_of_ble_eq_true rfl
theorem trigger : Statement .trigger := Nat.le_of_ble_eq_true rfl
theorem winb w : Statement (.winb w) := Nat.le_of_ble_eq_true rfl
theorem region start1 count1 start2 count2 smask recipe : Statement (.region start1 count1 start2 count2 smask recipe) := Nat.le_of_ble_eq_true rfl
theorem yield : Statement .yield := Nat.le_of_ble_eq_true rfl
theorem trap code : Statement (.trap code) := Nat.le_of_ble_eq_true rfl
theorem trapHost code : Statement (.trapHost code) := Nat.le_of_ble_eq_true rfl
theorem tretRegion : Statement .tretRegion := Nat.le_of_ble_eq_true rfl
theorem tretRetry : Statement .tretRetry := Nat.le_of_ble_eq_true rfl
theorem tretNext : Statement .tretNext := Nat.le_of_ble_eq_true rfl
theorem tclrc m : Statement (.tclrc m) := Nat.le_of_ble_eq_true rfl
theorem sread v d n : Statement (.sread v d n) := Nat.le_of_ble_eq_true rfl
theorem swrite d n : Statement (.swrite d n) := Nat.le_of_ble_eq_true rfl
theorem enq d a b : Statement (.enq d a b) := Nat.le_of_ble_eq_true rfl
theorem send m d a b : Statement (.send m d a b) := Nat.le_of_ble_eq_true rfl
theorem role d a b : Statement (.role d a b) := Nat.le_of_ble_eq_true rfl
theorem hostack core gctx val : Statement (.hostack core gctx val) := Nat.le_of_ble_eq_true rfl
theorem splitWatchdog core gctx split : Statement (.splitWatchdog core gctx split) := Nat.le_of_ble_eq_true rfl
theorem impreciseStoreFault core gctx k : Statement (.impreciseStoreFault core gctx k) := Nat.le_of_ble_eq_true rfl
theorem haltRequest cxid : Statement (.haltRequest cxid) := Nat.le_of_ble_eq_true rfl
theorem loadDataReturn op : Statement (.loadDataReturn op) := Nat.le_of_ble_eq_true rfl
theorem atomicReply op : Statement (.atomicReply op) := Nat.le_of_ble_eq_true rfl
theorem publish core k : Statement (.publish core k) := Nat.le_of_ble_eq_true rfl
theorem homeRead op k : Statement (.homeRead op k) := Nat.le_of_ble_eq_true rfl
theorem homeMerge core k : Statement (.homeMerge core k) := Nat.le_of_ble_eq_true rfl
theorem atomicAtHome op lane : Statement (.atomicAtHome op lane) := Nat.le_of_ble_eq_true rfl
theorem cfill k : Statement (.cfill k) := Nat.le_of_ble_eq_true rfl
theorem cInval k : Statement (.cInval k) := Nat.le_of_ble_eq_true rfl
theorem l1Fill k : Statement (.l1Fill k) := Nat.le_of_ble_eq_true rfl
theorem push k : Statement (.push k) := Nat.le_of_ble_eq_true rfl
theorem pushInval k : Statement (.pushInval k) := Nat.le_of_ble_eq_true rfl
theorem watchPost op : Statement (.watchPost op) := Nat.le_of_ble_eq_true rfl
theorem watchRepost op : Statement (.watchRepost op) := Nat.le_of_ble_eq_true rfl
theorem shOpen k : Statement (.shOpen k) := Nat.le_of_ble_eq_true rfl
theorem sheafSeal k : Statement (.sheafSeal k) := Nat.le_of_ble_eq_true rfl
theorem drop k : Statement (.drop k) := Nat.le_of_ble_eq_true rfl
theorem pin k : Statement (.pin k) := Nat.le_of_ble_eq_true rfl
theorem unpin k : Statement (.unpin k) := Nat.le_of_ble_eq_true rfl
theorem openWrite core k : Statement (.openWrite core k) := Nat.le_of_ble_eq_true rfl
theorem sealMessage k m : Statement (.sealMessage k m) := Nat.le_of_ble_eq_true rfl
theorem dropMessage k m : Statement (.dropMessage k m) := Nat.le_of_ble_eq_true rfl
theorem acked k : Statement (.acked k) := Nat.le_of_ble_eq_true rfl
theorem dropped k : Statement (.dropped k) := Nat.le_of_ble_eq_true rfl
theorem pinnedRead op lane : Statement (.pinnedRead op lane) := Nat.le_of_ble_eq_true rfl
theorem copyChunk k : Statement (.copyChunk k) := Nat.le_of_ble_eq_true rfl
theorem copyComplete k : Statement (.copyComplete k) := Nat.le_of_ble_eq_true rfl
theorem heldArrival wg bar : Statement (.heldArrival wg bar) := Nat.le_of_ble_eq_true rfl
theorem pfl2Complete op : Statement (.pfl2Complete op) := Nat.le_of_ble_eq_true rfl
theorem lapStart k : Statement (.lapStart k) := Nat.le_of_ble_eq_true rfl
theorem baleInject k noise : Statement (.baleInject k noise) := Nat.le_of_ble_eq_true rfl
theorem arm k lead : Statement (.arm k lead) := Nat.le_of_ble_eq_true rfl
theorem arrive k bale cluster : Statement (.arrive k bale cluster) := Nat.le_of_ble_eq_true rfl
theorem heldHeaderForward k bale cluster : Statement (.heldHeaderForward k bale cluster) := Nat.le_of_ble_eq_true rfl
theorem verdict core slot tapFails : Statement (.verdict core slot tapFails) := Nat.le_of_ble_eq_true rfl
theorem registerWrite off val : Statement (.registerWrite off val) := Nat.le_of_ble_eq_true rfl
theorem bind cxid : Statement (.bind cxid) := Nat.le_of_ble_eq_true rfl
theorem lock cxid : Statement (.lock cxid) := Nat.le_of_ble_eq_true rfl
theorem unlock cxid : Statement (.unlock cxid) := Nat.le_of_ble_eq_true rfl
theorem start cxid : Statement (.start cxid) := Nat.le_of_ble_eq_true rfl
theorem sealCx cxid : Statement (.sealCx cxid) := Nat.le_of_ble_eq_true rfl
theorem restore cxid : Statement (.restore cxid) := Nat.le_of_ble_eq_true rfl
theorem reset cxid : Statement (.reset cxid) := Nat.le_of_ble_eq_true rfl
theorem flr cxid : Statement (.flr cxid) := Nat.le_of_ble_eq_true rfl
theorem retire cxid : Statement (.retire cxid) := Nat.le_of_ble_eq_true rfl
theorem release cxid : Statement (.release cxid) := Nat.le_of_ble_eq_true rfl
theorem stop cxid : Statement (.stop cxid) := Nat.le_of_ble_eq_true rfl
theorem lockInterfaceRequest cxid session stream : Statement (.lockInterfaceRequest cxid session stream) := Nat.le_of_ble_eq_true rfl
theorem startInterfaceRequest cxid session : Statement (.startInterfaceRequest cxid session) := Nat.le_of_ble_eq_true rfl
theorem stopInterfaceRequest cxid session : Statement (.stopInterfaceRequest cxid session) := Nat.le_of_ble_eq_true rfl
theorem tdierror cxid : Statement (.tdierror cxid) := Nat.le_of_ble_eq_true rfl
theorem saved cxid : Statement (.saved cxid) := Nat.le_of_ble_eq_true rfl
theorem restored cxid : Statement (.restored cxid) := Nat.le_of_ble_eq_true rfl
theorem granaryReplay cxid : Statement (.granaryReplay cxid) := Nat.le_of_ble_eq_true rfl
theorem contextWatchdogExpiry cxid : Statement (.contextWatchdogExpiry cxid) := Nat.le_of_ble_eq_true rfl
theorem doorbell iface wridx stream : Statement (.doorbell iface wridx stream) := Nat.le_of_ble_eq_true rfl
theorem qbaseQsizeWrite iface r val : Statement (.qbaseQsizeWrite iface r val) := Nat.le_of_ble_eq_true rfl
theorem pause iface : Statement (.pause iface) := Nat.le_of_ble_eq_true rfl
theorem resume iface : Statement (.resume iface) := Nat.le_of_ble_eq_true rfl
theorem clearerr iface : Statement (.clearerr iface) := Nat.le_of_ble_eq_true rfl
theorem launch iface : Statement (.launch iface) := Nat.le_of_ble_eq_true rfl
theorem waitver iface : Statement (.waitver iface) := Nat.le_of_ble_eq_true rfl
theorem signal iface refused : Statement (.signal iface refused) := Nat.le_of_ble_eq_true rfl
theorem fence iface : Statement (.fence iface) := Nat.le_of_ble_eq_true rfl
theorem queueNop iface : Statement (.queueNop iface) := Nat.le_of_ble_eq_true rfl
theorem circuitInstall iface : Statement (.circuitInstall iface) := Nat.le_of_ble_eq_true rfl
theorem circuitRemove iface : Statement (.circuitRemove iface) := Nat.le_of_ble_eq_true rfl
theorem circuitRepace iface : Statement (.circuitRepace iface) := Nat.le_of_ble_eq_true rfl
theorem setlt iface : Statement (.setlt iface) := Nat.le_of_ble_eq_true rfl
theorem setlayout iface : Statement (.setlayout iface) := Nat.le_of_ble_eq_true rfl
theorem setkey iface : Statement (.setkey iface) := Nat.le_of_ble_eq_true rfl
theorem setgen iface : Statement (.setgen iface) := Nat.le_of_ble_eq_true rfl
theorem dsqLaunch cxid : Statement (.dsqLaunch cxid) := Nat.le_of_ble_eq_true rfl
theorem gtimeDue cxid kernel : Statement (.gtimeDue cxid kernel) := Nat.le_of_ble_eq_true rfl
theorem place : Statement .place := Nat.le_of_ble_eq_true rfl
theorem exited wg : Statement (.exited wg) := Nat.le_of_ble_eq_true rfl
theorem placementWait1ms cxid kernel : Statement (.placementWait1ms cxid kernel) := Nat.le_of_ble_eq_true rfl
theorem rcbPeriodBoundary cxid : Statement (.rcbPeriodBoundary cxid) := Nat.le_of_ble_eq_true rfl
theorem budgetExhausted cxid rcb : Statement (.budgetExhausted cxid rcb) := Nat.le_of_ble_eq_true rfl
theorem classAging core gctx split : Statement (.classAging core gctx split) := Nat.le_of_ble_eq_true rfl
theorem thermalMigration wg : Statement (.thermalMigration wg) := Nat.le_of_ble_eq_true rfl
theorem rateLimiterGo cxid cls : Statement (.rateLimiterGo cxid cls) := Nat.le_of_ble_eq_true rfl
theorem groupkill cxid core gctx : Statement (.groupkill cxid core gctx) := Nat.le_of_ble_eq_true rfl
theorem kabort cxid kernel : Statement (.kabort cxid kernel) := Nat.le_of_ble_eq_true rfl
theorem cxreset cxid : Statement (.cxreset cxid) := Nat.le_of_ble_eq_true rfl
theorem vflr cxid : Statement (.vflr cxid) := Nat.le_of_ble_eq_true rfl
theorem warmreset inp : Statement (.warmreset inp) := Nat.le_of_ble_eq_true rfl
theorem status cxid : Statement (.status cxid) := Nat.le_of_ble_eq_true rfl
theorem map op lane : Statement (.map op lane) := Nat.le_of_ble_eq_true rfl
theorem unmap op lane : Statement (.unmap op lane) := Nat.le_of_ble_eq_true rfl
theorem inval op lane : Statement (.inval op lane) := Nat.le_of_ble_eq_true rfl
theorem poolst op lane : Statement (.poolst op lane) := Nat.le_of_ble_eq_true rfl
theorem addlocal cxid : Statement (.addlocal cxid) := Nat.le_of_ble_eq_true rfl
theorem addfar cxid : Statement (.addfar cxid) := Nat.le_of_ble_eq_true rfl
theorem remove cxid : Statement (.remove cxid) := Nat.le_of_ble_eq_true rfl
theorem reclaim cxid : Statement (.reclaim cxid) := Nat.le_of_ble_eq_true rfl
theorem sdcreate cxid : Statement (.sdcreate cxid) := Nat.le_of_ble_eq_true rfl
theorem sdbind cxid : Statement (.sdbind cxid) := Nat.le_of_ble_eq_true rfl
theorem moved cxid page : Statement (.moved cxid page) := Nat.le_of_ble_eq_true rfl
theorem samplerTick cxid : Statement (.samplerTick cxid) := Nat.le_of_ble_eq_true rfl
theorem vpod cxid : Statement (.vpod cxid) := Nat.le_of_ble_eq_true rfl
theorem vkey cxid : Statement (.vkey cxid) := Nat.le_of_ble_eq_true rfl
theorem vswitch cxid : Statement (.vswitch cxid) := Nat.le_of_ble_eq_true rfl
theorem hint cxid : Statement (.hint cxid) := Nat.le_of_ble_eq_true rfl
theorem vclear cxid : Statement (.vclear cxid) := Nat.le_of_ble_eq_true rfl
theorem packetIngress k : Statement (.packetIngress k) := Nat.le_of_ble_eq_true rfl
theorem packetAck k : Statement (.packetAck k) := Nat.le_of_ble_eq_true rfl
theorem retransmit k : Statement (.retransmit k) := Nat.le_of_ble_eq_true rfl
theorem routeDown k : Statement (.routeDown k) := Nat.le_of_ble_eq_true rfl
theorem corunHint cxid start len : Statement (.corunHint cxid start len) := Nat.le_of_ble_eq_true rfl
theorem ptpEventMessage corr : Statement (.ptpEventMessage corr) := Nat.le_of_ble_eq_true rfl
theorem portTrained port up : Statement (.portTrained port up) := Nat.le_of_ble_eq_true rfl
theorem spdmMessage m : Statement (.spdmMessage m) := Nat.le_of_ble_eq_true rfl
theorem idleLevelEntry u : Statement (.idleLevelEntry u) := Nat.le_of_ble_eq_true rfl
theorem idleLevelExit u : Statement (.idleLevelExit u) := Nat.le_of_ble_eq_true rfl
theorem idlePrewake u due : Statement (.idlePrewake u due) := Nat.le_of_ble_eq_true rfl
theorem powerCap on : Statement (.powerCap on) := Nat.le_of_ble_eq_true rfl
theorem deviceStart inp : Statement (.deviceStart inp) := Nat.le_of_ble_eq_true rfl
theorem queueDrain iface : Statement (.queueDrain iface) := Nat.le_of_ble_eq_true rfl
theorem stsrAcknowledgement k : Statement (.stsrAcknowledgement k) := Nat.le_of_ble_eq_true rfl
theorem tokenAccrual cxid cls : Statement (.tokenAccrual cxid cls) := Nat.le_of_ble_eq_true rfl
theorem breakpointSet d : Statement (.breakpointSet d) := Nat.le_of_ble_eq_true rfl

end Sys2Proof.Laws.WordCount
end

