-- ==== Sys2Proof/Tests/Slice0.lean ====
section
/-! SUPPORT. Tests of the model: an ill-formed term for each check of WellFormed, words written out from the spec's encodings, a few
single steps, and for each statement a state and operands that meet its hypotheses. -/

namespace Sys2Proof.Tests

set_option Elab.async false

open Sys2Proof Sys2Proof.Machine

/-! ## WellFormed refuses -/

/-- R29: a set-flag above F11, a nonzero field without its valid bit, one flag named twice. -/
theorem test_wf_header : Instr.wf (.clauseHeader 0 true 12 false 0 0 false false) = false
    ∧ Instr.wf (.clauseHeader 0 false 1 false 0 0 false false) = false
    ∧ Instr.wf (.clauseHeader 0 false 0 true 15 0 false false) = false
    ∧ Instr.wf (.clauseHeader 0 true 3 true 3 0 false false) = false
    ∧ Instr.wf (.clauseHeader 0 true 11 true 3 0 false false) = true := by decide

/-- R182: no operand field under .lo but a literal. -/
theorem test_wf_laneSel : Instr.wf (.bcast 0 0 (.lo 0 1)) = false ∧ Instr.wf (.rdlane 0 0 (.lo 2 1)) = false := by decide

/-- R173: SCALEX.e8 takes no imm7. -/
theorem test_wf_scalex : Instr.wf (.scalex true 0 0 (.imm 1)) = false ∧ Instr.wf (.scalex false 0 0 (.imm 1)) = true := by decide

/-- R175, R176: equal formats, a half of an FP32 side, .t on a conversion from an integer. -/
theorem test_wf_convert : Instr.wf (.cvtf .f16 .f16 false false 0 0) = false ∧ Instr.wf (.cvtf .f32 .f16 true false 0 0) = false
    ∧ Instr.wf (.cvtf .f16 .f32 false true 0 0) = false ∧ Instr.wf (.cvti .fromsi true 0 0) = false := by decide

/-- R177, R178: a format of another row, a run beyond slot 127. -/
theorem test_wf_pack : Instr.wf (.pack8 .e2m1 0 0) = false ∧ Instr.wf (.pack8 .e4m3 0 125) = false
    ∧ Instr.wf (.pack6 .i8 0 0) = false ∧ Instr.wf (.pack6 .e3m2 0 125) = false ∧ Instr.wf (.pack4 .e4m3 0 0) = false
    ∧ Instr.wf (.pack4 .i4 0 121) = false ∧ Instr.wf (.unpk8 .f16 0 0) = false ∧ Instr.wf (.unpk8 .i8 125 0) = false
    ∧ Instr.wf (.unpk6 .e5m2 0 0) = false ∧ Instr.wf (.unpk6 .e2m3 125 0) = false ∧ Instr.wf (.unpk4 .e2m3 0 0) = false
    ∧ Instr.wf (.unpk4 .e2m1 121 0) = false := by decide

/-- R128: a table of no entries. -/
theorem test_wf_jtab : Instr.wf (.jtab 0 0 0 1) = false := by decide

/-- R219: data registers of 64 bits are even, those of 128 bits multiples of 4. -/
theorem test_wf_size : Instr.wf (.ld false .b64 1 0 0) = false ∧ Instr.wf (.lds false .b128 2 0 0) = false
    ∧ Instr.wf (.ldsr false .b64 3 0 0) = false ∧ Instr.wf (.sld false .b128 6 0 0) = false ∧ Instr.wf (.st .b64 1 0 0) = false
    ∧ Instr.wf (.sts .b64 1 0 0) = false ∧ Instr.wf (.stsr .b64 1 0 0) = false ∧ Instr.wf (.sst .b128 2 0 0) = false
    ∧ Instr.wf (.sow .b64 1 0 0) = false ∧ Instr.wf (.shst .b64 1 0 0) = false ∧ Instr.wf (.shld false .b128 2 0 0) = false := by
  decide

/-- R223 to R225: CAS outside ATOMS, D without a result, 64-bit operations that do not exist, odd pairs. -/
theorem test_wf_atomic : Instr.wf (.atom false false .cas false .chip .relaxed 0 0 0) = false
    ∧ Instr.wf (.atom false false .add true .chip .relaxed 1 0 0) = false
    ∧ Instr.wf (.atom false true .fadd false .chip .relaxed 0 0 0) = false
    ∧ Instr.wf (.atom false true .add false .chip .relaxed 0 0 1) = false
    ∧ Instr.wf (.atomc false false true .chip .relaxed 1 0 0) = false
    ∧ Instr.wf (.atomc false true false .chip .relaxed 1 0 0) = false
    ∧ Instr.wf (.atoms false false .add true 1 0 0) = false ∧ Instr.wf (.atoms false true .incw false 0 0 0) = false := by decide

/-- R357: a reserved capacity, an unaligned run, a run beyond S63, the address inside the run. -/
theorem test_wf_recv : Instr.wf (.recv false 3 0 40 false) = false ∧ Instr.wf (.recv false 1 4 40 false) = false
    ∧ Instr.wf (.recv false 0 0 3 false) = false ∧ Instr.wf (.recv false 0 60 3 false) = true := by decide

/-- R227: .u of a comparison without an order, odd 64-bit operands. -/
theorem test_wf_watch : Instr.wf (.watch false .eq true false .chip 0 0 0) = false
    ∧ Instr.wf (.watch false .ge false true .chip 1 0 0) = false ∧ Instr.wf (.watch false .ge false true .chip 0 0 1) = false := by
  decide

def args : CopyArgs :=
  { fs := false, dir := .g2g, d := 0, a := 0, b := 0, cb := false, ctn := 0, mc := false, ms := 0, shm := .none, sw := 0 }

/-- R257, R258, R266: each field rule of the copies. -/
theorem test_wf_copy : Instr.wf (.copyl args) = true ∧ Instr.wf (.copyl { args with d := 1 }) = false
    ∧ Instr.wf (.copyl { args with a := 1 }) = false ∧ Instr.wf (.copyl { args with cb := true, ctn := 16 }) = false
    ∧ Instr.wf (.copyl { args with ms := 1 }) = false ∧ Instr.wf (.copyl { args with sw := 1 }) = false
    ∧ Instr.wf (.copyl { args with dir := .g2s, shm := .write }) = false
    ∧ Instr.wf (.copyl { args with dir := .s2g, shm := .pin }) = false ∧ Instr.wf (.copyt { args with d := 1 }) = false
    ∧ Instr.wf (.copyg { args with b := 2 }) = false ∧ Instr.wf (.copyg { args with dir := .s2g }) = false
    ∧ Instr.wf (.copys { args with dir := .g2s }) = false ∧ Instr.wf (.copyx args) = false
    ∧ Instr.wf (.copyx { args with shm := .write }) = true := by decide

/-- R303, R305, R307, R310: records, C slots and MSTAT selectors out of range. -/
theorem test_wf_tile : Instr.wf (.mres 0 0 0 0 0 0 false .i4) = false ∧ Instr.wf (.mres 0 0 0 0 0 0 true .f16) = false
    ∧ Instr.wf (.mres 0 0 0 0 0 1 false .e4m3) = false ∧ Instr.wf (.mres 0 0 0 255 1 0 false .e4m3) = false
    ∧ Instr.wf (.mres 0 0 0 0 0 8 true .e4m3) = false ∧ Instr.wf (.mres 0 0 0 255 0 7 true .e4m3) = true
    ∧ Instr.wf (.mma false false 65 0 0 0) = false ∧ Instr.wf (.mmaLit false false 65 0 0 0 false 0) = false
    ∧ Instr.wf (.mmag false false 65 0 0 0 0 false 0) = false ∧ Instr.wf (.mstat 0 5) = false := by decide

/-- R133, R27, R355: SPAWN's run, special registers, SEND's payload. -/
theorem test_wf_system : Instr.wf (.spawn 0 121 0) = false ∧ Instr.wf (.sread false 0 0x008) = false
    ∧ Instr.wf (.sread true 0 0x010) = false ∧ Instr.wf (.sread false 1 0x012) = false ∧ Instr.wf (.sread false 64 0x020) = false
    ∧ Instr.wf (.sread false 0 0) = false ∧ Instr.wf (.swrite 0 0x023) = false ∧ Instr.wf (.send 5 0 0 0) = false
    ∧ Instr.wf (.send 1 0 0 1) = false ∧ Instr.wf (.send 4 0 0 56) = false := by decide

/-! ## Words from the spec's encodings -/

theorem test_dec_header : decode 0xF0010020 0 = .ok (.clauseHeader 1 false 0 false 0 4 false false) := by decide +kernel
theorem test_dec_iadd : decode 0x02428185 0 = .ok (.iadd false 10 3 (.imm 5)) := by decide +kernel
theorem test_dec_iadd_sat : decode 0x02E2C180 0x000186A0 = .ok (.iadd true 11 3 (.lit 100000)) := by decide +kernel
theorem test_dec_iamin : decode 0x0A460B01 0 = .ok (.iamin false 24 22 (.imm 1)) := by decide +kernel
theorem test_dec_icmp : decode 0x1A04C205 0 = .ok (.icmp false .lt 3 4 (.v 5)) := by decide +kernel
theorem test_dec_sel : decode 0x1943050B 0 = .ok (.sel 2 12 10 11) := by decide +kernel
theorem test_dec_ffma : decode 0x43220482 0 = .ok (.ffma 8 9 (.s 2)) := by decide +kernel
theorem test_dec_pack8 : decode 0x5A479400 0 = .ok (.pack8 .e4m3 30 40) := by decide +kernel
theorem test_dec_redf : decode 0x7A018600 0 = .ok (.redf .add 6 12) := by decide +kernel
theorem test_dec_xchg : decode 0x7C028584 0x04000005 = .ok (.xchg false 10 11 4 1 5) := by decide +kernel
theorem test_dec_sadd : decode 0x8040C20C 0 = .ok (.sadd false 3 4 (.imm 12)) := by decide +kernel
theorem test_dec_mop : decode 0x8D004103 0 = .ok (.mopAnd 1 2 3) := by decide +kernel
theorem test_dec_brnz : decode 0x9217FFFB 0 = .ok (.brnz 5 0x3FFFB) := by decide +kernel
theorem test_dec_jtab : decode 0x95000188 0x0028000C = .ok (.jtab 3 4 12 40) := by decide +kernel
theorem test_dec_calli : decode 0x980F8500 7 = .ok (.calli 31 5 7) := by decide +kernel
theorem test_dec_execm : decode 0x9B000100 0 = .ok (.execm 2) := by decide +kernel
theorem test_dec_ld : decode 0xA0000000 0 = .ok (.ld false .b32 0 0 0) := by decide +kernel
theorem test_dec_spawn : decode 0xE0050400 0x28 = .ok (.spawn 20 8 0x28) := by decide +kernel
theorem test_dec_winb : decode 0xE5000002 0 = .ok (.winb 2) := by decide +kernel
theorem test_dec_trap : decode 0xE8000007 0 = .ok (.trap 7) ∧ decode 0xE8800003 0 = .ok (.trapHost 3) := by decide +kernel
theorem test_dec_tret : decode 0xE9000001 0 = .ok .tretRetry := by decide +kernel
theorem test_dec_sread : decode 0xEB010012 0 = .ok (.sread false 4 0x012) := by decide +kernel
theorem test_dec_swrite : decode 0xEC00C020 0 = .ok (.swrite 3 0x020) := by decide +kernel
theorem test_dec_enq : decode 0xED010308 0 = .ok (.enq 4 3 4) := by decide +kernel

/-- A reserved opcode, a reserved bit and an odd pair are refused. -/
theorem test_dec_refused : (∀ i, decode 0x1F000000 0 ≠ .ok i) ∧ (∀ i, decode 0x9A000001 0 ≠ .ok i) ∧ ∀ i, decode 0x99000080 0 ≠ .ok i := by
  refine ⟨fun i h => ?_, fun i h => ?_, fun i h => ?_⟩
  · exact absurd h (by rw [show decode 0x1F000000 0 = .error .reservedOpcode by decide +kernel]; simp)
  · exact absurd h (by rw [show decode 0x9A000001 0 = .error .unusedField by decide +kernel]; simp)
  · exact absurd h (by rw [show decode 0x99000080 0 = .error .oddPair by decide +kernel]; simp)

/-! ## A machine in which one group issues -/

/-- A split in a clause of two instructions with flags F0 and F1, and its group at window base 128 of an allotment of 256 registers, so
that slot 127 is the last register. -/
def P0 : Split := fetchSplit 0
def G0 : Machine.Group := { fetchGroup 0 with wb := 128 }
def base : State := State.reset.withFetchWord 32 0
def mk (g : Machine.Group) (ops : List PendOp := []) : State := { base with groups := [g], ops := ops }
def withSplit (p : Split) : Machine.Group := { G0 with splits := [p] }

theorem mk_issues {g : Machine.Group} {p : Split} {ops : List PendOp} (h : g.ref = { core := 0, gctx := 0 })
    (hp : g.split? 0 = some p) : Issues (mk g ops) g p :=
  ⟨by show List.find? _ [g] = some g; simp [h]; rfl, hp⟩

theorem mk_readable {g : Machine.Group} {u : Uses} (h : ∀ r ∈ u.v, g.wb + r < g.allot) : Readable (mk g) g u :=
  ⟨h, by simp [mk], by simp [mk], by simp [mk]⟩

theorem issues0 : Issues (mk G0) G0 P0 := mk_issues rfl rfl

theorem readable0 {u : Uses} (h : ∀ r ∈ u.v, r < 128) : Readable (mk G0) G0 u :=
  mk_readable fun r hr => by have := h r hr; show 128 + r < 256; omega

/-! ## The hypotheses of the statements hold somewhere -/

theorem wit_LaneOperandFormsRead : 31 < 32 := by decide

theorem wit_LaneIntegerResults : Issues (mk G0) G0 P0 ∧ Readable (mk G0) G0 (laneUses 127 127 (.v 127))
    ∧ Readable (mk G0) G0 (unaryUses 127 (.s 63))
    ∧ Readable (mk G0) G0 ((opnd64Uses (.v 63)).append { v := [126, 127, 126, 127] })
    ∧ Readable (mk G0) G0 ((opndUses (.lit 1)).append { v := [126, 127, 126, 127] })
    ∧ Readable (mk G0) G0 { v := [127, 127, 127], m := [7] } ∧ Readable (mk G0) G0 ((opndUses (.v 127)).append { v := [127], m := [7] }) := by
  refine ⟨issues0, ?_, ?_, ?_, ?_, ?_, ?_⟩ <;> exact readable0 (by decide)

theorem wit_LaneFloatResults : Issues (mk G0) G0 P0 ∧ Readable (mk G0) G0 (laneUses 127 0 (.imm 127)) := ⟨issues0, readable0 (by decide)⟩

/-- A negative finite number and a NaN at the ends of their ranges. -/
theorem wit_FloatSpecialInputs : (0x80000001#32).toNat > 0x80000000 ∧ (0xFF7FFFFF#32).toNat < 0xFF800000
    ∧ (0x7F800001#32).toNat % 2 ^ 31 > 0x7F800000 ∧ (0xFFFFFFFF#32).toNat % 2 ^ 31 > 0x7F800000 := by decide

/-- Ties: 3 / 2 rounds to 2 and 5 / 2 to 2. -/
theorem test_round_ties : (roundShift .rne false 3 1 false).1 = 2 ∧ (roundShift .rne false 5 1 false).1 = 2
    ∧ 2 * 3 = (2 * 1 + 1) * 2 ^ 1 := by decide

/-- One, two and no active lanes; lanes that vote apart. -/
theorem wit_LaneMovementVotesAndReductions : Issues (mk G0) G0 P0
    ∧ Readable (mk G0) G0 ((uopndUses (.s 63)).append { v := [127, 127] }) ∧ Readable (mk G0) G0 { v := [127], m := [7] }
    ∧ Readable (mk G0) G0 { v := [127], s := [63] }
    ∧ Issues (mk (withSplit { P0 with exec := 3 })) (withSplit { P0 with exec := 3 }) { P0 with exec := 3 }
    ∧ ((List.range 32).filter fun l => (3#32).getLsbD l) = [0, 1] ∧ ((List.range 32).filter fun l => (4#32).getLsbD l) = [2]
    ∧ ((List.range 32).filter fun l => (0#32).getLsbD l) = []
    ∧ (∀ l, l < 32 → G0.getV 127 l = 0)
    ∧ ({ G0 with v := [(255 * 32, 1)] } : Machine.Group).getV 127 0 ≠ ({ G0 with v := [(255 * 32, 1)] } : Machine.Group).getV 127 1 :=
  ⟨issues0, readable0 (by decide), readable0 (by decide), readable0 (by decide), mk_issues rfl rfl, by decide, by decide, by decide,
    by decide, by decide⟩

theorem wit_UniformAndMaskResults : Issues (mk G0) G0 P0 ∧ Readable (mk G0) G0 ((uopndUses (.s 63)).append { s := [63, 63] })
    ∧ Readable (mk G0) G0 { s := [62, 63, 62, 63] } ∧ Readable (mk G0) G0 { m := [7, 7, 7] } :=
  ⟨issues0, readable0 (by decide), readable0 (by decide), readable0 (by decide)⟩

theorem free0 : (mk G0).unchecked G0 P0 = false ∧ P0.flag? true = some 1 ∧ P0.flag? false = some 0 ∧ (mk G0).flagRoom G0 0 1 = true
    ∧ P0.exec ≠ 0 ∧ P0.wait = .none ∧ P0.toMatch = [] := by decide +kernel

def four : List Split := [P0, { P0 with id := 1 }, { P0 with id := 2 }, { P0 with id := 3 }]
def entry : StackEntry := .deferred 0x5000 1

/-- BRM: no lane, every lane, some lanes with a free id, some lanes with four splits and a stack that has room or not. -/
theorem wit_BranchesCallsAndTables : Issues (mk G0) G0 P0 ∧ Readable (mk G0) G0 { m := [7] }
    ∧ (let g : Machine.Group := { G0 with m := [(0, 0xFFFFFFFF), (1, 1)] }
       P0.exec &&& G0.getM 7 = 0 ∧ P0.exec &&& ~~~(g.getM 0) = 0 ∧ P0.exec &&& g.getM 0 ≠ 0 ∧ P0.exec &&& g.getM 1 ≠ 0
       ∧ P0.exec &&& ~~~(g.getM 1) ≠ 0 ∧ g.split? 1 = none ∧ g.split? 0 ≠ none)
    ∧ (let g : Machine.Group := { G0 with m := [(1, 1)], splits := four }
       Issues (mk g) g P0 ∧ (mk g).unchecked g P0 = false ∧ ∀ id, id < 4 → g.split? id ≠ none)
    ∧ (let p := { P0 with stack := List.replicate 32 entry }
       Issues (mk (withSplit p)) (withSplit p) p ∧ 32 ≤ p.stack.length ∧ P0.stack.length < 32)
    ∧ Readable (mk G0) G0 { s := [62, 63, 62, 63] } :=
  ⟨issues0, readable0 (by decide), by decide +kernel, ⟨mk_issues rfl rfl, by decide +kernel, by decide +kernel⟩,
    ⟨mk_issues rfl rfl, by decide, by decide⟩, readable0 (by decide)⟩

/-- JTAB: with its entry, at the bound, below it with a table misaligned, and below it with an entry that can be read. -/
theorem wit_TableJump : Readable (mk G0) G0 { s := [63, 62, 63] }
    ∧ (let p : Split := { P0 with wait := .got 0x4000 }
       Issues (mk (withSplit p)) (withSplit p) p ∧ p.wait = .got 0x4000)
    ∧ (0#16).toNat ≤ (G0.getS 63).toNat ∧ (G0.getS 63).toNat < (1#16).toNat
    ∧ ({ G0 with s := [(62, 4)] } : Machine.Group).getSPair 31 = 4
    ∧ (let g : Machine.Group := { G0 with s := [(62, 0x4000)] }
       let r := (mk g).checkLanes g .read 8 (fun _ => true) [(32, 0x4000)]
       (g.getSPair 31).toNat = 0x4000 ∧ r.2.2.cause = 0 ∧ r.2.2.waits = false) :=
  ⟨readable0 (by decide), ⟨mk_issues rfl rfl, rfl⟩, by decide +kernel, by decide +kernel, by decide +kernel, by decide +kernel⟩

/-- WINB at the last window inside the allotment and at the first beyond it, and a word with and without its reserved bits. -/
theorem wit_WinbMovesTheWindow : 32 * (7#3).toNat < G0.allot ∧ ({ G0 with allot := 224 } : Machine.Group).allot ≤ 32 * (7#3).toNat
    ∧ (let g : Machine.Group := { G0 with allot := 224 }
       Issues (mk g) g P0) ∧ (0xE5000007#32).extractLsb' 24 8 = 0xE5#8 ∧ (0xE5000007#32).extractLsb' 3 21 = 0
    ∧ (0xE5000008#32).extractLsb' 24 8 = 0xE5#8 ∧ (0xE5000008#32).extractLsb' 3 21 ≠ 0 :=
  ⟨by decide, by decide, mk_issues rfl rfl, by decide, by decide, by decide, by decide⟩

def elected : Machine.Group := { G0 with elected := some (0, 5) }

theorem wit_ExecMasksFollowTheLaneSet : Issues (mk elected) elected P0 ∧ Readable (mk elected) elected { m := [7] }
    ∧ elected.elected = some (P0.id, 5) ∧ (∀ sv, G0.elected ≠ some (P0.id, sv)) ∧ (0x9B000380#32).extractLsb' 24 8 = 0x9B#8
    ∧ (0x9B000380#32).extractLsb' 14 10 = 0 ∧ (0x9B000380#32).extractLsb' 10 4 = 0 ∧ (0x9B000380#32).extractLsb' 0 7 = 0
    ∧ (0x9C000000#32).extractLsb' 24 8 = 0x9C#8 ∧ (0x9C000001#32).extractLsb' 0 24 ≠ 0 :=
  ⟨mk_issues rfl rfl, mk_readable (by decide), rfl, (fun sv h => by cases h), by decide, by decide, by decide, by decide,
    by decide, by decide⟩

/-- ELECT without and with an election, JOIN alone, beside a sibling, and with a deferred entry. -/
theorem wit_PlainElectionAndJoin : Issues (mk G0) G0 P0 ∧ (mk G0).unchecked G0 P0 = false ∧ G0.elected = none
    ∧ Issues (mk elected) elected P0 ∧ (mk elected).unchecked elected P0 = false ∧ elected.elected ≠ none
    ∧ P0.stack = [] ∧ G0.splits = [P0]
    ∧ (let g : Machine.Group := { G0 with splits := four }
       ∃ n q, n ≠ P0.id ∧ g.split? n = some q ∧ q.wait ≠ .join)
    ∧ (let p := { P0 with stack := [entry] }
       Issues (mk (withSplit p)) (withSplit p) p ∧ (mk (withSplit p)).unchecked (withSplit p) p = false) :=
  ⟨issues0, by decide +kernel, rfl, mk_issues rfl rfl, by decide +kernel, by decide, rfl, rfl,
    ⟨1, _, by decide, rfl, by decide⟩, ⟨mk_issues rfl rfl, by decide +kernel⟩⟩

def pending (k : OpKind) (u : PendSet := {}) : PendOp :=
  { id := 7, grp := G0.ref, split := 0, flag := 0, kind := k, pend := u, pc := 0x4000, insn := 0, rpc := 0x3FFC, issued := 0 }

/-- A header with its flags clear and with F0 set, behind a region's end with and without RE, and at a deferred entry. -/
theorem wit_ClauseHeaderStartsItsClause :
    (let p : Split := { P0 with clause := none }
     Issues (mk (withSplit p)) (withSplit p) p ∧ (∀ q ∈ (withSplit p).splits, canMerge p q = false)
     ∧ p.ended = false ∧ p.stack = [] ∧ ∀ f, f < 12 → (0x001#12).getLsbD f = true → ∀ o ∈ (mk (withSplit p)).ops, o.flag ≠ f)
    ∧ (∃ f, f < 12 ∧ (0x001#12).getLsbD f = true
      ∧ ∃ o ∈ (mk G0 [pending (.copy 3)]).ops, o.grp = G0.ref ∧ o.flag = f)
    ∧ (let p : Split := { P0 with clause := none, ended := true }
       Issues (mk (withSplit p)) (withSplit p) p ∧ p.ended = true ∧ ∀ q ∈ (withSplit p).splits, canMerge p q = false)
    ∧ (let p : Split := { P0 with clause := none, stack := [.deferred 0x4000 1] }
       Issues (mk (withSplit p)) (withSplit p) p ∧ p.pc = 0x4000) :=
  ⟨⟨mk_issues rfl rfl, by decide +kernel, rfl, rfl, by simp [mk]⟩, ⟨0, by decide, by decide, _, List.mem_singleton.2 rfl, rfl, rfl⟩,
    ⟨mk_issues rfl rfl, rfl, by decide +kernel⟩, ⟨mk_issues rfl rfl, rfl⟩⟩

/-- A load of no lane, of lanes that pass and of lanes that fail their checks. -/
theorem wit_LoadsAttachOneReply : Readable (mk G0) G0 { v := runRegs 124 4 ++ pairRegs 63 } ∧ Readable (mk G0) G0 { s := runRegs 60 4 ++ pairRegs 31 }
    ∧ (let q : Split := { P0 with exec := 0 }
       Issues (mk (withSplit q)) (withSplit q) q ∧ q.flag? true = some 1 ∧ activeEas q (fun _ => 0) = [])
    ∧ activeEas P0 (fun _ => 0) ≠ []
    ∧ (let r := (mk G0).checkLanes G0 .read 16 (fun _ => true) (activeEas P0 fun _ => 0)
       r.2.2.cause = 0 ∧ r.2.2.waits = false)
    ∧ ((mk G0).checkLanes G0 .read 16 (fun _ => true) (activeEas P0 fun _ => 2 ^ 42)).2.2.cause ≠ 0
    ∧ (scratchFail (mk G0) G0 16 (localLanes P0 fun _ => 4080)).cause = 0
    ∧ (scratchFail (mk G0) G0 16 (localLanes P0 fun _ => 4096)).cause ≠ 0
    ∧ localLanes P0 (fun _ => 0) ≠ [] ∧ clusterLanes G0 P0 127 0 4 ≠ [] :=
  ⟨readable0 (by decide), readable0 (by decide), ⟨mk_issues rfl rfl, by decide, by decide⟩, by decide, by decide +kernel, by decide +kernel,
    by decide +kernel, by decide +kernel, by decide, by decide +kernel⟩

/-- A store of one lane takes its line; SOW and SST read their registers. -/
theorem wit_GlobalStoresFillLineAndQueue : Readable (mk G0) G0 { v := runRegs 124 4 ++ pairRegs 63, s := [63] }
    ∧ (let r := checkStore (mk G0) G0 4 (fun _ => true) [(0, 0x1000)]
       (∀ e ∈ r.2, e.bad.cause = 0) ∧ (∀ e ∈ r.2, e.bad.waits = false)
       ∧ (storeBytes r.1 (siteOf G0 P0) false 0 4 (fun _ => 7) (r.2.flatMap (·.ok))).isSome = true)
    ∧ ((mk G0).storeLine (siteOf G0 P0) 0x480 { cx := 1, pod := false, n := 9 } 0 1 0 false).isSome = true
    ∧ ((mk G0).storeLine (siteOf G0 P0) 0x480 { cx := 1, pod := false, n := 9 } 0 1 2 true).isSome = true :=
  ⟨readable0 (by decide), by decide +kernel, by decide +kernel, by decide +kernel⟩

def oneLane : Split := { P0 with exec := 0x80000000 }

/-- An atomic that passes and one that fails; an ATOMS of lane 31; a scratchpad store by the workgroup of the group. -/
theorem wit_AtomicsAndScratchWrites : Readable (mk G0) G0 { v := runRegs 126 2 ++ pairRegs 63 ++ runRegs 126 2 }
    ∧ (let r := checkAtom (mk G0) G0 (some .add) true [(0, 0x1000)]
       r.2.2.cause = 0 ∧ r.2.2.waits = false ∧ r.2.1 ≠ [])
    ∧ (checkAtom (mk G0) G0 none false [(0, 0x1002)]).2.2.cause ≠ 0
    ∧ Released (mk G0) G0 P0 .group
    ∧ (let g := withSplit oneLane
       Issues (mk g) g oneLane ∧ (mk g).flagRoom g 0 1 = true ∧ (mk g).unchecked g oneLane = false ∧ lanesOf oneLane.exec = [31]
       ∧ (scratchFail (mk g) g 8 (clusterLanes g oneLane 127 0 8)).cause = 0
       ∧ scratchAccs (mk g) g (clusterLanes g oneLane 127 0 8) = [(31, 0, 0)] ∧ (mk g).stsrAhead g 0 = false
       ∧ ((mk g).wg? g.cx g.kernel 0).isSome = true)
    ∧ ((mk G0).wgOf G0).isSome = true ∧ (mk G0).stsrAhead G0 G0.wg = false
    ∧ (scratchFail (mk G0) G0 16 (clusterLanes G0 P0 127 0 16)).cause = 0 :=
  ⟨readable0 (by decide), by decide +kernel, by decide +kernel, (fun h => by cases h),
    ⟨mk_issues rfl rfl, by decide +kernel, by decide +kernel, by decide, by decide +kernel, by decide +kernel, by decide +kernel,
      by decide +kernel⟩,
    by decide +kernel, by decide +kernel, by decide +kernel⟩

def queued : PqEntry := { id := 3, key := { cx := 1, pod := false, n := 9 }, data := 0, mask := 1, push := 0 }
/-- Core 0 holds a publish-queue entry. -/
def withPq : State := (mk G0).updCore 0 fun c => { c with pq := [queued] }

theorem group_withPq : Issues withPq G0 P0 := ⟨by decide +kernel, by decide +kernel⟩

/-- A release with nothing to wait for and one that waits; a watch aligned and misaligned; a prefetch on a free and a busy tag. -/
theorem wit_PhasesWatchAndPrefetch : wideScope .chip = true ∧ wideScope .group = false
    ∧ (mk G0).marker 0 .chip = .marker [] [] [] 0 ∧ (mk G0).markerDone [] [] [] 0 = true
    ∧ (∃ a b c d, withPq.marker 0 .chip = .marker a b c d ∧ withPq.markerDone a b c d = false)
    ∧ (∀ e ∈ ((mk G0).core 0).pq, ∀ x ∈ ((mk G0).flushKeys G0 0 128).2, e.key.same x = false)
    ∧ Readable (mk G0) G0 { s := runRegs 62 2 ++ pairRegs 31 ++ runRegs 62 2 }
    ∧ (let g : Machine.Group := { G0 with s := [(62, 4)] }
       (g.getSPair 31).toNat % (4 * 2) ≠ 0 ∧ (g.getSPair 31).toNat % (4 * 1) = 0)
    ∧ (∃ k, ((mk G0).resolve G0 none 0 .read).2 = .ok k) ∧ (∀ o ∈ ((mk G0).resolve G0 none 0 .read).1.ops, o.flag ≠ flagRecorded)
    ∧ Readable (mk G0) G0 { s := pairRegs 31 ++ pairRegs 31 } ∧ (mk G0).tagOut G0 63 = false
    ∧ (let s := { mk G0 with wgs := [{ fetchWg with tags := [(63, { st := .ready, status := 0 })] }] }
       Issues s G0 P0 ∧ s.tagOut G0 63 = true) := by
  refine ⟨rfl, rfl, by decide +kernel, by decide +kernel, ?_, by decide +kernel, readable0 (by decide), by decide +kernel, ?_,
    by decide +kernel, readable0 (by decide), by decide +kernel, ⟨rfl, rfl⟩, by decide +kernel⟩
  · exact ⟨[3], [], [], 0, by decide +kernel, by decide +kernel⟩
  · exact ⟨{ cx := 1, pod := false, n := 0 }, by decide +kernel⟩

def sheafCtx : Context := { fetchContext with sheafFrames := [7], sheafFixed := true }
def sheafS (g : Machine.Group) : State := { mk g with ctxs := [sheafCtx] }
def opener (n : Nat) : Machine.Group := { G0 with opens := (List.range n).map fun k => (0, k), pins := (List.range n).map fun k => (0, k, 0) }
def gotP : Split := { P0 with wait := .got 5 }

theorem sheaf_issues {g : Machine.Group} {p : Split} (h : g.ref = { core := 0, gctx := 0 }) (hp : g.split? 0 = some p) :
    Issues (sheafS g) g p :=
  ⟨by show List.find? _ [g] = some g; simp [h]; rfl, hp⟩

/-- A stalled and a fresh sheaf word; a full and an empty open list and pin list; a version open and not, a pin held and not; a
descriptor of the context's own and none. -/
theorem wit_SheafInstructions : Issues (sheafS (opener 1)) (opener 1) P0 ∧ Issues (mk (withSplit gotP)) (withSplit gotP) gotP
    ∧ Readable (mk G0) G0 { s := [63, 63] } ∧ Readable (mk G0) G0 { v := runRegs 124 4 ++ pairRegs 63, s := [63] }
    ∧ 4 ≤ (opener 4).opens.length ∧ (opener 3).opens.length < 4 ∧ 8 ≤ (opener 8).pins.length ∧ (opener 7).pins.length < 8
    ∧ (0, 0) ∈ (opener 1).opens ∧ (0, 0) ∉ G0.opens ∧ (∃ q ∈ (opener 1).pins, (q.1, q.2.1) = (0, 0))
    ∧ (∀ q ∈ G0.pins, (q.1, q.2.1) ≠ (0, 0))
    ∧ (sheafS (opener 1)).unchecked (opener 1) P0 = false ∧ (sheafS (opener 1)).flagRoom (opener 1) 0 1 = true
    ∧ (mk G0).shTarget 1 0 = .bad ∧ (sheafS G0).shTarget 1 0 = .own ∧ ((sheafS G0).desc? 1 0).isSome = true := by
  refine ⟨sheaf_issues rfl rfl, mk_issues rfl rfl, readable0 (by decide), readable0 (by decide), ?_⟩
  decide +kernel

def sheafXlat : Xlat := { cx := 1, page := 0, size := 65536, frame := 0, w := true, x := false, sh := true, far := false, kds := 0, d := true }
/-- Core 0 translates page 0 as a sheaf page; sheaf 0 has the one member that the bytes of its descriptor give. -/
def sheafW (g : Machine.Group) : State :=
  let s := (sheafS g).updCore 0 fun c => { c with tlb := [sheafXlat] }
  { s with mem := wrMem (wrMem s.mem (7 * 65536) 4 (2 ^ 24)) (7 * 65536 + 0x28) 4 8 }

/-- One lane writes the open version; every lane reads in the pinned sheaf. -/
theorem wit_SheafStoresAndLoads :
    (let q : Split := { P0 with exec := 1 }
     let g : Machine.Group := { opener 1 with splits := [q] }
     let r := (sheafW g).checkLanes g .openWrite 4 (fun k => k.pod || k.sh != 0) (activeEas q fun _ => 0)
     r.2.2.cause = 0 ∧ r.2.2.waits = false ∧ r.2.1 = [{ lane := 0, va := 0, key := { cx := 1, pod := false, n := 0, sh := 1 } }]
     ∧ (r.1.core 0).pq.length < Config.pqCap)
    ∧ (let r := (sheafW (opener 1)).checkLanes (opener 1) .read 4 (fun _ => true) (activeEas P0 fun _ => 0)
       r.2.2.cause = 0 ∧ r.2.2.waits = false ∧ ∀ x ∈ r.2.1, r.1.inSheaf 1 0 x.va x.key = true) := by
  decide +kernel

def podCtx : Context :=
  { fetchContext with vchips := [(3, 0x8000123400050001)], routes := [(1, BitVec.ofNat 128 (2 ^ 63 + 2 * 2 ^ 56))] }
def podS (g : Machine.Group) (c : Context) : State := { mk g with ctxs := [c] }
def withMsg (n : Nat) : Context := { podCtx with gran := { recs := [(0, 0, .msg 3 (List.replicate n 9))] } }
def noRegion : Split := { P0 with region := none }

theorem pod_issues {g : Machine.Group} {p : Split} {c : Context} (h : g.ref = { core := 0, gctx := 0 }) (hp : g.split? 0 = some p) :
    Issues (podS g c) g p :=
  ⟨by show List.find? _ [g] = some g; simp [h]; rfl, hp⟩

theorem pod_credits (k : Packet) (h : k.loopback = false) : (podS G0 podCtx).destHolds k = false := by
  have e : (podS G0 podCtx).heldDests = [] := rfl
  simp [State.destHolds, h, e]

/-- SEND with reserved bits, without a mapped destination, and over a route; RECV with a message that fits, one that does not, and none. -/
theorem wit_MessagesAreSentAndReceived : Issues (podS G0 podCtx) G0 P0 ∧ (podS G0 podCtx).unchecked G0 P0 = false
    ∧ Readable (mk G0) G0 { s := (63#6).toNat :: (62#6).toNat :: runRegs (48#6).toNat (2 ^ (4#3).toNat) }
    ∧ (0x10000000#32).extractLsb' 28 4 ≠ 0 ∧ (0x00001003#32).extractLsb' 28 4 = 0 ∧ (podS G0 podCtx).vpodHolds 1 = false
    ∧ podCtx.egress 4 0 = .error statusNovchip ∧ (podCtx.egress 3 1).isOk = true ∧ (podS G0 podCtx).bar.link.pkgid = 0
    ∧ (∀ k : Packet, k.loopback = false → (podS G0 podCtx).destHolds k = false)
    ∧ Issues (podS (withSplit noRegion) (withMsg 4)) (withSplit noRegion) noRegion ∧ noRegion.region = none
    ∧ ((podS (withSplit noRegion) (withMsg 4)).nextMsg 1 2).2 = some (0, 3, List.replicate 4 9)
    ∧ ((podS (withSplit noRegion) (withMsg 5)).nextMsg 1 2).2 = some (0, 3, List.replicate 5 9)
    ∧ ((podS (withSplit noRegion) podCtx).nextMsg 1 1).2 = none
    ∧ Readable (mk G0) G0 { s := (0#6).toNat :: runRegs (4#6).toNat 4 } := by
  refine ⟨pod_issues rfl rfl, by decide +kernel, readable0 (by decide), by decide, by decide, by decide +kernel, by decide +kernel,
    by decide +kernel, by decide +kernel, pod_credits, pod_issues rfl rfl, rfl, by decide +kernel, by decide +kernel,
    by decide +kernel, readable0 (by decide)⟩

def onCore (f : Core → Core) : State := (mk G0).updCore 0 f
def onWg (f : Workgroup → Workgroup) : State := { mk G0 with wgs := [f fetchWg] }

theorem onCore_issues {f : Core → Core} : Issues (onCore f) G0 P0 := ⟨rfl, rfl⟩
theorem onWg_issues {f : Workgroup → Workgroup} : Issues (onWg f) G0 P0 := ⟨rfl, rfl⟩

/-- S2:S3 a global address, S4 an offset, S6 a mask of two workgroups, S8 to S11 the words of B. -/
def copier (off bytes mask : Nat) : Machine.Group :=
  { G0 with s := [(2, 0x1000), (4, BitVec.ofNat 32 off), (6, BitVec.ofNat 32 mask), (8, BitVec.ofNat 32 bytes), (9, 1), (10, 16)] }
def fetchIn : CopyArgs := { args with dir := .g2s, d := 4, a := 2, b := 8, cb := true, ctn := 3, ms := 6 }
def busyRegion : Split := { P0 with region := P0.region.map fun rc => { rc with copies := List.replicate 97 [0] } }

/-- A copy that meets each outcome of R259: tag, mask, alignment, range, quota, and issue, of each kind. -/
theorem wit_CopiesCheckAndIssue : Issues (mk (copier 0 64 1)) (copier 0 64 1) P0 ∧ Readable (mk G0) G0 (copyUses .s fetchIn)
    ∧ (mk (copier 0 64 1)).flagRoom (copier 0 64 1) 0 32 = true ∧ (lanesOf P0.exec).length = 32
    ∧ { fetchIn with cb := false }.cb = false ∧ fetchIn.cb = true
    ∧ (copier 0 64 0).getS 6 = 0 ∧ (copier 0 64 1).getS 6 ≠ 0
    ∧ ((copier 0 64 1).getS 6).toNat < 2 ^ (((mk G0).wgOf G0).map (·.launchSize)).getD 1
    ∧ (let c := fun (k : CopyKind) off bytes => (copyOf (mk (copier off bytes 1)) (copier off bytes 1) P0 k fetchIn).1
       (c .l 0 3).aligned 3 = false ∧ (c .l 0 64).aligned 64 = true ∧ (c .l 4092 8).inBounds 4096 8 1 = false
       ∧ (c .l 4032 64).inBounds 4096 64 1 = true ∧ (c .x 0 64).aligned 64 = true ∧ (c .g 0 64).aligned 64 = true
       ∧ (c .g 0 64).inBounds 4096 64 1 = true ∧ (c .s 0 64).inBounds 4096 64 1 = true ∧ (c .l 0 64).bytes ≠ 0 ∧ (c .g 0 64).bytes ≠ 0)
    ∧ 128 < busyRegion.copyCount + 32 ∧ P0.copyCount + 32 ≤ 128 ∧ 32 ≤ (mk G0).frontFree G0.ref := by
  refine ⟨mk_issues rfl rfl, readable0 (by decide), ?_⟩
  decide +kernel

def tagged (st : TagSt) : Workgroup → Workgroup := fun w => { w with tags := [(5, { st := st, status := 9 })] }
def tagMask : Machine.Group := { G0 with s := [(0, 32), (2, 33)] }

/-- Tag 5 idle, outstanding and READY, alone and beside idle tag 0. -/
theorem wit_CopiesAndTags : Readable (mk G0) G0 { s := pairRegs 31 ++ pairRegs 0 }
    ∧ (tagMask.getSPair 0 = 32 ∧ tagMask.getSPair 1 = 33 ∧ tagMask.getSPair 2 = 0)
    ∧ (((onWg (tagged .busy)).wgOf G0).bind fun w => w.tag? 5).isSome = true
    ∧ (((onWg (tagged .ready)).wgOf G0).bind fun w => w.tag? 5).map (·.st) = some .ready
    ∧ (((onWg id).wgOf G0).bind fun w => w.tag? 5).isSome = false ∧ ((onWg (tagged .ready)).wgOf G0).isSome = true := by
  refine ⟨readable0 (by decide), ?_⟩
  decide +kernel

def barred (b : Barrier) : Workgroup → Workgroup := fun w => { w with barriers := [(15, b)] }
def opened : Barrier := { isOpen := true, expa := 2, expb := 8, expb0 := 8 }

/-- A barrier closed, open and idle, with an arrival, with bytes, at its last arrival, and with a copy out. -/
theorem wit_BarrierInstructionResults : P0.wait = .none ∧ (mk G0).scratchRead G0 P0 = true ∧ P0.arrived = []
    ∧ (∀ b, ∃ w, (onWg (barred b)).wgOf G0 = some w ∧ w.bar 15 = b)
    ∧ (opened.arra = 0 ∧ opened.arrb = 0 ∧ opened.out = 0 ∧ opened.held = [] ∧ (onWg (barred opened)).barWaited G0 15 = false)
    ∧ ({} : Barrier).isOpen = false ∧ opened.isOpen = true ∧ { opened with out := 1 }.out ≠ 0
    ∧ opened.arra + 1 < opened.expa ∧ { opened with arra := 1, arrb := 8 }.arra + 1 = opened.expa ∧ opened.expb ≤ { opened with arrb := 8 }.arrb
    ∧ { opened with arra := 2 }.expa ≤ { opened with arra := 2 }.arra ∧ Readable (mk G0) G0 { s := [63, 63] } :=
  ⟨rfl, by decide +kernel, rfl, fun b => ⟨_, rfl, rfl⟩, by decide +kernel, rfl, rfl, by decide, by decide, by decide, by decide, by decide,
    readable0 (by decide)⟩

def other : GRef := { core := 0, gctx := 1 }
def rec1 (o : GRef) : QRec := { owner := o, base := 0, rows := 32, fmt := .e4m3, sc := false, soff := 0 }
def job1 : Job := { op := 7, grp := G0.ref, issued := 0, acc := false, c := 0, q := 0, w := 0, steps := 1, wadv := true, ainc := 32 }
def board1 (st : BoardSt) : Board := { st := st, op := 7, lowest := true, circ := 0, layer := 0, bale := 0, nw := false, target := 0 }

/-- Records and slots of the group, of another group and of none; in use and not; a board that captures and one that waits. -/
theorem wit_TileSlotsAndRecords : Readable (mk G0) G0 { s := [63, 63] } ∧ ((mk G0).core 0).recFills 7 = false
    ∧ ((mk G0).core 0).slotFills 7 = false ∧ (mk G0).scratchSize G0 = 4096
    ∧ (let c := (onCore fun c => { c with recs := [(7, rec1 G0.ref)], slots := [(7, { owner := some G0.ref })] }).core 0
       c.rec? 7 = some (rec1 G0.ref) ∧ c.inUse 7 = false ∧ c.recFills 7 = false ∧ (c.slot 7).owner = some G0.ref
       ∧ (c.slot 7).board = none ∧ c.mmaBusy 7 0 = false
       ∧ ∃ e ∈ c.recs, e.1 ≠ 6 ∧ e.2.base < (15#8).toNat + 1 ∧ (15#8).toNat < e.2.base + e.2.rows)
    ∧ (let c := (onCore fun c => { c with recs := [(0, { rec1 G0.ref with flags := [0] })], jobs := [job1], slots := [(0, { owner := some G0.ref })] }).core 0
       c.inUse 0 = true ∧ c.mmaBusy 0 0 = true)
    ∧ (let c := (onCore fun c => { c with recs := [(0, rec1 other)], slots := [(0, { owner := some other })] }).core 0
       c.rec? 0 = some (rec1 other) ∧ (rec1 other).owner ≠ G0.ref ∧ (c.slot 0).owner ≠ none ∧ (c.slot 0).owner ≠ some G0.ref)
    ∧ decFmt ((0x00010010#32).extractLsb' 0 4) = .ok .e4m3 ∧ Fmt.matrix .e4m3 = true ∧ Fmt.wide .e4m3 = false
    ∧ (0x00010010#32).extractLsb' 29 3 = 0 ∧ (0x00010010#32).extractLsb' 5 11 = 0 := by
  refine ⟨readable0 (by decide), ?_⟩
  decide +kernel

def ready1 : Core → Core := fun c =>
  { c with recs := [(0, rec1 G0.ref)], slots := [(0, { owner := some G0.ref, st := .full })] }
def wide : Machine.Group := { G0 with wb := 0 }

/-- A job that passes every check and one that does not. -/
theorem wit_TileInstructions :
    Readable (mk wide) wide { v := runRegs (64#7).toNat 64 } ∧ Readable (mk G0) G0 { v := [127, 127] }
    ∧ (let c := (onCore ready1).core 0
       c.jobCheck G0 { job1 with steps := 1 } = none ∧ c.recFills 0 = false ∧ c.slotFills 0 = false ∧ c.jobs.length + 32 ≤ Config.jobCap)
    ∧ (((onCore id).core 0).jobCheck G0 job1).isSome = true
    ∧ ∀ m, m < 16 → ((List.range 32).map fun l => (G0.getV 127 l).toNat).getD m 0 + 256 ≤ (mk G0).scratchSize G0 := by
  refine ⟨mk_readable (by decide), readable0 (by decide), ?_⟩
  decide +kernel

def circ (st : CircSt) (lap : Nat) : Circuit :=
  { id := 1, cx := 1, num := 15, engine := 0, st := st, mode := 0, lanes := 1, dir := 0, pace := 0, lapLimit := 0, layers := [(0, 2)],
    rcb := 0, epoch := 0, period := 0, lap := lap }
def onCirc (c : Circuit) : State := { mk G0 with circuits := [c] }

/-- LAPWAIT on a circuit that is not installed, beyond a layer, reached, over and still to come; UNBOARD of each kind of slot. -/
theorem wit_WindrowWordsResults : (onCirc (circ .running 0)).circ? 1 0 = none ∧ ((onCirc (circ .running 0)).circ? 1 15).isSome = true
    ∧ (circ .running 0).layers[1]? = none ∧ (circ .running 0).layers[0]? = some (0, 2)
    ∧ (circ .running 1).reached 0 0 0 0 = true ∧ (circ .running 0).reached 0 0 0 1 = false ∧ (circ .running 0).over = false
    ∧ (circ .ended 0).reached 0 0 0 1 = false ∧ (circ .ended 0).over = true
    ∧ Issues (mk (withSplit gotP)) (withSplit gotP) gotP
    ∧ (((onCore fun c => { c with slots := [(7, { owner := some G0.ref, board := some (board1 .capturing) })] }).core 0).slot 7).board
        = some (board1 .capturing)
    ∧ (board1 .armed).st ≠ .capturing ∧ G0.status = .live
    ∧ Readable (mk G0) G0 { s := (63#6).toNat :: pairRegs 31 } := by
  refine ⟨?_, ?_, ?_, ?_, ?_, ?_, ?_, ?_, ?_, mk_issues rfl rfl, ?_, ?_, ?_, readable0 (by decide)⟩ <;> decide +kernel

def offerOf (op : Nat) (r : GRef) (gidx partner : Nat) : Offer :=
  { op := op, grp := r, cx := 1, kernel := 0, wg := 0, gidx := gidx, partnerWg := 0, partnerGrp := partner, tag := 5,
    data := List.replicate 32 1, mask := 1, posted := 0 }
def G1 : Machine.Group := { G0 with ref := other, gidx := 1 }
def exchange : State :=
  { base with groups := [G0, G1], offers := [offerOf 7 G0.ref 0 1, offerOf 8 other 1 0],
              ops := [pending (.xchg 255 1 none), { pending (.xchg 255 1 none) with id := 8, grp := other }] }
def lonely (cycle : Nat) : State :=
  { mk G0 [pending (.xchg 255 1 none)] with offers := [offerOf 7 G0.ref 0 1], cycle := cycle }

/-- Two offers that name each other; one offer before and at its timeout. -/
theorem wit_ExchangesPairOrTimeOut : Readable (mk G0) G0 { v := [127, 127], s := [63] }
    ∧ (offerOf 7 G0.ref 0 1).meets (offerOf 8 other 1 0) = true ∧ (offerOf 7 G0.ref 0 1).alike (offerOf 8 other 1 0) = false
    ∧ exchange.group? G0.ref = some G0 ∧ exchange.group? other = some G1 ∧ G0.ref ≠ G1.ref ∧ G1.status = .live
    ∧ (lonely 0).group? G0.ref = some G0 ∧ (lonely (2 ^ 22 - 1)).cycle < 0 + 2 ^ 22 ∧ 0 + 2 ^ 22 ≤ (lonely (2 ^ 22)).cycle := by
  refine ⟨readable0 (by decide), ?_⟩
  decide +kernel

/-- REGION: ranges inside the allotment, beyond it, and beyond slot 127, inside a recipe and not. -/
theorem wit_RegionSpawnAndRole :
    (let ranges := [((96#7).toNat, (32#7).toNat), ((0#7).toNat, (0#7).toNat)].filter fun r => r.2 != 0
     (∀ r ∈ ranges, r.1 + r.2 ≤ 128) ∧ ∀ r ∈ ranges, G0.wb + r.1 + r.2 ≤ G0.allot)
    ∧ (let g : Machine.Group := { G0 with allot := 128 }
       Issues (mk g) g P0 ∧ ¬ (g.wb + 96 + 32 ≤ g.allot))
    ∧ (∀ r ∈ [((127#7).toNat, (2#7).toNat), ((0#7).toNat, (0#7).toNat)].filter fun r => r.2 != 0, 128 < r.1 + r.2)
    ∧ P0.recipe = false ∧ (let p : Split := { P0 with recipe := true }
       Issues (mk (withSplit p)) (withSplit p) p)
    -- SPAWN with and without room
    ∧ Readable (mk G0) G0 { v := runRegs (120#7).toNat 8, s := [63] } ∧ (mk G0).freeGctx 0 = some 1
    ∧ lowestFree 32 (fun n => ((mk G0).groupsOf 1 0 0).any fun h => h.gidx == n) = some 1 ∧ G0.allot ≤ (mk G0).freeRegs 0
    ∧ (let g : Machine.Group := { G0 with allot := 1800 }
       Issues (mk g) g P0 ∧ ¬ g.allot ≤ (mk g).freeRegs 0)
    -- ROLE: the bad word 0, the smallest and the largest, alone and with siblings, too few registers
    ∧ G0.priv = true ∧ (let g : Machine.Group := { G0 with priv := false }
       Issues (mk g) g P0) ∧ Readable (mk G0) G0 { s := [63, 62] ++ pairRegs 31 }
    ∧ ((9#32).extractLsb' 0 4).toNat > 8 ∧ (8#32) &&& 0xFFFFE8F0 = 0 ∧ (0x10#32) &&& 0xFFFFE8F0 ≠ 0
    ∧ (∀ o ∈ (mk G0).ops, o.grp ≠ G0.ref) ∧ G0.splits.length ≤ 1 ∧ 1 < four.length ∧ 32 * 8 ≤ (mk G0).freeRegs 0 + G0.allot
    ∧ (let g : Machine.Group := { G0 with allot := 200 }
       let h : Machine.Group := { G1 with allot := 1800 }
       let s : State := { base with groups := [g, h] }
       Issues s g P0 ∧ s.freeRegs 0 + g.allot < 32 * 8) := by
  refine ⟨by decide, ⟨mk_issues rfl rfl, by decide⟩, by decide, rfl, mk_issues rfl rfl, readable0 (by decide), by decide +kernel,
    by decide +kernel, by decide +kernel, ⟨mk_issues rfl rfl, by decide +kernel⟩, rfl, mk_issues rfl rfl, readable0 (by decide), by decide,
    by decide, by decide, by decide, by decide, by decide, by decide +kernel, ⟨⟨rfl, rfl⟩, by decide +kernel⟩⟩

/-- EXIT of some lanes, of all with a deferred entry, with a sibling, alone, and with an operation left; a workgroup that has counted and
one that has not, at the last count and before it; a device-side queue that is full and one that is not. -/
theorem wit_ExitTriggerAndEnqueue : Issues (mk G0) G0 P0 ∧ (mk G0).unchecked G0 P0 = false ∧ Released (mk G0) G0 P0 .pod
    ∧ P0.lset &&& ~~~P0.exec = 0 ∧ P0.exec ≠ 0
    ∧ (let p := { P0 with exec := 1 }
       Issues (mk (withSplit p)) (withSplit p) p ∧ Released (mk (withSplit p)) (withSplit p) p .pod ∧ p.lset &&& ~~~p.exec ≠ 0)
    ∧ (let p := { P0 with stack := [entry] }
       Issues (mk (withSplit p)) (withSplit p) p ∧ Released (mk (withSplit p)) (withSplit p) p .pod)
    ∧ (∃ q ∈ four, q.id ≠ P0.id ∧ q.wait ≠ .join) ∧ G0.splits = [P0]
    ∧ (let o := pending (.mma 1)
       Issues (mk G0 [o]) G0 P0 ∧ (mk G0 [o]).unchecked G0 P0 = false ∧ o.grp = G0.ref ∧ o.kind.isCopy = false ∧ o.flag < 12)
    ∧ ((mk G0).kernel? 1 0).isSome = true ∧ ((mk G0).wgOf G0).map (·.counted) = some false
    ∧ ((onWg fun w => { w with counted := true }).wgOf G0).map (·.counted) = some true
    ∧ 256 ≤ ({ fetchContext with dsq := List.replicate 256 { kd := 0, arg := 0, rcb := 0, site := siteOf G0 P0 } } : Context).dsq.length ∧ fetchContext.dsq.length < 256
    ∧ Readable (mk G0) G0 { s := (63#6).toNat :: pairRegs 31 ++ pairRegs 30 } := by
  have rel : ∀ g p, g.ref = { core := 0, gctx := 0 } → p.wait = .none → Released (mk g) g p .pod := by
    intro g p hg hp _ pq st pk c h
    have hm : (mk g).marker g.ref.core .pod = .marker [] [] [] 0 := by rw [hg]; rfl
    rcases h with h | ⟨_, h⟩
    · rw [hp] at h; cases h
    · rw [hm] at h; cases h; rfl
  exact ⟨issues0, by decide +kernel, rel _ _ rfl rfl, by decide, by decide, ⟨mk_issues rfl rfl, rel _ _ rfl rfl, by decide⟩,
    ⟨mk_issues rfl rfl, rel _ _ rfl rfl⟩, ⟨{ P0 with id := 1 }, by decide, by decide, by decide⟩, rfl, ⟨mk_issues rfl rfl, by decide +kernel, rfl, rfl, by decide⟩,
    by decide +kernel, by decide +kernel, by decide +kernel, by decide +kernel, by decide +kernel, readable0 (by decide)⟩

def frame (cause : BitVec 22) (allow : BitVec 3) : TrapRec :=
  { cause := cause, raised := cause, lanes := 1, pc := 0x4000, rpc := 0x3FFC, addr := 0, nextpc := 0x4004, detail := 0, allow := allow, ppriv := false,
    split := P0, cls := 0, elected := none }
def handler (r : TrapRec) : Machine.Group := { G0 with trapRec := some r }
def user : Machine.Group := { G0 with priv := false }
def hostP : Split := { P0 with wait := .host }

/-- SREAD and SWRITE at both levels, with and without a context. -/
theorem wit_SpecialRegisterAccess : Readable (mk G0) G0 { s := [(126#7).toNat, 127], v := [127] } ∧ ((mk G0).ctx? G0.cx).isSome = true
    ∧ G0.priv = true ∧ Issues (mk user) user P0 ∧ user.priv = false :=
  ⟨readable0 (by decide), by decide +kernel, rfl, mk_issues rfl rfl, rfl⟩

/-- An entry of a group with a context, whose save slot is readable; a group in its handler. -/
theorem wit_ExceptionEntry : (mk G0).group? G0.ref = some G0 ∧ G0.split? P0.id = some P0 ∧ G0.tactive = false
    ∧ ((mk G0).ctx? G0.cx).isSome = true
    ∧ (∀ n, fetchContext.slotAddr G0.ref / 128 ≤ n → n ≤ (fetchContext.slotAddr G0.ref + 511) / 128 →
      (mk G0).poisoned n ((mk G0).domain G0.cx 0) = false)
    ∧ (mk (handler (frame 1 7))).group? G0.ref = some (handler (frame 1 7)) ∧ (handler (frame 1 7)).tactive = true := by
  refine ⟨rfl, rfl, rfl, by decide +kernel, ?_, rfl, rfl⟩
  intro n h1 h2
  have e1 : fetchContext.slotAddr G0.ref / 128 = 8192 := by decide +kernel
  have e2 : (fetchContext.slotAddr G0.ref + 511) / 128 = 8195 := by decide +kernel
  have : n = 8192 ∨ n = 8193 ∨ n = 8194 ∨ n = 8195 := by omega
  rcases this with rfl | rfl | rfl | rfl <;> decide +kernel

/-- A slot at the end of the allotment and one beyond it, a register pending and none, a valid and an absent flag. -/
theorem wit_IssueChecksTrapInOrder : (∃ r ∈ [128], G0.allot ≤ G0.wb + r) ∧ ¬ (∃ r ∈ [127], G0.allot ≤ G0.wb + r)
    ∧ (let o := pending (.mma 1) { vw := [255] }
       Issues (mk G0 [o]) G0 P0 ∧ o ∈ (mk G0 [o]).ops ∧ o.grp = G0.ref ∧ G0.wb + 127 ∈ o.pend.vw)
    ∧ (let p : Split := { P0 with clause := none }
       Issues (mk (withSplit p)) (withSplit p) p ∧ p.flag? true = none) ∧ P0.flag? true = some 1 :=
  ⟨by decide, by decide, ⟨mk_issues rfl rfl, by decide, rfl, by decide⟩, ⟨mk_issues rfl rfl, rfl⟩, rfl⟩

/-- TRAP.host outside a handler, at its first issue, and waiting with HOSTACK clear and set. -/
theorem wit_SoftwareTraps : G0.trapRec = none ∧ Issues (mk (handler (frame 1 7))) (handler (frame 1 7)) P0 ∧ P0.wait ≠ .host
    ∧ (let g : Machine.Group := { handler (frame 1 7) with splits := [hostP] }
       Issues (mk g) g hostP ∧ hostP.wait = .host ∧ (mk g).hostack g = 0
       ∧ (let s := { mk g with mem := wrMem (mk g).mem (fetchContext.slotAddr g.ref + 0x3C) 4 1 }
          Issues s g hostP ∧ s.hostack g ≠ 0)) :=
  ⟨rfl, mk_issues rfl rfl, by decide, mk_issues rfl rfl, rfl, by decide +kernel, ⟨by decide +kernel, rfl⟩, by decide +kernel⟩

/-- TRET with causes left, with a mode that ALLOW does not hold, and through each mode: behind a region's end and inside a region, with
NEXTPC in the clause and not. -/
theorem wit_SoftwareTrapsAndReturn : Issues (mk (handler (frame 1 7))) (handler (frame 1 7)) P0 ∧ (frame 1 7).cause ≠ 0
    ∧ Issues (mk (handler (frame 0 1))) (handler (frame 0 1)) P0 ∧ (frame 0 1).cause = 0 ∧ (frame 0 1).allow.getLsbD 0 = true
    ∧ (frame 0 1).allow.getLsbD 2 = false ∧ (frame 0 7).allow.getLsbD 2 = true ∧ (frame 0 7).allow.getLsbD 1 = true
    ∧ (∀ o ∈ (mk (handler (frame 0 7))).ops, o.pend.sw = [] ∧ o.pend.mw = [])
    ∧ (frame 0 1).split.ended = false ∧ (frame 0 1).split.region.isSome = true
    ∧ { frame 0 1 with split := { P0 with ended := true } }.split.ended = true ∧ (frame 0 7).nextpc ≠ (frame 0 7).pc
    ∧ { frame 0 7 with nextpc := 0x4000 }.nextpc = (frame 0 7).pc :=
  ⟨mk_issues rfl rfl, by decide, mk_issues rfl rfl, rfl, by decide, by decide, by decide, by decide, by simp [mk], rfl, rfl, rfl, by decide,
    rfl⟩

/-! ### Events outside the cores -/

def key9 : LineKey := { cx := 1, pod := false, n := 9 }
def withOp (k : OpKind) : State := mk G0 [pending k]

theorem opOf {k : OpKind} : OpOf (withOp k) G0 (pending k) := ⟨by simp [withOp, mk, State.op?, pending], rfl, rfl, rfl⟩

def accs : List LaneAcc := [{ lane := 31, va := 0, key := key9, off := 124 }]
def got : LineWait := { key := key9, st := .got, data := 5 }
def lane31 : AtomLane := { lane := 31, va := 0, key := key9, off := 124, v := 1, reply := some 7 }
def put : StsrMsg := { id := 3, core := 0, cx := 1, kernel := 0, wg := 0, off := 4095, bytes := [1] }

/-- A load per lane and per group with its line, a scratchpad load, an atomic with its reply, a store on its way. -/
theorem wit_OperationsReturnTheirValues :
    OpOf (withOp (.load false 255 (.word 4) accs [got] 1)) G0 (pending (.load false 255 (.word 4) accs [got] 1))
    ∧ OpOf (withOp (.load true 63 (.word 4) accs [got] 1)) G0 (pending (.load true 63 (.word 4) accs [got] 1))
    ∧ (pending (.load true 63 (.word 4) accs [got] 1)).flag < 12 ∧ (∀ w ∈ [got], w.st = .got ∧ w.poison = false ∧ w.refused = false)
    ∧ (accs.map (·.lane)).Nodup ∧ (∀ a ∈ accs, a.lane < 32)
    ∧ OpOf (withOp (.lds 255 (.word 4) [(31, 0, 4092)])) G0 (pending (.lds 255 (.word 4) [(31, 0, 4092)]))
    ∧ ((withOp (.lds 255 (.word 4) [(31, 0, 4092)])).anyWg? 1 0 0).isSome = true
    ∧ OpOf (withOp (.atom true (some .add) false .chip .relaxed 254 [lane31])) G0
        (pending (.atom true (some .add) false .chip .relaxed 254 [lane31]))
    ∧ G0.ref.gctx < 32 ∧ lane31.lane < 32 ∧ lane31.fate = 0 ∧ lane31.reply ≠ none
    ∧ (let s := { mk G0 with stsrs := [put] }
       (s.anyWg? 1 0 0).map (·.exited) = some false) :=
  ⟨opOf, opOf, by decide, by decide, by decide, by decide, opOf, by decide +kernel, opOf, by decide, by decide, rfl, by decide,
    by decide +kernel⟩

/-- A context whose limiter of class 0 admits nothing, and its state. -/
def limited : Context := { fetchContext with buckets := [(0, { rate := 1, burst := 1, count := 0, lastUs := 0 })] }

/-- A request of class 0 is held. -/
theorem limited_holds (t : State) (h : t.ctxs = [limited]) (c : t.cycle = 0) (rest : List Nat) : t.admits 1 (clsHbm :: rest) = false := by
  have e : t.ctx? 1 = some limited := by unfold State.ctx?; rw [h]; rfl
  have b : (bucketOf limited clsHbm).rate = 1 := rfl
  have k : ((bucketOf limited clsHbm).accrue 0).count = 0 := by decide
  simp [State.admits, e, List.all_cons, State.nowUs, c, b, k]

/-- A request that the limiter admits, and one that it holds. -/
theorem wit_Admission : (∀ l, (mk G0).admits 1 l = true)
    ∧ (let s := { mk G0 with ctxs := [limited] }
       s.admits 1 (s.lineClasses 0 key9) = false ∧ ∀ rest, s.admits 1 (clsHbm :: rest) = false) := by
  refine ⟨fun l => ?_, ?_, fun rest => ?_⟩
  · show (l.all fun k => (bucketOf fetchContext k).rate == 0 || _) = true
    exact List.all_eq_true.2 fun k _ => rfl
  · exact limited_holds _ rfl rfl _
  · exact limited_holds _ rfl rfl rest

def needed : LineWait := { key := key9, st := .needed }
def fill9 : FillMsg := { core := 0, key := key9, data := 5, op := 7 }

/-- A line still to be fetched, a copy on its way, and a fill that may be installed and one that may not. -/
theorem wit_FetchesCarryTheHomesLine :
    (let o := pending (.load false 255 (.word 4) accs [needed] 1)
     let s := mk G0 [o]
     s.op? o.id = some o ∧ o.kind.lines[0]? = some needed ∧ s.merging key9 = false ∧ s.fetchAhead o key9 = false ∧ s.ccopies = [])
    ∧ (let s := { mk G0 with cfills := [{ key := key9, sector := 0, data := 5 }] }
       s.cfills[0]? = some { key := key9, sector := 0, data := 5 })
    ∧ (let o := pending (.load false 255 (.word 4) accs [{ needed with st := .served }] 1)
       let s := { mk G0 [o] with fills := [fill9] }
       s.op? 7 = some o ∧ o.kind.lines[0]? = some { needed with st := .served } ∧ key9.same key9 = true
       ∧ (s.core 0).acqs = fill9.acqs ∧ (s.core 0).line? key9 = none ∧ (s.core 0).l1.length < (s.core 0).l1Cap
       ∧ (s.core 0).hasRoom key9 = true)
    ∧ (let dirty : L1Line := { key := { key9 with n := 10 }, st := .D, data := 0, valid := 1, dirty := 1 }
       ({ (mk G0).core 0 with l1kib := 1, l1 := List.replicate 8 dirty } : Core).hasRoom key9 = false)
    ∧ { fill9 with install := false }.install = false := by
  decide +kernel

def pqOf (e : PqEntry) : State := (mk G0).updCore 0 fun c => { c with pq := [e] }
def copy9 : CCopy := { key := key9, sector := 1, data := 0 }

/-- An entry of a line without copies and with one; a merged entry with a push for lane 31 of the cluster. -/
theorem wit_PublicationReachesMemory :
    ((pqOf queued).core 0).pq = [queued] ∧ queued.phase = .waiting ∧ queued.ow = none ∧ (pqOf queued).merging key9 = false
    ∧ queued.key.pod = false ∧ queued.homesLeft ≤ 1
    ∧ ((pqOf queued).descOf key9 = false ∧ (pqOf queued).poisoned 9 ((pqOf queued).domain 1 0) = false ∧ (pqOf queued).copiesOf key9 = [])
    ∧ ({ pqOf queued with ccopies := [copy9] }.copiesOf key9) ≠ []
    ∧ (let e := { queued with phase := .merged, push := 0x80000000 }
       ((pqOf e).core 0).pq = [e] ∧ ((pqOf e).homeRead key9).2 = false) := by
  decide +kernel

theorem wit_PlainLine : PlainLine (pqOf queued) key9 :=
  ⟨rfl, rfl, by decide +kernel, by decide +kernel, by decide +kernel⟩

def push9 : PushMsg := { core := 0, key := key9, data := 5, sites := [siteOf G0 P0], entry := 3 }
def aside : Workgroup → Workgroup := fun w => { w with core := 1 }

/-- An invalidation of each kind; a push to a core of the context and to one without it. -/
theorem wit_LinesFillPublishAndPush :
    (let s := { mk G0 with invals := [{ key := key9, core := none }, { key := key9, core := some 1 }] }
     (s.invals[0]?).map (·.core) = some none ∧ (s.invals[1]?).map (·.core) = some (some 1) ∧ s.merges = [])
    ∧ (let s := { mk G0 with pushes := [push9] }
       (∃ w ∈ s.wgs, w.core = push9.core ∧ w.cx = push9.key.cx ∧ w.exited = false)
       ∧ ((s.core 0).l1.filter fun l => l.st == .P).length < 64 ∧ (s.core 0).line? key9 = none
       ∧ (s.core 0).hasRoom key9 = true)
    ∧ (let s := { onWg aside with pushes := [push9] }
       (∀ w ∈ s.wgs, ¬ (w.core = push9.core ∧ w.cx = push9.key.cx ∧ w.exited = false)) ∧ s.groups = [G0]
       ∧ push9.sites = [siteOf G0 P0] ∧ G0.cx = (siteOf G0 P0).cx ∧ G0.kernel = (siteOf G0 P0).kernel ∧ G0.wg = (siteOf G0 P0).wg
       ∧ G0.gidx = (siteOf G0 P0).gidx) := by
  decide +kernel

def unperformed : AtomLane := { lane31 with reply := none }
def atomKind : OpKind := .atom false (some .add) false .chip .relaxed 255 [unperformed]
def watchKind (v : DWord) (held : Option Nat) : OpKind := .watch (9 * 128 + 124) key9 124 .eq false false v .chip 63 held none

/-- A request that may be performed; a watch whose comparison holds and one whose does not, new and returned, and a slice with room. -/
theorem wit_RepliesAndHomeAccesses :
    (let s := withOp atomKind
     s.anyOp? 7 = some (pending atomKind) ∧ (pending atomKind).lane? 31 = some unperformed
     ∧ s.atomReady (pending atomKind) unperformed [unperformed] = true ∧ s.merging key9 = false ∧ unperformed.off + 4 ≤ 128
     ∧ s.descOf key9 = false ∧ s.poisoned 9 (s.domain 1 0) = false ∧ s.copiesOf key9 = [])
    ∧ OpOf (withOp (watchKind 0 none)) G0 (pending (watchKind 0 none))
    ∧ OpOf { withOp (watchKind 0 (some watchReturned)) with cycle := 2250 } G0 (pending (watchKind 0 (some watchReturned)))
    ∧ (pending (watchKind 0 none)).flag < 12
    ∧ (let s := withOp (watchKind 0 none)
       (s.homeRead key9).2 = false ∧ watchHolds .eq false false (lineNat (s.homeRead key9).1 124 4) 0 = true
       ∧ watchHolds .eq false false (lineNat (s.homeRead key9).1 124 4) 1 = false)
    ∧ (∀ n, (withOp (watchKind 0 none)).watchesIn n < 256)
    ∧ (∀ n, 256 ≤ (mk G0 (List.replicate 256 (pending (watchKind 0 (some n))))).watchesIn n) := by
  refine ⟨by decide +kernel, opOf, ⟨by decide +kernel, rfl, rfl, rfl⟩, by decide, by decide +kernel, ?_, ?_⟩
  · intro n
    have h : base.rwatches = [] := rfl
    simp [State.watchesIn, withOp, mk, pending, watchKind, h]
  · intro n
    unfold State.watchesIn
    refine Nat.le_add_right_of_le ?_
    show 256 ≤ List.length (List.filter _ (List.replicate 256 (pending (watchKind 0 (some n)))))
    rw [List.filter_eq_self.2 fun o ho => by rw [List.eq_of_mem_replicate ho]; simp [pending, watchKind], List.length_replicate]

def ask (kind : ShMsgKind) : ShMsg := { id := 9, kind := kind, cx := 1, sheaf := 0, ver := 1, grp := G0.ref }
/-- A context with one sheaf of one member, 1 KiB at 0x200000 in a sheaf page; its descriptor starts with the words w0 and 0, and pins. -/
def asked (m : ShMsg) (w0 pins : Nat) (ops : List PendOp := []) : State :=
  { mk G0 ops with
    ctxs := [sheafCtx], shMsgs := [m]
    mem := [(0x2000, 8, 0x3001), (0x3008, 8, 64 * 2 ^ 16 + 2 ^ 56 + 7), (7 * 65536, 4, w0 + 2 ^ 24), (7 * 65536 + 8, 4, pins),
            (7 * 65536 + 0x20, 8, 0x200000), (7 * 65536 + 0x28, 4, 8)].foldl (fun m w => wrMem m w.1 w.2.1 w.2.2) base.mem }
def descAt (s : State) : Desc := ((s.desc? 1 0).map (·.2)).getD default

/-- A descriptor closed with a valid and an invalid member, open by the writer and by another; a pin with room and with none; an unpin, a
seal and a drop of the open version. -/
theorem wit_DescriptorHomeDecides :
    (let s := asked (ask .open_) 0 0
     s.shTarget 1 0 = .own ∧ (s.desc? 1 0).isSome = true ∧ s.poisoned (7 * 512) (s.domain 1 0) = false ∧ s.groups = [G0]
     ∧ G0.cx = (ask .open_).cx ∧ G0.kernel = (ask .open_).writer.kernel ∧ G0.wg = (ask .open_).writer.wg ∧ G0.gidx = (ask .open_).writer.gidx
     ∧ (descAt s).st = 0 ∧ s.membersOk 1 (descAt s) = true ∧ (ask .open_).copy = none)
    ∧ (let s := asked (ask .open_) (2 ^ 24) 0
       (descAt s).st = 0 ∧ s.membersOk 1 (descAt s) = false)
    ∧ (let s := asked (ask .open_) (2 ^ 28) 0
       (descAt s).st = 1 ∧ (descAt s).writer = (ask .open_).writer)
    ∧ (let s := asked (ask .open_) (2 * 2 ^ 28) 0
       (descAt s).st ≠ 0 ∧ (descAt s).st ≠ 1)
    ∧ (let m := { ask .pin with op := some 7 }
       let s := asked m 0 65534 [pending (.shpin 63 0)]
       (descAt s).pins < 65535 ∧ s.membersOk 1 (descAt s) = true ∧ s.op? 7 = some (pending (.shpin 63 0))
       ∧ 65535 ≤ (descAt (asked m 0 65535)).pins)
    ∧ (descAt (asked (ask .unpin) 0 1)).pins ≠ 0
    ∧ (let s := asked (ask .seal) (2 ^ 28 + 2 ^ 12) 0
       s.openOut (ask .seal) = false ∧ (descAt s).st = 1 ∧ (descAt s).openv = (ask .seal).ver) := by
  decide +kernel

/-- No core holds a copy of the descriptor's line: the copies are of other pieces of the state. -/
theorem wit_descriptor_copies : (asked (ask .open_) 0 0).copiesOf { cx := 1, pod := false, n := 7 * 512 } = [] := by decide +kernel

def sealing (drop : Bool) (left : List Nat) : ShProc := { drop := drop, cx := 1, sheaf := 0, ver := 1, left := left }
def openEntry : PqEntry :=
  { queued with key := { cx := 1, pod := false, n := 64 * 512, sh := 32 }, ow := some { id := 0, ver := 1, owner := 0, copy := false } }
def pinned : List (LaneAcc × Option (Option LineData)) :=
  [({ lane := 31, va := 0x200000, key := { cx := 1, pod := false, n := 64 * 512, sh := 32 }, off := 0 }, none)]

/-- A seal and a drop with a member home left and with none; an open write of the open version; a pinned read of a page never written. -/
theorem wit_MemberHomesServeVersions :
    (let s := { asked (ask .seal) 0 0 with shMsgs := [], shProcs := [sealing false [3]] }
     s.shProcs[0]? = some (sealing false [3]) ∧ (sealing false [3]).left[0]? = some 3 ∧ (sealing true [3]).drop = true
     ∧ (sealing true []).left = [] ∧ (sealing false []).msg = none ∧ (sealing false []).remote = none ∧ (s.desc? 1 0).isSome = true)
    ∧ (let s := (asked (ask .seal) (2 ^ 28 + 2 ^ 12) 0).updCore 0 fun c => { c with pq := [openEntry] }
       (s.core 0).pq = [openEntry] ∧ openEntry.phase = .waiting ∧ openEntry.key.pod = false
       ∧ (s.openWriteAt 1 openEntry.key 0 0 1 openEntry.data openEntry.mask none 0).2 = true)
    ∧ (let s := asked (ask .seal) 0 0 [pending (.shld 255 1 0 1 pinned)]
       s.op? 7 = some (pending (.shld 255 1 0 1 pinned)) ∧ (pinned.map (·.1.lane)).Nodup
       ∧ s.foreignLine 1 (s.ownerOf 1 0).1 (s.ownerOf 1 0).2 openEntry.key = false
       ∧ (s.setTag (64 * 512) { id := 5, valid := true, cur := true }).foreignLine 1 0 0 openEntry.key = true) := by
  decide +kernel

def copyL : Copy :=
  { id := 5, kind := .l, grp := G0.ref, cx := 1, kernel := 0, wg := 0, site := siteOf G0 P0, dir := .g2s, dst := 4032, src := 0x1000, bytes := 64,
    cb := false, ctn := 63, targets := [(0, 0)], shm := .none, shId := 0, shVer := 0 }
def copyP : Copy := { copyL with kind := .p, bytes := 1, targets := [], regD := 62 }

/-- A run into the last bytes of a scratchpad, a copy with all its bytes placed, a prefetch of a line that translates and of one that does
not, a held arrival. -/
theorem wit_CopiesMoveAndComplete :
    (let s := { mk G0 with copies := [copyL] }
     copyL.runs 2048 0 64 = [(0, 64)] ∧ copyL.cure = []
     ∧ (match s.readRun copyL 0 64 with
        | (t, .data _ false) => decide (t.copies = s.copies) && (t.anyWg? 1 0 0).map (·.exited) == some false
        | _ => false) = true
     ∧ ∀ e ∈ (s.core 0).pq, e.id ∉ copyL.marker)
    ∧ ((fetchWg.cx, fetchWg.kernel, fetchWg.l) = (1, 0, 0) ∧ ({ copyL with kind := .x }.kind ≠ .p) ∧ { copyL with done := 64 }.bytes ≤ 64
      ∧ ({ onWg (fun w => { w with tags := [(63, { st := .busy, status := 0 })] }) with kernels := [] }.kernel? 1 0 = none))
    ∧ (let s := { mk G0 with copies := [copyP] }
       s.images = [] ∧ s.ops = []
       ∧ (match s.fetchLine { copyP with src := 2 ^ 42 } 0 with
          | .skipped => true
          | .here _ | .waits => false) = true
       ∧ (match s.fetchLine copyP 0 with
          | .here t => decide (t.images = s.images ∧ t.copies = s.copies ∧ t.ops = [])
          | .skipped | .waits => false) = true
       ∧ (match ({ s with mem := wrMem s.mem fetchTable 8 0x00E0_0000_0000_000F } : State).fetchLine copyP 0 with
          | .waits => true
          | .skipped | .here _ => false) = true)
    ∧ (let s := onWg (barred { opened with held := [1] })
       (s.wgs[0]?).isSome = true ∧ (s.anyWg? 1 0 0).map (fun w => (w.bar 15).held) = some [1] ∧ opened.arra + 1 < opened.expa
       ∧ s.taken = [] ∧ ∃ e ∈ ({ s with taken := [(.held 1 0 0 15, 0)] } : State).taken, e.1 = .held 1 0 0 15) := by
  decide +kernel

/-- A run that the limiter holds. -/
theorem wit_CopyAdmission : (let s : State := { mk G0 with ctxs := [limited], copies := [copyL] }
    s.admits 1 (s.runClasses copyL 0) = false) := by
  have h : ∃ rest, ({ mk G0 with ctxs := [limited], copies := [copyL] } : State).runClasses copyL 0 = clsHbm :: rest := ⟨_, rfl⟩
  obtain ⟨rest, h⟩ := h
  simp only [h]
  exact limited_holds _ rfl rfl rest

def filling : State :=
  (mk G0).updCore 0 fun c => { c with recs := [(7, { rec1 G0.ref with filling := some (0, 0) })],
                                      slots := [(7, { owner := some G0.ref, filling := some (0, 0, 0) })] }
def startedJob : Job := { job1 with start := some 4, c := 192 }

/-- A record and a slot that fill; a job that may not start yet, that may, and that has ended. -/
theorem wit_TileFillsAndJobs :
    (((filling).core 0).rec? 7).map (·.filling) = some (some (0, 0)) ∧ ((filling.core 0).slot 7).filling = some (0, 0, 0)
    ∧ filling.group? G0.ref = some G0 ∧ (filling.wgOf G0).isSome = true ∧ 0 + 4 + 2 * (rec1 G0.ref).rows ≤ { filling with cycle := 68 }.cycle
    ∧ (let s := onCore fun c => { c with jobs := [job1] }
       s.cycle < max (job1.issued + 4) (s.core 0).seqFree ∧ max (job1.issued + 4) (s.core 0).seqFree ≤ { s with cycle := 4 }.cycle)
    ∧ (let s := { (mk G0 [pending (.mma 1)]).updCore 0 fun c => { c with jobs := [startedJob], recs := [(0, rec1 G0.ref)] } with cycle := 1000 }
       (s.core 0).jobs = [startedJob] ∧ (s.core 0).rec? 0 = some (rec1 G0.ref) ∧ startedJob.endCycle 4 (blocksOf .e4m3) ≤ s.cycle
       ∧ startedJob.op = 7 ∧ s.op? 7 = some (pending (.mma 1))) := by
  decide +kernel

def arming : ArmMsg :=
  { op := 7, lowest := true, grp := G0.ref, cx := 1, slot := 7, circ := 15, layer := 0, bale := 1, nw := false, issued := 0 }
def bale0 : Bale :=
  { lap := 0, layer := 0, bale := 0, ord := 0, lane := 0, at_ := 0, rev := false, scaled := false, fmtCode := 0, scales := [], tile := [],
    poison := false, addr := 0 }
def riding (b : Bale) : State := { onCirc { circ .running 0 with ring := [b] } with cycle := 100000, kernels := [] }
def boarded : State :=
  { onCore (fun c => { c with slots := [(7, { owner := some G0.ref, board := some (board1 .capturing) })] }) with
    cycle := 19, ops := [pending (.board 63 1 0)] }

/-- A lap that may begin, a bale that may be injected, a board at its tap, a header at the first tap, one held there, a board captured. -/
theorem wit_WindrowStepsCarryBales :
    (let c := { circ .running 0 with mode := 2, begun := false }
     (onCirc c).circuits[0]? = some c ∧ c.epoch + c.lap * c.period ≤ (onCirc c).gtime)
    ∧ (let c := circ .running 0
       let s := onCirc c
       c.mayInject s.cycle = true ∧ s.laneFree c = true ∧ c.ord + 1 < c.bales
       ∧ (s.takeRequest 1 [clsHbm] Config.baleBytes).isSome = true
       ∧ (({ s with ctxs := [limited] } : State).takeRequest 1 [clsHbm] Config.baleBytes).isNone = true
       ∧ (match s.readBale c 0 with
          | (t, some (bs, ok)) => decide (t.circuits = [c] ∧ t.ops = []) && !(baleOf c bs ok 0).poison
          | _ => false) = true)
    ∧ (let s := { onCirc (circ .running 0) with arms := [arming], cycle := 8 }
       (s.circ? 1 15).isSome = true ∧ ((s.core 0).slot 7).owner = none ∧ ((s.core 0).slot 7).board = none ∧ arming.bale < 2
       ∧ arming.un = none ∧ arming.nw = false ∧ (circ .running 0).over = false
       -- 64 cycles ahead or not known yet, or the next lap
       ∧ (s.boardTarget (circ .running 0) 0 0 1 64 false).2 = false ∧ (s.boardTarget (circ .running 0) 0 0 1 0 false).2 = false
       ∧ (s.boardTarget { circ .running 0 with ring := [{ bale0 with ord := 1, bale := 1 }] } 0 0 1 0 false).2 = true)
    ∧ (let s := riding bale0
       bale0.passed.getLsbD 0 = false ∧ bale0.heldAt = none ∧ bale0.at_ + transit 0 ≤ s.cycle
       ∧ s.waiting { circ .running 0 with ring := [bale0] } bale0 0 = [] ∧ { bale0 with heldAt := some 0 }.heldAt = some 0
       ∧ bale0.hop = 0 ∧ bale0.crcOk 0 = true ∧ s.kernels = [] ∧ s.ops = []
       ∧ { bale0 with passed := BitVec.allOnes 24 }.passed.getLsbD 23 = true ∧ bale0.at_ + 116 ≤ s.cycle)
    ∧ (((boarded.core 0).slot 7).board.map (·.st) = some .capturing ∧ ((boarded.core 0).slot 7).owner = some G0.ref
       ∧ (board1 .capturing).at_ + 19 ≤ boarded.cycle ∧ (board1 .capturing).op = 7 ∧ (board1 .capturing).lowest = true
       ∧ boarded.op? 7 = some (pending (.board 63 1 0)) ∧ (board1 .capturing).bad = !true
       ∧ (board1 .capturing).macBad = false) := by
  decide +kernel

/-! ### Commands of the host -/

/-- A context alone in a state, with DIRN 4 and no group. -/
def cxIn (f : Context → Context) : State :=
  { base with ctxs := [f fetchContext], groups := [], wgs := [], kernels := [],
              bar := { base.bar with dirN := 4, cmd := { base.bar.cmd with arg := 0x8000 } } }
def inState (st : CxState) : State := cxIn fun c => { c with st := st }
def tdiIn (st : CxState) : State := cxIn fun c => { c with st := st, bindRec := { c.bindRec with tdi := true } }

/-- Words of a legal bind record: one layout, one sheaf, a granary of one frame, share 1, as R77 lays them out, and its memory. -/
def bindWords : List (Nat × Nat × Nat) :=
  [(0, 8, 0x1000000), (8, 8, 2 ^ 31), (0x28, 4, 65536), (0x38, 2, 1), (0x3A, 2, 1), (0x3C, 4, 1), (0x40, 8, 0x200000), (0x20, 8, 0x300000),
   (0x30, 8, 0x400000), (0x18, 8, 0x200000), (0x5C, 4, 1), (0x5B, 1, 1)]
def bindMem : State :=
  { cxIn id with ctxs := [], mem := bindWords.foldl (fun m w => wrMem m (0x8000 + w.1) w.2.1 w.2.2) base.mem }

theorem cmds (f : Context → Context) (h : (f fetchContext).cxid = 1) : Commands (cxIn f) 1 (f fetchContext) :=
  ⟨rfl, rfl, by decide, by show 1 < (4#17).toNat; decide, by show List.find? _ [f fetchContext] = _; simp [h]⟩

theorem wit_HostAndDebugSteps :
    (mk G0).group? { core := 0, gctx := 0 } = some G0 ∧ ((mk G0).ctx? G0.cx).isSome = true
    ∧ (let pa := fetchContext.slotAddr G0.ref + 0x3C
       pa % 128 ≤ 124 ∧ (mk G0).descOf (State.physKey 1 pa) = false ∧ (mk G0).copiesOf (State.physKey 1 pa) = []
       ∧ (mk G0).poisoned (State.physKey 1 pa).n ((mk G0).domain 1 0) = false)
    -- the watchdog: due, known, not due
    ∧ (let c := { fetchContext with bindRec := { fetchContext.bindRec with wdog := 1 } }
       c.bindRec.wdog ≠ 0 ∧ 2250000 * c.bindRec.wdog ≤ 2 * (1125000 - P0.progress) ∧ ¬ 2250000 * c.bindRec.wdog ≤ 2 * (1124999 - P0.progress))
    ∧ G0.held = []
    -- a failed walk of a split that is there, and of one whose group has gone, under a policy of 1
    ∧ (let w : FailedWalk := { site := siteOf G0 P0, insn := 0, va := 0, lanes := 1, cause := 32, detail := 0, commits := 0, clause := none }
       let s := { mk G0 with walks := [w] }
       (s.walks.filter fun w => w.site.grp == { core := 0, gctx := 0 })[0]? = some w ∧ s.group? w.site.grp = some G0
       ∧ G0.split? w.site.split = some P0 ∧ P0.commits = w.commits
       ∧ (let root : Rcb := { cx := 1, addr := 0, parent := 0, budget := 0, period := 0, prio := none, policy := 1, fdlog := 0, fdsize := 0 }
          let t := { s with groups := [], rcbs := [root], kernels := [] }
          t.group? w.site.grp = none ∧ (∀ r ∈ t.kernelChain 1 0, r.fdlog = 0) ∧ policyOf (t.kernelChain 1 0) = 1))
    -- a context with and without debug; breakpoints with and without room
    ∧ fetchContext.bindRec.debug = true ∧ { fetchContext.bindRec with debug := false }.debug = false ∧ fetchContext.breakpoints.length < 16 := by
  decide +kernel

/-- A command under way, recovery, an unbound CXID, a state that takes each command and one that does not, a TDI. -/
theorem wit_ContextCommands : Commands (inState .run) 1 { fetchContext with st := .run }
    ∧ Commands (tdiIn .bound) 1 { fetchContext with st := .bound, bindRec := { fetchContext.bindRec with tdi := true } }
    ∧ { (inState .run).bar.cmd with pending := some (5, 1) }.pending ≠ none ∧ (inState .run).modl.recovery = false
    ∧ (inState .run).bar.dirN.toNat ≤ 4 ∧ (inState .run).ctx? 2 = none ∧ CxState.run ∉ [CxState.bound] :=
  ⟨cmds _ rfl, cmds _ rfl, by decide, rfl, by decide +kernel, by decide +kernel, by decide⟩

/-- BIND of a legal record; START with a root RCB and tables, with every slot held, and beside a partner; SEAL without a workgroup. -/
theorem wit_ContextCommandsFollowTheTable :
    ((bindMem.hvRead 0x8000 128).bind bindRecOf).map (fun r => (bindMem.saveFits r, bindMem.bindFits r, bindMem.freeRun r.queues,
        bindMem.farHomeFor r.hard)) = some (true, true, some 0, some 0)
    ∧ bindMem.ctx? 1 = none ∧ bindMem.bar.cmd.arg.toNat = 0x8000 ∧ 1 < bindMem.bar.dirN.toNat
    ∧ (let r := (inState .locked).readRcb 1 0
       r.2.isSome = true ∧ ((r.1.fixTables 1).bind fun s => s.ctx? 1).isSome = true)
    ∧ (let l : List Context := List.replicate 64 { fetchContext with cxid := 2, bindRec := { fetchContext.bindRec with hard := 3 } }
       let s := { inState .locked with ctxs := [{ fetchContext with st := .locked, slot := false }] ++ l }
       64 ≤ (s.ctxs.filter fun x => x.slot).length ∧ s.ctx? 1 = some { fetchContext with st := .locked, slot := false })
    ∧ ((inState .run).ctxs.filter fun x => x.slot).length < 64 ∧ (inState .run).wgs = [] := by
  decide +kernel

/-- Each list of states has a member, and a generation that wraps. -/
theorem wit_ContextsEndAndTdisp : Commands (cxIn fun c => { c with st := .error, gen := 65535 }) 1 { fetchContext with st := .error, gen := 65535 }
    ∧ Commands (inState .retired) 1 { fetchContext with st := .retired }
    ∧ (tdiIn .run).ctx? 1 = some { fetchContext with st := .run, bindRec := { fetchContext.bindRec with tdi := true } }
    ∧ (let m := { (tdiIn .bound).modl with sessions := [{ id := 5, secret := 7, authenticated := true, mldsa := true }], ideStreams := [(3, 0)] }
       let s := { tdiIn .bound with modl := m }
       (s.session? 5).isSome = true ∧ (∃ e ∈ s.modl.ideStreams, e.1 = 3) ∧ (∀ e ∈ s.modl.ideStreams, e.1 ≠ 4) ∧ s.session? 6 = none)
    ∧ (let s := cxIn fun c => { c with st := .locked, session := some 5, bindRec := { c.bindRec with tdi := true } }
       let r := s.readRcb 1 0
       r.2.isSome = true ∧ ((r.1.fixTables 1).bind fun s => s.ctx? 1).isSome = true) :=
  ⟨cmds _ rfl, cmds _ rfl, by decide +kernel, by decide +kernel, by decide +kernel⟩

def image0 : Image := { cx := 1, reason := .seal, groups := [], wgs := [], records := [], slots := [], ops := [] }

/-- A context sealing with its images whole; restoring with them back and not; one that the watchdog catches; a granary without requests. -/
theorem wit_SaveEngineWatchdogAndBar :
    ((inState .sealing).images = [] ∧ (inState .sealing).copies = [] ∧ (inState .sealing).bar.cmd.pending = none)
    ∧ ({ (inState .sealing).bar.cmd with pending := some (5, 1) } : CmdRegs).pending.map (·.2) = some 1
    ∧ image0.reason = .seal ∧ fetchContext.gran.replayed = true ∧ (∀ e ∈ fetchContext.gran.recs, e.2.2.isReq = false)
    ∧ (let k := { fetchKernel with inPool := true }
       let s := { cxIn (fun c => { c with bindRec := { c.bindRec with wdog := 1 } }) with kernels := [k], cycle := 2250000 }
       (∃ k ∈ s.kernels, k.cx = 1 ∧ k.inPool = true) ∧ 0 + 2250000 * 1 ≤ s.cycle ∧ ¬ 0 + 2250000 * 1 ≤ 2249999)
    ∧ (0x80000105#64).extractLsb' 0 32 = BitVec.ofNat 32 (2 ^ 31 + 256 * 1 + 5) ∧ (inState .run).ctxs ≠ [] ∧ bindMem.ctxs = [] := by
  decide +kernel

def queue0 (n : Nat) (cmd : List (Nat × Nat × Nat)) (st : CxState := .run) : State :=
  { inState st with queues := [{ iface := n, cx := 1, st := .active, qsize := 4, wridx := 1 }],
                    hostMem := cmd.foldl (fun m w => wrMem m (hostAddr (if n = 4096 then 2 ^ 20 else 0) w.1) w.2.1 w.2.2) [] }

/-- Whether the queue of the state takes its next command for context 1, and the command's bytes. -/
def taken (s : State) (n : Nat) : Bool :=
  match s.queue? n with
  | none => false
  | some q =>
    let bs := sgetRun 0 s.hostMem (hostAddr (s.pasidOf q) (q.qbase + 64 * q.rdidx)) 64
    q.hasNext && !s.hostRefuses (s.pasidOf q) (q.qbase + 64 * q.rdidx) 64 && cmdCheck (n == hvIface) bs == 0
      && (match s.cmdCtx q bs with
          | .ok c => c.cxid == 1
          | .error _ => false)

/-- Every state of a queue, a legal and an illegal size, base and index, a queue that another stream owns. -/
theorem wit_QueuesFollowTheirTable :
    (let q := ((queue0 0 []).queue? 0).getD default
     q.st = .active ∧ 2 ≤ q.qsize ∧ q.qsize = 2 ^ 2 ∧ q.qbase % 64 = 0 ∧ q.wridx < q.qsize ∧ q.rdidx ≠ q.wridx)
    ∧ (let s := tdiIn .run
       (s.ctx? 1).map (fun c => (c.bindRec.tdi, c.stream)) = some (true, none))
    ∧ (queue0 4096 []).modl.recovery = false := by decide +kernel

/-- A queue without a command, one that the host refuses, and a command of each fate. -/
theorem wit_CommandsAreChecked :
    (let q := ((queue0 0 []).queue? 0).getD default
     q.st = .active ∧ q.rdidx ≠ q.wridx ∧ q.signals = [] ∧ ¬ (q.st = .active ∧ q.rdidx ≠ q.rdidx))
    ∧ { queue0 0 [] with hostDenied := [(0, 0, 64)] }.hostRefuses 0 0 64 = true
    ∧ (let b := fun (s : State) => sgetRun 0 s.hostMem 0 64
       fieldNat (b (queue0 0 [(0, 1, 8)])) 0 1 = 8 ∧ fieldNat (b (queue0 0 [(0, 1, 0x12)])) 0 1 = 0x12
       ∧ allZero (b (queue0 0 [(0, 1, 5), (4, 1, 1)])) 4 4 = false)
    ∧ cmdCheck true (sgetRun 0 (queue0 4096 [(0, 1, 0x12), (2, 2, 1)]).hostMem (hostAddr (2 ^ 20) 0) 64) = 0
    ∧ (inState .run).ctx? 0 = none ∧ taken (queue0 0 [(0, 1, 5)]) 0 = true := by decide +kernel

def kernelWords : List (Nat × Nat × Nat) :=
  [(0x9000, 8, 0x4000), (0x9008, 2, 1), (0x900A, 2, 1), (0x900C, 2, 1), (0x900E, 1, 1), (0x900F, 1, 1), (0x9014, 2, 32)]
/-- A LAUNCH of the descriptor at 0x9000 with an argument pointer. -/
def launching (arg : Nat) (words : List (Nat × Nat × Nat)) : State :=
  let s := queue0 0 [(0, 1, 1), (8, 8, 0x9000), (0x18, 8, arg)]
  { s with mem := words.foldl (fun m w => wrMem m w.1 w.2.1 w.2.2) s.mem }

/-- Each guest command: taken, with legal and illegal arguments; a LAUNCH that records and one of a bad descriptor; a write of a SIGNAL. -/
theorem wit_QueuesAndCommandChecks : taken (launching 0 kernelWords) 0 = true ∧ taken (launching 4 []) 0 = true
    ∧ (launching 0 kernelWords).liveKernels 1 < 1024
    ∧ ((launching 0 kernelWords).recordKernel 1 0x9000 0 0 none false (some (0, 0))).2 = .recorded
    ∧ ((launching 0 []).recordKernel 1 0x9000 0 0 none false (some (0, 0))).2 = .badKd
    ∧ taken (queue0 0 [(0, 1, 2), (0xA, 2, 1)]) 0 = true ∧ 0 < fetchContext.bindRec.sheafN ∧ fetchContext.bindRec.sheafN ≤ 1
    ∧ taken (queue0 0 [(0, 1, 3), (8, 8, 8)]) 0 = true ∧ taken (queue0 0 [(0, 1, 4)]) 0 = true ∧ taken (queue0 0 [(0, 1, 5), (1, 1, 1)]) 0 = true
    ∧ taken (queue0 0 [(0, 1, 7)]) 0 = true
    ∧ (let s := asked (ask .query) 1 0
       s.sealedAt 1 0 1 = true ∧ s.sealedAt 1 0 2 = false)
    ∧ (let s := { queue0 0 [] with queues := [{ iface := 0, cx := 1, st := .idle, qsize := 4, wridx := 1, rdidx := 1,
                                                signals := [(0, 0, 64, 5)], inflight := [(0, 0, true)] }] }
       (s.queue? 0).isSome = true ∧ s.hostRefuses 0 64 8 = false) := by decide +kernel

/-- FIPS 197: the S-box of 0x53, and a column of its MixColumns example and back. -/
theorem test_aes : sbox 0x53 = 0xED ∧ sboxInv 0xED = 0x53
    ∧ (mixColumns [2, 3, 1, 1] ([0xDB, 0x13, 0x53, 0x45] ++ List.replicate 12 0)).take 4 = [0x8E, 0x4D, 0xA1, 0xBC]
    ∧ (mixColumns [14, 11, 13, 9] ([0x8E, 0x4D, 0xA1, 0xBC] ++ List.replicate 12 0)).take 4 = [0xDB, 0x13, 0x53, 0x45] := by decide +kernel

def circuitCmd (words : List (Nat × Nat × Nat)) : State :=
  let s := queue0 0 [(0, 1, 6), (8, 8, 0x9000)]
  { s with ctxs := s.ctxs.map fun c => { c with bindRec := { c.bindRec with lanes := 1 } },
           mem := words.foldl (fun m w => wrMem m w.1 w.2.1 w.2.2) s.mem }
def descOf9 (s : State) : List Byte := ((s.circDesc 1 0x9000).2).getD []

/-- The privileged commands for a context in BOUND; a descriptor of each OP, a lane of the context, one layer of one bale; a circuit that is
installed, and none. -/
theorem wit_PrivilegedAndCircuitCommands :
    taken (queue0 4096 [(0, 1, 0x10), (2, 2, 1), (0x10, 8, 0x0001000100010001)] .bound) 4096 = true
    ∧ taken (queue0 4096 [(0, 1, 0x11), (2, 2, 1)] .bound) 4096 = true ∧ taken (queue0 4096 [(0, 1, 0x12), (2, 2, 1)] .bound) 4096 = true
    ∧ layoutOk ((sgetRun 0 (queue0 4096 [(0x10, 8, 0x0001000100010001)]).hostMem (hostAddr (2 ^ 20) 0x10) 48)) = true
    ∧ taken (circuitCmd []) 0 = true ∧ (circuitCmd []).bar.cmd.pending = none
    ∧ fieldNat (descOf9 (circuitCmd [])) 0 1 = 0
    ∧ (let s := circuitCmd [(0x9000, 1, 1), (0x9003, 1, 1), (0x900C, 2, 1), (0x9010, 8, 0xA000), (0xA008, 2, 1)]
       let r := s.circDesc 1 0x9000
       fieldNat (descOf9 s) 0 1 = 1 ∧ (r.1.install (s.ctxs.headD default) (descOf9 s)).2.isSome = true)
    ∧ (let s := { circuitCmd [(0x9000, 1, 3), (0x9001, 1, 15)] with circuits := [circ .running 0] }
       fieldNat (descOf9 s) 0 1 = 3 ∧ ((s.circDesc 1 0x9000).1.circ? 1 15).isSome = true ∧ allZero (descOf9 s) 2 4 = true
       ∧ allZero (descOf9 s) 8 56 = true ∧ 0 ≤ 132 * laneCount (circ .running 0).lanes) := by decide +kernel

def pool (k : Kernel) : State := { inState .run with kernels := [k] }
def ready1K : Kernel := { fetchKernel with st := .ready, nextL := 0, inPool := true }
def running1 (n : Nat) : Kernel := { ready1K with st := .running, nextL := n, kd := { wgx := n } }
def root (charge : Nat) : Rcb :=
  { cx := 1, addr := 0, parent := 0, budget := 5, period := 0, prio := none, policy := 1, fdlog := 0, fdsize := 0, charge := charge }

/-- A kernel that can place its workgroup, one that waits for a millisecond, a workgroup whose groups have gone, first and last, and a
device-side queue with an entry of each fate. -/
theorem wit_DispatcherSteps :
    (let s := pool ready1K
     s.images = [] ∧ ready1K.kd.coop = false ∧ ready1K.nextL < ready1K.total ∧ (∀ r ∈ s.kernelChain 1 0, r.parked = false)
     ∧ (∀ r ∈ s.kernelChain 1 0, s.rcbSpent r = false) ∧ ready1K.coopBad = false
     ∧ ready1K.kd.clog = 0 ∧ ready1K.kd.groups ≤ 32 ∧ (s.coresFor ready1K (s.openClusters 1)).map (·.length) = some 1
     ∧ (s.coresFor ready1K (s.openClusters 1)).map (fun l => s.splitWaits ready1K.need (l.headD 0)) = some false ∧ s.groups = []
     ∧ ({ s with modl := { s.modl with geo := { s.modl.geo with clmask := 0 } } } : State).coresFor ready1K
         (({ s with modl := { s.modl with geo := { s.modl.geo with clmask := 0 } } } : State).clustersFor 1) = none)
    ∧ running1 1 = { running1 1 with nextL := (running1 1).total }
    ∧ (let s := { pool ready1K with cycle := 2250000 }
       ready1K.waitingSince + 2250000 ≤ s.cycle ∧ ¬ ready1K.waitingSince + 2250000 ≤ 2249999)
    ∧ (let s := { pool (running1 2) with wgs := [fetchWg] }
       s.wgGone fetchWg = true ∧ fetchWg.exited = false ∧ (running1 2).exits + 1 < (running1 2).total ∧ (running1 1).exits + 1 = (running1 1).total
       ∧ (running1 2).launchedBy = none ∧ s.copies = [])
    ∧ (let e : DsqEntry := { kd := 0x9000, arg := 0, rcb := 0, site := siteOf G0 P0 }
       let c : Context := { fetchContext with dsq := [e] }
       let s := { launching 0 kernelWords with ctxs := [c] }
       (s.recordKernel 1 e.kd 0 e.arg (some e.rcb) false none).2 = .recorded
       ∧ { e with arg := 4 }.arg % 64 ≠ 0 ∧ (∀ r ∈ { s with rcbs := [root 0] }.rcbChain 1 8 0, r.fdlog = 0)
       ∧ policyOf ({ s with rcbs := [root 0] }.rcbChain 1 8 0) = 1) := by
  decide +kernel

def agedP : Split := { P0 with readySince := 0 }

/-- A budget that is spent and one that is not; a period that ends and one that goes on; a split that ages at its 4,096th cycle. -/
theorem wit_BudgetsAndFlashback :
    (let s := { inState .run with rcbs := [root 360000] }
     s.rcb? 1 0 = some (root 360000) ∧ budgetOf (s.rcbChain 1 8 0) = some 360000 ∧ (root 0).parked = false ∧ ¬ 360000 ≤ (root 359999).charge
     ∧ (root 0).boundary = false ∧ { root 0 with boundary := true }.boundary = true
     ∧ s.gtime / 1000000 = (root 0).periodNo ∧ { s with gtime := 1000000 }.gtime / 1000000 ≠ (root 0).periodNo)
    ∧ (agedP.readySince + 4096 * (agedP.aged + 1) ≤ 4096 ∧ ¬ agedP.readySince + 4096 * (agedP.aged + 1) ≤ 4095)
    ∧ (inState .run).modl.recovery = false
    ∧ (bucketOf fetchContext 4).rate = 0 ∧ (bucketOf { fetchContext with buckets := [(4, { rate := 1, burst := 1, count := 0, lastUs := 0 })] } 4).rate = 1
    -- a workgroup of one group with an open region, old enough to move, charged to a spent block
    ∧ (let s := { mk G0 with cycle := 11250000, rcbs := [root 360000], hot := [0] }
       s.wgs = [fetchWg] ∧ s.groups = [G0] ∧ G0.status = .live ∧ P0.ended = false ∧ (P0.region.map (·.depth)) = some P0.stack.length ∧ G0.pins = []
       ∧ (s.core 0).recs = [] ∧ (s.core 0).slots = [] ∧ (s.core 0).jobs = [] ∧ (s.kernel? 1 0).map (·.kd.coop) = some false
       ∧ fetchWg.since + 11250000 ≤ s.cycle ∧ fetchWg.core ∈ s.hot ∧ fetchWg.core ∉ (mk G0).hot ∧ (∃ x ∈ s.kernelChain 1 0, x.addr = 0)) := by
  decide +kernel

def session1 (auth : Bool) : SpdmSession := { id := 5, secret := 7, authenticated := auth, mldsa := true }
def secured (st : CxState) : State :=
  { inState st with modl := { (inState st).modl with sessions := [session1 true] }, groups := [G0], wgs := [fetchWg], kernels := [fetchKernel] }

/-- A session with and without authentication; a warm reset under way, waiting and ready; a context of each kind of state. -/
theorem wit_RecoveryCommandsAct :
    (∃ x ∈ (secured .run).modl.sessions, x.authenticated = true) ∧ (session1 false).authenticated = false
    ∧ (secured .run).modl.recovering = none ∧ (secured .run).ctx? 2 = none ∧ ((secured .run).ctx? 1).isSome = true
    ∧ 1 < (secured .run).bar.dirN.toNat ∧ (secured .run).group? { core := 0, gctx := 0 } = some G0 ∧ G0.cx = 1
    ∧ (secured .run).group? other = none ∧ ((secured .run).kernel? 1 0).isSome = true ∧ (secured .run).kernel? 1 1 = none
    ∧ (let s := inState .locked
       { s with modl := { s.modl with recovering := some (7, 1) } }.warmReady = true)
    ∧ (let s := inState .sealing
       { s with modl := { s.modl with recovering := some (7, 1) } }.warmReady = false
       ∧ (∀ c ∈ s.ctxs, c.st ≠ .restoring ∧ c.st ≠ .halted) ∧ (∃ c ∈ s.ctxs, c.st = .sealing) ∧ ∀ c ∈ s.ctxs, c.st ≠ .run) := by
  decide +kernel

/-- What an earlier sitting's witnesses leave out: an operation that has not passed its checks; JOIN at a resume entry and beside a split that
waits at the same JOIN; a flag of the group that is set at ROLE; a bale that leaves the ring; a saved group of a debugged context; a partner
that holds a slot; a FENCE behind a command that is under way, and a read that the limiter of the host port holds; a workgroup whose exit is
not due; a frame of a hard partition of another context. -/
theorem wit_Sidelines :
    (let o := pending (.watch 0 key9 0 .eq false false 0 .chip 63 none none)
     Issues (mk G0 [o]) G0 P0 ∧ (mk G0 [o]).unchecked G0 P0 = true ∧ o.grp = G0.ref ∧ o.flag < 12)
    ∧ (let p : Split := { P0 with stack := [.resume (some P0.nextHeader) 1 1] }
       Issues (mk (withSplit p)) (withSplit p) p ∧ p.stack = [.resume (some p.nextHeader) 1 1]
       ∧ Issues (mk { G0 with splits := [P0, { P0 with id := 1, wait := .join }] }) { G0 with splits := [P0, { P0 with id := 1, wait := .join }] } P0)
    ∧ ({ bale0 with passed := BitVec.allOnes 24 }.passed.getLsbD 23 = true ∧ bale0.heldAt = none)
    ∧ (let im : Image := { image0 with groups := [G0] }
       let s := { inState .sealed with images := [im] }
       s.group? { core := 0, gctx := 0 } = none ∧ im.groups = [G0] ∧ (s.ctx? im.cx).map (fun c => (c.bindRec.debug, c.st)) = some (true, .sealed))
    ∧ (let h := fun (n : Nat) (st : CxState) (b : Bool) => ({ fetchContext with cxid := n, st := st, slot := b, bindRec := { fetchContext.bindRec with hard := 3 } } : Context)
       let s := { inState .locked with ctxs := [h 1 .locked false, h 2 .run true] }
       s.ctx? 1 = some (h 1 .locked false) ∧ ∃ x ∈ s.ctxs, x.slot = true ∧ x.cxid ≠ 1 ∧ x.bindRec.hard = (h 1 .locked false).bindRec.hard)
    ∧ (let s := queue0 0 [(0, 1, 4)]
       fieldNat (sgetRun 0 s.hostMem 0 64) 0 1 = 4 ∧ ({ (s.queue? 0).getD default with inflight := [(0, 0, false)] } : Queue).inflight ≠ []
       ∧ ({ s with ctxs := [{ fetchContext with buckets := [(3, { rate := 1, burst := 1, count := 0, lastUs := 0 })] }] } : State).admits 1 (hostClasses 0) = false
       ∧ s.admits 1 (hostClasses 0) = true)
    ∧ (mk G0).wgGone fetchWg = false
    ∧ (let c : Context := { fetchContext with cxid := 2, bindRec := { fetchContext.bindRec with hard := 1 } }
       ({ mk G0 with ctxs := [fetchContext, c] } : State).foreignFrame 1 0 = true ∧ (mk G0).foreignFrame 1 0 = false) := by
  refine ⟨⟨⟨rfl, rfl⟩, ?_⟩, ⟨mk_issues rfl rfl, rfl, mk_issues rfl rfl⟩, ?_⟩ <;> decide +kernel

/-! ### Pages -/

/-- A request of the translation control page by a context with one free frame in its pool, whose entry of page 2^30 stands at 0x2008. -/
def asking (off : Nat) (v : DWord) (sent : Bool) (pages : List PoolPage) (pte : Nat) : State :=
  { withOp (.atom true (some .add) false .chip .relaxed 254
      [{ lane31 with ctl := some off, v := v, reply := none, sent := sent, key := { cx := 1, pod := false, n := 0 } }]) with
    ctxs := [{ fetchContext with poolLocal := [300], bindRec := { fetchContext.bindRec with frameB := 4 }, pages := pages }],
    mem := wrMem (wrMem base.mem 0x2008 8 (0x3001)) 0x3000 8 0x8001 |> fun m => wrMem m 0x8000 8 pte }
def laneOf (s : State) : AtomLane := ((s.anyOp? 7).bind fun o => o.lane? 31).getD lane31
def page30 (st : PageSt) : PoolPage := { page := 2 ^ 30, frame := 300, sh := false, st := st }

/-- A turn of each request; a page never mapped, claimed for it, mapped, migrating and going; a legal and an illegal operand. -/
theorem wit_PageRequestsAnswer :
    (let s := asking 0 (2 ^ 30) false [] (2 ^ 58)
     let l := laneOf s
     let c := (s.ctx? 1).getD default
     (s.anyOp? 7).isSome = true ∧ l.ctl = some 0 ∧ l.reply = none ∧ s.ctlWaits ((s.anyOp? 7).getD default) l = false
     ∧ l.v.extractLsb' 57 7 = 0 ∧ l.v.extractLsb' 4 12 = 0 ∧ l.v.getLsbD 0 = false ∧ c.cxid = l.key.cx
     ∧ (s.pteOf c (2 ^ 30)).map (fun e => (e.1, e.2.v, e.2.ft)) = some (0x8000, false, true)
     ∧ c.poolLocal ≠ [] ∧ ¬ c.bindRec.frameB < c.inUse + 1 ∧ takeFrames c.poolLocal false = some [300] ∧ 0x8000 / 65536 ∉ [300]
     ∧ takeFrames c.poolLocal true = none ∧ s.descOf (State.physKey 1 0x8000) = false ∧ s.copiesOf (State.physKey 1 0x8000) = []
     ∧ s.poisoned (State.physKey 1 0x8000).n (s.domain 1 0) = false)
    ∧ ((asking 0 (2 ^ 30) false [] 0).pteOf (((asking 0 0 false [] 0).ctx? 1).getD default) (2 ^ 30)).map (fun e => (e.2.v, e.2.ft))
        = some (false, false)
    ∧ ((asking 0 (2 ^ 30) false [] (300 * 2 ^ 16 + 3)).pteOf (((asking 0 0 false [] 0).ctx? 1).getD default) (2 ^ 30)).map (fun e => e.2.v) = some true
    ∧ (let s := asking 8 (2 ^ 30) false [page30 .mapped] (300 * 2 ^ 16 + 7)
       let c := (s.ctx? 1).getD default
       c.page? (2 ^ 30) = some (page30 .mapped) ∧ (∀ q ∈ c.pages, q.page = 2 ^ 30 → q = page30 .mapped) ∧ (s.pteOf c (2 ^ 30)).map (·.1) = some 0x8000 ∧ c.page? 0 = none)
    ∧ (let s := asking 8 (2 ^ 30) true [page30 (.unmapping false)] 0
       s.pageFree (page30 (.unmapping false)) = true ∧ (laneOf s).sent = true ∧ (page30 .migrating).st = .migrating)
    ∧ (1#64).extractLsb' 0 16 ≠ 0 ∧ (2#64).extractLsb' 1 15 ≠ 0 ∧ (asking 16 1 true [] 0).stillOut [] = [] := by
  decide +kernel

def domain5 (g : Option Nat) : ShareDomain := { id := 5, key := 0, gen := 1, granted := g }
/-- A context with two frames in its local pool, three in its far pool and a page in use. -/
def pooled (farg0 farg1 : Nat) (pages : List PoolPage) : State :=
  let c : Context := { fetchContext with poolLocal := [300, 301], poolFar := [0, 1, 2], pages := pages, inUse := pages.length }
  { inState .run with ctxs := [c], bar := { base.bar with pool := { farg0 := BitVec.ofNat 64 farg0, farg1 := BitVec.ofNat 64 farg1 } } }

/-- Each pool command on frames that are free, held, in use, wide and absent; a victim and none; a domain known, granted and not. -/
theorem wit_PoolCommandsAndMigration :
    ((pooled 400 2 []).frameGood 400 = true ∧ (pooled 400 2 []).inArea 400 = false
      ∧ (∀ d ∈ (pooled 400 2 []).ctxs, d.holdsLocal 400 = false) ∧ (∃ d ∈ (pooled 300 1 []).ctxs, d.holdsLocal 300 = true)
      ∧ 2 ^ 32 < (2 ^ 32 - 1) + 2 ∧ (pooled 400 2 []).frameGood (2 ^ 32 - 1) = false)
    ∧ ((∃ d ∈ (pooled 2 1 []).ctxs, d.holdsFar 2 = true) ∧ ∀ d ∈ (pooled 7 1 []).ctxs, d.holdsFar 7 = false)
    ∧ ((page30 .mapped).frames = [300] ∧ { page30 .far with frame := 9 }.farFrames = [9] ∧ 300 ∈ [300, 301] ∧ 2 ∈ [0, 1, 2] ∧ 2 ∉ [300, 301])
    ∧ ((pooled 0 0 []).victim (some 1) = none
      ∧ (let s := asking 8 (2 ^ 30) false [page30 .mapped] (300 * 2 ^ 16 + 3)
         let c : Context := { (s.ctx? 1).getD default with poolFar := [0], inUse := 1 }
         (({ s with ctxs := [c] } : State).victim (some 1)).map (fun v => v.1) = some 1
         ∧ ∀ q ∈ c.pages, q.page = 2 ^ 30 → q = page30 .mapped))
    ∧ ((domain5 none).granted = none ∧ (domain5 (some 2)).granted ≠ none ∧ (domain5 (some 2)).granted ≠ some 1
      ∧ 327681 % 16 = 1 ∧ 327681 / 65536 % 65536 = 5)
    ∧ (let s := asking 8 (2 ^ 30) false [page30 .migrating] (300 * 2 ^ 16 + 3)
       let c := (s.ctx? 1).getD default
       c.page? (2 ^ 30 / 65536 * 65536) = some (page30 .migrating) ∧ (∀ q ∈ c.pages, q.page = 2 ^ 30 → q = page30 .migrating)
       ∧ s.pageFree (page30 .migrating) = true ∧ Memory.wf s.mem = true
       ∧ (s.pteOf c (2 ^ 30)).map (·.1) = some 0x8000)
    ∧ (let s := { inState .run with gtime := 1000000 }
       fetchContext.samplerMs < s.gtime / 1000000 ∧ (page30 .mapped).hot < 256) := by
  decide +kernel

/-! ### The link, time and start -/

def linkS (larg0 larg1 : Nat) (words : List (Nat × Nat × Nat)) (c : Context := podCtx) : State :=
  { inState .run with ctxs := [c], mem := words.foldl (fun m w => wrMem m w.1 w.2.1 w.2.2) base.mem,
                      bar := { base.bar with link := { base.bar.link with larg0 := BitVec.ofNat 64 larg0, larg1 := BitVec.ofNat 64 larg1 } } }

/-- VPOD with a bad shape, a bad record, a record of vchip 3, and while a packet is out; VKEY with a bad and a good block; VSWITCH of an entry
that rolls and one that does not; HINT of a vchip with a route and without. -/
theorem wit_LinkCommandsAnswer :
    (linkS 0x8000 1 []).bar.link.pending = none ∧ (linkS 0x8000 1 []).sent = [] ∧ (linkS 0x8000 1 []).ctx? 2 = none
    ∧ (linkS 0x8000 1 []).vpodList 0x8000 1 = none
    ∧ (let s := linkS 0x8000 1 [(0x8000, 1, 1), (0x8002, 2, 3), (0x8008, 8, 0x8000123400050001)]
       ((s.vpodList 0x8000 1).map fun rs => (rs.length, s.checkRecs podCtx rs)) = some (1, 0))
    ∧ ((linkS 0x8000 0 []).hvRead 0x8000 64).map (fun bs => (fieldNat bs 0 1, allZero bs 2 6, allZero bs 48 16)) = some (0, true, true)
    ∧ ((linkS 0x8000 0 [(0x8000, 1, 2)]).hvRead 0x8000 64).map (fun bs => fieldNat bs 0 1) = some 2
    ∧ (keyAt [] 255 : KeyEntry).rolling = false ∧ (keyAt [(255, { k0 := some 1, rolling := true })] 255).rolling = true
    ∧ podCtx.egress 4 0 = .error 1 ∧ (podCtx.egress 3 0).isOk = true ∧ (linkS 0 0 []).sent = [] := by
  decide +kernel

def ingressCtx (f : Context → Context) : Context :=
  f { podCtx with ingress := [(0, BitVec.ofNat 128 (2 ^ 63 + 3 * 2 ^ 32 + 9))], inKeys := [(0, { k0 := some 5 })] }
def packet (b : PktBody) (seq : Nat) : Packet :=
  { pkg := 0, cxid := 1, vlink := 9, loopback := false, seq := seq, sealedUnder := some 5, body := b }
def arriving (p : Packet) (f : Context → Context := id) : State := { linkS 0 0 [] (ingressCtx f) with net := [p] }
def req0 : PodReq := { id := 4, cx := 1, addr := 0x9000, kind := .fill 0 key9 0 7 }
def sent0 : SentPkt := { id := 2, cx := 1, label := 1, port := 2, since := 0, lastSent := 0, pkt := packet (.load 4 0x9000 false) 0 }

/-- A packet to another package, from an unknown vlink, under no key, old, and good; a message with room and without; a packet to be sent
again, one whose route is given up, and a hint in time and too late. -/
theorem wit_PacketsArriveAndLeave :
    (let s := arriving (packet (.hint 10 5) 0)
     (s.net[0]?).isSome = true ∧ s.bar.link.pkgid = 0 ∧ ((s.ctx? 1).bind fun c => c.ingress? 9) = some (3, 0)
     ∧ ((s.ctx? 1).bind fun c => c.ingress? 8) = none ∧ (keyAt (ingressCtx id).inKeys 0).slot false = some 5
     ∧ (keyAt (ingressCtx id).inKeys 0).phase = false ∧ (keyAt (ingressCtx id).inKeys 0).seq ≤ 0 ∧ s.gtime < 10 + 5 ∧ s.ctx? 2 = none)
    ∧ (ingressCtx id).granRoom = true
    ∧ (ingressCtx fun c => { c with bindRec := { c.bindRec with granSize := 0 } }).granRoom = false
    ∧ (let s := { linkS 0 0 [] with sent := [sent0], reqs := [req0], cycle := 225000000 }
       s.bar.link.pending = none ∧ (∀ x ∈ s.sent, x.held = false) ∧ sent0.untr = false ∧ sent0.acked = false
       ∧ sent0.since + 225000000 ≤ s.cycle ∧ sent0.lastSent + 22500 ≤ s.cycle ∧ (s.ctx? 1).isSome = true ∧ s.reqs = [req0])
    ∧ (inState .sealed).gtime < (0#64).toNat + 1 ∧ (0#64).toNat + 0 ≤ (inState .sealed).gtime := by
  decide +kernel

def goodImage : ImageIn :=
  { hash := 1, ed25519 := true, mldsa := true, altHash := 1, altEd25519 := true, altMldsa := true }
def record0 : ConfigRecord :=
  { serial := 0, version := 0, clmask := 0xFFFFFF, slmask := BitVec.allOnes 144, stmask := 0xFFF, pchan := List.replicate 12 64, ptmask := 0xFF }
def start0 : StartIn :=
  { stage1 := goodImage, firmware := goodImage, recordImg := goodImage, record := record0, altRecord := record0, hbm10 := true, hbm8 := true,
    portsUp := 0xFF, portsOk := true, ptpOk := true }

/-- A time correction that meets a dependence; a port that exists and one that does not; a session; a unit that idles and one that wakes; a
start that succeeds and one that does not. -/
theorem wit_TimePortsIdleAndStart :
    (inState .run).modl.geo.ptmask.getLsbD 7 = true ∧ (∃ x ∈ [session1 true], x.id = 5 ∧ x.mldsa = true)
    ∧ { State.reset with ctxs := [] }.idleCond (.core 0) = true ∧ (mk G0).idleCond (.core 0) = false
    ∧ (∀ c ∈ State.reset.ctxs, c.st = .run → 2 ≤ c.lt) ∧ (∃ c ∈ (mk G0).ctxs, c.st = .run ∧ c.lt < 2)
    ∧ (let s := pool { ready1K with st := .recorded, deps := [.gtime 50] }
       s.dueAt 50 = true ∧ 50 ≤ s.gtime + 1000 * 2 ∧ s.dueAt 51 = false)
    ∧ State.reset.modl.recordVersion ≤ start0.record.version ∧ start0.stage1.ed25519 = true ∧ start0.stage1.mldsa = true := by
  decide +kernel

/-! ### The step -/

def add3 : State := State.reset.withFetchWord 32 0x02428185
def stepped (s : State) : State :=
  match step s with
  | .next t => t
  | _ => s
/-- The issuer of a loaded program is ready, nothing is due before its word, and the word is fetched. -/
theorem wit_StepRunsTheDecodedInstruction :
    (let s := add3.pass 1
     let g := fetchGroup 0x02428185
     let p := fetchSplit 0x02428185
     add3.schedule = [] ∧ s.group? s.issuerRef = some g ∧ g.split? s.issuer.split = some p ∧ s.ready g p = true
     ∧ add3.dueBy (add3.cycle + 1) = none ∧ s.portAllows g p = true ∧ (stepped add3).migWait = false
     ∧ s.tooLate (reached (.issue 0 0 0) s (stepped add3)) = false
     ∧ ({ s with taken := [(.flag { core := 0, gctx := 0 } 0, 1)] } : State).tooLate [(.flag { core := 0, gctx := 0 } 0, 0)] = true
     ∧ (g.argsRead = true ∨ g.trapRec ≠ none) ∧ s.dueWalk g p = none ∧ g.dueHeld p = none ∧ s.watchdogDue g p = false
     ∧ s.breakDue g p = false ∧ (match (s.fetchWord g p.pc).2 with
        | .ok w => w == 0x02428185 && (p.clause.map fun c => clauseRules p c w 1) == some true && !takesLiteral w
        | _ => false) = true)
    ∧ isHeader 0xF0010020 = true ∧ takesLiteral 0x02E2C180 = true ∧ Instr.words .place = 0 := by
  decide +kernel

theorem wit_DecodeInvertsEncode : Instr.wf (.iadd true 127 127 (.lit 0xFFFFFFFF)) = true ∧ encode (.iadd true 127 127 (.lit 0xFFFFFFFF)) ≠ [] := by
  decide +kernel

theorem wit_ReservedOpcodesTrap : ((0x1F000000#32).extractLsb' 24 8).toNat = 0x1F ∧ ((0xDCFFFFFF#32).extractLsb' 24 8).toNat = 0xDC
    ∧ takesLiteral 0x1F000000 = false ∧ takesLiteral 0xDCFFFFFF = false := by decide +kernel

theorem wit_MemoryStaysCanonical : Memory.wf State.reset.mem = true ∧ Memory.wf add3.mem = true := by decide +kernel

/-! ### Clauses that the witnesses above leave out -/

/-- A signalling and a quiet NaN, zeros and infinities of both signs, a subnormal number, and normal numbers whose product is the least and
the greatest that the rule takes. -/
theorem wit_FloatRules : (let ex := fun w : Word => w.toNat / 2 ^ 23 % 256
    let mag := fun w : Word => w.toNat % 2 ^ 31
    (0x7F800001#32).getLsbD 22 = false ∧ mag 0x7F800001 > 0x7F800000 ∧ (0x7FC00000#32).getLsbD 22 = true ∧ mag 0xFF800000 = 0x7F800000
    ∧ mag 0x80000000 = 0 ∧ (0x7F800000#32) ≠ 0xFF800000 ∧ mag 1 ≠ 0 ∧ mag 1 < 0x7F800000
    ∧ ex 0x00800000 + ex 0x3F800000 = 128 ∧ ex 0x7F7FFFFF + ex 0x3E800000 = 379) := by decide +kernel

/-- Three and four active lanes, placed so that the tree of REDF is no left fold. -/
theorem wit_ReductionTree : ((List.range 32).filter fun l => (0x16#32).getLsbD l) = [1, 2, 4]
    ∧ ((List.range 32).filter fun l => (0x3C#32).getLsbD l) = [2, 3, 4, 5] := by decide

/-- A header behind a ROLE without effect, one with flags named while YIELD holds the split, and a line of a trap frame and of none. -/
theorem wit_HeadersAndFrames :
    (let p : Split := { P0 with clause := none, needRe := true, yieldTo := 17 }
     Issues (mk (withSplit p)) (withSplit p) p ∧ p.needRe = true ∧ ∀ q ∈ (withSplit p).splits, canMerge p q = false)
    ∧ (mk G0).frameRo key9 = 0 ∧ (mk G0).frameRo { cx := 1, pod := false, n := 0x2000 } ≠ 0
    ∧ ((mk G0).storeLine (siteOf G0 P0) 0x100000 { cx := 1, pod := false, n := 0x2000 } 0 (BitVec.allOnes 128) 0 false).isSome = true :=
  ⟨⟨mk_issues rfl rfl, rfl, by decide +kernel⟩, by decide +kernel, by decide +kernel, by decide +kernel⟩

/-- A word of each kind that SREAD and SWRITE refuse, and a workgroup with a tag that is READY. -/
theorem wit_SpecialRegisterWords :
    (let op := fun w : Word => w.extractLsb' 24 8
     let n := fun w : Word => (w.extractLsb' 0 10).toNat
     let d := fun w : Word => (w.extractLsb' 14 7).toNat
     let v := fun w : Word => w.getLsbD 21
     (op 0xEB000400 = 0xEB ∧ (0xEB000400#32).extractLsb' 10 4 ≠ 0) ∧ (op 0xEC400020 = 0xEC ∧ (0xEC400020#32).extractLsb' 22 2 ≠ 0)
     ∧ n 0xEB000008 = 8 ∧ n 0xEB0003FF = 0x3FF ∧ (v 0xEB200010 = true ∧ n 0xEB200010 = 0x010)
     ∧ (v 0xEB004014 = false ∧ n 0xEB004014 = 0x014 ∧ d 0xEB004014 = 1) ∧ (v 0xEB000000 = false ∧ n 0xEB000000 = 0)
     ∧ (d 0xEB100001 = 64 ∧ v 0xEB100001 = false) ∧ d 0xEC1FC020 = 127 ∧ n 0xEC000023 = 0x023 ∧ (v 0xEC200020 = true ∧ n 0xEC200020 = 0x020))
    ∧ ((onWg (tagged .ready)).wgOf G0).map (fun w => w.tags.map fun e => (e.1, e.2.st)) = some [(5, .ready)]
    ∧ Readable (mk G0) G0 { s := [62, 63] } :=
  ⟨by decide, by decide +kernel, readable0 (by decide)⟩

theorem wit_FlushAndWatch : (mk G0).flushWaits G0 0 128 = false
    ∧ (let s : State := { mk G0 with mem := wrMem (mk G0).mem fetchTable 8 0x00E0_0000_0000_000F }
       s.flushWaits G0 0 1 = true)
    ∧ (let s := { withPq with mem := withPq.mem }
       ∃ e ∈ (s.core 0).pq, ∃ x ∈ (s.flushKeys G0 (9 * 128) 1).2, e.key.same x = true)
    ∧ (let r := (mk G0).checkLanes G0 .read 8 (fun _ => true) [(32, 4)]
       r.2.2.cause &&& cALIGN = cALIGN)
    ∧ (let r := (mk G0).checkLanes G0 .read 8 (fun _ => true) [(32, 8)]
       r.2.2.cause = 0 ∧ r.2.2.waits = false ∧ ∀ o ∈ r.1.ops, o.flag ≠ flagRecorded)
    ∧ (let s : State := { mk G0 with mem := wrMem (mk G0).mem fetchTable 8 0x00E0_0000_0000_000F }
       let r := s.checkLanes G0 .read 8 (fun _ => true) [(32, 8)]
       r.2.2.cause = 0 ∧ r.2.2.waits = true) := by
  decide +kernel

/-- An atomic whose lane found poison and one that may be performed; a returned watch whose home is a slice. -/
theorem wit_AtomicsFindPoison : (mk G0).atomPoisoned [{ unperformed with fate := causePoison }] = true
    ∧ (withOp atomKind).atomPoisoned [unperformed] = false
    ∧ ({ mk G0 with modl := { (mk G0).modl with geo := { (mk G0).modl.geo with slmask := 0 } } } : State).homeSlice key9 ≠ watchReturned
    ∧ ({ withOp (watchKind 0 none) with ctxs := [limited] } : State).admits 1
        (({ withOp (watchKind 0 none) with ctxs := [limited] } : State).lineClasses 0 key9) = false := by
  decide +kernel

/-- An L1 of dirty lines only has no room for a fill or a push. -/
theorem wit_FullL1 :
    (let dirty : L1Line := { key := { key9 with n := 10 }, st := .D, data := 0, valid := 1, dirty := 1 }
     let s := onCore fun c => { c with l1kib := 1, l1 := List.replicate 8 dirty }
     (s.core 0).hasRoom key9 = false ∧ (s.core 0).acqs = fill9.acqs ∧ ((s.core 0).l1.filter fun l => l.st == .P).length < 64
     ∧ ∃ w ∈ s.wgs, w.core = 0 ∧ w.cx = 1 ∧ w.exited = false) := by decide +kernel

/-- An MMAG of one row, and a job of INT8 elements without scales. -/
theorem wit_MmagAndInt8 :
    (let j : Job := { job1 with gather := some (List.replicate 31 0xFFFFFFFF ++ [0], List.replicate 32 256), start := some 4, halves := 0 }
     j.rows = [31] ∧ j.endCycle 4 (blocksOf .e4m3) ≤ 100000)
    ∧ (let sl : Slot := { owner := some G0.ref, st := .full, fmt := .i8 }
       let j : Job := { job1 with tiles := [(0, sl)] }
       (j.tiles.find? fun e => e.1 == j.slotOf 0) = some (j.slotOf 0, sl) ∧ j.steps = 1 ∧ sl.scaled = false ∧ (sl.tile.map Prod.fst).Nodup
       ∧ { rec1 G0.ref with fmt := .i8 }.sc = false) := by decide +kernel

/-- A record of a hard partition beside no soft context; a warm reset that goes on and none. -/
theorem wit_PartitionsAndWarmReset :
    (let s := { bindMem with mem := wrMem (wrMem bindMem.mem (0x8000 + 0x5A) 1 1) (0x8000 + 0x5C) 4 0 }
     ((s.hvRead 0x8000 128).bind bindRecOf).map (fun r => (r.hard, s.saveFits r, s.bindFits r, s.freeRun r.queues, s.farHomeFor r.hard))
       = some (1, true, true, some 0, some 0) ∧ ∀ x ∈ s.ctxs, x.bindRec.hard ≠ 0)
    ∧ (let m := { (inState .locked).modl with recovering := some (7, 1) }
     ({ inState .locked with modl := m } : State).modl.recovering ≠ none ∧ (inState .locked).modl.recovering = none
     ∧ (inState .sealed).modl.recovering = none ∧ (inState .sealing).modl.recovering = none)
    ∧ (let s := { inState .locked with modl := { (inState .locked).modl with sessions := [session1 true] } }
       s.warmReady = true ∧ s.sent = [] ∧ s.reqs = [] ∧ ∀ c ∈ s.ctxs, c.st ∉ [CxState.run, .restoring, .halted]) := by decide +kernel
/-- A SIGNAL whose write waits for a store of a kernel that has gone; a circuit command that the limiter holds; a kernel that is placed all
at once and has no room. -/
theorem wit_QueuesWait :
    (withPq.unpublished (some 1) = false)
    ∧ (let s := (queue0 0 []).updCore 0 fun c => { c with pq := [{ queued with by_ := [(5, 0)], site := siteOf G0 P0 }] }
       s.unpublished (some 1) = true ∧ s.unpublished none = true ∧ s.unpublished (some 2) = false)
    ∧ (let s := { circuitCmd [] with ctxs := [limited] }
       s.engineClasses 1 0x9000 = [clsHbm] ∧ s.admits 1 [clsHbm] = false)
    ∧ ((circuitCmd []).admits 1 ((circuitCmd []).engineClasses 1 0x9000) = true)
    ∧ (let k : Kernel := { ready1K with kd := { ready1K.kd with coop := true } }
       let s0 := pool k
       let s := { s0 with modl := { s0.modl with geo := { s0.modl.geo with clmask := 0 } } }
       (match s.placeAll 1 0 (s.clustersFor 1) (k.total + 1) with
        | .no => true
        | .waits | .done _ => false) = true) := by decide +kernel

/-- The frame of a page that is going is free for the pool; a reclaim whose table reads find nothing. -/
theorem wit_PoolFrames : (asking 8 (2 ^ 30) true [page30 (.unmapping false)] 0).present (65536 * 300) = true
    ∧ (asking 8 (2 ^ 30) true [page30 (.unmapping false)] 0).foreignFrame 1 300 = false
    ∧ 300 ∉ (asking 8 (2 ^ 30) true [page30 (.unmapping false)] 0).modl.retired
    ∧ (asking 8 (2 ^ 30) false [page30 .mapped] (300 * 2 ^ 16 + 3)).noteTables = asking 8 (2 ^ 30) false [page30 .mapped] (300 * 2 ^ 16 + 3)
    ∧ (asking 8 (2 ^ 30) false [page30 .mapped] (300 * 2 ^ 16 + 3)).poolable 1 300 = true := by
  refine ⟨?_, ?_, ?_, rfl, ?_⟩ <;> decide +kernel

/-- A hint of a vchip of this package, to a resident context and to a sealed one with room; a packet that waits for a resend and one that
does not; a reply that passes and one that does not. -/
theorem wit_HintsAndLostPackets :
    (let c := { podCtx with vchips := [(3, 0x8000000000010001)] }
     (match c.egress 3 0 with
      | .ok (_, _, pkg, cxid, _) => pkg == (linkS 0 0 []).bar.link.pkgid && cxid == 1
      | .error _ => false) = true ∧ c.resident = true ∧ ({ c with st := .sealed } : Context).resident = false
     ∧ c.gran.withheld = false ∧ c.gran.used + (linkS 0 0 [] c).inFlight c + 256 ≤ c.bindRec.granSize)
    ∧ (let c := ingressCtx fun c => { c with lostPkts := [(9, false, 0, 0)] }
       c.awaitsLost 0 (packet (.hint 10 5) 1) = true ∧ c.awaitsLost 0 (packet (.hint 10 5) 0) = false
       ∧ c.awaitsLost 225000000 (packet (.hint 10 5) 1) = false)
    ∧ (packet (.ack 2) 0).intact = true ∧ { packet (.ack 2) 0 with intact := false }.loopback = false
    ∧ (∀ x ∈ (linkS 0 0 []).sent, x.id ≠ (linkS 0 0 []).nextId) := by decide +kernel

/-- A message that has been signed and one that has not; a TDI with a report; a due time that is near; images that fail and pass. -/
theorem wit_SessionsDueTimesAndImages :
    ((5, SpdmSigned.challengeAuth) ∈ ({ (inState .run).modl with signed := [(5, .challengeAuth)] } : Module).signed
     ∧ (5, SpdmSigned.keyExchange) ∉ (inState .run).modl.signed)
    ∧ ((tdiIn .run).ctx? 1).map (fun c => c.bindRec.tdi) = some true ∧ ((inState .run).ctx? 1).map (fun c => c.bindRec.tdi) = some false
    ∧ (let s := pool { ready1K with st := .recorded, deps := [.gtime 50] }
       50 ∈ s.dueTimes ∧ 51 ∉ s.dueTimes ∧ s.gtime ≤ 50) ∧ (pool ready1K).dueTimes = []
    ∧ ({ goodImage with ed25519 := false }.ed25519 = false ∧ { goodImage with altMldsa := false }.altMldsa = false)
    ∧ add3.modl.recovery = false := by decide +kernel

/-- Walks: with a translation for a read, a write and a look, with a page in migration, and with none. -/
theorem wit_Walks : regionOf 0x4000 = .localTable ∧ (∀ c ∈ (mk G0).ctxs, c.bindRec.ptRoot % 8 = 0)
    ∧ (let ok := fun (s : State) (va : Nat) (a : Acc) => match (s.walk 1 va a).2 with
         | .ok _ => 0
         | .wait => 1
         | .fail _ _ => 2
       let mig := { mk G0 with mem := wrMem (mk G0).mem fetchTable 8 0x00E0_0000_0000_000F }
       ok (mk G0) 0x4000 .read = 0 ∧ ok (mk G0) 0x4000 .write = 0 ∧ ok (mk G0) 0x4000 .quiet = 0 ∧ ok mig 0x4000 .read = 1
       ∧ regionOf (2 ^ 40) = .localTable ∧ ok (mk G0) (2 ^ 40) .read = 2) := by decide +kernel

/-! ## Single steps: what one instruction leaves, by hand from the spec -/

/-- The state behind an instruction. -/
def after (i : Instr) (s : State) : State :=
  match exec i s with
  | .next t => t
  | _ => s
def grp (s : State) : Machine.Group := (s.group? G0.ref).getD default
/-- The group with one V slot set in every lane. -/
def vals (l : List (Nat × Word)) : Machine.Group := l.foldl (fun g e => g.setLanes e.1 0xFFFFFFFF fun _ => e.2) G0
def lane (i : Instr) (l : List (Nat × Word)) (d : Nat) : Word := (grp (after i (mk (vals l)))).getV d 31
def uni (i : Instr) (l : List (Nat × Word)) (d : Nat) : Word := (grp (after i (mk { G0 with s := l }))).getS d

theorem test_iadd_wraps : lane (.iadd false 127 3 (.imm 1)) [(3, 0xFFFFFFFF)] 127 = 0 := by decide +kernel
theorem test_iadd_saturates : lane (.iadd true 0 3 (.imm 1)) [(3, 0x7FFFFFFF)] 0 = 0x7FFFFFFF := by decide +kernel
theorem test_isub_order : lane (.isub false 0 3 (.imm 1)) [(3, 5)] 0 = 4 := by decide +kernel
theorem test_imulh : lane (.imulh false 0 3 (.v 4)) [(3, 0xFFFFFFFF), (4, 2)] 0 = 0xFFFFFFFF
    ∧ lane (.imulh true 0 3 (.v 4)) [(3, 0xFFFFFFFF), (4, 2)] 0 = 1 := by decide +kernel
theorem test_shl_32 : lane (.shl 0 3 (.imm 32)) [(3, 1)] 0 = 0 ∧ lane (.sar 0 3 (.imm 33)) [(3, 0x80000000)] 0 = 0xFFFFFFFF := by decide +kernel
theorem test_iadd64_carry : lane (.iadd64 false 0 1 (.imm 1)) [(2, 0xFFFFFFFF), (3, 7)] 1 = 8 := by decide +kernel
theorem test_bfx_signed : lane (.bfx true 0 3 (.lit 0x304)) [(3, 0xF0)] 0 = 0xFFFFFFFF := by decide +kernel
theorem test_fadd : lane (.fadd 0 3 (.v 4)) [(3, 0x3FC00000), (4, 0x40100000)] 0 = 0x40700000 := by decide +kernel
theorem test_ffma_one_rounding : lane (.ffma 0 3 (.v 4)) [(0, 0xBF800000), (3, 0x3F800001), (4, 0x3F7FFFFF)] 0 = 0x337FFFFE := by decide +kernel
theorem test_frcp_zero : (grp (after (.frcp 0 (.imm 0)) (mk G0))).fpflags &&& 0x1F ≠ 0 ∧ lane (.frcp 0 (.imm 0)) [] 0 = 0x7F800000 := by
  decide +kernel
theorem test_cvt_f16 : lane (.cvtf .f32 .f16 false false 0 3) [(3, 0x3F800000)] 0 = 0x3C00 := by decide +kernel
theorem test_lrot : (grp (after (.lrot 0 3 (.imm 1)) (mk (G0.setLanes 3 0xFFFFFFFF fun l => BitVec.ofNat 32 l)))).getV 0 0 = 31 := by decide +kernel
theorem test_redi_min : (grp (after (.redi .smin 0 3) (mk (G0.setLanes 3 0xFFFFFFFF fun l => BitVec.ofNat 32 (40 - 2 * l))))).getS 0 = 0 := by
  decide +kernel
theorem test_sadd : uni (.sadd false 0 3 (.imm 12)) [(3, 0xFFFFFFF8)] 0 = 4 := by decide +kernel
theorem test_slea : uni (.slea true 0 1 (.imm 1)) [(2, 0xFFFFFFFC), (3, 1)] 1 = 2 := by decide +kernel
theorem test_scmp : uni (.scmp false 0 3 (.imm 0)) [(3, 0x80000000)] 0 = 0xFFFFFFFF ∧ uni (.scmp true 0 3 (.imm 0)) [(3, 0x80000000)] 0 = 1 := by
  decide +kernel
theorem test_brz : ((grp (after (.brz 3 0x3FFFE) (mk G0))).split? 0).map (·.pc) = some 0x3FF8 := by decide +kernel
theorem test_call_links : uni (.call 2 4) [] 4 = 0x4004 := by decide +kernel
theorem test_sread_lane : lane (.sread true 0 0) [] 0 = 31 := by decide +kernel
theorem test_trap : (grp (after (.trap 7) (mk G0))).trapRec.map (fun r => (r.cause, r.detail, r.pc)) = some (causeBit 20, 7, 0x4000) := by
  decide +kernel
theorem test_privilege : (grp (after (.winb 0) (mk user))).wb = 0 ∧ (grp (after (.swrite 0 0x020) (mk user))).fpmode = 0 := by decide +kernel
theorem test_barrier_phase : ((onWg (barred opened)).barOf G0 15).par = false
    ∧ ((after (.barr 15) (onWg (barred { opened with arra := 1, arrb := 8 }))).barOf G0 15).par = true := by decide +kernel
theorem test_scratch_store : (((after (.sts .b32 3 4 0) (mk (vals [(3, 0x11223344), (4, 8)]))).wgOf G0).map fun w => (w.byte 8, w.byte 11))
    = some (0x44, 0x11) := by decide +kernel
/-- IADD V10, V3, #5 in the first step. -/
theorem test_step_fetches : ((grp (stepped add3)).split? 0).map (·.pc) = some 0x4004 ∧ (grp (stepped add3)).getV 10 31 = 5
    ∧ (grp (stepped add3)).getV 3 31 = 0 := by decide +kernel
theorem test_lock : ((after (.lock 1) (inState .bound)).ctx? 1).map (·.st) = some .locked := by decide +kernel
theorem test_queue_nop : ((after (.queueNop 0) (queue0 0 [(0, 1, 5)])).queue? 0).map (fun q => (q.rdidx, q.st)) = some (1, .idle) := by decide +kernel

end Sys2Proof.Tests
end

section
/-! PROOFS. Time, ports, SPDM, idle levels, the power cap and the start of the device (spec/17_link.md, spec/18_operation.md). -/

namespace Sys2Proof.Machine

/-! ## What does not touch time, memory and the record of kernels -/

/-- k' is the kernel k behind tests of its dependences: some of them are met, and it may have become READY (R98, R104). -/
structure Kernel.Advances (k k' : Kernel) : Prop where
  cx : k'.cx = k.cx
  recorded : k'.st = .recorded → k.st = .recorded
  deps : ∀ d ∈ k'.deps, d ∈ k.deps

theorem Kernel.Advances.refl (k : Kernel) : k.Advances k := ⟨rfl, fun h => h, fun _ h => h⟩

theorem Kernel.Advances.trans {a b c : Kernel} (h : a.Advances b) (h' : b.Advances c) : a.Advances c :=
  ⟨h'.cx.trans h.cx, fun hc => h.recorded (h'.recorded hc), fun d hd => h.deps d (h'.deps d hd)⟩

/-- The kernels of l' are those of l, advanced. -/
structure KernelsAdvance (l l' : List Kernel) : Prop where
  length : l'.length = l.length
  source : ∀ k' ∈ l', ∃ k ∈ l, k.Advances k'

theorem KernelsAdvance.refl (l : List Kernel) : KernelsAdvance l l := ⟨rfl, fun k hk => ⟨k, hk, .refl k⟩⟩

theorem KernelsAdvance.trans {a b c : List Kernel} (h : KernelsAdvance a b) (h' : KernelsAdvance b c) : KernelsAdvance a c := by
  refine ⟨h'.length.trans h.length, fun z hz => ?_⟩
  obtain ⟨y, hy, hyz⟩ := h'.source z hz
  obtain ⟨x, hx, hxy⟩ := h.source y hy
  exact ⟨x, hx, hxy.trans hyz⟩

theorem KernelsAdvance.map (f : Kernel → Kernel) (hf : ∀ k : Kernel, k.Advances (f k)) (l : List Kernel) : KernelsAdvance l (l.map f) := by
  refine ⟨List.length_map f, fun k' hk' => ?_⟩
  obtain ⟨k, hk, rfl⟩ := List.mem_map.mp hk'
  exact ⟨k, hk, hf k⟩

/-- A fold that appends each kernel, advanced, to what it carries appends the advanced list. -/
theorem KernelsAdvance.foldl_append (f : List Kernel × Nat → Kernel → List Kernel × Nat)
    (hf : ∀ acc k, ∃ k' : Kernel, k.Advances k' ∧ (f acc k).1 = acc.1 ++ [k']) (l : List Kernel) (acc : List Kernel × Nat) :
    ∃ l', (l.foldl f acc).1 = acc.1 ++ l' ∧ KernelsAdvance l l' := by
  induction l generalizing acc with
  | nil => exact ⟨[], by simp, .refl []⟩
  | cons k t ih =>
    obtain ⟨k', hk', hacc⟩ := hf acc k
    obtain ⟨l', hl', ht⟩ := ih (f acc k)
    refine ⟨k' :: l', by simp [hl', hacc], by simp [ht.length], fun x hx => ?_⟩
    rcases List.mem_cons.mp hx with rfl | hx
    · exact ⟨k, by simp, hk'⟩
    · obtain ⟨y, hy, hyx⟩ := ht.source x hx
      exact ⟨y, by simp [hy], hyx⟩

theorem KernelsAdvance.foldl (f : List Kernel × Nat → Kernel → List Kernel × Nat)
    (hf : ∀ acc k, ∃ k' : Kernel, k.Advances k' ∧ (f acc k).1 = acc.1 ++ [k']) (l : List Kernel) (n : Nat) :
    KernelsAdvance l (l.foldl f ([], n)).1 := by
  obtain ⟨l', hl', hadv⟩ := KernelsAdvance.foldl_append f hf l ([], n)
  rwa [hl', List.nil_append]

/-- From s to t the clock and memory stand, and kernels at most advance. -/
structure ClockStands (s t : State) : Prop where
  gtime : t.gtime = s.gtime
  ptpSync : t.ptpSync = s.ptpSync
  mem : t.mem = s.mem
  kernels : KernelsAdvance s.kernels t.kernels

namespace ClockStands

theorem refl (s : State) : ClockStands s s := ⟨rfl, rfl, rfl, .refl _⟩

theorem trans {a b c : State} (h : ClockStands a b) (h' : ClockStands b c) : ClockStands a c :=
  ⟨h'.gtime.trans h.gtime, h'.ptpSync.trans h.ptpSync, h'.mem.trans h.mem, h.kernels.trans h'.kernels⟩

theorem of_eq {s t : State} (hg : t.gtime = s.gtime) (hp : t.ptpSync = s.ptpSync) (hm : t.mem = s.mem) (hk : t.kernels = s.kernels) :
    ClockStands s t := ⟨hg, hp, hm, by rw [hk]; exact .refl _⟩

theorem ite {s a b : State} (c : Prop) [Decidable c] (ha : ClockStands s a) (hb : ClockStands s b) :
    ClockStands s (if c then a else b) := by
  split
  · exact ha
  · exact hb

/-- A fold of steps over which the clock stands is one. -/
theorem foldl {α : Type} (f : State → α → State) (h : ∀ s a, ClockStands s (f s a)) (l : List α) (s : State) :
    ClockStands s (l.foldl f s) := by
  induction l generalizing s with
  | nil => exact .refl s
  | cons a t ih => exact (h s a).trans (ih _)

theorem sameMem {s t : State} (h : ClockStands s t) : SameMem s t := fun a => by simp only [State.byte, h.mem]

theorem promote (s : State) (cx : Nat) : ClockStands s (s.promote cx) := by
  unfold State.promote
  extract_lets n r s1
  have advanced : KernelsAdvance s.kernels r.1 := by
    refine KernelsAdvance.foldl _ (fun acc k => ?_) s.kernels n
    split
    · refine ⟨_, ?_, rfl⟩
      exact ⟨rfl, nofun, fun _ h => h⟩
    · exact ⟨k, .refl k, rfl⟩
  have hs1 : ClockStands s s1 := ⟨rfl, rfl, rfl, advanced⟩
  exact .ite _ (hs1.trans (of_eq rfl rfl rfl rfl)) hs1

/-- Kernels that p picks advance, and those without dependences enter the ready pool. -/
theorem promote_upd (s : State) (cx : Nat) (p : Kernel → Bool) (f : Kernel → Kernel) (hf : ∀ k : Kernel, k.Advances (f k)) :
    ClockStands s (({ s with kernels := upd p f s.kernels } : State).promote cx) := by
  have hupd : ClockStands s { s with kernels := upd p f s.kernels } := by
    refine ⟨rfl, rfl, rfl, .map _ (fun k => ?_) _⟩
    split
    · exact hf k
    · exact .refl k
  exact hupd.trans (promote _ cx)

theorem meet (s : State) (cx : Nat) (p : Dep → Bool) : ClockStands s (s.meet cx p) :=
  promote_upd s cx _ _ fun _ => ⟨rfl, fun h => h, fun _ hd => (List.mem_filter.mp hd).1⟩

theorem meetGtime (s : State) (cx : Nat) (p : Kernel → Bool) : ClockStands s (s.meetGtime cx p) :=
  promote_upd s cx _ _ fun _ => ⟨rfl, fun h => h, fun _ hd => (List.mem_filter.mp hd).1⟩

theorem undoScatter (s : State) (r : GRef) : ClockStands s (s.undoScatter r) := by
  rw [State.undoScatter]
  split
  · exact .refl s
  · exact .ite _ (.refl s) (of_eq rfl rfl rfl rfl)

theorem freeGroup (s : State) (r : GRef) : ClockStands s (s.freeGroup r) :=
  (undoScatter s r).trans (of_eq rfl rfl rfl rfl)

theorem settle (s : State) (r : GRef) : ClockStands s (s.settle r) := by
  rw [State.settle]
  split
  · exact .refl s
  · exact .ite _ ((freeGroup s r).trans (of_eq rfl rfl rfl rfl)) (.refl s)

theorem finishOp (s : State) (id : Nat) : ClockStands s (s.finishOp id) := by
  rw [State.finishOp]
  split
  · exact .refl s
  · refine ClockStands.trans ?_ (settle _ _)
    exact .ite _ (of_eq rfl rfl rfl rfl) (of_eq rfl rfl rfl rfl)

theorem withOpGroup (s : State) (o : PendOp) (f : Group → Group) : ClockStands s (s.withOpGroup o f) :=
  ite _ (of_eq rfl rfl rfl rfl) (of_eq rfl rfl rfl rfl)

theorem boardDone (s : State) (op : Nat) (lowest : Bool) (lap code : Nat) : ClockStands s (s.boardDone op lowest lap code) := by
  rw [State.boardDone]
  split
  · exact .refl s
  · split
    · exact (ite _ (withOpGroup s _ _) (.refl s)).trans
        (.ite _ (of_eq rfl rfl rfl rfl) (.ite _ (of_eq rfl rfl rfl rfl) (finishOp _ op)))
    · exact .refl s

theorem updCore (s : State) (n : Nat) (f : Core → Core) : ClockStands s (s.updCore n f) := of_eq rfl rfl rfl rfl

theorem endBoard (s : State) (core n lap code : Nat) : ClockStands s (s.endBoard core n lap code) := by
  rw [State.endBoard]
  split
  · exact .refl s
  · exact (updCore s _ _).trans (boardDone _ _ _ _ _)

theorem endBoards (s : State) (c : Circuit) : ClockStands s (s.endBoards c) := by
  rw [State.endBoards]
  refine .ite _ (.refl s) (foldl _ (fun s co => foldl _ (fun s e => ?_) _ s) _ s)
  split
  · exact .refl s
  · exact .ite _ (endBoard s _ _ _ _) (.refl s)

theorem lapTests (s : State) (c : Circuit) : ClockStands s (s.lapTests c) := by
  rw [State.lapTests]
  refine (meet s c.cx _).trans (foldl _ (fun s o => ?_) _ _)
  split
  · exact (withOpGroup s o _).trans (finishOp _ o.id)
  · exact .refl s

theorem sweepCircuit (s : State) (c : Circuit) : ClockStands s (s.sweepCircuit c) := ite _ (of_eq rfl rfl rfl rfl) (.refl s)

theorem updCirc (s : State) (id : Nat) (f : Circuit → Circuit) : ClockStands s (s.updCirc id f) := of_eq rfl rfl rfl rfl

theorem stopCircuit (s : State) (c : Circuit) (st : CircSt) : ClockStands s (s.stopCircuit c st) :=
  (((updCirc s _ _).trans (endBoards _ _)).trans (lapTests _ _)).trans (sweepCircuit _ _)

theorem endSpent (s : State) (p : Circuit → Bool) : ClockStands s (s.endSpent p) :=
  foldl _ (fun s c => stopCircuit s c .ended) _ s

theorem moveCircuits (s : State) (p : Circuit → Bool) (f : Circuit → Circuit) : ClockStands s (s.moveCircuits p f) :=
  have moved : ClockStands s { s with circuits := upd p f s.circuits } := of_eq rfl rfl rfl rfl
  moved.trans (foldl _ (fun s c => lapTests s (f c)) _ _)

theorem skipLaps (s : State) (t : Nat) : ClockStands s (s.skipLaps t) := (moveCircuits s _ _).trans (endSpent _ _)

end ClockStands

/-! ## Time (R350, R351) -/

/-- No RECORDED kernel of context cx waits for a time up to t. -/
def GtimeMet (t cx : Nat) (ks : List Kernel) : Prop := ∀ k ∈ ks, k.cx = cx → k.st = .recorded → ∀ u, Dep.gtime u ∈ k.deps → t < u

theorem GtimeMet.advance {t cx : Nat} {l l' : List Kernel} (h : GtimeMet t cx l) (ha : KernelsAdvance l l') : GtimeMet t cx l' := by
  intro k' hk' hcx hst u hu
  obtain ⟨k, hk, hkk⟩ := ha.source k' hk'
  exact h k hk (hkk.cx.symm.trans hcx) (hkk.recorded hst) u (hkk.deps _ hu)

theorem gtimeMet_meetGtime (s : State) (cx : Nat) : GtimeMet s.gtime cx (s.meetGtime cx fun _ => true).kernels := by
  rw [State.meetGtime]
  refine GtimeMet.advance ?_ (ClockStands.promote _ cx).kernels
  intro k' hk' hcx hst u hu
  obtain ⟨k, -, rfl⟩ := mem_upd.mp hk'
  by_cases hk : (k.cx == cx && k.st == .recorded && true) = true
  · rw [if_pos hk] at hu
    simpa using (List.mem_filter.mp hu).2
  · rw [if_neg hk] at hcx hst
    simp [hcx, hst] at hk

/-- A pass over contexts meets the dependences of each of them. -/
theorem gtimeMet_foldl (l : List Nat) (s : State) : ∀ cx ∈ l,
    GtimeMet s.gtime cx (l.foldl (fun s cx => s.meetGtime cx fun _ => true) s).kernels := by
  induction l generalizing s with
  | nil => simp
  | cons a t ih =>
    have hstep := ClockStands.meetGtime s a fun _ => true
    intro cx hcx
    rw [List.foldl_cons]
    rcases List.mem_cons.mp hcx with rfl | hcx
    · exact (gtimeMet_meetGtime s cx).advance (ClockStands.foldl _ (fun s cx => .meetGtime s cx _) t _).kernels
    · rw [← hstep.gtime]
      exact ih _ cx hcx

theorem mem_cxids_of_ctx? {s : State} {cx : Nat} (h : s.ctx? cx ≠ none) : cx ∈ s.ctxs.map (·.cxid) := by
  obtain ⟨c, hc⟩ := Option.ne_none_iff_exists'.mp h
  exact List.mem_map.mpr ⟨c, List.mem_of_find?_eq_some hc, by simpa using List.find?_some hc⟩

/-- A step of $GTIME sets the clock; the dependences and laps that it passes leave clock and memory as they are. -/
theorem stepGtime_clockStands (s : State) (ns : Nat) :
    ClockStands { s with gtime := (s.gtime + ns) % 2 ^ 64 } (s.stepGtime ns) :=
  (ClockStands.foldl _ (fun s cx => .meetGtime s cx _) _ _).trans (.skipLaps _ _)

/-- A step forward meets every dependence that it passes (R351). -/
theorem stepGtime_meets (s : State) (ns cx : Nat) (h : s.ctx? cx ≠ none) :
    GtimeMet (s.stepGtime ns).gtime cx (s.stepGtime ns).kernels := by
  rw [(stepGtime_clockStands s ns).gtime]
  exact (gtimeMet_foldl _ { s with gtime := (s.gtime + ns) % 2 ^ 64 } cx (mem_cxids_of_ctx? h)).advance (ClockStands.skipLaps _ _).kernels

/-- The state at the first synchronisation, of which PTPLOCK tells (R350). -/
def State.ptpLocked (s : State) : State := if s.ptpSync then s else ({ s with ptpSync := true } : State).emit .ptpLock

theorem ptpLocked_ptpSync (s : State) : s.ptpLocked.ptpSync = true := by
  rw [State.ptpLocked]
  split
  · assumption
  · rfl

/-- The first synchronisation changes the mark of it and the host events alone. -/
theorem ptpLocked_eq (s : State) : s.ptpLocked = { s with ptpSync := s.ptpLocked.ptpSync, hostEvents := s.ptpLocked.hostEvents } := by
  rw [State.ptpLocked]
  split <;> rfl

theorem exec_ptpEventMessage_forward (s : State) {corr : Int} (h : 0 < corr) :
    exec (.ptpEventMessage corr) s = .next (s.ptpLocked.stepGtime corr.natAbs) := by
  change execPtpEventMessage corr s = _
  rw [execPtpEventMessage, if_neg h.ne', if_neg (by omega)]
  rfl

theorem exec_ptpEventMessage_backward (s : State) {corr : Int} (h : corr < 0) :
    exec (.ptpEventMessage corr) s = .next { s.ptpLocked with slew := s.slew + 90000 * corr.natAbs } := by
  change execPtpEventMessage corr s = _
  rw [execPtpEventMessage, if_neg h.ne, if_pos h]
  simp only [State.ptpLocked]
  split <;> rfl

theorem exec_ptpEventMessage_zero (s : State) : exec (.ptpEventMessage 0) s = .next s.ptpLocked := rfl

theorem ptpEventMessage_spec (s : State) (corr : Int) :
    let locks := fun (x : State) => if s.ptpSync = true then x else { x with ptpSync := true, hostEvents := s.hostEvents ++ [.ptpLock] }
    (corr = 0 → exec (.ptpEventMessage corr) s = .next (locks s))
    ∧ (corr < 0 → exec (.ptpEventMessage corr) s = .next (locks { s with slew := s.slew + 90000 * corr.natAbs }))
    ∧ (0 < corr → ∃ t, exec (.ptpEventMessage corr) s = .next t ∧ t.gtime = (s.gtime + corr.natAbs) % 2 ^ 64 ∧ t.ptpSync = true ∧ SameMem s t
      ∧ t.kernels.length = s.kernels.length
      ∧ ∀ k ∈ t.kernels, s.ctx? k.cx ≠ none → k.st = .recorded → ∀ u, Dep.gtime u ∈ k.deps → t.gtime < u) := by
  refine ⟨?_, fun h => ?_, fun h => ?_⟩
  · rintro rfl
    exact exec_ptpEventMessage_zero s
  · rw [exec_ptpEventMessage_backward s h]
    simp only [State.ptpLocked]
    split <;> rfl
  · have heq := ptpLocked_eq s
    have hstep := stepGtime_clockStands s.ptpLocked corr.natAbs
    have hmem : s.ptpLocked.mem = s.mem := by rw [heq]
    refine ⟨_, exec_ptpEventMessage_forward s h, ?_, hstep.ptpSync.trans (ptpLocked_ptpSync s), ?_, ?_, ?_⟩
    · rw [hstep.gtime, heq]
    · intro a
      rw [hstep.sameMem a]
      exact congrArg (sget 0 · a) hmem
    · rw [hstep.kernels.length, heq]
    · intro k hk hcx
      refine stepGtime_meets s.ptpLocked corr.natAbs k.cx ?_ k hk rfl
      rw [heq]
      exact hcx

/-! ## Ports (R337) -/

/-- PORTUP with the bit of one port set or cleared. -/
def portSet (old : BitVec 8) (port : Nat) (up : Bool) : BitVec 8 :=
  if up then old ||| BitVec.ofNat 8 (2 ^ port) else old &&& ~~~BitVec.ofNat 8 (2 ^ port)

theorem getLsbD_portSet (old : BitVec 8) {port : Nat} (up : Bool) {j : Nat} (hj : j < 8) :
    (portSet old port up).getLsbD j = if j = port then up else old.getLsbD j := by
  have hbit : (BitVec.ofNat 8 (2 ^ port)).getLsbD j = decide (port = j) := by
    rw [BitVec.getLsbD_ofNat, Nat.testBit_two_pow, decide_eq_true hj, Bool.true_and]
  have hcomm : decide (port = j) = decide (j = port) := decide_eq_decide.mpr eq_comm
  rw [portSet]
  cases up
  · rw [if_neg Bool.false_ne_true, BitVec.getLsbD_and, BitVec.getLsbD_not, hbit, hcomm]
    by_cases h : j = port <;> simp [h, hj]
  · rw [if_pos rfl, BitVec.getLsbD_or, hbit, hcomm]
    by_cases h : j = port <;> simp [h]

theorem exec_portTrained_absent {s : State} {port : Nat} (h : 8 ≤ port ∨ s.modl.geo.ptmask.getLsbD port = false) (up : Bool) :
    exec (.portTrained port up) s = .next s := by
  change execPortTrained port up s = _
  rw [execPortTrained, if_pos (by simpa using h)]

theorem exec_portTrained_present {s : State} {port : Nat} (h : port < 8) (hp : s.modl.geo.ptmask.getLsbD port = true) (up : Bool) :
    exec (.portTrained port up) s =
      .next { s with bar := { s.bar with link := { s.bar.link with portup := portSet s.bar.link.portup port up } } } := by
  change execPortTrained port up s = _
  rw [execPortTrained, if_neg (by simp [h, hp])]
  rfl

theorem portTrained_spec (s : State) (port : Nat) (up : Bool) :
    (8 ≤ port ∨ s.modl.geo.ptmask.getLsbD port = false → exec (.portTrained port up) s = .next s)
    ∧ (port < 8 → s.modl.geo.ptmask.getLsbD port = true → ∃ t b, exec (.portTrained port up) s = .next t
      ∧ t = { s with bar := { s.bar with link := { s.bar.link with portup := b } } }
      ∧ ∀ j, j < 8 → b.getLsbD j = if j = port then up else s.bar.link.portup.getLsbD j) :=
  ⟨fun h => exec_portTrained_absent h up, fun h hp =>
    ⟨_, _, exec_portTrained_present h hp up, rfl, fun _ hj => getLsbD_portSet _ up hj⟩⟩

/-! ## SPDM (R352 to R354) -/

/-- The module is as m, and the reply tells of code and signatures. -/
def State.spdmTold (s : State) (m : Module) (id code sigs : Nat) : State :=
  { s with modl := m, hostEvents := s.hostEvents ++ [.spdmReply id code sigs] }

/-- The module with one of its sessions changed. -/
def Module.onSession (m : Module) (id : Nat) (f : SpdmSession → SpdmSession) : Module :=
  { m with sessions := m.sessions.map fun x => if x.id = id then f x else x }

theorem exec_spdmMessage (m : SpdmMsg) (s : State) : exec (.spdmMessage m) s = execSpdmMessage m s := rfl

/-- A session that has fetched the ML-DSA-65 signature of its KEY_EXCHANGE_RSP (R354). -/
def State.Secure (s : State) (id : Nat) : Prop := ∃ x ∈ s.modl.sessions, x.id = id ∧ x.mldsa = true

theorem session?_isSome_iff (s : State) (id : Nat) : (s.session? id).isSome = true ↔ s.Secure id := by
  simp [State.session?, State.Secure, List.find?_isSome]

theorem session?_isNone_of_secure {s : State} {id : Nat} (h : s.Secure id) : (s.session? id).isNone = false := by
  simpa using (session?_isSome_iff s id).mpr h

theorem session?_of_not_secure {s : State} {id : Nat} (h : ¬ s.Secure id) : s.session? id = none :=
  Option.not_isSome_iff_eq_none.mp (mt (session?_isSome_iff s id).mp h)

theorem exec_finish (s : State) (id : Nat) (auth : Bool) (h : ∃ x ∈ s.modl.sessions, x.id = id) :
    exec (.spdmMessage (.finish id auth)) s =
      .next (s.spdmTold (s.modl.onSession id fun x => { x with authenticated := auth }) id 0 0) := by
  rw [exec_spdmMessage]
  have known : (s.modl.sessions.any fun x => x.id == id) = true := by simpa using h
  simp only [execSpdmMessage, known, if_true, upd, beq_iff_eq]
  rfl

theorem exec_finish_refused (s : State) (id : Nat) (auth : Bool) (h : ¬ ∃ x ∈ s.modl.sessions, x.id = id) :
    exec (.spdmMessage (.finish id auth)) s = .next (s.spdmTold s.modl id 1 0) := by
  rw [exec_spdmMessage]
  have unknown : ¬ (s.modl.sessions.any fun x => x.id == id) = true := by simpa using h
  simp only [execSpdmMessage, if_neg unknown]
  rfl

theorem exec_fetchMldsa (s : State) (id : Nat) (k : SpdmSigned) (h : (id, k) ∈ s.modl.signed) :
    exec (.spdmMessage (.fetchMldsa id k)) s =
      .next (s.spdmTold (if k = .keyExchange then s.modl.onSession id fun x => { x with mldsa := true } else s.modl) id 0 2) := by
  rw [exec_spdmMessage]
  have sent : s.modl.signed.contains (id, k) = true := by simpa using h
  simp only [execSpdmMessage, sent, Bool.not_true, Bool.false_eq_true, if_false, upd, beq_iff_eq]
  split <;> rfl

theorem exec_fetchMldsa_refused (s : State) (id : Nat) (k : SpdmSigned) (h : (id, k) ∉ s.modl.signed) :
    exec (.spdmMessage (.fetchMldsa id k)) s = .next (s.spdmTold s.modl id 1 0) := by
  rw [exec_spdmMessage]
  have unsent : s.modl.signed.contains (id, k) = false := by simpa using h
  simp only [execSpdmMessage, unsent, Bool.not_false, if_true]
  rfl

theorem exec_getCertificate (s : State) (id : Nat) {slot : Nat} (h : slot < 2) :
    exec (.spdmMessage (.getCertificate id slot)) s = .next (s.emit (.certificate id slot (slot + 1))) := by
  rw [exec_spdmMessage]
  simp only [execSpdmMessage, if_pos h]

theorem exec_getCertificate_refused (s : State) (id : Nat) {slot : Nat} (h : 2 ≤ slot) :
    exec (.spdmMessage (.getCertificate id slot)) s = .next (s.spdmTold s.modl id 1 0) := by
  rw [exec_spdmMessage]
  simp only [execSpdmMessage, if_neg (Nat.not_lt.mpr h)]
  rfl

theorem exec_ideKm (s : State) (id stream : Nat) (key : Key) (h : s.Secure id)
    (hroom : (s.modl.ideStreams.filter fun e => e.1 != stream).length < 8) :
    exec (.spdmMessage (.ideKm id stream key)) s = .next (s.spdmTold
      { s.modl with ideStreams := (s.modl.ideStreams.filter fun e => e.1 != stream) ++ [(stream, key)] } id 0 0) := by
  rw [exec_spdmMessage]
  simp only [execSpdmMessage, session?_isNone_of_secure h]
  rw [if_neg (by simpa using hroom)]
  rfl

theorem exec_ideKm_refused (s : State) (id stream : Nat) (key : Key)
    (h : ¬ s.Secure id ∨ 8 ≤ (s.modl.ideStreams.filter fun e => e.1 != stream).length) :
    exec (.spdmMessage (.ideKm id stream key)) s = .next (s.spdmTold s.modl id 1 0) := by
  rw [exec_spdmMessage]
  have refused : ((s.session? id).isNone || decide ((s.modl.ideStreams.filter fun e => e.1 != stream).length ≥ 8)) = true := by
    rcases h with h | h
    · simp [session?_of_not_secure h]
    · simp only [ge_iff_le, h, decide_true, Bool.or_true]
  simp only [execSpdmMessage, refused, if_true]
  rfl

theorem exec_ideKmLink (s : State) (id : Nat) (key : Key) (h : s.Secure id) :
    exec (.spdmMessage (.ideKmLink id key)) s = .next (s.spdmTold { s.modl with linkIde := some key } id 0 0) := by
  rw [exec_spdmMessage]
  simp only [execSpdmMessage, session?_isNone_of_secure h]
  rfl

theorem exec_ideKmLink_refused (s : State) (id : Nat) (key : Key) (h : ¬ s.Secure id) :
    exec (.spdmMessage (.ideKmLink id key)) s = .next (s.spdmTold s.modl id 1 0) := by
  rw [exec_spdmMessage]
  simp only [execSpdmMessage, session?_of_not_secure h]
  rfl

theorem exec_tdiReport_refused (s : State) (id cx : Nat) (h : ¬ s.Secure id ∨ (s.ctx? cx).bind Context.report = none) :
    exec (.spdmMessage (.tdiReport id cx)) s = .next (s.spdmTold s.modl id 1 0) := by
  rw [exec_spdmMessage]
  rcases h with h | h
  · simp only [execSpdmMessage, session?_of_not_secure h]
    rfl
  · simp only [execSpdmMessage, h]
    cases s.session? id <;> rfl

theorem exec_tdiReport (s : State) (id cx : Nat) {rep : TdiReport} (h : s.Secure id) (hrep : (s.ctx? cx).bind Context.report = some rep) :
    exec (.spdmMessage (.tdiReport id cx)) s = .next (s.emit (.tdiReport id cx rep)) := by
  rw [exec_spdmMessage]
  obtain ⟨x, hx⟩ := Option.isSome_iff_exists.mp ((session?_isSome_iff s id).mpr h)
  simp only [execSpdmMessage, hx, hrep]

/-- What a TDI report says of a context that has one (R353). -/
theorem report_of_tdi {c : Context} (h : c.bindRec.tdi = true) : ∃ rep, c.report = some rep
    ∧ rep.first = 0x1000 * c.firstIface ∧ rep.stop = 0x1000 * (c.firstIface + c.bindRec.queues) ∧ rep.pasid = c.bindRec.pasid
    ∧ rep.digest = Config.sha384 (leNat c.bindRec.bytes.reverse) 128 ∧ rep.state = tdispOf c.st := by
  rw [Context.report, if_pos h]
  exact ⟨_, rfl, rfl, rfl, rfl, rfl, if_pos h⟩

theorem report_without_tdi {c : Context} (h : c.bindRec.tdi = false) : c.report = none := by
  rw [Context.report, if_neg (by simp [h])]

theorem tdiReport_spec (s : State) (id : Nat) :
    (∀ cx, ¬ s.Secure id ∨ s.ctx? cx = none → exec (.spdmMessage (.tdiReport id cx)) s = .next (s.spdmTold s.modl id 1 0))
    ∧ ∀ cx c, s.ctx? cx = some c → s.Secure id →
      (c.bindRec.tdi = false → exec (.spdmMessage (.tdiReport id cx)) s = .next (s.spdmTold s.modl id 1 0))
      ∧ (c.bindRec.tdi = true → ∃ rep, exec (.spdmMessage (.tdiReport id cx)) s = .next (s.emit (.tdiReport id cx rep))
        ∧ rep.first = 0x1000 * c.firstIface ∧ rep.stop = 0x1000 * (c.firstIface + c.bindRec.queues) ∧ rep.pasid = c.bindRec.pasid
        ∧ rep.digest = Config.sha384 (leNat c.bindRec.bytes.reverse) 128 ∧ rep.state = tdispOf c.st) := by
  refine ⟨fun cx h => exec_tdiReport_refused s id cx (h.imp_right fun hc => by rw [hc]; rfl),
    fun cx c hc hs => ⟨fun ht => ?_, fun ht => ?_⟩⟩
  · exact exec_tdiReport_refused s id cx (.inr (by rw [hc]; exact report_without_tdi ht))
  · obtain ⟨rep, hrep, fields⟩ := report_of_tdi ht
    exact ⟨rep, exec_tdiReport s id cx hs (by rw [hc]; exact hrep), fields⟩

/-! ## Idle levels (R359 to R361) -/

/-- A minimum over a list is at least a bound exactly when each part of it is. -/
theorem le_foldl_min_iff (l : List Context) (n t : Nat) : n ≤ l.foldl (fun t c => min t c.lt) t ↔ n ≤ t ∧ ∀ c ∈ l, n ≤ c.lt := by
  induction l generalizing t with
  | nil => simp
  | cons a l ih => simp [ih, and_assoc]

/-- An exit latency is within the tolerance exactly when it is within that of every RUN context (R359). -/
theorem exitUs_le_tolerance_iff (s : State) (u : IdleUnit) : exitUs u ≤ s.tolerance ↔ ∀ c ∈ s.ctxs, c.st = .run → exitUs u ≤ c.lt := by
  have hmax : exitUs u ≤ 4294967295 := by cases u <;> simp [exitUs]
  simp [State.tolerance, le_foldl_min_iff, hmax]

theorem soonDue_iff (s : State) (u : IdleUnit) :
    s.soonDue u = true ↔ ∃ n ∈ s.dueTimes, s.gtime ≤ n ∧ n ≤ s.gtime + 1000 * exitUs u := by simp [State.soonDue]

theorem exec_idleLevelEntry_stops {s : State} {u : IdleUnit} (htol : ∀ c ∈ s.ctxs, c.st = .run → exitUs u ≤ c.lt)
    (hcond : s.idleCond u = true) (hsoon : ¬ ∃ n ∈ s.dueTimes, s.gtime ≤ n ∧ n ≤ s.gtime + 1000 * exitUs u) (hnew : u ∉ s.modl.idle) :
    exec (.idleLevelEntry u) s = .next { s with modl := { s.modl with idle := s.modl.idle ++ [u] } } := by
  change execIdleLevelEntry u s = _
  rw [← soonDue_iff] at hsoon
  rw [execIdleLevelEntry, if_pos (by simp [(exitUs_le_tolerance_iff s u).mpr htol, hcond, hsoon, hnew])]

/-- A unit whose level may not be entered stays as it is. -/
theorem exec_idleLevelEntry_stays {s : State} {u : IdleUnit} (h : ¬ (exitUs u ≤ s.tolerance ∧ s.idleCond u = true
    ∧ (¬ ∃ n ∈ s.dueTimes, s.gtime ≤ n ∧ n ≤ s.gtime + 1000 * exitUs u) ∧ u ∉ s.modl.idle)) :
    exec (.idleLevelEntry u) s = .next s := by
  change execIdleLevelEntry u s = _
  rw [← soonDue_iff] at h
  rw [execIdleLevelEntry, if_neg (by simpa [and_assoc] using h)]

theorem exec_idlePrewake (s : State) (u : IdleUnit) (due : DWord) :
    exec (.idlePrewake u due) s =
      .next (if due.toNat ∈ s.dueTimes ∧ s.gtime ≤ due.toNat ∧ due.toNat ≤ s.gtime + 1000 * exitUs u then s.wakeUnit u else s) := by
  change execIdlePrewake u due s = _
  simp [execIdlePrewake, State.dueAt, and_assoc]

/-- The level of a unit is entered only where its latency is within the tolerance, its condition holds and nothing is due soon. -/
theorem idleLevel_spec (s : State) (u : IdleUnit) :
    let idle := fun (l : List IdleUnit) => ({ s with modl := { s.modl with idle := l } } : State)
    let left := s.modl.idle.filter fun v => !wakes u v
    let soon := ∃ n ∈ s.dueTimes, s.gtime ≤ n ∧ n ≤ s.gtime + 1000 * exitUs u
    ((∀ c ∈ s.ctxs, c.st = .run → exitUs u ≤ c.lt) → s.idleCond u = true → ¬ soon → u ∉ s.modl.idle →
      exec (.idleLevelEntry u) s = .next (idle (s.modl.idle ++ [u])))
      ∧ (s.idleCond u = false ∨ soon ∨ u ∈ s.modl.idle → exec (.idleLevelEntry u) s = .next s)
      ∧ exec (.idleLevelExit u) s = .next (idle left)
      ∧ ∀ due : DWord,
        let near := due.toNat ∈ s.dueTimes ∧ s.gtime ≤ due.toNat ∧ due.toNat ≤ s.gtime + 1000 * exitUs u
        (near → exec (.idlePrewake u due) s = .next (idle left)) ∧ (¬ near → exec (.idlePrewake u due) s = .next s) := by
  refine ⟨exec_idleLevelEntry_stops, fun h => exec_idleLevelEntry_stays ?_, rfl, fun due => ⟨fun h => ?_, fun h => ?_⟩⟩
  · rintro ⟨-, hcond, hsoon, hnew⟩
    rcases h with h | h | h
    · simp [h] at hcond
    · exact hsoon h
    · exact hnew h
  · rw [exec_idlePrewake, if_pos h]
    rfl
  · rw [exec_idlePrewake, if_neg h]

/-- A RUN context whose tolerance is below a unit's exit latency keeps the unit in use (R359). -/
theorem idleLevelEntry_intolerant {s : State} {u : IdleUnit} {c : Context} (hc : c ∈ s.ctxs) (hst : c.st = .run) (hlt : c.lt < exitUs u) :
    exec (.idleLevelEntry u) s = .next s :=
  exec_idleLevelEntry_stays fun ⟨htol, _⟩ => Nat.not_le.mpr hlt ((exitUs_le_tolerance_iff s u).mp htol c hc hst)

/-! ## The measured start (R362 to R365) -/

@[simp] theorem Module.log_slot (m : Module) (a b c d i : Nat) : (m.log a b c d).slot i = m.slot i := rfl

theorem Module.slot_extendSlot (m : Module) (i : Nat) (h : BitVec 384) {j : Nat} (hj : j < 8) :
    (m.extendSlot i h).slot j = if j = i then extend (m.slot j) h else m.slot j := by
  simp [Module.extendSlot, Module.slot, hj]

theorem Module.slot_restart (m : Module) {j : Nat} (hj : j < 8) : m.restart.slot j = 0 := by
  simp only [Module.restart, Module.slot, List.getD_eq_getElem?_getD, List.getElem?_replicate, hj, if_true, Option.getD_some]

/-- What a boot log entry tells beside its start and time. -/
def BootEntry.brief (e : BootEntry) : BitVec 8 × BitVec 8 × BitVec 16 := (e.step, e.outcome, e.attempts)

theorem Module.log_brief (m : Module) (a b c d : Nat) :
    (m.log a b c d).bootLog.map BootEntry.brief =
      m.bootLog.map BootEntry.brief ++ [(BitVec.ofNat 8 a, BitVec.ofNat 8 b, BitVec.ofNat 16 c)] := by
  simp [Module.log, BootEntry.brief]

/-- An image is accepted only when both of its signatures verify (R362). -/
def Verified (i : ImageIn) : Prop := i.ed25519 = true ∧ i.mldsa = true

theorem pickImage_good {i : ImageIn} (h : Verified i) : pickImage i false = some i.hash := by
  obtain ⟨h1, h2⟩ := h
  simp [pickImage, h1, h2]

theorem pickImage_bad {i : ImageIn} (h : ¬ Verified i) : pickImage i false = none := by
  have : ¬ (i.ed25519 && i.mldsa) = true := by simpa [Verified] using h
  simp only [pickImage, if_neg this, Bool.false_eq_true, if_false]

theorem pickImage_altBad {i : ImageIn} (h : i.altEd25519 = false ∨ i.altMldsa = false) : pickImage i true = none := by
  rcases h with h | h <;> simp [pickImage, h]

/-- A step that passes at its first try is logged, and the next one follows. -/
theorem startSteps_pass {inp : StartIn} {m m1 : Module} {k : Nat} (gtime fuel : Nat) (h : startStep inp m k false = some m1) :
    startSteps inp [] gtime (fuel + 1) k m = startSteps inp [] gtime fuel (k + 1) (m1.log k 0 1 gtime) := by
  simp only [startSteps, List.contains_nil, h, Bool.false_eq_true, if_false]

/-- A step that fails ends the start. -/
theorem startSteps_fail {inp : StartIn} {m : Module} {k : Nat} (alts : List Nat) (gtime fuel : Nat)
    (h : startStep inp m k (alts.contains k) = none) :
    startSteps inp alts gtime (fuel + 1) k m = (m.log k 1 (if alts.contains k then 2 else 1) gtime, some k) := by
  simp only [startSteps, h]

/-- What the start steps of R362 need to pass at the first try. -/
structure PassesAtOnce (inp : StartIn) (version : BitVec 32) : Prop where
  stage1 : Verified inp.stage1
  firmware : Verified inp.firmware
  recordImg : Verified inp.recordImg
  version : version ≤ inp.record.version
  hbm10 : inp.hbm10 = true

/-- The module behind steps 1 and 2, each passed at its first try. -/
def Module.imagesRead (m : Module) (inp : StartIn) (gtime : Nat) : Module :=
  (((m.extendSlot 0 inp.stage1.hash).log 1 0 1 gtime).extendSlot 1 inp.firmware.hash).log 2 0 1 gtime

/-- The module behind step 3. -/
def Module.recordRead (m : Module) (inp : StartIn) (gtime : Nat) : Module :=
  ({ (m.imagesRead inp gtime).extendSlot 2 inp.recordImg.hash with
      geo := (m.imagesRead inp gtime).geometryOf inp.record, pcGone := (m.imagesRead inp gtime).pcLost inp.record,
      recordVersion := inp.record.version, serial := inp.record.serial } : Module).log 3 0 1 gtime

/-- The module behind step 4, at the full rate. -/
def Module.trained (m : Module) (inp : StartIn) (gtime : Nat) : Module :=
  ({ (m.recordRead inp gtime).extendSlot 3 (hashNat 10) with hbmRate := 10 } : Module).log 4 0 1 gtime

theorem startSteps_firstTry {inp : StartIn} {m : Module} (h : PassesAtOnce inp m.recordVersion) (gtime : Nat) :
    startSteps inp [] gtime 4 1 m = (m.trained inp gtime, none) := by
  have h1 : startStep inp m 1 false = some (m.extendSlot 0 inp.stage1.hash) := by simp [startStep, pickImage_good h.stage1]
  have h2 (m : Module) : startStep inp m 2 false = some (m.extendSlot 1 inp.firmware.hash) := by simp [startStep, pickImage_good h.firmware]
  have h4 (m : Module) : startStep inp m 4 false = some { m.extendSlot 3 (hashNat 10) with hbmRate := 10 } := by simp [startStep, h.hbm10]
  have h3 : startStep inp (m.imagesRead inp gtime) 3 false = some
      { (m.imagesRead inp gtime).extendSlot 2 inp.recordImg.hash with
        geo := (m.imagesRead inp gtime).geometryOf inp.record, pcGone := (m.imagesRead inp gtime).pcLost inp.record,
        recordVersion := inp.record.version, serial := inp.record.serial } := by
    have hv : ¬ inp.record.version < (m.imagesRead inp gtime).recordVersion := BitVec.not_lt.mpr h.version
    simp only [startStep, Bool.false_eq_true, if_false, if_neg hv, pickImage_good h.recordImg, Option.map_some]
  rw [startSteps_pass gtime 3 h1, startSteps_pass gtime 2 (h2 _)]
  exact (startSteps_pass gtime 1 h3).trans (startSteps_pass gtime 0 (h4 _))

/-- The module behind steps 1 to 5, each passed at its first try. -/
def Module.booted (m : Module) (inp : StartIn) (gtime : Nat) : Module :=
  ({ m.restart.trained inp gtime with sealingKey := (m.restart.trained inp gtime).sealKey } : Module).log 5 0 1 gtime

theorem boot_firstTry {inp : StartIn} {m : Module} (h : PassesAtOnce inp m.recordVersion) (gtime : Nat) :
    m.boot inp gtime = m.booted inp gtime := by
  rw [Module.boot, bootLoop, startSteps_firstTry (m := m.restart) h gtime]
  rfl

theorem booted_brief (m : Module) (inp : StartIn) (gtime : Nat) :
    (m.booted inp gtime).bootLog.map BootEntry.brief =
      m.bootLog.map BootEntry.brief ++ [(1, 0, 1), (2, 0, 1), (3, 0, 1), (4, 0, 1), (5, 0, 1)] := by
  simp only [Module.booted, Module.trained, Module.recordRead, Module.imagesRead, Module.log_brief, Module.extendSlot, Module.restart,
    List.append_assoc]
  rfl

/-- Each of slots 0 to 3 is extended once by its step. -/
theorem booted_slots (m : Module) (inp : StartIn) (gtime : Nat) :
    (m.booted inp gtime).slot 0 = extend 0 inp.stage1.hash ∧ (m.booted inp gtime).slot 1 = extend 0 inp.firmware.hash
    ∧ (m.booted inp gtime).slot 2 = extend 0 inp.recordImg.hash ∧ (m.booted inp gtime).slot 3 = extend 0 (hashNat 10) := by
  have hb (j : Nat) : (m.booted inp gtime).slot j = ((m.restart.recordRead inp gtime).extendSlot 3 (hashNat 10)).slot j := rfl
  have hr (j : Nat) : (m.restart.recordRead inp gtime).slot j =
    ((m.restart.imagesRead inp gtime).extendSlot 2 inp.recordImg.hash).slot j := rfl
  simp [hb, hr, Module.imagesRead, Module.slot_extendSlot, Module.slot_restart]

/-- Step 1 fails on its image and on its alternate: two starts, and the device is in recovery state (R364). -/
theorem boot_stage1_fails {inp : StartIn} (h : ¬ Verified inp.stage1) (ha : inp.stage1.altEd25519 = false ∨ inp.stage1.altMldsa = false)
    (m : Module) (gtime : Nat) :
    m.boot inp gtime = { (m.restart.log 1 1 1 gtime).restart.log 1 1 2 gtime with recovery := true } := by
  have h1 (m : Module) : startStep inp m 1 (List.contains [] 1) = none := by simp [startStep, pickImage_bad h]
  have h2 (m : Module) : startStep inp m 1 (List.contains [1] 1) = none := by simp [startStep, pickImage_altBad ha]
  rw [Module.boot, bootLoop, startSteps_fail [] gtime 3 (h1 _)]
  change bootLoop inp gtime 4 [1] (m.restart.log 1 1 1 gtime) = _
  rw [bootLoop, startSteps_fail [1] gtime 3 (h2 _)]
  rfl

theorem stage1_fails_brief (m : Module) (gtime : Nat) :
    ((m.restart.log 1 1 1 gtime).restart.log 1 1 2 gtime).bootLog.map BootEntry.brief =
      m.bootLog.map BootEntry.brief ++ [(1, 1, 1), (1, 1, 2)] := by
  have hrestart (m : Module) : m.restart.bootLog = m.bootLog := rfl
  rw [Module.log_brief, hrestart, Module.log_brief, hrestart, List.append_assoc]
  rfl

/-- The state that a start leaves in recovery, or reaches before steps 6 and 7: memory and every register are as after reset. -/
def State.powerOn (s : State) (m : Module) : State :=
  { State.reset with modl := m, hostMem := s.hostMem, hostDenied := s.hostDenied, hostEvents := s.hostEvents, wire := s.wire,
                     nextId := s.nextId, freeCount := s.freeCount, keysDrawn := s.keysDrawn, issuer := s.issuer,
                     schedule := s.schedule }

theorem deviceStart_recovery {s : State} {inp : StartIn} (h : (s.modl.boot inp 0).recovery = true) :
    s.deviceStart inp = s.powerOn (s.modl.boot inp 0) := by
  rw [State.deviceStart, if_pos h]
  rfl

/-- The module behind steps 6 and 7, both passed. -/
def Module.linked (m : Module) (up : BitVec 8) : Module := ((m.extendSlot 4 (hashNat up.toNat)).log 6 0 1 0).log 7 0 1 0

/-- A start that passes all its steps. -/
theorem deviceStart_linked {s : State} {inp : StartIn} (h : (s.modl.boot inp 0).recovery = false) (hports : inp.portsOk = true)
    (hptp : inp.ptpOk = true) :
    let up := inp.portsUp &&& (s.modl.boot inp 0).geo.ptmask
    let s1 := s.powerOn ((s.modl.boot inp 0).linked up)
    s.deviceStart inp =
      ({ s1 with ptpSync := true, bar := { s1.bar with link := { s1.bar.link with portup := up } } } : State).emit .ptpLock := by
  rw [State.deviceStart, if_neg (by simp [h])]
  simp only [hports, hptp, if_true]
  rfl

theorem linked_brief (m : Module) (up : BitVec 8) :
    (m.linked up).bootLog.map BootEntry.brief = m.bootLog.map BootEntry.brief ++ [(6, 0, 1), (7, 0, 1)] := by
  simp only [Module.linked, Module.log_brief, Module.extendSlot, List.append_assoc]
  rfl

theorem linked_slot (m : Module) (up : BitVec 8) {j : Nat} (hj : j < 4) : (m.linked up).slot j = m.slot j := by
  simp [Module.linked, Module.slot_extendSlot, show j < 8 by omega, show j ≠ 4 by omega]

/-- The state behind a start that passes every step at once. -/
def State.started (s : State) (inp : StartIn) : State :=
  let up := inp.portsUp &&& inp.record.ptmask
  let s1 := s.powerOn ((s.modl.booted inp 0).linked up)
  ({ s1 with ptpSync := true, bar := { s1.bar with link := { s1.bar.link with portup := up } } } : State).emit .ptpLock

theorem exec_deviceStart_started {s : State} {inp : StartIn} (h : PassesAtOnce inp s.modl.recordVersion) (hports : inp.portsOk = true)
    (hptp : inp.ptpOk = true) : exec (.deviceStart inp) s = .next (s.started inp) := by
  have hboot := boot_firstTry h 0
  have hrun : (s.modl.boot inp 0).recovery = false := by
    rw [hboot]
    rfl
  change Host.Outcome.next (s.deviceStart inp) = _
  rw [deviceStart_linked hrun hports hptp, hboot]
  rfl

theorem started_brief (s : State) (inp : StartIn) :
    (s.started inp).modl.bootLog.map BootEntry.brief =
      s.modl.bootLog.map BootEntry.brief ++ (List.range 7).map fun j => (BitVec.ofNat 8 (j + 1), 0#8, 1#16) := by
  change ((s.modl.booted inp 0).linked _).bootLog.map _ = _
  rw [linked_brief, booted_brief, List.append_assoc]
  rfl

theorem started_slots (s : State) (inp : StartIn) :
    (s.started inp).modl.slot 0 = extend 0 inp.stage1.hash ∧ (s.started inp).modl.slot 1 = extend 0 inp.firmware.hash
    ∧ (s.started inp).modl.slot 2 = extend 0 inp.recordImg.hash ∧ (s.started inp).modl.slot 3 = extend 0 (hashNat 10) := by
  have hslot {j : Nat} (hj : j < 4) : (s.started inp).modl.slot j = (s.modl.booted inp 0).slot j := linked_slot _ _ hj
  rw [hslot (by decide), hslot (by decide), hslot (by decide), hslot (by decide)]
  exact booted_slots s.modl inp 0

/-- Where step 1 fails on both images the device stays in recovery state, and the log names both tries (R364). -/
theorem exec_deviceStart_stage1_fails (s : State) {inp : StartIn} (h : ¬ Verified inp.stage1)
    (ha : inp.stage1.altEd25519 = false ∨ inp.stage1.altMldsa = false) :
    exec (.deviceStart inp) s = .next (s.powerOn { (s.modl.restart.log 1 1 1 0).restart.log 1 1 2 0 with recovery := true }) := by
  have hboot := boot_stage1_fails h ha s.modl 0
  change Host.Outcome.next (s.deviceStart inp) = _
  rw [deviceStart_recovery (by rw [hboot]), hboot]

/-! ## The obligation -/

/-- Settles O52: each step by its equation above. Behind a step of $GTIME dependences are met by stepGtime_meets, since the laps that are
then skipped keep ClockStands; a start that passes every step ends in State.started. -/
theorem timePortsIdleAndStart : Obligations.TimePortsIdleAndStart := by
  refine ⟨ptpEventMessage_spec, portTrained_spec, fun s id => ?_, idleLevel_spec,
    fun _ _ _ => idleLevelEntry_intolerant, fun _ _ => rfl, fun s inp => ?_⟩
  · obtain ⟨noReport, reports⟩ := tdiReport_spec s id
    exact ⟨fun _ => rfl, fun known auth => exec_finish s id auth known, fun k => exec_fetchMldsa s id k,
      fun k => exec_fetchMldsa_refused s id k, fun unknown auth => exec_finish_refused s id auth unknown, rfl, rfl,
      fun _ => exec_getCertificate s id, fun _ => exec_getCertificate_refused s id, rfl, fun stream key =>
      ⟨exec_ideKm s id stream key, exec_ideKm_refused s id stream key, exec_ideKmLink s id key, exec_ideKmLink_refused s id key,
        noReport, reports⟩⟩
  · refine ⟨fun h1 h2 h3 hv hhbm hports hptp => ?_, fun h ha => ?_⟩
    · obtain ⟨slot0, slot1, slot2, slot3⟩ := started_slots s inp
      exact ⟨_, exec_deviceStart_started ⟨h1, h2, h3, hv, hhbm⟩ hports hptp, rfl, rfl, rfl, rfl, rfl, rfl, rfl, rfl, rfl, rfl, rfl, rfl, rfl,
        rfl, rfl, rfl, rfl, slot0, slot1, slot2, slot3, rfl, rfl, rfl, rfl, started_brief s inp⟩
    · exact ⟨_, exec_deviceStart_stage1_fails s h ha, rfl, rfl, stage1_fails_brief s.modl 0⟩

end Sys2Proof.Machine
end

section
/-! PROOFS. Words and instructions: decode gives back what encode wrote (spec/02_words.md R29, R34 to R41). -/

namespace Sys2Proof

/-! ## Fields of words put together -/

@[simp] theorem extractLsb'_append_low {m n s k : Nat} (x : BitVec m) (y : BitVec n) (h : s + k ≤ n) :
    (x ++ y).extractLsb' s k = y.extractLsb' s k := by
  apply BitVec.eq_of_getLsbD_eq
  intro i hi
  simp [BitVec.getLsbD_append, hi, show s + i < n by omega]

@[simp] theorem extractLsb'_append_high {m n s k : Nat} (x : BitVec m) (y : BitVec n) (h : n ≤ s) :
    (x ++ y).extractLsb' s k = x.extractLsb' (s - n) k := by
  apply BitVec.eq_of_getLsbD_eq
  intro i hi
  simp [BitVec.getLsbD_append, hi, show ¬ s + i < n by omega, show s + i - n = s - n + i by omega]

@[simp] theorem getLsbD_append_low {m n s : Nat} (x : BitVec m) (y : BitVec n) (h : s < n) : (x ++ y).getLsbD s = y.getLsbD s := by
  simp [BitVec.getLsbD_append, h]

@[simp] theorem getLsbD_append_high {m n s : Nat} (x : BitVec m) (y : BitVec n) (h : n ≤ s) :
    (x ++ y).getLsbD s = x.getLsbD (s - n) := by
  simp [BitVec.getLsbD_append, Nat.not_lt.mpr h]

section PackA
variable (op : BitVec 8) (x : Bool) (e : BitVec 2) (d a b : BitVec 7)

theorem packA_fields : fOp (packA op x e d a b) = op ∧ fX (packA op x e d a b) = x ∧ fE (packA op x e d a b) = e
    ∧ fD (packA op x e d a b) = d ∧ fA (packA op x e d a b) = a ∧ fB (packA op x e d a b) = b := by
  simp (disch := omega) [packA, fOp, fX, fE, fD, fA, fB, -Nat.reduceAdd, -BitVec.getLsbD_eq_getElem]

@[simp] theorem fOp_packA : fOp (packA op x e d a b) = op := (packA_fields op x e d a b).1
@[simp] theorem fX_packA : fX (packA op x e d a b) = x := (packA_fields op x e d a b).2.1
@[simp] theorem fE_packA : fE (packA op x e d a b) = e := (packA_fields op x e d a b).2.2.1
@[simp] theorem fD_packA : fD (packA op x e d a b) = d := (packA_fields op x e d a b).2.2.2.1
@[simp] theorem fA_packA : fA (packA op x e d a b) = a := (packA_fields op x e d a b).2.2.2.2.1
@[simp] theorem fB_packA : fB (packA op x e d a b) = b := (packA_fields op x e d a b).2.2.2.2.2

end PackA

section PackMd
variable (op : BitVec 8) (md : BitVec 3) (d a b : BitVec 7)

theorem packMd_fields : fOp (packMd op md d a b) = op ∧ fMd (packMd op md d a b) = md ∧ fD (packMd op md d a b) = d
    ∧ fA (packMd op md d a b) = a ∧ fB (packMd op md d a b) = b := by
  simp (disch := omega) [packMd, fOp, fMd, fD, fA, fB, -Nat.reduceAdd]

@[simp] theorem fOp_packMd : fOp (packMd op md d a b) = op := (packMd_fields op md d a b).1
@[simp] theorem fMd_packMd : fMd (packMd op md d a b) = md := (packMd_fields op md d a b).2.1
@[simp] theorem fD_packMd : fD (packMd op md d a b) = d := (packMd_fields op md d a b).2.2.1
@[simp] theorem fA_packMd : fA (packMd op md d a b) = a := (packMd_fields op md d a b).2.2.2.1
@[simp] theorem fB_packMd : fB (packMd op md d a b) = b := (packMd_fields op md d a b).2.2.2.2

end PackMd

@[simp] theorem fOp_packS (op : BitVec 8) (imm : BitVec 24) : fOp (packS op imm) = op := by
  simp (disch := omega) [packS, fOp, -Nat.reduceAdd]

@[simp] theorem fImm24_packS (op : BitVec 8) (imm : BitVec 24) : fImm24 (packS op imm) = imm := by
  simp (disch := omega) [packS, fImm24, -Nat.reduceAdd]

section PackJ
variable (op : BitVec 8) (c : BitVec 6) (off : BitVec 18)

theorem packJ_fields : fOp (packJ op c off) = op ∧ fCond (packJ op c off) = c ∧ fOff18 (packJ op c off) = off := by
  simp (disch := omega) [packJ, fOp, fCond, fOff18, -Nat.reduceAdd]

@[simp] theorem fOp_packJ : fOp (packJ op c off) = op := (packJ_fields op c off).1
@[simp] theorem fCond_packJ : fCond (packJ op c off) = c := (packJ_fields op c off).2.1
@[simp] theorem fOff18_packJ : fOff18 (packJ op c off) = off := (packJ_fields op c off).2.2

end PackJ

section PackX
variable (op : BitVec 8) (fs lit acc : Bool) (c : BitVec 7) (q w : BitVec 3) (steps : BitVec 8)

theorem packX_fields : let x := packX op fs lit acc c q w steps
    fX x = fs ∧ x.getLsbD 22 = lit ∧ x.getLsbD 21 = acc ∧ fD x = c
    ∧ x.extractLsb' 11 3 = q ∧ x.extractLsb' 8 3 = w ∧ x.extractLsb' 0 8 = steps := by
  simp (disch := omega) [packX, fX, fD, -Nat.reduceAdd, -BitVec.getLsbD_eq_getElem]

@[simp] theorem fOp_packX : fOp (packX op fs lit acc c q w steps) = op := by
  simp (disch := omega) [packX, fOp, -Nat.reduceAdd]

end PackX

/-! ## Operands and codes -/

@[simp] theorem zero7_zero : zero7 0#7 = .ok () := rfl
@[simp] theorem ensure_true (e : DecodeErr) : ensure true e = .ok () := rfl

/-- A decoder goes on behind a field that decodes. -/
@[simp] theorem ok_bind {α β : Type} (x : α) (k : α → Except DecodeErr β) : (Except.ok x >>= k) = k x := rfl

theorem ofS_fields (r : BitVec 6) : (ofS r).getLsbD 6 = false ∧ (ofS r).extractLsb' 0 6 = r := by
  simp (disch := omega) [ofS, -Nat.reduceAdd, -BitVec.getLsbD_eq_getElem]

@[simp] theorem sReg_ofS (r : BitVec 6) : sReg (ofS r) = .ok r := by simp only [sReg, ofS_fields]; rfl

@[simp] theorem vPair_ofVPair (p : BitVec 6) : vPair (ofVPair p) = .ok p := by
  simp (disch := omega) [vPair, ofVPair, -Nat.reduceAdd, -BitVec.getLsbD_eq_getElem]

@[simp] theorem sPair_ofSPair (p : BitVec 5) : sPair (ofSPair p) = .ok p := by
  simp (disch := omega) [sPair, ofSPair,
    -Nat.reduceAdd, -BitVec.getLsbD_eq_getElem]

@[simp] theorem mReg_ofM (m : BitVec 3) : mReg (ofM m) = .ok m := by
  simp (disch := omega) [mReg, ofM, -Nat.reduceAdd]

@[simp] theorem nib_ofNib (n : BitVec 4) : nib (ofNib n) = .ok n := by
  simp (disch := omega) [nib, ofNib, -Nat.reduceAdd]

@[simp] theorem ofS_toNat (r : BitVec 6) : (ofS r).toNat = r.toNat := by
  simp [ofS, BitVec.toNat_append, -Nat.reduceAdd]

@[simp] theorem decOpnd_field (b : Opnd) : decOpnd b.bsel b.field (b.litWord.getD 0#32) = .ok b := by
  cases b <;> simp [decOpnd, Opnd.bsel, Opnd.field, Opnd.litWord]

@[simp] theorem decOpnd64_field (b : Opnd64) : decOpnd64 b.bsel b.field (b.litWord.getD 0#32) = .ok b := by
  cases b <;> simp [decOpnd64, Opnd64.bsel, Opnd64.field, Opnd64.litWord]

@[simp] theorem decUOpnd_field (b : UOpnd) : decUOpnd b.bsel b.field (b.litWord.getD 0#32) = .ok b := by
  cases b <;> simp [decUOpnd, UOpnd.bsel, UOpnd.field, UOpnd.litWord]

theorem decLaneSel_field (k : LaneSel) (h : k.wf = true) : decLaneSel k.x k.bsel k.field (k.litWord.getD 0#32) = .ok k := by
  cases k with
  | idx b => simp [decLaneSel, LaneSel.x, LaneSel.bsel, LaneSel.field, LaneSel.litWord]
  | lo e lit =>
    by_cases he : e = 3#2
    · simp [decLaneSel, LaneSel.x, LaneSel.bsel, LaneSel.field, LaneSel.litWord, he]
    · have hl : lit = 0#32 := by simpa [LaneSel.wf, he] using h
      simp [decLaneSel, LaneSel.x, LaneSel.bsel, LaneSel.field, he, hl]

theorem Opnd.bsel_eq_three (b : Opnd) : b.bsel = 3 ↔ b.litWord ≠ none := by cases b <;> simp [Opnd.bsel, Opnd.litWord]
theorem Opnd64.bsel_eq_three (b : Opnd64) : b.bsel = 3 ↔ b.litWord ≠ none := by cases b <;> simp [Opnd64.bsel, Opnd64.litWord]
theorem UOpnd.bsel_eq_three (b : UOpnd) : b.bsel = 3 ↔ b.litWord ≠ none := by cases b <;> simp [UOpnd.bsel, UOpnd.litWord]

theorem LaneSel.bsel_eq_three (k : LaneSel) : k.bsel = 3 ↔ k.litWord ≠ none := by
  cases k with
  | idx b => exact b.bsel_eq_three
  | lo e lit => by_cases he : e = 3 <;> simp [LaneSel.bsel, LaneSel.litWord, he]

theorem decSize_code (z : Size) {d : BitVec 7} (h : z.fits d.toNat = true) : decSize z.code d = .ok z := by
  cases z <;> simp [decSize, Size.code, h]

@[simp] theorem decByteForm_code (f : ByteForm) : decByteForm f.code = f := by cases f <;> rfl
@[simp] theorem decScope_code (c : Scope) : decScope c.code = .ok c := by cases c <;> rfl
@[simp] theorem decAOrd_code (o : AOrd) : decAOrd o.code = o := by cases o <;> rfl
@[simp] theorem decAop_code (o : Aop) : decAop o.code = .ok o := by cases o <;> rfl
@[simp] theorem decWCmp_code (c : WCmp) : decWCmp c.code = .ok c := by cases c <;> rfl
@[simp] theorem decIcc_code (c : Icc) : decIcc c.code = .ok c := by cases c <;> rfl
@[simp] theorem decFcc_code (c : Fcc) : decFcc c.code = .ok c := by cases c <;> rfl
@[simp] theorem decRedOp_code (o : RedOp) : decRedOp o.code = o := by cases o <;> rfl
@[simp] theorem decRedF_code (o : RedF) : decRedF o.code = .ok o := by cases o <;> rfl
@[simp] theorem decVote_code (k : VoteK) : decVote k.code = .ok k := by cases k <;> rfl
@[simp] theorem decFFmt_code (f : FFmt) : decFFmt f.code = .ok f := by cases f <;> rfl
@[simp] theorem decCvti_code (k : CvtiK) : decCvti k.code = k := by cases k <;> rfl
@[simp] theorem decFmt_code (f : Fmt) : decFmt f.code = .ok f := by cases f <;> rfl
@[simp] theorem decDir_code (d : CopyDir) : decDir d.code = .ok d := by cases d <;> rfl
@[simp] theorem decShMode_code (m : ShMode) : decShMode m.code = .ok m := by cases m <;> rfl
@[simp] theorem decFlush_code (m : FlushMode) : decFlush m.code = .ok m := by cases m <;> rfl

theorem checked_of_wf {i : Instr} (h : i.wf = true) : checked i = .ok i := by simp [checked, h]

/-! ## The opcode decides the row and the literal -/

/-- The rows of an opcode (R41). -/
def decodeAt (op : BitVec 8) (w lit : Word) : Dec :=
  let op := op.toNat
  if op < 0x40 then decInt op w lit
  else if op < 0x70 then decFloat op w lit
  else if op < 0x80 then decMov op w lit
  else if op < 0xA0 then decUc op w lit
  else if op < 0xC0 then decMem op w lit
  else if op < 0xE0 then decTile op w lit
  else if op < 0xF0 then decSys op w lit
  else decHeader w

theorem decode_eq_decodeAt (w lit : Word) : decode w lit = decodeAt (fOp w) w lit := rfl

/-- The ways in which an opcode brings a literal (R40): with BSEL = 0b11, with bit 22, always. -/
def literalBy (n : Nat) : Bool × Bool × Bool :=
  ((0x02 ≤ n && n ≤ 0x1E && n != 0x19) || (0x40 ≤ n && n ≤ 0x4D) || (0x50 ≤ n && n ≤ 0x52)
    || (0x58 ≤ n && n ≤ 0x62) || (0x70 ≤ n && n ≤ 0x78 && n != 0x75 && n != 0x76) || (0x80 ≤ n && n ≤ 0x8C),
   n == 0xD2,
   n == 0x7C || n == 0x95 || n == 0x98 || (0xAA ≤ n && n ≤ 0xAD) || n == 0xB4 || (0xC0 ≤ n && n ≤ 0xC4)
    || n == 0xD0 || n == 0xD3 || n == 0xD8 || n == 0xE0 || n == 0xE6)

theorem takesLiteral_eq {w : Word} {bsel bit22 always : Bool} (h : literalBy (fOp w).toNat = (bsel, bit22, always)) :
    takesLiteral w = ((bsel && fE w == 3) || (bit22 && w.getLsbD 22) || always) := by
  obtain ⟨rfl, rfl, rfl⟩ := (by simpa only [literalBy, Prod.mk.injEq] using h)
  simp only [takesLiteral, Bool.or_assoc]

/-! ## Round trips by shape -/

/-- What the obligation says of one instruction. -/
def RoundTrip (i : Instr) : Prop :=
  i.wf = true → encode i ≠ [] →
    ∃ w rest, encode i = w :: rest ∧ rest.length ≤ 1 ∧ (rest ≠ [] ↔ takesLiteral w = true) ∧ decode w (rest.headD 0) = .ok i

section
variable {i : Instr} {w lit : Word} {op : BitVec 8}

/-- A step of another agent has no words. -/
theorem RoundTrip.event (h : encode i = []) : RoundTrip i := fun _ hne => absurd h hne

theorem RoundTrip.one (hop : fOp w = op) (hlit : literalBy op.toNat = (false, false, false)) (henc : encode i = [w])
    (hdec : i.wf = true → decodeAt op w 0 = .ok i) : RoundTrip i := by
  subst hop
  exact fun hwf _ => ⟨w, [], henc, by simp, by simp [takesLiteral_eq hlit], hdec hwf⟩

theorem RoundTrip.two (hop : fOp w = op) (hlit : literalBy op.toNat = (false, false, true)) (henc : encode i = [w, lit])
    (hdec : i.wf = true → decodeAt op w lit = .ok i) : RoundTrip i := by
  subst hop
  exact fun hwf _ => ⟨w, [lit], henc, by simp, by simp [takesLiteral_eq hlit], hdec hwf⟩

/-- A row whose BSEL says whether there is a literal. -/
theorem RoundTrip.bsel {o : Option Word} (hop : fOp w = op) (hlit : literalBy op.toNat = (true, false, false))
    (henc : encode i = w :: o.toList) (he : fE w = 3 ↔ o ≠ none) (hdec : i.wf = true → decodeAt op w (o.getD 0#32) = .ok i) :
    RoundTrip i := by
  subst hop
  refine fun hwf _ => ⟨w, o.toList, henc, ?_, ?_, ?_⟩
  · cases o <;> simp
  · cases o <;> simp_all [takesLiteral_eq hlit]
  · rw [← hdec hwf]
    cases o <;> rfl

end

/-! ### Rows with a BSEL -/

section
variable {op : BitVec 8}

theorem roundTrip_laneX {mk : Bool → BitVec 7 → BitVec 7 → Opnd → Instr} {x : Bool} {d a : BitVec 7} {b : Opnd}
    (hrow : ∀ w lit, decodeAt op w lit = decLaneX w lit mk) (hlit : literalBy op.toNat = (true, false, false))
    (henc : encode (mk x d a b) = encLane op x d a b) : RoundTrip (mk x d a b) :=
  .bsel (fOp_packA ..) hlit henc (by simpa using b.bsel_eq_three) fun hwf => by
    rw [hrow]
    simp [decLaneX, checked_of_wf hwf]

theorem roundTrip_lane {mk : BitVec 7 → BitVec 7 → Opnd → Instr} {d a : BitVec 7} {b : Opnd}
    (hrow : ∀ w lit, decodeAt op w lit = decLane w lit mk) (hlit : literalBy op.toNat = (true, false, false))
    (henc : encode (mk d a b) = encLane op false d a b) : RoundTrip (mk d a b) :=
  .bsel (fOp_packA ..) hlit henc (by simpa using b.bsel_eq_three) fun hwf => by
    rw [hrow]
    simp [decLane, checked_of_wf hwf]

theorem roundTrip_unary {mk : BitVec 7 → Opnd → Instr} {d : BitVec 7} {b : Opnd}
    (hrow : ∀ w lit, decodeAt op w lit = decUnary w lit mk) (hlit : literalBy op.toNat = (true, false, false))
    (henc : encode (mk d b) = encLane op false d 0 b) : RoundTrip (mk d b) :=
  .bsel (fOp_packA ..) hlit henc (by simpa using b.bsel_eq_three) fun hwf => by
    rw [hrow]
    simp [decUnary, checked_of_wf hwf]

theorem roundTrip_pack {mk : Fmt → BitVec 7 → BitVec 7 → Instr} {f : Fmt} {d a : BitVec 7}
    (hrow : ∀ w lit, decodeAt op w lit = decPack w mk) (hlit : literalBy op.toNat = (true, false, false))
    (henc : encode (mk f d a) = encPack op f d a) : RoundTrip (mk f d a) :=
  .bsel (o := none) (fOp_packA ..) hlit henc (by simp) fun hwf => by
    rw [hrow]
    simp (disch := omega) [decPack, decCtl, checked_of_wf hwf, -Nat.reduceAdd]

theorem roundTrip_move {mk : Bool → BitVec 7 → BitVec 7 → UOpnd → Instr} {x : Bool} {d a : BitVec 7} {b : UOpnd}
    (hrow : ∀ w lit, decodeAt op w lit = decMove w lit mk) (hlit : literalBy op.toNat = (true, false, false))
    (henc : encode (mk x d a b) = encUni op x d a b) : RoundTrip (mk x d a b) :=
  .bsel (fOp_packA ..) hlit henc (by simpa using b.bsel_eq_three) fun hwf => by
    rw [hrow]
    simp [decMove, checked_of_wf hwf]

theorem roundTrip_uni {mk : Bool → BitVec 6 → BitVec 6 → UOpnd → Instr} {x : Bool} {d a : BitVec 6} {b : UOpnd}
    (hrow : ∀ w lit, decodeAt op w lit = decUni w lit mk) (hlit : literalBy op.toNat = (true, false, false))
    (henc : encode (mk x d a b) = encUni op x (ofS d) (ofS a) b) : RoundTrip (mk x d a b) :=
  .bsel (fOp_packA ..) hlit henc (by simpa using b.bsel_eq_three) fun hwf => by
    rw [hrow]
    simp [decUni, checked_of_wf hwf]

theorem roundTrip_uni0 {mk : BitVec 6 → BitVec 6 → UOpnd → Instr} {d a : BitVec 6} {b : UOpnd}
    (hrow : ∀ w lit, decodeAt op w lit = decUni0 w lit mk) (hlit : literalBy op.toNat = (true, false, false))
    (henc : encode (mk d a b) = encUni op false (ofS d) (ofS a) b) : RoundTrip (mk d a b) :=
  .bsel (fOp_packA ..) hlit henc (by simpa using b.bsel_eq_three) fun hwf => by
    rw [hrow]
    simp [decUni0, checked_of_wf hwf]

/-! ### Rows without a literal -/

theorem roundTrip_memV {mk : Size → BitVec 7 → BitVec 6 → BitVec 7 → Instr} {fs : Bool} {z : Size} {d : BitVec 7} {a : BitVec 6}
    {off : BitVec 7} (hrow : ∀ w lit, fX w = fs → decodeAt op w lit = decMemV w mk)
    (hlit : literalBy op.toNat = (false, false, false)) (hfits : (mk z d a off).wf = z.fits d.toNat)
    (henc : encode (mk z d a off) = [packA op fs z.code d (ofVPair a) off]) : RoundTrip (mk z d a off) :=
  .one (fOp_packA ..) hlit henc fun hwf => by
    rw [hrow _ _ (fX_packA ..)]
    simp [decMemV, decSize_code _ (hfits ▸ hwf), checked_of_wf hwf]

theorem roundTrip_memL {mk : Size → BitVec 7 → BitVec 7 → BitVec 7 → Instr} {fs : Bool} {z : Size} {d a off : BitVec 7}
    (hrow : ∀ w lit, fX w = fs → decodeAt op w lit = decMemL w mk)
    (hlit : literalBy op.toNat = (false, false, false)) (hfits : (mk z d a off).wf = z.fits d.toNat)
    (henc : encode (mk z d a off) = [packA op fs z.code d a off]) : RoundTrip (mk z d a off) :=
  .one (fOp_packA ..) hlit henc fun hwf => by
    rw [hrow _ _ (fX_packA ..)]
    simp [decMemL, decSize_code _ (hfits ▸ hwf), checked_of_wf hwf]

theorem roundTrip_memS {mk : Size → BitVec 6 → BitVec 5 → BitVec 7 → Instr} {fs : Bool} {z : Size} {d : BitVec 6} {a : BitVec 5}
    {off : BitVec 7} (hrow : ∀ w lit, fX w = fs → decodeAt op w lit = decMemS w mk)
    (hlit : literalBy op.toNat = (false, false, false)) (hfits : (mk z d a off).wf = z.fits d.toNat)
    (henc : encode (mk z d a off) = [packA op fs z.code (ofS d) (ofSPair a) off]) : RoundTrip (mk z d a off) :=
  .one (fOp_packA ..) hlit henc fun hwf => by
    have hd : z.fits (ofS d).toNat = true := by rw [ofS_toNat, ← hfits, hwf]
    rw [hrow _ _ (fX_packA ..)]
    simp [decMemS, decSize_code _ hd, checked_of_wf hwf]

theorem roundTrip_SV {mk : BitVec 6 → BitVec 7 → Instr} {md : BitVec 3} {d : BitVec 6} {a : BitVec 7}
    (hrow : ∀ w lit, fMd w = md → decodeAt op w lit = decSV w mk) (hlit : literalBy op.toNat = (false, false, false))
    (henc : encode (mk d a) = [packMd op md (ofS d) a 0]) : RoundTrip (mk d a) :=
  .one (fOp_packMd ..) hlit henc fun hwf => by
    rw [hrow _ _ (fMd_packMd ..)]
    simp [decSV, checked_of_wf hwf]

theorem roundTrip_SS {mk : BitVec 6 → BitVec 6 → Instr} {d a : BitVec 6}
    (hrow : ∀ w lit, decodeAt op w lit = decSS w mk) (hlit : literalBy op.toNat = (false, false, false))
    (henc : encode (mk d a) = [packMd op 0 (ofS d) (ofS a) 0]) : RoundTrip (mk d a) :=
  .one (fOp_packMd ..) hlit henc fun hwf => by
    rw [hrow]
    simp [decSS, checked_of_wf hwf]

theorem roundTrip_FSS {mk : Bool → BitVec 6 → BitVec 6 → Instr} {fs : Bool} {d a : BitVec 6}
    (hrow : ∀ w lit, decodeAt op w lit = decFSS w mk) (hlit : literalBy op.toNat = (false, false, false))
    (henc : encode (mk fs d a) = [packA op fs 0 (ofS d) (ofS a) 0]) : RoundTrip (mk fs d a) :=
  .one (fOp_packA ..) hlit henc fun hwf => by
    rw [hrow]
    simp [decFSS, checked_of_wf hwf]

theorem roundTrip_tag {mk : BitVec 5 → Instr} {a : BitVec 5}
    (hrow : ∀ w lit, decodeAt op w lit = decTag w mk) (hlit : literalBy op.toNat = (false, false, false))
    (henc : encode (mk a) = [packMd op 0 0 (ofSPair a) 0]) : RoundTrip (mk a) :=
  .one (fOp_packMd ..) hlit henc fun hwf => by
    rw [hrow]
    simp [decTag, checked_of_wf hwf]

theorem roundTrip_B3 {mk : BitVec 3 → Instr} {n : BitVec 3}
    (hrow : ∀ w lit, decodeAt op w lit = decB3 w mk) (hlit : literalBy op.toNat = (false, false, false))
    (henc : encode (mk n) = [packMd op 0 0 0 (ofM n)]) : RoundTrip (mk n) :=
  .one (fOp_packMd ..) hlit henc fun hwf => by
    rw [hrow]
    simp [decB3, checked_of_wf hwf]

theorem roundTrip_barN {mk : BitVec 4 → Instr} {n : BitVec 4}
    (hrow : ∀ w lit, decodeAt op w lit = decBarN w mk) (hlit : literalBy op.toNat = (false, false, false))
    (henc : encode (mk n) = [packMd op 0 (ofNib n) 0 0]) : RoundTrip (mk n) :=
  .one (fOp_packMd ..) hlit henc fun hwf => by
    rw [hrow]
    simp [decBarN, checked_of_wf hwf]

/-- A word of format S whose low n bits alone are in use. -/
theorem roundTrip_S24 {i : Instr} {imm : BitVec 24} {n : Nat} {k : Word → Dec}
    (hrow : ∀ w lit, decodeAt op w lit = decS24 w n (k w)) (hlit : literalBy op.toNat = (false, false, false))
    (henc : encode i = [packS op imm]) (hn : imm.toNat < 2 ^ n) (hk : k (packS op imm) = checked i) : RoundTrip i :=
  .one (fOp_packS ..) hlit henc fun hwf => by
    rw [hrow]
    simp [decS24, hn, hk, checked_of_wf hwf]

theorem extractLsb'_packS {s k : Nat} (imm : BitVec 24) (h : s + k ≤ 24) : (packS op imm).extractLsb' s k = imm.extractLsb' s k :=
  extractLsb'_append_low op imm h

theorem getLsbD_packS {s : Nat} (imm : BitVec 24) (h : s < 24) : (packS op imm).getLsbD s = imm.getLsbD s :=
  getLsbD_append_low op imm h

theorem toNat_zero_append {m n : Nat} (x : BitVec n) : (0#m ++ x).toNat = x.toNat := by
  simp [BitVec.toNat_append]

theorem roundTrip_phase {mk : Scope → Instr} {sc : Scope}
    (hrow : ∀ w lit, decodeAt op w lit = decPhase w mk) (hlit : literalBy op.toNat = (false, false, false))
    (henc : encode (mk sc) = [packS op (0#21 ++ sc.code)]) : RoundTrip (mk sc) :=
  roundTrip_S24 hrow hlit henc (toNat_zero_append (m := 21) sc.code ▸ sc.code.isLt) <| by
    rw [extractLsb'_packS _ (by decide), extractLsb'_append_low (0#21) _ (by decide)]
    simp

/-! ### Rows with a literal -/

theorem roundTrip_copy {mk : CopyArgs → Instr} {c : CopyArgs}
    (hrow : ∀ w lit, decodeAt op w lit = decCopy w lit mk) (hlit : literalBy op.toNat = (false, false, true))
    (henc : encode (mk c) = encCopy op c) : RoundTrip (mk c) :=
  .two (fOp_packA ..) hlit henc fun hwf => by
    rw [hrow]
    simp (disch := omega) [decCopy, decCopyArgs, checked_of_wf hwf, -Nat.reduceAdd, -BitVec.getLsbD_eq_getElem]

theorem decAtomLit_atomLit (o : BitVec 4) (noret : Bool) (sc : Scope) (ord : AOrd) :
    decAtomLit (atomLit o noret sc ord) = .ok (o, noret, sc, ord) := by
  simp (disch := omega) [decAtomLit, atomLit, -Nat.reduceAdd, -BitVec.getLsbD_eq_getElem]

theorem decW64_packA (x w64 : Bool) (d a b : BitVec 7) : decW64 (packA op x (0#1 ++ BitVec.ofBool w64) d a b) = .ok w64 := by
  simp (disch := omega) [decW64, packA, -Nat.reduceAdd, -BitVec.getLsbD_eq_getElem]

end

section
variable (op : BitVec 8) (x : Bool) (e : BitVec 2) (d a b : BitVec 7)

theorem packA_bit22 : (packA op x e d a b).getLsbD 22 = e.getLsbD 1 := by
  simp (disch := omega) [packA, -Nat.reduceAdd, -BitVec.getLsbD_eq_getElem]

theorem packA_bit21 : (packA op x e d a b).getLsbD 21 = e.getLsbD 0 := by
  simp (disch := omega) [packA, -Nat.reduceAdd, -BitVec.getLsbD_eq_getElem]

theorem getLsbD_packA {s : Nat} (h : s < 7) : (packA op x e d a b).getLsbD s = b.getLsbD s :=
  getLsbD_append_low (op ++ BitVec.ofBool x ++ e ++ d ++ a) b h

theorem extractLsb'_packA {s k : Nat} (h : s + k ≤ 7) : (packA op x e d a b).extractLsb' s k = b.extractLsb' s k :=
  extractLsb'_append_low (op ++ BitVec.ofBool x ++ e ++ d ++ a) b h

/-- The condition and the mask register in the D field of ICMP and FCMP (R167, R172). -/
theorem packA_condition (cc : BitVec 4) (m : BitVec 3) :
    (packA op x e (cc ++ m) a b).extractLsb' 17 4 = cc ∧ (packA op x e (cc ++ m) a b).extractLsb' 14 3 = m := by
  simp (disch := omega) [packA, -Nat.reduceAdd]

end

/-! ### The other rows -/

theorem roundTrip_iadd64 {x : Bool} {d a : BitVec 6} {b : Opnd64} : RoundTrip (.iadd64 x d a b) :=
  .bsel (fOp_packA ..) rfl rfl (by simpa using b.bsel_eq_three) fun hwf => by simp [decodeAt, decInt, checked_of_wf hwf]

theorem roundTrip_lea {x : Bool} {d a : BitVec 6} {b : Opnd} : RoundTrip (.lea x d a b) :=
  .bsel (fOp_packA ..) rfl rfl (by simpa using b.bsel_eq_three) fun hwf => by simp [decodeAt, decInt, checked_of_wf hwf]

theorem roundTrip_icmp {x : Bool} {cc : Icc} {m : BitVec 3} {a : BitVec 7} {b : Opnd} : RoundTrip (.icmp x cc m a b) :=
  .bsel (fOp_packA ..) rfl rfl (by simpa using b.bsel_eq_three) fun hwf => by
    simp [decodeAt, decInt, checked_of_wf hwf, packA_condition]

theorem roundTrip_fcmp {x : Bool} {cc : Fcc} {m : BitVec 3} {a : BitVec 7} {b : Opnd} : RoundTrip (.fcmp x cc m a b) :=
  .bsel (fOp_packA ..) rfl rfl (by simpa using b.bsel_eq_three) fun hwf => by
    simp [decodeAt, decFloat, checked_of_wf hwf, packA_condition]

theorem roundTrip_cvtf {src dst : FFmt} {sh dh : Bool} {d a : BitVec 7} : RoundTrip (.cvtf src dst sh dh d a) :=
  .bsel (o := none) (fOp_packA ..) rfl rfl (by simp) fun hwf => by
    simp (disch := omega) [decodeAt, decFloat, decCtl, checked_of_wf hwf, -Nat.reduceAdd, -BitVec.getLsbD_eq_getElem]

theorem roundTrip_cvti {k : CvtiK} {t : Bool} {d a : BitVec 7} : RoundTrip (.cvti k t d a) :=
  .bsel (o := none) (fOp_packA ..) rfl rfl (by simp) fun hwf => by
    simp (disch := omega) [decodeAt, decFloat, decCtl, checked_of_wf hwf, -Nat.reduceAdd, -BitVec.getLsbD_eq_getElem]

theorem roundTrip_lrot {d a : BitVec 7} {b : UOpnd} : RoundTrip (.lrot d a b) :=
  .bsel (fOp_packA ..) rfl rfl (by simpa using b.bsel_eq_three) fun hwf => by simp [decodeAt, decMov, decMove, checked_of_wf hwf]

theorem roundTrip_bcast {d a : BitVec 7} {k : LaneSel} : RoundTrip (.bcast d a k) :=
  .bsel (fOp_packA ..) rfl rfl (by simpa using k.bsel_eq_three) fun hwf => by
    simp [decodeAt, decMov, checked_of_wf hwf, decLaneSel_field k hwf]

theorem roundTrip_rdlane {d : BitVec 6} {a : BitVec 7} {k : LaneSel} : RoundTrip (.rdlane d a k) :=
  .bsel (fOp_packA ..) rfl rfl (by simpa using k.bsel_eq_three) fun hwf => by
    simp [decodeAt, decMov, checked_of_wf hwf, decLaneSel_field k hwf]

theorem roundTrip_wrlane {d : BitVec 7} {a : BitVec 6} {b : UOpnd} : RoundTrip (.wrlane d a b) :=
  .bsel (fOp_packA ..) rfl rfl (by simpa using b.bsel_eq_three) fun hwf => by simp [decodeAt, decMov, checked_of_wf hwf]

theorem roundTrip_smov {d : BitVec 6} {b : UOpnd} : RoundTrip (.smov d b) :=
  .bsel (fOp_packA ..) rfl rfl (by simpa using b.bsel_eq_three) fun hwf => by simp [decodeAt, decUc, checked_of_wf hwf]

theorem roundTrip_slea {x : Bool} {d a : BitVec 5} {b : UOpnd} : RoundTrip (.slea x d a b) :=
  .bsel (fOp_packA ..) rfl rfl (by simpa using b.bsel_eq_three) fun hwf => by simp [decodeAt, decUc, checked_of_wf hwf]

theorem roundTrip_sel {m : BitVec 3} {d a b : BitVec 7} : RoundTrip (.sel m d a b) :=
  .one (fOp_packMd ..) rfl rfl fun hwf => by simp [decodeAt, decInt, checked_of_wf hwf]

theorem roundTrip_ballotM {d : BitVec 3} {a : BitVec 7} : RoundTrip (.ballotM d a) :=
  .one (fOp_packMd ..) rfl rfl fun hwf => by simp [decodeAt, decMov, checked_of_wf hwf]

theorem roundTrip_scani {o : RedOp} {d a : BitVec 7} : RoundTrip (.scani o d a) :=
  .one (fOp_packMd ..) rfl rfl fun hwf => by simp [decodeAt, decMov, checked_of_wf hwf]

theorem roundTrip_mopAnd {d a b : BitVec 3} : RoundTrip (.mopAnd d a b) :=
  .one (fOp_packMd ..) rfl rfl fun hwf => by simp [decodeAt, decUc, decMop, checked_of_wf hwf]

theorem roundTrip_mopOr {d a b : BitVec 3} : RoundTrip (.mopOr d a b) :=
  .one (fOp_packMd ..) rfl rfl fun hwf => by simp [decodeAt, decUc, decMop, checked_of_wf hwf]

theorem roundTrip_mopXor {d a b : BitVec 3} : RoundTrip (.mopXor d a b) :=
  .one (fOp_packMd ..) rfl rfl fun hwf => by simp [decodeAt, decUc, decMop, checked_of_wf hwf]

theorem roundTrip_mopNot {d a : BitVec 3} : RoundTrip (.mopNot d a) :=
  .one (fOp_packMd ..) rfl rfl fun hwf => by simp [decodeAt, decUc, decMop, checked_of_wf hwf]

theorem roundTrip_mopM2s {d : BitVec 6} {a : BitVec 3} : RoundTrip (.mopM2s d a) :=
  .one (fOp_packMd ..) rfl rfl fun hwf => by simp [decodeAt, decUc, decMop, checked_of_wf hwf]

theorem roundTrip_mopS2m {d : BitVec 3} {a : BitVec 6} : RoundTrip (.mopS2m d a) :=
  .one (fOp_packMd ..) rfl rfl fun hwf => by simp [decodeAt, decUc, decMop, checked_of_wf hwf]

theorem roundTrip_mopCnt {d : BitVec 6} {a : BitVec 3} : RoundTrip (.mopCnt d a) :=
  .one (fOp_packMd ..) rfl rfl fun hwf => by simp [decodeAt, decUc, decMop, checked_of_wf hwf]

theorem roundTrip_mopExec {d : BitVec 3} : RoundTrip (.mopExec d) :=
  .one (fOp_packMd ..) rfl rfl fun hwf => by simp [decodeAt, decUc, decMop, checked_of_wf hwf]

theorem roundTrip_bra {off : BitVec 18} : RoundTrip (.bra off) :=
  .one (fOp_packJ ..) rfl rfl fun hwf => by simp [decodeAt, decUc, checked_of_wf hwf]

theorem roundTrip_brz {c : BitVec 6} {off : BitVec 18} : RoundTrip (.brz c off) :=
  .one (fOp_packJ ..) rfl rfl fun hwf => by simp [decodeAt, decUc, checked_of_wf hwf]

theorem roundTrip_brnz {c : BitVec 6} {off : BitVec 18} : RoundTrip (.brnz c off) :=
  .one (fOp_packJ ..) rfl rfl fun hwf => by simp [decodeAt, decUc, checked_of_wf hwf]

theorem roundTrip_loop {c : BitVec 6} {off : BitVec 18} : RoundTrip (.loop c off) :=
  .one (fOp_packJ ..) rfl rfl fun hwf => by simp [decodeAt, decUc, checked_of_wf hwf]

theorem roundTrip_brm {c : BitVec 3} {off : BitVec 18} : RoundTrip (.brm c off) :=
  .one (fOp_packJ ..) rfl rfl fun hwf => by simp (disch := omega) [decodeAt, decUc, checked_of_wf hwf, -Nat.reduceAdd]

theorem roundTrip_call {l : BitVec 5} {off : BitVec 18} : RoundTrip (.call l off) :=
  .one (fOp_packJ ..) rfl rfl fun hwf => by
    simp (disch := omega) [decodeAt, decUc, checked_of_wf hwf, -Nat.reduceAdd, -BitVec.getLsbD_eq_getElem]

theorem roundTrip_jtab {x : BitVec 6} {t : BitVec 5} {bound lbl : BitVec 16} : RoundTrip (.jtab x t bound lbl) :=
  .two (fOp_packMd ..) rfl rfl fun hwf => by simp (disch := omega) [decodeAt, decUc, checked_of_wf hwf, -Nat.reduceAdd]

theorem roundTrip_calli {l a : BitVec 5} {lbl : BitVec 16} : RoundTrip (.calli l a lbl) :=
  .two (fOp_packMd ..) rfl rfl fun hwf => by simp (disch := omega) [decodeAt, decUc, checked_of_wf hwf, -Nat.reduceAdd]

theorem roundTrip_execm {m : BitVec 3} : RoundTrip (.execm m) :=
  .one (fOp_packMd ..) rfl rfl fun hwf => by simp [decodeAt, decUc, checked_of_wf hwf]

theorem roundTrip_xchg {fs : Bool} {d a : BitVec 7} {b : BitVec 6} {pgrp : BitVec 5} {tag : BitVec 16} :
    RoundTrip (.xchg fs d a b pgrp tag) :=
  .two (fOp_packA ..) rfl rfl fun hwf => by
    simp (disch := omega) [decodeAt, decMov, decXchg, checked_of_wf hwf, -Nat.reduceAdd, -BitVec.getLsbD_eq_getElem]

theorem roundTrip_ldb {fs : Bool} {f : ByteForm} {d : BitVec 7} {a : BitVec 6} {off : BitVec 6} : RoundTrip (.ldb fs f d a off) :=
  .one (fOp_packA ..) rfl rfl fun hwf => by
    simp (disch := omega) [decodeAt, decMem, decLdb, checked_of_wf hwf, getLsbD_packA, extractLsb'_packA, -Nat.reduceAdd,
      -BitVec.getLsbD_eq_getElem]

theorem roundTrip_ldbScratch {fs : Bool} {f : ByteForm} {d a : BitVec 7} {off : BitVec 6} : RoundTrip (.ldbScratch fs f d a off) :=
  .one (fOp_packA ..) rfl rfl fun hwf => by
    simp (disch := omega) [decodeAt, decMem, decLdb, checked_of_wf hwf, getLsbD_packA, extractLsb'_packA, -Nat.reduceAdd,
      -BitVec.getLsbD_eq_getElem]

theorem roundTrip_stb {half : Bool} {d : BitVec 7} {a : BitVec 6} {off : BitVec 6} : RoundTrip (.stb half d a off) :=
  .one (fOp_packA ..) rfl rfl fun hwf => by
    simp (disch := omega) [decodeAt, decMem, decStb, checked_of_wf hwf, packA_bit22, packA_bit21, getLsbD_packA,
      extractLsb'_packA, -Nat.reduceAdd, -BitVec.getLsbD_eq_getElem]

theorem roundTrip_stbScratch {half : Bool} {d a : BitVec 7} {off : BitVec 6} : RoundTrip (.stbScratch half d a off) :=
  .one (fOp_packA ..) rfl rfl fun hwf => by
    simp (disch := omega) [decodeAt, decMem, decStb, checked_of_wf hwf, packA_bit22, packA_bit21, getLsbD_packA,
      extractLsb'_packA, -Nat.reduceAdd, -BitVec.getLsbD_eq_getElem]

theorem roundTrip_atom {fs w64 : Bool} {op : Aop} {noret : Bool} {sc : Scope} {ord : AOrd} {d : BitVec 7} {a : BitVec 6}
    {v : BitVec 7} :
    RoundTrip (.atom fs w64 op noret sc ord d a v) :=
  .two (fOp_packA ..) rfl rfl fun hwf => by simp [decodeAt, decMem, decAtom, checked_of_wf hwf, decW64_packA, decAtomLit_atomLit]

theorem roundTrip_atomc {fs w64 : Bool} {noret : Bool} {sc : Scope} {ord : AOrd} {d : BitVec 7} {a : BitVec 6} {v : BitVec 7} :
    RoundTrip (.atomc fs w64 noret sc ord d a v) :=
  .two (fOp_packA ..) rfl rfl fun hwf => by simp [decodeAt, decMem, decAtomc, checked_of_wf hwf, decW64_packA, decAtomLit_atomLit]

theorem roundTrip_atoms {fs w64 : Bool} {op : Aop} {noret : Bool} {d a v : BitVec 7} : RoundTrip (.atoms fs w64 op noret d a v) :=
  .two (fOp_packA ..) rfl rfl fun hwf => by simp [decodeAt, decMem, decAtoms, checked_of_wf hwf, decW64_packA, decAtomLit_atomLit]

theorem roundTrip_pfl2 {fs loc : Bool} {d a : BitVec 5} {t : BitVec 6} {lines : BitVec 24} : RoundTrip (.pfl2 fs loc d a t lines) :=
  .two (fOp_packA ..) rfl rfl fun hwf => by
    simp (disch := omega) [decodeAt, decMem, decPfl2, checked_of_wf hwf, decW64_packA, -Nat.reduceAdd]

theorem roundTrip_recv {fs : Bool} {cap : BitVec 2} {d a : BitVec 6} {nw : Bool} : RoundTrip (.recv fs cap d a nw) :=
  .one (fOp_packA ..) rfl rfl fun hwf => by
    simp (disch := omega) [decodeAt, decMem, decRecv, checked_of_wf hwf, getLsbD_packA, -Nat.reduceAdd, -BitVec.getLsbD_eq_getElem]

theorem roundTrip_sow {z : Size} {d : BitVec 7} {a : BitVec 6} {m : BitVec 6} : RoundTrip (.sow z d a m) :=
  .one (fOp_packA ..) rfl rfl fun hwf => by simp [decodeAt, decMem, noFs, checked_of_wf hwf, decSize_code z hwf]

theorem roundTrip_shst {z : Size} {d : BitVec 7} {a : BitVec 6} {b : BitVec 6} : RoundTrip (.shst z d a b) :=
  .one (fOp_packA ..) rfl rfl fun hwf => by simp [decodeAt, decMem, noFs, checked_of_wf hwf, decSize_code z hwf]

theorem roundTrip_shld {fs : Bool} {z : Size} {d : BitVec 7} {a : BitVec 6} {b : BitVec 6} : RoundTrip (.shld fs z d a b) :=
  .one (fOp_packA ..) rfl rfl fun hwf => by simp [decodeAt, decMem, checked_of_wf hwf, decSize_code z hwf]

theorem roundTrip_watch {fs : Bool} {cmp : WCmp} {u w64 : Bool} {sc : Scope} {d : BitVec 6} {a : BitVec 5} {b : BitVec 6} :
    RoundTrip (.watch fs cmp u w64 sc d a b) :=
  .two (fOp_packA ..) rfl rfl fun hwf => by
    simp (disch := omega) [decodeAt, decMem, decWatch, checked_of_wf hwf, -Nat.reduceAdd, -BitVec.getLsbD_eq_getElem]

theorem roundTrip_flushl {n : BitVec 7} {m : FlushMode} {a : BitVec 5} : RoundTrip (.flushl n m a) :=
  .one (fOp_packS ..) rfl rfl fun hwf => by
    simp (disch := omega) [decodeAt, decMem, checked_of_wf hwf, fX, packS, -Nat.reduceAdd, -BitVec.getLsbD_eq_getElem]

theorem roundTrip_tffr {fs : Bool} {d a : BitVec 5} : RoundTrip (.tffr fs d a) :=
  .one (fOp_packA ..) rfl rfl fun hwf => by simp [decodeAt, decTile, checked_of_wf hwf]

theorem roundTrip_binit {n : BitVec 4} {a b : BitVec 6} : RoundTrip (.binit n a b) :=
  .one (fOp_packMd ..) rfl rfl fun hwf => by simp [decodeAt, decTile, checked_of_wf hwf]

theorem roundTrip_bwait {d : BitVec 6} {n : BitVec 4} {p : BitVec 6} : RoundTrip (.bwait d n p) :=
  .one (fOp_packMd ..) rfl rfl fun hwf => by simp [decodeAt, decTile, checked_of_wf hwf]

theorem roundTrip_bwaitBytes {d : BitVec 6} {n : BitVec 4} {k : BitVec 6} : RoundTrip (.bwaitBytes d n k) :=
  .one (fOp_packMd ..) rfl rfl fun hwf => by simp [decodeAt, decTile, checked_of_wf hwf]

theorem roundTrip_barrw {d : BitVec 6} {n : BitVec 4} : RoundTrip (.barrw d n) :=
  .one (fOp_packMd ..) rfl rfl fun hwf => by simp [decodeAt, decTile, checked_of_wf hwf]

theorem roundTrip_bexp {n : BitVec 4} {a : BitVec 6} : RoundTrip (.bexp n a) :=
  .one (fOp_packMd ..) rfl rfl fun hwf => by simp [decodeAt, decTile, checked_of_wf hwf]

theorem roundTrip_wload {n : BitVec 3} {a b : BitVec 6} : RoundTrip (.wload n a b) :=
  .one (fOp_packMd ..) rfl rfl fun hwf => by simp [decodeAt, decTile, checked_of_wf hwf]

theorem roundTrip_mstat {d : BitVec 6} {sel : BitVec 7} : RoundTrip (.mstat d sel) :=
  .one (fOp_packMd ..) rfl rfl fun hwf => by simp [decodeAt, decTile, checked_of_wf hwf]

theorem roundTrip_unboard {d : BitVec 6} {n : BitVec 3} : RoundTrip (.unboard d n) :=
  .one (fOp_packMd ..) rfl rfl fun hwf => by simp [decodeAt, decTile, checked_of_wf hwf]

theorem roundTrip_mres {d a : BitVec 6} {q : BitVec 3} {base rowsm1 : BitVec 8} {soff : BitVec 11} {sc : Bool} {f : Fmt} :
    RoundTrip (.mres d a q base rowsm1 soff sc f) :=
  .two (fOp_packMd ..) rfl rfl fun hwf => by
    simp (disch := omega) [decodeAt, decTile, decMres, checked_of_wf hwf, -Nat.reduceAdd, -BitVec.getLsbD_eq_getElem]

theorem roundTrip_board {fs : Bool} {d a : BitVec 6} {nw : Bool} {w : BitVec 3} {c : BitVec 4} : RoundTrip (.board fs d a nw w c) :=
  .two (fOp_packA ..) rfl rfl fun hwf => by
    simp (disch := omega) [decodeAt, decTile, decBoard, checked_of_wf hwf, -Nat.reduceAdd, -BitVec.getLsbD_eq_getElem]

theorem roundTrip_mmag {fs st : Bool} {g : BitVec 7} {q w : BitVec 3} {steps : BitVec 8} {xs : BitVec 7} {wadv : Bool}
    {ainc : BitVec 8} :
    RoundTrip (.mmag fs st g q w steps xs wadv ainc) :=
  .two (fOp_packX ..) rfl rfl fun hwf => by
    simp (disch := omega) [decodeAt, decTile, decMmag, checked_of_wf hwf, packX_fields, -Nat.reduceAdd, -BitVec.getLsbD_eq_getElem]

theorem roundTrip_lapq {d : BitVec 5} {c : BitVec 4} : RoundTrip (.lapq d c) :=
  .one (fOp_packA ..) rfl rfl fun hwf => by simp [decodeAt, decTile, checked_of_wf hwf]

theorem roundTrip_lapqSt {d : BitVec 6} {c : BitVec 4} : RoundTrip (.lapqSt d c) :=
  .one (fOp_packA ..) rfl rfl fun hwf => by simp [decodeAt, decTile, checked_of_wf hwf]

theorem roundTrip_lapwait {fs : Bool} {d : BitVec 6} {a : BitVec 5} {c : BitVec 4} : RoundTrip (.lapwait fs d a c) :=
  .one (fOp_packA ..) rfl rfl fun hwf => by simp [decodeAt, decTile, checked_of_wf hwf]

theorem roundTrip_spawn {d : BitVec 6} {a : BitVec 7} {off : Word} : RoundTrip (.spawn d a off) :=
  .two (fOp_packMd ..) rfl rfl fun hwf => by simp [decodeAt, decSys, checked_of_wf hwf]

theorem roundTrip_enq {d : BitVec 6} {a b : BitVec 5} : RoundTrip (.enq d a b) :=
  .one (fOp_packMd ..) rfl rfl fun hwf => by simp [decodeAt, decSys, checked_of_wf hwf]

theorem roundTrip_send {m : BitVec 3} {d a b : BitVec 6} : RoundTrip (.send m d a b) :=
  .one (fOp_packMd ..) rfl rfl fun hwf => by simp [decodeAt, decSys, checked_of_wf hwf]

theorem roundTrip_role {d : BitVec 6} {a : BitVec 5} {b : BitVec 6} : RoundTrip (.role d a b) :=
  .one (fOp_packMd ..) rfl rfl fun hwf => by simp [decodeAt, decSys, checked_of_wf hwf]

theorem roundTrip_ill {z : BitVec 24} : RoundTrip (.ill z) := .one (fOp_packS ..) rfl rfl fun hwf => by
  simp [decodeAt, decInt, checked_of_wf hwf]

theorem roundTrip_pad {lbl : BitVec 16} : RoundTrip (.pad lbl) :=
  roundTrip_S24 (n := 16) (k := fun w => checked (.pad (w.extractLsb' 0 16))) (fun _ _ => rfl) rfl rfl
    (toNat_zero_append (m := 8) lbl ▸ lbl.isLt) <| by
    rw [extractLsb'_packS _ (by decide), extractLsb'_append_low (0#8) _ (by decide), BitVec.extractLsb'_eq_self]

theorem roundTrip_winb {w : BitVec 3} : RoundTrip (.winb w) :=
  roundTrip_S24 (n := 3) (k := fun w => checked (.winb (w.extractLsb' 0 3))) (fun _ _ => rfl) rfl rfl
    (toNat_zero_append (m := 21) w ▸ w.isLt) <| by
    rw [extractLsb'_packS _ (by decide), extractLsb'_append_low (0#21) _ (by decide), BitVec.extractLsb'_eq_self]

theorem roundTrip_tclrc {m : BitVec 22} : RoundTrip (.tclrc m) :=
  roundTrip_S24 (n := 22) (k := fun w => checked (.tclrc (w.extractLsb' 0 22))) (fun _ _ => rfl) rfl rfl
    (toNat_zero_append (m := 2) m ▸ m.isLt) <| by
    rw [extractLsb'_packS _ (by decide), extractLsb'_append_low (0#2) _ (by decide), BitVec.extractLsb'_eq_self]

theorem roundTrip_trap {code : BitVec 16} : RoundTrip (.trap code) := .one (fOp_packS ..) rfl rfl fun hwf => by
  simp (disch := omega) [decodeAt, decSys, decTrap, packS, checked_of_wf hwf, -Nat.reduceAdd, -BitVec.getLsbD_eq_getElem]

theorem roundTrip_trapHost {code : BitVec 16} : RoundTrip (.trapHost code) := .one (fOp_packS ..) rfl rfl fun hwf => by
  simp (disch := omega) [decodeAt, decSys, decTrap, packS, checked_of_wf hwf, -Nat.reduceAdd, -BitVec.getLsbD_eq_getElem]

theorem roundTrip_sread {v : Bool} {d : BitVec 7} {n : BitVec 10} : RoundTrip (.sread v d n) :=
  .one (op := 0xEB) (by simp (disch := omega) [fOp, -Nat.reduceAdd]) rfl rfl fun hwf => by
    simp (disch := omega) [decodeAt, decSys, decSpecial, fD, checked_of_wf hwf, -Nat.reduceAdd, -BitVec.getLsbD_eq_getElem]

theorem roundTrip_swrite {d : BitVec 6} {n : BitVec 10} : RoundTrip (.swrite d n) :=
  .one (op := 0xEC) (by simp (disch := omega) [fOp, -Nat.reduceAdd]) rfl rfl fun hwf => by
    simp (disch := omega) [decodeAt, decSys, decSpecial, fD, checked_of_wf hwf, -Nat.reduceAdd, -BitVec.getLsbD_eq_getElem]

/-- MMA takes its literal with bit 22 (R37). -/
theorem takesLiteral_mma (fs lit acc : Bool) (c : BitVec 7) (q w : BitVec 3) (steps : BitVec 8) :
    takesLiteral (packX 0xD2#8 fs lit acc c q w steps) = lit := by
  rw [takesLiteral_eq (bsel := false) (bit22 := true) (always := false) (by rw [fOp_packX]; rfl)]
  simp [packX_fields, -BitVec.getLsbD_eq_getElem]

theorem roundTrip_mma {fs acc : Bool} {c : BitVec 7} {q w : BitVec 3} {steps : BitVec 8} :
    RoundTrip (.mma fs acc c q w steps) := by
  refine fun hwf _ => ⟨packX 0xD2 fs false acc c q w steps, [], rfl, by simp, by simp [takesLiteral_mma], ?_⟩
  rw [decode_eq_decodeAt, fOp_packX]
  simp [decodeAt, decTile, decMma, packX_fields, checked_of_wf hwf, -BitVec.getLsbD_eq_getElem]

theorem roundTrip_mmaLit {fs acc : Bool} {c : BitVec 7} {q w : BitVec 3} {steps : BitVec 8} {wadv : Bool} {ainc : BitVec 8} :
    RoundTrip (.mmaLit fs acc c q w steps wadv ainc) := by
  refine fun hwf _ => ⟨packX 0xD2 fs true acc c q w steps, [_], rfl, by simp, by simp [takesLiteral_mma], ?_⟩
  rw [decode_eq_decodeAt, fOp_packX]
  simp (disch := omega) [decodeAt, decTile, decMma, packX_fields, checked_of_wf hwf, -Nat.reduceAdd, -BitVec.getLsbD_eq_getElem]

theorem toNat_append_eq_add {m n : Nat} (x : BitVec m) (y : BitVec n) : (x ++ y).toNat = x.toNat * 2 ^ n + y.toNat := by
  rw [BitVec.toNat_append, ← Nat.shiftLeft_add_eq_or_of_lt y.isLt, Nat.shiftLeft_eq]

/-- REGION keeps three of its fields in IMM24 (R140). -/
theorem roundTrip_region {start1 count1 start2 count2 : BitVec 7} {smask : BitVec 4} {recipe : BitVec 21} :
    RoundTrip (.region start1 count1 start2 count2 smask recipe) :=
  .two (fOp_packMd ..) rfl rfl fun hwf => by
    have himm : (fImm24 (packMd 0xE6#8 0#3 start2 count1 start1)).toNat < 2097152 := by
      have h : (packMd 0xE6#8 0#3 start2 count1 start1).toNat = _ := toNat_append_eq_add (0xE6#8 ++ 0#3 ++ start2 ++ count1) start1
      simp only [fImm24, BitVec.extractLsb'_toNat, h, toNat_append_eq_add]
      have := start2.isLt
      have := count1.isLt
      have := start1.isLt
      simp
      omega
    simp (disch := omega) [decodeAt, decSys, decS24, himm, checked_of_wf hwf, -Nat.reduceAdd]

/-! ### Headers -/

theorem fOp_of_isHeader {w : Word} (h : isHeader w = true) : 0xF0 ≤ (fOp w).toNat := by
  have h' : (w.extractLsb' 28 4).toNat = 15 := by rw [beq_iff_eq.mp h]; rfl
  simp only [BitVec.extractLsb'_toNat, Nat.shiftRight_eq_div_pow, fOp] at h' ⊢
  omega

theorem decode_of_isHeader {w : Word} (h : isHeader w = true) (lit : Word) : decode w lit = decHeader w := by
  have := fOp_of_isHeader h
  simp only [decode]
  repeat rw [if_neg (by omega)]

theorem takesLiteral_of_isHeader {w : Word} (h : isHeader w = true) : takesLiteral w = false := by
  have := fOp_of_isHeader h
  have hn : literalBy (fOp w).toNat = (false, false, false) := by
    simp only [literalBy, Prod.mk.injEq]
    simp
    omega
  simp [takesLiteral_eq hn]

/-- A header has no opcode byte: its top four bits say what it is (R29). -/
theorem roundTrip_clauseHeader {wait : BitVec 12} {sav : Bool} {sa : BitVec 4} {sbv : Bool} {sb : BitVec 4} {n : BitVec 3}
    {re yh : Bool} : RoundTrip (.clauseHeader wait sav sa sbv sb n re yh) := by
  have hh : isHeader (0xF#4 ++ wait ++ BitVec.ofBool sav ++ sa ++ BitVec.ofBool sbv ++ sb ++ n ++ BitVec.ofBool re
      ++ BitVec.ofBool yh ++ 0#1) = true := by
    simp (disch := omega) [isHeader, -Nat.reduceAdd]
  refine fun hwf _ => ⟨_, [], rfl, by simp, by simp [takesLiteral_of_isHeader hh], ?_⟩
  rw [decode_of_isHeader hh]
  simp (disch := omega) [decHeader, checked_of_wf hwf, -Nat.reduceAdd, -BitVec.getLsbD_eq_getElem]

/-! ## The obligation -/

/-- Every instruction with words, by its row; a step of another agent has none. -/
theorem roundTrip (i : Instr) : RoundTrip i := by
  cases i with
  | clauseHeader => exact roundTrip_clauseHeader
  | ill => exact roundTrip_ill
  | nop => exact roundTrip_S24 (n := 0) (k := fun _ => checked .nop) (fun _ _ => rfl) rfl rfl (by decide) rfl
  | iadd => exact roundTrip_laneX (fun _ _ => rfl) rfl rfl
  | isub => exact roundTrip_laneX (fun _ _ => rfl) rfl rfl
  | imul => exact roundTrip_lane (fun _ _ => rfl) rfl rfl
  | imulh => exact roundTrip_laneX (fun _ _ => rfl) rfl rfl
  | imad => exact roundTrip_lane (fun _ _ => rfl) rfl rfl
  | iadd64 => exact roundTrip_iadd64
  | imin => exact roundTrip_laneX (fun _ _ => rfl) rfl rfl
  | imax => exact roundTrip_laneX (fun _ _ => rfl) rfl rfl
  | iamin => exact roundTrip_laneX (fun _ _ => rfl) rfl rfl
  | iamax => exact roundTrip_laneX (fun _ _ => rfl) rfl rfl
  | and => exact roundTrip_lane (fun _ _ => rfl) rfl rfl
  | or => exact roundTrip_lane (fun _ _ => rfl) rfl rfl
  | xor => exact roundTrip_lane (fun _ _ => rfl) rfl rfl
  | andn => exact roundTrip_lane (fun _ _ => rfl) rfl rfl
  | shl => exact roundTrip_lane (fun _ _ => rfl) rfl rfl
  | shr => exact roundTrip_lane (fun _ _ => rfl) rfl rfl
  | sar => exact roundTrip_lane (fun _ _ => rfl) rfl rfl
  | rol => exact roundTrip_lane (fun _ _ => rfl) rfl rfl
  | bfx => exact roundTrip_laneX (fun _ _ => rfl) rfl rfl
  | bfi => exact roundTrip_lane (fun _ _ => rfl) rfl rfl
  | popc => exact roundTrip_unary (fun _ _ => rfl) rfl rfl
  | clz => exact roundTrip_unary (fun _ _ => rfl) rfl rfl
  | brev => exact roundTrip_unary (fun _ _ => rfl) rfl rfl
  | sel => exact roundTrip_sel
  | icmp => exact roundTrip_icmp
  | mov => exact roundTrip_unary (fun _ _ => rfl) rfl rfl
  | lea => exact roundTrip_lea
  | idp4 => exact roundTrip_lane (fun _ _ => rfl) rfl rfl
  | idp8 => exact roundTrip_lane (fun _ _ => rfl) rfl rfl
  | fadd => exact roundTrip_lane (fun _ _ => rfl) rfl rfl
  | fsub => exact roundTrip_lane (fun _ _ => rfl) rfl rfl
  | fmul => exact roundTrip_lane (fun _ _ => rfl) rfl rfl
  | ffma => exact roundTrip_lane (fun _ _ => rfl) rfl rfl
  | fmin => exact roundTrip_lane (fun _ _ => rfl) rfl rfl
  | fmax => exact roundTrip_lane (fun _ _ => rfl) rfl rfl
  | fcmp => exact roundTrip_fcmp
  | frcp => exact roundTrip_unary (fun _ _ => rfl) rfl rfl
  | frsq => exact roundTrip_unary (fun _ _ => rfl) rfl rfl
  | fsqrt => exact roundTrip_unary (fun _ _ => rfl) rfl rfl
  | fexp2 => exact roundTrip_unary (fun _ _ => rfl) rfl rfl
  | flog2 => exact roundTrip_unary (fun _ _ => rfl) rfl rfl
  | ftanh => exact roundTrip_unary (fun _ _ => rfl) rfl rfl
  | scalex => exact roundTrip_laneX (fun _ _ => rfl) rfl rfl
  | hadd2 => exact roundTrip_laneX (fun _ _ => rfl) rfl rfl
  | hmul2 => exact roundTrip_laneX (fun _ _ => rfl) rfl rfl
  | hfma2 => exact roundTrip_laneX (fun _ _ => rfl) rfl rfl
  | cvtf => exact roundTrip_cvtf
  | cvti => exact roundTrip_cvti
  | pack8 => exact roundTrip_pack (fun _ _ => rfl) rfl rfl
  | pack6 => exact roundTrip_pack (fun _ _ => rfl) rfl rfl
  | pack4 => exact roundTrip_pack (fun _ _ => rfl) rfl rfl
  | unpk8 => exact roundTrip_pack (fun _ _ => rfl) rfl rfl
  | unpk6 => exact roundTrip_pack (fun _ _ => rfl) rfl rfl
  | unpk4 => exact roundTrip_pack (fun _ _ => rfl) rfl rfl
  | fdp4 => exact roundTrip_laneX (fun _ _ => rfl) rfl rfl
  | fdp8 => exact roundTrip_lane (fun _ _ => rfl) rfl rfl
  | fdp2h => exact roundTrip_laneX (fun _ _ => rfl) rfl rfl
  | shfl => exact roundTrip_laneX (fun _ _ => rfl) rfl rfl
  | lshu => exact roundTrip_move (fun _ _ => rfl) rfl rfl
  | lshd => exact roundTrip_move (fun _ _ => rfl) rfl rfl
  | lrot => exact roundTrip_lrot
  | bcast => exact roundTrip_bcast
  | ballotM => exact roundTrip_ballotM
  | ballotS d a => exact roundTrip_SV (fun _ _ h => by simp [decodeAt, decMov, h]) rfl rfl
  | vote k d a => exact roundTrip_SV (mk := .vote k) (fun _ _ h => by simp [decodeAt, decMov, h]) rfl rfl
  | rdlane => exact roundTrip_rdlane
  | wrlane => exact roundTrip_wrlane
  | redi o d a => exact roundTrip_SV (mk := .redi o) (fun _ _ h => by simp [decodeAt, decMov, h]) rfl rfl
  | redf o d a => exact roundTrip_SV (mk := .redf o) (fun _ _ h => by simp [decodeAt, decMov, h]) rfl rfl
  | scani => exact roundTrip_scani
  | xchg => exact roundTrip_xchg
  | sadd => exact roundTrip_uni (fun _ _ => rfl) rfl rfl
  | ssub => exact roundTrip_uni (fun _ _ => rfl) rfl rfl
  | smul => exact roundTrip_uni (fun _ _ => rfl) rfl rfl
  | sand => exact roundTrip_uni0 (fun _ _ => rfl) rfl rfl
  | sor => exact roundTrip_uni0 (fun _ _ => rfl) rfl rfl
  | sxor => exact roundTrip_uni0 (fun _ _ => rfl) rfl rfl
  | sshl => exact roundTrip_uni0 (fun _ _ => rfl) rfl rfl
  | sshr => exact roundTrip_uni (fun _ _ => rfl) rfl rfl
  | smin => exact roundTrip_uni (fun _ _ => rfl) rfl rfl
  | smax => exact roundTrip_uni (fun _ _ => rfl) rfl rfl
  | scmp => exact roundTrip_uni (fun _ _ => rfl) rfl rfl
  | smov => exact roundTrip_smov
  | slea => exact roundTrip_slea
  | mopAnd => exact roundTrip_mopAnd
  | mopOr => exact roundTrip_mopOr
  | mopXor => exact roundTrip_mopXor
  | mopNot => exact roundTrip_mopNot
  | mopM2s => exact roundTrip_mopM2s
  | mopS2m => exact roundTrip_mopS2m
  | mopCnt => exact roundTrip_mopCnt
  | mopExec => exact roundTrip_mopExec
  | bra => exact roundTrip_bra
  | brz => exact roundTrip_brz
  | brnz => exact roundTrip_brnz
  | brm => exact roundTrip_brm
  | loop => exact roundTrip_loop
  | jtab => exact roundTrip_jtab
  | pad => exact roundTrip_pad
  | call => exact roundTrip_call
  | calli => exact roundTrip_calli
  | ret => exact roundTrip_tag (fun _ _ => rfl) rfl rfl
  | join => exact roundTrip_S24 (n := 0) (k := fun _ => checked .join) (fun _ _ => rfl) rfl rfl (by decide) rfl
  | execm => exact roundTrip_execm
  | execr => exact roundTrip_S24 (n := 0) (k := fun _ => checked .execr) (fun _ _ => rfl) rfl rfl (by decide) rfl
  | ld fs => exact roundTrip_memV (mk := .ld fs) (fun _ _ h => by subst h; rfl) rfl rfl rfl
  | lds fs => exact roundTrip_memL (mk := .lds fs) (fun _ _ h => by subst h; rfl) rfl rfl rfl
  | ldsr fs => exact roundTrip_memL (mk := .ldsr fs) (fun _ _ h => by subst h; rfl) rfl rfl rfl
  | sld fs => exact roundTrip_memS (mk := .sld fs) (fun _ _ h => by subst h; rfl) rfl rfl rfl
  | st => exact roundTrip_memV (fun _ _ h => by simp [decodeAt, decMem, noFs, h]) rfl rfl rfl
  | sts => exact roundTrip_memL (fun _ _ h => by simp [decodeAt, decMem, noFs, h]) rfl rfl rfl
  | stsr => exact roundTrip_memL (fun _ _ h => by simp [decodeAt, decMem, noFs, h]) rfl rfl rfl
  | sst => exact roundTrip_memS (fun _ _ h => by simp [decodeAt, decMem, noFs, h]) rfl rfl rfl
  | ldb => exact roundTrip_ldb
  | ldbScratch => exact roundTrip_ldbScratch
  | stb => exact roundTrip_stb
  | stbScratch => exact roundTrip_stbScratch
  | atom => exact roundTrip_atom
  | atomc => exact roundTrip_atomc
  | atoms => exact roundTrip_atoms
  | pfl2 => exact roundTrip_pfl2
  | recv => exact roundTrip_recv
  | sow => exact roundTrip_sow
  | phase => exact roundTrip_phase (fun _ _ => rfl) rfl rfl
  | rel => exact roundTrip_phase (fun _ _ => rfl) rfl rfl
  | acq => exact roundTrip_phase (fun _ _ => rfl) rfl rfl
  | watch => exact roundTrip_watch
  | flushl => exact roundTrip_flushl
  | shopen => exact roundTrip_SS (fun _ _ => rfl) rfl rfl
  | shst => exact roundTrip_shst
  | shseal => exact roundTrip_FSS (fun _ _ => rfl) rfl rfl
  | shpin => exact roundTrip_FSS (fun _ _ => rfl) rfl rfl
  | shld => exact roundTrip_shld
  | shunpin => exact roundTrip_SS (fun _ _ => rfl) rfl rfl
  | shdrop => exact roundTrip_SS (fun _ _ => rfl) rfl rfl
  | shq => exact roundTrip_SS (fun _ _ => rfl) rfl rfl
  | copyl => exact roundTrip_copy (fun _ _ => rfl) rfl rfl
  | copyt => exact roundTrip_copy (fun _ _ => rfl) rfl rfl
  | copyg => exact roundTrip_copy (fun _ _ => rfl) rfl rfl
  | copys => exact roundTrip_copy (fun _ _ => rfl) rfl rfl
  | copyx => exact roundTrip_copy (fun _ _ => rfl) rfl rfl
  | twany => exact roundTrip_tag (fun _ _ => rfl) rfl rfl
  | twall => exact roundTrip_tag (fun _ _ => rfl) rfl rfl
  | tffr => exact roundTrip_tffr
  | tclr => exact roundTrip_tag (fun _ _ => rfl) rfl rfl
  | binit => exact roundTrip_binit
  | barr => exact roundTrip_barN (fun _ _ => rfl) rfl rfl
  | bwait => exact roundTrip_bwait
  | bwaitBytes => exact roundTrip_bwaitBytes
  | barrw => exact roundTrip_barrw
  | bexp => exact roundTrip_bexp
  | binv => exact roundTrip_barN (fun _ _ => rfl) rfl rfl
  | mres => exact roundTrip_mres
  | mrel => exact roundTrip_B3 (fun _ _ => rfl) rfl rfl
  | mma => exact roundTrip_mma
  | mmaLit => exact roundTrip_mmaLit
  | mmag => exact roundTrip_mmag
  | wload => exact roundTrip_wload
  | wfree => exact roundTrip_B3 (fun _ _ => rfl) rfl rfl
  | mstat => exact roundTrip_mstat
  | board => exact roundTrip_board
  | unboard => exact roundTrip_unboard
  | lapq => exact roundTrip_lapq
  | lapqSt => exact roundTrip_lapqSt
  | lapwait => exact roundTrip_lapwait
  | spawn => exact roundTrip_spawn
  | elect => exact roundTrip_S24 (n := 0) (k := fun _ => checked .elect) (fun _ _ => rfl) rfl rfl (by decide) rfl
  | elend => exact roundTrip_S24 (n := 0) (k := fun _ => checked .elend) (fun _ _ => rfl) rfl rfl (by decide) rfl
  | exit => exact roundTrip_S24 (n := 0) (k := fun _ => checked .exit) (fun _ _ => rfl) rfl rfl (by decide) rfl
  | trigger => exact roundTrip_S24 (n := 0) (k := fun _ => checked .trigger) (fun _ _ => rfl) rfl rfl (by decide) rfl
  | winb => exact roundTrip_winb
  | region => exact roundTrip_region
  | yield => exact roundTrip_S24 (n := 0) (k := fun _ => checked .yield) (fun _ _ => rfl) rfl rfl (by decide) rfl
  | trap => exact roundTrip_trap
  | trapHost => exact roundTrip_trapHost
  | tretRegion => exact roundTrip_S24 (fun _ _ => rfl) rfl rfl (by decide) rfl
  | tretRetry => exact roundTrip_S24 (fun _ _ => rfl) rfl rfl (by decide) rfl
  | tretNext => exact roundTrip_S24 (fun _ _ => rfl) rfl rfl (by decide) rfl
  | tclrc => exact roundTrip_tclrc
  | sread => exact roundTrip_sread
  | swrite => exact roundTrip_swrite
  | enq => exact roundTrip_enq
  | send => exact roundTrip_send
  | role => exact roundTrip_role
  | _ => exact .event rfl

end Sys2Proof

namespace Sys2Proof.Machine

/-- Settles O55: every row of the map gives back its instruction (roundTrip), each by the lemma of its format. -/
theorem decodeInvertsEncode : Obligations.DecodeInvertsEncode := roundTrip

end Sys2Proof.Machine
end

section
/-! PROOFS. Words that decode as the spec writes them, words that decode to nothing, and checks 5 to 8 of R43 (spec/02_words.md). -/

namespace Sys2Proof.Machine

/-! ## Words of the spec (R29, R37 to R41) -/

/-- Settles O54: each word by evaluation. -/
theorem wordsDecodeAsWritten : Obligations.WordsDecodeAsWritten := ⟨rfl, rfl, rfl, rfl, rfl, rfl, rfl, rfl, rfl, rfl⟩

/-! ## Words that decode to nothing (R41, R43) -/

/-- A word without a literal that decodes to nothing traps ILL in a clause, at check 1 or 4 or at its decoding. -/
theorem issueWord_refused {w : Word} (hlit : takesLiteral w = false) (hdec : ∃ e, decode w 0 = .error e) (s : State) (g : Group)
    (p : Split) (c : Clause) : s.issueWord g p c w = .next (s.trapILL g p w 1) := by
  obtain ⟨e, he⟩ := hdec
  simp only [State.issueWord, hlit, Bool.false_eq_true, if_false, he]
  split <;> rfl

/-- The opcodes that R41 reserves. -/
def ReservedOpcode (n : Nat) : Prop :=
  0x1F ≤ n ∧ n ≤ 0x3F ∨ n = 0x4E ∨ n = 0x4F ∨ 0x53 ≤ n ∧ n ≤ 0x57 ∨ 0x63 ≤ n ∧ n ≤ 0x6F ∨ 0x7D ≤ n ∧ n ≤ 0x7F ∨ n = 0x8E
    ∨ n = 0x8F ∨ 0x9D ≤ n ∧ n ≤ 0x9F ∨ n = 0xAF ∨ n = 0xB6 ∨ n = 0xB7 ∨ n = 0xCF ∨ n = 0xD7 ∨ 0xDC ≤ n ∧ n ≤ 0xDF

theorem decodeAt_reserved {op : BitVec 8} (h : ReservedOpcode op.toNat) (w lit : Word) :
    decodeAt op w lit = .error .reservedOpcode := by
  obtain ⟨n, hn, rfl⟩ : ∃ n, n < 256 ∧ op = BitVec.ofNat 8 n := ⟨op.toNat, op.isLt, by simp⟩
  rw [BitVec.toNat_ofNat, Nat.mod_eq_of_lt hn] at h
  rcases h with ⟨_, _⟩ | rfl | rfl | ⟨_, _⟩ | ⟨_, _⟩ | ⟨_, _⟩ | rfl | rfl | ⟨_, _⟩ | rfl | rfl | rfl | rfl | rfl | ⟨_, _⟩
  any_goals rfl
  all_goals interval_cases n <;> rfl

/-- Settles O56. -/
theorem reservedOpcodesTrap : Obligations.ReservedOpcodesTrap := by
  intro w lit op hres
  have hdec (lit : Word) : decode w lit = .error .reservedOpcode := decodeAt_reserved hres w lit
  refine ⟨fun i h => ?_, fun s g p c hlit => issueWord_refused hlit ⟨_, hdec 0⟩ s g p c⟩
  rw [hdec] at h
  cases h

/-! ## Checks 5 to 8 (R24, R28, R31, R32, R43) -/

theorem inRange_eq_false {u : Uses} {g : Group} : u.inRange g = false ↔ ∃ r ∈ u.v, g.allot ≤ g.wb + r := by
  simp [Uses.inRange]

theorem hazard_eq_true {u : Uses} {s : State} {g : Group} : u.hazard s g = true ↔ ∃ o ∈ s.ops, o.grp = g.ref ∧
    ((∃ r ∈ u.v, g.wb + r ∈ o.pend.vw ∨ g.wb + r ∈ o.pend.vr) ∨ (∃ r ∈ u.s, r ∈ o.pend.sw) ∨ ∃ r ∈ u.m, r ∈ o.pend.mw) := by
  simp [Uses.hazard, or_assoc]

theorem issue_eq {s : State} {g : Group} {p : Split} (h : Issues s g p) (i : Instr) (u : Uses) (k : Group → Split → State) :
    issue s i u k = .next (checkUses s g p i u (k g p)) := withIssuer_next h _

/-- Settles O29: each check by its rule, in the order of R43. -/
theorem issueChecksTrapInOrder : Obligations.IssueChecksTrapInOrder := by
  intro s g p u i k kf h outside pending
  have range : outside ↔ u.inRange g = false := inRange_eq_false.symm
  have hazard : pending ↔ u.hazard s g = true := hazard_eq_true.symm
  refine ⟨fun ho => ?_, fun ho hp => ?_, fun ho hp => ?_, issuePriv_trap k h, fun hp => ?_, fun fs => ⟨fun hf => ?_, fun f hf => ?_⟩⟩
  · simp [issue_eq h, checkUses, range.mp ho]
  · simp [issue_eq h, checkUses, mt range.mpr ho, hazard.mp hp]
  · simp [issue_eq h, checkUses, mt range.mpr ho, mt hazard.mpr hp]
  · simp [issuePriv, issue, withIssuer_next h, hp]
  · simp [issueLong, withIssuer_next h, hf]
  · simp [issueLong, issue, withIssuer_next h, hf]

end Sys2Proof.Machine
end

section
/-! PROOFS. SREAD and SWRITE (spec/02_words.md R26, R27, R42; spec/07_group.md R138). -/

namespace Sys2Proof.Machine

/-! ## Steps of one group -/

/-- A step that changes the groups of one reference alone. -/
theorem onlyGroup_updGroup {s : State} {g : Group} (h : s.group? g.ref = some g) (F : Group → Group)
    (hF : ∀ x, x.ref = g.ref → (F x).ref = x.ref) : OnlyGroup s (s.updGroup g.ref F) g (F g) where
  before := h
  after := group?_updGroup_same F hF h
  machine := rfl
  others _ hr := group?_updGroup_other s hr F hF
  memory _ := rfl

theorem onlySplit_updSplit {g : Group} {p : Split} (h : g.split? p.id = some p) (f : Split → Split)
    (hf : ∀ q, q.id = p.id → (f q).id = q.id) : OnlySplit g (g.updSplit p.id f) p (f p) where
  record := rfl
  split := split?_updSplit_same f hf h
  splits _ hn := split?_updSplit_other g hn f hf

theorem updGroup_done (s : State) (g : Group) (p : Split) (i : Instr) (F : Group → Group) (hF : ∀ x, x.ref = g.ref → (F x).ref = x.ref) :
    (s.updGroup g.ref F).done g p i = s.updGroup g.ref fun x => (F x).updSplit p.id fun q => q.past i.words :=
  updGroup_updGroup s g.ref F _ hF

/-- A step that changes the group by F, which leaves its splits, and moves on. -/
theorem done_onlySplit {s : State} {g : Group} {p : Split} (h : Issues s g p) (i : Instr) (F : Group → Group)
    (hF : ∀ x, x.ref = g.ref → (F x).ref = x.ref) (hs : (F g).splits = g.splits) :
    ∃ g', OnlyGroup s ((s.updGroup g.ref F).done g p i) g g' ∧ OnlySplit (F g) g' p (p.past i.words) := by
  rw [updGroup_done s g p i F hF]
  refine ⟨_, onlyGroup_updGroup h.group' _ fun x hx => by simp [hF x hx], onlySplit_updSplit ?_ _ fun _ _ => rfl⟩
  rw [Group.split?, hs]
  exact h.split'

/-! ## SREAD (R26, R27) -/

theorem exec_sread {s : State} {g : Group} {p : Split} (h : Issues s g p) {v : Bool} {d : BitVec 7} {n : BitVec 10}
    (hp : n.toNat = 0x030 → g.priv = true) :
    exec (.sread v d n) s = .next (checkUses s g p (.sread v d n)
      (if v then useV [d.toNat] else useS (if specialWidth n.toNat == some 64 then [d.toNat, d.toNat + 1] else [d.toNat]))
      ((s.updGroup g.ref fun x =>
        if v then x.setLanes d.toNat p.exec fun l => if n = 0 then BitVec.ofNat 32 l else (special s g p n.toNat).extractLsb' 0 32
        else if specialWidth n.toNat == some 64 then (x.setS d.toNat ((special s g p n.toNat).extractLsb' 0 32)).setS (d.toNat + 1)
          ((special s g p n.toNat).extractLsb' 32 32)
        else x.setS d.toNat ((special s g p n.toNat).extractLsb' 0 32)).done g p (.sread v d n))) := by
  change execSread v d n s = _
  rw [execSread, withIssuer_next h, if_neg fun ⟨hn, hg⟩ => hg (hp hn)]

/-- $TFRAME at level 0 (R26). -/
theorem exec_sread_tframe {s : State} {g : Group} {p : Split} (h : Issues s g p) (hp : g.priv = false) (v : Bool) (d : BitVec 7) :
    exec (.sread v d 0x030) s = .next (s.trap g p (.sread v d 0x030) cPRIV) := by
  change execSread v d 0x030 s = _
  rw [execSread, withIssuer_next h, if_pos ⟨rfl, by simp [hp]⟩]

/-- The lanes of V[d] take their own numbers (R26: $LANEID). -/
theorem sread_laneid {s : State} {g : Group} {p : Split} (h : Issues s g p) {d : BitVec 7} (hu : Readable s g { v := [d.toNat] }) :
    LaneResult s g p (.sread true d 0) d.toNat (fun l => BitVec.ofNat 32 l) := by
  refine laneOp_result (f := fun _ l => BitVec.ofNat 32 l) h hu ?_ fun _ => rfl
  rw [exec_sread h fun hn => absurd hn (by decide), laneOp, issue_eq h]
  rfl

/-- A 32-bit special register of value x reads as x, into an S register and into every active lane. -/
theorem sread_reads {s : State} {g : Group} {p : Split} (h : Issues s g p) {n : BitVec 10} {x : Word}
    (hx : (special s g p n.toNat).extractLsb' 0 32 = x) (hp : n.toNat = 0x030 → g.priv = true)
    (hw : (specialWidth n.toNat == some 64) = false) (hn : n ≠ 0) :
    (∀ d : BitVec 7, Readable s g { s := [d.toNat] } → UniResult s g p (.sread false d n) d.toNat x)
    ∧ ∀ d : BitVec 7, Readable s g { v := [d.toNat] } → LaneResult s g p (.sread true d n) d.toNat (fun _ => x) := by
  refine ⟨fun d hu => uniOp_result (f := fun _ _ => x) h hu ?_ rfl, fun d hu => laneOp_result (f := fun _ _ => x) h hu ?_ fun _ => rfl⟩
  · rw [exec_sread h hp, uniOp, issue_eq h, hx, hw]
    rfl
  · rw [exec_sread h hp, laneOp, issue_eq h]
    simp only [hx, hn, if_true, if_false]
    rfl

/-- A 64-bit special register into a pair (R27). -/
theorem sread_reads64 {s : State} {g : Group} {p : Split} (h : Issues s g p) {n : BitVec 10} {x : DWord}
    (hx : special s g p n.toNat = x) (hp : n.toNat = 0x030 → g.priv = true) (hw : (specialWidth n.toNat == some 64) = true)
    (d : BitVec 7) (hu : Readable s g { s := [d.toNat, d.toNat + 1] }) :
    MoveResult s g p (.sread false d n) (p.past 1) (fun r =>
      if r = d.toNat then some (x.extractLsb' 0 32) else if r = d.toNat + 1 then some (x.extractLsb' 32 32) else none) := by
  obtain ⟨hg, hr⟩ := regStep (.sread false d n)
    (fun y => (y.setS d.toNat (x.extractLsb' 0 32)).setS (d.toNat + 1) (x.extractLsb' 32 32)) h fun _ => rfl
  refine ⟨_, _, ?_, hg, hr, rfl, fun r l _ _ => rfl, fun r => ?_, fun r _ => rfl⟩
  · rw [exec_sread h hp, hx, hw]
    exact congrArg _ (checkUses_ok hu)
  · by_cases h0 : r = d.toNat
    · simp [h0]
    · by_cases h1 : r = d.toNat + 1 <;> simp [h0, h1]

/-- Bit t of a union of single bits. -/
theorem getLsbD_foldl_or {α : Type} (f : α → Nat) (l : List α) (m : DWord) {t : Nat} (ht : t < 64) :
    (l.foldl (fun m e => m ||| BitVec.ofNat 64 (2 ^ f e)) m).getLsbD t = true ↔ m.getLsbD t = true ∨ ∃ e ∈ l, f e = t := by
  induction l generalizing m with
  | nil => simp
  | cons a l ih =>
    have bit : (BitVec.ofNat 64 (2 ^ f a)).getLsbD t = true ↔ f a = t := by
      simp only [BitVec.getLsbD_ofNat, Nat.testBit_two_pow, ht]
      simp
    rw [List.foldl_cons, ih, BitVec.getLsbD_or, Bool.or_eq_true, bit]
    simp [or_assoc]

/-- $TAGS has a bit for each tag that is READY (R26). -/
theorem special_tags {s : State} {g : Group} {w : Workgroup} (hw : s.wgOf g = some w) (p : Split) {t : Nat} (ht : t < 64) :
    (special s g p 0x014).getLsbD t = true ↔ ∃ e ∈ w.tags, e.1 = t ∧ e.2.st = .ready := by
  simp only [special, hw]
  refine (getLsbD_foldl_or Prod.fst _ _ ht).trans ?_
  simp [and_comm, and_assoc]

theorem extractLsb'_ofNat_low (k : Nat) : (BitVec.ofNat 64 k).extractLsb' 0 32 = BitVec.ofNat 32 k := by
  apply BitVec.eq_of_toNat_eq
  simp

theorem extractLsb'_zeroExtend_low (x : Word) : (x.zeroExtend 64).extractLsb' 0 32 = x := by
  apply BitVec.eq_of_toNat_eq
  simp
  omega

/-! ## SWRITE (R138) -/

/-- SWRITE changes the group by F, which leaves its reference and its splits. -/
theorem swrite_writes {s : State} {g : Group} {p : Split} (h : Issues s g p) {n : BitVec 10} (F : Word → Group → Group)
    (hF : ∀ x y, (F x y).ref = y.ref ∧ (F x y).splits = y.splits)
    (he : ∀ d : BitVec 6, exec (.swrite d n) s = issue s (.swrite d n) (useS [d.toNat]) fun g p =>
      (s.updGroup g.ref (F (g.getS d.toNat))).done g p (.swrite d n))
    (d : BitVec 6) (hu : Readable s g { s := [d.toNat] }) :
    ∃ t g', exec (.swrite d n) s = .next t ∧ OnlyGroup s t g g' ∧ OnlySplit (F (g.getS d.toNat) g) g' p (p.past 1) := by
  obtain ⟨g', hg, hsp⟩ := done_onlySplit h (.swrite d n) (F (g.getS d.toNat)) (fun y _ => (hF _ y).1) (hF _ g).2
  exact ⟨_, g', (he d).trans (issue_next _ h hu), hg, hsp⟩

/-! ## Words that R27 and R42 refuse -/

/-- A word with an opcode of class M takes no literal. -/
theorem takesLiteral_special {w : Word} (hop : fOp w = 0xEB ∨ fOp w = 0xEC) : takesLiteral w = false := by
  rcases hop with hop | hop
  · simp [takesLiteral_eq (w := w) (bsel := false) (bit22 := false) (always := false) (by rw [hop]; rfl)]
  · simp [takesLiteral_eq (w := w) (bsel := false) (bit22 := false) (always := false) (by rw [hop]; rfl)]

/-- A word of SREAD or SWRITE that decodes to nothing traps ILL in a clause. -/
theorem special_stops {w : Word} (hop : fOp w = 0xEB ∨ fOp w = 0xEC) (hdec : ∀ lit, ∃ e, decode w lit = .error e) (s : State)
    (g : Group) (p : Split) :
    (∀ lit i, decode w lit ≠ .ok i) ∧ ∀ c : Clause, s.issueWord g p c w = .next (s.trapILL g p w 1) := by
  refine ⟨fun lit i h => ?_, fun c => issueWord_refused (takesLiteral_special hop) (hdec 0) s g p c⟩
  obtain ⟨e, he⟩ := hdec lit
  rw [he] at h
  cases h

/-- SREAD decodes to an instruction exactly where its fields obey R27 and R42. -/
theorem decode_sread {w : Word} (hop : fOp w = 0xEB) (lit : Word) :
    decode w lit = decSpecial w >>= fun n => checked (.sread (w.getLsbD 21) (fD w) n) := by
  rw [decode_eq_decodeAt, hop]
  rfl

theorem decode_swrite {w : Word} (hop : fOp w = 0xEC) (lit : Word) :
    decode w lit = decSpecial w >>= fun n => ensure (!w.getLsbD 21) .reservedCode >>= fun _ =>
      sReg (fD w) >>= fun d => checked (.swrite d n) := by
  rw [decode_eq_decodeAt, hop]
  rfl

theorem decSpecial_cases (w : Word) :
    (w.extractLsb' 10 4 ≠ 0 ∨ w.extractLsb' 22 2 ≠ 0) ∧ decSpecial w = .error .unusedField
      ∨ decSpecial w = .ok (w.extractLsb' 0 10) := by
  rw [decSpecial]
  split
  case isTrue h => exact .inl ⟨by simpa [or_comm] using h, rfl⟩
  case isFalse h => exact .inr rfl

/-- A nonzero A[6:3] or MD[2:1] (R42). -/
theorem special_fields_refused {w : Word} (hop : fOp w = 0xEB ∨ fOp w = 0xEC) (hf : w.extractLsb' 10 4 ≠ 0 ∨ w.extractLsb' 22 2 ≠ 0)
    (lit : Word) : ∃ e, decode w lit = .error e := by
  have hs : decSpecial w = .error .unusedField := by
    rw [decSpecial, if_pos (by simpa [or_comm] using hf)]
  rcases hop with hop | hop
  · exact ⟨_, by rw [decode_sread hop, hs]; rfl⟩
  · exact ⟨_, by rw [decode_swrite hop, hs]; rfl⟩

theorem checked_of_not_wf {i : Instr} (h : i.wf = false) : checked i = .error .range := by
  rw [checked, h]
  rfl

/-- An SREAD whose fields break the rule of its entry. -/
theorem sread_refused {w : Word} (hop : fOp w = 0xEB)
    (hwf : (Instr.sread (w.getLsbD 21) (fD w) (w.extractLsb' 0 10)).wf = false) (lit : Word) : ∃ e, decode w lit = .error e := by
  rw [decode_sread hop]
  rcases decSpecial_cases w with ⟨_, hs⟩ | hs
  · exact ⟨_, by rw [hs]; rfl⟩
  · exact ⟨.range, by rw [hs, ok_bind, checked_of_not_wf hwf]⟩

/-- An SWRITE from a V slot, from an S number beyond 63, or of a register that R27 does not give it. -/
theorem swrite_refused {w : Word} (hop : fOp w = 0xEC)
    (h : w.getLsbD 21 = true ∨ 64 ≤ (fD w).toNat ∨ specialWritable (w.extractLsb' 0 10).toNat = false) (lit : Word) :
    ∃ e, decode w lit = .error e := by
  rw [decode_swrite hop]
  rcases decSpecial_cases w with ⟨_, hs⟩ | hs
  · exact ⟨_, by rw [hs]; rfl⟩
  rw [hs, ok_bind]
  by_cases hv : w.getLsbD 21 = true
  · exact ⟨_, by rw [hv]; rfl⟩
  rw [Bool.eq_false_iff.mpr hv]
  by_cases hd : (fD w).getLsbD 6 = true
  · exact ⟨_, by rw [sReg, if_pos hd]; rfl⟩
  have hlt : ¬ 64 ≤ (fD w).toNat := by
    have := (fD w).isLt
    rw [BitVec.getLsbD, Nat.testBit_eq_decide_div_mod_eq, decide_eq_true_eq] at hd
    omega
  have hn := (h.resolve_left hv).resolve_left hlt
  exact ⟨.range, by rw [sReg, if_neg hd]; exact checked_of_not_wf hn⟩

theorem specialWidth_wide {n : Nat} (h : n = 0x010 ∨ n = 0x012 ∨ n = 0x014) : specialWidth n = some 64 := by
  rcases h with rfl | rfl | rfl <;> rfl

theorem specialWidth_reserved {n : Nat} (hw : ¬ (n = 0x010 ∨ n = 0x012 ∨ n = 0x014))
    (hk : ¬ (n ≤ 0x007 ∨ (0x020 ≤ n ∧ n ≤ 0x027) ∨ n = 0x030 ∨ n = 0x031)) : specialWidth n = none := by
  rw [specialWidth, if_neg (by omega), if_neg hw, if_neg (by omega), if_neg (by omega)]

theorem specialWritable_eq_false {n : Nat} (h0 : n ≠ 0x020) (h1 : n ≠ 0x021) (h2 : n ≠ 0x022) (h5 : n ≠ 0x025) (h7 : n ≠ 0x027) :
    specialWritable n = false := by
  simp [specialWritable, h0, h1, h2, h5, h7]

/-- The fields that the entry of SREAD refuses (R27). -/
theorem sread_wf_eq_false {v : Bool} {d : BitVec 7} {n : BitVec 10}
    (h : specialWidth n.toNat = none ∨ v = true ∧ specialWidth n.toNat = some 64
      ∨ v = false ∧ (64 ≤ d.toNat ∨ n = 0 ∨ specialWidth n.toNat = some 64 ∧ d.toNat % 2 = 1)) :
    (Instr.sread v d n).wf = false := by
  simp only [Instr.wf]
  cases hw : specialWidth n.toNat with
  | none => rfl
  | some w =>
    rw [hw] at h
    rcases h with h | ⟨rfl, h⟩ | ⟨rfl, h | h | ⟨h, hd⟩⟩
    · cases h
    · cases h
      rfl
    · simp [Nat.not_lt.mpr h]
    · simp [h]
    · cases h
      simp [hd]

/-! ## The obligation -/

/-- Settles O26: each read and write by the lemma of its form, and each refused word by the field that breaks the rule of its entry. -/
theorem specialRegisterAccess : Obligations.SpecialRegisterAccess := by
  intro s g p h core reads reads64 writes
  have ofNat {n : BitVec 10} {k : Nat} (hx : special s g p n.toNat = BitVec.ofNat 64 k) (hp : n.toNat = 0x030 → g.priv = true)
      (hw : (specialWidth n.toNat == some 64) = false) (hn : n ≠ 0) : reads n (BitVec.ofNat 32 k) :=
    sread_reads h (hx ▸ extractLsb'_ofNat_low k) hp hw hn
  have word {n : BitVec 10} {x : Word} (hx : special s g p n.toNat = x.zeroExtend 64) (hp : n.toNat = 0x030 → g.priv = true)
      (hw : (specialWidth n.toNat == some 64) = false) (hn : n ≠ 0) : reads n x :=
    sread_reads h (hx ▸ extractLsb'_zeroExtend_low x) hp hw hn
  refine ⟨fun d => sread_laneid h, ofNat rfl nofun rfl nofun, ofNat rfl nofun rfl nofun, ofNat rfl nofun rfl nofun,
    ofNat rfl nofun rfl nofun, ofNat rfl nofun rfl nofun, ofNat rfl nofun rfl nofun, fun c hc => ?_, fun w hw => ?_,
    sread_reads64 h rfl nofun rfl, sread_reads64 h rfl nofun rfl, word rfl nofun rfl nofun, word rfl nofun rfl nofun,
    word rfl nofun rfl nofun, ofNat rfl nofun rfl nofun, word rfl nofun rfl nofun, word rfl nofun rfl nofun,
    word rfl nofun rfl nofun, word rfl nofun rfl nofun, ofNat rfl nofun rfl nofun, fun hp => ofNat rfl (fun _ => hp) rfl nofun,
    exec_sread_tframe h, ?_, ?_, ?_, ?_, ?_, ?_⟩
  · refine ofNat ?_ nofun rfl nofun
    simp [special, hc]
  · exact ⟨_, sread_reads64 h rfl nofun rfl, fun t ht => special_tags hw p ht⟩
  · exact swrite_writes h (fun x y => { y with fpmode := x &&& 0x1F, fpmodeOld := y.modeAt s.cycle, fpmodeFrom := s.cycle + 1 })
      (fun _ _ => ⟨rfl, rfl⟩) fun _ => rfl
  · exact swrite_writes h (fun x y => { y with fpflags := y.fpflags &&& ~~~x }) (fun _ _ => ⟨rfl, rfl⟩) fun _ => rfl
  · exact swrite_writes h (fun x y => { y with seed := x }) (fun _ _ => ⟨rfl, rfl⟩) fun _ => rfl
  · exact swrite_writes h (fun x y => { y with bkcnt := x }) (fun _ _ => ⟨rfl, rfl⟩) fun _ => rfl
  · exact swrite_writes h (fun x y => { y with sowref := x }) (fun _ _ => ⟨rfl, rfl⟩) fun _ => rfl
  · intro w op n d v wide known stops
    have stop (hop : fOp w = 0xEB ∨ fOp w = 0xEC) (hdec : ∀ lit, ∃ e, decode w lit = .error e) : stops :=
      special_stops hop hdec s g p
    have sread (hop : op = 0xEB) (hwf : (Instr.sread v (fD w) (w.extractLsb' 0 10)).wf = false) : stops :=
      stop (.inl hop) (sread_refused hop hwf)
    refine ⟨fun hop hf => stop hop (special_fields_refused hop hf),
      fun hop hw hk => sread hop (sread_wf_eq_false (.inl (specialWidth_reserved hw hk))),
      fun hop hv hw => sread hop (sread_wf_eq_false (.inr (.inl ⟨hv, specialWidth_wide hw⟩))),
      fun hop hv hw hd => sread hop (sread_wf_eq_false (.inr (.inr ⟨hv, .inr (.inr ⟨specialWidth_wide hw, hd⟩)⟩))),
      fun hop hv hn => sread hop (sread_wf_eq_false (.inr (.inr ⟨hv, .inr (.inl (BitVec.eq_of_toNat_eq hn))⟩))),
      fun hop hv hd => ?_,
      fun hop h0 h1 h2 h5 h7 => stop (.inr hop) (swrite_refused hop (.inr (.inr (specialWritable_eq_false h0 h1 h2 h5 h7)))),
      fun hop hv => stop (.inr hop) (swrite_refused hop (.inl hv))⟩
    rcases hop with hop | hop
    · exact sread hop (sread_wf_eq_false (.inr (.inr ⟨hv, .inl hd⟩)))
    · exact stop (.inr hop) (swrite_refused hop (.inr (.inl hd)))

end Sys2Proof.Machine
end

section
/-! PROOFS. Steps that move a split: the shared layer of control transfer, elections and JOIN (spec/07_group.md R122 to R137), and NOP,
PAD, YIELD, ELECT, ELEND and JOIN. -/

namespace Sys2Proof.Machine

/-! ## Steps that change the issuing split alone -/

theorem OnlySplit.fpflags {g g' : Group} {p p' : Split} (h : OnlySplit g g' p p') : g'.fpflags = g.fpflags := by
  rw [h.record]

/-- A step that changes the issuing group by H, and in it the issuing split alone. -/
theorem moveResult_of_onlySplit {s : State} {g : Group} {p p' : Split} {i : Instr} (h : Issues s g p) {H : Group → Group}
    (hr : ∀ x, x.ref = g.ref → (H x).ref = x.ref) (hs : OnlySplit g (H g) p p') (he : exec i s = .next (s.updGroup g.ref H)) :
    MoveResult s g p i p' (fun _ => none) := by
  obtain ⟨hrec, hsplit, hsplits⟩ := hs
  refine ⟨_, H g, he, onlyGroup_updGroup h.group' H hr, ⟨?_, hsplit, hsplits⟩, ?_, fun r l _ _ => ?_, fun r => ?_, fun r _ => ?_⟩
  · rw [hrec]
  · rw [hrec]
  · rw [hrec]; rfl
  · rw [hrec]; rfl
  · rw [hrec]; rfl

/-- A step that puts f p in the place of the issuing split. -/
theorem moveResult_updSplit {s : State} {g : Group} {p : Split} {i : Instr} (h : Issues s g p) (f : Split → Split)
    (hf : ∀ q, q.id = p.id → (f q).id = q.id) (he : exec i s = .next (s.updSplit g.ref p.id f)) :
    MoveResult s g p i (f p) (fun _ => none) :=
  moveResult_of_onlySplit h (H := fun x => x.updSplit p.id f) (fun _ _ => rfl) (onlySplit_updSplit h.split' f hf) he

theorem moveResult_putSplit {s : State} {g : Group} {p p' : Split} {i : Instr} (h : Issues s g p) (hid : p'.id = p.id)
    (he : exec i s = .next (s.putSplit g p')) : MoveResult s g p i p' (fun _ => none) := by
  rw [State.putSplit, hid] at he
  exact moveResult_updSplit h (fun _ => p') (fun q hq => hid.trans hq.symm) he

theorem moveResult_done {s : State} {g : Group} {p : Split} {i : Instr} (h : Issues s g p)
    (he : exec i s = .next (s.done g p i)) : MoveResult s g p i (p.past i.words) (fun _ => none) :=
  moveResult_updSplit h (fun q => q.past i.words) (fun _ _ => rfl) he

theorem moveResult_stall {s : State} {g : Group} {p : Split} {i : Instr} (h : Issues s g p) (w : Wait)
    (he : exec i s = .next (s.stall g p w)) : MoveResult s g p i { p with wait := w } (fun _ => none) :=
  moveResult_updSplit h (fun q => { q with wait := w }) (fun _ _ => rfl) he

theorem updSplit_updSplit (g : Group) (n : Nat) (f k : Split → Split) (hf : ∀ q, q.id = n → (f q).id = q.id) :
    (g.updSplit n f).updSplit n k = g.updSplit n fun q => k (f q) := by
  simp only [Group.updSplit, upd, List.map_map]
  congr 1
  refine List.map_congr_left fun x _ => ?_
  by_cases hx : x.id = n
  · simp [hx, hf x hx]
  · simp [hx]

theorem updGroup_updSplit (s : State) (g : Group) (n : Nat) (f : Split → Split) (F : Group → Group)
    (hF : ∀ x, x.ref = g.ref → (F x).ref = x.ref) :
    (s.updGroup g.ref F).updSplit g.ref n f = s.updGroup g.ref fun x => (F x).updSplit n f :=
  updGroup_updGroup s g.ref F _ hF

theorem updSplit_done (s : State) (g : Group) (p : Split) (i : Instr) (f : Split → Split) (hf : ∀ q, q.id = p.id → (f q).id = q.id) :
    (s.updSplit g.ref p.id f).done g p i = s.updSplit g.ref p.id fun q => (f q).past i.words := by
  rw [State.updSplit, updGroup_done s g p i (fun x => x.updSplit p.id f) fun _ _ => rfl]
  simp only [updSplit_updSplit _ _ f _ hf]
  rfl

/-- A step that changes the group by F, which leaves its splits, puts p' in the place of p, and moves on. -/
theorem putSplit_done_onlySplit {s : State} {g : Group} {p p' : Split} (h : Issues s g p) (i : Instr) (F : Group → Group)
    (hF : ∀ x, x.ref = g.ref → (F x).ref = x.ref) (hs : (F g).splits = g.splits) (hid : p'.id = p.id) :
    ∃ g', OnlyGroup s (((s.updGroup g.ref F).putSplit g p').done g p i) g g' ∧ OnlySplit (F g) g' p (p'.past i.words) := by
  have e : ((s.updGroup g.ref F).putSplit g p').done g p i
      = s.updGroup g.ref fun x => (F x).updSplit p.id fun _ => p'.past i.words := by
    rw [State.putSplit, hid, updSplit_done _ _ _ _ _ fun q hq => hid.trans hq.symm, updGroup_updSplit s g p.id _ F hF]
  rw [e]
  refine ⟨_, onlyGroup_updGroup h.group' _ fun x hx => hF x hx, onlySplit_updSplit ?_ _ fun q hq => hid.trans hq.symm⟩
  rw [Group.split?, hs]
  exact h.split'

theorem gated_unchecked {s : State} {g : Group} {p : Split} (h : s.unchecked g p = true) (k : State) :
    gated s g p k = s.stall g p .poll := by
  rw [gated, if_pos h]

theorem gated_checked {s : State} {g : Group} {p : Split} (h : s.unchecked g p = false) (k : State) : gated s g p k = k := by
  simp [gated, h]

/-! ## Transfers of control (R30) -/

theorem addrPlus_eq_wordTarget (pc : Nat) (off : Int) : addrPlus pc off = wordTarget pc off := rfl

theorem wordTarget_lt (pc : Nat) (off : Int) : wordTarget pc off < 2 ^ 64 := by
  unfold wordTarget
  omega

theorem goto_eq_landed (p : Split) {t : Nat} (h : t < 2 ^ 64) : p.goto t = p.landed t := by
  rw [Split.goto, Nat.mod_eq_of_lt h]
  rfl

theorem goto_eq_landed_mod (p : Split) (t : Nat) : p.goto t = p.landed (t % 2 ^ 64) := rfl

theorem goto_addrPlus (p : Split) (off : Int) : p.goto (addrPlus p.pc off) = p.landed (wordTarget p.pc off) :=
  goto_eq_landed p (wordTarget_lt _ _)

theorem goto_toNat (p : Split) (x : DWord) : p.goto x.toNat = p.landed x.toNat := goto_eq_landed p x.isLt

theorem toNext_eq_fallen (p : Split) : p.toNext = p.fallen := rfl

/-! ## Elections (R134) -/

/-- The mask of a group's lowest lane. -/
def lowestBit (m : LaneMask) : LaneMask :=
  match lowestLane m with
  | some l => BitVec.ofNat 32 (2 ^ l)
  | none => 0

theorem exec_elect {s : State} {g : Group} {p : Split} (h : Issues s g p) (hu : s.unchecked g p = false) :
    exec .elect s = .next (if g.elected.isSome then s.trap g p .elect cILL
      else ((s.updGroup g.ref fun x => { x with elected := some (p.id, p.exec) }).putSplit g
        { p with exec := lowestBit p.exec }).done g p .elect) := by
  change execElect s = _
  rw [execElect, issue_next _ h (Readable.empty s g), gated_checked hu]
  rfl

theorem exec_elend {s : State} {g : Group} {p : Split} (h : Issues s g p) :
    exec .elend s = .next (match g.elected with
      | some (sp, sv) =>
        if sp = p.id then ((s.updGroup g.ref fun x => { x with elected := none }).putSplit g { p with exec := sv }).done g p .elend
        else s.trap g p .elend cILL
      | none => s.trap g p .elend cILL) :=
  issue_next _ h (Readable.empty s g)

theorem lowestLane_eq_some {m : LaneMask} {l : Nat} (h : lowestLane m = some l) :
    l < 32 ∧ m.getLsbD l = true ∧ ∀ k, k < l → m.getLsbD k = false := by
  rw [lowestLane, lanesOf, filterRange, List.head?_filter, List.find?_range_eq_some] at h
  obtain ⟨hl, hm, hk⟩ := h
  exact ⟨List.mem_range.mp hm, hl, fun k hkl => by simpa using hk k hkl⟩

theorem lowestLane_eq_none {m : LaneMask} (h : lowestLane m = none) {l : Nat} (hl : l < 32) : m.getLsbD l = false := by
  have hn : l ∉ lanesOf m := by rw [List.head?_eq_none_iff.mp h]; simp
  rw [mem_lanesOf] at hn
  simpa [hl] using hn

theorem getLsbD_lowestBit (m : LaneMask) {l : Nat} (hl : l < 32) :
    (lowestBit m).getLsbD l = true ↔ m.getLsbD l = true ∧ ∀ k, k < l → m.getLsbD k = false := by
  unfold lowestBit
  split
  next n hn =>
    obtain ⟨_, hm, hk⟩ := lowestLane_eq_some hn
    have bit : (BitVec.ofNat 32 (2 ^ n)).getLsbD l = true ↔ l = n := by
      simp only [BitVec.getLsbD_ofNat, Nat.testBit_two_pow, hl]
      simp [eq_comm]
    rw [bit]
    constructor
    · rintro rfl
      exact ⟨hm, hk⟩
    · rintro ⟨hml, hkl⟩
      rcases Nat.lt_trichotomy l n with hlt | heq | hgt
      · simp [hk l hlt] at hml
      · exact heq
      · simp [hkl n hgt] at hm
  next hn => simp [lowestLane_eq_none hn hl]

/-! ## JOIN (R123, R129) -/

/-- What a merge does to a group's record: it changes the owners of held causes and of reservations alone. -/
def reownGroup (g : Group) (f : Nat → Nat) (h : Group) : Group :=
  let h1 := if h.ref == g.ref then { h with held := h.held.map fun c => { c with split := f c.split } } else h
  match h.spawner with
  | some (r, id) => if r == g.ref then { h1 with spawner := some (r, f id) } else h1
  | none => h1

/-- The failed walk of a split that becomes part of another. -/
def reownWalk (g : Group) (f : Nat → Nat) (w : FailedWalk) : FailedWalk :=
  { w with
    site := { w.site with split := f w.site.split }
    commits := if ((g.split? w.site.split).map fun p => p.commits == w.commits).getD false then
      ((g.splits.filter fun q => f q.id == f w.site.split).map (·.commits)).foldl max 0 else w.commits }

theorem reown_eq (s : State) (g : Group) (f : Nat → Nat) :
    s.reown g f = { s with
      ops := upd (fun o => o.grp == g.ref) (fun o => { o with split := f o.split }) s.ops
      walks := upd (fun w => w.site.grp == g.ref && w.site.uid == g.uid) (reownWalk g f) s.walks
      groups := s.groups.map (reownGroup g f) } := rfl

theorem reownGroup_eq (g : Group) (f : Nat → Nat) (h : Group) :
    reownGroup g f h = { h with held := (reownGroup g f h).held, spawner := (reownGroup g f h).spawner } := by
  unfold reownGroup
  by_cases hr : (h.ref == g.ref) = true <;> rcases h.spawner with _ | ⟨r, id⟩
  · simp [hr]
  · by_cases hq : (r == g.ref) = true <;> simp [hr, hq]
  · simp [hr]
  · by_cases hq : (r == g.ref) = true <;> simp [hr, hq]

theorem group?_reown (s : State) (g : Group) (f : Nat → Nat) (r : GRef) :
    (s.reown g f).group? r = (s.group? r).map (reownGroup g f) := by
  rw [State.group?, State.group?, reown_eq, List.find?_map]
  congr 2
  funext x
  rw [Function.comp_apply, reownGroup_eq]

@[simp] theorem reownGroup_ref (g : Group) (f : Nat → Nat) (h : Group) : (reownGroup g f h).ref = h.ref := by rw [reownGroup_eq]
@[simp] theorem reownGroup_v (g : Group) (f : Nat → Nat) (h : Group) : (reownGroup g f h).v = h.v := by rw [reownGroup_eq]
@[simp] theorem reownGroup_s (g : Group) (f : Nat → Nat) (h : Group) : (reownGroup g f h).s = h.s := by rw [reownGroup_eq]
@[simp] theorem reownGroup_m (g : Group) (f : Nat → Nat) (h : Group) : (reownGroup g f h).m = h.m := by rw [reownGroup_eq]
@[simp] theorem reownGroup_splits (g : Group) (f : Nat → Nat) (h : Group) : (reownGroup g f h).splits = h.splits := by
  rw [reownGroup_eq]

theorem reownGroup_id (g h : Group) : reownGroup g id h = h := by
  unfold reownGroup
  rcases hs : h.spawner with _ | ⟨r, n⟩ <;> simp [← hs]

theorem reownWalk_id {g : Group} {q : Split} (hg : g.splits = [q]) (w : FailedWalk) : reownWalk g id w = w := by
  unfold reownWalk
  rw [Group.split?, hg]
  by_cases hid : q.id = w.site.split
  · by_cases hc : q.commits = w.commits <;> simp [hid, hc]
  · simp [hid]

theorem upd_self {α : Type} (c : α → Bool) {f : α → α} (hf : ∀ x, f x = x) (l : List α) : upd c f l = l := by
  simp [upd, hf]

/-- Where one split is live and keeps its id, everything stays with it. -/
theorem reown_eq_self (s : State) {g : Group} {q : Split} (hg : g.splits = [q]) {f : Nat → Nat} (hf : ∀ n, f n = n) :
    s.reown g f = s := by
  obtain rfl : f = id := funext hf
  rw [reown_eq, upd_self _ (f := reownWalk g id) (reownWalk_id hg), funext (reownGroup_id g), List.map_id']
  exact congrArg (fun l => { s with ops := l }) (upd_self _ (fun _ => rfl) s.ops)

/-- The group behind a JOIN of p that waits for the splits beside it. -/
def joinWaits (g : Group) (p q : Split) : Group := g.updSplit p.id fun _ => { q with wait := .join }

theorem joinWaits_alone {g : Group} {p : Split} (q : Split) (hg : g.splits = [p]) :
    (joinWaits g p q).splits = [{ q with wait := .join }] := by simp [joinWaits, Group.updSplit, hg, upd]

theorem joined_alone {g : Group} {q : Split} (hg : g.splits = [q]) (n : Nat) : g.joined n = n := by
  rw [Group.joined, Group.split?, hg]
  by_cases hn : q.id = n <;> simp [hn]

theorem joinRelease_alone {g : Group} {q : Split} (hg : g.splits = [q]) (hw : q.wait = .join) :
    g.joinRelease = { g with splits := [q.toNext] } := by
  simp [Group.joinRelease, hg, joined_alone hg, hw]

theorem joinAll_empty {p : Split} (hp : p.stack = []) : joinAll 33 p = (p, true) := by
  simp [joinAll, hp]

/-- Two splits that wait at one JOIN go on as one. -/
theorem joinRelease_pair {g : Group} {p q : Split} (hg : g.splits = [p, q]) (hp : p.wait = .join) (hq : q.wait = .join)
    (hpc : q.pc = p.pc) (hlt : p.id < q.id) :
    g.joinRelease = { g with splits := [(mergeSplits p q).toNext], elected := g.elected.map fun e => (g.joined e.1, e.2) } := by
  simp [Group.joinRelease, hg, hp, hq, hpc, hlt, hlt.le, hlt.ne']

/-- The merged split stands where the one of the lower id stands. -/
theorem mergeSplits_low {a b : Split} (h : a.id < b.id) :
    (mergeSplits a b).id = a.id ∧ (mergeSplits a b).nextHeader = a.nextHeader := by
  simp [mergeSplits, h, Split.nextHeader]

theorem joinRelease_ref (g : Group) : g.joinRelease.ref = g.ref := by
  unfold Group.joinRelease
  split <;> rfl

/-- What a JOIN does whose split has used up its stack. -/
theorem exec_join {s : State} {g : Group} {p q : Split} (h : Issues s g p) (hu : s.unchecked g p = false)
    (hj : joinAll 33 p = (q, true)) :
    exec .join s = .next (if (joinWaits g p q).splits.all (·.wait == .join)
      then ((s.updGroup g.ref fun _ => joinWaits g p q).reownAll (joinWaits g p q)).updGroup g.ref Group.joinRelease
      else s.updGroup g.ref fun _ => joinWaits g p q) := by
  change execJoin s = _
  rw [execJoin, issue_next _ h (Readable.empty s g), gated_checked hu, hj]
  rfl

/-- The only live split passes its JOIN at once. -/
theorem join_alone {s : State} {g : Group} {p q : Split} (h : Issues s g p) (hu : s.unchecked g p = false) (hg : g.splits = [p])
    (hj : joinAll 33 p = (q, true)) (hid : q.id = p.id) : MoveResult s g p .join q.fallen (fun _ => none) := by
  have hs := joinWaits_alone q hg
  have release : (joinWaits g p q).joinRelease = { g with splits := [q.fallen] } :=
    (joinRelease_alone hs rfl).trans rfl
  refine moveResult_of_onlySplit h (H := fun _ => (joinWaits g p q).joinRelease) (fun x hx => by rw [release, hx]) ?_ ?_
  · rw [release]
    refine ⟨rfl, ?_, fun n hn => ?_⟩
    · simp [Group.split?, Split.fallen, hid]
    · simp [Group.split?, Split.fallen, hid, hg, hn.symm]
  · rw [exec_join h hu hj, if_pos (by simp [hs]), State.reownAll, reown_eq_self _ hs (joined_alone hs),
      updGroup_updGroup s g.ref (fun _ => joinWaits g p q) _ fun x hx => hx.symm]

/-- A JOIN whose split has used up its stack waits for a sibling. -/
theorem join_waits {s : State} {g : Group} {p q : Split} {n : Nat} (h : Issues s g p) (hu : s.unchecked g p = false) (hp : p.stack = [])
    (hn : n ≠ p.id) (hq : g.split? n = some q) (hw : q.wait ≠ .join) :
    MoveResult s g p .join { p with wait := .join } (fun _ => none) := by
  have sibling : q ∈ (joinWaits g p p).splits := by
    have : (joinWaits g p p).split? n = some q := by
      rw [← hq]
      exact split?_updSplit_other g hn _ fun x hx => hx.symm
    exact List.mem_of_find?_eq_some this
  refine moveResult_of_onlySplit h (H := fun _ => joinWaits g p p) (fun x hx => hx.symm)
    (onlySplit_updSplit h.split' (fun _ => { p with wait := .join }) fun x hx => hx.symm) ?_
  rw [exec_join h hu (joinAll_empty hp), if_neg]
  intro hall
  exact hw (by simpa using List.all_eq_true.mp hall q sibling)

/-- A JOIN that a stack entry answers without a wait. -/
theorem join_stack {s : State} {g : Group} {p q : Split} (h : Issues s g p) (hu : s.unchecked g p = false)
    (hp : p.stack ≠ []) (hj : joinStack p = (q, false)) (hid : q.id = p.id) : MoveResult s g p .join q (fun _ => none) := by
  refine moveResult_putSplit h hid ?_
  change execJoin s = _
  have hall : joinAll 33 p = (q, false) := by
    rw [joinAll, if_neg (by simpa using hp), hj]
  rw [execJoin, issue_next _ h (Readable.empty s g), gated_checked hu, hall]

/-- Two splits at one JOIN merge and go on. -/
theorem join_merges {s : State} {g : Group} {p q : Split} (h : Issues s g p) (hu : s.unchecked g p = false) (hp : p.stack = [])
    (hg : g.splits = [p, q]) (hlt : p.id < q.id) (hw : q.wait = .join) (hpc : q.pc = p.pc) :
    ∃ t g' r, exec .join s = .next t ∧ t.group? g.ref = some g' ∧ g'.splits = [r] ∧ r.id = p.id ∧ r.lset = p.lset ||| q.lset
      ∧ r.exec = p.exec ||| q.exec ∧ r.pc = p.nextHeader ∧ r.clause = none ∧ r.wait = .none ∧ g'.v = g.v ∧ g'.s = g.s ∧ g'.m = g.m
      ∧ (∀ x, x ≠ g.ref → (t.group? x).map (fun h => (h.v, h.s, h.m, h.splits)) = (s.group? x).map fun h => (h.v, h.s, h.m, h.splits))
      ∧ SameMem s t := by
  let w : Split := { p with wait := .join }
  let g1 := joinWaits g p p
  let f := g1.joined
  have hs : g1.splits = [w, q] := by simp [g1, joinWaits, Group.updSplit, hg, upd, hlt.ne', w]
  have release := joinRelease_pair (g := reownGroup g1 f g1) ((reownGroup_splits ..).trans hs) rfl hw hpc hlt
  have looks : ∀ x, ((s.updGroup g.ref fun _ => g1).reownAll g1).group? x =
      ((s.updGroup g.ref fun _ => g1).group? x).map (reownGroup g1 f) :=
    fun x => group?_reown ..
  refine ⟨_, (reownGroup g1 f g1).joinRelease, (mergeSplits w q).toNext, exec_join h hu (joinAll_empty hp), ?_⟩
  have all : (joinWaits g p p).splits.all (·.wait == .join) = true := by
    rw [show (joinWaits g p p).splits = [w, q] from hs]
    simp [w, hw]
  obtain ⟨hid, hpc'⟩ := mergeSplits_low (a := w) hlt
  have waits : (s.updGroup g.ref fun _ => g1).group? g.ref = some g1 := group?_updGroup_same _ (fun x hx => hx.symm) h.group'
  have group := group?_updGroup_same Group.joinRelease (fun x _ => joinRelease_ref x)
    ((looks g.ref).trans (congrArg (Option.map (reownGroup g1 f)) waits))
  rw [if_pos all, group, release]
  refine ⟨rfl, rfl, hid, rfl, rfl, hpc', rfl, rfl, reownGroup_v .., reownGroup_s .., reownGroup_m .., fun x hx => ?_, fun _ => rfl⟩
  rw [group?_updGroup_other _ hx _ fun x _ => joinRelease_ref x, looks, group?_updGroup_other s hx (fun _ => g1) fun x hx => hx.symm,
    Option.map_map]
  congr 1
  funext y
  simp

/-- Settles O9: by what a JOIN does with the split's stack, then by what the group does when every split waits. -/
theorem plainElectionAndJoin : Obligations.PlainElectionAndJoin := by
  unfold Obligations.PlainElectionAndJoin
  refine ⟨fun s g p h => ⟨fun z => withIssuer_next h _, ?_, fun l => ?_, ?_⟩,
    fun s g p h => ⟨fun hu he => ?_, fun hu he => ?_, fun sv he => ?_, fun he => ?_⟩, fun s g p h hu => ⟨?_, ?_⟩,
    fun s g p h hu => ⟨fun hp hg => join_alone h hu hg (joinAll_empty hp) rfl, ?_, ?_, ?_, ?_, ?_⟩⟩
  · exact moveResult_done h (issue_next _ h (Readable.empty s g))
  · exact moveResult_done h (issue_next _ h (Readable.empty s g))
  · exact moveResult_updSplit h (fun q => { q.past 1 with yieldTo := s.cycle + 17 }) (fun _ _ => rfl)
      ((issue_next _ h (Readable.empty s g)).trans (congrArg _ (updSplit_done s g p .yield _ fun _ _ => rfl)))
  · obtain ⟨g', hg, hs⟩ := putSplit_done_onlySplit (p' := { p with exec := lowestBit p.exec }) h .elect
      (fun x => { x with elected := some (p.id, p.exec) }) (fun _ _ => rfl) rfl rfl
    refine ⟨_, g', _, ?_, hg, hs, rfl, fun l hl => getLsbD_lowestBit p.exec hl⟩
    rw [exec_elect h hu, he]
    rfl
  · rw [exec_elect h hu, if_pos (Option.isSome_iff_ne_none.mpr he)]
  · obtain ⟨g', hg, hs⟩ := putSplit_done_onlySplit (p' := { p with exec := sv }) h .elend
      (fun x => { x with elected := none }) (fun _ _ => rfl) rfl rfl
    refine ⟨_, g', ?_, hg, hs⟩
    rw [exec_elend h, he]
    simp
  · rw [exec_elend h]
    rcases hg : g.elected with _ | ⟨sp, sv⟩
    · rfl
    · have hne : sp ≠ p.id := fun hsp => he sv (by rw [hg, hsp])
      simp [hne]
  · change execElect s = _
    rw [execElect, issue_next _ h (Readable.empty s g), gated_unchecked hu]
  · change execJoin s = _
    rw [execJoin, issue_next _ h (Readable.empty s g), gated_unchecked hu]
  · rintro hp ⟨n, q, hn, hq, hw⟩
    exact join_waits h hu hp hn hq hw
  · intro pc lanes rest hp
    exact join_stack h hu (by simp [hp]) (by rw [joinStack, hp]; rfl) rfl
  · intro l e hp hg
    exact join_alone (q := { p with lset := p.lset ||| l, exec := p.exec ||| e, stack := [] }) h hu hg
      (by simp [joinAll, joinStack, hp]) rfl
  · intro pc l e rest hp hne
    exact join_stack h hu (by simp [hp]) (by rw [joinStack, hp]; exact if_neg hne) rfl
  · intro q hp hg hlt hw hpc
    exact join_merges h hu hp hg hlt hw hpc

end Sys2Proof.Machine
end

section
/-! PROOFS. What memory accesses leave of the groups: writes at a home and walks change no group, the checks of addresses change last-page
registers alone (R316, R317), and requests to the pod change neither groups nor operations nor memory. -/

namespace Sys2Proof.Machine

/-! ## Writes at a home -/

/-- A fold of steps that keep a part of the state keeps it. -/
theorem foldl_keeps {α β : Type} (part : State → β) {f : State → α → State} (h : ∀ s a, part (f s a) = part s) (l : List α) (s : State) :
    part (l.foldl f s) = part s := by
  induction l generalizing s with
  | nil => rfl
  | cons a t ih => exact (ih _).trans (h s a)

@[simp] theorem retireFrame_groups (s : State) (f : Nat) : (s.retireFrame f).groups = s.groups := by
  unfold State.retireFrame
  dsimp only
  repeat' split
  all_goals rfl

@[simp] theorem noteRead_groups (s : State) (n : Nat) (dom : Option (Key × BitVec 16)) (kds : Nat) :
    (s.noteRead n dom kds).groups = s.groups := by
  unfold State.noteRead
  dsimp only
  split
  · have hs2 (m : LineMeta) (c : Bool) : (if c = true then s.setMeta n m else (s.setMeta n m).emit (.memErr n)).groups = s.groups := by
      split <;> rfl
    split
    · rw [retireFrame_groups, hs2]
    · exact hs2 ..
  · split <;> rfl

@[simp] theorem mergePhys_groups (s : State) (n : Nat) (dom : Option (Key × BitVec 16)) (kds : Nat) (d : LineData) (m : LineMask) :
    (s.mergePhys n dom kds d m).1.groups = s.groups := by
  have hs : (if (m != BitVec.allOnes 128) = true then s.noteRead n dom kds else s).groups = s.groups := by
    split
    · exact noteRead_groups ..
    · rfl
  unfold State.mergePhys
  dsimp only
  split
  · exact hs
  · rw [State.setMeta_groups]
    exact hs

@[simp] theorem replyTo_groups (s : State) (cx src : Nat) (vlink : BitVec 32) (lb : Bool) (b : PktBody) :
    (s.replyTo cx src vlink lb b).groups = s.groups := by
  unfold State.replyTo
  dsimp only
  split <;> rfl

@[simp] theorem wake_groups (s : State) (k : LineKey) : (s.wake k).groups = s.groups :=
  foldl_keeps State.groups (f := fun (s : State) (h : RWatch × DWord) =>
    s.replyTo h.1.cx h.1.src h.1.vlink h.1.loopback (.rWatch h.1.req h.2)) (fun _ _ => replyTo_groups ..) _ _

@[simp] theorem invalCopy_groups (s : State) (k : LineKey) (c : Option Nat) (n : Nat) : (s.invalCopy k c n).groups = s.groups := by
  cases c <;> rfl

@[simp] theorem dropCopies_groups (s : State) (k : LineKey) : (s.dropCopies k).groups = s.groups :=
  foldl_keeps State.groups (f := fun (s : State) (c : Option Nat × Nat) => s.invalCopy k c.1 c.2) (fun s c => invalCopy_groups s k c.1 c.2) _ s

@[simp] theorem l2Evict_groups (s : State) (n : Nat) : (s.l2Evict n).groups = s.groups := by
  unfold State.l2Evict
  dsimp only
  split
  · rfl
  · split
    · rfl
    · split
      next v hv =>
        exact foldl_keeps State.groups (f := fun (s : State) (c : Option Nat × Nat) => if c.1.isNone then s.invalCopy v none c.2 else s)
          (fun s c => by split <;> simp) _ _
      · split <;> rfl

@[simp] theorem l2Touch_groups (s : State) (k : LineKey) (w : Bool) : (s.l2Touch k w).groups = s.groups := by
  unfold State.l2Touch
  split
  · rfl
  · exact l2Evict_groups ..

@[simp] theorem homeWrite_groups (s : State) (k : LineKey) (d : LineData) (m : LineMask) : (s.homeWrite k d m).1.groups = s.groups := by
  unfold State.homeWrite
  dsimp only
  split
  · exact dropCopies_groups ..
  next n _ =>
    have hm := mergePhys_groups (s.dropCopies k) n ((s.dropCopies k).domain k.cx k.kds) k.kds d m
    simp only [wake_groups, l2Touch_groups]
    split
    · exact hm.trans (dropCopies_groups ..)
    · exact hm.trans (dropCopies_groups ..)

@[simp] theorem physWrite_groups (s : State) (cx pa : Nat) (bs : List Byte) : (s.physWrite cx pa bs).groups = s.groups :=
  foldl_keeps State.groups (fun _ _ => homeWrite_groups ..) _ s

/-! ## Walks (R316, R317) -/

@[simp] theorem noteWalk_groups (s : State) (c : Context) (va : Nat) : (s.noteWalk c va).groups = s.groups :=
  foldl_keeps State.groups (fun _ _ => noteRead_groups ..) _ s

@[simp] theorem markEntry_groups (s : State) (c : Context) (ea : Nat) (p : Pte) (d : Bool) : (s.markEntry c ea p d).groups = s.groups := by
  unfold State.markEntry
  generalize (p.raw ||| BitVec.ofNat 64 (2 ^ 54) ||| if d = true then BitVec.ofNat 64 (2 ^ 55) else 0) = raw
  dsimp only
  split
  · rfl
  · exact homeWrite_groups ..

@[simp] theorem walk_groups (s : State) (cx va : Nat) (a : Acc) : (s.walk cx va a).1.groups = s.groups := by
  rcases walk_cases s cx va a with e | ⟨c, -, e⟩ | ⟨c, ea, p, d, -, -, e⟩
  · rw [e]
  · rw [e, noteWalk_groups]
  · rw [e, markEntry_groups, noteWalk_groups]

@[simp] theorem refill_groups (s : State) (core : Nat) (t : Xlat) (both : Bool) : (s.refill core t both).groups = s.groups := by
  unfold State.refill
  dsimp only
  split <;> rfl

@[simp] theorem translate_groups (s : State) (core cx va : Nat) (a : Acc) : (s.translate core cx va a).1.groups = s.groups := by
  have hw := walk_groups s cx va a
  unfold State.translate
  dsimp only
  split
  · rfl
  · split
    · split
      · rfl
      · exact refill_groups ..
    · split
      next s1 t e =>
        rw [e] at hw
        dsimp only
        split
        · exact hw
        · exact (refill_groups ..).trans hw
      next s1 r _ e =>
        rw [e] at hw
        exact hw

/-! ## Checks of addresses (R218, R317) -/

/-- From s to t the groups of reference r differ at most in their last-page registers, and no other group has changed. -/
def OnlyPages (r : GRef) (s t : State) : Prop :=
  ∃ L : Group → List (Nat × Xlat), t.groups = upd (fun x => x.ref == r) (fun x => { x with lastPage := L x }) s.groups

namespace OnlyPages

theorem of_groups {r : GRef} {s t : State} (h : t.groups = s.groups) : OnlyPages r s t :=
  ⟨Group.lastPage, by simp [h, upd]⟩

theorem updGroup (s : State) (r : GRef) (f : Group → List (Nat × Xlat)) :
    OnlyPages r s (s.updGroup r fun x => { x with lastPage := f x }) := ⟨f, rfl⟩

theorem trans {r : GRef} {s t u : State} (h1 : OnlyPages r s t) (h2 : OnlyPages r t u) : OnlyPages r s u := by
  obtain ⟨L, e1⟩ := h1
  obtain ⟨M, e2⟩ := h2
  refine ⟨fun x => M { x with lastPage := L x }, ?_⟩
  rw [e2, e1, upd, upd, List.map_map]
  refine List.map_congr_left fun x _ => ?_
  by_cases hx : x.ref = r <;> simp [hx]

theorem group? {r : GRef} {s t : State} (h : OnlyPages r s t) :
    ∃ L : Group → List (Nat × Xlat), ∀ q, t.group? q = (s.updGroup r fun x => { x with lastPage := L x }).group? q := by
  obtain ⟨L, e⟩ := h
  exact ⟨L, fun q => by rw [State.group?, e]; rfl⟩

theorem other {r q : GRef} {s t : State} (h : OnlyPages r s t) (hq : q ≠ r) : t.group? q = s.group? q := by
  obtain ⟨L, e⟩ := h.group?
  exact (e q).trans (group?_updGroup_other s hq _ fun _ _ => rfl)

theorem same {s t : State} {g : Group} (h : OnlyPages g.ref s t) (hg : s.group? g.ref = some g) :
    ∃ l, t.group? g.ref = some { g with lastPage := l } := by
  obtain ⟨L, e⟩ := h.group?
  exact ⟨L g, (e _).trans (group?_updGroup_same _ (fun _ _ => rfl) hg)⟩

end OnlyPages

theorem resolve_onlyPages (s : State) (g : Group) (last : Option Nat) (va : Nat) (a : Acc) :
    OnlyPages g.ref s (s.resolve g last va a).1 := by
  have ht := translate_groups s g.ref.core g.cx va a
  have stays : OnlyPages g.ref s s := .of_groups rfl
  unfold State.resolve
  cases regionOf va with
  | none => exact stays
  | pod => cases a <;> exact stays
  | mcast => cases a <;> exact stays
  | control => exact stays
  | trap =>
    dsimp only
    split
    · exact stays
    · split
      · exact stays
      · split <;> exact stays
  | localTable =>
    dsimp only
    split
    · split <;> exact stays
    · split
      next s1 t e =>
        rw [e] at ht
        cases last with
        | none => exact .of_groups ht
        | some l => exact (OnlyPages.of_groups ht).trans (.updGroup s1 g.ref fun x => (l, t) :: x.lastPage.filter fun e => e.1 != l)
      next s1 r _ e =>
        rw [e] at ht
        exact .of_groups ht

/-- The checks of one lane; what checkEas does with each. -/
def checkEa (g : Group) (a : Acc) (size : Nat) (ok : LineKey → Bool) (acc : State × List LaneEa × LaneFail) (e : Nat × Nat) :
    State × List LaneEa × LaneFail :=
  let (s, l, f) := acc
  let (lane, va) := e
  if va % size ≠ 0 then
    match s.resolve ((s.group? g.ref).getD g) (some lane) va a with
    | (s1, .error (.fail c d)) => (s1, l, f.add lane (cALIGN ||| causeBit c) va d)
    | (_, .ok k) => (s, l, f.add lane (if ok k then cALIGN else cALIGN ||| cPROT) va 0)
    | (_, .error _) => (s, l, f.add lane cALIGN va 0)
  else
    let g1 := (s.group? g.ref).getD g
    let hit := g1.lastHit lane va a
    let f1 := if hit then f else { f with missed := f.missed ||| maskOfLanes [lane] }
    match s.resolve g1 (some lane) va a with
    | (s1, .ok k) =>
      if ok k then (s1, l ++ [{ lane := lane, va := va, key := k }], f1)
      else (s1, l, f1.add lane cPROT va 0)
    | (s1, .error (.fail c d)) => (s1, l, f1.add lane (causeBit c) va d)
    | (s1, .error .wait) => (s1, l, { f1 with waits := true })
    | (s1, .error (.ok _)) => (s1, l, f1)

theorem checkEas_eq (s : State) (g : Group) (a : Acc) (size : Nat) (ok : LineKey → Bool) (eas : List (Nat × Nat)) :
    s.checkEas g a size ok eas = eas.foldl (checkEa g a size ok) (s, [], {}) := rfl

theorem getD_group?_ref (s : State) (g : Group) : ((s.group? g.ref).getD g).ref = g.ref := by
  cases h : s.group? g.ref with
  | none => rfl
  | some x => exact group?_ref h

theorem checkEa_onlyPages (g : Group) (a : Acc) (size : Nat) (ok : LineKey → Bool) (acc : State × List LaneEa × LaneFail)
    (e : Nat × Nat) : OnlyPages g.ref acc.1 (checkEa g a size ok acc e).1 := by
  obtain ⟨s, l, f⟩ := acc
  obtain ⟨lane, va⟩ := e
  have hr := resolve_onlyPages s ((s.group? g.ref).getD g) (some lane) va a
  rw [getD_group?_ref] at hr
  unfold checkEa
  dsimp only
  split
  · split
    next s1 c d e => rw [e] at hr; exact hr
    next => exact .of_groups rfl
    next => exact .of_groups rfl
  · split
    next s1 k e =>
      rw [e] at hr
      split
      · exact hr
      · exact hr
    next s1 c d e => rw [e] at hr; exact hr
    next s1 e => rw [e] at hr; exact hr
    next s1 t e => rw [e] at hr; exact hr

theorem checkEas_onlyPages (s : State) (g : Group) (a : Acc) (size : Nat) (ok : LineKey → Bool) (eas : List (Nat × Nat)) :
    OnlyPages g.ref s (s.checkEas g a size ok eas).1 := by
  rw [checkEas_eq]
  generalize hx : (s, ([] : List LaneEa), ({} : LaneFail)) = acc
  obtain rfl : acc.1 = s := by rw [← hx]
  clear hx
  induction eas generalizing acc with
  | nil => exact .of_groups rfl
  | cons e es ih => exact (checkEa_onlyPages g a size ok acc e).trans (ih _)

@[simp] theorem sample_groups (s : State) (core cx va : Nat) : (s.sample core cx va).groups = s.groups := by
  unfold State.sample
  split
  · rfl
  · dsimp only
    split <;> rfl

@[simp] theorem sampleLanes_groups (s : State) (g : Group) (l : List LaneEa) : (s.sampleLanes g l).groups = s.groups :=
  foldl_keeps State.groups (fun _ _ => sample_groups ..) l s

theorem checkLanes_onlyPages (s : State) (g : Group) (a : Acc) (size : Nat) (ok : LineKey → Bool) (eas : List (Nat × Nat)) :
    OnlyPages g.ref s (s.checkLanes g a size ok eas).1 := by
  have hc := checkEas_onlyPages s g a size ok eas
  unfold State.checkLanes
  dsimp only
  split
  · exact hc.trans (.of_groups (sampleLanes_groups ..))
  · exact hc

end Sys2Proof.Machine
end

section
/-! PROOFS. Loads: what the checks of R218 pass, how an operation is attached, and LD, SLD, LDB, LDS and LDSR (spec/11_line.md R217 to
R220). -/

namespace Sys2Proof.Machine

/-! ## What a resolution can answer (R218, R316) -/

/-- An access waits, or fails with a cause of R152. -/
def XRes.Stops (r : XRes) : Prop := r = .wait ∨ ∃ c d, r = .fail c d ∧ c < 22

theorem XRes.stops_fail {c : Nat} (d : Nat) (h : c < 22) : (XRes.fail c d).Stops := .inr ⟨c, d, rfl, h⟩

theorem permits_stops {t : Xlat} {a : Acc} {r : XRes} (h : t.permits a = some r) : r.Stops := by
  have prot (d : Nat) : (XRes.fail causeProt d).Stops := XRes.stops_fail d (by decide)
  cases a <;> simp only [Xlat.permits] at h
  case read | touch | quiet => simp at h
  case exec | openWrite =>
    split at h <;> simp only [Option.some.injEq, reduceCtorEq] at h
    exact h ▸ prot _
  case write =>
    split at h
    · obtain rfl := Option.some.inj h
      exact prot 1
    · split at h <;> simp only [Option.some.injEq, reduceCtorEq] at h
      exact h ▸ prot 3

theorem walkTo_stops {s : State} {c : Context} {va : Nat} {r : XRes} (fuel level table : Nat)
    (h : s.walkTo c va fuel level table = .error r) : r.Stops := by
  have page (d : Nat) : (XRes.fail causePage d).Stops := XRes.stops_fail d (by decide)
  induction fuel generalizing level table with
  | zero =>
    obtain rfl : .fail causePage 3 = r := by simpa [State.walkTo] using h
    exact page 3
  | succ fuel ih =>
    rw [State.walkTo] at h
    dsimp only at h
    split at h
    · obtain rfl := Except.error.inj h
      exact XRes.stops_fail 4 (by decide)
    · split at h
      · obtain rfl := Except.error.inj h
        exact page _
      · split at h
        · split at h
          · obtain rfl := Except.error.inj h
            exact page 3
          · cases h
        · split at h
          · obtain rfl := Except.error.inj h
            exact page 3
          · exact ih _ _ h

theorem walk_result (s : State) (cx va : Nat) (a : Acc) : (∃ t, (s.walk cx va a).2 = .ok t) ∨ (s.walk cx va a).2.Stops := by
  unfold State.walk
  split
  · exact .inr (XRes.stops_fail 1 (by decide))
  · split
    next h => exact .inr (walkTo_stops _ _ _ h)
    · split
      · exact .inr (.inl rfl)
      · dsimp only
        split
        next h => exact .inr (permits_stops h)
        · split <;> exact .inl ⟨_, rfl⟩

theorem translate_result (s : State) (core cx va : Nat) (a : Acc) :
    (∃ t, (s.translate core cx va a).2 = .ok t) ∨ (s.translate core cx va a).2.Stops := by
  unfold State.translate
  dsimp only
  split
  next t _ =>
    cases h : t.permits a with
    | none => exact .inl ⟨t, rfl⟩
    | some r => exact .inr (permits_stops h)
  · split
    · split
      next h => exact .inr (permits_stops h)
      · exact .inl ⟨_, rfl⟩
    · have hw := walk_result s cx va a
      split
      · exact .inl ⟨_, rfl⟩
      next e => rw [e] at hw; exact hw

theorem resolve_error {s : State} {g : Group} {last : Option Nat} {va : Nat} {a : Acc} {r : XRes}
    (h : (s.resolve g last va a).2 = .error r) : r.Stops := by
  have prot (d : Nat) : (XRes.fail causeProt d).Stops := XRes.stops_fail d (by decide)
  have ht := translate_result s g.ref.core g.cx va a
  unfold State.resolve at h
  cases hv : regionOf va with
  | none => rw [hv] at h; obtain rfl := Except.error.inj h; exact prot 0
  | pod =>
    rw [hv] at h
    cases a <;> cases h
    exact prot 2
  | mcast =>
    rw [hv] at h
    cases a <;> cases h
    · exact prot 0
    · exact prot 0
    · exact prot 2
  | control => rw [hv] at h; obtain rfl := Except.error.inj h; exact prot _
  | trap =>
    rw [hv] at h
    dsimp only at h
    split at h
    · obtain rfl := Except.error.inj h; exact prot 0
    · split at h
      · obtain rfl := Except.error.inj h; exact prot 2
      · split at h
        · obtain rfl := Except.error.inj h; exact prot 0
        · cases h
  | localTable =>
    rw [hv] at h
    dsimp only at h
    split at h
    · split at h
      next hp => obtain rfl := Except.error.inj h; exact permits_stops hp
      · cases h
    · split at h
      · cases h
      next s1 r' hne e =>
        obtain rfl := Except.error.inj h
        rw [e] at ht
        rcases ht with ⟨t, ht⟩ | hs
        · exact absurd ht (hne t)
        · exact hs

/-! ## Lanes that pass their checks -/

theorem causeBit_ne_zero {c : Nat} (h : c < 22) : causeBit c ≠ 0 := by
  have all : ∀ c, c < 22 → causeBit c ≠ 0 := by decide
  exact all c h

theorem add_cause_ne_zero (f : LaneFail) (lane : Nat) {c : Cause} (h : c ≠ 0) (addr detail : Nat) :
    (f.add lane c addr detail).cause ≠ 0 := by
  intro e
  exact h (BitVec.or_eq_zero_iff.mp e).2

/-- No lane has failed, and none waits. -/
def LaneFail.Passes (f : LaneFail) : Prop := f.cause = 0 ∧ f.waits = false

theorem not_passes_add (f : LaneFail) (lane : Nat) {c : Cause} (h : c ≠ 0) (addr detail : Nat) : ¬ (f.add lane c addr detail).Passes :=
  fun hp => add_cause_ne_zero f lane h addr detail hp.1

theorem aligned_cause_ne_zero (c : Cause) : cALIGN ||| c ≠ 0 := fun e => absurd (BitVec.or_eq_zero_iff.mp e).1 (by decide)

/-- A lane whose checks pass adds its address, and every lane before it has passed. -/
theorem checkEa_passes {g : Group} {a : Acc} {size : Nat} {ok : LineKey → Bool} {acc : State × List LaneEa × LaneFail} {e : Nat × Nat}
    (h : (checkEa g a size ok acc e).2.2.Passes) :
    acc.2.2.Passes ∧ ∃ k, (checkEa g a size ok acc e).2.1 = acc.2.1 ++ [{ lane := e.1, va := e.2, key := k }] := by
  obtain ⟨s, l, f⟩ := acc
  obtain ⟨lane, va⟩ := e
  have hr := @resolve_error s ((s.group? g.ref).getD g) (some lane) va a
  unfold checkEa at h ⊢
  dsimp only at h ⊢
  split at h
  · exfalso
    split at h
    next => exact not_passes_add f lane (aligned_cause_ne_zero _) _ _ h
    next =>
      refine not_passes_add f lane ?_ _ _ h
      split
      · decide
      · exact aligned_cause_ne_zero _
    next => exact not_passes_add f lane (by decide) _ _ h
  next halign =>
    rw [if_neg halign]
    generalize hf1 : (if ((s.group? g.ref).getD g).lastHit lane va a = true then f
      else { f with missed := f.missed ||| maskOfLanes [lane] }) = f1 at h ⊢
    have same : f1.Passes → f.Passes := by
      intro hp
      subst hf1
      split at hp <;> exact hp
    split at h
    next s1 k e =>
      split at h
      next hok => exact ⟨same h, k, by simp [hok]⟩
      · exact absurd h (not_passes_add f1 lane (by decide) _ _)
    next s1 c d e =>
      rw [e] at hr
      obtain hwait | ⟨c', d', hfail, hlt⟩ := hr rfl
      · cases hwait
      · obtain ⟨rfl, rfl⟩ := XRes.fail.inj hfail
        exact absurd h (not_passes_add f1 lane (causeBit_ne_zero hlt) _ _)
    next s1 e => exact absurd h.2 (by simp)
    next s1 t e =>
      rw [e] at hr
      obtain hwait | ⟨c', d', hfail, _⟩ := hr rfl
      · cases hwait
      · cases hfail

theorem checkEas_passes {s : State} {g : Group} {a : Acc} {size : Nat} {ok : LineKey → Bool} {eas : List (Nat × Nat)}
    (h : (s.checkEas g a size ok eas).2.2.Passes) : (s.checkEas g a size ok eas).2.1.map (fun x => (x.lane, x.va)) = eas := by
  have fold : ∀ (eas : List (Nat × Nat)) (acc : State × List LaneEa × LaneFail), (eas.foldl (checkEa g a size ok) acc).2.2.Passes →
      (eas.foldl (checkEa g a size ok) acc).2.1.map (fun x => (x.lane, x.va)) = acc.2.1.map (fun x => (x.lane, x.va)) ++ eas
        ∧ acc.2.2.Passes := by
    intro eas
    induction eas with
    | nil => intro acc h; simpa using h
    | cons e es ih =>
      intro acc h
      obtain ⟨hl, hp⟩ := ih _ h
      obtain ⟨hp', k, hk⟩ := checkEa_passes hp
      rw [List.foldl_cons, hl, hk]
      exact ⟨by simp, hp'⟩
  rw [checkEas_eq] at h ⊢
  simpa using (fold eas _ h).1

theorem checkLanes_passes {s s1 : State} {g : Group} {a : Acc} {size : Nat} {ok : LineKey → Bool} {eas : List (Nat × Nat)}
    {l : List LaneEa} {f : LaneFail} (h : s.checkLanes g a size ok eas = (s1, l, f)) (hc : f.cause = 0) (hw : f.waits = false) :
    l.map (fun x => (x.lane, x.va)) = eas := by
  have e : s.checkEas g a size ok eas = ((s.checkEas g a size ok eas).1, l, f) := by
    unfold State.checkLanes at h
    dsimp only at h
    split at h
    · exact Prod.ext rfl (Prod.mk.inj h).2
    · exact Prod.ext rfl (Prod.mk.inj h).2
  have hp : (s.checkEas g a size ok eas).2.2.Passes := by rw [e]; exact ⟨hc, hw⟩
  have := checkEas_passes hp
  rwa [e] at this

/-! ## Requests to the pod (R331, R336) -/

/-- From s to t the groups, the operations and memory have not changed. -/
structure SameWork (s t : State) : Prop where
  groups : t.groups = s.groups
  ops : t.ops = s.ops
  mem : t.mem = s.mem

namespace SameWork

theorem refl (s : State) : SameWork s s := ⟨rfl, rfl, rfl⟩

theorem trans {s t u : State} (h1 : SameWork s t) (h2 : SameWork t u) : SameWork s u :=
  ⟨h2.groups.trans h1.groups, h2.ops.trans h1.ops, h2.mem.trans h1.mem⟩

theorem foldl {α : Type} {f : State → α → State} (l : List α) (h : ∀ s, ∀ a ∈ l, SameWork s (f s a)) (s : State) :
    SameWork s (l.foldl f s) := by
  induction l generalizing s with
  | nil => exact refl s
  | cons a l ih => exact (h s a (by simp)).trans (ih (fun s b hb => h s b (by simp [hb])) _)

theorem updCtx {s t : State} (h : SameWork s t) (cx : Nat) (f : Context → Context) : SameWork s (t.updCtx cx f) :=
  ⟨h.groups, h.ops, h.mem⟩

theorem emit {s t : State} (h : SameWork s t) (e : HostEvent) : SameWork s (t.emit e) := ⟨h.groups, h.ops, h.mem⟩

theorem spend {s t : State} (h : SameWork s t) (cx : Nat) (cls : List Nat) (n : Nat) : SameWork s (t.spend cx cls n) :=
  h.trans (foldl cls (fun s _ _ => updCtx (refl s) cx _) t)

theorem sealPkt (s : State) (k : SentPkt) : SameWork s (s.sealPkt k) := by
  unfold State.sealPkt
  dsimp only
  split
  · exact refl s
  · split
    · refine spend ?_ _ _ _
      exact ⟨rfl, rfl, rfl⟩
    · split
      · exact refl s
      · split
        · exact refl s
        · split
          · refine emit (updCtx (spend ?_ _ _ _) _ _) _
            exact ⟨rfl, rfl, rfl⟩
          · refine updCtx (spend ?_ _ _ _) _ _
            exact ⟨rfl, rfl, rfl⟩

theorem sendNow {s t : State} (h : SameWork s t) (k : SentPkt) : SameWork s (t.sendNow k) := by
  unfold State.sendNow
  split
  · exact h
  · split
    · exact h
    · exact h.trans (sealPkt t k)

theorem podSend (s : State) (cx dest named : Nat) (body : PktBody) : SameWork s (s.podSend cx dest named body).1 := by
  unfold State.podSend
  dsimp only
  split
  · exact refl s
  · split
    · exact ⟨rfl, rfl, rfl⟩
    · split
      · exact refl s
      · refine sendNow ?_ _
        exact ⟨rfl, rfl, rfl⟩

/-- A fill that the tables refuse comes back refused at once (R336). -/
theorem podRequest_fill (s : State) (cx dest addr core : Nat) (key : LineKey) (acqs op : Nat) (body : Nat → PktBody) :
    SameWork s (s.podRequest cx dest addr (.fill core key acqs op) body) := by
  obtain ⟨hg, ho, hm⟩ := podSend { s with nextId := s.nextId + 1 } cx dest 0 (body s.nextId)
  unfold State.podRequest
  dsimp only
  split
  next e => rw [e] at hg ho hm; exact ⟨hg, ho, hm⟩
  next e => rw [e] at hg ho hm; exact ⟨hg, ho, hm⟩

theorem requestLines (s : State) (cx core op : Nat) (lines : List LineWait) : SameWork s (s.requestLines cx core op lines) :=
  foldl _ (fun s _ _ => podRequest_fill s cx _ _ core _ _ op _) s

end SameWork

/-! ## Attaching a load (R219) -/

/-- The accesses of a load, by lane. -/
def loadAccs (l : List LaneEa) : List LaneAcc := l.map fun a => { lane := a.lane, va := a.va, key := a.key, off := a.va % 128 }

theorem startLine_key (c : Core) (l : List LaneEa) (size : Nat) (k : LineKey) : (c.startLine l size k).key = k := by
  unfold Core.startLine
  split
  · rfl
  · split <;> rfl

/-- A load attaches one operation with an access per lane, and a line for each access. -/
theorem attachLoad_state (s : State) (g : Group) (p : Split) (i : Instr) (flag : Nat) (uni : Bool) (d : Nat) (nar : Narrow)
    (size : Nat) (pend : PendSet) (mask : LaneMask) (l : List LaneEa) :
    ∃ o lines, (s.attachLoad g p i flag uni d nar size pend mask l).1 = o.id
      ∧ (s.attachLoad g p i flag uni d nar size pend mask l).2.groups = s.groups
      ∧ (s.attachLoad g p i flag uni d nar size pend mask l).2.mem = s.mem
      ∧ (s.attachLoad g p i flag uni d nar size pend mask l).2.ops = s.ops ++ [o]
      ∧ Pends g p flag pend o ∧ o.kind = .load uni d nar (loadAccs l) lines mask ∧ ∀ a ∈ loadAccs l, ∃ w ∈ lines, w.key = a.key := by
  let c := s.core g.ref.core
  let lines := (lineKeys l).map (c.startLine l size)
  let out := lines.map fun w => if w.key.pod && w.st == .needed then { w with st := LineSt.served } else w
  let s1 := s.updCore g.ref.core fun c => c.hitLines ((lines.filter fun w => w.st == .got).map (·.key)) s.cycle
  obtain ⟨o, hst, hid, hgrp, hsplit, hflag, hpend, hkind, hpc⟩ :=
    attach_state s1 g p i flag pend (.load uni d nar (loadAccs l) out mask)
  have e : s.attachLoad g p i flag uni d nar size pend mask l
      = (s1.nextId, ({ s1 with ops := s1.ops ++ [o], nextId := s1.nextId + 1 } : State).requestLines g.cx g.ref.core s1.nextId lines) := by
    rw [← hst]
    rfl
  obtain ⟨hg, ho, hm⟩ := SameWork.requestLines { s1 with ops := s1.ops ++ [o], nextId := s1.nextId + 1 } g.cx g.ref.core s1.nextId lines
  refine ⟨o, out, ?_, ?_, ?_, ?_, ⟨hgrp, hsplit, hflag, hpend, hpc⟩, hkind, ?_⟩
  · rw [e, hid]
  · rw [e]; exact hg
  · rw [e]; exact hm
  · rw [e]; exact ho
  · intro a ha
    obtain ⟨x, hx, rfl⟩ := List.mem_map.mp ha
    have hk : x.key ∈ lineKeys l := List.mem_dedup.mpr (List.mem_map_of_mem hx)
    refine ⟨_, List.mem_map_of_mem (List.mem_map_of_mem hk), ?_⟩
    split <;> exact startLine_key ..

/-! ## Loads of global memory (R217, R219, R220) -/

theorem laneTrap_fails {f : LaneFail} (h : f.cause ≠ 0) (s : State) (g : Group) (p : Split) (i : Instr) (uni : Bool) (k : State) :
    s.laneTrap g p i f uni k = s.trapAt g p i f.cause (if uni then p.exec else f.lanes) f.addr f.detail := if_pos h

theorem laneTrap_passes {f : LaneFail} (h : f.cause = 0) (hw : f.waits = false) (s : State) (g : Group) (p : Split) (i : Instr)
    (uni : Bool) (k : State) : s.laneTrap g p i f uni k = k := by
  simp [State.laneTrap, h, hw]

/-- Behind checks that go on, a step that changes no group lets the split move on. -/
theorem movesOn_done {s s1 u : State} {g : Group} {p : Split} (h : Issues s g p) (i : Instr) (hp : OnlyPages g.ref s s1)
    (hg : u.groups = s1.groups) (hm : u.mem = s1.mem) : ∃ g', MovesOn s s1 (u.done g p i) g g' p (p.past i.words) := by
  obtain ⟨l, hl⟩ := hp.same h.group'
  have look (r : GRef) : u.group? r = s1.group? r := by rw [State.group?, State.group?, hg]
  refine ⟨_, group?_updGroup_same _ (fun _ _ => rfl) ((look _).trans hl), rfl, ?_, fun n hn => ?_, fun r hr => ?_, fun a => ?_⟩
  · exact split?_updSplit_same (fun q => q.past i.words) (fun _ _ => rfl) h.split'
  · exact split?_updSplit_other { g with lastPage := l } hn _ fun _ _ => rfl
  · exact (group?_updGroup_other u hr (fun x => x.updSplit p.id fun q => q.past i.words) fun _ _ => rfl).trans ((look r).trans (hp.other hr))
  · rw [State.byte, State.byte, done_mem, hm]

theorem loadOp_result {s : State} {g : Group} {p : Split} {i : Instr} {f : Nat} {uni : Bool} {d n : Nat} {nar : Narrow}
    {eas : List (Nat × Nat)} (h : Issues s g p) (hr : s.flagRoom g f 1 = true)
    (he : exec i s = .next (loadOp s g p i f uni d nar n eas)) : LoadResult s g p f i uni d n nar eas := by
  refine ⟨fun hnil => moveResult_done h (he.trans (by simp [loadOp, hnil])), fun s1 l e hne hc => ?_⟩
  have checked : loadOp s g p i f uni d nar n eas = s1.laneTrap g p i e uni
      ((s1.attachLoad g p i f uni d nar (narrowBytes nar) (if uni then { sw := runRegs d n } else { vw := runRegs d n }) p.exec l).2.done
        g p i) := by
    rw [loadOp, if_neg (by simpa using hne), if_neg (by simp [hr])]
    dsimp only
    rw [hc]
  have pages : OnlyPages g.ref s s1 := by
    have := checkLanes_onlyPages s g .read (narrowBytes nar) (fun _ => true) eas
    rwa [hc] at this
  rw [he, checked]
  refine ⟨fun hcause => by rw [laneTrap_fails hcause], fun hcause hw => ?_⟩
  rw [laneTrap_passes hcause hw]
  obtain ⟨o, lines, -, hg, hm, ho, hpend, hkind, hkeys⟩ := attachLoad_state s1 g p i f uni d nar (narrowBytes nar)
    (if uni then { sw := runRegs d n } else { vw := runRegs d n }) p.exec l
  obtain ⟨g', moves⟩ := movesOn_done h i pages hg hm
  refine ⟨_, g', o, loadAccs l, lines, rfl, moves, ?_, hpend, hkind, ?_, ?_, hkeys⟩
  · show o ∈ State.ops _
    rw [State.done, State.updSplit, State.updGroup_ops, ho]
    simp
  · rw [← checkLanes_passes hc hcause hw, loadAccs, List.map_map]
    rfl
  · intro a ha
    obtain ⟨x, -, rfl⟩ := List.mem_map.mp ha
    rfl

/-! ## Loads of the scratchpad (R216 to R220) -/

theorem addBank_grows (g : Group) (n : Nat) : g.bkcnt.toNat ≤ (g.addBank n).bkcnt.toNat := by
  have := g.bkcnt.isLt
  simp only [Group.addBank, BitVec.toNat_ofNat]
  omega

theorem scratchLoad_result {s : State} {g : Group} {p : Split} {i : Instr} {f d n : Nat} {nar : Narrow}
    {l : List (Nat × Nat × Option (Nat × Bool) × Nat)} (h : Issues s g p) (hr : s.flagRoom g f 1 = true)
    (he : exec i s = .next (scratchLoad s g p i f d nar n l)) : ScratchLoadResult s g p f i d n nar l := by
  refine ⟨fun hnil => moveResult_done h (he.trans (by simp [scratchLoad, hnil])), fun hne hcause => ?_, fun hne hcause => ?_⟩
  · rw [he, scratchLoad, if_neg (by simpa using hne), if_neg (by simp [hr])]
    dsimp only
    rw [if_pos hcause]
  · let F : Group → Group := fun x => x.addBank (bankExtra (narrowBytes nar) false (scratchAccs s g l))
    obtain ⟨o, hst, hid, hgrp, hsplit, hflag, hpend, hkind, hpc⟩ := attach_state (s.updGroup g.ref F) g p i f { vw := runRegs d n }
      (.lds d nar (scratchAccs s g l))
    obtain ⟨g', hg, hsp⟩ := done_onlySplit h i F (fun _ _ => rfl) rfl
    refine ⟨({ s.updGroup g.ref F with ops := s.ops ++ [o], nextId := s.nextId + 1 } : State).done g p i, g', o, scratchAccs s g l, ?_,
      rfl, hg.after, ⟨?_, hsp.split, fun m hm => hsp.splits m hm⟩, ?_, fun r hr => hg.others r hr,
      ⟨hgrp, hsplit, hflag, hpend, hpc⟩, hkind, ?_⟩
    · rw [he, scratchLoad, if_neg (by simpa using hne), if_neg (by simp [hr])]
      dsimp only
      rw [if_neg (by simpa using hcause), hst]
      rfl
    · rw [hsp.record]
      rfl
    · rw [hsp.record]
      exact addBank_grows ..
    · simp [scratchAccs]

/-- Settles O13. -/
theorem loadsAttachOneReply : Obligations.LoadsAttachOneReply := by
  unfold Obligations.LoadsAttachOneReply
  refine ⟨fun s g p fs f h hf hr => ⟨fun sz d a off hu => ?_, fun sz d a off hu => ?_, fun bf d a off hu => ?_⟩,
    fun s g p fs f h hf hr => ⟨fun sz d a off hu => ⟨?_, ?_⟩, fun bf d a off hu => ?_⟩⟩
  · exact loadOp_result h hr (issueLong_next _ h hf hu)
  · exact loadOp_result h hr (issueLong_next _ h hf hu)
  · exact loadOp_result h hr (issueLong_next _ h hf hu)
  · exact scratchLoad_result h hr (issueLong_next _ h hf hu)
  · exact scratchLoad_result h hr (issueLong_next _ h hf hu)
  · exact scratchLoad_result h hr (issueLong_next _ h hf hu)

end Sys2Proof.Machine
end

section
/-! PROOFS. Control transfer: BRA, BRZ, BRNZ, LOOP, BRM, CALL, CALLI, RET and JTAB (spec/07_group.md R122, R126 to R128). -/

namespace Sys2Proof.Machine

/-! ## An operation leaves its flag (R31) -/

/-- The operation of a live group ends: no group changes, and no operation but it leaves. -/
theorem finishOp_live {s : State} {o : PendOp} {g : Group} (ho : s.op? o.id = some o) (hg : s.group? o.grp = some g)
    (hs : g.status = .live) :
    ∃ images cores, s.finishOp o.id
      = { s with ops := s.ops.filter fun p => p.id != o.id, images := images, cores := cores } := by
  have hany : s.anyOp? o.id = some o := by
    rw [State.anyOp?, State.allOps, List.find?_append, ← State.op?, ho]
    rfl
  have settled : ∀ t : State, t.groups = s.groups → t.settle o.grp = t := by
    intro t ht
    have : t.group? o.grp = some g := by rw [State.group?, ht]; exact hg
    rw [State.settle, this]
    simp [hs]
  rw [State.finishOp, hany]
  dsimp only
  split
  · exact ⟨_, _, settled _ rfl⟩
  · exact ⟨_, _, settled _ rfl⟩

/-! ## Branches (R126) -/

theorem branch_result {s : State} {g : Group} {p : Split} {i : Instr} {u : Uses} {off : BitVec 18} {taken : Group → Bool}
    (h : Issues s g p) (hu : Readable s g u) (he : exec i s = branch s i u off taken) :
    MoveResult s g p i (if taken g then p.landed (wordTarget p.pc off.toInt) else p.fallen) (fun _ => none) := by
  have hid : (if taken g then p.landed (wordTarget p.pc off.toInt) else p.fallen).id = p.id := by split <;> rfl
  refine moveResult_putSplit h hid ?_
  rw [he, branch, issue_next _ h hu, goto_addrPlus]
  rfl

theorem loop_count (x : Word) : x - 1 = BitVec.ofInt 32 (x.toInt - 1) := by
  apply BitVec.eq_of_toInt_eq
  rw [BitVec.toInt_sub, BitVec.toInt_ofInt]
  rfl

theorem loop_ends (x : Word) : x - 1 = 0 ↔ x = 1 := sub_eq_zero

theorem loop_result {s : State} {g : Group} {p : Split} (h : Issues s g p) (c : BitVec 6) (off : BitVec 18)
    (hu : Readable s g { s := [c.toNat] }) :
    MoveResult s g p (.loop c off) (if g.getS c.toNat = 1 then p.fallen else p.landed (wordTarget p.pc off.toInt))
      (fun r => if r = c.toNat then some (BitVec.ofInt 32 ((g.getS c.toNat).toInt - 1)) else none) := by
  have hid : (if g.getS c.toNat = 1 then p.fallen else p.landed (wordTarget p.pc off.toInt)).id = p.id := by split <;> rfl
  refine move_result (fun x => x.setS c.toNat (g.getS c.toNat - 1)) h hu rfl hid ?_ (fun _ => rfl) fun r => ?_
  · simp only [loop_ends, goto_addrPlus, toNext_eq_fallen]
  · rw [getS_setS, loop_count]
    split <;> rfl

/-! ## BRM (R122) -/

theorem exec_brm {s : State} {g : Group} {p : Split} (h : Issues s g p) (c : BitVec 3) (off : BitVec 18)
    (hu : Readable s g (useM [c.toNat])) (hc : s.unchecked g p = false) :
    exec (.brm c off) s = .next (if p.exec &&& g.getM c.toNat = 0 then s.putSplit g p.fallen
      else if p.exec &&& ~~~(g.getM c.toNat) = 0 then s.putSplit g (p.landed (wordTarget p.pc off.toInt))
      else divide s g p (.brm c off) (p.exec &&& g.getM c.toNat) (p.exec &&& ~~~(g.getM c.toNat)) (wordTarget p.pc off.toInt)) := by
  change execBrm c off s = _
  rw [execBrm, issue_next _ h hu, gated_checked hc]
  dsimp only
  rw [goto_addrPlus]
  rfl

theorem any_id_eq_false {g : Group} {n : Nat} : (g.splits.any fun q => q.id == n) = false ↔ g.split? n = none := by
  rw [Group.split?, List.find?_eq_none, List.any_eq_false]

/-- The lowest free id, where one is free. -/
theorem lowestFree_id {g : Group} {n : Nat} (h4 : n < 4) (hn : g.split? n = none) (hlow : ∀ k, k < n → ¬ (k < 4 ∧ g.split? k = none)) :
    (lowestFree 4 fun k => g.splits.any fun q => q.id == k) = some n := by
  rw [lowestFree, List.find?_range_eq_some]
  refine ⟨by simp only [any_id_eq_false.mpr hn, Bool.not_false], List.mem_range.mpr h4, fun k hk => ?_⟩
  have : ¬ g.split? k = none := fun e => hlow k hk ⟨by omega, e⟩
  rw [← any_id_eq_false] at this
  simpa using this

theorem lowestFree_none {g : Group} (hfull : ∀ n, ¬ (n < 4 ∧ g.split? n = none)) :
    (lowestFree 4 fun k => g.splits.any fun q => q.id == k) = none := by
  rw [lowestFree, List.find?_eq_none]
  intro n hn
  have : ¬ g.split? n = none := fun e => hfull n ⟨List.mem_range.mp hn, e⟩
  rw [← any_id_eq_false] at this
  simpa using this

/-- A split of a free id beside a split that changes. -/
def Group.parted (g : Group) (n : Nat) (stay q : Split) : Group :=
  { g with splits := upd (fun x => x.id == n) (fun _ => stay) g.splits ++ [q] }

theorem split?_parted {g : Group} {p stay q : Split} (hp : g.split? p.id = some p) (hid : stay.id = p.id) (hq : g.split? q.id = none) :
    (g.parted p.id stay q).split? p.id = some stay ∧ (g.parted p.id stay q).split? q.id = some q
      ∧ ∀ n, n ≠ p.id → n ≠ q.id → (g.parted p.id stay q).split? n = g.split? n := by
  have keeps : ∀ x : Split, x.id = p.id → ((fun _ => stay) x : Split).id = x.id := fun x hx => hid.trans hx.symm
  have look : ∀ n, (g.parted p.id stay q).split? n = ((g.updSplit p.id fun _ => stay).split? n).or (if q.id = n then some q else none) := by
    intro n
    rw [Group.parted, Group.split?, List.find?_append, Group.updSplit, Group.split?]
    by_cases hn : q.id = n <;> simp [hn]
  have hne : q.id ≠ p.id := by
    intro e
    rw [e, hp] at hq
    cases hq
  refine ⟨?_, ?_, fun n hn hnq => ?_⟩
  · rw [look, split?_updSplit_same _ keeps hp]
    rfl
  · rw [look, split?_updSplit_other g hne _ keeps, hq]
    simp
  · rw [look, split?_updSplit_other g hn _ keeps, if_neg fun e => hnq e.symm]
    simp

/-- Mixed lanes divide the split while an id is free. -/
theorem divide_free (s : State) {g : Group} (p : Split) (i : Instr) (t f : LaneMask) (target : Nat) {n : Nat}
    (hl : (lowestFree 4 fun k => g.splits.any fun q => q.id == k) = some n) :
    divide s g p i t f target = s.updGroup g.ref fun x =>
      x.parted p.id { p.fallen with lset := p.lset &&& ~~~t, exec := f } (newSplit p n t target s.cycle) := by
  rw [divide, hl]
  rfl

theorem divide_full {s : State} {g : Group} {p : Split} (i : Instr) (t f : LaneMask) (target : Nat)
    (hl : (lowestFree 4 fun k => g.splits.any fun q => q.id == k) = none) :
    divide s g p i t f target = if p.stack.length ≥ 32 then s.trap g p i cQUOTA 1
      else s.putSplit g { p.fallen with lset := p.lset &&& ~~~t, exec := f, stack := .deferred target t :: p.stack } := by
  rw [divide, hl]
  rfl

theorem brm_result {s : State} {g : Group} {p : Split} (h : Issues s g p) (c : BitVec 3) (off : BitVec 18)
    (hu : Readable s g { m := [c.toNat] }) (hc : s.unchecked g p = false) :
    let i : Instr := .brm c off
    let target := wordTarget p.pc off.toInt
    let T := p.exec &&& g.getM c.toNat
    let F := p.exec &&& ~~~(g.getM c.toNat)
    let free := fun id => id < 4 ∧ g.split? id = none
    let stay : Split := { p.fallen with lset := p.lset &&& ~~~T, exec := F }
    (T = 0 → MoveResult s g p i p.fallen (fun _ => none))
    ∧ (T ≠ 0 → F = 0 → MoveResult s g p i (p.landed target) (fun _ => none))
    ∧ (T ≠ 0 → F ≠ 0 → ∀ id, free id → (∀ k, k < id → ¬ free k) →
      ∃ t g' q, exec i s = .next t ∧ OnlyGroup s t g g' ∧ g' = { g with splits := g'.splits } ∧ g'.split? p.id = some stay
        ∧ g'.split? id = some q ∧ q.pc = target ∧ q.clause = none ∧ q.jumped = true ∧ q.lset = T ∧ q.exec = T ∧ q.stack = []
        ∧ q.region = p.region ∧ ∀ n, n ≠ p.id → n ≠ id → g'.split? n = g.split? n)
    ∧ (T ≠ 0 → F ≠ 0 → (∀ id, ¬ free id) → p.stack.length < 32 →
      MoveResult s g p i { stay with stack := .deferred target T :: p.stack } (fun _ => none))
    ∧ (T ≠ 0 → F ≠ 0 → (∀ id, ¬ free id) → 32 ≤ p.stack.length → exec i s = .next (s.trap g p i cQUOTA 1)) := by
  intro i target T F free stay
  have he := exec_brm h c off hu hc
  refine ⟨fun hT => ?_, fun hT hF => ?_, fun hT hF n hn hlow => ?_, fun hT hF hfull hlen => ?_, fun hT hF hfull hlen => ?_⟩
  · exact moveResult_putSplit h rfl (by rw [he, if_pos hT])
  · exact moveResult_putSplit h rfl (by rw [he, if_neg hT, if_pos hF])
  · rw [if_neg hT, if_neg hF, divide_free s p i T F target (lowestFree_id hn.1 hn.2 hlow)] at he
    obtain ⟨hstay, hnew, hothers⟩ := split?_parted (stay := stay) (q := newSplit p n T target s.cycle) h.split' rfl hn.2
    have hpc : (newSplit p n T target s.cycle).pc = target := Nat.mod_eq_of_lt (wordTarget_lt _ _)
    exact ⟨_, _, _, he, onlyGroup_updGroup h.group' _ fun _ _ => rfl, rfl, hstay, hnew, hpc, rfl, rfl, rfl, rfl, rfl, rfl, hothers⟩
  · refine moveResult_putSplit h rfl ?_
    rw [he, if_neg hT, if_neg hF, divide_full i T F target (lowestFree_none hfull), if_neg (by omega)]
  · rw [he, if_neg hT, if_neg hF, divide_full i T F target (lowestFree_none hfull), if_pos hlen]

/-! ## CALL, CALLI and RET (R127) -/

theorem getS_setSPair (g : Group) (n : Nat) (x : DWord) (r : Nat) :
    (g.setSPair n x).getS r = (pairIs n x r).getD (g.getS r) := by
  rw [Group.setSPair, getS_setS, getS_setS, pairIs]
  by_cases h0 : r = 2 * n
  · simp [h0]
  · by_cases h1 : r = 2 * n + 1 <;> simp [h0, h1]

/-- A call leaves the address behind its clause in the link pair. -/
theorem call_result {s : State} {g : Group} {p p' : Split} {i : Instr} {u : Uses} {l : Nat} (h : Issues s g p) (hu : Readable s g u)
    (hid : p'.id = p.id) {dest : Group → Split → Split}
    (he : exec i s = issue s i u fun g p =>
      (s.updGroup g.ref fun x => x.setSPair l (BitVec.ofNat 64 p.nextHeader)).putSplit g (dest g p)) (hp : dest g p = p') :
    MoveResult s g p i p' (pairIs l (BitVec.ofNat 64 p.nextHeader)) :=
  move_result (fun x => x.setSPair l (BitVec.ofNat 64 p.nextHeader)) h hu he hid (by rw [hp]) (fun _ => rfl)
    fun r => getS_setSPair g l _ r

/-! ## JTAB (R128) -/

/-- The address of a table's entry. -/
def tableEntry (g : Group) (x : BitVec 6) (t : BitVec 5) : Nat := ((g.getSPair t.toNat).toNat + 8 * (g.getS x.toNat).toNat) % 2 ^ 64

/-- JTAB before its entry has been asked for. -/
theorem exec_jtab_reads {s : State} {g : Group} {p : Split} (h : Issues s g p) {x : BitVec 6} {t : BitVec 5} (bound lbl : BitVec 16)
    (hu : Readable s g (useS (x.toNat :: pairRegs t.toNat))) (hgot : ∀ dest, p.wait ≠ .got dest) (hreply : ∀ n, p.wait ≠ .reply n) :
    exec (.jtab x t bound lbl) s = .next
      (if bound.toNat ≤ (g.getS x.toNat).toNat then s.trap g p (.jtab x t bound lbl) cJTAB
       else if (g.getSPair t.toNat).toNat % 8 ≠ 0 then s.trap g p (.jtab x t bound lbl) cALIGN
       else
        let (s1, l, f) := s.checkLanes g .read 8 (fun _ => true) [(32, tableEntry g x t)]
        s1.laneTrap g p (.jtab x t bound lbl) f true
          (let (id, s2) := s1.attachLoad g p (.jtab x t bound lbl) flagTable true 0 (.word 8) 8 {} p.exec l
           s2.stall g p (.reply id))) := by
  change execJtab x t bound lbl s = _
  rw [execJtab, issue_next _ h hu]
  split
  next dest hw => exact absurd hw (hgot dest)
  next n hw => exact absurd hw (hreply n)
  next => rfl

/-- A table entry whose checks pass is loaded, and the split waits for it. -/
theorem jtab_loads {s s1 : State} {g : Group} {p : Split} (h : Issues s g p) (i : Instr) {va : Nat} {l : List LaneEa} {f : LaneFail}
    (hc : s.checkLanes g .read 8 (fun _ => true) [(32, va)] = (s1, l, f)) (h0 : f.cause = 0) (hw : f.waits = false) :
    ∃ u g' o, s1.laneTrap g p i f true
        (let (id, s2) := s1.attachLoad g p i flagTable true 0 (.word 8) 8 {} p.exec l
         s2.stall g p (.reply id)) = u
      ∧ u.group? g.ref = some g' ∧ (g'.split? p.id).map (·.wait) = some (.reply o.id) ∧ o ∈ u.ops
      ∧ o.grp = g.ref ∧ o.split = p.id ∧ o.flag = flagTable ∧ (∀ a, u.byte a = s1.byte a)
      ∧ ∃ accs lines, o.kind = .load true 0 (.word 8) accs lines p.exec ∧ accs.map (·.va) = [va] := by
  obtain ⟨o, lines, hid, hg, hm, ho, hpend, hkind, -⟩ := attachLoad_state s1 g p i flagTable true 0 (.word 8) 8 {} p.exec l
  have pages : OnlyPages g.ref s s1 := by
    have := checkLanes_onlyPages s g .read 8 (fun _ => true) [(32, va)]
    rwa [hc] at this
  obtain ⟨lp, hlp⟩ := pages.same h.group'
  let stalled : Split → Split := fun q => { q with wait := .reply o.id }
  rw [laneTrap_passes h0 hw]
  refine ⟨_, ({ g with lastPage := lp } : Group).updSplit p.id stalled, o, rfl, ?_, ?_, ?_, hpend.grp, hpend.split, hpend.flag, fun a => ?_,
    loadAccs l, lines, hkind, ?_⟩
  · dsimp only
    rw [hid]
    refine group?_updGroup_same (fun x => x.updSplit p.id stalled) (fun _ _ => rfl) ?_
    rw [State.group?, hg]
    exact hlp
  · rw [split?_updSplit_same (g := { g with lastPage := lp }) stalled (fun _ _ => rfl) h.split']
    rfl
  · show o ∈ State.ops _
    dsimp only
    rw [State.stall, State.updSplit, State.updGroup_ops, ho]
    simp
  · dsimp only
    rw [State.byte, State.byte, stall_mem, hm]
  · have eas := congrArg (List.map Prod.snd) (checkLanes_passes hc h0 hw)
    rw [List.map_map] at eas
    rw [loadAccs, List.map_map]
    exact eas

/-- A load whose lines are all here, and in no lane refused or poisoned, returns. -/
theorem exec_loadDataReturn {s : State} {o : PendOp} {uni : Bool} {d : Nat} {nar : Narrow} {accs : List LaneAcc} {lines : List LineWait}
    {m : LaneMask} (ho : s.op? o.id = some o) (hk : o.kind = .load uni d nar accs lines m) (hl : ∀ w ∈ lines, w.st = .got)
    (hb : loadFails accs lines = []) : exec (.loadDataReturn o.id) s = .next (s.loadDone o uni d nar accs lines) := by
  have hall : lines.any (fun w => w.st != .got) = false := by simpa using hl
  change execLoadDataReturn o.id s = _
  rw [execLoadDataReturn, ho]
  dsimp only
  rw [hk]
  dsimp only
  rw [if_neg (by simp [hall]), hb]
  rfl

/-- The entry of a table comes back to its split. -/
theorem table_returns {s : State} {g : Group} {p : Split} {o : PendOp} {a : LaneAcc} {lines : List LineWait} {m : LaneMask}
    (ho : OpOf s g o) (hp : g.split? o.split = some p) (hf : o.flag = flagTable) (hk : o.kind = .load true 0 (.word 8) [a] lines m)
    (hl : ∀ w ∈ lines, w.st = .got) (hb : loadFails [a] lines = []) :
    ∃ t g', exec (.loadDataReturn o.id) s = .next t ∧ t.group? g.ref = some g'
      ∧ g'.split? p.id = some { p with wait := .got (BitVec.ofNat 64 (accNat lines a 8)) } ∧ SameMem s t := by
  obtain ⟨hop, hgrp, hg, hlive⟩ := ho
  let F : Split → Split := fun q => { q with wait := .got (BitVec.ofNat 64 (accNat lines a 8)) }
  have hg1 : (s.updSplit g.ref o.split F).group? g.ref = some (g.updSplit o.split F) :=
    group?_updGroup_same (fun x => x.updSplit o.split F) (fun _ _ => rfl) hg
  obtain ⟨images, cores, hfin⟩ := finishOp_live (s := s.updSplit g.ref o.split F) (g := g.updSplit o.split F) hop (by rw [hgrp]; exact hg1)
    hlive
  have done : s.loadDone o true 0 (.word 8) [a] lines = (s.updSplit g.ref o.split F).finishOp o.id := by
    rw [State.loadDone, if_pos (by simp [hf]), hgrp]
    rfl
  refine ⟨_, g.updSplit o.split F, (exec_loadDataReturn hop hk hl hb).trans (congrArg _ (done.trans hfin)), hg1, ?_, fun _ => rfl⟩
  have hid := split?_id hp
  rw [← hid] at hp ⊢
  exact split?_updSplit_same F (fun _ _ => rfl) hp

/-- Settles O8. -/
theorem branchesCallsAndTables : Obligations.BranchesCallsAndTables := by
  unfold Obligations.BranchesCallsAndTables
  refine ⟨fun s g p off h => ⟨?_, fun c hu => ⟨?_, ?_, ?_⟩⟩, fun s g p c off h hu hc => ?_, fun s g p c off h hu hc => ?_,
    fun s g p h => ⟨fun l off hu => ?_, fun l a lbl hu => ?_, fun a hu => ?_⟩,
    fun s g p x t bound lbl h hu => ⟨fun dest hw => ?_, fun n hw => ?_, fun hgot hreply => ⟨fun hb => ?_, fun hb ha => ?_, ?_⟩⟩, ?_⟩
  · exact branch_result (i := .bra off) (taken := fun _ => true) h (Readable.empty s g) rfl
  · have := branch_result (i := .brz c off) (off := off) (taken := fun g => g.getS c.toNat == 0) h hu rfl
    simpa using this
  · have := branch_result (i := .brnz c off) (off := off) (taken := fun g => g.getS c.toNat != 0) h hu rfl
    simpa using this
  · exact loop_result h c off hu
  · change execBrm c off s = _
    rw [execBrm, issue_next (u := useM [c.toNat]) _ h hu, gated_unchecked hc]
  · exact brm_result h c off hu hc
  · exact call_result h hu rfl rfl (goto_addrPlus p off.toInt)
  · exact call_result (dest := fun g p => { p.goto (g.getSPair a.toNat).toNat with padDue := some lbl.toNat }) h hu rfl rfl
      (by rw [goto_toNat])
  · refine moveResult_putSplit h rfl ((issue_next _ h hu).trans ?_)
    rw [goto_toNat]
  · refine moveResult_putSplit h rfl ?_
    change execJtab x t bound lbl s = _
    rw [execJtab, issue_next (u := useS (x.toNat :: pairRegs t.toNat)) _ h hu, hw]
    dsimp only
    rw [goto_toNat]
  · change execJtab x t bound lbl s = _
    rw [execJtab, issue_next (u := useS (x.toNat :: pairRegs t.toNat)) _ h hu, hw]
  · rw [exec_jtab_reads h bound lbl hu hgot hreply, if_pos hb]
  · rw [exec_jtab_reads h bound lbl hu hgot hreply, if_neg (by omega), if_pos ha]
  · intro s1 l f hb ha hc
    rw [exec_jtab_reads h bound lbl hu hgot hreply, if_neg (by omega), if_neg (by simpa using ha), tableEntry, hc]
    refine ⟨fun hcause => ?_, fun h0 hw => ?_⟩
    · dsimp only
      rw [laneTrap_fails hcause]
      rfl
    · obtain ⟨u, g', o, hk, rest⟩ := jtab_loads h (.jtab x t bound lbl) hc h0 hw
      exact ⟨u, g', o, congrArg _ hk, rest⟩
  · rintro s g p o accs a lines m ho hp hf hk rfl hl hb
    exact table_returns ho hp hf hk hl hb

end Sys2Proof.Machine
end

section
/-! PROOFS. Clause headers (spec/02_words.md R29 to R33; spec/07_group.md R123, R139) and the entry of an exception (R148 to R150). -/

namespace Sys2Proof.Machine

/-! ## The entry of an exception (R148 to R150) -/

@[simp] theorem frameWrite_groups (s : State) (g : Group) (off : Nat) (bs : List Byte) : (s.frameWrite g off bs).groups = s.groups := by
  unfold State.frameWrite
  split
  · rfl
  · exact physWrite_groups ..

/-- An exception outside a handler leaves its record with the group. -/
theorem enterTrap_record {s : State} {g : Group} (hg : s.group? g.ref = some g) (ht : g.tactive = false) (p : Split) (t : TrapIn) :
    ∃ g' r, (s.enterTrap g p t).group? g.ref = some g' ∧ g'.trapRec = some r ∧ r.rpc = t.rpc.getD p.rpc ∧ r.pc = t.pc
      ∧ r.cause = t.cause := by
  unfold State.enterTrap
  rw [if_neg (by simp [ht])]
  refine ⟨_, _, group?_updGroup_same (g := g) _ ?_ ?_, rfl, rfl, rfl, rfl⟩
  · intro _ _
    rfl
  · rw [← hg, State.group?, State.group?]
    dsimp only
    rw [frameWrite_groups, frameWrite_groups]

/-! ## Clause headers (R29, R30) -/

/-- The flags of WAIT are clear where no operation of the group is attached to one. -/
theorem waits_empty_iff {s : State} {r : GRef} {wait : BitVec 12} :
    (filterRange 12 fun f => wait.getLsbD f && s.flagSet r f).isEmpty = true
      ↔ ∀ f, f < 12 → wait.getLsbD f = true → ∀ o ∈ s.ops, o.grp = r → o.flag ≠ f := by
  simp [filterRange, State.flagSet, List.filter_eq_nil_iff]

section
variable (s : State) (p : Split) (wait : BitVec 12) (sav : Bool) (sa : BitVec 4) (sbv : Bool) (sb : BitVec 4) (n : BitVec 3) (re yh : Bool)

/-- The split in the clause that a header starts. -/
def Split.inClause : Split :=
  { p with
    pc := p.pc + 4
    wait := .none
    jumped := false
    passed := false
    yieldTo := if wait = 0 then p.yieldTo else s.cycle + 1
    recipe := p.recipe && !(re && (p.region.map fun rc => rc.entry == p.pc).getD false)
    clause := some { hdr := p.pc, left := n.toNat + 1, setA := if sav then some sa.toNat else none,
                     setB := if sbv then some sb.toNat else none, re := re, first := true } }

/-- A header that no sibling meets. -/
theorem start_eq {g : Group} (i : Instr) (hm : ∀ q ∈ g.splits, canMerge p q = false) :
    execClauseHeader.start wait sav sa sbv sb n re s i g p =
      if (filterRange 12 fun f => wait.getLsbD f && s.flagSet g.ref f).isEmpty then
        if (p.ended || p.needRe) && !re then
          s.enterTrap g p { cause := cILL, lanes := p.exec, pc := p.pc, insn := word0 i, hdr := true }
        else s.putSplit g (p.inClause s wait sav sa sbv sb n re)
      else s.stall g p .poll := by
  unfold execClauseHeader.start
  rw [List.find?_eq_none.mpr]
  · rfl
  · intro q hq
    simp [hm q hq]

/-- A header that no sibling and no deferred entry meets. -/
theorem exec_header_alone {g : Group} (h : Issues s g p) (hm : ∀ q ∈ g.splits, canMerge p q = false)
    (hd : ∀ pc lanes rest, p.stack = .deferred pc lanes :: rest → pc ≠ p.pc) :
    exec (.clauseHeader wait sav sa sbv sb n re yh) s = .next
      (if (filterRange 12 fun f => wait.getLsbD f && s.flagSet g.ref f).isEmpty then
        if (p.ended || p.needRe) && !re then
          s.enterTrap g p { cause := cILL, lanes := p.exec, pc := p.pc, insn := word0 (.clauseHeader wait sav sa sbv sb n re yh), hdr := true }
        else s.putSplit g (p.inClause s wait sav sa sbv sb n re)
      else s.stall g p .poll) := by
  change execClauseHeader wait sav sa sbv sb n re yh s = _
  rw [execClauseHeader, withIssuer_next h, ← start_eq s p wait sav sa sbv sb n re _ hm]
  split
  next pc lanes rest hs => rw [if_neg (hd pc lanes rest hs)]
  next => rfl

end

/-- Settles O12: the header is taken apart by what it meets, a deferred entry, a flag of WAIT, or the end of its region. -/
theorem clauseHeaderStartsItsClause : Obligations.ClauseHeaderStartsItsClause := by
  unfold Obligations.ClauseHeaderStartsItsClause
  intro s g p wait sav sa sbv sb n re yh h i alone clear
  refine ⟨fun ⟨hm, hd⟩ hc hre => ?_, fun ⟨hm, hd⟩ hc => ?_, fun ⟨hm, hd⟩ hc hend hre => ?_, fun lanes rest hs => ?_⟩
  · have goes : ((p.ended || p.needRe) && !re) = false := by
      by_cases hend : p.ended = true ∨ p.needRe = true
      · simp [hre hend]
      · simp [not_or.mp hend]
    refine ⟨p.inClause s wait sav sa sbv sb n re, moveResult_putSplit h rfl ?_, rfl, rfl, rfl, rfl, rfl, rfl, rfl, rfl⟩
    rw [exec_header_alone (h := h) (hm := hm) (hd := hd), if_pos (waits_empty_iff.mpr hc), if_neg (by simp [goes])]
  · refine moveResult_stall h .poll ?_
    rw [exec_header_alone (h := h) (hm := hm) (hd := hd), if_neg fun he => hc (waits_empty_iff.mp he)]
  · have trap : exec i s = .next (s.enterTrap g p { cause := cILL, lanes := p.exec, pc := p.pc, insn := word0 i, hdr := true }) := by
      rw [exec_header_alone (h := h) (hm := hm) (hd := hd), if_pos (waits_empty_iff.mpr hc), if_pos (by simpa [hre] using hend)]
    refine ⟨trap, fun hcl hended ht => ?_⟩
    obtain ⟨g', r, hg, hr, hrpc, hpc, hcause⟩ := enterTrap_record h.group' ht p
      { cause := cILL, lanes := p.exec, pc := p.pc, insn := word0 i, hdr := true }
    refine ⟨_, g', r, trap, hg, hr, hrpc.trans ?_, hpc, hcause⟩
    show p.rpc = p.pc
    unfold Split.rpc
    rw [hcl]
    cases p.region with
    | none => rfl
    | some rc => exact if_pos hended
  · refine moveResult_putSplit h rfl ?_
    change execClauseHeader wait sav sa sbv sb n re yh s = _
    rw [execClauseHeader, withIssuer_next h]
    rw [hs]
    exact congrArg _ (if_pos rfl)

end Sys2Proof.Machine
end

section
/-! PROOFS. WATCH_REPOST where two operations bear one number (spec/11_line.md R228). -/

namespace Sys2Proof.Machine

namespace TwiceNamed

/-- A live group. -/
def grp : Group :=
  { ref := { core := 0, gctx := 0 }, status := .live, cx := 0, kernel := 0, wg := 0, gidx := 0, allot := 32, cls := 0, priv := false }

/-- The line that is watched. -/
def key : LineKey := { cx := 0, pod := false, n := 0 }

/-- A watch for a value below 0, by where it is held. -/
def watch (held : Option Nat) : PendOp :=
  { id := 0, grp := grp.ref, split := 0, flag := 0, pend := {}, pc := 0, insn := 0, rpc := 0, issued := 0,
    kind := .watch 0 key 0 .lt true false 0 .group 0 held none }

/-- The slice that holds the line's home. -/
def slice : Nat := State.reset.homeSlice key

/-- A state at 1 µs in which the group has these operations. -/
def withOps (ops : List PendOp) : State := { State.reset with cycle := 2250, groups := [grp], ops := ops }

/-- A returned watch, 1 µs after its return, and n watches of its number that its home's slice holds. -/
def state (n : Nat) : State := withOps (watch (some watchReturned) :: List.replicate n (watch (some slice)))

theorem homeSlice_key (ops : List PendOp) : (withOps ops).homeSlice key = slice := rfl

theorem sliceIn_lt (s : State) (sec n : Nat) : s.sliceIn sec n < 24 * sec + 24 := by
  have bound : ∀ (l : List Nat) (i : Nat), (∀ x ∈ l, x < 24) → l.getD i 0 < 24 := by
    intro l i hl
    rw [List.getD_eq_getElem?_getD]
    cases h : l[i]? with
    | none => decide
    | some x => exact hl x (List.mem_of_getElem? h)
  have := bound (filterRange 24 fun i => s.modl.geo.slmask.getLsbD (24 * sec + i))
    (Config.sliceHash n % (filterRange 24 fun i => s.modl.geo.slmask.getLsbD (24 * sec + i)).length)
    fun x hx => List.mem_range.mp (List.mem_filter.mp hx).1
  rw [State.sliceIn]
  omega

theorem slice_ne_returned : slice ≠ watchReturned := by
  have : slice < 24 * 0 + 24 := sliceIn_lt State.reset 0 0
  rw [watchReturned]
  omega

theorem watchesIn_state (n : Nat) : (state n).watchesIn slice = n := by
  have hne : (some watchReturned == some slice) = false := by simpa using slice_ne_returned.symm
  simp only [State.watchesIn, state, withOps, watch, List.filter_cons, List.filter_replicate, hne]
  simp [State.reset]

/-- The state once the repost has taken the watches of the number up. -/
def reposted (n : Nat) : State := withOps (List.replicate (n + 1) (watch none))

/-- No watch of the number is in a table once the repost has taken it up. -/
theorem updOp_state (n : Nat) : (state n).updOp 0 (fun o => o.setWatch none none o.issued) = reposted n := by
  have ops : upd (fun o : PendOp => o.id == 0) (fun o => o.setWatch none none o.issued)
      (watch (some watchReturned) :: List.replicate n (watch (some slice))) = List.replicate (n + 1) (watch none) := by
    rw [upd, List.map_cons, List.map_replicate]
    rfl
  exact congrArg withOps ops

theorem watchesIn_reposted (n : Nat) : (reposted n).watchesIn slice = 0 := by
  simp only [State.watchesIn, reposted, withOps, watch, List.filter_replicate]
  simp [State.reset]

theorem never_holds (x : Nat) : watchHolds .lt true false x (0 : DWord).toNat = false := by simp [watchHolds]

theorem updCtx_noContext {s : State} (h : s.ctxs = []) (cx : Nat) (f : Context → Context) : s.updCtx cx f = s := by
  have none : upd (fun c : Context => c.cxid == cx) f s.ctxs = s.ctxs := by rw [h]; rfl
  exact congrArg (fun l => { s with ctxs := l }) none

theorem spend_noContext {s : State} (h : s.ctxs = []) (cx : Nat) (cls : List Nat) (n : Nat) : s.spend cx cls n = s := by
  unfold State.spend
  induction cls with
  | nil => rfl
  | cons k cls ih => rw [List.foldl_cons, updCtx_noContext h, ih]

/-- Where no context is bound no limiter holds a request, and none is charged. -/
theorem takeRequest_noContext {s : State} (h : s.ctxs = []) (cx : Nat) (cls : List Nat) (n : Nat) : s.takeRequest cx cls n = some s := by
  have admitted : s.admits cx cls = true := by simp [State.admits, State.ctx?, h]
  rw [State.takeRequest, if_pos admitted, spend_noContext h]

/-- The repost finds room in the full slice. -/
theorem exec_repost (n : Nat) : exec (.watchRepost 0) (state n)
    = .next ((reposted n).updOp 0 fun o => o.setWatch (some slice) none o.issued) := by
  have op : (state n).op? 0 = some (watch (some watchReturned)) := rfl
  have sent : exec (.watchRepost 0) (state n) = .next (((state n).updOp 0 fun o => o.setWatch none none o.issued).sendWatch
      (watch (some watchReturned)) key 0 .lt true false 0 .group 0 0) := by
    change execWatchRepost 0 (state n) = _
    rw [execWatchRepost, op]
    dsimp only [watch]
    rw [if_pos]
    exact Bool.and_eq_true_iff.mpr ⟨by decide, decide_eq_true (Nat.le_refl 2250)⟩
  have room : (reposted n).watchesIn slice < 256 := by
    rw [watchesIn_reposted]
    decide
  rw [sent, updOp_state, State.sendWatch, if_neg (by decide), takeRequest_noContext rfl]
  dsimp only
  have note : (reposted n).homeNote key = reposted n := rfl
  have clean : ((reposted n).homeRead key).2 = false := rfl
  rw [State.postWatch]
  dsimp only
  rw [note, clean, never_holds, if_neg (by decide), if_neg (by decide), show (reposted n).homeSlice key = slice from rfl, if_pos room]
  rfl

end TwiceNamed

/-- Refutes O31 in its last clause, which asks for no more than that the returned watch is the first operation of its number: where the
256 watches that the home's slice holds bear that number too, the repost takes them out of the slice's table with it, finds room there, and
the slice holds the watch instead of returning it. -/
theorem not_repliesAndHomeAccesses : ¬ Obligations.RepliesAndHomeAccesses := by
  unfold Obligations.RepliesAndHomeAccesses
  rintro ⟨-, -, h⟩
  have opOf : OpOf (TwiceNamed.state 256) TwiceNamed.grp (TwiceNamed.watch (some watchReturned)) := ⟨rfl, rfl, rfl, rfl⟩
  obtain ⟨-, -, reposts⟩ := h (TwiceNamed.state 256) TwiceNamed.grp (TwiceNamed.watch (some watchReturned)) 0 0 0 TwiceNamed.key .lt true false 0
    .group (some watchReturned) opOf rfl (by decide) rfl rfl
  obtain ⟨⟨-, stays⟩, -⟩ := reposts rfl (by decide) TwiceNamed.slice_ne_returned
  obtain ⟨t, o, he, -, -, hop, -, returned⟩ := stays rfl (TwiceNamed.never_holds _)
  obtain ⟨kind, -⟩ := returned (TwiceNamed.watchesIn_state 256).ge
  obtain rfl := Host.Outcome.next.inj ((TwiceNamed.exec_repost 256).symm.trans he)
  have held : o.kind = (TwiceNamed.watch (some TwiceNamed.slice)).kind := congrArg PendOp.kind (Option.some.inj hop.symm)
  have same : OpKind.watch 0 TwiceNamed.key 0 .lt true false 0 .group 0 (some TwiceNamed.slice) none
      = .watch 0 TwiceNamed.key 0 .lt true false 0 .group 0 (some watchReturned) none := held.symm.trans kind
  injection same with _ _ _ _ _ _ _ _ _ hslice
  exact TwiceNamed.slice_ne_returned (Option.some.inj hslice)

end Sys2Proof.Machine
end

section
/-! PROOFS. A step of the machine (log 6): the passing of cycles, the order of acts within a cycle (R8), the issue of a word (R29, R30,
R41, R43), and what an issue leaves behind (R112, R160). -/

namespace Sys2Proof.Machine

/-! ## Cores -/

theorem find?_putFirst {α : Type} {p : α → Bool} {x : α} (hx : p x = true) (l : List α) : (putFirst p x l).find? p = some x := by
  induction l with
  | nil => simp [putFirst, hx]
  | cons y l ih =>
    rw [putFirst]
    split
    · simp [hx]
    next hy => rw [List.find?_cons_of_neg hy, ih]

theorem find?_putFirst_other {α : Type} {p q : α → Bool} {x : α} (hx : q x = false) (hpq : ∀ y, p y = true → q y = false) (l : List α) :
    (putFirst p x l).find? q = l.find? q := by
  induction l with
  | nil => simp [putFirst, hx]
  | cons y l ih =>
    rw [putFirst]
    split
    next hy => rw [List.find?_cons_of_neg (by simp [hx]), List.find?_cons_of_neg (by simp [hpq y hy])]
    · rw [List.find?_cons, List.find?_cons, ih]

theorem core_number (s : State) (n : Nat) : (s.core n).n = n := by
  unfold State.core
  cases h : s.cores.find? fun c => c.n == n with
  | none => rfl
  | some c => simpa using List.find?_some h

theorem core_updCore_same (s : State) (n : Nat) {f : Core → Core} (hf : ∀ c, (f c).n = c.n) : (s.updCore n f).core n = f (s.core n) := by
  have hn : ((f (s.core n)).n == n) = true := by simp [hf, core_number]
  have found : (s.updCore n f).cores.find? (fun c => c.n == n) = some (f (s.core n)) :=
    find?_putFirst (p := fun c : Core => c.n == n) hn s.cores
  rw [State.core, found]
  rfl

theorem core_updCore_other (s : State) {n m : Nat} (hm : m ≠ n) {f : Core → Core} (hf : ∀ c, (f c).n = c.n) :
    (s.updCore n f).core m = s.core m := by
  have hn : ((f (s.core n)).n == m) = false := by simp [hf, core_number, hm.symm]
  have found : (s.updCore n f).cores.find? (fun c => c.n == m) = s.cores.find? fun c => c.n == m := by
    refine find?_putFirst_other (p := fun c : Core => c.n == n) (q := fun c : Core => c.n == m) hn (fun c hc => ?_) s.cores
    have : c.n = n := by simpa using hc
    simp [this, hm.symm]
  rw [State.core, found]
  rfl

/-! ## The passing of cycles -/

/-- What the passing of cycles never changes: the device's registers and the issuer. -/
def State.standing (s : State) : Module × Issuer := (s.modl, s.issuer)

theorem barEvent_standing (s : State) (cx kernel l n : Nat) (f : Barrier → Barrier) :
    (s.barEvent cx kernel l n f).standing = s.standing := by
  unfold State.barEvent
  split <;> rfl

theorem takeHeld_standing (s : State) (w : Workgroup) (bar : Nat) : (s.takeHeld w bar).standing = s.standing := by
  have arrives (f : Barrier → Barrier) (l : List (Obj × Nat)) :
      ({ s.barEvent w.cx w.kernel w.l bar f with taken := l } : State).standing = s.standing := by
    have kept := barEvent_standing s w.cx w.kernel w.l bar f
    generalize s.barEvent w.cx w.kernel w.l bar f = t at kept ⊢
    exact kept
  unfold State.takeHeld
  split
  · rfl
  · dsimp only
    split
    · exact arrives ..
    · rfl

theorem takeAllHeld_standing (s : State) (fuel dt : Nat) : (s.takeAllHeld fuel dt).standing = s.standing := by
  induction fuel generalizing s dt with
  | zero => rfl
  | succ fuel ih =>
    cases dt with
    | zero => rfl
    | succ dt =>
      rw [State.takeAllHeld]
      dsimp only
      split
      · rfl
      · rw [ih]
        refine (foldl_keeps State.standing (fun s w => foldl_keeps State.standing (fun s b => ?_) _ s) _ _).trans rfl
        split
        · rfl
        · exact takeHeld_standing ..

theorem charge_standing (s : State) (dt : Nat) : (s.charge dt).standing = s.standing := by
  unfold State.charge
  dsimp only
  split <;> rfl

theorem pass_standing (s : State) (dt : Nat) : (s.pass dt).standing = s.standing := by
  have ticked : (((s.age dt).tick dt).chargePeriods s dt).standing = s.standing := charge_standing _ dt
  unfold State.pass
  split
  · rfl
  · dsimp only
    split
    · exact (takeAllHeld_standing ..).trans ticked
    · exact (takeAllHeld_standing ..).trans ticked

theorem pass_modl (s : State) (dt : Nat) : (s.pass dt).modl = s.modl := congrArg Prod.fst (pass_standing s dt)

theorem pass_issuer (s : State) (dt : Nat) : (s.pass dt).issuer = s.issuer := congrArg Prod.snd (pass_standing s dt)

/-! ## A move of the schedule (log 6, R8) -/

/-- The step from s, at whose act s0 stands, ends in t, or waits for the next cycle where the act comes too late in this one (R8). -/
def StepEnds (s s0 : State) (a : Act) (t : State) : Prop := t.migWait = false →
  (s0.tooLate (reached a s0 t) = false → step s = .next ((t.wakeFor s0 a).noted a s0).wakeNeeded)
  ∧ (s0.tooLate (reached a s0 t) = true → step s = .next ({ s0 with schedule := { dt := 1, act := a } :: s0.schedule } : State).wakeNeeded)

theorem actInOrder_next {s t : State} {a : Act} (h : s.act a = .next t) (hm : t.migWait = false) :
    s.actInOrder a = .next (if s.tooLate (reached a s t) then { s with schedule := { dt := 1, act := a } :: s.schedule }
      else (t.wakeFor s a).noted a s) := by
  rw [State.actInOrder, h, State.unlessWaiting, if_neg (by simp [hm])]

/-- The next move is made where no step with a stated cycle comes before it. -/
theorem step_move {s : State} {m : Move} {ms : List Move} (hn : s.nextMove = (m, ms))
    (hd : s.dueBy (s.cycle + m.dt) = none
      ∨ ∃ d, s.dueBy (s.cycle + m.dt) = some d ∧ d.cycle = s.cycle + m.dt ∧ d.step.named m.act = true) :
    step s = mapNext State.wakeNeeded ((({ s with schedule := ms } : State).pass m.dt).actInOrder m.act) := by
  rw [step, stepNext, hn]
  dsimp only
  rcases hd with hd | ⟨d, hd, hc, hnamed⟩
  · rw [hd]
    rfl
  · rw [hd]
    dsimp only
    rw [if_pos ⟨hc, hnamed⟩]
    rfl

theorem stepEnds_of_act {s s0 t : State} {m : Move} {ms : List Move} (hn : s.nextMove = (m, ms))
    (hd : s.dueBy (s.cycle + m.dt) = none
      ∨ ∃ d, s.dueBy (s.cycle + m.dt) = some d ∧ d.cycle = s.cycle + m.dt ∧ d.step.named m.act = true)
    (h0 : ({ s with schedule := ms } : State).pass m.dt = s0) (ha : s0.act m.act = .next t) : StepEnds s s0 m.act t := by
  intro hm
  rw [step_move hn hd, h0, actInOrder_next ha hm]
  exact ⟨fun hl => by rw [hl]; rfl, fun hl => by rw [hl]; rfl⟩

/-- The step of another agent. -/
theorem act_event {s : State} {i : Instr} (hi : i.words = 0) (hr : s.modl.recovery = false ∨ (Act.event i).inRecovery = true) :
    s.act (.event i) = exec i { s with hostStream := none } := by
  have goes : (s.modl.recovery && !(Act.event i).inRecovery) = false := by
    rcases hr with hr | hr <;> simp [hr]
  rw [State.act, if_neg (by simp [goes])]
  exact if_pos hi

/-- A step whose cycle is stated comes before a later move. -/
theorem step_due {s t : State} {m : Move} {ms : List Move} {d : Due} {j : Instr} (hs : s.schedule = m :: ms)
    (hd : s.dueBy (s.cycle + m.dt) = some d) (hj : d.step = .event j) (hn : d.step.named m.act = false)
    (he : exec j { ({ s with schedule := { m with dt := m.dt - (d.cycle - s.cycle) } :: ms } : State).pass (d.cycle - s.cycle) with
      hostStream := none } = .next t) :
    step s = .next (({ t with migWait := false } : State).noted (.event j)
      (({ s with schedule := { m with dt := m.dt - (d.cycle - s.cycle) } :: ms } : State).pass (d.cycle - s.cycle))).wakeNeeded := by
  rw [step, stepNext, State.nextMove, hs]
  dsimp only
  rw [hd]
  dsimp only
  rw [if_neg fun h => by rw [hn] at h; exact absurd h.2 (by decide), hj, State.takeDue]
  dsimp only
  rw [he]
  rfl

/-! ## The issue of a word (R29, R30, R41, R43) -/

/-- The act of the issuer of a state. -/
theorem act_issue {s : State} {g : Group} {p : Split} (h : Issues s g p) (hr : s.modl.recovery = false) (hready : s.ready g p = true)
    (hport : s.portAllows g p = true) (hargs : g.argsRead = true ∨ g.trapRec ≠ none) :
    s.act (.issue g.ref.core g.ref.gctx p.id) = s.issueSplit g p := by
  have issuer : ({ s with issuer := { core := g.ref.core, gctx := g.ref.gctx, split := p.id } } : State) = s := by
    rw [← h.ref, h.id]
    rfl
  have args : (!g.argsRead && !g.tactive) = false := by
    rcases hargs with ha | ha
    · simp [ha]
    · simp [Group.tactive, Option.isSome_iff_ne_none.mpr ha]
  rw [State.act, if_neg (by simp [hr])]
  rw [issuer, stepIssue, h.group]
  simp only [Option.bind_some, h.split, Option.map_some]
  rw [if_neg (by simp [hready, hport]), if_neg (by simp [args])]

/-- A split issues its word where nothing is raised before it. -/
theorem issueSplit_word {s : State} {g : Group} {p : Split} (hwalk : s.dueWalk g p = none) (hheld : g.dueHeld p = none)
    (hdog : s.watchdogDue g p = false) (hbreak : s.breakDue g p = false) : s.issueSplit g p = s.issueAt g p := by
  rw [State.issueSplit, hwalk]
  dsimp only
  rw [hheld]
  dsimp only
  rw [if_neg (by simp [State.watchdogRaised, hdog]), if_neg (by simp [hbreak])]

theorem issueAt_clause {s s1 : State} {g : Group} {p : Split} {c : Clause} {w : Word} (hc : p.clause = some c)
    (hf : s.fetchWord g p.pc = (s1, .ok w)) : s.issueAt g p = mapNext (afterIssue g p w) (s1.issueWord g p c w) := by
  rw [State.issueAt, if_neg (by simp [hc]), hf]
  dsimp only
  rw [hc]

theorem issueAt_header {s s1 : State} {g : Group} {p : Split} {w : Word} (hc : p.clause = none) (hpc : p.pc % 4 = 0)
    (hf : s.fetchWord g p.pc = (s1, .ok w)) : s.issueAt g p = mapNext (afterIssue g p w) (s1.issueHeader g p w) := by
  rw [State.issueAt, if_neg (by simp [hpc]), hf]
  dsimp only
  rw [hc]

theorem issueWord_plain {s : State} {g : Group} {p : Split} {c : Clause} {w : Word} {i : Instr} (hl : takesLiteral w = false)
    (hr : clauseRules p c w 1 = true) (hd : decode w 0 = .ok i) : s.issueWord g p c w = exec i s := by
  simp only [State.issueWord, hl, hr, hd, Bool.false_eq_true, if_false, Bool.not_true]

theorem issueWord_literal {s s1 : State} {g : Group} {p : Split} {c : Clause} {w lit : Word} {i : Instr} (hl : takesLiteral w = true)
    (hr : clauseRules p c w 2 = true) (hf : s.fetchWord g (p.pc + 4) = (s1, .ok lit)) (hd : decode w lit = .ok i) :
    s.issueWord g p c w = exec i s1 := by
  simp [State.issueWord, hl, hr, hf, hd]

theorem issueWord_breaks {s : State} {g : Group} {p : Split} {c : Clause} {w : Word} {n : Nat}
    (hn : n = if takesLiteral w = true then 2 else 1) (hr : clauseRules p c w n = false) :
    s.issueWord g p c w = .next (s.trapILL g p w n) := by
  subst hn
  simp [State.issueWord, hr]

/-- A header without RE, and without a PAD to check, starts its clause. -/
theorem issueHeader_plain {s : State} {g : Group} {p : Split} {w : Word} {wait : BitVec 12} {sav : Bool} {sa : BitVec 4} {sbv : Bool}
    {sb : BitVec 4} {n : BitVec 3} {yh : Bool} (hp : p.padDue = none) (hh : isHeader w = true)
    (hd : decode w 0 = .ok (.clauseHeader wait sav sa sbv sb n false yh)) :
    s.issueHeader g p w = exec (.clauseHeader wait sav sa sbv sb n false yh) (s.updSplit g.ref p.id fun q => { q with padDue := none }) := by
  rw [State.issueHeader, if_neg (by simp [hh]), if_neg (by simp only [hp, headerRe, hd]; decide), State.startHeader, if_neg (by simp [hp]), hd]
  rfl

/-! ## What an issue leaves behind (R112, R160) -/

/-- The issuing split as an instruction that has issued leaves it. -/
def Split.tookPort (q : Split) (now : Nat) : Split := { q with lastIssue := now, readySince := now, aged := 0 }

/-- The core behind the issue of an instruction in a cycle. -/
def Core.portTaken (c : Core) (now : Nat) : Core :=
  { c with issuedAt := (now, if c.issuedAt.1 = now then c.issuedAt.2 + 1 else 1) }

theorem relieve_idle {s : State} {g h : Group} {p q : Split} (hg : s.group? g.ref = some h) (hq : h.split? p.id = some q)
    (hw : q.wait = .poll → q.pc ≠ p.pc) : s.relieve g p = s := by
  rw [State.relieve, if_neg]
  rw [hg]
  simp only [Option.bind_some, hq, Option.any_some, Bool.and_eq_true, beq_iff_eq, not_and]
  exact hw

theorem issued_iff {s : State} {g h : Group} {p q : Split} (hg : s.group? g.ref = some h) (hq : h.split? p.id = some q) :
    s.issued g p = true ↔ p.clause ≠ none ∧ (q.pc ≠ p.pc ∨ q.clause ≠ p.clause) := by
  rw [State.issued, hg]
  simp [hq, Option.isSome_iff_ne_none]

/-- The state behind an issue, before single step. -/
def State.afterPort (t : State) (g : Group) (p : Split) : State :=
  if t.issued g p then
    (t.updSplit g.ref p.id fun q => q.tookPort t.cycle).updCore g.ref.core fun c => c.portTaken t.cycle
  else t

theorem afterPort_frame {t : State} {g h : Group} (p : Split) (hg : t.group? g.ref = some h) :
    t.afterPort g p = { t with groups := (t.afterPort g p).groups, cores := (t.afterPort g p).cores }
      ∧ (∀ r, r ≠ g.ref → (t.afterPort g p).group? r = t.group? r)
      ∧ (∀ n, n ≠ g.ref.core → (t.afterPort g p).core n = t.core n)
      ∧ (¬ t.issued g p = true → t.afterPort g p = t)
      ∧ (t.issued g p = true → (t.afterPort g p).core g.ref.core = (t.core g.ref.core).portTaken t.cycle)
      ∧ (t.afterPort g p).group? g.ref
        = some (if t.issued g p then h.updSplit p.id fun q => q.tookPort t.cycle else h) := by
  unfold State.afterPort
  by_cases hi : t.issued g p = true
  · simp only [hi, if_true]
    refine ⟨rfl, fun r hr => ?_, fun n hn => ?_, fun h => absurd trivial h, fun _ => ?_, ?_⟩
    · exact group?_updGroup_other t hr (fun x => x.updSplit p.id fun q => q.tookPort t.cycle) fun _ _ => rfl
    · exact core_updCore_other (t.updSplit g.ref p.id fun q => q.tookPort t.cycle) hn fun _ => rfl
    · exact core_updCore_same (t.updSplit g.ref p.id fun q => q.tookPort t.cycle) g.ref.core fun _ => rfl
    · exact group?_updGroup_same (fun x => x.updSplit p.id fun q => q.tookPort t.cycle) (fun _ _ => rfl) hg
  · simp only [hi]
    exact ⟨rfl, fun _ _ => rfl, fun _ _ => rfl, fun _ => rfl, fun h => absurd h (by decide), hg⟩

/-- The issuing group behind an issue, before single step. -/
def Group.behindIssue (h : Group) (p : Split) (now : Nat) (issued : Bool) : Group :=
  if issued then h.updSplit p.id fun q => q.tookPort now else h

theorem behindIssue_split {h : Group} {p q : Split} (hq : h.split? p.id = some q) (now : Nat) (issued : Bool) :
    h.behindIssue p now issued = { h with splits := (h.behindIssue p now issued).splits }
      ∧ (h.behindIssue p now issued).split? p.id = some (if issued then q.tookPort now else q)
      ∧ ∀ n, n ≠ p.id → (h.behindIssue p now issued).split? n = h.split? n := by
  cases issued with
  | false => exact ⟨rfl, hq, fun _ _ => rfl⟩
  | true =>
    exact ⟨rfl, split?_updSplit_same (fun q => q.tookPort now) (fun _ _ => rfl) hq,
      fun n hn => split?_updSplit_other h hn _ fun _ _ => rfl⟩

/-- An issue whose split does not wait at its word relieves no core, and single step adds to what the group holds. -/
theorem afterIssue_eq {t : State} {g h : Group} {p q : Split} (w : Word) (hg : t.group? g.ref = some h) (hq : h.split? p.id = some q)
    (hw : q.wait = .poll → q.pc ≠ p.pc) :
    afterIssue g p w t = if g.step && !g.tactive && !h.tactive then
      (t.afterPort g p).updGroup g.ref fun h1 => { h1 with held := h1.held ++ g.stepCauses p w h } else t.afterPort g p := by
  obtain ⟨-, -, -, -, -, group⟩ := afterPort_frame p hg
  obtain ⟨-, split, -⟩ := behindIssue_split hq t.cycle (t.issued g p)
  have idle : (t.afterPort g p).relieve g p = t.afterPort g p := by
    refine relieve_idle group split ?_
    split
    · exact hw
    · exact hw
  rw [afterIssue, hg]
  dsimp only
  change (if _ then ((t.afterPort g p).relieve g p).updGroup g.ref _ else (t.afterPort g p).relieve g p) = _
  rw [idle]

/-- What an issue leaves of the machine, of its group and of its split. -/
theorem afterIssue_frame {t : State} {g h : Group} {p q : Split} {w : Word} (hg : t.group? g.ref = some h)
    (hq : h.split? p.id = some q) (hw : q.wait = .poll → q.pc ≠ p.pc) :
    let t' := afterIssue g p w t
    let issued := p.clause ≠ none ∧ (q.pc ≠ p.pc ∨ q.clause ≠ p.clause)
    t' = { t with groups := t'.groups, cores := t'.cores } ∧ (∀ r, r ≠ g.ref → t'.group? r = t.group? r)
      ∧ (∀ n, n ≠ g.ref.core → t'.core n = t.core n) ∧ ∃ h' q', t'.group? g.ref = some h' ∧ h'.split? p.id = some q'
      ∧ h' = { h with held := h'.held, splits := h'.splits } ∧ (∀ n, n ≠ p.id → h'.split? n = h.split? n)
      ∧ (¬ issued → q' = q ∧ t'.cores = t.cores)
      ∧ (issued → q' = { q with lastIssue := t.cycle, readySince := t.cycle, aged := 0 } ∧ ∃ n, t'.core g.ref.core =
        { t.core g.ref.core with issuedAt := (t.cycle, n) })
      ∧ (g.step = false → h'.held = h.held) := by
  intro t' issued
  have hi : t.issued g p = true ↔ issued := issued_iff hg hq
  obtain ⟨machine, groups, cores, waits, port, group⟩ := afterPort_frame p hg
  obtain ⟨record, split, splits⟩ := behindIssue_split hq t.cycle (t.issued g p)
  have step : t' = { t.afterPort g p with groups := t'.groups } ∧ (∀ r, r ≠ g.ref → t'.group? r = (t.afterPort g p).group? r)
      ∧ ∃ l, t'.group? g.ref = some { h.behindIssue p t.cycle (t.issued g p) with held := l } ∧ (g.step = false → l = h.held) := by
    have held : (h.behindIssue p t.cycle (t.issued g p)).held = h.held := by rw [record]
    have e : t' = _ := afterIssue_eq w hg hq hw
    rw [e]
    split
    next hs =>
      refine ⟨rfl, fun r hr => group?_updGroup_other _ hr _ fun _ _ => rfl, _, group?_updGroup_same _ (fun _ _ => rfl) group, fun hstep => ?_⟩
      simp [hstep] at hs
    · exact ⟨rfl, fun _ _ => rfl, _, group, fun _ => held⟩
  obtain ⟨hmach, hothers, l, hgroup, hheld⟩ := step
  have hcores : t'.cores = (t.afterPort g p).cores := by rw [hmach]
  have core (n : Nat) : t'.core n = (t.afterPort g p).core n := by rw [State.core, State.core, hcores]
  refine ⟨?_, fun r hr => (hothers r hr).trans (groups r hr), fun n hn => (core n).trans (cores n hn), _, _, hgroup, split, ?_, splits,
    fun hni => ?_, fun hiss => ⟨?_, _, (core _).trans (port (hi.mpr hiss))⟩, hheld⟩
  · rw [hmach, machine]
  · rw [record]
  · have hf : t.issued g p = false := by simpa [← hi] using hni
    exact ⟨by rw [hf]; rfl, by rw [hcores, waits (by simp [hf])]⟩
  · rw [if_pos (hi.mpr hiss)]
    rfl

/-! ## The step of the issuer -/

/-- Nothing is raised before the issuer's word, and a port takes it. -/
structure Undisturbed (s : State) (g : Group) (p : Split) : Prop where
  issues : Issues s g p
  ready : s.ready g p = true
  port : s.portAllows g p = true
  args : g.argsRead = true ∨ g.trapRec ≠ none
  walk : s.dueWalk g p = none
  held : g.dueHeld p = none
  dog : s.watchdogDue g p = false
  brk : s.breakDue g p = false

/-- Without moves in the schedule the step is that of the issuer's word, one cycle on. -/
theorem stepEnds_of_issueAt {s t : State} {g : Group} {p : Split} (hs : s.schedule = []) (hr : s.modl.recovery = false)
    (hd : s.dueBy (s.cycle + 1) = none) (hu : Undisturbed (s.pass 1) g p) (ht : (s.pass 1).issueAt g p = .next t) :
    StepEnds s (s.pass 1) (.issue g.ref.core g.ref.gctx p.id) t := by
  have move : s.nextMove = ({ dt := 1, act := .issue g.ref.core g.ref.gctx p.id }, []) := by
    rw [State.nextMove, hs, ← hu.issues.ref, hu.issues.id, State.issuerRef, pass_issuer]
  have moved : ({ s with schedule := [] } : State) = s := by rw [← hs]
  have act : (s.pass 1).act (.issue g.ref.core g.ref.gctx p.id) = .next t := by
    rw [act_issue hu.issues ((congrArg Module.recovery (pass_modl s 1)).trans hr) hu.ready hu.port hu.args,
      issueSplit_word hu.walk hu.held hu.dog hu.brk, ht]
  have passed : ({ s with schedule := [] } : State).pass 1 = s.pass 1 := congrArg (State.pass · 1) moved
  have due : s.dueBy (s.cycle + ({ dt := 1, act := .issue g.ref.core g.ref.gctx p.id } : Move).dt) = none := hd
  have stepped := stepEnds_of_act move (.inl due) passed act
  exact stepped

/-- The step of another agent, of the schedule. -/
theorem stepEnds_of_event {s t : State} {m : Move} {ms : List Move} {i : Instr} (hs : s.schedule = m :: ms) (hm : m.act = .event i)
    (hi : i.words = 0) (hr : s.modl.recovery = false ∨ m.act.inRecovery = true)
    (hd : s.dueBy (s.cycle + m.dt) = none
      ∨ ∃ d, s.dueBy (s.cycle + m.dt) = some d ∧ d.cycle = s.cycle + m.dt ∧ d.step.named m.act = true)
    (ht : exec i { ({ s with schedule := ms } : State).pass m.dt with hostStream := none } = .next t) :
    StepEnds s (({ s with schedule := ms } : State).pass m.dt) m.act t := by
  refine stepEnds_of_act (by rw [State.nextMove, hs]) hd rfl ?_
  rw [hm, act_event hi (by rw [pass_modl, ← hm]; exact hr), ht]

/-- Settles O53, by the move that the step makes: the issuer's word, and the row of another agent; an issue leaves its marks behind the
word alone. -/
theorem stepRunsTheDecodedInstruction : Obligations.StepRunsTheDecodedInstruction := by
  unfold Obligations.StepRunsTheDecodedInstruction
  intro ends
  refine ⟨?_, ?_, fun t g h p q w hg hq _ _ hw => afterIssue_frame hg hq hw⟩
  · intro s g p hs hr hd s0 hi hready hport hargs hwalk hheld hdog hbrk s1 w hf ends runs
    have word {t : State} (ht : s0.issueAt g p = .next t) : ends t :=
      stepEnds_of_issueAt hs hr hd ⟨hi, hready, hport, hargs, hwalk, hheld, hdog, hbrk⟩ ht
    refine ⟨fun c i hc hl hrules hdec t ht => word ?_, fun c i s2 lit hc hl hrules hlit hdec t ht => word ?_,
      fun wait sav sa sbv sb n yh hc hpc hpad hh hdec t ht => word ?_, fun c n hc hn hrules => word ?_⟩
    · rw [issueAt_clause hc hf, issueWord_plain hl hrules hdec, ht]
      rfl
    · rw [issueAt_clause hc hf, issueWord_literal hl hrules hlit hdec, ht]
      rfl
    · rw [issueAt_header hc hpc hf, issueHeader_plain hpad hh hdec, ht]
      rfl
    · rw [issueAt_clause hc hf, issueWord_breaks hn hrules]
      rfl
  · exact fun s m ms i hs hm hi hr => ⟨fun hd t ht => stepEnds_of_event hs hm hi hr hd ht,
      fun d j t hd hj hn he => step_due hs hd hj hn he⟩

end Sys2Proof.Machine
end

section
/-! PROOFS. Lane floating-point instructions, conversions, packs and unpacks (spec/03_numbers.md R58 to R63, spec/09_lane.md R170 to
R179). -/

namespace Sys2Proof.Machine

/-! ## Registers under the mode of a cycle (R138) -/

@[simp] theorem inMode_fpmode (g : Group) (now : Nat) : (g.inMode now).fpmode = g.modeAt now := rfl
@[simp] theorem inMode_seed (g : Group) (now : Nat) : (g.inMode now).seed = g.seed := rfl
@[simp] theorem getV_inMode (g : Group) (now r l : Nat) : (g.inMode now).getV r l = g.getV r l := rfl

@[simp] theorem bop_inMode (g : Group) (now : Nat) (b : Opnd) (l : Nat) : bop (g.inMode now) b l = bop g b l := by
  cases b <;> rfl

@[simp] theorem bopF_inMode (g : Group) (now : Nat) (b : Opnd) (l : Nat) : bopF (g.inMode now) b l = bopF g b l := by
  cases b <;> rfl

@[simp] theorem bopH_inMode (q : FP) (g : Group) (now : Nat) (b : Opnd) (l : Nat) : bopH q (g.inMode now) b l = bopH q g b l := by
  cases b <;> rfl

/-! ## The shapes of float lane instructions -/

section
variable {s : State} {g : Group} {p : Split} {i : Instr} {d a : BitVec 7} {b : Opnd} {r : Nat → FRes}

/-- An FP32 instruction of two sources (fbin, R170). -/
theorem fbin_result {f : RM → Word → Word → FRes} (h : Issues s g p) (hu : Readable s g (laneUses d a b))
    (he : exec i s = fbin s i d a b f) (e : ∀ l, f (rmOf (g.modeAt s.cycle)) (g.getV a.toNat l) (bopF g b l) = r l) :
    FloatResult s g p i d.toNat r :=
  laneFloat_result h hu he fun l => by simpa using e l

/-- A unary FP32 function (funary, R171). -/
theorem funary_result {f : RM → FV → Nat × Flags} (h : Issues s g p) (hu : Readable s g (unaryUses d b))
    (he : exec i s = funary s i d b f) (e : ∀ l, w32 (f (rmOf (g.modeAt s.cycle)) (dec32 (bopF g b l))) = r l) :
    FloatResult s g p i d.toNat r :=
  laneFloat_result h hu he fun l => by simpa using e l

/-- An instruction on both halves of a lane (hbin, R174). -/
theorem hbin_result {q : Bool} {f : FP → RM → FV → FV → FV → Nat × Flags} (h : Issues s g p) (hu : Readable s g (laneUses d a b))
    (he : exec i s = hbin s i q d a b f)
    (e : ∀ l, (halves fun k => f (hfmt q) (rmOf (g.modeAt s.cycle)) (half (hfmt q) (g.getV a.toNat l) k)
      (half (hfmt q) (bopH (hfmt q) g b l) k) (half (hfmt q) (g.getV d.toNat l) k)) = r l) :
    FloatResult s g p i d.toNat r :=
  laneFloat_result h hu he fun l => by simpa using e l

/-- A dot product of packed elements (fdotOp, R179). -/
theorem fdotOp_result {f : Fmt} {n : Nat} {sig : Bool} (h : Issues s g p) (hu : Readable s g (laneUses d a b))
    (he : exec i s = fdotOp s i f n sig d a b)
    (e : ∀ l, w32 (dotF (dec32 (g.getV d.toNat l)) ((List.range n).map fun k => narrowVal f (elemOf f (g.getV a.toNat l) k))
      ((List.range n).map fun k => narrowVal f (elemOf f (bop g b l) k)) sig) = r l) :
    FloatResult s g p i d.toNat r :=
  laneFloat_result h hu he fun l => by simpa using e l

/-- FCMP: each active lane takes a condition and its flags (R172). -/
theorem fcmp_result {comb : Bool} {cc : Fcc} {m : BitVec 3} {c : Nat → Bool} {fl : Nat → Flags} (h : Issues s g p)
    (hu : Readable s g ((opndUses b).append { v := [a.toNat], m := [m.toNat] }))
    (e : ∀ l, fcmp cc (g.getV a.toNat l) (bopF g b l) = (c l, fl l)) : CmpResult s g p (.fcmp comb cc m a b) m.toNat comb c fl :=
  laneCmp_result h hu (Eq.refl (execFcmp comb cc m a b s)) e

end

/-! ## The order of values (R172) -/

theorem ltF_of_not_inf {a b : FV} (ha : a.isInf = false) (hb : b.isInf = false) :
    ltF a b = decide (a.scaled (min a.exp b.exp) < b.scaled (min a.exp b.exp)) := by
  cases a with
  | inf n => cases ha
  | nan _ | fin _ _ _ =>
    cases b with
    | inf n' => cases hb
    | nan _ | fin _ _ _ => rfl

/-- No two values lie below one another. -/
theorem ltF_asymm {a b : FV} (h : ltF a b = true) : ltF b a = false := by
  cases a with
  | inf n =>
    cases b with
    | inf n' => simp_all [ltF]
    | nan _ | fin _ _ _ => simpa [ltF] using h
  | nan _ | fin _ _ _ =>
    cases b with
    | inf n' => simpa [ltF] using h
    | nan _ | fin _ _ _ =>
      rw [ltF_of_not_inf rfl rfl, decide_eq_true_eq] at h
      rw [ltF_of_not_inf rfl rfl, min_comm, decide_eq_false_iff_not]
      exact h.not_gt

/-- Where b is not below a, a lies below b or neither lies below the other. -/
theorem not_ltF_eq (a b : FV) : (!ltF b a) = (ltF a b || (!ltF a b && !ltF b a)) := by
  cases h : ltF a b with
  | false => rfl
  | true => simp [ltF_asymm h]

theorem fcmp_le (x y : Word) : fcmp .le x y = (!((dec32 x).isNan || (dec32 y).isNan)
    && (ltF (dec32 x) (dec32 y) || (!ltF (dec32 x) (dec32 y) && !ltF (dec32 y) (dec32 x))),
    if (dec32 x).isNan || (dec32 y).isNan then flNV else 0) := by
  rw [← not_ltF_eq]
  rfl

theorem fcmp_ge (x y : Word) : fcmp .ge x y = (!((dec32 x).isNan || (dec32 y).isNan)
    && (ltF (dec32 y) (dec32 x) || (!ltF (dec32 x) (dec32 y) && !ltF (dec32 y) (dec32 x))),
    if (dec32 x).isNan || (dec32 y).isNan then flNV else 0) := by
  rw [Bool.and_comm (!ltF (dec32 x) (dec32 y)), ← not_ltF_eq]
  rfl

theorem fcmp_eq (x y : Word) : fcmp .eq x y = (!((dec32 x).isNan || (dec32 y).isNan)
    && (!ltF (dec32 x) (dec32 y) && !ltF (dec32 y) (dec32 x)),
    if (dec32 x).isSig || (dec32 y).isSig then flNV else 0) := by
  simp [fcmp, eqF, Bool.and_assoc]

theorem fcmp_ne (x y : Word) : fcmp .ne x y = ((dec32 x).isNan || (dec32 y).isNan
    || !(!ltF (dec32 x) (dec32 y) && !ltF (dec32 y) (dec32 x)),
    if (dec32 x).isSig || (dec32 y).isSig then flNV else 0) := by
  simp [fcmp, eqF, Bool.or_assoc]

/-- Settles O3: each row by the lemma of its shape, at the operation that exec runs for it; FCMP's conditions by the order of values, in
which of a and b at most one lies below the other. -/
theorem laneFloatResults : Obligations.LaneFloatResults := by
  unfold Obligations.LaneFloatResults
  refine ⟨?_, ?_, ?_⟩
  · intro s g p d a b h hu
    refine ⟨?fadd, ?fsub, ?fmul, ?ffma, ?fmin, ?fmax, ?scalex, ?scalexE8, ?fdp4, ?fdp4E5, ?fdp8, ?fdp2h, ?fdp2hF16⟩
    case fadd => exact fbin_result h hu (Eq.refl (execFadd d a b s)) fun _ => rfl
    case fsub => exact fbin_result h hu (Eq.refl (execFsub d a b s)) fun _ => rfl
    case fmul => exact fbin_result h hu (Eq.refl (execFmul d a b s)) fun _ => rfl
    case ffma => exact laneFloat_result h hu (Eq.refl (execFfma d a b s)) fun _ => by simp
    case fmin => exact fbin_result h hu (Eq.refl (execFmin d a b s)) fun _ => rfl
    case fmax => exact fbin_result h hu (Eq.refl (execFmax d a b s)) fun _ => rfl
    case scalex => exact laneFloat_result h hu (Eq.refl (execScalex false d a b s)) fun _ => by simp
    case scalexE8 => exact laneFloat_result h hu (Eq.refl (execScalex true d a b s)) fun _ => by simp
    case fdp4 => exact fdotOp_result h hu (Eq.refl (execFdp4 false d a b s)) fun _ => rfl
    case fdp4E5 => exact fdotOp_result h hu (Eq.refl (execFdp4 true d a b s)) fun _ => rfl
    case fdp8 => exact fdotOp_result h hu (Eq.refl (execFdp8 d a b s)) fun _ => rfl
    case fdp2h => exact fdotOp_result h hu (Eq.refl (execFdp2h false d a b s)) fun _ => rfl
    case fdp2hF16 => exact fdotOp_result h hu (Eq.refl (execFdp2h true d a b s)) fun _ => rfl
  · intro s g p d b h
    refine ⟨fun hu => ?_, fun a q hu => ?_⟩
    · exact ⟨funary_result h hu (Eq.refl (execFrcp d b s)) fun _ => rfl, funary_result h hu (Eq.refl (execFrsq d b s)) fun _ => rfl,
        funary_result h hu (Eq.refl (execFsqrt d b s)) fun _ => rfl, funary_result h hu (Eq.refl (execFexp2 d b s)) fun _ => rfl,
        funary_result h hu (Eq.refl (execFlog2 d b s)) fun _ => rfl, funary_result h hu (Eq.refl (execFtanh d b s)) fun _ => rfl⟩
    · exact ⟨hbin_result h hu (Eq.refl (execHadd2 q d a b s)) fun _ => rfl, hbin_result h hu (Eq.refl (execHmul2 q d a b s)) fun _ => rfl,
        hbin_result h hu (Eq.refl (execHfma2 q d a b s)) fun _ => rfl⟩
  · intro s g p m a b comb h hu
    refine ⟨?eq, ?ne, ?lt, ?le, ?gt, ?ge, ?ord, ?unord⟩
    case eq => exact fcmp_result h hu fun l => fcmp_eq ..
    case ne => exact fcmp_result h hu fun l => fcmp_ne ..
    case le => exact fcmp_result h hu fun l => fcmp_le ..
    case ge => exact fcmp_result h hu fun l => fcmp_ge ..
    case lt | gt | ord | unord => exact fcmp_result h hu fun _ => rfl

/-! ## Unpacks: one lane word into consecutive slots (R178) -/

/-- The slots from d on, n of them, take the words of f in the lanes of a mask. -/
def Group.setRun (g : Group) (d n : Nat) (m : LaneMask) (f : Nat → Nat → Word) : Group :=
  (List.range n).foldl (fun h e => h.setLanes (d + e) m (f e)) g

section
variable (g : Group) (d n : Nat) (m : LaneMask) (f : Nat → Nat → Word)

theorem setRun_succ : g.setRun d (n + 1) m f = (g.setRun d n m f).setLanes (d + n) m (f n) := by
  simp [Group.setRun, List.range_succ]

/-- A write of a run of slots changes V and nothing else. -/
theorem setRun_eq : g.setRun d n m f = { g with v := (g.setRun d n m f).v } := by
  induction n with
  | zero => rfl
  | succ n ih => rw [setRun_succ, Group.setLanes, setLanesP_eq, ih]

@[simp] theorem setRun_wb : (g.setRun d n m f).wb = g.wb := by rw [setRun_eq]
@[simp] theorem setRun_fpflags : (g.setRun d n m f).fpflags = g.fpflags := by rw [setRun_eq]
@[simp] theorem setRun_getS (q : Nat) : (g.setRun d n m f).getS q = g.getS q := by rw [setRun_eq]; rfl
@[simp] theorem setRun_getM (q : Nat) : (g.setRun d n m f).getM q = g.getM q := by rw [setRun_eq]; rfl

/-- What lane j of register q reads behind a write of a run of slots. -/
theorem getP_setRun {q j : Nat} (hj : j < 32) : (g.setRun d n m f).getP q j =
    if g.wb + d ≤ q ∧ q < g.wb + d + n ∧ m.getLsbD j = true then f (q - (g.wb + d)) j else g.getP q j := by
  induction n with
  | zero => rw [if_neg (by omega)]; rfl
  | succ n ih =>
    rw [setRun_succ, getP_setLanes _ _ _ _ _ _ hj, setRun_wb, ih, ← Nat.add_assoc]
    by_cases hq : q = g.wb + d + n
    · simp [hq]
    · have hlt : q < g.wb + d + (n + 1) ↔ q < g.wb + d + n := by omega
      simp [hq, hlt]

end

/-- UNPKn: element e of A in slot d + e of every active lane (unpackOp). -/
theorem unpackOp_result {s : State} {g : Group} {p : Split} {i : Instr} {n : Nat} {f : Fmt} {d a : BitVec 7} (h : Issues s g p)
    (hu : Readable s g { v := a.toNat :: (List.range n).map (d.toNat + ·) }) (he : exec i s = unpackOp s i n f d a) :
    ∃ t g', exec i s = .next t ∧ OnlyGroup s t g g' ∧ OnlyRegs g g' p (p.past i.words) ∧ g'.fpflags = g.fpflags
      ∧ (∀ e l, e < n → l < 32 → p.exec.getLsbD l = true → g'.getV (d.toNat + e) l = unpackElem f (g.getV a.toNat l) e)
      ∧ SameV g g' (fun r l => g.wb + d.toNat ≤ r ∧ r < g.wb + d.toNat + n ∧ p.exec.getLsbD l = true)
      ∧ SameS g g' (fun _ => False) ∧ SameM g g' (fun _ => False) := by
  obtain ⟨honly, hregs⟩ := regStep i (fun x => x.setRun d.toNat n p.exec fun e l => unpackElem f (g.getV a.toNat l) e) h
    fun x => by rw [setRun_eq]
  refine ⟨_, _, by rw [he, unpackOp]; exact issue_next _ h hu, honly, hregs, by simp, ?_, ?_, fun r _ => by simp, fun r _ => by simp⟩
  · intro e l hn hl hm
    have hsub : g.wb + (d.toNat + e) - (g.wb + d.toNat) = e := by omega
    rw [Group.getV, getP_updSplit, Group.updSplit_wb, setRun_wb, getP_setRun _ _ _ _ _ hl, if_pos ⟨by omega, by omega, hm⟩, hsub]
  · intro r l hl hn
    rw [getP_updSplit, getP_setRun _ _ _ _ _ hl, if_neg hn]

/-! ## Conversions and packs (R175 to R177) -/

/-- PACKn: n consecutive slots into one lane word (packOp). -/
theorem packOp_result {s : State} {g : Group} {p : Split} {i : Instr} {n : Nat} {f : Fmt} {d a : BitVec 7} (h : Issues s g p)
    (hu : Readable s g { v := d.toNat :: (List.range n).map (a.toNat + ·) }) (he : exec i s = packOp s i n f d a) :
    FloatResult s g p i d.toNat
      fun l => packLane f (g.modeAt s.cycle) g.seed l ((List.range n).map fun j => g.getV (a.toNat + j) l) :=
  laneFloat_result h hu he fun l => by simp [runRegs, Function.comp_def]

/-- Settles O4: each row by the lemma of its shape, at the operation that exec runs for it. -/
theorem laneConversionsAndUnpacks : Obligations.LaneConversionsAndUnpacks := by
  unfold Obligations.LaneConversionsAndUnpacks
  refine ⟨?_, ?_⟩
  · intro s g p d a h
    refine ⟨fun hu => ⟨fun src dst sh dh => ?cvtf, fun k t => ?cvti⟩, fun f hu => ⟨?pack8, ?pack6⟩, fun f hu => ?pack4⟩
    case cvtf => exact laneFloat_result h hu (Eq.refl (execCvtf src dst sh dh d a s)) fun _ => by simp
    case cvti => exact laneFloat_result h hu (Eq.refl (execCvti k t d a s)) fun _ => by simp
    case pack8 => exact packOp_result h hu (Eq.refl (execPack8 f d a s))
    case pack6 => exact packOp_result h hu (Eq.refl (execPack6 f d a s))
    case pack4 => exact packOp_result h hu (Eq.refl (execPack4 f d a s))
  · intro s g p f d a h
    refine ⟨fun hu => ?unpk8, fun hu => ?unpk6, fun hu => ?unpk4⟩
    case unpk8 => exact unpackOp_result h hu (Eq.refl (execUnpk8 f d a s))
    case unpk6 => exact unpackOp_result h hu (Eq.refl (execUnpk6 f d a s))
    case unpk4 => exact unpackOp_result h hu (Eq.refl (execUnpk4 f d a s))

end Sys2Proof.Machine
end

section
/-! PROOFS. FP32 values, the four roundings of an exact value and the operations on special inputs (spec/03_numbers.md R52, R58 to R60,
R62; spec/09_lane.md R171). -/

namespace Sys2Proof.Machine

/-! ## FP32 encodings (R52) -/

/-- The exponent field of an FP32 encoding. -/
def exponentField (w : Word) : Nat := w.toNat / 2 ^ 23 % 256

/-- The significand of a finite FP32 encoding. -/
def significand (w : Word) : Nat := if exponentField w = 0 then w.toNat % 2 ^ 23 else 2 ^ 23 + w.toNat % 2 ^ 23

/-- The exponent of a finite FP32 encoding, above that of the smallest subnormal. -/
def exponent (w : Word) : Nat := exponentField w - 1

theorem decodeF_ieee (p : FP) (bits : Nat) : decodeF p .ieee bits =
    if bits / 2 ^ p.fb % 2 ^ p.eb = 2 ^ p.eb - 1 then
      if bits % 2 ^ p.fb = 0 then .inf (bits / 2 ^ (p.fb + p.eb) % 2 == 1) else .nan (decide (bits % 2 ^ p.fb < 2 ^ (p.fb - 1)))
    else if bits / 2 ^ p.fb % 2 ^ p.eb = 0 then .fin (bits / 2 ^ (p.fb + p.eb) % 2 == 1) (bits % 2 ^ p.fb) p.emin
    else .fin (bits / 2 ^ (p.fb + p.eb) % 2 == 1) (2 ^ p.fb + bits % 2 ^ p.fb) (p.emin + (bits / 2 ^ p.fb % 2 ^ p.eb : Nat) - 1) := by
  simp [decodeF]

theorem sign_eq_msb (w : Word) : (w.toNat / 2 ^ 31 % 2 == 1) = w.msb := by
  rw [BitVec.msb_eq_decide, Bool.eq_iff_iff, beq_iff_eq, decide_eq_true_eq]
  omega

theorem eq_of_magnitude {v w : Word} (h : v.toNat % 2 ^ 31 = w.toNat % 2 ^ 31) (hs : v.msb = w.msb) : v = w := by
  rw [BitVec.msb_eq_decide, BitVec.msb_eq_decide, decide_eq_decide] at hs
  exact BitVec.eq_of_toNat_eq (by omega)

theorem dec32_nan {w : Word} (h : w.toNat % 2 ^ 31 > 0x7F800000) : dec32 w = .nan (!w.getLsbD 22) := by
  have hbit : decide (w.toNat % 2 ^ 23 < 2 ^ 22) = !w.getLsbD 22 := by
    rw [BitVec.getLsbD, Nat.testBit_eq_decide_div_mod_eq, ← decide_not, decide_eq_decide]
    omega
  have hexp : w.toNat / 2 ^ 23 % 2 ^ 8 = 2 ^ 8 - 1 := by omega
  have hfrac : ¬ w.toNat % 2 ^ 23 = 0 := by omega
  rw [← hbit]
  exact (decodeF_ieee fp32 w.toNat).trans ((if_pos hexp).trans (if_neg hfrac))

theorem dec32_inf {w : Word} (h : w.toNat % 2 ^ 31 = 0x7F800000) : dec32 w = .inf w.msb := by
  have hexp : w.toNat / 2 ^ 23 % 2 ^ 8 = 2 ^ 8 - 1 := by omega
  have hfrac : w.toNat % 2 ^ 23 = 0 := by omega
  rw [← sign_eq_msb]
  exact (decodeF_ieee fp32 w.toNat).trans ((if_pos hexp).trans (if_pos hfrac))

theorem dec32_finite {w : Word} (h : w.toNat % 2 ^ 31 < 0x7F800000) : dec32 w = .fin w.msb (significand w) (-149 + exponent w) := by
  have hexp : ¬ w.toNat / 2 ^ 23 % 2 ^ 8 = 2 ^ 8 - 1 := by omega
  rw [← sign_eq_msb]
  refine (decodeF_ieee fp32 w.toNat).trans ((if_neg hexp).trans ?_)
  unfold significand exponent exponentField
  by_cases hz : w.toNat / 2 ^ 23 % 256 = 0
  · rw [if_pos hz, hz]
    exact if_pos hz
  · have he : (-149 + (w.toNat / 2 ^ 23 % 256 - 1 : Nat) : Int) = -149 + (w.toNat / 2 ^ 23 % 256 : Nat) - 1 := by omega
    rw [if_neg hz, he]
    exact if_neg hz

theorem significand_lt (w : Word) : significand w < 2 ^ 24 := by
  unfold significand
  split <;> omega

theorem significand_eq_zero {w : Word} : significand w = 0 ↔ w.toNat % 2 ^ 31 = 0 := by
  unfold significand exponentField
  split <;> omega

theorem exponent_subnormal {w : Word} (h : significand w < 2 ^ 23) : exponent w = 0 := by
  unfold significand at h
  unfold exponent
  split at h <;> omega

theorem exponent_le {w : Word} (h : w.toNat % 2 ^ 31 < 0x7F800000) : exponent w ≤ 253 := by
  unfold exponent exponentField
  omega

theorem finite_of_exponentField {w : Word} (h : exponentField w < 255) : w.toNat % 2 ^ 31 < 0x7F800000 := by
  unfold exponentField at h
  omega

theorem dec32_zero {w : Word} (h : w.toNat % 2 ^ 31 = 0) : dec32 w = .fin w.msb 0 (-149) := by
  have hs := significand_eq_zero.mpr h
  rw [dec32_finite (by omega), hs, exponent_subnormal (by omega)]
  rfl

@[simp] theorem zeroF_fp32 (neg : Bool) : zeroF fp32 neg = if neg then 2 ^ 31 else 0 := rfl

/-- A finite encoding is put together from its sign, significand and exponent. -/
theorem packF_significand {w : Word} (h : w.toNat % 2 ^ 31 < 0x7F800000) :
    packF fp32 w.msb (significand w) (-149 + exponent w) = w.toNat := by
  have hneg : (if w.msb then 2 ^ 31 else 0) = w.toNat / 2 ^ 31 * 2 ^ 31 := by
    rw [BitVec.msb_eq_decide]
    simp only [decide_eq_true_eq]
    split <;> omega
  have hu : (-149 + exponent w - fp32.emin + 1 : Int).toNat = exponent w + 1 := by
    simp only [FP.emin, fp32]
    omega
  rw [packF, zeroF_fp32, hneg, hu]
  change _ + (if significand w < 2 ^ 23 then significand w else (exponent w + 1) * 2 ^ 23 + (significand w - 2 ^ 23)) = _
  unfold significand exponent exponentField
  split <;> split <;> omega

section
variable (w : Word)

/-- The kind of a word by its magnitude. -/
theorem dec32_cases : w.toNat % 2 ^ 31 > 0x7F800000 ∨ w.toNat % 2 ^ 31 = 0x7F800000 ∨ w.toNat % 2 ^ 31 < 0x7F800000 := by omega

theorem isNan_dec32 : (dec32 w).isNan = true ↔ w.toNat % 2 ^ 31 > 0x7F800000 := by
  rcases dec32_cases w with h | h | h
  · rw [dec32_nan h]; exact iff_of_true rfl h
  · rw [dec32_inf h]; exact iff_of_false Bool.false_ne_true (by omega)
  · rw [dec32_finite h]; exact iff_of_false Bool.false_ne_true (by omega)

theorem isSig_dec32 : (dec32 w).isSig = true ↔ w.toNat % 2 ^ 31 > 0x7F800000 ∧ w.getLsbD 22 = false := by
  rcases dec32_cases w with h | h | h
  · rw [dec32_nan h, and_iff_right h]; exact iff_of_eq (Bool.not_eq_true' _)
  · rw [dec32_inf h]; exact iff_of_false Bool.false_ne_true (by omega)
  · rw [dec32_finite h]; exact iff_of_false Bool.false_ne_true (by omega)

theorem isInf_dec32 : (dec32 w).isInf = true ↔ w.toNat % 2 ^ 31 = 0x7F800000 := by
  rcases dec32_cases w with h | h | h
  · rw [dec32_nan h]; exact iff_of_false Bool.false_ne_true (by omega)
  · rw [dec32_inf h]; exact iff_of_true rfl h
  · rw [dec32_finite h]; exact iff_of_false Bool.false_ne_true (by omega)

theorem isZero_dec32 : (dec32 w).isZero = true ↔ w.toNat % 2 ^ 31 = 0 := by
  rcases dec32_cases w with h | h | h
  · rw [dec32_nan h]; exact iff_of_false Bool.false_ne_true (by omega)
  · rw [dec32_inf h]; exact iff_of_false Bool.false_ne_true (by omega)
  · rw [dec32_finite h, ← significand_eq_zero]; exact beq_iff_eq

end

/-! ## The four roundings (R58) -/

section
variable (rm : RM) (neg : Bool) (m n : Nat)

theorem roundShift_inexact : (roundShift rm neg m n false).2 = true ↔ m % 2 ^ n ≠ 0 := by
  simp [roundShift]

theorem roundShift_rz : (roundShift .rz neg m n false).1 = m / 2 ^ n := rfl

/-- A directed mode goes up in magnitude from an inexact value on its side of zero. -/
theorem roundShift_ru : (roundShift .ru neg m n false).1 = if m % 2 ^ n ≠ 0 ∧ neg = false then m / 2 ^ n + 1 else m / 2 ^ n := by
  simp [roundShift]

theorem roundShift_rd : (roundShift .rd neg m n false).1 = if m % 2 ^ n ≠ 0 ∧ neg = true then m / 2 ^ n + 1 else m / 2 ^ n := by
  simp [roundShift]

theorem roundShift_rne : (roundShift .rne neg m n false).1 =
    if 2 ^ n < 2 * (m % 2 ^ n) ∨ 2 * (m % 2 ^ n) = 2 ^ n ∧ m / 2 ^ n % 2 = 1 then m / 2 ^ n + 1 else m / 2 ^ n := by
  simp [roundShift]

/-- The rounded quotient is the floor or the integer above it. -/
theorem roundShift_bounds : m / 2 ^ n ≤ (roundShift rm neg m n false).1 ∧ (roundShift rm neg m n false).1 ≤ m / 2 ^ n + 1 := by
  cases rm with
  | rne => rw [roundShift_rne]; split <;> omega
  | rz => rw [roundShift_rz]; omega
  | ru => rw [roundShift_ru]; split <;> omega
  | rd => rw [roundShift_rd]; split <;> omega

/-- An integer m as its quotient and its remainder by 2^n. -/
theorem quotient_spec : m / 2 ^ n * 2 ^ n + m % 2 ^ n = m ∧ m % 2 ^ n < 2 ^ n :=
  ⟨Nat.div_add_mod' m (2 ^ n), Nat.mod_lt m (Nat.two_pow_pos n)⟩

theorem floor_spec : m / 2 ^ n * 2 ^ n ≤ m ∧ m < (m / 2 ^ n + 1) * 2 ^ n := by
  obtain ⟨hm, hr⟩ := quotient_spec m n
  rw [Nat.succ_mul]
  omega

/-- The quotient that goes up where m is no multiple of 2^n is the ceiling. -/
theorem ceiling_spec : let q := if m % 2 ^ n ≠ 0 then m / 2 ^ n + 1 else m / 2 ^ n
    m ≤ q * 2 ^ n ∧ q * 2 ^ n < m + 2 ^ n := by
  obtain ⟨hm, hr⟩ := quotient_spec m n
  dsimp only
  split
  · rw [Nat.succ_mul]
    omega
  · omega

theorem roundShift_ru_directed : let q := (roundShift .ru neg m n false).1
    if neg then q * 2 ^ n ≤ m ∧ m < (q + 1) * 2 ^ n else m ≤ q * 2 ^ n ∧ q * 2 ^ n < m + 2 ^ n := by
  rw [roundShift_ru]
  cases neg with
  | true => simpa using floor_spec m n
  | false => simpa using ceiling_spec m n

theorem roundShift_rd_directed : let q := (roundShift .rd neg m n false).1
    if neg then m ≤ q * 2 ^ n ∧ q * 2 ^ n < m + 2 ^ n else q * 2 ^ n ≤ m ∧ m < (q + 1) * 2 ^ n := by
  rw [roundShift_rd]
  cases neg with
  | true => simpa using ceiling_spec m n
  | false => simpa using floor_spec m n

/-- The nearest integer, and the even one of two as near. -/
theorem roundShift_rne_nearest : let q := (roundShift .rne neg m n false).1
    2 * m ≤ (2 * q + 1) * 2 ^ n ∧ 2 * q * 2 ^ n ≤ 2 * m + 2 ^ n
      ∧ (2 * m = (2 * q + 1) * 2 ^ n ∨ 2 * q * 2 ^ n = 2 * m + 2 ^ n → q % 2 = 0) := by
  obtain ⟨hm, hr⟩ := quotient_spec m n
  have hpos := Nat.two_pow_pos n
  rw [roundShift_rne]
  dsimp only
  split <;> simp only [Nat.add_mul, Nat.one_mul, Nat.mul_assoc] <;> omega

end

/-! ## Roundings into FP32 (R59, R60) -/

theorem lead_eq {m k : Nat} (h : 2 ^ k ≤ m) (h' : m < 2 ^ (k + 1)) : lead m = k :=
  (Nat.log2_eq_iff (Nat.pos_iff_ne_zero.mp ((Nat.two_pow_pos k).trans_le h))).mpr ⟨h, h'⟩

theorem not_aboveMax {q : Nat} {u : Int} (hq : q < 2 ^ 24) (hu : u ≤ 104) : aboveMax fp32 q u = false := by
  unfold aboveMax
  change (if u ≥ 104 then decide (q * 2 ^ (u - 104).toNat > 2 ^ 24 - 1) else decide (q > (2 ^ 24 - 1) * 2 ^ (104 - u).toNat)) = false
  split
  · have hz : (u - 104).toNat = 0 := by omega
    rw [hz, decide_eq_false_iff_not]
    omega
  · have hp : 0 < 2 ^ (104 - u).toNat := Nat.two_pow_pos _
    rw [decide_eq_false_iff_not]
    have := Nat.le_mul_of_pos_right (2 ^ 24 - 1) hp
    omega

/-- A significand of 2^24 quanta is one of 2^23 quanta of twice the size. -/
theorem packF_carry (neg : Bool) {u : Int} (h : -149 ≤ u) : packF fp32 neg (2 ^ 23) (u + 1) = packF fp32 neg (2 ^ 24) u := by
  have hu : (u + 1 - fp32.emin + 1).toNat = (u - fp32.emin + 1).toNat + 1 := by
    simp only [FP.emin, fp32]
    omega
  unfold packF
  rw [hu]
  change zeroF fp32 neg + (((u - fp32.emin + 1).toNat + 1) * 2 ^ 23 + (2 ^ 23 - 2 ^ 23))
    = zeroF fp32 neg + ((u - fp32.emin + 1).toNat * 2 ^ 23 + (2 ^ 24 - 2 ^ 23))
  omega

/-- A rounding with its quantum and its rounded significand; only a value below the normal range is tiny. -/
theorem roundCore_of_roundAt {rm : RM} {neg nx : Bool} {m q : Nat} {e u : Int} (hu : max (e + lead m - 23) (-149) = u)
    (hr : roundAt rm neg m e u false = (q, nx)) : ∃ tiny, (tiny = true → e + lead m - 23 < -149)
      ∧ roundCore fp32 rm neg m e false = if q = 2 ^ 24 then (2 ^ 23, u + 1, nx, tiny) else (q, u, nx, tiny) := by
  refine ⟨decide (e + lead m - 23 < -149) && !(decide (e + lead m - 23 = -149 - 1)
    && (roundAt rm neg m e (e + lead m - 23) false).1 == 2 ^ 24), fun h => ?_, ?_⟩
  · simp only [Bool.and_eq_true, decide_eq_true_eq] at h
    exact h.1
  · have hu' : max (e + lead m - fp32.fb) fp32.emin = u := hu
    unfold roundCore
    simp only [hu', hr]
    rfl

/-- A value whose quantum lies in the range of FP32, and with it the rounded significand: it is encoded, with NX where it is inexact. -/
theorem roundF_of_roundAt {rm : RM} {neg nx : Bool} {m q : Nat} {e u : Int} (hu : max (e + lead m - 23) (-149) = u)
    (hr : roundAt rm neg m e u false = (q, nx)) (hq : q ≤ 2 ^ 24) (hmax : u ≤ 103 ∨ u = 104 ∧ q < 2 ^ 24)
    (hnx : nx = true → -149 ≤ e + lead m - 23) : roundF fp32 rm neg m e = (packF fp32 neg q u, if nx then flNX else 0) := by
  obtain ⟨tiny, htiny, hcore⟩ := roundCore_of_roundAt hu hr
  have hflags : (tiny && nx) = false := by
    rw [Bool.and_eq_false_iff, ← Bool.not_eq_true, ← Bool.not_eq_true]
    by_contra! h
    have := htiny h.1
    have := hnx h.2
    omega
  unfold roundF
  rw [hcore]
  by_cases hc : q = 2 ^ 24
  · have habove : aboveMax fp32 (2 ^ 23) (u + 1) = false := not_aboveMax (by omega) (by omega)
    rw [if_pos hc, hc, ← packF_carry neg (by omega)]
    simp only [habove, hflags, Bool.false_eq_true, if_false]
    exact Prod.ext rfl BitVec.or_zero
  · have habove : aboveMax fp32 q u = false := not_aboveMax (by omega) (by omega)
    rw [if_neg hc]
    simp [habove, hflags]

/-! ## Sums with a zero (R52) -/

theorem roundAt_exact (rm : RM) (neg : Bool) (m j : Nat) (e : Int) : roundAt rm neg (m * 2 ^ j) e (e + j) false = (m, false) := by
  unfold roundAt
  split
  · obtain rfl : j = 0 := by omega
    simp
  · have hj : (e + j - e).toNat = j := by omega
    rw [hj]
    cases rm <;> simp [roundShift, (Nat.two_pow_pos j).ne]

/-- An FP32 value is its own rounding. -/
theorem roundF_exact (rm : RM) (neg : Bool) {m j : Nat} (hpos : 0 < m) (hm : m < 2 ^ 24) (hj : j ≤ 253) (hsub : m < 2 ^ 23 → j = 0) :
    roundF fp32 rm neg (m * 2 ^ j) (-149) = (packF fp32 neg m (-149 + j), 0) := by
  refine roundF_of_roundAt ?_ (roundAt_exact rm neg m j (-149)) hm.le (by omega) (fun h => absurd h Bool.false_ne_true)
  by_cases hn : m < 2 ^ 23
  · obtain rfl := hsub hn
    have hl : lead (m * 2 ^ 0) < 23 := (Nat.log2_lt (by omega)).mpr (by omega)
    omega
  · have hl : lead (m * 2 ^ j) = 23 + j := by
      refine lead_eq ?_ ?_
      · rw [Nat.pow_add]
        exact Nat.mul_le_mul_right _ (by omega)
      · rw [show 23 + j + 1 = 24 + j by omega, Nat.pow_add]
        exact Nat.mul_lt_mul_of_pos_right hm (Nat.two_pow_pos j)
    omega

theorem roundF_significand {w : Word} (rm : RM) (hpos : w.toNat % 2 ^ 31 ≠ 0) (h : w.toNat % 2 ^ 31 < 0x7F800000) :
    w32 (roundF fp32 rm w.msb (significand w * 2 ^ exponent w) (-149)) = (w, 0) := by
  have hs := mt significand_eq_zero.mp hpos
  rw [roundF_exact rm w.msb (by omega) (significand_lt w) (exponent_le h) exponent_subnormal, packF_significand h, w32,
    BitVec.ofNat_toNat, BitVec.setWidth_eq]

theorem ofInt_signed {k : Nat} (hk : k ≠ 0) (neg : Bool) (e : Int) : ofInt (if neg then -(k : Int) else k) e = .fin neg k e := by
  cases neg <;> simp [ofInt]
  omega

theorem sumFin_zero_right (n n' : Bool) (m j : Nat) (e : Int) :
    sumFin [.fin n m (e + j), .fin n' 0 e] = (if n then -((m * 2 ^ j : Nat) : Int) else ((m * 2 ^ j : Nat) : Int), e) := by
  simp [sumFin, FV.exp, FV.scaled]

theorem sumFin_zero_left (n n' : Bool) (m j : Nat) (e : Int) :
    sumFin [.fin n' 0 e, .fin n m (e + j)] = (if n then -((m * 2 ^ j : Nat) : Int) else ((m * 2 ^ j : Nat) : Int), e) := by
  simp [sumFin, FV.exp, FV.scaled]

/-- Where the sum of two finite values is not zero, it is rounded. -/
theorem addF_fin {p : FP} (rm : RM) {n n' neg : Bool} {m m' k : Nat} {e e' e0 : Int} (hk : k ≠ 0)
    (hs : sumFin [.fin n m e, .fin n' m' e'] = (if neg then -(k : Int) else k, e0)) :
    addF p rm (.fin n m e) (.fin n' m' e') = roundF p rm neg k e0 := by
  have hk' : (if neg then -(k : Int) else k) ≠ 0 := by split <;> omega
  unfold addF
  simp only [FV.isNan, Bool.or_false, Bool.false_eq_true, if_false, hs, hk', ofInt_signed hk, encodeF, hk]

section
variable {a : Word} (rm : RM) (n : Bool) (hpos : a.toNat % 2 ^ 31 ≠ 0) (ha : a.toNat % 2 ^ 31 < 0x7F800000)
include hpos ha

theorem addF_zero_right : w32 (addF fp32 rm (dec32 a) (.fin n 0 (-149))) = (a, 0) := by
  have hs : significand a * 2 ^ exponent a ≠ 0 := Nat.mul_ne_zero (mt significand_eq_zero.mp hpos) (Nat.two_pow_pos _).ne'
  rw [dec32_finite ha, addF_fin rm hs (sumFin_zero_right ..), roundF_significand rm hpos ha]

theorem addF_zero_left : w32 (addF fp32 rm (.fin n 0 (-149)) (dec32 a)) = (a, 0) := by
  have hs : significand a * 2 ^ exponent a ≠ 0 := Nat.mul_ne_zero (mt significand_eq_zero.mp hpos) (Nat.two_pow_pos _).ne'
  rw [dec32_finite ha, addF_fin rm hs (sumFin_zero_left ..), roundF_significand rm hpos ha]

end

/-! ## NaNs and invalid operations (R59, R62) -/

section
variable {p : FP} {rm : RM} {a b c : FV}

@[simp] theorem isNan_flip : a.flip.isNan = a.isNan := by cases a <;> rfl
@[simp] theorem isSig_flip : a.flip.isSig = a.isSig := by cases a <;> rfl

theorem addF_nan (h : a.isNan = true ∨ b.isNan = true) :
    addF p rm a b = (nanF p, if a.isSig = true ∨ b.isSig = true then flNV else 0) := by
  simp [addF, h]

theorem mulF_nan (h : a.isNan = true ∨ b.isNan = true) :
    mulF p rm a b = (nanF p, if a.isSig = true ∨ b.isSig = true then flNV else 0) := by
  simp [mulF, h]

theorem badProduct_iff : badProduct a b = true ↔ a.isInf = true ∧ b.isZero = true ∨ a.isZero = true ∧ b.isInf = true := by
  simp [badProduct]

/-- Neither factor of infinity times zero is a NaN. -/
theorem not_nan_of_badProduct (h : badProduct a b = true) : (a.isNan || b.isNan) = false := by
  cases a with
  | nan _ => simp [badProduct, FV.isInf, FV.isZero] at h
  | inf _ | fin _ _ _ =>
    cases b with
    | nan _ => simp [badProduct, FV.isInf, FV.isZero] at h
    | inf _ | fin _ _ _ => rfl

theorem mulF_bad (h : badProduct a b = true) : mulF p rm a b = (nanF p, flNV) := by
  simp [mulF, not_nan_of_badProduct h, h]

theorem fmaF_bad (h : badProduct a b = true) : fmaF p rm a b c = (nanF p, flNV) := by
  simp [fmaF, h]

theorem fmaF_nan (hb : badProduct a b = false) (h : a.isNan = true ∨ b.isNan = true ∨ c.isNan = true) :
    fmaF p rm a b c = (nanF p, if a.isSig = true ∨ b.isSig = true ∨ c.isSig = true then flNV else 0) := by
  simp [fmaF, hb, h, or_assoc]

theorem subF_nan (h : a.isNan = true ∨ b.isNan = true) :
    addF p rm a b.flip = (nanF p, if a.isSig = true ∨ b.isSig = true then flNV else 0) := by
  rw [addF_nan (by rwa [isNan_flip]), isSig_flip]

/-- A NaN operand gives the canonical NaN, and NV where one is signalling. -/
theorem nan_results (rm : RM) (h : a.isNan = true ∨ b.isNan = true) :
    w32 (addF fp32 rm a b) = (0x7FC00000, if a.isSig = true ∨ b.isSig = true then flNV else 0)
      ∧ w32 (addF fp32 rm a b.flip) = (0x7FC00000, if a.isSig = true ∨ b.isSig = true then flNV else 0)
      ∧ w32 (mulF fp32 rm a b) = (0x7FC00000, if a.isSig = true ∨ b.isSig = true then flNV else 0) :=
  ⟨congrArg w32 (addF_nan h), congrArg w32 (subF_nan h), congrArg w32 (mulF_nan h)⟩

/-- The difference of infinities is invalid. -/
theorem addF_inf_opposite {n n' : Bool} (h : n ≠ n') : addF p rm (.inf n) (.inf n') = (nanF p, flNV) := by
  simp [addF, FV.isNan, h]

end

/-! ## Products in the normal range (R60) -/

/-- The product of normal significands has 47 or 48 bits. -/
theorem lead_product {x y : Nat} (hx : x < 2 ^ 23) (hy : y < 2 ^ 23) :
    lead ((2 ^ 23 + x) * (2 ^ 23 + y)) = 23 + if (2 ^ 23 + x) * (2 ^ 23 + y) < 2 ^ 47 then 23 else 24 := by
  have hlo : 2 ^ 23 * 2 ^ 23 ≤ (2 ^ 23 + x) * (2 ^ 23 + y) := Nat.mul_le_mul (by omega) (by omega)
  have hhi : (2 ^ 23 + x) * (2 ^ 23 + y) < 2 ^ 24 * 2 ^ 24 := Nat.mul_lt_mul'' (by omega) (by omega)
  generalize (2 ^ 23 + x) * (2 ^ 23 + y) = m at hlo hhi
  split <;> exact lead_eq (by omega) (by omega)

/-- A value in the normal range, of which sh bits lie below its 24: one rounding of those. -/
theorem roundF_normal {rm : RM} {neg : Bool} {m sh : Nat} {e : Int} (hl : lead m = 23 + sh) (hm : m ≠ 0) (hsh : 0 < sh)
    (hlo : -149 ≤ e + sh) (hhi : e + sh ≤ 103) : roundF fp32 rm neg m e
      = (zeroF fp32 neg + ((e + sh + 150).toNat * 2 ^ 23 - 2 ^ 23 + (roundShift rm neg m sh false).1),
        if m % 2 ^ sh = 0 then 0 else flNX) := by
  obtain ⟨hge, hlt⟩ := (Nat.log2_eq_iff hm).mp hl
  have hq : 2 ^ 23 ≤ m / 2 ^ sh ∧ m / 2 ^ sh < 2 ^ 24 := by
    rw [Nat.le_div_iff_mul_le (Nat.two_pow_pos sh), Nat.div_lt_iff_lt_mul (Nat.two_pow_pos sh), ← Nat.pow_add, ← Nat.pow_add]
    exact ⟨hge, by rwa [show 24 + sh = 23 + sh + 1 by omega]⟩
  obtain ⟨hb, hb'⟩ := roundShift_bounds rm neg m sh
  have hround : roundAt rm neg m e (e + sh) false = ((roundShift rm neg m sh false).1, (roundShift rm neg m sh false).2) := by
    rw [roundAt, if_neg (by omega), show (e + sh - e).toNat = sh by omega]
  rw [roundF_of_roundAt (by omega) hround (by omega) (.inl hhi) (fun _ => by omega)]
  refine Prod.ext ?_ ?_
  · have hu : (e + sh - fp32.emin + 1).toNat = (e + sh + 150).toNat := by
      simp only [FP.emin, fp32]
      omega
    have hnot : ¬ (roundShift rm neg m sh false).1 < 2 ^ fp32.fb := Nat.not_lt.mpr (hq.1.trans hb)
    rw [packF, hu, if_neg hnot]
    change _ + (_ * 2 ^ 23 + (_ - 2 ^ 23)) = _
    omega
  · by_cases hz : m % 2 ^ sh = 0
    · have := mt (roundShift_inexact rm neg m sh).mp (not_not.mpr hz)
      simp [this, hz]
    · simp [(roundShift_inexact rm neg m sh).mpr hz, hz]

/-- The product of normal numbers in the normal range. -/
theorem mulF_normal {a b : Word} (rm : RM) (ha : 0 < exponentField a) (ha' : exponentField a < 255) (hb : 0 < exponentField b)
    (hb' : exponentField b < 255) (hlo : 128 ≤ exponentField a + exponentField b) (hhi : exponentField a + exponentField b ≤ 379) :
    let m := (2 ^ 23 + a.toNat % 2 ^ 23) * (2 ^ 23 + b.toNat % 2 ^ 23)
    let sh := if m < 2 ^ 47 then 23 else 24
    let neg := a.msb != b.msb
    w32 (mulF fp32 rm (dec32 a) (dec32 b)) = (BitVec.ofNat 32 ((if neg then 2 ^ 31 else 0)
      + (exponentField a + exponentField b - 127 + (sh - 23)) * 2 ^ 23 - 2 ^ 23 + (roundShift rm neg m sh false).1),
      if m % 2 ^ sh = 0 then 0 else flNX) := by
  intro m sh neg
  have hl : lead m = 23 + sh := lead_product (Nat.mod_lt _ (by decide)) (Nat.mod_lt _ (by decide))
  have hsh : sh = 23 ∨ sh = 24 := ite_eq_or_eq ..
  have hm : m ≠ 0 := Nat.mul_ne_zero (by omega) (by omega)
  have hsig {w : Word} (h : 0 < exponentField w) : significand w = 2 ^ 23 + w.toNat % 2 ^ 23 := if_neg (by omega)
  have hexp : (exponent a + exponent b : Int) = exponentField a + exponentField b - 2 := by
    unfold exponent
    omega
  have hmul : mulF fp32 rm (dec32 a) (dec32 b) = roundF fp32 rm neg m (-149 + exponent a + (-149 + exponent b)) := by
    rw [dec32_finite (finite_of_exponentField ha'), dec32_finite (finite_of_exponentField hb'), hsig ha, hsig hb]
    simp [mulF, FV.isNan, badProduct, FV.isInf, FV.isZero, FV.mul, encodeF, m, neg]
  have hquantum : (-149 + exponent a + (-149 + exponent b) + sh + 150 : Int).toNat
      = exponentField a + exponentField b - 127 + (sh - 23) := by omega
  have hone : 1 ≤ exponentField a + exponentField b - 127 + (sh - 23) := by omega
  rw [hmul, roundF_normal hl hm (by omega) (by omega) (by omega), hquantum, w32, zeroF_fp32]
  refine Prod.ext (congrArg (BitVec.ofNat 32) ?_) rfl
  dsimp only
  omega

/-! ## Special inputs of the unary functions (R171) -/

/-- A root or a logarithm of a negative number is invalid. -/
theorem root_negative (rm : RM) {w : Word} (hlo : w.toNat > 0x80000000) (hhi : w.toNat < 0xFF800000) :
    frsq rm (dec32 w) = (nanF fp32, flNV) ∧ fsqrt rm (dec32 w) = (nanF fp32, flNV) ∧ flog2 rm (dec32 w) = (nanF fp32, flNV) := by
  have hmsb : w.msb = true := by
    rw [BitVec.msb_eq_decide, decide_eq_true_eq]
    omega
  have hs : significand w ≠ 0 := mt significand_eq_zero.mp (by omega)
  rw [dec32_finite (by omega), hmsb]
  simp [frsq, fsqrt, flog2, hs]

/-- Settles O5: the special inputs by evaluation in each mode, the modes by the equation of each, and the operations by the kind of each
operand: a NaN, an infinity, or a finite number as its sign, significand and exponent. -/
theorem floatSpecialInputsAndRounding : Obligations.FloatSpecialInputsAndRounding := by
  unfold Obligations.FloatSpecialInputsAndRounding
  refine ⟨fun rm => ⟨?plusZero, ?minusZero, ?plusInf, ?minusInf, ?negative, ?nan⟩,
    fun neg m n => ⟨?inexact, ?rne, ?rz, ?ru, ?rd⟩, ?operations⟩
  case plusZero => exact ⟨rfl, rfl, rfl, rfl, rfl, rfl⟩
  case minusZero => exact ⟨rfl, rfl, rfl, rfl, rfl, rfl⟩
  case plusInf => exact ⟨rfl, rfl, rfl, rfl, rfl, rfl⟩
  case minusInf => exact ⟨rfl, rfl, rfl, rfl, rfl, rfl⟩
  case negative =>
    intro w hlo hhi
    obtain ⟨hrsq, hsqrt, hlog⟩ := root_negative rm hlo hhi
    exact ⟨congrArg w32 hrsq, congrArg w32 hsqrt, congrArg w32 hlog⟩
  case nan =>
    intro w hw
    dsimp only
    rw [dec32_nan hw]
    cases w.getLsbD 22 <;> exact ⟨rfl, rfl, rfl, rfl, rfl, rfl⟩
  case inexact => exact fun rm => roundShift_inexact rm neg m n
  case rne => exact roundShift_rne_nearest neg m n
  case rz => exact floor_spec m n
  case ru => exact roundShift_ru_directed neg m n
  case rd => exact roundShift_rd_directed neg m n
  case operations =>
    intro rm a b c add sub mul fma mag nan sig bad canon
    have hbad : badProduct (dec32 a) (dec32 b) = true ↔ bad := by
      rw [badProduct_iff, isInf_dec32, isZero_dec32, isInf_dec32, isZero_dec32]
    refine ⟨?nans, ?fmaNans, ?invalid, ?infinities, ?zero, ?product⟩
    case nans =>
      intro h
      have hn : (dec32 a).isNan = true ∨ (dec32 b).isNan = true := h.imp (isNan_dec32 a).mpr (isNan_dec32 b).mpr
      have hs : (dec32 a).isSig = true ∨ (dec32 b).isSig = true ↔ sig a ∨ sig b := or_congr (isSig_dec32 a) (isSig_dec32 b)
      have hr := nan_results rm hn
      refine ⟨fun h' => ?_, fun h' => ?_⟩
      · rw [if_pos (hs.mpr h')] at hr
        exact hr
      · rw [if_neg (mt hs.mp h')] at hr
        exact hr
    case fmaNans =>
      intro hb h
      have hn : (dec32 a).isNan = true ∨ (dec32 b).isNan = true ∨ (dec32 c).isNan = true :=
        h.imp (isNan_dec32 a).mpr (Or.imp (isNan_dec32 b).mpr (isNan_dec32 c).mpr)
      have hs : (dec32 a).isSig = true ∨ (dec32 b).isSig = true ∨ (dec32 c).isSig = true ↔ sig a ∨ sig b ∨ sig c :=
        or_congr (isSig_dec32 a) (or_congr (isSig_dec32 b) (isSig_dec32 c))
      have hfma : fma a b c = canon (if (dec32 a).isSig = true ∨ (dec32 b).isSig = true ∨ (dec32 c).isSig = true then flNV else 0) :=
        congrArg w32 (fmaF_nan (Bool.eq_false_iff.mpr (mt hbad.mp hb)) hn)
      rw [hfma]
      exact ⟨fun h' => by rw [if_pos (hs.mpr h')], fun h' => by rw [if_neg (mt hs.mp h')]⟩
    case invalid =>
      intro h
      exact ⟨congrArg w32 (mulF_bad (hbad.mpr h)), congrArg w32 (fmaF_bad (hbad.mpr h))⟩
    case infinities =>
      intro ha hb hne
      have hsign : a.msb ≠ b.msb := fun h => hne (eq_of_magnitude (ha.trans hb.symm) h)
      simp only [add, sub]
      rw [dec32_inf ha, dec32_inf hb]
      exact ⟨congrArg w32 (addF_inf_opposite hsign), congrArg w32 (addF_inf_opposite (Bool.not_ne_self _).symm)⟩
    case zero =>
      intro hpos ha hb
      simp only [add, sub]
      rw [dec32_zero hb]
      exact ⟨addF_zero_right rm _ hpos ha, addF_zero_left rm _ hpos ha, addF_zero_right rm _ hpos ha⟩
    case product => exact fun ha ha' hb hb' hlo hhi => mulF_normal rm ha ha' hb hb' hlo hhi

end Sys2Proof.Machine
end

section
/-! PROOFS. What leaves the host's side of a context alone: groups, operations and flashback (spec/04_context.md R72; spec/07_group.md
R143). -/

namespace Sys2Proof.Machine

/-! ## No work is added -/

theorem foldl_proj {α β γ : Type} (k : β → γ) {f : β → α → β} (h : ∀ b a, k (f b a) = k b) (l : List α) (b : β) :
    k (l.foldl f b) = k b := by
  induction l generalizing b with
  | nil => rfl
  | cons a t ih => exact (ih _).trans (h b a)

theorem map_map_subset {α β : Type} (k : α → β) {f : α → α} (l : List α) (h : ∀ x, k (f x) = k x) :
    (l.map f).map k ⊆ l.map k := by
  rw [List.map_map, show k ∘ f = k from funext h]
  exact List.Subset.refl _

theorem map_upd_subset {α β : Type} (k : α → β) {f : α → α} (p : α → Bool) (l : List α) (h : ∀ x, k (f x) = k x) :
    (upd p f l).map k ⊆ l.map k :=
  map_map_subset k l fun x => by split <;> simp [h]

theorem map_filter_subset {α β : Type} (k : α → β) (p : α → Bool) (l : List α) : (l.filter p).map k ⊆ l.map k :=
  List.map_subset k (List.filter_subset_self l)

/-- No group, workgroup, kernel, copy or image of t belongs to a context that had none of its kind in s; an image may hold workgroups that
were resident in s (R143). -/
structure NoNewWork (s t : State) : Prop where
  groups : t.groups.map Group.cx ⊆ s.groups.map Group.cx
  wgs : t.wgs.map Workgroup.cx ⊆ s.wgs.map Workgroup.cx
  kernels : t.kernels.map Kernel.cx ⊆ s.kernels.map Kernel.cx
  copies : t.copies.map Copy.cx ⊆ s.copies.map Copy.cx
  images : t.images.map Image.cx ⊆ s.images.map Image.cx ++ s.wgs.map Workgroup.cx

/-- What the work of contexts is read from. -/
def State.work (s : State) : List Group × List Workgroup × List Kernel × List Copy × List Image :=
  (s.groups, s.wgs, s.kernels, s.copies, s.images)

theorem NoNewWork.unchanged {s t : State} (h : t.work = s.work) : NoNewWork s t := by
  simp only [State.work, Prod.mk.injEq] at h
  obtain ⟨groups, wgs, kernels, copies, images⟩ := h
  constructor
  case images => rw [images]; exact List.subset_append_left _ _
  all_goals simp only [groups, wgs, kernels, copies, List.Subset.refl]

theorem NoNewWork.trans {s t u : State} (h : NoNewWork s t) (h' : NoNewWork t u) : NoNewWork s u where
  groups := List.Subset.trans h'.groups h.groups
  wgs := List.Subset.trans h'.wgs h.wgs
  kernels := List.Subset.trans h'.kernels h.kernels
  copies := List.Subset.trans h'.copies h.copies
  images := List.Subset.trans h'.images (List.append_subset.mpr ⟨h.images, List.Subset.trans h.wgs (List.subset_append_right _ _)⟩)

/-- What adds no work leaves a context without work. -/
theorem NoNewWork.noWork {s t : State} (h : NoNewWork s t) {cx : Nat} (hw : NoWork s cx) : NoWork t cx := by
  obtain ⟨groups, wgs, kernels, copies, images⟩ := hw
  have absent {α : Type} {k : α → Nat} {l l' : List α} (hs : l'.map k ⊆ l.map k) (hl : ∀ x ∈ l, k x ≠ cx) :
      ∀ x ∈ l', k x ≠ cx := by
    intro x hx e
    obtain ⟨y, hy, e'⟩ := List.mem_map.mp (hs (List.mem_map_of_mem hx))
    exact hl y hy (e'.trans e)
  refine ⟨absent h.groups groups, absent h.wgs wgs, absent h.kernels kernels, absent h.copies copies, fun im him e => ?_⟩
  rcases List.mem_append.mp (h.images (List.mem_map_of_mem him)) with hx | hx
  · obtain ⟨y, hy, e'⟩ := List.mem_map.mp hx
    exact images y hy (e'.trans e)
  · obtain ⟨y, hy, e'⟩ := List.mem_map.mp hx
    exact wgs y hy (e'.trans e)

/-! ## What leaves contexts, queues and registers alone -/

/-- The context but for the start of its watchdog (R85). -/
def Context.still (c : Context) : Context := { c with wdogFrom := 0 }

/-- From s to t the registers of the BAR and the queues of guests have not changed, no context has but for the start of its watchdog, and
no work is added. -/
structure SameHost (s t : State) : Prop extends NoNewWork s t where
  bar : t.bar = s.bar
  queues : ∀ q ∈ t.queues, q.iface ≠ hvIface → q ∈ s.queues
  ctxs : t.ctxs.map Context.still = s.ctxs.map Context.still

namespace SameHost

theorem unchanged {s t : State} (h : (t.work, t.bar, t.queues, t.ctxs) = (s.work, s.bar, s.queues, s.ctxs)) : SameHost s t := by
  simp only [Prod.mk.injEq] at h
  obtain ⟨work, bar, queues, ctxs⟩ := h
  exact { NoNewWork.unchanged work with bar := bar, queues := fun _ hq _ => queues ▸ hq, ctxs := congrArg (List.map Context.still) ctxs }

theorem refl (s : State) : SameHost s s := unchanged rfl

theorem trans {s t u : State} (h : SameHost s t) (h' : SameHost t u) : SameHost s u :=
  { h.toNoNewWork.trans h'.toNoNewWork with
    bar := h'.bar.trans h.bar, queues := fun q hq hi => h.queues q (h'.queues q hq hi) hi, ctxs := h'.ctxs.trans h.ctxs }

theorem ite {s a b : State} (c : Prop) [Decidable c] (ha : SameHost s a) (hb : SameHost s b) : SameHost s (if c then a else b) := by
  split
  · exact ha
  · exact hb

theorem foldl {α : Type} (f : State → α → State) (h : ∀ s a, SameHost s (f s a)) (l : List α) (s : State) : SameHost s (l.foldl f s) := by
  induction l generalizing s with
  | nil => exact refl s
  | cons a t ih => exact (h s a).trans (ih _)

/-- The same of a fold that carries something beside the state. -/
theorem foldl_fst {α β : Type} (f : State × β → α → State × β) (h : ∀ s a, SameHost s.1 (f s a).1) (l : List α) (s : State × β) :
    SameHost s.1 (l.foldl f s).1 := by
  induction l generalizing s with
  | nil => exact refl s.1
  | cons a t ih => exact (h s a).trans (ih _)

/-- A context is found again, with another start of its watchdog at most. -/
theorem ctx? {s t : State} (h : SameHost s t) (cx : Nat) : (t.ctx? cx).map Context.still = (s.ctx? cx).map Context.still := by
  have found (u : State) : (u.ctx? cx).map Context.still = (u.ctxs.map Context.still).find? fun c => c.cxid == cx := by
    rw [List.find?_map]
    rfl
  rw [found, found, h.ctxs]

theorem ctx?_some {s t : State} (h : SameHost s t) {cx : Nat} {c : Context} (hc : s.ctx? cx = some c) :
    ∃ n, t.ctx? cx = some { c with wdogFrom := n } := by
  have hs := h.ctx? cx
  rw [hc, Option.map_some, Option.map_eq_some_iff] at hs
  obtain ⟨c', hc', e⟩ := hs
  refine ⟨c'.wdogFrom, hc'.trans (congrArg some ?_)⟩
  have : ({ c'.still with wdogFrom := c'.wdogFrom } : Context) = { c.still with wdogFrom := c'.wdogFrom } := by rw [e]
  exact this

/-! ### Groups and operations -/

theorem updCore (s : State) (n : Nat) (f : Core → Core) : SameHost s (s.updCore n f) := unchanged rfl

theorem updGroup (s : State) (r : GRef) (f : Group → Group) (hf : ∀ g, (f g).cx = g.cx) :
    SameHost s (s.updGroup r f) :=
  { refl s with groups := map_upd_subset _ _ _ hf }

theorem undoScatter (s : State) (r : GRef) : SameHost s (s.undoScatter r) := by
  rw [State.undoScatter]
  split
  · exact refl s
  · refine ite _ (refl s) { refl s with wgs := map_upd_subset _ _ _ fun w => ?_ }
    exact foldl_proj Workgroup.cx (fun w e => by split <;> rfl) _ w

theorem freeGroup (s : State) (r : GRef) : SameHost s (s.freeGroup r) :=
  (undoScatter s r).trans { refl (s.undoScatter r) with groups := map_filter_subset _ _ _ }

theorem sendSh (s : State) (m : ShMsg) : SameHost s (s.sendSh m) := unchanged rfl

theorem releaseSheaf (s : State) (g : Group) : SameHost s (s.releaseSheaf g) :=
  (foldl _ (fun s _ => sendSh s _) _ s).trans (foldl _ (fun s _ => sendSh s _) _ _)

theorem settle (s : State) (r : GRef) : SameHost s (s.settle r) := by
  rw [State.settle]
  split
  · exact refl s
  · exact ite _ ((freeGroup s r).trans (unchanged rfl)) (refl s)

theorem finishOp (s : State) (id : Nat) : SameHost s (s.finishOp id) := by
  unfold State.finishOp
  split
  · exact refl s
  next o _ =>
    extract_lets s1 s2
    have left : SameHost s s1 :=
      { refl s with images := List.subset_append_of_subset_left _ (map_map_subset _ _ fun _ => by rfl) }
    have used : SameHost s1 s2 := ite _ (refl s1) (updCore s1 _ _)
    exact (left.trans used).trans (settle s2 _)

theorem withOpGroup (s : State) (o : PendOp) (f : Group → Group) (hf : ∀ g, (f g).cx = g.cx) :
    SameHost s (s.withOpGroup o f) := by
  unfold State.withOpGroup
  refine ite _ (updGroup s _ f hf) { refl s with images := List.subset_append_of_subset_left _ (map_map_subset _ _ fun im => ?_) }
  split <;> rfl

theorem mapOp (s : State) (id : Nat) (f : PendOp → PendOp) : SameHost s (s.mapOp id f) :=
  { refl s with images := List.subset_append_of_subset_left _ (map_map_subset _ _ fun _ => by rfl) }

theorem boardDone (s : State) (op : Nat) (lowest : Bool) (lap code : Nat) : SameHost s (s.boardDone op lowest lap code) := by
  unfold State.boardDone
  split
  · exact refl s
  · split
    · extract_lets w s1
      have hs1 : SameHost s s1 := ite _ (withOpGroup s _ _ fun g => g.setS_cx _ _) (refl s)
      exact hs1.trans (ite _ (mapOp s1 _ _) (ite _ (mapOp s1 _ _) (finishOp s1 op)))
    · exact refl s

theorem preemptBoards (s : State) (r : GRef) : SameHost s (s.preemptBoards r) := by
  unfold State.preemptBoards
  extract_lets bs as s1 s2 s3
  have hs2 : SameHost s s2 := unchanged rfl
  exact (hs2.trans (foldl _ (fun s _ => boardDone s _ _ _ _) _ s2)).trans (foldl _ (fun s _ => finishOp s _) _ s3)

theorem dropGroup (s : State) (r : GRef) (keep : OpKind → Bool) : SameHost s (s.dropGroup r keep) := by
  unfold State.dropGroup
  split
  · exact refl s
  next g _ =>
    extract_lets s0 dead lost s1 ops s2
    have hs2 : SameHost s0 s2 := { refl s0 with groups := map_filter_subset _ _ _ }
    exact ((releaseSheaf s g).trans hs2).trans (freeGroup s2 r)

theorem killGroup (s : State) (r : GRef) : SameHost s (s.killGroup r) := dropGroup s r _

theorem endGroup (s : State) (r : GRef) : SameHost s (s.endGroup r) := dropGroup s r _

theorem dropImages (s : State) (p : Image → Bool) : SameHost s (s.dropImages p) := by
  unfold State.dropImages
  extract_lets gone s1 dead lost
  exact (foldl _ (fun s g => releaseSheaf s g) _ s).trans
    { refl s1 with images := List.subset_append_of_subset_left _ (map_filter_subset _ _ _) }

/-! ### Flashback (R143) -/

theorem fillRec (s : State) (core q : Nat) : SameHost s (s.fillRec core q) := by
  rw [State.fillRec]
  split
  · exact refl s
  · split
    · exact refl s
    · exact updCore s _ _

theorem freeWatches (s : State) (ids : List Nat) : SameHost s (s.freeWatches ids) := by
  unfold State.freeWatches
  exact unchanged rfl

/-- The image of a set holds workgroups of the context that were resident. -/
theorem flashbackSet (s : State) (cx : Nat) (reason : SaveReason) (p : Workgroup → Bool) : SameHost s (s.flashbackSet cx reason p) := by
  unfold State.flashbackSet
  extract_lets s' wgs mine ending left refs filled s1 gs s2 im s3 s4
  have hs' : SameHost s s' := foldl _ (fun s g => ite _ (undoScatter s _) (refl s)) _ s
  have hleft : SameHost s' left := foldl _ (fun s r => endGroup s r) _ s'
  have hfilled : SameHost left filled := foldl _ (fun s r => foldl _ (fun s e => ite _ (fillRec s _ _) (refl s)) _ s) _ left
  have hs1 : SameHost filled s1 := foldl _ (fun s r => preemptBoards s r) _ filled
  have hs2 : SameHost s1 s2 := foldl _ (fun s g => foldl _ (fun s q => sendSh s _) _ s) _ s1
  have hs3 : SameHost s2 s3 := { refl s2 with groups := map_filter_subset _ _ _, copies := map_map_subset _ _ fun c => by split <;> rfl }
  have freed : SameHost s3 (s3.freeWatches ((s2.ops.filter fun o => refs.contains o.grp).map (·.id))) := freeWatches s3 _
  have hs4 : SameHost s s4 := (((((hs'.trans hleft).trans hfilled).trans hs1).trans hs2).trans hs3).trans
    (freed.trans (foldl _ (fun s r => freeGroup s r) _ _))
  have saved : wgs.isEmpty = false → cx ∈ s.wgs.map Workgroup.cx := by
    intro hne
    obtain ⟨w, hw⟩ := List.exists_mem_of_ne_nil wgs (by simpa using hne)
    obtain ⟨hmem, hsel⟩ := List.mem_filter.mp hw
    have hcx : w.cx = cx := by simp only [Bool.and_eq_true, beq_iff_eq] at hsel; exact hsel.1.1
    exact hs'.wgs (hcx ▸ List.mem_map_of_mem hmem)
  have him : im.cx = cx := rfl
  clear_value im s4
  suffices images : (if wgs.isEmpty then s4.images else s4.images ++ [im]).map Image.cx ⊆ s.images.map Image.cx ++ s.wgs.map Workgroup.cx from
    { groups := hs4.groups, wgs := List.Subset.trans (map_filter_subset _ _ _) hs4.wgs, kernels := hs4.kernels, copies := hs4.copies,
      images := images, bar := hs4.bar, queues := hs4.queues, ctxs := hs4.ctxs }
  split
  · exact hs4.images
  next hne =>
    rw [List.map_append, List.append_subset]
    refine ⟨hs4.images, ?_⟩
    simp [him, saved (by simpa using hne)]

theorem flashback (s : State) (cx : Nat) (reason : SaveReason) (p : Workgroup → Bool) : SameHost s (s.flashback cx reason p) :=
  foldl _ (fun s _ => ite _ (flashbackSet s cx reason _) (refl s)) _ s

end SameHost
end Sys2Proof.Machine
end

section
/-! PROOFS. What leaves the host's side of a context alone: circuits (R280, R283), writes at a home, walks and engines (R191, R213, R316).
-/

namespace Sys2Proof.Machine
namespace SameHost

/-! ### Circuits (R280, R283) -/

theorem kernelsAdvance_cx {l l' : List Kernel} (h : KernelsAdvance l l') : l'.map Kernel.cx ⊆ l.map Kernel.cx := by
  intro x hx
  obtain ⟨k', hk', rfl⟩ := List.mem_map.mp hx
  obtain ⟨k, hk, hadv⟩ := h.source k' hk'
  exact hadv.cx ▸ List.mem_map_of_mem hk

/-- A change of contexts that moves no more than the start of a watchdog. -/
theorem map_still_upd {f : Context → Context} (p : Context → Bool) (l : List Context) (h : ∀ c, (f c).still = c.still) :
    (upd p f l).map Context.still = l.map Context.still := by
  rw [upd, List.map_map]
  refine List.map_congr_left fun c _ => ?_
  rw [Function.comp_apply]
  split
  · exact h c
  · rfl

theorem promote (s : State) (cx : Nat) : SameHost s (s.promote cx) := by
  have kernels := kernelsAdvance_cx (ClockStands.promote s cx).kernels
  unfold State.promote at kernels ⊢
  extract_lets at kernels ⊢
  split at kernels
  next h =>
    rw [if_pos h]
    exact { refl s with kernels := kernels, ctxs := map_still_upd _ _ fun _ => rfl }
  next h =>
    rw [if_neg h]
    exact { refl s with kernels := kernels }

theorem meet (s : State) (cx : Nat) (p : Dep → Bool) : SameHost s (s.meet cx p) := by
  unfold State.meet
  extract_lets ks
  have hks : SameHost s { s with kernels := ks } := { refl s with kernels := map_upd_subset _ _ _ fun _ => by rfl }
  exact hks.trans (promote _ cx)

theorem endBoard (s : State) (core n lap code : Nat) : SameHost s (s.endBoard core n lap code) := by
  unfold State.endBoard
  split
  · exact refl s
  · exact (updCore s _ _).trans (boardDone _ _ _ _ _)

theorem endBoards (s : State) (c : Circuit) : SameHost s (s.endBoards c) := by
  unfold State.endBoards
  refine ite _ (refl s) (foldl _ (fun s co => foldl _ (fun s e => ?_) _ s) _ s)
  split
  · exact refl s
  · exact ite _ (endBoard s _ _ _ _) (refl s)

theorem lapTests (s : State) (c : Circuit) : SameHost s (s.lapTests c) := by
  unfold State.lapTests
  extract_lets s1 mine
  refine (meet s c.cx _).trans (foldl _ (fun s o => ?_) _ s1)
  split
  · exact (withOpGroup s o _ fun g => g.setS_cx _ _).trans (finishOp _ o.id)
  · exact refl s

theorem sweepCircuit (s : State) (c : Circuit) : SameHost s (s.sweepCircuit c) := ite _ (unchanged rfl) (refl s)

theorem updCirc (s : State) (id : Nat) (f : Circuit → Circuit) : SameHost s (s.updCirc id f) := unchanged rfl

theorem stopCircuit (s : State) (c : Circuit) (st : CircSt) : SameHost s (s.stopCircuit c st) :=
  (((updCirc s _ _).trans (endBoards _ _)).trans (lapTests _ _)).trans (sweepCircuit _ _)

theorem clearCircuits (s : State) (cx : Nat) : SameHost s (s.clearCircuits cx) := foldl _ (fun s c => stopCircuit s c .removed) _ s

theorem resumeCircuits (s : State) (cx : Nat) : SameHost s (s.resumeCircuits cx) := by
  unfold State.resumeCircuits
  extract_lets s1
  have hs1 : SameHost s s1 := by
    have moved (p : Circuit → Bool) (f : Circuit → Circuit) : SameHost s { s with circuits := upd p f s.circuits } := unchanged rfl
    exact (moved _ _).trans (foldl _ (fun s c => lapTests s _) _ _)
  exact hs1.trans (foldl _ (fun s c => stopCircuit s c .ended) _ s1)

theorem stopCircuits (s : State) (cx : Nat) : SameHost s (s.stopCircuits cx) := unchanged rfl

/-! ### Writes at a home, walks and engines (R191, R213, R316) -/

theorem emit (s : State) (e : HostEvent) : SameHost s (s.emit e) := unchanged rfl

theorem setMem (s : State) (m : List Host.Cell) : SameHost s { s with mem := m } := unchanged rfl

theorem setMeta (s : State) (n : Nat) (m : LineMeta) : SameHost s (s.setMeta n m) := unchanged rfl

theorem retireFrame (s : State) (f : Nat) : SameHost s (s.retireFrame f) := by
  unfold State.retireFrame
  exact ite _ (refl s) (ite _ (unchanged rfl) (ite _ (refl s) (unchanged rfl)))

theorem noteRead (s : State) (n : Nat) (dom : Option (Key × BitVec 16)) (kds : Nat) : SameHost s (s.noteRead n dom kds) := by
  unfold State.noteRead
  extract_lets m s1 s2
  have hs2 : SameHost s s2 := ite _ (setMeta s _ _) ((setMeta s _ _).trans (emit _ _))
  exact ite _ (ite _ (hs2.trans (retireFrame _ _)) hs2) (ite _ (unchanged rfl) (refl s))

theorem mergePhys (s : State) (n : Nat) (dom : Option (Key × BitVec 16)) (kds : Nat) (d : LineData) (m : LineMask) :
    SameHost s (s.mergePhys n dom kds d m).1 := by
  unfold State.mergePhys
  extract_lets s1 lm lm' bytes
  have hs1 : SameHost s s1 := ite _ (noteRead s _ _ _) (refl s)
  split
  · exact hs1
  · exact hs1.trans ((setMem s1 _).trans (setMeta _ _ _))

theorem replyTo (s : State) (cx src : Nat) (vlink : BitVec 32) (lb : Bool) (b : PktBody) : SameHost s (s.replyTo cx src vlink lb b) :=
  ite _ (unchanged rfl) (unchanged rfl)

theorem wake (s : State) (k : LineKey) : SameHost s (s.wake k) := by
  unfold State.wake
  extract_lets hits s1
  have hs1 : SameHost s s1 := { refl s with images := List.subset_append_of_subset_left _ (map_map_subset _ _ fun _ => by rfl) }
  exact hs1.trans (foldl _ (fun s h => replyTo s _ _ _ _ _) _ s1)

theorem invalCopy (s : State) (k : LineKey) (c : Option Nat) (n : Nat) : SameHost s (s.invalCopy k c n) := by
  cases c
  · exact unchanged rfl
  · exact unchanged rfl

theorem dropCopies (s : State) (k : LineKey) : SameHost s (s.dropCopies k) :=
  foldl (fun (s : State) (c : Option Nat × Nat) => s.invalCopy k c.1 c.2) (fun s c => invalCopy s k c.1 c.2) _ s

theorem l2Evict (s : State) (n : Nat) : SameHost s (s.l2Evict n) := by
  unfold State.l2Evict
  refine ite _ (refl s) ?_
  dsimp only
  refine ite _ (refl s) ?_
  have drawn : SameHost s { s with freeCount := s.freeCount + 1 } := unchanged rfl
  split
  next v _ =>
    have dropped := foldl (fun (s : State) (c : Option Nat × Nat) => if c.1.isNone then s.invalCopy v none c.2 else s)
      (fun s c => ite _ (invalCopy s v none c.2) (refl s))
    exact (drawn.trans (dropped _ _)).trans (unchanged rfl)
  · split
    · exact drawn
    · exact drawn.trans (unchanged rfl)

theorem l2Touch (s : State) (k : LineKey) (w : Bool) : SameHost s (s.l2Touch k w) := by
  have room : SameHost s (if (s.l2? k).isSome then s else s.l2Evict (s.homeSlice k)) := ite _ (refl s) (l2Evict s _)
  exact room.trans (unchanged rfl)

theorem homeWrite (s : State) (k : LineKey) (d : LineData) (m : LineMask) : SameHost s (s.homeWrite k d m).1 := by
  unfold State.homeWrite
  extract_lets s1
  have hs1 : SameHost s s1 := dropCopies s k
  split
  · exact hs1
  next n _ =>
    have merged := mergePhys s1 n (s1.domain k.cx k.kds) k.kds d m
    split
    next s20 ok e =>
      rw [e] at merged
      extract_lets lm s2 s3
      have hs2 : SameHost s20 s2 := ite _ (setMeta s20 _ _) (refl s20)
      have hs3 : SameHost s2 s3 := unchanged rfl
      exact (((hs1.trans merged).trans hs2).trans hs3).trans ((l2Touch s3 k true).trans (wake _ k))

theorem noteWalk (s : State) (c : Context) (va : Nat) : SameHost s (s.noteWalk c va) := foldl _ (fun s _ => noteRead s _ _ _) _ s

theorem markEntry (s : State) (c : Context) (ea : Nat) (p : Pte) (d : Bool) : SameHost s (s.markEntry c ea p d) :=
  ite _ (refl s) (homeWrite s _ _ _)

theorem walk (s : State) (cx va : Nat) (a : Acc) : SameHost s (s.walk cx va a).1 := by
  rcases walk_cases s cx va a with e | ⟨c, -, e⟩ | ⟨c, ea, p, d, -, -, e⟩ <;> rw [e]
  · exact refl s
  · exact noteWalk s c va
  · exact (noteWalk s c va).trans (markEntry _ c ea p d)

theorem engineKey (s : State) (cx va : Nat) (a : Acc) : SameHost s (s.engineKey cx va a).1 := by
  have hw := walk s cx va a
  unfold State.engineKey
  split
  · split
    next e => rw [e] at hw; exact hw
    next e => rw [e] at hw; exact hw
  all_goals exact refl s

theorem engineNow (s : State) (cx va : Nat) (a : Acc) : SameHost s (s.engineNow cx va a).1 := by
  have hk := engineKey s cx va a
  unfold State.engineNow
  split
  next e => rw [e] at hk; exact hk
  next s0 e =>
    rw [e] at hk
    extract_lets s1
    have hs1 : SameHost s s1 := hk.trans (unchanged rfl)
    split
    · exact hs1
    · split
      · exact hs1
      · dsimp only
        split
        · exact hs1
        · exact hs1.trans (markEntry s1 _ _ _ _)
  next e => rw [e] at hk; exact hk

theorem homeNote (s : State) (k : LineKey) : SameHost s (s.homeNote k) := by
  unfold State.homeNote
  split
  · exact refl s
  · exact noteRead s _ _ _

theorem engineRead (s : State) (cx va n : Nat) : SameHost s (s.engineRead cx va n).1 := by
  unfold State.engineRead
  refine foldl_fst _ (fun q p => ?_) _ (s, some [])
  have hk := engineNow q.1 cx p.1 .read
  dsimp only
  split
  · exact refl q.1
  · split
    next e => rw [e] at hk; exact hk
    next s1 k e =>
      rw [e] at hk
      split <;> exact hk.trans (homeNote s1 k)

theorem engineWrite (s : State) (cx va : Nat) (bs : List Byte) : SameHost s (s.engineWrite cx va bs).1 := by
  unfold State.engineWrite
  refine foldl_fst _ (fun q p => ?_) _ (s, true)
  have hk := engineNow q.1 cx p.1 .write
  dsimp only
  split
  next e => rw [e] at hk; exact hk
  next s1 k e =>
    rw [e] at hk
    exact hk.trans (homeWrite s1 k _ _)

theorem writeRecord (s : State) (cx : Nat) (chain : List Rcb) (f : RecFields) : SameHost s (s.writeRecord cx chain f) := by
  unfold State.writeRecord
  split
  · exact emit s _
  next r _ =>
    dsimp only
    have hr := engineRead s cx (r.addr + 0x24) 4
    split
    next s1 e =>
      rw [e] at hr
      exact hr.trans (emit s1 _)
    next s1 bs e =>
      rw [e] at hr
      split
      · exact hr.trans ((engineWrite s1 _ _ _).trans (engineWrite _ _ _ _))
      · exact hr.trans ((engineWrite s1 _ _ _).trans ((engineWrite _ _ _ _).trans (emit _ _)))

end SameHost
end Sys2Proof.Machine
end

section
/-! PROOFS. What keeps a context's record, generation and device-side queue: kernels, faults of a context, packets and pod requests. -/

namespace Sys2Proof.Machine

namespace SameHost

theorem mapWriter (s : State) (cx : Nat) (w : Writer) (f : Group → Group) (hf : ∀ g, (f g).cx = g.cx) :
    SameHost s (s.mapWriter cx w f) :=
  { refl s with groups := map_upd_subset _ _ _ hf,
                images := List.subset_append_of_subset_left _ (map_map_subset _ _ fun _ => by rfl) }

theorem raiseLater (s : State) (o : PendOp) (cause : Cause) (lanes : LaneMask) (addr detail : Nat) :
    SameHost s (s.raiseLater o cause lanes addr detail) := withOpGroup s o _ fun _ => by rfl

theorem failOp (s : State) (o : PendOp) (cause : Cause) (lanes : LaneMask) (addr detail : Nat) :
    SameHost s (s.failOp o cause lanes addr detail) := (raiseLater s o _ _ _ _).trans (finishOp _ _)

/-- Copies that change keep their context. -/
theorem updCopies (s : State) (p : Copy → Bool) (f : Copy → Copy) (hf : ∀ c, (f c).cx = c.cx) :
    SameHost s { s with copies := upd p f s.copies } := { refl s with copies := map_upd_subset _ _ _ hf }

theorem flagCopy (s : State) (id bit : Nat) : SameHost s (s.flagCopy id bit) := updCopies s _ _ fun _ => by rfl

theorem copyRefused (s : State) (c bit : Nat) : SameHost s (s.copyRefused c bit) := (flagCopy s c bit).trans (updCopies _ _ _ fun _ => by rfl)

end SameHost

/-! ## What leaves a context its binding, its generation and its device-side queue -/

/-- What no event but those of R72 and an ENQ changes in a context. -/
def Context.kept (c : Context) : Nat × BindRec × BitVec 16 × List DsqEntry := (c.cxid, c.bindRec, c.gen, c.dsq)

/-- From s to t no work is added, the registers of the BAR have not changed, and context cx keeps what Context.kept names. -/
structure Quiet (cx : Nat) (s t : State) : Prop extends NoNewWork s t where
  bar : t.bar = s.bar
  kept : (t.ctx? cx).map Context.kept = (s.ctx? cx).map Context.kept

theorem SameHost.quiet {s t : State} (h : SameHost s t) (cx : Nat) : Quiet cx s t :=
  { h.toNoNewWork with
    bar := h.bar
    kept := by
      have e := congrArg (Option.map Context.kept) (h.ctx? cx)
      rwa [Option.map_map, Option.map_map] at e }

namespace Quiet

variable {cx : Nat}

theorem unchanged {s t : State} (h : (t.work, t.bar, t.ctxs) = (s.work, s.bar, s.ctxs)) : Quiet cx s t := by
  simp only [Prod.mk.injEq] at h
  obtain ⟨work, bar, ctxs⟩ := h
  exact { NoNewWork.unchanged work with bar := bar, kept := by rw [State.ctx?, State.ctx?, ctxs] }

theorem refl (s : State) : Quiet cx s s := unchanged rfl

theorem trans {s t u : State} (h : Quiet cx s t) (h' : Quiet cx t u) : Quiet cx s u :=
  { h.toNoNewWork.trans h'.toNoNewWork with bar := h'.bar.trans h.bar, kept := h'.kept.trans h.kept }

theorem ite {s a b : State} (c : Prop) [Decidable c] (ha : Quiet cx s a) (hb : Quiet cx s b) : Quiet cx s (if c then a else b) := by
  split
  · exact ha
  · exact hb

theorem foldl {α : Type} (f : State → α → State) (h : ∀ s a, Quiet cx s (f s a)) (l : List α) (s : State) : Quiet cx s (l.foldl f s) := by
  induction l generalizing s with
  | nil => exact refl s
  | cons a t ih => exact (h s a).trans (ih _)

/-- The context is found again. -/
theorem ctx? {s t : State} (h : Quiet cx s t) {c : Context} (hc : s.ctx? cx = some c) : ∃ c', t.ctx? cx = some c' ∧ c'.kept = c.kept := by
  have e := h.kept
  rwa [hc, Option.map_some, Option.map_eq_some_iff] at e

theorem updCtx (s : State) (x : Nat) (f : Context → Context) (hf : ∀ c, (f c).kept = c.kept) :
    Quiet cx s (s.updCtx x f) := by
  refine { refl (cx := cx) s with kept := ?_ }
  have hid (c : Context) : (f c).cxid = c.cxid := congrArg Prod.fst (hf c)
  rw [State.ctx?, State.updCtx, find?_upd _ _ _ _ fun c _ => by rw [hid], Option.map_map]
  refine Option.map_congr fun c _ => ?_
  rw [Function.comp_apply]
  split
  · exact hf c
  · rfl

/-! ### Kernels and queues (R88, R98, R103) -/

theorem updQueue (s : State) (n : Nat) (f : Queue → Queue) : Quiet cx s (s.updQueue n f) := unchanged rfl

theorem mapQueues (s : State) (x : Nat) (f : Queue → Queue) : Quiet cx s (s.mapQueues x f) := unchanged rfl

theorem cmdDone (s : State) (iface seq : Nat) : Quiet cx s (s.cmdDone iface seq) := by
  unfold State.cmdDone
  split
  · exact refl s
  · split
    · exact refl s
    · exact ite _ ((updQueue s _ _).trans ((SameHost.emit _ _).quiet cx)) (updQueue s _ _)

theorem kernelEnded (s : State) (x kid : Nat) (done : Bool) : Quiet cx s (s.kernelEnded x kid done) := by
  unfold State.kernelEnded
  split
  · exact refl s
  next k _ =>
    extract_lets s1 s2 s3
    have hs1 : Quiet cx s s1 := { refl (cx := cx) s with kernels := map_filter_subset _ _ _ }
    have hs2 : Quiet cx s1 s2 := by
      cases hl : k.launchedBy with
      | none => simpa only [s2, hl] using refl s1
      | some l => simpa only [s2, hl] using cmdDone s1 l.1 l.2
    have hs3 : Quiet cx s2 s3 := ite _ (updCtx s2 _ _ fun _ => by rfl) (refl s2)
    exact ((hs1.trans hs2).trans hs3).trans ((SameHost.meet s3 x _).quiet cx)

theorem tryDone (s : State) (x kid : Nat) : Quiet cx s (s.tryDone x kid) := by
  unfold State.tryDone
  split
  · exact refl s
  · have left : Quiet cx s { s with wgs := s.wgs.filter fun w => !(w.cx == x && w.kernel == kid) } :=
      { refl (cx := cx) s with wgs := map_filter_subset _ _ _ }
    exact ite _ (left.trans (kernelEnded _ x kid true)) (refl s)

theorem updWg (s : State) (x kernel l : Nat) (f : Workgroup → Workgroup) (hf : ∀ w, (f w).cx = w.cx) :
    Quiet cx s (s.updWg x kernel l f) := { refl (cx := cx) s with wgs := map_upd_subset _ _ _ hf }

theorem updKernel (s : State) (x kid : Nat) (f : Kernel → Kernel) (hf : ∀ k, (f k).cx = k.cx) :
    Quiet cx s (s.updKernel x kid f) := { refl (cx := cx) s with kernels := map_upd_subset _ _ _ hf }

theorem countTrigger (s : State) (x kernel l : Nat) : Quiet cx s (s.countTrigger x kernel l) := by
  unfold State.countTrigger
  split
  · refine ite _ (refl s) ?_
    extract_lets n full s1
    have hs1 : Quiet cx s s1 := (updWg s _ _ _ _ fun _ => by rfl).trans (updKernel _ _ _ _ fun _ => by rfl)
    exact ite _ (hs1.trans ((SameHost.meet s1 _ _).quiet cx)) hs1
  · exact refl s

theorem takeExit (s : State) (w : Workgroup) : Quiet cx s (s.takeExit w) := by
  unfold State.takeExit
  refine ite _ (refl s) ?_
  exact (((countTrigger s _ _ _).trans (updWg _ _ _ _ _ fun _ => by rfl)).trans (updKernel _ _ _ _ fun _ => by rfl)).trans (tryDone _ _ _)

theorem abortKernel (s : State) (x kid : Nat) : Quiet cx s (s.abortKernel x kid) := by
  unfold State.abortKernel
  extract_lets s'
  have hs' : Quiet cx s s' := foldl _ (fun s w => takeExit s w) _ s
  split
  · exact hs'
  next gs fromWg kept s1 s2 s3 _ _ _ =>
    have hkept : SameHost s' kept := SameHost.updCopies s' _ _ fun _ => by rfl
    have hs1 : SameHost kept s1 := SameHost.foldl _ (fun s r => .killGroup s r) _ kept
    have hs2 : SameHost s1 s2 := .dropImages s1 _
    clear_value s2
    have hs3 : SameHost s2 s3 := { SameHost.refl s2 with wgs := map_filter_subset _ _ _ }
    exact (hs'.trans ((((hkept.trans hs1).trans hs2).trans hs3).quiet cx)).trans (kernelEnded s3 x kid false)

/-! ### Faults (R85, R157, R158) -/

theorem pauseQueues (s : State) (x : Nat) : Quiet cx s (s.pauseQueues x) :=
  (mapQueues s x _).trans (updCtx _ _ _ fun _ => by rfl)

theorem contextFault (s : State) (x cause : Nat) : Quiet cx s (s.contextFault x cause) := by
  unfold State.contextFault
  extract_lets s'
  have hs' : Quiet cx s s' := unchanged rfl
  split
  · exact refl s
  next s1 _ _ _ =>
    refine ite _ ?_ hs'
    have hs1 : Quiet cx s' s1 := (pauseQueues s' x).trans (((SameHost.flashback _ _ _ _).trans (.stopCircuits _ _)).quiet cx)
    exact (hs'.trans hs1).trans ((updCtx s1 _ _ fun _ => by rfl).trans ((SameHost.emit _ _).quiet cx))

theorem kernelFault (s : State) (x kernel : Nat) (f : RecFields) : Quiet cx s (s.kernelFault x kernel f) := by
  unfold State.kernelFault
  extract_lets chain s1
  have hs1 : Quiet cx s s1 := (SameHost.writeRecord s x chain f).quiet cx
  exact ite _ hs1 (ite _ (hs1.trans (abortKernel s1 _ _)) (ite _ (hs1.trans (contextFault s1 _ _)) hs1))

theorem impStore (s : State) (si : Site) (cause addr : Nat) : Quiet cx s (s.impStore si cause addr) :=
  kernelFault s si.cx si.kernel { siteFields 1 si with exited := !s.siteLive si, cause := 2 ^ cause, addr := addr }

/-! ### Packets of the virtual pod (R331, R336, R341) -/

theorem spend (s : State) (x : Nat) (cls : List Nat) (n : Nat) : Quiet cx s (s.spend x cls n) :=
  foldl _ (fun s _ => updCtx s x _ fun c => by dsimp only; split <;> rfl) cls s

theorem takeRequest {s t : State} {x : Nat} {cls : List Nat} {n : Nat} (h : s.takeRequest x cls n = some t) : Quiet cx s t := by
  unfold State.takeRequest at h
  split at h
  · exact Option.some.inj h ▸ spend s x cls n
  · cases h

theorem sealPkt (s : State) (k : SentPkt) : Quiet cx s (s.sealPkt k) := by
  unfold State.sealPkt
  split
  · exact refl s
  · refine ite _ (Quiet.trans (unchanged (by rfl)) (spend _ _ _ _)) ?_
    split
    · exact refl s
    · refine ite _ (refl s) ?_
      extract_lets e pkt k1 s1 s2
      have hs2 : Quiet cx s s2 := Quiet.trans (Quiet.trans (unchanged (by rfl)) (spend _ _ _ _)) (updCtx s1 _ _ fun _ => by rfl)
      exact ite _ (hs2.trans ((SameHost.emit s2 _).quiet cx)) hs2

theorem sendNow (s : State) (k : SentPkt) : Quiet cx s (s.sendNow k) := ite _ (refl s) (ite _ (refl s) (sealPkt s k))

theorem podSend (s : State) (x dest named : Nat) (body : PktBody) : Quiet cx s (s.podSend x dest named body).1 := by
  unfold State.podSend
  split
  · exact refl s
  · extract_lets mk put
    split
    · exact unchanged rfl
    · split
      · exact refl s
      · exact Quiet.trans (unchanged (by rfl)) (sendNow _ _)

theorem seeVersion (s : State) (x sheaf w : Nat) : Quiet cx s (s.seeVersion x sheaf w) :=
  ite _ (refl s) ((updCtx s x _ fun _ => by rfl).trans ((SameHost.meet _ _ _).quiet cx))

theorem shReply (s0 : State) (m : ShMsg) (ver0 st : Nat) : Quiet cx s0 (s0.shReply m ver0 st) := by
  unfold State.shReply
  dsimp only
  have drawn : Quiet cx s0 (if shVerFree m.kind st then s0.drawNat else (ver0, s0)).2 := by
    split
    · exact unchanged rfl
    · exact refl s0
  generalize (if shVerFree m.kind st then s0.drawNat else (ver0, s0)) = d at drawn
  obtain ⟨ver, s⟩ := d
  refine drawn.trans ?_
  have dropped (c : Prop) [Decidable c] (msg : ShMsg) : SameHost s (if c then s.sendSh msg else s) := .ite _ (.sendSh s _) (.refl s)
  dsimp only
  split
  next c _ =>
    split
    · refine SameHost.quiet (SameHost.trans ?_ (.updCopies _ _ _ fun x => ?_)) cx
      · exact .ite _ (.sendSh s _) (.ite _ (SameHost.mapWriter s _ _ _ fun _ => by rfl) (.refl s))
      · split <;> rfl
    all_goals exact (SameHost.updCopies s _ _ fun _ => by rfl).quiet cx
  · split
    case h_1 =>
      refine SameHost.quiet ((dropped _ _).trans (.mapWriter _ _ _ _ fun g => ?_)) cx
      split <;> rfl
    case h_2 => exact ite _ (seeVersion s _ _ _) ((SameHost.mapWriter s m.cx m.writer _ fun _ => by rfl).quiet cx)
    case h_3 =>
      split
      · exact (dropped _ _).quiet cx
      · split
        next d _ _ =>
          refine SameHost.quiet (((dropped _ _).trans (.withOpGroup _ _ _ fun g => ?_)).trans (.finishOp _ _)) cx
          have written : (g.setS d (sheafWord m.sheaf ver st)).cx = g.cx := g.setS_cx _ _
          split <;> exact written
        · exact refl s
    case h_4 =>
      split
      · exact refl s
      · split
        · exact ((SameHost.withOpGroup s _ _ fun g => g.setS_cx _ _).trans (.finishOp _ _)).quiet cx
        · exact refl s
    all_goals exact refl s

theorem failAs (s : State) (r : PodReq) (cause : Nat) : Quiet cx s (s.failAs r cause) := by
  unfold State.failAs
  split
  case h_1 => exact unchanged rfl
  case h_2 => exact (impStore s _ _ _).trans ((SameHost.updCore _ _ _).quiet cx)
  case h_3 => exact (SameHost.mapOp s _ _).quiet cx
  case h_4 =>
    split
    · exact refl s
    · exact ((SameHost.raiseLater s _ _ _ _ _).trans (.finishOp _ _)).quiet cx
  case h_5 => exact ite _ (shReply s _ _ _) (shReply s _ _ _)
  case h_6 =>
    split
    · exact refl s
    · exact Quiet.trans (unchanged (by rfl)) (impStore _ _ _ _)
  case h_7 =>
    split
    · exact refl s
    · exact ((SameHost.raiseLater s _ _ _ _ _).trans (.finishOp _ _)).quiet cx
  case h_8 => exact ((SameHost.flagCopy s _ _).trans (.updCopies _ _ _ fun _ => by rfl)).quiet cx
  case h_9 => exact unchanged rfl
  case h_10 =>
    extract_lets s3
    have hs3 : Quiet cx s s3 := (SameHost.copyRefused s _ _).quiet cx
    split
    · exact hs3
    · exact hs3.trans (impStore s3 _ _ _)

theorem podRequest (s : State) (x dest addr : Nat) (kind : ReqKind) (body : Nat → PktBody) :
    Quiet cx s (s.podRequest x dest addr kind body) := by
  unfold State.podRequest
  extract_lets r
  have sent : Quiet cx s (({ s with nextId := s.nextId + 1 } : State).podSend x dest 0 (body r.id)).1 :=
    Quiet.trans (unchanged (by rfl)) (podSend _ _ _ _ _)
  split
  next s2 e => rw [e] at sent; exact sent.trans (unchanged rfl)
  next s2 st _ e => rw [e] at sent; exact sent.trans (failAs s2 r _)

end Quiet
end Sys2Proof.Machine
end

section
/-! PROOFS. The work of a context is discarded (spec/04_context.md R72, R86, R97), and a context is erased (R75, R229, R342, R347). -/

namespace Sys2Proof.Machine

/-! ## The work of a context is discarded (R72, R86, R97) -/

theorem sendSh_groups (s : State) (m : ShMsg) : (s.sendSh m).groups = s.groups := rfl

theorem sendSh_images (s : State) (m : ShMsg) : (s.sendSh m).images = s.images := rfl

theorem releaseSheaf_groups (s : State) (g : Group) : (s.releaseSheaf g).groups = s.groups :=
  (foldl_keeps State.groups (fun s _ => sendSh_groups s _) _ _).trans (foldl_keeps State.groups (fun s _ => sendSh_groups s _) _ s)

theorem undoScatter_groups (s : State) (r : GRef) : (s.undoScatter r).groups = s.groups := by
  unfold State.undoScatter
  split
  · rfl
  · dsimp only
    split <;> rfl

theorem freeGroup_groups (s : State) (r : GRef) : (s.freeGroup r).groups = s.groups.filter fun g => g.ref != r :=
  congrArg (List.filter fun g : Group => g.ref != r) (undoScatter_groups s r)

/-- A kill leaves groups out, among them every group of its reference. -/
theorem mem_killGroup {s : State} {r : GRef} {g : Group} (h : g ∈ (s.killGroup r).groups) : g ∈ s.groups ∧ g.ref ≠ r := by
  unfold State.killGroup State.dropGroup at h
  split at h
  next hr =>
    exact ⟨h, fun e => by simpa [e] using List.find?_eq_none.mp hr g h⟩
  next g' _ =>
    rw [freeGroup_groups] at h
    obtain ⟨hmem, href⟩ := List.mem_filter.mp h
    refine ⟨?_, by simpa using href⟩
    rw [← releaseSheaf_groups s g']
    exact (List.mem_filter.mp hmem).1

theorem mem_foldl_killGroup {l : List GRef} {s : State} {g : Group} (h : g ∈ (l.foldl State.killGroup s).groups) :
    g ∈ s.groups ∧ g.ref ∉ l := by
  induction l generalizing s with
  | nil => exact ⟨h, by simp⟩
  | cons r l ih =>
    obtain ⟨hmem, hl⟩ := ih h
    obtain ⟨hs, hr⟩ := mem_killGroup hmem
    exact ⟨hs, by simp [hr, hl]⟩

/-- What its discarded work leaves of a context. -/
def Context.emptied (c : Context) : Context := { c with dsq := [], dsqPaused := true, hints := [], lastRec := [] }

theorem Queue.tryDrained_iface (q : Queue) : q.tryDrained.iface = q.iface := by
  unfold Queue.tryDrained Queue.ring
  split
  · dsimp only
    split <;> rfl
  · rfl

/-- A change of the hypervisor's queue leaves those of guests. -/
theorem SameHost.updHvQueue (s : State) (f : Queue → Queue) (hf : ∀ q, (f q).iface = q.iface) : SameHost s (s.updQueue hvIface f) :=
  { refl s with
    queues := by
      intro q hq hi
      obtain ⟨q', hq', rfl⟩ := mem_upd.mp hq
      split at hi
      next h => exact absurd ((hf q').trans (by simpa using h)) hi
      next h => rwa [if_neg h] }

theorem discardWork_eq (s : State) (cx : Nat) :
    ∃ u, s.discardWork cx = u.updCtx cx Context.emptied ∧ SameHost s u ∧ NoWork u cx := by
  unfold State.discardWork
  extract_lets refs s1 xs s2 gone s3 seqs s4
  have killed : SameHost s (refs.foldl State.killGroup s) := .foldl _ (fun s r => .killGroup s r) _ s
  have hs1 : SameHost s s1 := killed.trans (.dropImages _ _)
  have hs2 : SameHost s1 s2 := .foldl _ (fun s _ => .sendSh s _) _ s1
  have hs3 : SameHost s2 s3 :=
    { SameHost.refl s2 with wgs := map_filter_subset _ _ _, kernels := map_filter_subset _ _ _, copies := map_filter_subset _ _ _ }
  have hs4 : SameHost s3 s4 := .updHvQueue s3 _ fun q => Queue.tryDrained_iface _
  have cleared : SameHost s4 (s4.clearCircuits cx) := .clearCircuits s4 cx
  refine ⟨s4.clearCircuits cx, rfl, (((hs1.trans hs2).trans hs3).trans hs4).trans cleared, (hs4.trans cleared).noWork ?_⟩
  have hs2groups : s2.groups = s1.groups := foldl_keeps State.groups (fun s _ => sendSh_groups s _) _ s1
  have hs2images : s2.images = s1.images := foldl_keeps State.images (fun s _ => sendSh_images s _) _ s1
  have hs1groups : s1.groups = (refs.foldl State.killGroup s).groups := foldl_keeps State.groups releaseSheaf_groups _ _
  refine ⟨fun g hg hcx => ?_, fun w hw => ?_, fun k hk => ?_, fun c hc => ?_, fun im him => ?_⟩
  · have hg' : g ∈ s2.groups := hg
    rw [hs2groups, hs1groups] at hg'
    obtain ⟨hmem, href⟩ := mem_foldl_killGroup hg'
    exact href (List.mem_map_of_mem (List.mem_filter.mpr ⟨hmem, by simpa using hcx⟩))
  · simpa using (List.mem_filter.mp hw).2
  · simpa using (List.mem_filter.mp hk).2
  · simpa using (List.mem_filter.mp hc).2
  · have him' : im ∈ s2.images := him
    rw [hs2images] at him'
    simpa using (List.mem_filter.mp him').2

/-! ## A context is erased (R75, R229, R342, R347) -/

namespace Quiet

variable {cx : Nat}

theorem tellMembers (s : State) (x sheaf ver : Nat) (isDrop : Bool) (site : Site) (homes : List Nat) :
    Quiet cx s (s.tellMembers x sheaf ver isDrop site homes) := foldl _ (fun s _ => podRequest s _ _ _ _ _) _ s

theorem flushSheaf (s : State) (x : Nat) : Quiet cx s (s.flushSheaf x) := by
  unfold State.flushSheaf
  extract_lets ms s0
  have hs0 : Quiet cx s s0 := unchanged rfl
  have told : Quiet cx s0 ((s0.shProcs.filter fun q => q.cx == x).foldl
      (fun s q => s.tellMembers x q.sheaf q.ver q.drop q.site q.left) s0) := foldl _ (fun s _ => tellMembers s _ _ _ _ _ _) _ s0
  refine (hs0.trans told).trans (foldl _ (fun s m => ?_) ms _)
  split
  · exact ite _ (podRequest s _ _ _ _ _) (refl s)
  · split
    · exact ite _ (tellMembers s _ _ _ _ _ _) (refl s)
    · exact ite _ (tellMembers s _ _ _ _ _ _) (refl s)
    · exact refl s
  · exact refl s

theorem nackRec (s : State) (x : Nat) (r : GranRec) : Quiet cx s (s.nackRec x r) := by
  cases r
  · exact refl s
  · exact (SameHost.replyTo s _ _ _ _ _).quiet cx

theorem refuseHeld (s : State) (x : Nat) : Quiet cx s (s.refuseHeld x) := by
  unfold State.refuseHeld
  extract_lets recs s1 ws s2 s3 ps s4 s5
  have hs1 : Quiet cx s s1 := foldl _ (fun s e => nackRec s x e.2.2) recs s
  have hs2 : Quiet cx s1 s2 := unchanged rfl
  have hs3 : Quiet cx s2 s3 := foldl _ (fun s _ => (SameHost.replyTo s _ _ _ _ _).quiet cx) ws s2
  have hs4 : Quiet cx s3 s4 := unchanged rfl
  have hs5 : Quiet cx s4 s5 := foldl _ (fun s p => by split; exacts [refl s, (SameHost.replyTo s _ _ _ _ _).quiet cx]) ps s4
  exact ((((hs1.trans hs2).trans hs3).trans hs4).trans hs5).trans (updCtx s5 _ _ fun _ => by rfl)

theorem dropLines (s : State) (x : Nat) : Quiet cx s (s.dropLines x) := by
  unfold State.dropLines
  extract_lets out frames tagged s1
  have hs1 : SameHost s s1 := .foldl _ (fun s _ => .setMeta s _ _) tagged s
  exact (hs1.quiet cx).trans (unchanged rfl)

end Quiet

/-- The context behind a change of it. -/
theorem ctx?_updCtx {s : State} {cx : Nat} {c : Context} (f : Context → Context) (hf : ∀ c, (f c).cxid = c.cxid) (h : s.ctx? cx = some c) :
    (s.updCtx cx f).ctx? cx = some (f c) := by
  have hid : c.cxid = cx := by simpa using List.find?_some h
  have h' : s.ctxs.find? (fun c => c.cxid == cx) = some c := h
  rw [State.ctx?, State.updCtx, find?_upd _ _ _ _ fun c _ => by rw [hf], h']
  simp [hid]

theorem ctx?_updCtx_other {s : State} {cx x : Nat} (f : Context → Context) (hf : ∀ c, (f c).cxid = c.cxid) (hx : x ≠ cx) :
    (s.updCtx cx f).ctx? x = s.ctx? x := by
  rw [State.ctx?, State.updCtx, find?_upd _ _ _ _ fun c _ => by rw [hf]]
  cases h : s.ctxs.find? fun c => c.cxid == x with
  | none => rw [State.ctx?, h]; rfl
  | some c =>
    have hid : c.cxid = x := by simpa using List.find?_some h
    rw [State.ctx?, h]
    simp [hid, hx]

theorem cxid_of_ctx? {s : State} {cx : Nat} {c : Context} (h : s.ctx? cx = some c) : c.cxid = cx := by simpa using List.find?_some h

theorem unwrapKeys_kept (c : Context) (kek : Key) : (c.unwrapKeys kek).kept = c.kept := by
  unfold Context.unwrapKeys
  split <;> rfl

/-- The generation behind a bump (R75). -/
def nextGen (g : BitVec 16) : BitVec 16 := if g + 1 = 0 then 1 else g + 1

theorem updCtx_frame (s : State) (cx : Nat) (f : Context → Context) : NoNewWork s (s.updCtx cx f) ∧ (s.updCtx cx f).bar = s.bar := by
  unfold State.updCtx
  exact ⟨.unchanged rfl, rfl⟩

theorem bumpGen_spec {s : State} {cx : Nat} {c : Context} (h : s.ctx? cx = some c) :
    NoNewWork s (s.bumpGen cx) ∧ (s.bumpGen cx).bar = s.bar
      ∧ ∃ c', (s.bumpGen cx).ctx? cx = some c' ∧ c'.kept = (c.cxid, c.bindRec, nextGen c.gen, c.dsq) := by
  unfold State.bumpGen State.drawKey
  rw [h, nextGen]
  dsimp only
  split
  · obtain ⟨work, bar⟩ := updCtx_frame { s with keysDrawn := s.keysDrawn + 1 + 1 } cx fun c =>
      { c with gen := 1, memKey := Config.drbg s.keysDrawn, granKey := Config.drbg (s.keysDrawn + 1), egKeys := [], inKeys := [] }
    have drawn : NoNewWork s { s with keysDrawn := s.keysDrawn + 1 + 1 } := .unchanged rfl
    exact ⟨drawn.trans work, bar, _, ctx?_updCtx (s := { s with keysDrawn := s.keysDrawn + 1 + 1 }) _ (fun _ => rfl) h, rfl⟩
  · obtain ⟨work, bar⟩ := updCtx_frame s cx fun c => { c with gen := c.gen + 1, egKeys := [], inKeys := [] }
    exact ⟨work, bar, _, ctx?_updCtx _ (fun _ => rfl) h, rfl⟩

/-- What *flr*, *stop* and *retire* leave of a context c (R72, R75, R229): t has none of its work, and its queues are DETACHED. -/
structure Erased (t : State) (cx : Nat) (c : Context) (c' : Context) : Prop where
  noWork : NoWork t cx
  ctx : t.ctx? cx = some c'
  bindRec : c'.bindRec = c.bindRec
  gen : c'.gen = nextGen c.gen
  dsq : c'.dsq = []
  slot : c'.slot = false
  sheaf : c'.sheafFixed = false
  session : c'.session = none
  stream : c'.stream = none
  queues : ∀ q ∈ t.queues, q.cx = cx → q.iface ≠ 4096 → q = { iface := q.iface, cx := cx, st := .detached }

theorem mem_mapQueues {s : State} {cx : Nat} {f : Queue → Queue} {q : Queue} (h : q ∈ (s.mapQueues cx f).queues) (hcx : q.cx = cx)
    (hhv : q.iface ≠ 4096) : ∃ q' ∈ s.queues, q = f q' := by
  obtain ⟨q', hq', rfl⟩ := mem_upd.mp h
  split at hcx
  next hp =>
    rw [if_pos hp]
    exact ⟨q', hq', rfl⟩
  next hp =>
    rw [if_neg hp] at hhv
    exact absurd (show (q'.cx == cx && q'.iface != hvIface) = true by simp [hcx, hvIface, hhv]) hp

/-- Behind the first steps of an erasure the context stands without work, its generation not yet bumped. -/
theorem discarded_spec {s : State} {cx : Nat} {c : Context} (h : s.ctx? cx = some c) :
    let t := (((s.discardWork cx).flushSheaf cx).refuseHeld cx).dropLines cx
    t.bar = s.bar ∧ NoWork t cx ∧ ∃ c', t.ctx? cx = some c' ∧ c'.kept = (c.cxid, c.bindRec, c.gen, []) := by
  obtain ⟨u, hu, sameHost, noWork⟩ := discardWork_eq s cx
  obtain ⟨n, hcu⟩ := sameHost.ctx?_some h
  have emptied : (u.updCtx cx Context.emptied).ctx? cx = some { c with wdogFrom := n }.emptied := ctx?_updCtx _ (fun _ => rfl) hcu
  have dropped : Quiet cx (u.updCtx cx Context.emptied) ((((u.updCtx cx Context.emptied).flushSheaf cx).refuseHeld cx).dropLines cx) :=
    ((Quiet.flushSheaf _ cx).trans (.refuseHeld _ cx)).trans (.dropLines _ cx)
  rw [hu]
  exact ⟨dropped.bar.trans sameHost.bar, dropped.noWork noWork, dropped.ctx? emptied⟩

/-- What an erasure leaves of a context, but for its work and its generation. -/
def Context.cleared (c : Context) : Context :=
  { c.freeSlot with sheafFixed := false, sheafFrames := [], wrapped := [], keySet := false, session := none, stream := none }

theorem eraseContext_eq (s : State) (cx : Nat) :
    s.eraseContext cx = ((((((((s.updCtx cx fun c => c.unwrapKeys s.modl.sealingKey).discardWork cx).flushSheaf cx).refuseHeld cx).dropLines
      cx).bumpGen cx).mapQueues cx Queue.detachEv).updCtx cx Context.cleared) := rfl

theorem eraseContext_spec {s : State} {cx : Nat} {c : Context} (h : s.ctx? cx = some c) :
    (s.eraseContext cx).bar = s.bar ∧ ∃ c', Erased (s.eraseContext cx) cx c c' := by
  have unwrapped : Quiet cx s (s.updCtx cx fun c => c.unwrapKeys s.modl.sealingKey) := .updCtx s cx _ fun c => unwrapKeys_kept c _
  obtain ⟨c0, hc0, hk0⟩ := unwrapped.ctx? h
  rw [eraseContext_eq]
  obtain ⟨bar, noWork, c1, hc1, hk1⟩ := discarded_spec hc0
  revert bar noWork hc1
  generalize ((((s.updCtx cx fun c => c.unwrapKeys s.modl.sealingKey).discardWork cx).flushSheaf cx).refuseHeld cx).dropLines cx = t
  intro bar noWork hc1
  obtain ⟨bumped, hbar, c2, hc2, hk2⟩ := bumpGen_spec hc1
  simp only [Context.kept, Prod.mk.injEq] at hk0 hk1 hk2
  obtain ⟨-, hb0, hg0, -⟩ := hk0
  obtain ⟨-, hb1, hg1, hd1⟩ := hk1
  obtain ⟨-, hb2, hg2, hd2⟩ := hk2
  generalize t.bumpGen cx = u at bumped hbar hc2
  refine ⟨hbar.trans (bar.trans unwrapped.bar), c2.cleared,
    { noWork := bumped.noWork noWork, ctx := ctx?_updCtx _ (fun _ => rfl) hc2, bindRec := hb2.trans (hb1.trans hb0),
      gen := hg2.trans (congrArg nextGen (hg1.trans hg0)), dsq := hd2.trans hd1, slot := rfl, sheaf := rfl, session := rfl, stream := rfl,
      queues := fun q hq hcx hi => ?_ }⟩
  obtain ⟨q', -, rfl⟩ := mem_mapQueues (f := Queue.detachEv) hq hcx hi
  exact congrArg (fun x => ({ iface := q'.iface, cx := x } : Queue)) hcx

end Sys2Proof.Machine
end

section
/-! PROOFS. Commands of the BAR: how each ends, and which have no effect (spec/04_context.md R72, R74, R76). -/

namespace Sys2Proof.Machine

/-! ## Commands (R74, R76) -/

/-- The command block takes the OP and CXID of a GO. -/
def State.commanded (s : State) (op cx : Nat) : State :=
  { s with bar := { s.bar with cmd := { s.bar.cmd with cxid := BitVec.ofNat 16 cx, op := BitVec.ofNat 8 op } } }

theorem command_ignored {s : State} (op cx : Nat) (act : State → State × Option Nat)
    (h : s.bar.cmd.pending ≠ none ∨ s.modl.recovery = true) : s.command op cx act = s := by
  refine if_pos ?_
  rcases h with h | h
  · simp [CmdRegs.busy, Option.isSome_iff_ne_none, h]
  · simp [h]

theorem command_taken {s : State} (op cx : Nat) (act : State → State × Option Nat) (hr : s.modl.recovery = false)
    (hp : s.bar.cmd.pending = none) :
    s.command op cx act = match act (s.commanded op cx) with
      | (s2, some e) => s2.cmdEnd cx e
      | (s2, none) => { s2 with bar := { s2.bar with cmd := { s2.bar.cmd with pending := some (op, cx) } } } := by
  have h : (s.bar.cmd.busy || s.modl.recovery) = false := by simp [CmdRegs.busy, hp, hr]
  rw [State.command, h]
  rfl

theorem command_ended {s s2 : State} {op cx e : Nat} {act : State → State × Option Nat} (hr : s.modl.recovery = false)
    (hp : s.bar.cmd.pending = none) (h : act (s.commanded op cx) = (s2, some e)) : s.command op cx act = s2.cmdEnd cx e := by
  rw [command_taken op cx act hr hp, h]

/-- A command finds its context, and its event answers. -/
theorem commandOn_taken {s : State} {op cx : Nat} {c : Context} {tdi : Bool} {k : State → Context → State × Option Nat}
    (h : Commands s cx c) (ht : tdi = true → c.bindRec.tdi = false) :
    s.commandOn op cx tdi k = match k (s.commanded op cx) c with
      | (s2, some e) => s2.cmdEnd cx e
      | (s2, none) => { s2 with bar := { s2.bar with cmd := { s2.bar.cmd with pending := some (op, cx) } } } := by
  have owned : ¬ (tdi && c.bindRec.tdi) = true := by
    cases tdi <;> simp_all
  have found : (s.commanded op cx).ctx? cx = some c := h.ctx
  rw [State.commandOn, command_taken op cx _ h.shown h.idle,
    if_neg (show ¬ cx ≥ (s.commanded op cx).bar.dirN.toNat from Nat.not_le.mpr h.dir), found]
  dsimp only
  rw [if_neg owned]

theorem commandOn_ended {s s2 : State} {op cx e : Nat} {c : Context} {tdi : Bool} {k : State → Context → State × Option Nat}
    (h : Commands s cx c) (ht : tdi = true → c.bindRec.tdi = false) (hk : k (s.commanded op cx) c = (s2, some e)) :
    s.commandOn op cx tdi k = s2.cmdEnd cx e := by
  rw [commandOn_taken h ht, hk]

theorem commandOn_pending {s s2 : State} {op cx : Nat} {c : Context} {tdi : Bool} {k : State → Context → State × Option Nat}
    (h : Commands s cx c) (ht : tdi = true → c.bindRec.tdi = false) (hk : k (s.commanded op cx) c = (s2, none)) :
    s.commandOn op cx tdi k = { s2 with bar := { s2.bar with cmd := { s2.bar.cmd with pending := some (op, cx) } } } := by
  rw [commandOn_taken h ht, hk]

/-- The result that ends a command stands in the command block. -/
theorem answered_cmdEnd {s t : State} {op cx : Nat} (e : Nat) (h : t.bar.cmd = (s.commanded op cx).bar.cmd) :
    Answered (t.cmdEnd cx e) op cx e :=
  ⟨rfl, congrArg CmdRegs.op h, congrArg CmdRegs.cxid h, rfl, rfl⟩

/-- A command ends without another effect. -/
theorem refused_cmdEnd (s : State) (op cx e : Nat) :
    ∃ t, (s.commanded op cx).cmdEnd cx e = t ∧ t = { s with bar := { s.bar with cmd := t.bar.cmd } } ∧ Answered t op cx e :=
  ⟨_, rfl, rfl, answered_cmdEnd e rfl⟩

/-- What a command of R76 answers where it has no effect: i is its row, states are those in which R72 lists it. -/
def RefusedOutside (i : Nat → Instr) (op : Nat) (tdi : Bool) (states : List CxState) : Prop :=
  ∀ (s : State) (cx : Nat), cx < 65536 →
    let ends := fun (err : Nat) => ∃ t, exec (i cx) s = .next t ∧ t = { s with bar := { s.bar with cmd := t.bar.cmd } } ∧ Answered t op cx err
    (s.bar.cmd.pending ≠ none ∨ s.modl.recovery = true → exec (i cx) s = .next s)
    ∧ (s.modl.recovery = false → s.bar.cmd.pending = none → s.bar.dirN.toNat ≤ cx ∨ s.ctx? cx = none → ends 5)
    ∧ ∀ c, Commands s cx c → c.cxid = cx → (tdi = true → c.bindRec.tdi = true → ends 7)
      ∧ ((tdi = true → c.bindRec.tdi = false) → c.st ∉ states → ends 2)

theorem commandOn_refused {i : Nat → Instr} {op : Nat} {tdi : Bool} {states : List CxState} {k : State → Context → State × Option Nat}
    (hi : ∀ s cx, cx < 65536 → exec (i cx) s = .next (s.commandOn op cx tdi k))
    (hk : ∀ s c, c.st ∉ states → k s c = (s, some cmdBadstate)) : RefusedOutside i op tdi states := by
  intro s cx hcx ends
  have answers {e : Nat} (h : s.commandOn op cx tdi k = (s.commanded op cx).cmdEnd cx e) : ends e := by
    obtain ⟨t, ht, same, answered⟩ := refused_cmdEnd s op cx e
    exact ⟨t, by rw [hi s cx hcx, h, ht], same, answered⟩
  refine ⟨fun h => ?_, fun hr hp hcxid => answers (command_ended hr hp ?_), fun c hc _ =>
    ⟨fun ht hown => answers ?_, fun ht hst => answers ?_⟩⟩
  · rw [hi s cx hcx, State.commandOn, command_ignored op cx _ h]
  · by_cases hdir : s.bar.dirN.toNat ≤ cx
    · exact if_pos hdir
    · have missing : (s.commanded op cx).ctx? cx = none := hcxid.resolve_left hdir
      rw [missing]
      exact if_neg hdir
  · have found : (s.commanded op cx).ctx? cx = some c := hc.ctx
    refine command_ended hc.shown hc.idle ?_
    rw [if_neg (show ¬ cx ≥ (s.commanded op cx).bar.dirN.toNat from Nat.not_le.mpr hc.dir), found]
    exact if_pos (by rw [ht, hown]; rfl)
  · exact commandOn_ended hc ht (hk _ c hst)

/-! ### The rows -/

section
variable {cx : Nat} (s : State) (h : cx < 65536)
include h

theorem exec_bind : exec (.bind cx) s = .next (s.bindCmd cx) := congrArg (fun n => Host.Outcome.next (s.bindCmd n)) (Nat.mod_eq_of_lt h)
theorem exec_lock : exec (.lock cx) s = .next (s.commandOn 2 cx true State.lockEv) :=
  congrArg (fun n => Host.Outcome.next (s.commandOn 2 n true State.lockEv)) (Nat.mod_eq_of_lt h)
theorem exec_unlock : exec (.unlock cx) s = .next (s.commandOn 3 cx true State.unlockEv) :=
  congrArg (fun n => Host.Outcome.next (s.commandOn 3 n true State.unlockEv)) (Nat.mod_eq_of_lt h)
theorem exec_start : exec (.start cx) s = .next (s.commandOn 4 cx true State.startEv) :=
  congrArg (fun n => Host.Outcome.next (s.commandOn 4 n true State.startEv)) (Nat.mod_eq_of_lt h)
theorem exec_sealCx : exec (.sealCx cx) s = .next (s.commandOn 5 cx false State.sealEv) :=
  congrArg (fun n => Host.Outcome.next (s.commandOn 5 n false State.sealEv)) (Nat.mod_eq_of_lt h)
theorem exec_restore : exec (.restore cx) s = .next (s.commandOn 6 cx false State.restoreEv) :=
  congrArg (fun n => Host.Outcome.next (s.commandOn 6 n false State.restoreEv)) (Nat.mod_eq_of_lt h)
theorem exec_reset : exec (.reset cx) s = .next (s.commandOn 7 cx false State.resetEv) :=
  congrArg (fun n => Host.Outcome.next (s.commandOn 7 n false State.resetEv)) (Nat.mod_eq_of_lt h)
theorem exec_flr : exec (.flr cx) s = .next (s.commandOn 8 cx false State.flrEv) :=
  congrArg (fun n => Host.Outcome.next (s.commandOn 8 n false State.flrEv)) (Nat.mod_eq_of_lt h)
theorem exec_retire : exec (.retire cx) s = .next (s.commandOn 9 cx false State.retireEv) :=
  congrArg (fun n => Host.Outcome.next (s.commandOn 9 n false State.retireEv)) (Nat.mod_eq_of_lt h)
theorem exec_release : exec (.release cx) s = .next (s.commandOn 10 cx false State.releaseEv) :=
  congrArg (fun n => Host.Outcome.next (s.commandOn 10 n false State.releaseEv)) (Nat.mod_eq_of_lt h)
theorem exec_stop : exec (.stop cx) s = .next (s.commandOn 11 cx true State.stopEv) :=
  congrArg (fun n => Host.Outcome.next (s.commandOn 11 n true State.stopEv)) (Nat.mod_eq_of_lt h)

end

/-! ### Events outside their states (R72) -/

theorem lockEv_badstate (s : State) {c : Context} (h : c.st ∉ [CxState.bound]) : s.lockEv c = (s, some cmdBadstate) :=
  if_neg (by simpa using h)

theorem unlockEv_badstate (s : State) {c : Context} (h : c.st ∉ [CxState.locked]) : s.unlockEv c = (s, some cmdBadstate) :=
  if_neg (by simpa using h)

theorem startEv_badstate (s : State) {c : Context} (h : c.st ≠ .locked ∨ s.modl.recovering ≠ none) : s.startEv c = (s, some cmdBadstate) :=
  if_pos (by simpa [Option.isSome_iff_ne_none] using h)

theorem sealEv_badstate (s : State) {c : Context} (h : c.st ∉ [CxState.run]) : s.sealEv c = (s, some cmdBadstate) :=
  if_neg (by simpa using h)

theorem restoreEv_badstate (s : State) {c : Context} (h : c.st ≠ .sealed ∨ s.modl.recovering ≠ none) :
    s.restoreEv c = (s, some cmdBadstate) :=
  if_pos (by simpa [Option.isSome_iff_ne_none] using h)

theorem resetEv_badstate (s : State) {c : Context} (h : c.st ∉ [CxState.run, .sealing, .restoring, .halted]) :
    s.resetEv c = (s, some cmdBadstate) := by
  unfold State.resetEv
  cases hst : c.st <;> simp [hst] at h ⊢

theorem flrEv_badstate (s : State) {c : Context} (h : c.st ∉ [CxState.bound, .locked, .run, .sealing, .sealed, .restoring, .halted, .error]) :
    s.flrEv c = (s, some cmdBadstate) := by
  unfold State.flrEv
  cases hst : c.st <;> simp [hst] at h ⊢

theorem retireEv_badstate (s : State) {c : Context} (h : c.st ∉ [CxState.bound, .locked, .sealed, .halted, .error]) :
    s.retireEv c = (s, some cmdBadstate) := by
  unfold State.retireEv
  cases hst : c.st <;> simp [hst] at h ⊢

theorem releaseEv_badstate (s : State) {c : Context} (h : c.st ∉ [CxState.retired]) : s.releaseEv c = (s, some cmdBadstate) :=
  if_neg (by simpa using h)

theorem stopEv_badstate (s : State) {c : Context} (h : c.st ∉ [CxState.locked, .run, .sealing, .sealed, .restoring, .halted, .error]) :
    s.stopEv c = (s, some cmdBadstate) := by
  unfold State.stopEv
  cases hst : c.st <;> simp [hst] at h ⊢

end Sys2Proof.Machine
end

section
/-! PROOFS. BIND: what a binding makes of contexts, queues and pools (spec/04_context.md R77, R78; log 51). -/

namespace Sys2Proof.Machine

/-! ## BIND (R77, R78) -/

/-- From s to t nothing but what a read of the hypervisor's memory notes has changed (R327). -/
def ReadNoted (s t : State) : Prop :=
  ∃ a b n, t = { s with lineMeta := a, hostEvents := b, modl := { s.modl with corrections := n } }

namespace ReadNoted

theorem refl (s : State) : ReadNoted s s := ⟨s.lineMeta, s.hostEvents, s.modl.corrections, rfl⟩

theorem trans {s t u : State} (h : ReadNoted s t) (h' : ReadNoted t u) : ReadNoted s u := by
  obtain ⟨a, b, n, rfl⟩ := h
  obtain ⟨a', b', n', rfl⟩ := h'
  exact ⟨a', b', n', rfl⟩

theorem noteRead (s : State) (n : Nat) : ReadNoted s (s.noteRead n none 0) := by
  unfold State.noteRead
  extract_lets m s1 s2
  have hs2 : ReadNoted s s2 := by
    by_cases h : m.reported = true
    · exact ⟨_, _, _, if_pos h⟩
    · exact ⟨_, _, _, if_neg h⟩
  split
  · exact hs2
  · split
    · exact ⟨_, _, _, rfl⟩
    · exact refl s

theorem hvNote (s : State) (pa k : Nat) : ReadNoted s (s.hvNote pa k) := by
  unfold State.hvNote
  generalize linePieces (k / 128 + 2) pa k = l
  induction l generalizing s with
  | nil => exact refl s
  | cons p l ih =>
    refine trans ?_ (ih _)
    dsimp only
    split
    · exact noteRead s _
    · exact refl s

end ReadNoted

/-- The context that a bind of record r makes (R72, R78). -/
structure FreshContext (c : Context) (cx : Nat) (r : BindRec) (first far : Nat) : Prop where
  cxid : c.cxid = cx
  st : c.st = .bound
  bindRec : c.bindRec = r
  firstIface : c.firstIface = first
  farHome : c.farHome = far
  gen : c.gen = 1
  slot : c.slot = false
  keySlot : c.keySlot = none
  pages : c.pages = []

theorem clearSectors_of_all_hard {s : State} {hard : BitVec 6} (h : hard = 0 ∨ ∀ x ∈ s.ctxs, x.bindRec.hard ≠ 0) :
    s.clearSectors hard = s := by
  unfold State.clearSectors
  split
  · rfl
  next hne =>
    have none_soft : (s.ctxs.filter fun c => c.bindRec.hard == 0) = [] :=
      List.filter_eq_nil_iff.mpr fun x hx => by simpa using h.resolve_left hne x hx
    rw [none_soft]
    rfl

/-- The pool of a context without the frames in the stacks of another partition (R15, log 51). -/
def Context.outside (hard : BitVec 6) (x : Context) : Context :=
  if hard = 0 ∨ x.bindRec.hard = hard then x else { x with poolLocal := x.poolLocal.filter fun f => !inStacks hard f }

theorem clearStacks_ctxs (s : State) (hard : BitVec 6) : (s.clearStacks hard).ctxs = s.ctxs.map (Context.outside hard) := by
  unfold State.clearStacks
  split
  next h =>
    have : Context.outside hard = id := funext fun x => if_pos (.inl h)
    rw [this, List.map_id]
  next h =>
    refine List.map_congr_left fun x _ => ?_
    by_cases hx : x.bindRec.hard = hard <;> simp only [Context.outside, bne_iff_ne, ne_eq, h, hx,
      not_true_eq_false, not_false_eq_true, or_true, or_false, if_true, if_false]

theorem clearStacks_kept (s : State) (hard : BitVec 6) :
    (s.clearStacks hard).bar = s.bar ∧ (s.clearStacks hard).mem = s.mem ∧ (s.clearStacks hard).queues = s.queues := by
  unfold State.clearStacks
  split <;> exact ⟨rfl, rfl, rfl⟩

theorem bindEv_spec {s : State} {cx : Nat} {r : BindRec} {first far : Nat} (hfits : s.bindFits r = true)
    (hrun : s.freeRun r.queues = some first) (hfar : s.farHomeFor r.hard = some far) (hhard : r.hard = 0 ∨ ∀ x ∈ s.ctxs, x.bindRec.hard ≠ 0) :
    ∃ t c, s.bindEv cx r = (t, some 0) ∧ t.bar = { s.bar with cmd := { s.bar.cmd with arg := BitVec.ofNat 64 first } } ∧ t.mem = s.mem
      ∧ t.ctxs = s.ctxs.map (Context.outside r.hard) ++ [c] ∧ FreshContext c cx r first far
      ∧ t.queues = s.queues ++ (List.range r.queues).map fun i => { iface := first + i, cx := cx, st := .detached } := by
  unfold State.bindEv State.drawKey
  rw [hfits, hrun, hfar]
  dsimp -zeta only
  extract_lets base c qs bar0 cmd0 s3
  have hc : FreshContext c cx r first far := ⟨rfl, rfl, rfl, rfl, rfl, rfl, rfl, rfl, rfl⟩
  have all_hard : r.hard = 0 ∨ ∀ x ∈ s3.ctxs, x.bindRec.hard ≠ 0 := by
    rw [or_iff_not_imp_left] at hhard ⊢
    intro hne x hx
    rcases List.mem_append.mp hx with hx | hx
    · exact hhard hne x hx
    · rw [List.mem_singleton.mp hx]
      exact hne
  obtain ⟨bar, hmem, queues⟩ := clearStacks_kept s3 r.hard
  have own : [c].map (Context.outside r.hard) = [c] := congrArg (fun x => [x]) (if_pos (.inr rfl))
  have ctxs : s3.ctxs.map (Context.outside r.hard) = s.ctxs.map (Context.outside r.hard) ++ [c] := by
    rw [← own, ← List.map_append]
  rw [clearSectors_of_all_hard all_hard]
  exact ⟨_, c, rfl, bar, hmem, (clearStacks_ctxs s3 r.hard).trans ctxs, hc, queues⟩

theorem bind_spec {s : State} {cx : Nat} {r : BindRec} {first far : Nat} (hr : s.modl.recovery = false) (hp : s.bar.cmd.pending = none)
    (hcx : cx < 65536) (hdir : cx < s.bar.dirN.toNat) (hfree : s.ctx? cx = none) (haln : s.bar.cmd.arg.toNat % 128 = 0)
    (hrec : (s.hvRead s.bar.cmd.arg.toNat 128).bind bindRecOf = some r) (hsave : s.saveFits r = true) (hfits : s.bindFits r = true)
    (hrun : s.freeRun r.queues = some first) (hfar : s.farHomeFor r.hard = some far)
    (hhard : r.hard = 0 ∨ ∀ x ∈ s.ctxs, x.bindRec.hard ≠ 0) :
    ∃ t c, exec (.bind cx) s = .next t ∧ Answered t 1 cx 0 ∧ t.bar.cmd.arg = BitVec.ofNat 64 first ∧ SameMem s t
      ∧ t.ctxs = s.ctxs.map (Context.outside r.hard) ++ [c] ∧ FreshContext c cx r first far
      ∧ t.queues = s.queues ++ (List.range r.queues).map fun i => { iface := first + i, cx := cx, st := .detached } := by
  have free : ¬ (cx ≥ (s.commanded 1 cx).bar.dirN.toNat ∨ ((s.commanded 1 cx).ctx? cx).isSome = true) := by
    have missing : (s.commanded 1 cx).ctx? cx = none := hfree
    rw [missing]
    exact not_or.mpr ⟨Nat.not_le.mpr hdir, Bool.false_ne_true⟩
  have aligned : ¬ (s.commanded 1 cx).bar.cmd.arg.toNat % 128 ≠ 0 := not_not.mpr haln
  have read : ((s.commanded 1 cx).hvRead (s.commanded 1 cx).bar.cmd.arg.toNat 128).bind bindRecOf = some r := hrec
  obtain ⟨a, b, k, noted⟩ := ReadNoted.hvNote (s.commanded 1 cx) (s.commanded 1 cx).bar.cmd.arg.toNat 128
  have bound := bindEv_spec (s := { s.commanded 1 cx with lineMeta := a, hostEvents := b, modl := { s.modl with corrections := k } }) (cx := cx)
    hfits hrun hfar hhard
  obtain ⟨t, c, hev, bar, hmem, ctxs, hc, queues⟩ := bound
  have cmd := congrArg Bar.cmd bar
  have ended : s.bindCmd cx = t.cmdEnd cx 0 := by
    refine command_ended hr hp ?_
    dsimp only
    rw [if_neg free, if_neg aligned, read]
    dsimp only
    rw [noted]
    exact (if_pos hsave).trans hev
  refine ⟨t.cmdEnd cx 0, c, (exec_bind s hcx).trans (congrArg _ ended), ⟨rfl, ?_, ?_, rfl, rfl⟩, ?_, ?_, ctxs, hc, queues⟩
  · exact congrArg CmdRegs.op cmd
  · exact congrArg CmdRegs.cxid cmd
  · exact congrArg CmdRegs.arg cmd
  · exact fun a => congrArg (fun m => sget 0 m a) hmem

end Sys2Proof.Machine
end

section
/-! PROOFS. LOCK, UNLOCK, START, SEAL and RESTORE (spec/04_context.md R79 to R82). -/

namespace Sys2Proof.Machine

/-! ## LOCK, UNLOCK, START, SEAL and RESTORE (R79 to R82) -/

theorem unwrapKeys_cxid (c : Context) (kek : Key) : (c.unwrapKeys kek).cxid = c.cxid := congrArg Prod.fst (unwrapKeys_kept c kek)

/-- A command whose event changes only its context. -/
theorem onlyContext_of_ctxs {s t : State} {cx : Nat} {c : Context} {f : Context → Context} (hf : ∀ c, (f c).cxid = c.cxid)
    (h : s.ctx? cx = some c) (same : t = { s with ctxs := (s.updCtx cx f).ctxs, bar := t.bar }) (bar : t.bar = { s.bar with cmd := t.bar.cmd }) :
    OnlyContext s t c (f c) := by
  have ctx (x : Nat) : t.ctx? x = (s.updCtx cx f).ctx? x := by rw [same]; rfl
  have ctxs : t.ctxs = (s.updCtx cx f).ctxs := by rw [same]
  have hid := cxid_of_ctx? h
  refine ⟨ctxs ▸ same, bar, ?_, fun x hx => ?_⟩
  · rw [ctx, hid, ctx?_updCtx f hf h]
  · rw [ctx, ctx?_updCtx_other f hf (hid ▸ hx)]

theorem onlyContext_cmdEnd {s : State} {cx : Nat} {c : Context} (op e : Nat) (f : Context → Context) (hf : ∀ c, (f c).cxid = c.cxid)
    (h : s.ctx? cx = some c) : OnlyContext s (((s.commanded op cx).updCtx cx f).cmdEnd cx e) c (f c) :=
  onlyContext_of_ctxs hf h rfl rfl

section
variable {s : State} {cx : Nat} {c : Context} (h : Commands s cx c)
include h

theorem Commands.cxid : c.cxid = cx := cxid_of_ctx? h.ctx

theorem lock_spec (ht : c.bindRec.tdi = false) (hst : c.st = .bound) :
    ∃ t, exec (.lock cx) s = .next t ∧ Answered t 2 cx 0 ∧ OnlyContext s t c { c with st := .locked } := by
  have event : State.lockEv (s.commanded 2 cx) c = ((s.commanded 2 cx).updCtx cx fun c => { c with st := .locked }, some 0) := by
    rw [← h.cxid]
    exact if_pos (beq_iff_eq.mpr hst)
  exact ⟨_, (exec_lock s h.small).trans (congrArg _ (commandOn_ended h (fun _ => ht) event)), answered_cmdEnd 0 rfl,
    onlyContext_cmdEnd 2 0 _ (fun _ => rfl) h.ctx⟩

theorem unlock_spec (ht : c.bindRec.tdi = false) (hst : c.st = .locked) :
    ∃ t, exec (.unlock cx) s = .next t ∧ Answered t 3 cx 0 ∧ OnlyContext s t c { c with st := .bound, keySet := false } := by
  have event : State.unlockEv (s.commanded 3 cx) c
      = ((s.commanded 3 cx).updCtx cx fun c => { c with st := .bound, keySet := false }, some 0) := by
    rw [← h.cxid]
    exact if_pos (beq_iff_eq.mpr hst)
  exact ⟨_, (exec_unlock s h.small).trans (congrArg _ (commandOn_ended h (fun _ => ht) event)), answered_cmdEnd 0 rfl,
    onlyContext_cmdEnd 3 0 _ (fun _ => rfl) h.ctx⟩

/-- A command whose event answers an error at once. -/
theorem commandOn_error {op e : Nat} {tdi : Bool} {k : State → Context → State × Option Nat} (ht : tdi = true → c.bindRec.tdi = false)
    (hk : k (s.commanded op cx) c = (s.commanded op cx, some e)) :
    ∃ t, s.commandOn op cx tdi k = t ∧ Answered t op cx e ∧ t = { s with bar := t.bar } :=
  ⟨_, commandOn_ended h ht hk, answered_cmdEnd e rfl, rfl⟩

end

/-- Another context of c's sector group holds a slot (R79). -/
def State.partnerHolds (s : State) (c : Context) : Prop :=
  c.bindRec.hard ≠ 0 ∧ ∃ x ∈ s.ctxs, x.slot = true ∧ x.cxid ≠ c.cxid ∧ x.bindRec.hard = c.bindRec.hard

theorem partnerHolds_iff (s : State) (c : Context) : s.partnerHolds c ↔
    c.bindRec.hard ≠ 0 ∧ (s.ctxs.any fun x => x.slot && x.cxid != c.cxid && x.bindRec.hard == c.bindRec.hard) = true := by
  simp [State.partnerHolds, and_assoc]

theorem slotErr_free {s : State} {c : Context} (hheld : (s.ctxs.filter fun x => x.slot).length < 64) (hp : ¬ s.partnerHolds c) :
    s.slotErr c = none := by
  rw [State.slotErr, if_neg (Nat.not_le.mpr hheld), if_neg (mt (partnerHolds_iff s c).mpr hp)]

theorem slotErr_held {s : State} {c : Context} (h : 64 ≤ (s.ctxs.filter fun x => x.slot).length ∨ s.partnerHolds c) :
    s.slotErr c = some (if 64 ≤ (s.ctxs.filter fun x => x.slot).length then 3 else 4) := by
  by_cases hheld : 64 ≤ (s.ctxs.filter fun x => x.slot).length
  · rw [if_pos hheld]
    exact if_pos hheld
  · rw [if_neg hheld, State.slotErr, if_neg hheld]
    exact if_pos ((partnerHolds_iff s c).mp (h.resolve_left hheld))

theorem startEv_slotErr {s : State} {c : Context} {e : Nat} (hst : c.st = .locked) (hr : s.modl.recovering = none)
    (he : s.slotErr c = some e) : s.startEv c = (s, some e) := by
  rw [State.startEv, if_neg (by simp [hst, hr]), he]

theorem restoreEv_slotErr {s : State} {c : Context} {e : Nat} (hst : c.st = .sealed) (hr : s.modl.recovering = none)
    (he : s.slotErr c = some e) : s.restoreEv c = (s, some e) := by
  rw [State.restoreEv, if_neg (by simp [hst, hr]), he]

/-- The context that RESTORE leaves RESTORING, its keys unwrapped under kek (R81, R82). -/
def Context.returning (kek : Key) (c : Context) : Context :=
  { (c.unwrapKeys kek).takeSlot with st := .restoring, gran := { c.gran with replayed := false } }

theorem restoreEv_free {s : State} {c : Context} (hst : c.st = .sealed) (hr : s.modl.recovering = none) (he : s.slotErr c = none) :
    s.restoreEv c = (s.updCtx c.cxid (Context.returning s.modl.sealingKey), none) := by
  rw [State.restoreEv, if_neg (by simp [hst, hr]), he]
  rfl

/-! ### What START reads and writes (R72, R229) -/

namespace SameHost

theorem readRcb (s : State) (cx addr : Nat) : SameHost s (s.readRcb cx addr).1 := by
  have read := engineRead s cx addr 128
  unfold State.readRcb
  split
  · exact refl s
  · split
    · exact refl s
    · split
      next s1 e =>
        rwa [e] at read
      next s1 bs e =>
        rw [e] at read
        exact read.trans (unchanged rfl)

theorem putDesc (s : State) (k : LineKey) (d : Desc) : SameHost s (s.putDesc k d) := homeWrite s k _ _

theorem resetSheaf (s : State) (cx : Nat) : SameHost s (s.resetSheaf cx) := by
  unfold State.resetSheaf
  split
  · exact refl s
  · refine foldl _ (fun s i => ?_) _ s
    split
    · exact refl s
    · exact putDesc s _ _

end SameHost

theorem Quiet.fixTables {x cx : Nat} {s t : State} (h : s.fixTables cx = some t) : Quiet x s t := by
  unfold State.fixTables at h
  split at h
  · exact absurd h (Option.some_ne_none t).symm
  next c hc =>
    extract_lets r sh gr at h
    generalize sh = sh, gr = gr at h
    split at h
    next fs gs =>
      extract_lets s1 at h
      have hs1 : Quiet x s s1 := .updCtx s cx _ fun _ => by rfl
      rw [← Option.some.inj h]
      exact hs1.trans (.ite _ (.refl s1) ((SameHost.resetSheaf s1 cx).quiet x))
    next => exact absurd h (Option.some_ne_none t).symm

theorem Queue.ring_attached (q : Queue) : q.ring.st ≠ .detached := by
  unfold Queue.ring
  split
  · exact nofun
  · dsimp only
    split <;> exact nofun

theorem Queue.tryDrained_attached {q : Queue} (h : q.st ≠ .detached) : q.tryDrained.st ≠ .detached := by
  unfold Queue.tryDrained
  split
  · exact Queue.ring_attached _
  · exact h

theorem Queue.sresumeEv_attached {q : Queue} (h : q.st ≠ .detached) : q.sresumeEv.st ≠ .detached := by
  unfold Queue.sresumeEv
  split
  next hst =>
    split
    · exact h
    · split
      · exact Queue.tryDrained_attached nofun
      · exact Queue.ring_attached _
  · exact h
  all_goals exact h

/-- The queues of a context that starts: *attach* of a DETACHED one, *sresume* of the others (R90). -/
def Queue.startEv (q : Queue) : Queue := if q.st == .detached then q.attachEv else q.sresumeEv

theorem Queue.startEv_attached (q : Queue) : q.startEv.st ≠ .detached := by
  unfold Queue.startEv
  split
  next h =>
    rw [Queue.attachEv, beq_iff_eq.mp h]
    exact nofun
  next h => exact Queue.sresumeEv_attached (by simpa using h)

/-- The context that START leaves RUN at cycle now. -/
def Context.started (now : Nat) (c : Context) : Context :=
  { c.takeSlot with st := .run, dsqPaused := false, wdogFrom := now, gran := { c.gran with replayed := !c.gran.pendingReq } }

theorem startEv_free {s s1 s2 : State} {c : Context} {r : Rcb} (hst : c.st = .locked) (hr : s.modl.recovering = none)
    (he : s.slotErr c = none) (hrcb : s.readRcb c.cxid c.bindRec.rootRcb = (s1, some r)) (hfix : s1.fixTables c.cxid = some s2) :
    s.startEv c = ((((s2.updRcb c.cxid c.bindRec.rootRcb fun r => { r with periodNo := s2.periodNo r }).mapQueues c.cxid Queue.startEv).updCtx
      c.cxid (Context.started s.cycle)), some 0) := by
  rw [State.startEv, if_neg (by simp [hst, hr]), he]
  dsimp only
  rw [hrcb]
  dsimp only
  rw [hfix]
  rfl

/-- A start (R72, R79): the registers of the BAR and memory are those behind the reads, the context is RUN, no queue of it DETACHED. -/
theorem startEv_spec {s s1 s2 : State} {c c2 : Context} {r : Rcb} (hst : c.st = .locked) (hr : s.modl.recovering = none)
    (he : s.slotErr c = none) (hrcb : s.readRcb c.cxid c.bindRec.rootRcb = (s1, some r)) (hfix : s1.fixTables c.cxid = some s2)
    (hc2 : s2.ctx? c.cxid = some c2) :
    ∃ t, s.startEv c = (t, some 0) ∧ t.bar = s.bar ∧ t.mem = s2.mem ∧ t.ctx? c.cxid = some (c2.started s.cycle)
      ∧ ∀ q ∈ t.queues, q.cx = c.cxid → q.iface ≠ 4096 → q.st ≠ .detached := by
  refine ⟨_, startEv_free hst hr he hrcb hfix, ?_, rfl, ctx?_updCtx _ (fun _ => rfl) hc2, fun q hq hcx hi => ?_⟩
  · have read := (SameHost.readRcb s c.cxid c.bindRec.rootRcb).bar
    rw [hrcb] at read
    exact (Quiet.fixTables (x := 0) hfix).bar.trans read
  · obtain ⟨q', -, rfl⟩ := mem_mapQueues (f := Queue.startEv) hq hcx hi
    exact Queue.startEv_attached q'

/-! ### SEAL (R80) -/

theorem flashback_of_no_workgroup {s : State} {cx : Nat} (h : ∀ w ∈ s.wgs, w.cx ≠ cx) (reason : SaveReason) (p : Workgroup → Bool) :
    s.flashback cx reason p = s := by
  have empty : (s.wgs.filter fun w => w.cx == cx && !w.exited && p w) = [] :=
    List.filter_eq_nil_iff.mpr fun w hw => by simp [h w hw]
  rw [State.flashback, empty]
  rfl

theorem Queue.spauseEv_st (q : Queue) : q.spauseEv.st = .paused ∨ q.spauseEv.st = .error ∨ q.spauseEv.st = .detached := by
  cases h : q.st <;> simp [Queue.spauseEv, h]

theorem stopCircuits_stopped {s : State} {cx : Nat} {x : Circuit} (h : x ∈ (s.stopCircuits cx).circuits) (hcx : x.cx = cx) :
    x.st ≠ .running := by
  obtain ⟨x', -, rfl⟩ := mem_upd.mp h
  split at hcx
  next hp =>
    rw [if_pos hp]
    exact nofun
  next hp =>
    rw [if_neg hp]
    simpa [hcx] using hp

theorem ctx?_enter {s : State} {cx : Nat} {c : Context} (st : CxState) (h : s.ctx? cx = some c) :
    (s.enter cx st).ctx? cx = some { c with st := st } :=
  ctx?_updCtx (fun c => { c with st := st }) (fun _ => rfl) h

theorem ctx?_pauseQueues {s : State} {cx : Nat} {c : Context} (h : s.ctx? cx = some c) :
    (s.pauseQueues cx).ctx? cx = some { c with dsqPaused := true } :=
  ctx?_updCtx (s := s.mapQueues cx Queue.spauseEv) (fun c => { c with dsqPaused := true }) (fun _ => rfl) h

/-- A seal of a context without resident workgroups: queues and circuits stop, nothing is saved. -/
theorem sealEv_spec {s : State} {c : Context} (h : s.ctx? c.cxid = some c) (hst : c.st = .run) (hw : ∀ w ∈ s.wgs, w.cx ≠ c.cxid) :
    ∃ t, s.sealEv c = (t, none) ∧ t.mem = s.mem ∧ t.ctx? c.cxid = some { c with st := .sealing, dsqPaused := true } ∧ t.groups = s.groups
      ∧ (∀ q ∈ t.queues, q.cx = c.cxid → q.iface ≠ 4096 → q.st = .paused ∨ q.st = .error ∨ q.st = .detached)
      ∧ ∀ x ∈ t.circuits, x.cx = c.cxid → x.st ≠ .running := by
  have ctx : (((s.pauseQueues c.cxid).enter c.cxid .sealing).stopCircuits c.cxid).ctx? c.cxid = some { c with st := .sealing, dsqPaused := true } :=
    ctx?_enter .sealing (ctx?_pauseQueues h)
  have kept : (((s.pauseQueues c.cxid).enter c.cxid .sealing).stopCircuits c.cxid).mem = s.mem
      ∧ (((s.pauseQueues c.cxid).enter c.cxid .sealing).stopCircuits c.cxid).groups = s.groups := by
    unfold State.stopCircuits State.enter State.pauseQueues State.mapQueues State.updCtx
    exact ⟨rfl, rfl⟩
  refine ⟨((s.pauseQueues c.cxid).enter c.cxid .sealing).stopCircuits c.cxid, ?_, kept.1, ctx, kept.2, fun q hq hcx hi => ?_,
    fun x hx hcx => stopCircuits_stopped hx hcx⟩
  · rw [State.sealEv, if_pos (beq_iff_eq.mpr hst), flashback_of_no_workgroup (s := (s.pauseQueues c.cxid).enter c.cxid .sealing) hw]
  · obtain ⟨q', -, rfl⟩ := mem_mapQueues (f := Queue.spauseEv) hq hcx hi
    exact Queue.spauseEv_st q'

end Sys2Proof.Machine
end

section
/-! PROOFS. The context commands follow the table of R72 and R76 (spec/04_context.md), and the machine right after start. -/

namespace Sys2Proof.Machine

/-- R72 names for each command the states in which it lists its event; outside them it has no effect. -/
theorem commands_refused :
    RefusedOutside .lock 2 true [.bound] ∧ RefusedOutside .unlock 3 true [.locked] ∧ RefusedOutside .start 4 true [.locked]
    ∧ RefusedOutside .sealCx 5 false [.run] ∧ RefusedOutside .restore 6 false [.sealed]
    ∧ RefusedOutside .reset 7 false [.run, .sealing, .restoring, .halted]
    ∧ RefusedOutside .flr 8 false [.bound, .locked, .run, .sealing, .sealed, .restoring, .halted, .error]
    ∧ RefusedOutside .retire 9 false [.bound, .locked, .sealed, .halted, .error] ∧ RefusedOutside .release 10 false [.retired]
    ∧ RefusedOutside .stop 11 true [.locked, .run, .sealing, .sealed, .restoring, .halted, .error] :=
  ⟨commandOn_refused (fun s _ h => exec_lock s h) (fun s _ h => lockEv_badstate s h),
    commandOn_refused (fun s _ h => exec_unlock s h) (fun s _ h => unlockEv_badstate s h),
    commandOn_refused (fun s _ h => exec_start s h) (fun s _ h => startEv_badstate s (.inl (List.mem_singleton.not.mp h))),
    commandOn_refused (fun s _ h => exec_sealCx s h) (fun s _ h => sealEv_badstate s h),
    commandOn_refused (fun s _ h => exec_restore s h) (fun s _ h => restoreEv_badstate s (.inl (List.mem_singleton.not.mp h))),
    commandOn_refused (fun s _ h => exec_reset s h) (fun s _ h => resetEv_badstate s h),
    commandOn_refused (fun s _ h => exec_flr s h) (fun s _ h => flrEv_badstate s h),
    commandOn_refused (fun s _ h => exec_retire s h) (fun s _ h => retireEv_badstate s h),
    commandOn_refused (fun s _ h => exec_release s h) (fun s _ h => releaseEv_badstate s h),
    commandOn_refused (fun s _ h => exec_stop s h) (fun s _ h => stopEv_badstate s h)⟩

section
variable {s : State} {cx : Nat} {c : Context} (h : Commands s cx c)
include h

/-- START that answers an error: its event changes nothing. -/
theorem start_error {e : Nat} (ht : c.bindRec.tdi = false) (he : State.startEv (s.commanded 4 cx) c = (s.commanded 4 cx, some e)) :
    ∃ t, exec (.start cx) s = .next t ∧ Answered t 4 cx e ∧ t = { s with bar := t.bar } := by
  obtain ⟨t, hcmd, answered, same⟩ := commandOn_error h (fun _ => ht) he
  exact ⟨t, (exec_start s h.small).trans (congrArg _ hcmd), answered, same⟩

/-- RESTORE that answers an error: its event changes nothing. -/
theorem restore_error {e : Nat} (he : State.restoreEv (s.commanded 6 cx) c = (s.commanded 6 cx, some e)) :
    ∃ t, exec (.restore cx) s = .next t ∧ Answered t 6 cx e ∧ t = { s with bar := t.bar } := by
  obtain ⟨t, hcmd, answered, same⟩ := commandOn_error (tdi := false) h nofun he
  exact ⟨t, (exec_restore s h.small).trans (congrArg _ hcmd), answered, same⟩

theorem start_spec (hr : s.modl.recovering = none) (ht : c.bindRec.tdi = false) (hst : c.st = .locked)
    (hheld : (s.ctxs.filter fun x => x.slot).length < 64) (hp : ¬ s.partnerHolds c) {s1 s2 : State} {r : Rcb} {c2 : Context}
    (hrcb : (s.commanded 4 cx).readRcb cx c.bindRec.rootRcb = (s1, some r)) (hfix : s1.fixTables cx = some s2) (hc2 : s2.ctx? cx = some c2) :
    ∃ t, exec (.start cx) s = .next t ∧ Answered t 4 cx 0 ∧ SameMem s2 t ∧ t.ctx? cx = some (c2.started s.cycle)
      ∧ ∀ q ∈ t.queues, q.cx = cx → q.iface ≠ 4096 → q.st ≠ .detached := by
  obtain rfl := h.cxid
  have free : (s.commanded 4 c.cxid).slotErr c = none := slotErr_free hheld hp
  obtain ⟨t, hev, bar, hmem, hctx, queues⟩ := startEv_spec (s := s.commanded 4 c.cxid) hst hr free hrcb hfix hc2
  exact ⟨t.cmdEnd c.cxid 0, (exec_start s h.small).trans (congrArg _ (commandOn_ended h (fun _ => ht) hev)),
    answered_cmdEnd 0 (congrArg Bar.cmd bar),
    fun a => congrArg (fun m => sget 0 m a) hmem, hctx, queues⟩

theorem restore_spec (hr : s.modl.recovering = none) (hst : c.st = .sealed)
    (hheld : (s.ctxs.filter fun x => x.slot).length < 64) (hp : ¬ s.partnerHolds c) :
    ∃ t, exec (.restore cx) s = .next t ∧ t.bar.cmd.pending = some (6, cx)
      ∧ OnlyContext s t c (c.returning s.modl.sealingKey) := by
  have free : (s.commanded 6 cx).slotErr c = none := slotErr_free hheld hp
  have hev := restoreEv_free (s := s.commanded 6 cx) (c := c) hst hr free
  rw [h.cxid] at hev
  exact ⟨_, (exec_restore s h.small).trans (congrArg _ (commandOn_pending h nofun hev)), rfl,
    onlyContext_of_ctxs (f := Context.returning s.modl.sealingKey) (fun c => unwrapKeys_cxid c _) h.ctx rfl rfl⟩

theorem seal_spec (hst : c.st = .run) (hw : ∀ w ∈ s.wgs, w.cx ≠ cx) :
    ∃ t, exec (.sealCx cx) s = .next t ∧ t.bar.cmd.pending = some (5, cx) ∧ SameMem s t
      ∧ t.ctx? cx = some { c with st := .sealing, dsqPaused := true } ∧ t.groups = s.groups
      ∧ (∀ q ∈ t.queues, q.cx = cx → q.iface ≠ 4096 → q.st = .paused ∨ q.st = .error ∨ q.st = .detached)
      ∧ ∀ x ∈ t.circuits, x.cx = cx → x.st ≠ .running := by
  obtain rfl := h.cxid
  obtain ⟨t, hev, hmem, hctx, groups, queues, circuits⟩ := sealEv_spec (s := s.commanded 5 c.cxid) h.ctx hst hw
  exact ⟨_, (exec_sealCx s h.small).trans (congrArg _ (commandOn_pending h nofun hev)), rfl, fun a => congrArg (fun m => sget 0 m a) hmem,
    hctx, groups, queues, circuits⟩

end

/-- Settles O57: every part of the reset state is as the rules give it, by evaluation. -/
theorem resetState : Obligations.ResetState :=
  ⟨rfl, rfl, rfl, rfl, rfl, rfl, rfl, rfl, rfl, rfl, rfl, rfl, rfl, rfl, rfl⟩

/-- Settles O39: a command outside its states ends without effect (commands_refused); in them each event does what R76 to R82 say. -/
theorem contextCommandsFollowTheTable : Obligations.ContextCommandsFollowTheTable := by
  unfold Obligations.ContextCommandsFollowTheTable
  refine ⟨commands_refused, fun s cx r first far hr hp hcx hdir hfree haln hrec hsave hfits hrun hfar hhard => ?_, fun s cx c h hid => ?_⟩
  · obtain ⟨t, c, hexec, answered, arg, mem, ctxs, hc, queues⟩ := bind_spec hr hp hcx hdir hfree haln hrec hsave hfits hrun hfar hhard
    exact ⟨t, c, hexec, answered, arg, mem, ctxs, hc.cxid, hc.st, hc.bindRec, hc.firstIface, hc.farHome, hc.gen, hc.slot, hc.keySlot,
      hc.pages, queues⟩
  · subst hid
    extract_lets sent held partner
    refine ⟨lock_spec h, unlock_spec h, fun hr => ⟨fun ht hst => start_error h ht (startEv_badstate _ (.inr hr)),
      fun hst => restore_error h (restoreEv_badstate _ (.inr hr))⟩, fun hr ht hst hheld hp s1 r s2 c2 => start_spec h hr ht hst hheld hp,
      fun hr ht hst hheld => start_error h ht (startEv_slotErr (s := s.commanded 4 _) hst hr (slotErr_held (s := s.commanded 4 _) hheld)),
      fun hr hst hheld hp => restore_spec h hr hst hheld hp,
      fun hr hst hheld => restore_error h (restoreEv_slotErr (s := s.commanded 6 _) hst hr (slotErr_held (s := s.commanded 6 _) hheld)),
      seal_spec h⟩

end Sys2Proof.Machine
end

section
/-! PROOFS. Contexts end: what *reset*, *tdierror*, *flr*, *stop*, *retire* and *release* leave of a context (spec/04_context.md R72, R75,
R86, R322). -/

namespace Sys2Proof.Machine

theorem cmdFinish_eq (s : State) (cx e : Nat) : ∃ b, s.cmdFinish cx e = { s with bar := b } := by
  unfold State.cmdFinish
  split
  · exact ⟨_, rfl⟩
  · exact ⟨s.bar, rfl⟩

theorem cmdFinish_idle {s : State} (h : s.bar.cmd.pending = none) (cx e : Nat) : s.cmdFinish cx e = s :=
  if_neg (by rw [h]; exact Bool.false_ne_true)

/-! ## *reset* and *tdierror* (R72, R86) -/

theorem Queue.resetEv_st (q : Queue) :
    q.resetEv.st = .detached ∨ q.resetEv.st = .paused ∧ q.resetEv.rdidx = q.resetEv.wridx ∧ q.resetEv.inflight = [] := by
  cases h : q.st <;> simp [Queue.resetEv, h]

/-- What *reset* and *tdierror* leave of a context c in the state st. -/
structure WasReset (t : State) (cx : Nat) (st : CxState) (c c' : Context) : Prop where
  noWork : NoWork t cx
  ctx : t.ctx? cx = some c'
  st : c'.st = st
  slot : c'.slot = false
  dsq : c'.dsq = []
  gen : c'.gen = c.gen
  queues : ∀ q ∈ t.queues, q.cx = cx → q.iface ≠ 4096 → q.st = .detached ∨ q.st = .paused ∧ q.rdidx = q.wridx ∧ q.inflight = []

theorem WasReset.withBar {t : State} {cx : Nat} {st : CxState} {c c' : Context} (h : WasReset t cx st c c') (b : Bar) :
    WasReset { t with bar := b } cx st c c' :=
  ⟨h.noWork, h.ctx, h.st, h.slot, h.dsq, h.gen, h.queues⟩

/-- The context behind *reset*, its work discarded. -/
def Context.resetTo (kek : Key) (st : CxState) (c : Context) : Context := { (c.unwrapKeys kek).freeSlot with st := st }

theorem resetTo_eq (s : State) (cx : Nat) (st : CxState) :
    s.resetTo cx st = ((((s.discardWork cx).mapQueues cx Queue.resetEv).updCtx cx (Context.resetTo s.modl.sealingKey st)).cmdFinish cx
      cmdBadstate) := rfl

theorem resetTo_spec {s : State} {cx : Nat} {c : Context} (st : CxState) (h : s.ctx? cx = some c) :
    (s.bar.cmd.pending = none → (s.resetTo cx st).bar = s.bar) ∧ ∃ c', WasReset (s.resetTo cx st) cx st c c' := by
  obtain ⟨u, hu, sameHost, noWork⟩ := discardWork_eq s cx
  obtain ⟨n, hcu⟩ := sameHost.ctx?_some h
  have emptied : (u.updCtx cx Context.emptied).ctx? cx = some { c with wdogFrom := n }.emptied := ctx?_updCtx _ (fun _ => rfl) hcu
  rw [resetTo_eq, hu]
  generalize hv : (((u.updCtx cx Context.emptied).mapQueues cx Queue.resetEv).updCtx cx (Context.resetTo s.modl.sealingKey st)) = v
  have ctx : v.ctx? cx = some ({ c with wdogFrom := n }.emptied.resetTo s.modl.sealingKey st) := by
    rw [← hv]
    exact ctx?_updCtx (s := (u.updCtx cx Context.emptied).mapQueues cx Queue.resetEv) _ (fun c => unwrapKeys_cxid c _) emptied
  have kept := unwrapKeys_kept { c with wdogFrom := n }.emptied s.modl.sealingKey
  simp only [Context.kept, Prod.mk.injEq] at kept
  obtain ⟨-, -, gen, dsq⟩ := kept
  have bar : v.bar = s.bar := by rw [← hv]; exact sameHost.bar
  have work : NoWork v cx := by rw [← hv]; exact noWork
  have queues : ∀ q ∈ v.queues, q.cx = cx → q.iface ≠ 4096 →
      q.st = .detached ∨ q.st = .paused ∧ q.rdidx = q.wridx ∧ q.inflight = [] := by
    intro q hq hcx hi
    rw [← hv] at hq
    obtain ⟨q', -, rfl⟩ := mem_mapQueues (s := u.updCtx cx Context.emptied) (f := Queue.resetEv) hq hcx hi
    exact Queue.resetEv_st q'
  obtain ⟨b, hb⟩ := cmdFinish_eq v cx cmdBadstate
  have idle (hp : s.bar.cmd.pending = none) : (v.cmdFinish cx cmdBadstate).bar = s.bar := by
    rw [cmdFinish_idle (by rw [bar, hp]), bar]
  refine ⟨idle, Context.resetTo s.modl.sealingKey st { c with wdogFrom := n }.emptied, ?_⟩
  rw [hb]
  exact ⟨work, ctx, rfl, rfl, dsq, gen, queues⟩

/-! ## *flr*, *stop*, *retire* and *release* (R72, R75) -/

theorem nextGen_of_ne {g : BitVec 16} (h : g ≠ 65535) : nextGen g = g + 1 := if_neg (by bv_omega)

theorem nextGen_last : nextGen 65535 = 1 := rfl

/-- Behind an erasure the context enters another state. -/
theorem Erased.enter {t : State} {cx : Nat} {c c' : Context} (h : Erased t cx c c') (st : CxState) :
    Erased (t.enter cx st) cx c { c' with st := st } where
  noWork := h.noWork
  ctx := ctx?_enter st h.ctx
  bindRec := h.bindRec
  gen := h.gen
  dsq := h.dsq
  slot := h.slot
  sheaf := h.sheaf
  session := h.session
  stream := h.stream
  queues := h.queues

theorem Erased.withBar {t : State} {cx : Nat} {c c' : Context} (h : Erased t cx c c') (b : Bar) : Erased { t with bar := b } cx c c' :=
  ⟨h.noWork, h.ctx, h.bindRec, h.gen, h.dsq, h.slot, h.sheaf, h.session, h.stream, h.queues⟩

/-- *flr* and *stop*: into BOUND. -/
theorem erase_bound_spec {s : State} {cx : Nat} {c : Context} (h : s.ctx? cx = some c) :
    let t := ((s.eraseContext cx).enter cx .bound).cmdFinish cx cmdBadstate
    ∃ c', Erased t cx c c' ∧ c'.st = .bound ∧ (s.bar.cmd.pending = none → t.bar = s.bar) := by
  obtain ⟨bar, c', erased⟩ := eraseContext_spec h
  generalize s.eraseContext cx = u at bar erased ⊢
  refine ⟨{ c' with st := .bound }, ?_, rfl, fun hp => ?_⟩
  · obtain ⟨b, hb⟩ := cmdFinish_eq (u.enter cx .bound) cx cmdBadstate
    rw [hb]
    exact (erased.enter .bound).withBar b
  · rw [cmdFinish_idle]
    · exact bar
    · exact (congrArg (fun b => b.cmd.pending) bar).trans hp

theorem flrEv_listed {s : State} {c : Context}
    (h : c.st ∈ [CxState.bound, .locked, .run, .sealing, .sealed, .restoring, .halted, .error]) :
    s.flrEv c = (((s.eraseContext c.cxid).enter c.cxid .bound).cmdFinish c.cxid cmdBadstate, some 0) := by
  unfold State.flrEv
  cases hst : c.st with
  | retired => simp [hst] at h
  | _ => rfl

theorem stopEv_listed {s : State} {c : Context} (h : c.st ∈ [CxState.locked, .run, .sealing, .sealed, .restoring, .halted, .error]) :
    s.stopEv c = (((s.eraseContext c.cxid).enter c.cxid .bound).cmdFinish c.cxid cmdBadstate, some 0) := by
  unfold State.stopEv
  cases hst : c.st with
  | bound | retired => simp [hst] at h
  | _ => rfl

theorem resetEv_listed {s : State} {c : Context} (h : c.st ∈ [CxState.run, .sealing, .restoring, .halted]) :
    s.resetEv c = (s.resetTo c.cxid (if c.bindRec.tdi = true then .error else .locked), some 0) := by
  unfold State.resetEv
  cases hst : c.st with
  | bound | locked | sealed | error | retired => simp [hst] at h
  | _ => rfl

theorem retireEv_listed {s : State} {c : Context} (h : c.st ∈ [CxState.bound, .locked, .sealed, .halted, .error]) :
    s.retireEv c = (s.retireCtx c.cxid, some 0) := by
  unfold State.retireEv
  cases hst : c.st with
  | run | sealing | restoring | retired => simp [hst] at h
  | _ => rfl

/-- The context behind *retire*, erased (R72, R322). -/
def Context.retire (c : Context) : Context :=
  { c with st := .retired, poolLocal := [], poolFar := [], farMeta := [], pages := [], inUse := 0, kdt := [],
           gran := { c.gran with fixed := false, frames := [] } }

/-- The grants of share domains to a context end (R322). -/
def State.ungrant (s : State) (cx : Nat) : State :=
  let ended := upd (fun (d : ShareDomain) => d.granted == some cx) (fun d => { d with granted := none }) s.modl.domains
  { s with modl := { s.modl with domains := ended } }

theorem retireCtx_eq (s : State) (cx : Nat) : s.retireCtx cx = ((s.eraseContext cx).ungrant cx).updCtx cx Context.retire := rfl

theorem retireCtx_spec {s : State} {cx : Nat} {c : Context} (h : s.ctx? cx = some c) :
    (s.retireCtx cx).bar = s.bar ∧ (∃ c' : Context, Erased (s.retireCtx cx) cx c c'.retire)
      ∧ ∀ d ∈ (s.retireCtx cx).modl.domains, d.granted ≠ some cx := by
  obtain ⟨bar, c', e⟩ := eraseContext_spec h
  rw [retireCtx_eq]
  generalize s.eraseContext cx = u at bar e ⊢
  have ctx : ((u.ungrant cx).updCtx cx Context.retire).ctx? cx = some c'.retire := ctx?_updCtx (s := u.ungrant cx) _ (fun _ => rfl) e.ctx
  refine ⟨bar, ⟨c', ⟨e.noWork, ctx, e.bindRec, e.gen, e.dsq, e.slot, e.sheaf, e.session, e.stream, e.queues⟩⟩, fun d hd => ?_⟩
  obtain ⟨d', -, rfl⟩ := mem_upd.mp hd
  split
  · exact nofun
  next hne => simpa using hne

/-- *release* of a RETIRED context: its CXID is free, its queues are gone. -/
theorem releaseEv_spec {s : State} {c : Context} (hst : c.st = .retired) :
    ∃ t, s.releaseEv c = (t, some 0) ∧ t.bar.cmd = s.bar.cmd ∧ t.mem = s.mem ∧ t.ctx? c.cxid = none
      ∧ (∀ x, x ≠ c.cxid → t.ctx? x = s.ctx? x) ∧ ∀ q ∈ t.queues, q.cx = c.cxid → q.iface = 4096 := by
  refine ⟨_, if_pos (beq_iff_eq.mpr hst), rfl, rfl, ?_, fun x hx => ?_, fun q hq hcx => ?_⟩
  · exact List.find?_eq_none.mpr fun x hx => by simpa using (List.mem_filter.mp hx).2
  · refine List.find?_filter.trans (congrArg (List.find? · s.ctxs) (funext fun y => ?_))
    by_cases hy : y.cxid = x <;> simp [hy, hx]
  · simpa [hcx, hvIface] using (List.mem_filter.mp hq).2

end Sys2Proof.Machine
end

section
/-! PROOFS. The commands and TDISP messages that end or move a context (spec/04_context.md R72, R76; spec/17_link.md R345, R352 to R354).
-/

namespace Sys2Proof.Machine

/-! ## RESET, FLR, STOP, RETIRE and RELEASE as commands (R72, R76) -/

section
variable {s : State} {cx : Nat} {c : Context} (h : Commands s cx c)
include h

/-- A command whose event ends; t is the state behind the event. -/
theorem ended_spec {i : Instr} {op : Nat} {tdi : Bool} {k : State → Context → State × Option Nat} {t : State}
    (hi : exec i s = .next (s.commandOn op cx tdi k)) (ht : tdi = true → c.bindRec.tdi = false)
    (hk : k (s.commanded op cx) c = (t, some 0)) (hbar : t.bar.cmd = (s.commanded op cx).bar.cmd) :
    exec i s = .next (t.cmdEnd cx 0) ∧ Answered (t.cmdEnd cx 0) op cx 0 :=
  ⟨hi.trans (congrArg _ (commandOn_ended h ht hk)), answered_cmdEnd 0 hbar⟩

theorem reset_spec (hst : c.st ∈ [CxState.run, .sealing, .restoring, .halted]) :
    ∃ t c', exec (.reset cx) s = .next t ∧ Answered t 7 cx 0 ∧ WasReset t cx (if c.bindRec.tdi = true then .error else .locked) c c' := by
  obtain rfl := h.cxid
  obtain ⟨bar, c', r⟩ := resetTo_spec (s := s.commanded 7 c.cxid) (if c.bindRec.tdi = true then .error else .locked) h.ctx
  obtain ⟨hexec, answered⟩ := ended_spec (tdi := false) h (exec_reset s h.small) nofun (resetEv_listed hst) (congrArg Bar.cmd (bar h.idle))
  exact ⟨_, c', hexec, answered, r.withBar _⟩

theorem flr_spec (hst : c.st ∈ [CxState.bound, .locked, .run, .sealing, .sealed, .restoring, .halted, .error]) :
    ∃ t c', exec (.flr cx) s = .next t ∧ Answered t 8 cx 0 ∧ Erased t cx c c' ∧ c'.st = .bound := by
  obtain rfl := h.cxid
  obtain ⟨c', e, hbound, bar⟩ := erase_bound_spec (s := s.commanded 8 c.cxid) h.ctx
  obtain ⟨hexec, answered⟩ := ended_spec (tdi := false) h (exec_flr s h.small) nofun (flrEv_listed hst) (congrArg Bar.cmd (bar h.idle))
  exact ⟨_, c', hexec, answered, e.withBar _, hbound⟩

theorem stop_spec (ht : c.bindRec.tdi = false) (hst : c.st ∈ [CxState.locked, .run, .sealing, .sealed, .restoring, .halted, .error]) :
    ∃ t c', exec (.stop cx) s = .next t ∧ Answered t 11 cx 0 ∧ Erased t cx c c' ∧ c'.st = .bound := by
  obtain rfl := h.cxid
  obtain ⟨c', e, hbound, bar⟩ := erase_bound_spec (s := s.commanded 11 c.cxid) h.ctx
  obtain ⟨hexec, answered⟩ := ended_spec h (exec_stop s h.small) (fun _ => ht) (stopEv_listed hst) (congrArg Bar.cmd (bar h.idle))
  exact ⟨_, c', hexec, answered, e.withBar _, hbound⟩

theorem retire_spec (hst : c.st ∈ [CxState.bound, .locked, .sealed, .halted, .error]) :
    ∃ (t : State) (c' : Context), exec (.retire cx) s = .next t ∧ Answered t 9 cx 0 ∧ Erased t cx c c'.retire
      ∧ ∀ d ∈ t.modl.domains, d.granted ≠ some cx := by
  obtain rfl := h.cxid
  obtain ⟨bar, ⟨c', e⟩, domains⟩ := retireCtx_spec (s := s.commanded 9 c.cxid) h.ctx
  obtain ⟨hexec, answered⟩ := ended_spec (tdi := false) h (exec_retire s h.small) nofun (retireEv_listed hst) (congrArg Bar.cmd bar)
  exact ⟨_, c', hexec, answered, e.withBar _, domains⟩

theorem release_spec (hst : c.st = .retired) :
    ∃ t, exec (.release cx) s = .next t ∧ Answered t 10 cx 0 ∧ SameMem s t ∧ t.ctx? cx = none
      ∧ (∀ x, x ≠ cx → t.ctx? x = s.ctx? x) ∧ ∀ q ∈ t.queues, q.cx = cx → q.iface = 4096 := by
  obtain rfl := h.cxid
  obtain ⟨t, hev, cmd, mem, gone, others, queues⟩ := releaseEv_spec (s := s.commanded 10 c.cxid) hst
  obtain ⟨hexec, answered⟩ := ended_spec (tdi := false) h (exec_release s h.small) nofun hev cmd
  exact ⟨_, hexec, answered, fun a => congrArg (fun m => sget 0 m a) mem, gone, others, queues⟩

end

/-! ## TDIERROR (R72) -/

theorem tdierrorEv_unlisted (s : State) {c : Context}
    (h : ¬ (c.bindRec.tdi = true ∧ c.st ∈ [CxState.locked, .run, .sealing, .sealed, .restoring, .halted])) : s.tdierrorEv c = s := by
  unfold State.tdierrorEv
  cases hst : c.st with
  | bound | error | retired => rfl
  | _ => exact if_neg fun ht => h ⟨ht, by simp [hst]⟩

theorem tdierrorEv_listed {s : State} {c : Context} (ht : c.bindRec.tdi = true)
    (h : c.st ∈ [CxState.locked, .run, .sealing, .sealed, .restoring, .halted]) : s.tdierrorEv c = s.resetTo c.cxid .error := by
  unfold State.tdierrorEv
  cases hst : c.st with
  | bound | error | retired => simp [hst] at h
  | _ => exact if_pos ht

theorem tdierror_spec {s : State} {cx : Nat} {c : Context} (hc : s.ctx? cx = some c) :
    let hit := c.bindRec.tdi = true ∧ c.st ∈ [CxState.locked, .run, .sealing, .sealed, .restoring, .halted]
    (hit → ∃ t c', exec (.tdierror cx) s = .next t ∧ NoWork t cx ∧ t.ctx? cx = some c' ∧ c'.st = .error ∧ c'.slot = false)
    ∧ (¬ hit → exec (.tdierror cx) s = .next s) := by
  intro hit
  have event : exec (.tdierror cx) s = .next (s.tdierrorEv c) := by
    show Host.Outcome.next (match s.ctx? cx with | none => s | some c => s.tdierrorEv c) = _
    rw [hc]
  obtain rfl := cxid_of_ctx? hc
  refine ⟨fun ⟨ht, hst⟩ => ?_, fun h => event.trans (congrArg _ (tdierrorEv_unlisted s h))⟩
  obtain ⟨-, c', r⟩ := resetTo_spec .error hc
  exact ⟨_, c', event.trans (congrArg _ (tdierrorEv_listed ht hst)), r.noWork, r.ctx, r.st, r.slot⟩

/-! ## TDISP (R345, R353, R354) -/

theorem exec_lockInterface (cx sess stream : Nat) (s : State) :
    exec (.lockInterfaceRequest cx sess stream) s = .next (match s.session? sess, s.ctx? cx with
      | some x, some c =>
        if c.bindRec.tdi && s.modl.ideStreams.any fun e => e.1 == stream then
          match s.lockEv c with
          | (s1, some 0) => (s1.updCtx cx fun c =>
              { c with session := some sess, stream := some stream, transKey := Config.hkdf x.secret (transInfo cx c.gen),
                       noSession := false }).reportTdisp cx
          | (s1, _) => s1.reportTdisp cx
        else s
      | _, _ => s) := rfl

theorem tdisp_skipped {s : State} {cx sess : Nat} (k : Context → State)
    (h : s.session? sess = none ∨ ∀ c, s.ctx? cx = some c → c.bindRec.tdi = false ∨ c.session ≠ some sess) : s.tdisp cx sess k = s := by
  unfold State.tdisp
  split
  next x c hx hc =>
    refine if_neg fun hon => ?_
    rcases h with h | h
    · exact absurd (hx.symm.trans h) nofun
    · rcases h c hc with h | h <;> simp [h] at hon
  · rfl

theorem tdisp_taken {s : State} {cx sess : Nat} {x : SpdmSession} {c : Context} (k : Context → State) (hx : s.session? sess = some x)
    (hc : s.ctx? cx = some c) (ht : c.bindRec.tdi = true) (hs : c.session = some sess) : s.tdisp cx sess k = (k c).reportTdisp cx := by
  rw [State.tdisp, hx, hc]
  exact if_pos (by simp [ht, hs])

/-- The host is told the state that R71 gives the TDI. -/
theorem reportTdisp_eq {s : State} {cx : Nat} {c : Context} (hc : s.ctx? cx = some c) (ht : c.bindRec.tdi = true) :
    s.reportTdisp cx = { s with hostEvents := s.hostEvents ++ (tdispOf c.st).toList.map fun r => HostEvent.tdispState cx r } := by
  have shown : (s.ctx? cx).bind Context.tdisp? = tdispOf c.st := by
    rw [hc]
    exact if_pos ht
  rw [State.reportTdisp, shown]
  cases tdispOf c.st with
  | none =>
    have : s.hostEvents ++ (Option.toList none).map (fun r => HostEvent.tdispState cx r) = s.hostEvents := List.append_nil _
    rw [this]
  | some r => rfl

/-- A lock outside BOUND only reports. -/
theorem lockInterface_refused {s : State} {cx sess stream : Nat} {x : SpdmSession} {c : Context} (hx : s.session? sess = some x)
    (hc : s.ctx? cx = some c) (ht : c.bindRec.tdi = true) (hide : ∃ e ∈ s.modl.ideStreams, e.1 = stream) (hst : c.st ≠ .bound) :
    exec (.lockInterfaceRequest cx sess stream) s = .next (s.reportTdisp cx) := by
  have taken : (c.bindRec.tdi && s.modl.ideStreams.any fun e => e.1 == stream) = true := by simpa [ht] using hide
  rw [exec_lockInterface, hx, hc]
  dsimp only
  rw [if_pos taken, lockEv_badstate s (by simpa using hst)]
  rfl

/-- The TDI that a LOCK_INTERFACE_REQUEST leaves. -/
def Context.lockedBy (x : SpdmSession) (cx sess stream : Nat) (c : Context) : Context :=
  { c with session := some sess, stream := some stream, transKey := Config.hkdf x.secret (transInfo cx c.gen), noSession := false }

/-- A lock in BOUND: the session, the stream and the transport key enter the context. -/
theorem lockInterface_spec {s : State} {cx sess stream : Nat} {x : SpdmSession} {c : Context} (hx : s.session? sess = some x)
    (hc : s.ctx? cx = some c) (ht : c.bindRec.tdi = true) (hide : ∃ e ∈ s.modl.ideStreams, e.1 = stream) (hst : c.st = .bound) :
    ∃ t, exec (.lockInterfaceRequest cx sess stream) s = .next t
      ∧ OnlyContext s { t with hostEvents := s.hostEvents } c (({ c with st := .locked } : Context).lockedBy x cx sess stream)
      ∧ t.hostEvents = s.hostEvents ++ [.tdispState cx .configLocked] := by
  obtain rfl := cxid_of_ctx? hc
  have taken : (c.bindRec.tdi && s.modl.ideStreams.any fun e => e.1 == stream) = true := by simpa [ht] using hide
  have event : s.lockEv c = (s.enter c.cxid .locked, some 0) := if_pos (beq_iff_eq.mpr hst)
  have ctx : ((s.enter c.cxid .locked).updCtx c.cxid (Context.lockedBy x c.cxid sess stream)).ctx? c.cxid
      = some (({ c with st := .locked } : Context).lockedBy x c.cxid sess stream) :=
    ctx?_updCtx _ (fun _ => rfl) (ctx?_enter .locked hc)
  have others (y : Nat) (hy : y ≠ c.cxid) :
      ((s.enter c.cxid .locked).updCtx c.cxid (Context.lockedBy x c.cxid sess stream)).ctx? y = s.ctx? y :=
    (ctx?_updCtx_other (Context.lockedBy x c.cxid sess stream) (fun _ => rfl) hy).trans
      (ctx?_updCtx_other (fun c => { c with st := .locked }) (fun _ => rfl) hy)
  refine ⟨{ (s.enter c.cxid .locked).updCtx c.cxid (Context.lockedBy x c.cxid sess stream) with
    hostEvents := s.hostEvents ++ [.tdispState c.cxid .configLocked] }, ?_, ⟨rfl, rfl, ctx, others⟩, rfl⟩
  rw [exec_lockInterface, hx, hc]
  dsimp only
  rw [if_pos taken, event]
  exact congrArg _ (reportTdisp_eq ctx ht)

/-! ### STOP_INTERFACE_REQUEST and START_INTERFACE_REQUEST -/

theorem exec_startInterface (cx sess : Nat) (s : State) :
    exec (.startInterfaceRequest cx sess) s = .next (s.tdisp cx sess fun c => (s.startEv c).1) := rfl

theorem exec_stopInterface (cx sess : Nat) (s : State) :
    exec (.stopInterfaceRequest cx sess) s = .next (s.tdisp cx sess fun c => (s.stopEv c).1) := rfl

section
variable {s : State} {cx sess : Nat} {x : SpdmSession} {c : Context} (hx : s.session? sess = some x) (hc : s.ctx? cx = some c)
  (ht : c.bindRec.tdi = true) (hs : c.session = some sess)
include hx hc ht hs

theorem startInterface_refused (h : c.st ≠ .locked ∨ s.modl.recovering ≠ none) :
    exec (.startInterfaceRequest cx sess) s = .next (s.reportTdisp cx) := by
  rw [exec_startInterface, tdisp_taken _ hx hc ht hs, startEv_badstate s h]

theorem startInterface_spec (hst : c.st = .locked) (hr : s.modl.recovering = none) (he : s.slotErr c = none) {s1 s2 : State} {r : Rcb}
    {c2 : Context} (hrcb : s.readRcb cx c.bindRec.rootRcb = (s1, some r)) (hfix : s1.fixTables cx = some s2) (hc2 : s2.ctx? cx = some c2) :
    ∃ t c', exec (.startInterfaceRequest cx sess) s = .next t ∧ SameMem s2 t ∧ t.ctx? cx = some c' ∧ c'.st = .run ∧ c'.slot = true
      ∧ HostEvent.tdispState cx .run ∈ t.hostEvents ∧ ∀ q ∈ t.queues, q.cx = cx → q.iface ≠ 4096 → q.st ≠ .detached := by
  obtain rfl := cxid_of_ctx? hc
  obtain ⟨t, event, -, hmem, ctx, queues⟩ := startEv_spec hst hr he hrcb hfix hc2
  have tdi : c2.bindRec.tdi = true := by
    have read := (SameHost.readRcb s c.cxid c.bindRec.rootRcb).quiet c.cxid
    rw [hrcb] at read
    obtain ⟨c', hc', kept⟩ := (read.trans (Quiet.fixTables hfix)).ctx? hc
    obtain rfl : c2 = c' := Option.some.inj (hc2.symm.trans hc')
    have bindRec : c2.bindRec = c.bindRec := congrArg (fun k => k.2.1) kept
    rw [bindRec, ht]
  refine ⟨{ t with hostEvents := t.hostEvents ++ [.tdispState c.cxid .run] }, _, ?_, fun a => congrArg (fun m => sget 0 m a) hmem, ctx, rfl, rfl,
    List.mem_append_right _ (List.mem_singleton.mpr rfl), queues⟩
  rw [exec_startInterface, tdisp_taken _ hx hc ht hs, event]
  exact congrArg _ (reportTdisp_eq ctx tdi)

theorem stopInterface_refused (h : c.st ∉ [CxState.locked, .run, .sealing, .sealed, .restoring, .halted, .error]) :
    exec (.stopInterfaceRequest cx sess) s = .next (s.reportTdisp cx) := by
  rw [exec_stopInterface, tdisp_taken _ hx hc ht hs, stopEv_badstate s h]

theorem stopInterface_spec (hst : c.st ∈ [CxState.locked, .run, .sealing, .sealed, .restoring, .halted, .error]) :
    ∃ t c', exec (.stopInterfaceRequest cx sess) s = .next t ∧ Erased t cx c c' ∧ c'.st = .bound
      ∧ HostEvent.tdispState cx .configUnlocked ∈ t.hostEvents := by
  obtain rfl := cxid_of_ctx? hc
  obtain ⟨c', e, hbound, -⟩ := erase_bound_spec hc
  have event := stopEv_listed (s := s) hst
  generalize ((s.eraseContext c.cxid).enter c.cxid .bound).cmdFinish c.cxid cmdBadstate = t at e event
  have tdi : c'.bindRec.tdi = true := by rw [e.bindRec, ht]
  have reported := reportTdisp_eq e.ctx tdi
  rw [hbound] at reported
  refine ⟨{ t with hostEvents := t.hostEvents ++ [.tdispState c.cxid .configUnlocked] }, c', ?_,
    ⟨e.noWork, e.ctx, e.bindRec, e.gen, e.dsq, e.slot, e.sheaf, e.session, e.stream, e.queues⟩, hbound,
    List.mem_append_right _ (List.mem_singleton.mpr rfl)⟩
  rw [exec_stopInterface, tdisp_taken _ hx hc ht hs, event]
  exact congrArg _ reported

end

/-- A TDISP message with no session, or on no context, or on a context that is no TDI, has no effect. -/
theorem tdisp_ignored {s : State} {cx sess : Nat} (stream : Nat)
    (h : s.session? sess = none ∨ ∀ c, s.ctx? cx = some c → c.bindRec.tdi = false) :
    ∀ i ∈ [Instr.lockInterfaceRequest cx sess stream, .startInterfaceRequest cx sess, .stopInterfaceRequest cx sess], exec i s = .next s := by
  have skipped (k : Context → State) : s.tdisp cx sess k = s := tdisp_skipped k (h.imp id fun h c hc => .inl (h c hc))
  simp only [List.mem_cons, List.not_mem_nil, or_false, forall_eq_or_imp, forall_eq]
  refine ⟨?_, congrArg _ (skipped _), congrArg _ (skipped _)⟩
  rw [exec_lockInterface]
  split
  next x c hx hc =>
    rcases h with h | h
    · exact absurd (hx.symm.trans h) nofun
    · rw [if_neg (by simp [h c hc])]
  · rfl

/-- A start or stop on another session than the one that locked the TDI has no effect (R353). -/
theorem tdisp_foreign {s : State} {cx sess : Nat} {c : Context} (hc : s.ctx? cx = some c) (hs : c.session ≠ some sess) :
    ∀ i ∈ [Instr.startInterfaceRequest cx sess, .stopInterfaceRequest cx sess], exec i s = .next s := by
  have skipped (k : Context → State) : s.tdisp cx sess k = s :=
    tdisp_skipped k (.inr fun c' hc' => .inr (Option.some.inj (hc.symm.trans hc') ▸ hs))
  simp only [List.mem_cons, List.not_mem_nil, or_false, forall_eq_or_imp, forall_eq]
  exact ⟨congrArg _ (skipped _), congrArg _ (skipped _)⟩

/-- A lock on a stream without a key has no effect (R352; log 36). -/
theorem lockInterface_unkeyed {s : State} {stream : Nat} (cx sess : Nat) (h : ∀ e ∈ s.modl.ideStreams, e.1 ≠ stream) :
    exec (.lockInterfaceRequest cx sess stream) s = .next s := by
  have unkeyed : (s.modl.ideStreams.any fun e => e.1 == stream) = false := by simpa using h
  rw [exec_lockInterface]
  split
  · rw [if_neg (by simp [unkeyed])]
  · rfl

end Sys2Proof.Machine
end

section
/-! PROOFS. Contexts end, and TDISP messages move an interface, as the table of R72 says (spec/04_context.md; spec/17_link.md R353, R354).
-/

namespace Sys2Proof.Machine

/-- Settles O40: *reset* by resetTo_spec, *flr*, *stop* and *retire* by what an erasure leaves (eraseContext_spec), the TDISP messages by
the events that they raise. -/
theorem contextsEndAndTdisp : Obligations.ContextsEndAndTdisp := by
  unfold Obligations.ContextsEndAndTdisp
  refine ⟨⟨fun s cx c h hid => ?_, fun s cx c hc => tdierror_spec hc⟩, fun s cx sess stream => ?_⟩
  · extract_lets erased
    have is_erased {t : State} {c' : Context} {st : CxState} (e : Erased t cx c c') (hst : c'.st = st) : erased t st :=
      ⟨c', e.ctx, hst, e.slot, e.dsq, e.sheaf, e.session, fun hg => e.gen.trans (nextGen_of_ne hg),
        fun hg => e.gen.trans (hg ▸ nextGen_last), e.queues⟩
    refine ⟨fun hst => ?_, fun hst => ?_, fun ht hst => ?_, fun hst => ?_, release_spec h⟩
    · obtain ⟨t, c', hexec, answered, r⟩ := reset_spec h hst
      exact ⟨t, c', hexec, answered, r.noWork, r.ctx, r.st, r.slot, r.dsq, r.gen, r.queues⟩
    · obtain ⟨t, c', hexec, answered, e, hbound⟩ := flr_spec h hst
      exact ⟨t, hexec, answered, e.noWork, is_erased e hbound⟩
    · obtain ⟨t, c', hexec, answered, e, hbound⟩ := stop_spec h ht hst
      exact ⟨t, hexec, answered, e.noWork, is_erased e hbound⟩
    · obtain ⟨t, c', hexec, answered, e, domains⟩ := retire_spec h hst
      exact ⟨t, c'.retire, hexec, answered, e.noWork, is_erased e rfl, e.ctx, rfl, rfl, rfl, rfl, rfl, domains⟩
  · extract_lets requests
    refine ⟨fun i hi hnone => tdisp_ignored stream (hnone.imp id fun hn c hc => absurd (hn.symm.trans hc) nofun) i hi, fun c x hc hx =>
      ⟨fun i hi ht => tdisp_ignored stream (.inr fun c' hc' => Option.some.inj (hc.symm.trans hc') ▸ ht) i hi,
        fun i hi hs => tdisp_foreign hc hs i hi, lockInterface_unkeyed cx sess, ?_⟩⟩
    extract_lets told
    have told_eq (ht : c.bindRec.tdi = true) : s.reportTdisp cx = told := reportTdisp_eq hc ht
    refine ⟨fun ht hide hst => told_eq ht ▸ lockInterface_refused hx hc ht hide hst, lockInterface_spec hx hc, fun ht hs =>
      ⟨fun h => told_eq ht ▸ startInterface_refused hx hc ht hs h, fun hst hr hheld hp s1 r s2 c2 hrcb hfix hc2 => ?_, fun hst => ?_,
        fun hst => ?_⟩⟩
    · obtain rfl := cxid_of_ctx? hc
      exact startInterface_spec hx hc ht hs hst hr (slotErr_free hheld hp) hrcb hfix hc2
    · rw [← told_eq ht]
      exact stopInterface_refused hx hc ht hs (by rcases List.mem_pair.mp hst with h | h <;> simp [h])
    · obtain ⟨t, c', hexec, e, hbound, report⟩ := stopInterface_spec hx hc ht hs hst
      exact ⟨t, c', hexec, e.noWork, e.ctx, hbound, e.session, e.stream, report⟩

end Sys2Proof.Machine
end

section
/-! PROOFS. The save engine, the granary's replay and the watchdog of a context (spec/04_context.md R76, R80 to R82, R85; spec/17_link.md
R349). -/

namespace Sys2Proof.Machine

/-! ## The watches of an image are posted (R227, R82) -/

theorem putWords_cx (g : Group) (uni : Bool) (d lane : Nat) (ws : List Word) : (g.putWords uni d lane ws).cx = g.cx :=
  foldl_proj Group.cx (fun g w => by
    split
    · exact g.setS_cx _ _
    · exact g.setP_cx _ _ _) _ g

namespace SameHost

theorem updOp (s : State) (id : Nat) (f : PendOp → PendOp) : SameHost s (s.updOp id f) := unchanged rfl

theorem acquireOf (s : State) (o : PendOp) (sc : Scope) : SameHost s (s.acquireOf o sc) := by
  unfold State.acquireOf State.acquire
  exact ite _ (ite _ (ite _ (updCore s _ _) (refl s)) (refl s)) (ite _ (refl s) (withOpGroup s o _ fun _ => by rfl))

theorem wakeWatch (s : State) (o : PendOp) (w64 : Bool) (sc : Scope) (d : Nat) (x : DWord) : SameHost s (s.wakeWatch o w64 sc d x) :=
  ite _ (updOp s _ _) (((withOpGroup s o _ fun g => putWords_cx g _ _ _ _).trans (acquireOf _ o sc)).trans (finishOp _ o.id))

theorem postWatch (s : State) (o : PendOp) (k : LineKey) (off : Nat) (cmp : WCmp) (u w64 : Bool) (v : DWord) (sc : Scope) (d va : Nat) :
    SameHost s (s.postWatch o k off cmp u w64 v sc d va) := by
  unfold State.postWatch
  generalize s.homeRead k = r
  obtain ⟨l, poi⟩ := r
  dsimp -zeta only
  extract_lets x s1
  have noted : SameHost s s1 := homeNote s k
  exact noted.trans (ite _ (failOp s1 o _ _ _ _) (ite _ (wakeWatch s1 o _ _ _ _) (ite _ (updOp s1 _ _) (updOp s1 _ _))))

end SameHost

namespace Quiet
variable {cx : Nat}

theorem sendWatch (s : State) (o : PendOp) (k : LineKey) (off : Nat) (cmp : WCmp) (u w64 : Bool) (v : DWord) (sc : Scope) (d va : Nat) :
    Quiet cx s (s.sendWatch o k off cmp u w64 v sc d va) := by
  unfold State.sendWatch
  split
  · exact ((SameHost.updOp s _ _).quiet cx).trans (podRequest _ _ _ _ _ _)
  · split
    · exact refl s
    next s1 e => exact (takeRequest e).trans ((SameHost.postWatch s1 o k off cmp u w64 v sc d va).quiet cx)

theorem watchPost (s : State) (op : Nat) : Quiet cx s (s.watchPost op) := by
  unfold State.watchPost
  split
  · exact refl s
  next o _ =>
    split
    next va k off cmp u w64 v sc d held woken _ =>
      split
      · exact ite _ (refl s) ((SameHost.wakeWatch s o _ _ _ _).quiet cx)
      · exact refl s
      · have keyed := SameHost.engineKey s k.cx va .read
        split
        · split
          next s1 k1 e =>
            rw [e] at keyed
            exact ((keyed.trans (.updOp s1 _ _)).quiet cx).trans (sendWatch _ _ _ _ _ _ _ _ _ _ _)
          · exact refl s
        · exact sendWatch s _ _ _ _ _ _ _ _ _ _
    · exact refl s

theorem installWatches (s : State) (x : Nat) : Quiet cx s (s.installWatches x) := foldl _ (fun s (o : PendOp) => watchPost s o.id) _ s

end Quiet

theorem installWatches_of_none {s : State} (h : ∀ o ∈ s.ops, o.flag ≠ flagRecorded) (cx : Nat) : s.installWatches cx = s := by
  have none_due : (s.ops.filter fun (o : PendOp) => o.flag == flagRecorded && ((s.group? o.grp).map fun g => g.cx == cx).getD false) = [] :=
    List.filter_eq_nil_iff.mpr fun o ho => by simp [h o ho]
  rw [State.installWatches, none_due]
  rfl

theorem resumeCircuits_mem (s : State) (cx : Nat) : (s.resumeCircuits cx).mem = s.mem :=
  ((ClockStands.moveCircuits s _ _).trans (.endSpent _ _)).mem

/-! ## SEAL and RESTORE end (R76, R80, R82) -/

/-- From s to t the SEAL or RESTORE of context cx has ended, where one was under way; otherwise the registers have not changed. -/
def Finished (s t : State) (cx : Nat) : Prop :=
  (s.bar.cmd.pending.map (·.2) = some cx → t.bar.cmd.pending = none ∧ t.bar.cmd.err = 0 ∧ t.bar.cmd.st = BitVec.ofNat 4 (t.cxStCode cx))
  ∧ (s.bar.cmd.pending.map (·.2) ≠ some cx → t.bar = s.bar)

theorem cmdFinish_cmd (s : State) (cx e : Nat) : ∃ r, s.cmdFinish cx e = { s with bar := { s.bar with cmd := r } } := by
  unfold State.cmdFinish
  split
  · exact ⟨_, rfl⟩
  · exact ⟨s.bar.cmd, rfl⟩

theorem finished_cmdFinish {s u : State} (cx : Nat) (h : u.bar = s.bar) : Finished s (u.cmdFinish cx cmdOk) cx := by
  unfold State.cmdFinish
  refine ⟨fun hp => ?_, fun hp => ?_⟩
  · rw [if_pos (by rw [h, hp]; exact beq_self_eq_true _)]
    exact ⟨rfl, rfl, rfl⟩
  · rw [if_neg (by rw [h]; simpa using hp)]
    exact h

/-- The context that SAVED leaves SEALED, its keys wrapped under kek (R80, R81). -/
def Context.saved (kek : Key) (c : Context) : Context := { (c.wrapKeys kek).freeSlot with st := .sealed }

section
variable {s : State} {cx : Nat} {c : Context} (h : s.ctx? cx = some c)
include h

/-- Every copy of the context has completed, and its images are complete (R80). -/
theorem saved_spec (hst : c.st = .sealing) (himages : ∀ im ∈ s.images, im.cx = cx → im.complete = true)
    (hcopies : ∀ k ∈ s.copies, k.cx ≠ cx) :
    ∃ t, exec (.saved cx) s = .next t ∧ OnlyContext s t c (c.saved s.modl.sealingKey) ∧ Finished s t cx := by
  have done : (c.st == .sealing && (s.images.all fun im => im.cx != cx || im.complete) && !(s.copies.any fun k => k.cx == cx)) = true := by
    simp only [hst, Bool.and_eq_true, List.all_eq_true, Bool.or_eq_true, bne_iff_ne, Bool.not_eq_true', List.any_eq_false, beq_iff_eq]
    exact ⟨⟨trivial, fun im him => or_iff_not_imp_left.mpr fun hne => himages im him (not_not.mp hne)⟩, hcopies⟩
  have event : exec (.saved cx) s = .next ((s.updCtx cx (Context.saved s.modl.sealingKey)).cmdFinish cx cmdOk) := by
    show Host.Outcome.next (match s.ctx? cx with | none => s | some c => _) = _
    rw [h]
    exact congrArg _ (if_pos done)
  obtain ⟨b, hb⟩ := cmdFinish_cmd (s.updCtx cx (Context.saved s.modl.sealingKey)) cx cmdOk
  refine ⟨_, event, ?_, finished_cmdFinish cx rfl⟩
  rw [hb]
  exact onlyContext_of_ctxs (f := Context.saved s.modl.sealingKey) (fun _ => rfl) h rfl rfl

theorem saved_waits (hn : c.st ≠ .sealing ∨ ¬ ((∀ im ∈ s.images, im.cx = cx → im.complete = true) ∧ ∀ k ∈ s.copies, k.cx ≠ cx)) :
    exec (.saved cx) s = .next s := by
  show Host.Outcome.next (match s.ctx? cx with | none => s | some c => _) = _
  rw [h]
  refine congrArg _ (if_neg fun hon => ?_)
  simp only [Bool.and_eq_true, List.all_eq_true, Bool.or_eq_true, bne_iff_ne, Bool.not_eq_true', List.any_eq_false, beq_iff_eq] at hon
  obtain ⟨⟨hst, himages⟩, hcopies⟩ := hon
  rcases hn with hn | hn
  · exact hn hst
  · exact hn ⟨fun im him hcx => (himages im him).resolve_left (not_not.mpr hcx), hcopies⟩

end

/-- The image of a context is back where none of its sealed sets is left (R82). -/
theorem toRestore_iff (s : State) (cx : Nat) : s.toRestore cx = false ↔ ∀ im ∈ s.images, im.cx = cx → im.reason ≠ .seal := by
  simp [State.toRestore]

theorem Queue.tryDrained_spause {q : Queue} (h : q.spause = false) : q.tryDrained.spause = false := by
  unfold Queue.tryDrained Queue.ring
  split
  · dsimp only
    split <;> exact h
  · exact h

theorem Queue.ring_spause {q : Queue} (h : q.spause = false) : q.ring.spause = false := by
  unfold Queue.ring
  split <;> exact h

/-- A queue that *sresume* leaves SPAUSE is not one that it moves. -/
theorem Queue.sresumeEv_spause (q : Queue) (h : q.sresumeEv.spause = true) : q.sresumeEv.st ≠ .paused ∧ q.sresumeEv.st ≠ .error := by
  have off (hp : q.sresumeEv.spause = false) : False := Bool.false_ne_true (hp.symm.trans h)
  cases hst : q.st with
  | paused =>
    refine (off ?_).elim
    unfold Queue.sresumeEv
    rw [hst]
    dsimp only
    split
    · rfl
    · split
      · exact Queue.tryDrained_spause rfl
      · exact Queue.ring_spause rfl
  | error => exact (off (by simp [Queue.sresumeEv, hst])).elim
  | _ => simp [Queue.sresumeEv, hst]

section
variable {s : State} {cx : Nat} {c : Context} (h : s.ctx? cx = some c)
include h

/-- The context that RESTORED leaves RUN at cycle now. -/
def Context.restored (now : Nat) (c : Context) : Context := { c with st := .run, dsqPaused := false, wdogFrom := now }

theorem restored_event (hst : c.st = .restoring) (hrep : c.gran.replayed = true) (hback : s.toRestore cx = false) :
    exec (.restored cx) s = .next (((((s.installWatches cx).updCtx cx (Context.restored s.cycle)).mapQueues cx Queue.sresumeEv).resumeCircuits
      cx).cmdFinish cx cmdOk) := by
  show Host.Outcome.next (match s.ctx? cx with | none => s | some c => _) = _
  rw [h]
  exact congrArg _ (if_pos (by simp [hst, hrep, hback]))

theorem restored_spec (hst : c.st = .restoring) (hrep : c.gran.replayed = true) (hback : s.toRestore cx = false) :
    ∃ t c', exec (.restored cx) s = .next t ∧ ((∀ o ∈ s.ops, o.flag ≠ flagRecorded) → SameMem s t) ∧ t.ctx? cx = some c'
      ∧ c'.st = .run ∧ c'.dsqPaused = false ∧ Finished s t cx
      ∧ ∀ q ∈ t.queues, q.cx = cx → q.iface ≠ 4096 → q.spause = true → q.st ≠ .paused ∧ q.st ≠ .error := by
  have event := restored_event h hst hrep hback
  have installed : Quiet cx s (s.installWatches cx) := .installWatches s cx
  have unwatched := installWatches_of_none (s := s) (cx := cx)
  generalize s.installWatches cx = u at event installed unwatched
  obtain ⟨c1, hc1, -⟩ := installed.ctx? h
  have entered : ((u.updCtx cx (Context.restored s.cycle)).mapQueues cx Queue.sresumeEv).ctx? cx = some (c1.restored s.cycle) :=
    ctx?_updCtx _ (fun _ => rfl) hc1
  have kept : ((u.updCtx cx (Context.restored s.cycle)).mapQueues cx Queue.sresumeEv).bar = u.bar
      ∧ ((u.updCtx cx (Context.restored s.cycle)).mapQueues cx Queue.sresumeEv).mem = u.mem := ⟨rfl, rfl⟩
  have queues {q : Queue} (hq : q ∈ ((u.updCtx cx (Context.restored s.cycle)).mapQueues cx Queue.sresumeEv).queues) (hcx : q.cx = cx)
      (hi : q.iface ≠ 4096) (hs : q.spause = true) : q.st ≠ .paused ∧ q.st ≠ .error := by
    obtain ⟨q', -, rfl⟩ := mem_mapQueues (f := Queue.sresumeEv) hq hcx hi
    exact Queue.sresumeEv_spause q' hs
  generalize (u.updCtx cx (Context.restored s.cycle)).mapQueues cx Queue.sresumeEv = v at event entered kept queues
  obtain ⟨bar, mem⟩ := kept
  have resumed := SameHost.resumeCircuits v cx
  obtain ⟨n, hctx⟩ := resumed.ctx?_some entered
  have finished := finished_cmdFinish (s := s) (u := v.resumeCircuits cx) cx (resumed.bar.trans (bar.trans installed.bar))
  obtain ⟨b, hb⟩ := cmdFinish_eq (v.resumeCircuits cx) cx cmdOk
  rw [hb] at event finished
  refine ⟨_, _, event, fun hw a => ?_, hctx, rfl, rfl, finished, fun q hq hcx hi => queues (resumed.queues q hq hi) hcx hi⟩
  exact congrArg (fun m => sget 0 m a) ((resumeCircuits_mem v cx).trans (mem.trans (congrArg State.mem (unwatched hw))))

theorem restored_waits (hn : c.st ≠ .restoring ∨ c.gran.replayed = false ∨ ¬ s.toRestore cx = false) : exec (.restored cx) s = .next s := by
  show Host.Outcome.next (match s.ctx? cx with | none => s | some c => _) = _
  rw [h]
  refine congrArg _ (if_neg fun hon => ?_)
  simp only [Bool.and_eq_true, beq_iff_eq, Bool.not_eq_true'] at hon
  obtain ⟨⟨hst, hrep⟩, hback⟩ := hon
  rcases hn with hn | hn | hn
  · exact hn hst
  · exact Bool.false_ne_true (hn.symm.trans hrep)
  · exact hn hback

/-! ## GRANARY_REPLAY (R349) -/

theorem granaryReplay_waits (hn : c.gran.replayed = true ∨ c.st ≠ .run ∧ ¬ (c.st = .restoring ∧ s.toRestore cx = false)) :
    exec (.granaryReplay cx) s = .next s := by
  show Host.Outcome.next (match s.ctx? cx with | none => s | some c => _) = _
  rw [h]
  refine congrArg _ (if_neg fun hon => ?_)
  simp only [Bool.and_eq_true, Bool.or_eq_true, beq_iff_eq, Bool.not_eq_true'] at hon
  obtain ⟨hst, hrep⟩ := hon
  rcases hn with hn | ⟨hrun, hrestoring⟩
  · exact Bool.false_ne_true (hrep.symm.trans hn)
  · exact hst.elim hrun hrestoring

/-- The replay of a context has ended. -/
def Context.replayEnded (c : Context) : Context := { c with gran := { c.gran with replayed := !c.gran.pendingReq } }

theorem replayOne_none (hreq : ∀ e ∈ c.gran.recs, e.2.2.isReq = false) : s.replayOne cx = some (s.updCtx cx Context.replayEnded) := by
  have none_left : (c.gran.recs.find? fun e => e.2.2.isReq) = none := List.find?_eq_none.mpr fun e he => by simp [hreq e he]
  unfold State.replayOne
  rw [h]
  dsimp only
  rw [none_left]
  rfl

theorem granaryReplay_spec (hrep : c.gran.replayed = false) (hst : c.st = .run ∨ c.st = .restoring ∧ s.toRestore cx = false)
    (hreq : ∀ e ∈ c.gran.recs, e.2.2.isReq = false) (hw : ∀ o ∈ s.ops, o.flag ≠ flagRecorded) :
    ∃ t, exec (.granaryReplay cx) s = .next t ∧ OnlyContext s t c { c with gran := { c.gran with replayed := true } } := by
  have event : exec (.granaryReplay cx) s = .next (s.updCtx cx Context.replayEnded) := by
    show Host.Outcome.next (match s.ctx? cx with | none => s | some c => _) = _
    rw [h]
    refine congrArg _ ((if_pos (by simpa [hrep] using hst)).trans ?_)
    dsimp only
    rw [installWatches_of_none hw, replayOne_none h hreq]
    rfl
  have ended : c.replayEnded = { c with gran := { c.gran with replayed := true } } := by
    have none_pending : c.gran.pendingReq = false := List.any_eq_false.mpr fun e he => by simp [hreq e he]
    rw [Context.replayEnded, none_pending]
    rfl
  exact ⟨_, event, ended ▸ onlyContext_of_ctxs (f := Context.replayEnded) (fun _ => rfl) h rfl rfl⟩

/-! ## CONTEXT_WATCHDOG_EXPIRY (R85) -/

/-- The place of a context's fault among the events of its cycle is noted (R73). -/
def State.faultNoted (s : State) (cx : Nat) : State := { s with taken := (.ctx cx, 4) :: s.taken }

theorem contextFault_eq (cause : Nat) (hst : c.st = .run) : s.contextFault cx cause =
    ((((((s.faultNoted cx).pauseQueues cx).flashback cx .fault fun _ => true).stopCircuits cx).enter cx .halted).emit (.cxFault cx cause)) := by
  have found : (s.faultNoted cx).ctx? cx = some c := h
  show (match (s.faultNoted cx).ctx? cx with | none => s | some c => _) = _
  rw [found]
  exact if_pos (beq_iff_eq.mpr hst)

theorem contextFault_run (cause : Nat) (hst : c.st = .run) :
    ∃ c', (s.contextFault cx cause).ctx? cx = some c' ∧ c'.st = .halted ∧ c'.dsqPaused = true
      ∧ HostEvent.cxFault cx cause ∈ (s.contextFault cx cause).hostEvents
      ∧ ∀ q ∈ (s.contextFault cx cause).queues, q.cx = cx → q.iface ≠ 4096 → q.st = .paused ∨ q.st = .error ∨ q.st = .detached := by
  have paused : ((s.faultNoted cx).pauseQueues cx).ctx? cx = some { c with dsqPaused := true } := ctx?_pauseQueues (s := s.faultNoted cx) h
  have queues {q : Queue} (hq : q ∈ ((s.faultNoted cx).pauseQueues cx).queues) (hcx : q.cx = cx) (hi : q.iface ≠ 4096) :
      q.st = .paused ∨ q.st = .error ∨ q.st = .detached := by
    obtain ⟨q', -, rfl⟩ := mem_mapQueues (s := s.faultNoted cx) (f := Queue.spauseEv) hq hcx hi
    exact Queue.spauseEv_st q'
  rw [contextFault_eq h cause hst]
  generalize (s.faultNoted cx).pauseQueues cx = u at paused queues ⊢
  have stopped : SameHost u ((u.flashback cx .fault fun _ => true).stopCircuits cx) := (SameHost.flashback u cx _ _).trans (.stopCircuits _ _)
  generalize (u.flashback cx .fault fun _ => true).stopCircuits cx = v at stopped ⊢
  obtain ⟨n, hv⟩ := stopped.ctx?_some paused
  exact ⟨_, ctx?_enter .halted hv, rfl, rfl, List.mem_append_right _ (List.mem_singleton.mpr rfl),
    fun q hq hcx hi => queues (stopped.queues q hq hi) hcx hi⟩

/-- A RUN context with a watchdog and work, whose last progress lies WDOG ms back (R85). -/
def State.contextExpired (s : State) (cx : Nat) (c : Context) : Prop :=
  c.st = .run ∧ c.bindRec.wdog ≠ 0 ∧ (∃ k ∈ s.kernels, k.cx = cx ∧ k.inPool = true) ∧ c.wdogFrom + 2250000 * c.bindRec.wdog ≤ s.cycle

omit h in
theorem contextExpired_iff : s.contextExpired cx c ↔ (c.st == .run && c.bindRec.wdog != 0 && (s.kernels.any fun k => k.cx == cx && k.inPool)
    && decide (s.cycle ≥ c.wdogFrom + msCycles c.bindRec.wdog)) = true := by
  simp [State.contextExpired, msCycles, and_assoc]

theorem contextWatchdogExpiry_eq :
    (s.contextExpired cx c → exec (.contextWatchdogExpiry cx) s = .next (s.contextFault cx 2))
    ∧ (¬ s.contextExpired cx c → exec (.contextWatchdogExpiry cx) s = .next s) := by
  rw [contextExpired_iff]
  have event : exec (.contextWatchdogExpiry cx) s = .next (if (c.st == .run && c.bindRec.wdog != 0
      && (s.kernels.any fun k => k.cx == cx && k.inPool) && decide (s.cycle ≥ c.wdogFrom + msCycles c.bindRec.wdog)) = true then
        s.contextFault cx faultWatchdog else s) := by
    show Host.Outcome.next (match s.ctx? cx with | none => s | some c => _) = _
    rw [h]
  exact ⟨fun hd => event.trans (congrArg _ (if_pos hd)), fun hd => event.trans (congrArg _ (if_neg hd))⟩

end

end Sys2Proof.Machine
end

section
/-! PROOFS. The command register of the BAR is a second way to each command (spec/04_context.md R74; spec/17_link.md R364). -/

namespace Sys2Proof.Machine

/-! ## REGISTER_WRITE (R74, R364) -/

theorem registerWrite_hidden {s : State} (h : s.modl.recovery = true) (off : Nat) (v : DWord) : exec (.registerWrite off v) s = .next s :=
  congrArg _ (if_pos h)

theorem registerWrite_bar {s : State} (h : s.modl.recovery = false) {off : Nat} (hoff : off < bar2) (v : DWord) :
    exec (.registerWrite off v) s = .next (s.writeBar off v) :=
  congrArg _ ((if_neg (by rw [h]; exact Bool.false_ne_true)).trans (if_pos hoff))

/-- A value of the command register with GO names the command. -/
theorem writeCmd_go {op cx : Nat} (s : State) (hop : op < 256) (hcx : cx < 65536) :
    s.writeCmd (BitVec.ofNat 32 (2 ^ 31 + 256 * cx + op)) = s.contextCommand op cx := by
  have value : (BitVec.ofNat 32 (2 ^ 31 + 256 * cx + op)).toNat = 2 ^ 31 + 256 * cx + op := by
    rw [BitVec.toNat_ofNat]
    omega
  generalize BitVec.ofNat 32 (2 ^ 31 + 256 * cx + op) = w at value
  have go : w.getLsbD 31 = true := by
    have : w.msb = true := by rw [BitVec.msb_eq_decide, value]; exact decide_eq_true (by omega)
    exact this
  have op_field : (w.extractLsb' 0 8).toNat = op := by
    rw [BitVec.extractLsb'_toNat, value, Nat.shiftRight_zero]
    omega
  have cx_field : (w.extractLsb' 8 16).toNat = cx := by
    rw [BitVec.extractLsb'_toNat, value, Nat.shiftRight_eq_div_pow]
    omega
  have taken : s.writeCmd w = s.contextCommand (w.extractLsb' 0 8).toNat (w.extractLsb' 8 16).toNat := if_pos go
  rw [taken, op_field, cx_field]

/-- The command register is a second way to the command that exec gives i. -/
theorem registerWrite_go {s : State} {v : DWord} {op cx : Nat} {i : Instr} (hi : exec i s = .next (s.contextCommand op cx)) (hop : op < 256)
    (hcx : cx < 65536) (hv : v.extractLsb' 0 32 = BitVec.ofNat 32 (2 ^ 31 + 256 * cx + op)) (hr : s.modl.recovery = false) :
    exec (.registerWrite 0x100 v) s = exec i s := by
  have written : s.writeBar 0x100 v = s.writeCmd (v.extractLsb' 0 32) := rfl
  rw [registerWrite_bar hr (by decide), hi, written, hv, writeCmd_go s hop hcx]

theorem writeBar_dirBase_bound {s : State} (h : s.ctxs ≠ []) (v : DWord) : s.writeBar 0x110 v = s :=
  if_neg (by simpa using h)

theorem writeBar_dirN_bound {s : State} (h : s.ctxs ≠ []) (v : DWord) : s.writeBar 0x118 v = s :=
  if_neg (by simpa using h)

theorem writeBar_dirN_free {s : State} (h : s.ctxs = []) (v : DWord) :
    s.writeBar 0x118 v = { s with bar := { s.bar with dirN := v.extractLsb' 0 17 } } :=
  if_pos (by rw [h]; rfl)

/-- A write that leaves the register as it is has no effect, whether or not the host sees the BAR. -/
theorem registerWrite_ignored {s : State} {off : Nat} {v : DWord} (hoff : off < bar2) (h : s.writeBar off v = s) :
    exec (.registerWrite off v) s = .next s := by
  cases hr : s.modl.recovery with
  | true => exact registerWrite_hidden hr off v
  | false => rw [registerWrite_bar hr hoff, h]

/-- Settles O41: what SAVED, RESTORED and GRANARY_REPLAY leave of a context, a fault of the context by its watchdog, and the registers of
the BAR. -/
theorem saveEngineWatchdogAndBar : Obligations.SaveEngineWatchdogAndBar := by
  unfold Obligations.SaveEngineWatchdogAndBar
  refine ⟨fun s cx c h => ?_, fun s v => ?_⟩
  · extract_lets saved back noWatch answered expired
    have image_back : s.toRestore cx = false ↔ back := toRestore_iff s cx
    refine ⟨fun hst hs => saved_spec h hst hs.1 hs.2, saved_waits h, fun hst hrep hb => restored_spec h hst hrep (image_back.mpr hb),
      fun hn => restored_waits h (by rwa [image_back]), fun hn => granaryReplay_waits h (by rwa [image_back]),
      fun hrep hst hreq hw => granaryReplay_spec h hrep (by rwa [image_back]) hreq hw, fun hd => ?_, (contextWatchdogExpiry_eq h).2⟩
    obtain ⟨c', hc', hhalted, hpaused, event, queues⟩ := contextFault_run h 2 hd.1
    exact ⟨_, c', (contextWatchdogExpiry_eq h).1 hd, hc', hhalted, hpaused, event, queues⟩
  · extract_lets go
    have reaches {i : Nat → Instr} {op : Nat} (hop : op < 256)
        (hi : ∀ cx, cx < 65536 → exec (i cx) s = .next (s.contextCommand op cx)) : go i op :=
      fun cx hcx hv hr => registerWrite_go (hi cx hcx) hop hcx hv hr
    exact ⟨fun off hr => registerWrite_hidden hr off v, reaches (by decide) fun _ => exec_bind s, reaches (by decide) fun _ => exec_lock s,
      reaches (by decide) fun _ => exec_unlock s, reaches (by decide) fun _ => exec_start s, reaches (by decide) fun _ => exec_sealCx s,
      reaches (by decide) fun _ => exec_restore s, reaches (by decide) fun _ => exec_reset s, reaches (by decide) fun _ => exec_flr s,
      reaches (by decide) fun _ => exec_retire s, reaches (by decide) fun _ => exec_release s, reaches (by decide) fun _ => exec_stop s,
      fun hr => registerWrite_bar hr (by decide) v, fun hne => ⟨registerWrite_ignored (by decide) (writeBar_dirBase_bound hne v),
        registerWrite_ignored (by decide) (writeBar_dirN_bound hne v)⟩,
      fun hr hnil => (registerWrite_bar hr (by decide) v).trans (congrArg _ (writeBar_dirN_free hnil v))⟩

end Sys2Proof.Machine
end

section
/-! PROOFS. The register writes of a notify page, as the transition table of a queue gives them (spec/05_queue.md R88 to R92; spec/17_link.md
R352). -/

namespace Sys2Proof.Machine

/-! ## A queue is found again -/

theorem queue?_iface {s : State} {n : Nat} {q : Queue} (h : s.queue? n = some q) : q.iface = n := by simpa using List.find?_some h

theorem queue?_updQueue (s : State) (n m : Nat) {f : Queue → Queue} (hf : ∀ q, (f q).iface = q.iface) :
    (s.updQueue n f).queue? m = (s.queue? m).map fun q => if q.iface == n then f q else q :=
  find?_upd _ _ _ _ fun q _ => by rw [hf]

theorem queue?_updQueue_same {s : State} {n : Nat} {q : Queue} {f : Queue → Queue} (hf : ∀ q, (f q).iface = q.iface)
    (h : s.queue? n = some q) : (s.updQueue n f).queue? n = some (f q) := by
  rw [queue?_updQueue s n n hf, h]
  simp [queue?_iface h]

theorem queue?_updQueue_other (s : State) {n m : Nat} (hm : m ≠ n) {f : Queue → Queue} (hf : ∀ q, (f q).iface = q.iface) :
    (s.updQueue n f).queue? m = s.queue? m := by
  rw [queue?_updQueue s n m hf]
  cases h : s.queue? m with
  | none => rfl
  | some q => simp [queue?_iface h, hm]

/-! ## The checks of R91 -/

/-- QSIZE is a power of two within its limits (R91). -/
def Queue.SizeOk (q : Queue) : Prop := 2 ≤ q.qsize ∧ q.qsize ≤ 65536 ∧ ∃ k, q.qsize = 2 ^ k

/-- The ring lies aligned below 2^57 (R91). -/
def Queue.BaseOk (q : Queue) : Prop := q.qbase % 64 = 0 ∧ q.qbase + 64 * q.qsize ≤ 2 ^ 57

/-- *invalid* at a doorbell. -/
def Queue.failed (q : Queue) (e : Nat) : Queue := { q with st := .error, err := e, erridx := q.rdidx }

/-- What a doorbell in IDLE or ACTIVE makes of a queue that holds the new WRIDX (R90, R91). -/
def Queue.Rung (q q' : Queue) : Prop :=
  (¬ q.SizeOk → q' = q.failed 2) ∧ (q.SizeOk → ¬ q.BaseOk → q' = q.failed 1)
  ∧ (q.SizeOk → q.BaseOk → q.qsize ≤ q.wridx → q' = q.failed 3)
  ∧ (q.SizeOk → q.BaseOk → q.wridx < q.qsize → q' = { q with st := if q.wridx = q.rdidx then .idle else .active })

theorem Queue.sizeOk_iff (q : Queue) : q.SizeOk ↔ ¬ (q.qsize < 2 ∨ q.qsize > 65536 ∨ q.qsize ≠ 2 ^ q.qsize.log2) := by
  have power : (∃ k, q.qsize = 2 ^ k) ↔ q.qsize = 2 ^ q.qsize.log2 :=
    ⟨fun ⟨k, hk⟩ => by rw [hk, Nat.log2_two_pow], fun h => ⟨_, h⟩⟩
  rw [SizeOk, power]
  omega

theorem Queue.baseOk_iff (q : Queue) : q.BaseOk ↔ ¬ (q.qbase % 64 ≠ 0 ∨ q.qbase + 64 * q.qsize > 2 ^ 57) := by
  rw [BaseOk]
  omega

theorem Queue.ring_of_fails {q : Queue} {e : Nat} (h : q.check = e) (he : e ≠ errNone) : q.ring = q.failed e := by
  subst h
  exact if_pos he

theorem Queue.ring_rung (q : Queue) : q.Rung q.ring := by
  refine ⟨fun hs => ?_, fun hs hb => ?_, fun hs hb hw => ?_, fun hs hb hw => ?_⟩ <;> rw [sizeOk_iff] at hs
  · exact ring_of_fails (if_pos (not_not.mp hs)) (by decide)
  all_goals rw [baseOk_iff] at hb
  · exact ring_of_fails ((if_neg hs).trans (if_pos (not_not.mp hb))) (by decide)
  · exact ring_of_fails ((if_neg hs).trans ((if_neg hb).trans (if_pos hw))) (by decide)
  · have passes : q.check = errNone := (if_neg hs).trans ((if_neg hb).trans (if_neg (Nat.not_le.mpr hw)))
    exact if_neg (not_not.mpr passes)

/-! ## The events leave the queue its number -/

theorem Queue.ring_iface (q : Queue) : q.ring.iface = q.iface := by
  unfold ring
  split <;> rfl

theorem Queue.doorbell_iface (w : Nat) (q : Queue) : (q.doorbell w).iface = q.iface := by
  unfold doorbell
  split
  case h_1 | h_2 => exact ring_iface _
  all_goals rfl

theorem Queue.setRing_iface {f : Queue → Queue} (hf : ∀ q, (f q).iface = q.iface) (q : Queue) : (q.setRing f).iface = q.iface := by
  unfold setRing
  split
  · exact hf q
  · rfl

theorem Queue.gpauseEv_iface (q : Queue) : q.gpauseEv.iface = q.iface := by
  unfold gpauseEv
  split <;> rfl

theorem Queue.gresumeEv_iface (q : Queue) : q.gresumeEv.iface = q.iface := by
  unfold gresumeEv
  split
  · split
    · rfl
    · exact ring_iface _
  all_goals rfl

theorem Queue.clearEv_iface (q : Queue) : q.clearEv.iface = q.iface := by
  unfold clearEv
  split <;> rfl

theorem Queue.drainEv_iface (q : Queue) : q.drainEv.iface = q.iface := by
  unfold drainEv
  split
  case h_1 | h_2 => exact tryDrained_iface _
  all_goals rfl

/-! ## The events in each state of the table (R90) -/

/-- The states in which a queue consumes or waits for commands. -/
def Queue.Works (q : Queue) : Prop := q.st = .idle ∨ q.st = .active

theorem Queue.doorbell_works {q : Queue} (h : q.Works) (w : Nat) : q.doorbell w = ({ q with wridx := w } : Queue).ring := by
  rcases h with h | h <;> simp only [doorbell, h]

theorem Queue.doorbell_waits {q : Queue} (h : q.st = .paused ∨ q.st = .draining ∨ q.st = .error) (w : Nat) :
    q.doorbell w = { q with wridx := w } := by
  rcases h with h | h | h <;> simp only [doorbell, h]

theorem Queue.doorbell_detached {q : Queue} (h : q.st = .detached) (w : Nat) : q.doorbell w = q := by simp only [doorbell, h]

theorem Queue.setRing_writable {q : Queue} (h : q.st = .idle ∧ q.rdidx = q.wridx ∨ q.st = .error) (f : Queue → Queue) :
    q.setRing f = { f q with rdidx := 0, wridx := 0 } := if_pos (by simpa using h)

theorem Queue.setRing_refused {q : Queue} (h : ¬ (q.st = .idle ∧ q.rdidx = q.wridx ∨ q.st = .error)) (f : Queue → Queue) :
    q.setRing f = q := if_neg (by simpa using h)

theorem Queue.gpauseEv_works {q : Queue} (h : q.Works) : q.gpauseEv = { q with st := .paused, gpause := true } := by
  rcases h with h | h <;> simp only [gpauseEv, h]

theorem Queue.gpauseEv_ignored {q : Queue} (h : ¬ q.Works) : q.gpauseEv = q := by
  unfold gpauseEv
  split
  case h_1 hst => exact absurd (.inl hst) h
  case h_2 hst => exact absurd (.inr hst) h
  all_goals rfl

theorem Queue.gresumeEv_paused {q : Queue} (h : q.st = .paused) :
    q.gresumeEv = if q.spause then { q with gpause := false } else ({ q with st := .idle, gpause := false } : Queue).ring := by
  simp only [gresumeEv, h]

theorem Queue.gresumeEv_ignored {q : Queue} (h : q.st ≠ .paused) : q.gresumeEv = q := by
  unfold gresumeEv
  split
  case h_1 hst => exact absurd hst h
  all_goals rfl

theorem Queue.clearEv_error {q : Queue} (h : q.st = .error) :
    q.clearEv = { q with st := if q.spause then .paused else .idle, err := 0, wridx := q.rdidx } := by simp only [clearEv, h]

theorem Queue.clearEv_ignored {q : Queue} (h : q.st ≠ .error) : q.clearEv = q := by
  unfold clearEv
  split
  case h_1 hst => exact absurd hst h
  all_goals rfl

theorem Queue.drainEv_works {q : Queue} (h : q.Works) :
    q.drainEv = ({ q with st := .draining, drainIdx := q.wridx, dpend := true } : Queue).tryDrained := by
  rcases h with h | h <;> simp only [drainEv, h]

theorem Queue.drainEv_ignored {q : Queue} (h : ¬ q.Works) : q.drainEv = q := by
  unfold drainEv
  split
  case h_1 hst => exact absurd (.inl hst) h
  case h_2 hst => exact absurd (.inr hst) h
  all_goals rfl

theorem Queue.drainEv_begins {q : Queue} (h : q.Works) (hn : q.rdidx ≠ q.wridx ∨ q.inflight ≠ []) :
    q.drainEv = { q with st := .draining, drainIdx := q.wridx, dpend := true } := by
  rw [drainEv_works h]
  refine if_neg fun hd => ?_
  simp only [Bool.and_eq_true, beq_iff_eq, List.isEmpty_iff] at hd
  exact hn.elim (absurd hd.1.2) (absurd hd.2)

theorem Queue.drainEv_ends {q : Queue} (h : q.Works) (he : q.rdidx = q.wridx) (hi : q.inflight = []) :
    q.drainEv = ({ q with st := .idle, drainIdx := q.wridx, dpend := false } : Queue).ring := by
  rw [drainEv_works h]
  exact if_pos (by simp [he, hi])

/-! ## Writes to a page (R88, R352) -/

/-- Step i makes a queue of queue n that P holds of, and changes nothing else. -/
def State.QueueBecomes (s : State) (n : Nat) (i : Instr) (P : Queue → Prop) : Prop :=
  ∃ t q', exec i s = .next t ∧ t = { s with queues := t.queues } ∧ t.queue? n = some q' ∧ P q' ∧ ∀ m, m ≠ n → t.queue? m = s.queue? m

/-- The stream is one on which the page of queue q answers (R352). -/
def State.Answers (s : State) (n : Nat) (q : Queue) (stream : Option Nat) : Prop :=
  ∀ c, n ≠ 4096 → s.ctx? q.cx = some c → c.bindRec.tdi = true → c.stream = none ∨ c.stream = stream

section
variable {s : State} {n : Nat} {q : Queue} {stream : Option Nat} (hq : s.queue? n = some q)
include hq

theorem pageOpen_iff : s.pageOpen q stream = true ↔ s.Answers n q stream := by
  have number : q.iface = n := queue?_iface hq
  simp only [State.pageOpen, State.Answers, number, hvIface]
  by_cases hn : n = 4096
  · simp [hn]
  · cases hc : s.ctx? q.cx with
    | none => simp [hn]
    | some c => cases ht : c.bindRec.tdi <;> simp [hn, ht]

theorem pageWriteOn_becomes {i : Instr} {f : Queue → Queue} {P : Queue → Prop} (hr : ¬ (n = 4096 ∧ s.modl.recovery = true))
    (ha : s.Answers n q stream) (hf : ∀ q, (f q).iface = q.iface) (hi : exec i s = .next (s.pageWriteOn stream n f)) (hP : P (f q)) :
    s.QueueBecomes n i P := by
  have written : s.pageWriteOn stream n f = s.updQueue n f := by
    unfold State.pageWriteOn
    rw [hq]
    exact (if_neg hr).trans (if_pos ((pageOpen_iff hq).mpr ha))
  exact ⟨_, f q, hi.trans (congrArg _ written), rfl, queue?_updQueue_same hf hq, hP, fun m hm => queue?_updQueue_other s hm hf⟩

theorem pageWriteOn_refused (f : Queue → Queue) (hr : ¬ (n = 4096 ∧ s.modl.recovery = true)) (ha : ¬ s.Answers n q stream) :
    s.pageWriteOn stream n f = s.emit (.unsupported n) := by
  unfold State.pageWriteOn
  rw [hq]
  exact (if_neg hr).trans (if_neg (mt (pageOpen_iff hq).mp ha))

end

end Sys2Proof.Machine
end

section
/-! PROOFS. The consumption of a command (spec/05_queue.md R88, R91 to R95; spec/06_kernel.md R116), and queues with the checks of their
commands. -/

namespace Sys2Proof.Machine

/-! ## The charge of a limiter (R115) -/

@[simp] theorem spend_nil (s : State) (cx n : Nat) : s.spend cx [] n = s := rfl

/-- A charge changes contexts alone, and by what contexts and the cycle give. -/
theorem spend_eq (s : State) (l : List Context) (cx : Nat) (cls : List Nat) (n : Nat) :
    ∃ l', ∀ t : State, t.cycle = s.cycle → t.ctxs = l → t.spend cx cls n = { t with ctxs := l' } := by
  induction cls generalizing l with
  | nil => exact ⟨l, fun t _ h => by subst h; rfl⟩
  | cons k cls ih =>
    obtain ⟨l', hl'⟩ := ih (upd (fun c => c.cxid == cx) (fun c =>
      let b := (bucketOf c k).accrue s.nowUs
      if b.rate = 0 then c else c.setBucket k { b with count := b.count - n }) l)
    refine ⟨l', fun t ht h => ?_⟩
    subst h
    refine (hl' (t.updCtx cx fun c =>
      let b := (bucketOf c k).accrue t.nowUs
      if b.rate = 0 then c else c.setBucket k { b with count := b.count - n }) ht ?_)
    simp only [State.updCtx, State.nowUs, ht]
    rfl

theorem spend_of_same {s t : State} (hc : t.cycle = s.cycle) (h : t.ctxs = s.ctxs) (cx : Nat) (cls : List Nat) (n : Nat) :
    t.spend cx cls n = { t with ctxs := (s.spend cx cls n).ctxs } := by
  obtain ⟨l', hl⟩ := spend_eq s s.ctxs cx cls n
  rw [hl s rfl rfl, hl t hc h]

theorem spend_state (s : State) (cx : Nat) (cls : List Nat) (n : Nat) : s.spend cx cls n = { s with ctxs := (s.spend cx cls n).ctxs } :=
  spend_of_same rfl rfl cx cls n

@[simp] theorem spend_queues (s : State) (cx : Nat) (cls : List Nat) (n : Nat) : (s.spend cx cls n).queues = s.queues := by
  rw [spend_state]

@[simp] theorem spend_queue? (s : State) (cx : Nat) (cls : List Nat) (n m : Nat) : (s.spend cx cls n).queue? m = s.queue? m :=
  congrArg (List.find? _) (spend_queues s cx cls n)

/-! ## What a consumption leaves (R88, R92, R93) -/

/-- *invalid* at the command that was to be consumed from queue n of context cx. -/
def State.invalidated (s : State) (n cx e : Nat) : State := (s.updQueue n fun q => q.invalid e).spend cx (hostClasses n) 64

/-- The queue behind the consumption of the command bs. -/
def Queue.consumed (bs : List Byte) (done : Bool) (q : Queue) : Queue :=
  (if done then q else ({ q with inflight := q.inflight ++ [(q.seq, q.rdidx, fieldNat bs 1 1 == 1)] } : Queue)).advance

/-- A command of queue n of context cx is consumed; s1 has its effect. -/
def State.consumed (s1 : State) (n cx : Nat) (bs : List Byte) (done : Bool) : State :=
  let s2 := (s1.updQueue n (Queue.consumed bs done)).spend cx (hostClasses n) 64
  if done && fieldNat bs 1 1 == 1 then s2.emit (.msix n) else s2

theorem Queue.advance_iface (q : Queue) : q.advance.iface = q.iface := by
  unfold advance
  extract_lets q1
  split
  · rfl
  · exact tryDrained_iface q1

theorem Queue.consumed_iface (bs : List Byte) (done : Bool) (q : Queue) : (q.consumed bs done).iface = q.iface := by
  rw [consumed, advance_iface]
  split <;> rfl

theorem invalidated_state (s : State) (n cx e : Nat) :
    s.invalidated n cx e = { s with
      queues := (s.updQueue n fun q => q.invalid e).queues, ctxs := (s.spend cx (hostClasses n) 64).ctxs } :=
  spend_of_same (s := s) (t := s.updQueue n fun q => q.invalid e) rfl rfl cx _ _

theorem invalid_invalidated {s : State} {n : Nat} {q : Queue} (h : s.queue? n = some q) (e : Nat) :
    Invalid s (s.invalidated n q.cx e) n q e := by
  have hf : ∀ x : Queue, (x.invalid e).iface = x.iface := fun _ => rfl
  refine ⟨?_, (spend_queue? ..).trans (queue?_updQueue_same hf h), fun m hm => (spend_queue? ..).trans (queue?_updQueue_other s hm hf)⟩
  rw [invalidated_state]

theorem consumed_queue? (s1 : State) (n cx : Nat) (bs : List Byte) (done : Bool) (m : Nat) :
    (s1.consumed n cx bs done).queue? m = (s1.updQueue n (Queue.consumed bs done)).queue? m := by
  unfold State.consumed
  extract_lets s2
  split <;> exact spend_queue? ..

theorem consumed_state (s1 : State) (n cx : Nat) (bs : List Byte) (done : Bool) :
    s1.consumed n cx bs done = { s1 with
      queues := (s1.updQueue n (Queue.consumed bs done)).queues
      hostEvents := if done = true ∧ fieldNat bs 1 1 = 1 then s1.hostEvents ++ [.msix n] else s1.hostEvents
      ctxs := (s1.spend cx (hostClasses n) 64).ctxs } := by
  unfold State.consumed
  rw [spend_of_same (s := s1) (t := s1.updQueue n (Queue.consumed bs done)) rfl rfl]
  by_cases h : done = true ∧ fieldNat bs 1 1 = 1
  · simp only [h.1, h.2, and_self, if_true]
    rfl
  · rw [if_neg h]
    exact if_neg (by simpa using h)

theorem consumed_consumed {s1 : State} {n : Nat} {q : Queue} (h : s1.queue? n = some q) (bs : List Byte) (done : Bool) :
    Consumed s1 (s1.consumed n q.cx bs done) n bs done := by
  have hf := Queue.consumed_iface bs done
  refine ⟨q, h, ?_, ?_, fun m hm => ?_, ?_⟩
  · rw [consumed_state]
  · rw [consumed_queue?, queue?_updQueue_same hf h]
    cases done <;> rfl
  · rw [consumed_queue?, queue?_updQueue_other s1 hm hf]
  · rw [consumed_state]

end Sys2Proof.Machine
end

section
/-! PROOFS. Queues and the checks of their commands (spec/05_queue.md R88 to R95, R116; spec/17_link.md R352). -/

namespace Sys2Proof.Machine

/-! ## The way of a command through its checks (R92, R93, R95) -/

/-- Queue q of interface n has the command bs to consume next, and its read goes through (R91, R116). -/
structure ReadsCommand (s : State) (n : Nat) (q : Queue) (bs : List Byte) : Prop where
  queue : s.queue? n = some q
  next : q.hasNext = true
  admitted : s.admits q.cx (hostClasses n) = true
  readable : s.hostRefuses (s.pasidOf q) (q.qbase + 64 * q.rdidx) 64 = false
  bytes : bs = sgetRun 0 s.hostMem (hostAddr (s.pasidOf q) (q.qbase + 64 * q.rdidx)) 64

/-- What the answer of a command to its consumption makes of the state. -/
def State.answered (s : State) (n cx : Nat) (bs : List Byte) : CmdRes → State
  | .wait s1 => s1
  | .bad e => s.invalidated n cx e
  | .took s1 done => s1.consumed n cx bs done

theorem Takes.reads {s : State} {n : Nat} {q : Queue} {c : Context} {bs : List Byte} (h : Takes s n q c bs) : ReadsCommand s n q bs :=
  ⟨h.queue, h.next, h.admitted, h.readable, h.bytes⟩

section
variable {s : State} {n : Nat} {q : Queue} {bs : List Byte} (p : List Byte → State → Context → Bool)
  (k : Queue → Context → List Byte → State → CmdRes)

theorem consume_waits (hq : s.queue? n = some q) (h : ¬ (q.hasNext = true ∧ s.admits q.cx (hostClasses n) = true)) :
    s.consume n p k = s := by
  unfold State.consume
  rw [hq]
  cases hn : q.hasNext with
  | false => exact if_pos (by simp [hn])
  | true =>
    have held : s.admits q.cx (if n = hvIface then [] else [clsHost]) = false := by simpa [hn, hostClasses] using h
    exact (if_neg (by simp [hn])).trans (if_pos (by simp [held]))

theorem consume_refused (hq : s.queue? n = some q) (hn : q.hasNext = true) (ha : s.admits q.cx (hostClasses n) = true)
    (hr : s.hostRefuses (s.pasidOf q) (q.qbase + 64 * q.rdidx) 64 = true) : s.consume n p k = s.invalidated n q.cx 4 := by
  unfold State.consume
  rw [hq]
  have admitted : ¬ (!s.admits q.cx (if n = hvIface then [] else [clsHost])) = true := by simpa [hostClasses] using ha
  exact (if_neg (by simp [hn])).trans ((if_neg admitted).trans (if_pos hr))

/-- The checks in their order. -/
theorem consume_reads (h : ReadsCommand s n q bs) :
    s.consume n p k = if q.fenced bs then s
      else if cmdCheck (n == hvIface) bs ≠ 0 then s.invalidated n q.cx (cmdCheck (n == hvIface) bs)
      else match s.cmdCtx q bs with
        | .error e => s.invalidated n q.cx e
        | .ok c => if p bs s c then s.answered n q.cx bs (k q c bs s) else s := by
  obtain ⟨hq, hn, ha, hr, rfl⟩ := h
  unfold State.consume
  rw [hq]
  have admitted : ¬ (!s.admits q.cx (if n = hvIface then [] else [clsHost])) = true := by simpa [hostClasses] using ha
  refine (if_neg (by simp [hn])).trans ((if_neg admitted).trans ((if_neg (by simp [hr])).trans ?_))
  rw [queue?_iface hq]
  refine if_congr Iff.rfl rfl (if_congr Iff.rfl rfl ?_)
  cases s.cmdCtx q _ with
  | error e => rfl
  | ok c =>
    dsimp only
    cases p _ s c with
    | false => rfl
    | true => cases k q c _ s <;> rfl

theorem consume_fenced (h : ReadsCommand s n q bs) (hf : q.fenced bs = true) : s.consume n p k = s := by
  rw [consume_reads p k h, if_pos hf]

theorem consume_unchecked (h : ReadsCommand s n q bs) (hf : q.fenced bs = false) (hc : cmdCheck (n == hvIface) bs ≠ 0) :
    s.consume n p k = s.invalidated n q.cx (cmdCheck (n == hvIface) bs) := by
  rw [consume_reads p k h, if_neg (by simp [hf]), if_pos hc]

theorem consume_error (h : ReadsCommand s n q bs) (hf : q.fenced bs = false) (hc : cmdCheck (n == hvIface) bs = 0) {e : Nat}
    (he : s.cmdCtx q bs = .error e) : s.consume n p k = s.invalidated n q.cx e := by
  rw [consume_reads p k h, if_neg (by simp [hf]), if_neg (not_not.mpr hc), he]

theorem consume_takes {c : Context} (h : Takes s n q c bs) (hf : q.fenced bs = false) :
    s.consume n p k = if p bs s c then s.answered n q.cx bs (k q c bs s) else s := by
  rw [consume_reads p k h.reads, if_neg (by simp [hf]), if_neg (not_not.mpr h.checks), h.ctx]

theorem consume_unaccepted {c : Context} (h : Takes s n q c bs) (hp : p bs s c = false) : s.consume n p k = s := by
  cases hf : q.fenced bs with
  | true => exact consume_fenced p k h.reads hf
  | false => rw [consume_takes p k h hf, hp, if_neg Bool.false_ne_true]

end

/-! ## The checks of a command's bytes and of its context -/

/-- An OPC of R94. -/
def knownOpc (o : Nat) : Prop := 1 ≤ o ∧ o ≤ 7 ∨ 0x10 ≤ o ∧ o ≤ 0x12

theorem opcPriv_iff (o : Nat) : opcPriv o = true ↔ 0x10 ≤ o ∧ o ≤ 0x12 := by simp [opcPriv]

theorem knownOpc_iff (o : Nat) : (!((decide (1 ≤ o) && decide (o ≤ 7)) || opcPriv o)) = true ↔ ¬ knownOpc o := by
  rw [Bool.not_eq_true', ← Bool.not_eq_true, Bool.or_eq_true, opcPriv_iff, Bool.and_eq_true, decide_eq_true_iff, decide_eq_true_iff,
    knownOpc]

section
variable {hv : Bool} {bs : List Byte}

theorem cmdCheck_unknown (h : ¬ knownOpc (fieldNat bs 0 1)) : cmdCheck hv bs = 5 := if_pos ((knownOpc_iff _).mpr h)

theorem cmdCheck_privileged (h : knownOpc (fieldNat bs 0 1)) (hp : 0x10 ≤ fieldNat bs 0 1) : cmdCheck false bs = 6 := by
  have priv : opcPriv (fieldNat bs 0 1) = true := (opcPriv_iff _).mpr ⟨hp, by unfold knownOpc at h; omega⟩
  exact (if_neg (by rw [knownOpc_iff]; exact not_not.mpr h)).trans (if_pos (by simp [priv]))

theorem cmdCheck_reserved (h : knownOpc (fieldNat bs 0 1)) (hp : hv = false → fieldNat bs 0 1 ≤ 7) (hz : ¬ allZero bs 4 4) :
    cmdCheck hv bs = 5 := by
  have mine : ¬ (opcPriv (fieldNat bs 0 1) && !hv) = true := by
    rw [Bool.and_eq_true, opcPriv_iff, Bool.not_eq_true']
    rintro ⟨hpriv, hhv⟩
    have := hp hhv
    omega
  exact (if_neg (by rw [knownOpc_iff]; exact not_not.mpr h)).trans ((if_neg mine).trans (if_pos (.inr (.inr (.inl hz)))))

theorem knownOpc_of_cmdCheck (h : cmdCheck hv bs = 0) : knownOpc (fieldNat bs 0 1) := by
  by_contra hk
  rw [cmdCheck_unknown hk] at h
  exact absurd h (by decide)

end

theorem Queue.fenced_iff (q : Queue) (bs : List Byte) :
    q.fenced bs = true ↔ (fieldNat bs 0 1 = 3 ∨ fieldNat bs 0 1 = 4) ∧ q.inflight ≠ [] := by
  simp [fenced, opcFence, opcSignal, or_comm]

theorem Queue.not_fenced {q : Queue} {bs : List Byte} (h : ¬ ((fieldNat bs 0 1 = 3 ∨ fieldNat bs 0 1 = 4) ∧ q.inflight ≠ [])) :
    q.fenced bs = false := Bool.eq_false_iff.mpr (mt (q.fenced_iff bs).mp h)

theorem Queue.hasNext_iff (q : Queue) :
    q.hasNext = true ↔ (q.st = .active ∧ q.rdidx ≠ q.wridx ∨ q.st = .draining ∧ q.rdidx ≠ q.drainIdx) := by simp [hasNext]

section
variable {s : State} {q : Queue} {bs : List Byte} (hq : q.iface = 4096)
include hq

theorem cmdCtx_unnamed (hc : s.ctx? (fieldNat bs 2 2) = none) : s.cmdCtx q bs = .error 10 := by
  exact (if_pos hq).trans (by rw [hc]; rfl)

theorem cmdCtx_otherState {c : Context} (hk : knownOpc (fieldNat bs 0 1)) (hc : s.ctx? (fieldNat bs 2 2) = some c)
    (hst : if 0x10 ≤ fieldNat bs 0 1 then c.st ≠ .bound else c.st ≠ .run) : s.cmdCtx q bs = .error 10 := by
  have priv : opcPriv (fieldNat bs 0 1) = true ↔ 0x10 ≤ fieldNat bs 0 1 := by
    rw [opcPriv_iff]
    unfold knownOpc at hk
    omega
  refine (if_pos hq).trans ?_
  rw [hc]
  by_cases ho : 0x10 ≤ fieldNat bs 0 1
  · rw [if_pos ho] at hst
    exact (if_pos (priv.mpr ho)).trans (if_neg (by simpa using hst))
  · rw [if_neg ho] at hst
    exact (if_neg (mt priv.mp ho)).trans (if_neg (by simpa using hst))

end

/-! ## Every command's operation consumes (R92 to R95) -/

/-- In s the operation i is the consumption of a command of queue n with this OPC. -/
def ConsumesOpc (s : State) (n : Nat) (i : Instr) (opc : Nat) : Prop :=
  ∃ p k, exec i s = .next (s.consume n p k) ∧ ∀ bs c, fieldNat bs 0 1 ≠ opc → p bs s c = false

theorem isOpc_other {opc : Nat} {bs : List Byte} (h : fieldNat bs 0 1 ≠ opc) (s : State) (c : Context) : isOpc opc bs s c = false := by
  simpa [isOpc] using h

theorem isCirc_other {bs : List Byte} (h : fieldNat bs 0 1 ≠ 6) (op : Nat) (s : State) (c : Context) : isCirc op bs s c = false := by
  unfold isCirc
  rw [Bool.and_eq_false_iff]
  exact .inl (by simpa [opcCircuit] using h)

theorem execSignal_consumes {s : State} {n : Nat} {q : Queue} (hq : s.queue? n = some q) (hs : q.signals = []) (refused : Bool) :
    ∃ k, exec (.signal n refused) s = .next (s.consume n (isOpc opcSignal) k) := by
  change ∃ k, execSignal n refused s = _
  unfold execSignal
  rw [hq, Option.bind_some, hs]
  exact ⟨_, rfl⟩

section
variable {s : State} {n : Nat} {q : Queue}

theorem consumesOpc_all (hq : s.queue? n = some q) (hs : q.signals = []) :
    ConsumesOpc s n (.launch n) 1 ∧ ConsumesOpc s n (.waitver n) 2 ∧ ConsumesOpc s n (.signal n false) 3 ∧ ConsumesOpc s n (.fence n) 4
      ∧ ConsumesOpc s n (.queueNop n) 5 ∧ ConsumesOpc s n (.circuitInstall n) 6 ∧ ConsumesOpc s n (.circuitRemove n) 6
      ∧ ConsumesOpc s n (.circuitRepace n) 6 ∧ ConsumesOpc s n (.setlt n) 7 ∧ ConsumesOpc s n (.setlayout n) 0x10
      ∧ ConsumesOpc s n (.setkey n) 0x11 ∧ ConsumesOpc s n (.setgen n) 0x12 := by
  have named {i : Instr} {opc : Nat} (k : Queue → Context → List Byte → State → CmdRes)
      (h : exec i s = .next (s.consume n (isOpc opc) k)) : ConsumesOpc s n i opc := ⟨_, k, h, fun _ c ho => isOpc_other ho s c⟩
  have circuit {i : Instr} (op : Nat) (k : Queue → Context → List Byte → State → CmdRes)
      (h : exec i s = .next (s.consume n (isCirc op) k)) : ConsumesOpc s n i 6 := ⟨_, k, h, fun _ c ho => isCirc_other ho op s c⟩
  obtain ⟨signal, hsignal⟩ := execSignal_consumes hq hs false
  exact ⟨named _ rfl, named _ rfl, named signal hsignal, named _ rfl, named _ rfl, circuit 1 _ rfl, circuit 2 _ rfl, circuit 3 _ rfl,
    named _ rfl, named _ rfl, named _ rfl, named _ rfl⟩

/-- The consumption of any command, as its operation's state gives it (R91 to R95, R116). -/
def ConsumptionChecked (s : State) (n : Nat) (q : Queue) (i : Instr) (opc : Nat) : Prop :=
  let next := q.st = .active ∧ q.rdidx ≠ q.wridx ∨ q.st = .draining ∧ q.rdidx ≠ q.drainIdx
  let admitted := s.admits q.cx (hostClasses n) = true
  let waits := next ∧ admitted
  let ends := fun (e : Nat) => ∃ t, exec i s = .next t ∧ Invalid s t n q e
  let refused := s.hostRefuses (s.pasidOf q) (q.qbase + 64 * q.rdidx) 64 = true
  let bs := sgetRun 0 s.hostMem (hostAddr (s.pasidOf q) (q.qbase + 64 * q.rdidx)) 64
  let known := knownOpc (fieldNat bs 0 1)
  let fenced := (fieldNat bs 0 1 = 3 ∨ fieldNat bs 0 1 = 4) ∧ q.inflight ≠ []
  (¬ waits → exec i s = .next s)
  ∧ (waits → refused → ends 4)
  ∧ (waits → ¬ refused → fenced → exec i s = .next s)
  ∧ (waits → ¬ refused → ¬ known → ends 5)
  ∧ (waits → ¬ refused → known → n ≠ 4096 → 0x10 ≤ fieldNat bs 0 1 → ends 6)
  ∧ (waits → ¬ refused → ¬ fenced → known → (n ≠ 4096 → fieldNat bs 0 1 ≤ 7) → ¬ allZero bs 4 4 → ends 5)
  ∧ (waits → ¬ refused → ¬ fenced → cmdCheck (n == 4096) bs = 0 → n = 4096 → s.ctx? (fieldNat bs 2 2) = none → ends 10)
  ∧ (waits → ¬ refused → ¬ fenced → cmdCheck (n == 4096) bs = 0 → n = 4096 → ∀ c, s.ctx? (fieldNat bs 2 2) = some c →
    (if 0x10 ≤ fieldNat bs 0 1 then c.st ≠ .bound else c.st ≠ .run) → ends 10)
  ∧ ∀ c, Takes s n q c bs → fieldNat bs 0 1 ≠ opc → exec i s = .next s

theorem consumptionChecked {i : Instr} {opc : Nat} (hq : s.queue? n = some q) (h : ConsumesOpc s n i opc) :
    ConsumptionChecked s n q i opc := by
  obtain ⟨p, k, hi, hp⟩ := h
  unfold ConsumptionChecked
  extract_lets next admitted waits ends refused bs known fenced
  have ended {e : Nat} (h : s.consume n p k = s.invalidated n q.cx e) : ends e :=
    ⟨_, hi.trans (congrArg _ h), invalid_invalidated hq e⟩
  have stays (h : s.consume n p k = s) : exec i s = .next s := hi.trans (congrArg _ h)
  have reads (hw : waits) (hr : ¬ refused) : ReadsCommand s n q bs :=
    ⟨hq, q.hasNext_iff.mpr hw.1, hw.2, Bool.eq_false_iff.mpr hr, rfl⟩
  have checked (e : Nat) (he : e ≠ 0) (hw : waits) (hr : ¬ refused) (hf : ¬ fenced) (hc : cmdCheck (n == hvIface) bs = e) : ends e := by
    subst hc
    exact ended (consume_unchecked p k (reads hw hr) (Queue.not_fenced hf) he)
  have guest (hn : n ≠ 4096) : (n == hvIface) = false := by simpa [hvIface] using hn
  refine ⟨fun hw => stays (consume_waits p k hq (by rwa [q.hasNext_iff])),
    fun hw hr => ended (consume_refused p k hq (q.hasNext_iff.mpr hw.1) hw.2 hr),
    fun hw hr hf => stays (consume_fenced p k (reads hw hr) ((q.fenced_iff bs).mpr hf)),
    fun hw hr hk => ?_, fun hw hr hk hn ho => ?_, fun hw hr hf hk hn hz => ?_, fun hw hr hf hc hn hx => ?_,
    fun hw hr hf hc hn c hx hst => ?_, fun c ht ho => stays (consume_unaccepted p k ht (hp bs c ho))⟩
  · refine checked 5 (by decide) hw hr (fun hf => hk ?_) (cmdCheck_unknown hk)
    exact .inl (by omega)
  · refine checked 6 (by decide) hw hr (fun hf => ?_) (by rw [guest hn]; exact cmdCheck_privileged hk ho)
    omega
  · refine checked 5 (by decide) hw hr hf (cmdCheck_reserved hk (fun hv => hn ?_) hz)
    simpa [hvIface] using hv
  · exact ended (consume_error p k (reads hw hr) (Queue.not_fenced hf) hc (cmdCtx_unnamed ((queue?_iface hq).trans hn) hx))
  · exact ended (consume_error p k (reads hw hr) (Queue.not_fenced hf) hc
      (cmdCtx_otherState ((queue?_iface hq).trans hn) (knownOpc_of_cmdCheck hc) hx hst))

end

/-! ## The events of a page -/

section
variable {s : State} {n : Nat} {q : Queue}

/-- A doorbell that reaches the page, in every state of the table (R90). -/
theorem doorbell_becomes (hq : s.queue? n = some q) (hr : ¬ (n = 4096 ∧ s.modl.recovery = true)) (w : Word) {stream : Option Nat}
    (ha : s.Answers n q stream) :
    (q.Works → s.QueueBecomes n (.doorbell n w stream) (Queue.Rung { q with wridx := w.toNat }))
    ∧ (q.st = .paused ∨ q.st = .draining ∨ q.st = .error → s.QueueBecomes n (.doorbell n w stream) (· = { q with wridx := w.toNat }))
    ∧ (q.st = .detached → s.QueueBecomes n (.doorbell n w stream) (· = q)) := by
  have becomes {P : Queue → Prop} (hP : P (q.doorbell w.toNat)) : s.QueueBecomes n (.doorbell n w stream) P :=
    pageWriteOn_becomes hq hr ha (Queue.doorbell_iface w.toNat) rfl hP
  refine ⟨fun h => becomes ?_, fun h => becomes (Queue.doorbell_waits h _), fun h => becomes (Queue.doorbell_detached h _)⟩
  rw [Queue.doorbell_works h]
  exact Queue.ring_rung _

/-- A write of QBASE or QSIZE that reaches the page (R88). -/
theorem setRing_becomes (hq : s.queue? n = some q) (hr : ¬ (n = 4096 ∧ s.modl.recovery = true)) (ha : s.Answers n q s.hostStream)
    (v : DWord) :
    (q.st = .idle ∧ q.rdidx = q.wridx ∨ q.st = .error →
      s.QueueBecomes n (.qbaseQsizeWrite n .qbase v) (· = { q with qbase := v.toNat, rdidx := 0, wridx := 0 })
      ∧ s.QueueBecomes n (.qbaseQsizeWrite n .qsize v) (· = { q with qsize := v.toNat % 2 ^ 32, rdidx := 0, wridx := 0 }))
    ∧ (¬ (q.st = .idle ∧ q.rdidx = q.wridx ∨ q.st = .error) → ∀ r, s.QueueBecomes n (.qbaseQsizeWrite n r v) (· = q)) := by
  have becomes (r : QReg) {P : Queue → Prop} (f : Queue → Queue) (hf : ∀ q, (f q).iface = q.iface)
      (hi : exec (.qbaseQsizeWrite n r v) s = .next (s.pageWriteOn s.hostStream n fun q => q.setRing f)) (hP : P (q.setRing f)) :
      s.QueueBecomes n (.qbaseQsizeWrite n r v) P :=
    pageWriteOn_becomes hq hr ha (Queue.setRing_iface hf) hi hP
  have low : (v.extractLsb' 0 32).toNat = v.toNat % 2 ^ 32 := by simp
  refine ⟨fun h => ⟨becomes .qbase (fun q => { q with qbase := v.toNat }) (fun _ => rfl) rfl (Queue.setRing_writable h _),
    becomes .qsize (fun q => { q with qsize := (v.extractLsb' 0 32).toNat }) (fun _ => rfl) rfl ?_⟩, fun h r => ?_⟩
  · rw [Queue.setRing_writable h, low]
  · cases r with
    | qbase => exact becomes .qbase (fun q => { q with qbase := v.toNat }) (fun _ => rfl) rfl (Queue.setRing_refused h _)
    | qsize => exact becomes .qsize (fun q => { q with qsize := (v.extractLsb' 0 32).toNat }) (fun _ => rfl) rfl (Queue.setRing_refused h _)

end

/-- Settles O42: a page's write is its event on the one queue, and each command meets the checks in their order. -/
theorem queuesAndCommandChecks : Obligations.QueuesAndCommandChecks := by
  unfold Obligations.QueuesAndCommandChecks
  refine ⟨fun s n q hq hr => ?_, fun s n q hq hs => ?_⟩
  · have pauses {P : Queue → Prop} (ha : s.Answers n q s.hostStream) (hP : P q.gpauseEv) : s.QueueBecomes n (.pause n) P :=
      pageWriteOn_becomes hq hr ha Queue.gpauseEv_iface rfl hP
    have resumes {P : Queue → Prop} (ha : s.Answers n q s.hostStream) (hP : P q.gresumeEv) : s.QueueBecomes n (.resume n) P :=
      pageWriteOn_becomes hq hr ha Queue.gresumeEv_iface rfl hP
    have clears {P : Queue → Prop} (ha : s.Answers n q s.hostStream) (hP : P q.clearEv) : s.QueueBecomes n (.clearerr n) P :=
      pageWriteOn_becomes hq hr ha Queue.clearEv_iface rfl hP
    have drains {P : Queue → Prop} (ha : s.Answers n q s.hostStream) (hP : P q.drainEv) : s.QueueBecomes n (.queueDrain n) P :=
      pageWriteOn_becomes hq hr ha Queue.drainEv_iface rfl hP
    have refuses {i : Instr} {stream : Option Nat} (f : Queue → Queue) (hi : exec i s = .next (s.pageWriteOn stream n f))
        (ha : ¬ s.Answers n q stream) : exec i s = .next (s.emit (.unsupported n)) :=
      hi.trans (congrArg _ (pageWriteOn_refused hq f hr ha))
    refine ⟨fun w stream => ⟨fun ha => (doorbell_becomes hq hr w ha).1, fun ha => (doorbell_becomes hq hr w ha).2.1,
        fun ha => (doorbell_becomes hq hr w ha).2.2, refuses _ rfl⟩,
      fun ha => ⟨fun r v => refuses _ rfl ha, refuses _ rfl ha, refuses _ rfl ha, refuses _ rfl ha, refuses _ rfl ha⟩,
      fun ha => ⟨setRing_becomes hq hr ha, fun h => pauses ha (Queue.gpauseEv_works h), fun h => pauses ha (Queue.gpauseEv_ignored h),
        fun h hs => resumes ha ?_, fun h hs => resumes ha ?_, fun h => resumes ha (Queue.gresumeEv_ignored h),
        fun h => clears ha (Queue.clearEv_error h), fun h => clears ha (Queue.clearEv_ignored h),
        fun h hn => drains ha (Queue.drainEv_begins h hn), fun h he hi => drains ha ?_, fun h => drains ha (Queue.drainEv_ignored h)⟩⟩
    · exact (Queue.gresumeEv_paused h).trans (if_pos hs)
    · rw [Queue.gresumeEv_paused h, hs]
      exact Queue.ring_rung _
    · rw [Queue.drainEv_ends h he hi]
      exact Queue.ring_rung _
  · have checked {i : Instr} {opc : Nat} (h : ConsumesOpc s n i opc) : ConsumptionChecked s n q i opc := consumptionChecked hq h
    obtain ⟨launch, waitver, signal, fence, nop, install, remove, repace, setlt, setlayout, setkey, setgen⟩ := consumesOpc_all hq hs
    exact ⟨checked launch, checked waitver, checked signal, checked fence, checked nop, checked install, checked remove, checked repace,
      checked setlt, checked setlayout, checked setkey, checked setgen⟩

end Sys2Proof.Machine
end

section
/-! PROOFS. What leaves the queues and the circuits as they are and moves kernels by their dependences alone (spec/06_kernel.md R98, R104):
tests of dependences, pod requests, the ends of operations. -/

namespace Sys2Proof.Machine

/-! ## Kernels draw nearer to the ready pool -/

/-- k' is the kernel k with some dependences met; it may have become READY, once it has none (R98, R104). -/
structure Kernel.Nears (k k' : Kernel) : Prop where
  record : k' = { k with deps := k'.deps, st := k'.st, inPool := k'.inPool, waitingSince := k'.waitingSince, coopBad := k'.coopBad }
  deps : k'.deps ⊆ k.deps
  state : k'.st = k.st ∨ k.st = .recorded ∧ k'.st = .ready ∧ k'.deps = []
  stands : k.st ≠ .recorded → k' = k

theorem Kernel.Nears.refl (k : Kernel) : k.Nears k := ⟨rfl, List.Subset.refl _, .inl rfl, fun _ => rfl⟩

theorem Kernel.Nears.trans {a b c : Kernel} (h : a.Nears b) (h' : b.Nears c) : a.Nears c := by
  by_cases hb : b.st = .recorded
  · have ha : a.st = .recorded := by
      rcases h.state with e | ⟨-, e, -⟩
      · rw [← e, hb]
      · rw [e] at hb
        cases hb
    refine ⟨?_, List.Subset.trans h'.deps h.deps, ?_, fun hn => absurd ha hn⟩
    · rw [h'.record, h.record]
    · have := h'.state
      rw [hb] at this
      rwa [ha]
  · rw [h'.stands hb]
    exact h

/-- Kernel by kernel. -/
def KernelsNear (l l' : List Kernel) : Prop := List.Forall₂ Kernel.Nears l l'

theorem KernelsNear.refl (l : List Kernel) : KernelsNear l l := List.forall₂_same.mpr fun k _ => .refl k

theorem KernelsNear.trans {a b c : List Kernel} (h : KernelsNear a b) (h' : KernelsNear b c) : KernelsNear a c := by
  induction h generalizing c with
  | nil => exact h'
  | cons hk _ ih =>
    cases h' with
    | cons hk' ht' => exact .cons (hk.trans hk') (ih ht')

/-- A change of RECORDED kernels that drops dependences. -/
theorem kernelsNear_upd {p : Kernel → Bool} {f : Kernel → Kernel} (hf : ∀ k, p k = true → k.Nears (f k)) (l : List Kernel) :
    KernelsNear l (upd p f l) := by
  rw [KernelsNear, upd, List.forall₂_map_right_iff]
  refine List.forall₂_same.mpr fun k _ => ?_
  by_cases hp : p k = true
  · rw [if_pos hp]
    exact hf k hp
  · rw [if_neg hp]
    exact .refl k

/-- A fold that appends one element for each that it meets carries the relation between the two. -/
theorem forall₂_foldl_append {α β : Type} {R : α → α → Prop} (f : List α × β → α → List α × β)
    (hf : ∀ acc k, ∃ k', R k k' ∧ (f acc k).1 = acc.1 ++ [k']) (l : List α) (b : β) : List.Forall₂ R l (l.foldl f ([], b)).1 := by
  suffices h : ∀ acc : List α × β, ∃ l', (l.foldl f acc).1 = acc.1 ++ l' ∧ List.Forall₂ R l l' by
    obtain ⟨l', hl', hr⟩ := h ([], b)
    rwa [hl', List.nil_append]
  induction l with
  | nil => exact fun acc => ⟨[], by simp, .nil⟩
  | cons k t ih =>
    intro acc
    obtain ⟨k', hk', hacc⟩ := hf acc k
    obtain ⟨l', hl', ht⟩ := ih (f acc k)
    exact ⟨k' :: l', by simp [hl', hacc], .cons hk' ht⟩

/-- k, as it enters the ready pool of a state at a cycle (R98). -/
def Kernel.promoted (k : Kernel) (s : State) : Kernel :=
  { k with st := .ready, inPool := true, waitingSince := s.cycle, coopBad := k.kd.coop && !s.coopFits k }

theorem Kernel.nears_promoted {k : Kernel} (s : State) (hst : k.st = .recorded) (hd : k.deps = []) : k.Nears (k.promoted s) :=
  ⟨rfl, List.Subset.refl _, .inr ⟨hst, rfl, hd⟩, fun hn => absurd hst hn⟩

/-! ## Queues, circuits and kernels -/

/-- From s to t the queues and the circuits stand, and kernels at most draw nearer. -/
structure QueuesStand (s t : State) : Prop where
  queues : t.queues = s.queues
  circuits : t.circuits = s.circuits
  kernels : KernelsNear s.kernels t.kernels

namespace QueuesStand

theorem unchanged {s t : State} (h : (t.queues, t.circuits, t.kernels) = (s.queues, s.circuits, s.kernels)) : QueuesStand s t := by
  simp only [Prod.mk.injEq] at h
  obtain ⟨queues, circuits, kernels⟩ := h
  exact ⟨queues, circuits, kernels ▸ .refl _⟩

theorem refl (s : State) : QueuesStand s s := unchanged rfl

theorem trans {a b c : State} (h : QueuesStand a b) (h' : QueuesStand b c) : QueuesStand a c :=
  ⟨h'.queues.trans h.queues, h'.circuits.trans h.circuits, h.kernels.trans h'.kernels⟩

theorem ite {s a b : State} (c : Prop) [Decidable c] (ha : QueuesStand s a) (hb : QueuesStand s b) : QueuesStand s (if c then a else b) := by
  split
  · exact ha
  · exact hb

theorem foldl {α : Type} (f : State → α → State) (h : ∀ s a, QueuesStand s (f s a)) (l : List α) (s : State) :
    QueuesStand s (l.foldl f s) := by
  induction l generalizing s with
  | nil => exact refl s
  | cons a t ih => exact (h s a).trans (ih _)

theorem queue? {s t : State} (h : QueuesStand s t) (n : Nat) : t.queue? n = s.queue? n := by rw [State.queue?, h.queues, State.queue?]

/-! ### Dependences (R98, R104) -/

theorem promote (s : State) (cx : Nat) : QueuesStand s (s.promote cx) := by
  unfold State.promote
  extract_lets n r s1
  have near : KernelsNear s.kernels r.1 := by
    refine forall₂_foldl_append _ (fun acc k => ?_) s.kernels n
    split
    next h =>
      simp only [Bool.and_eq_true, beq_iff_eq, List.isEmpty_iff] at h
      exact ⟨_, Kernel.nears_promoted s h.1.1.2 h.1.2, rfl⟩
    next => exact ⟨k, .refl k, rfl⟩
  exact ite _ ⟨rfl, rfl, near⟩ ⟨rfl, rfl, near⟩

theorem promote_upd {s : State} (cx : Nat) {ks : List Kernel} (h : KernelsNear s.kernels ks) :
    QueuesStand s (({ s with kernels := ks } : State).promote cx) :=
  trans (b := { s with kernels := ks }) ⟨rfl, rfl, h⟩ (promote _ cx)

/-- A RECORDED kernel that keeps the dependences of f. -/
theorem nears_filter {k : Kernel} (h : k.st = .recorded) (f : Dep → Bool) : k.Nears { k with deps := k.deps.filter f } :=
  ⟨rfl, List.filter_subset_self _, .inl rfl, fun hn => absurd h hn⟩

theorem meet (s : State) (cx : Nat) (p : Dep → Bool) : QueuesStand s (s.meet cx p) :=
  promote_upd cx (kernelsNear_upd (fun k hk => nears_filter (by simp at hk; exact hk.2) _) _)

theorem meetGtime (s : State) (cx : Nat) (p : Kernel → Bool) : QueuesStand s (s.meetGtime cx p) :=
  promote_upd cx (kernelsNear_upd (fun k hk => nears_filter (by simp at hk; exact hk.1.2) _) _)

/-! ### Operations and boards (R117, R283) -/

theorem undoScatter (s : State) (r : GRef) : QueuesStand s (s.undoScatter r) := by
  rw [State.undoScatter]
  split
  · exact refl s
  · exact ite _ (refl s) (unchanged (by rfl))

theorem settle (s : State) (r : GRef) : QueuesStand s (s.settle r) := by
  rw [State.settle]
  split
  · exact refl s
  · exact ite _ ((undoScatter s r).trans (unchanged (by rfl))) (refl s)

theorem finishOp (s : State) (id : Nat) : QueuesStand s (s.finishOp id) := by
  rw [State.finishOp]
  split
  · exact refl s
  · refine QueuesStand.trans ?_ (settle _ _)
    exact ite _ (unchanged (by rfl)) (unchanged (by rfl))

theorem withOpGroup (s : State) (o : PendOp) (f : Group → Group) : QueuesStand s (s.withOpGroup o f) :=
  ite _ (unchanged (by rfl)) (unchanged (by rfl))

theorem boardDone (s : State) (op : Nat) (lowest : Bool) (lap code : Nat) : QueuesStand s (s.boardDone op lowest lap code) := by
  rw [State.boardDone]
  split
  · exact refl s
  · split
    · exact (ite _ (withOpGroup s _ _) (refl s)).trans (ite _ (unchanged (by rfl)) (ite _ (unchanged (by rfl)) (finishOp _ op)))
    · exact refl s

theorem endBoard (s : State) (core n lap code : Nat) : QueuesStand s (s.endBoard core n lap code) := by
  rw [State.endBoard]
  split
  · exact refl s
  · exact QueuesStand.trans (unchanged (by rfl)) (boardDone _ _ _ _ _)

theorem endBoards (s : State) (c : Circuit) : QueuesStand s (s.endBoards c) := by
  rw [State.endBoards]
  refine ite _ (refl s) (foldl _ (fun s co => foldl _ (fun s e => ?_) _ s) _ s)
  split
  · exact refl s
  · exact ite _ (endBoard s _ _ _ _) (refl s)

theorem lapTests (s : State) (c : Circuit) : QueuesStand s (s.lapTests c) := by
  rw [State.lapTests]
  refine (meet s c.cx _).trans (foldl _ (fun s o => ?_) _ _)
  split
  · exact (withOpGroup s o _).trans (finishOp _ o.id)
  · exact refl s

/-! ### A version is asked for (R241, R336) -/

theorem spend (s : State) (cx : Nat) (cls : List Nat) (n : Nat) : QueuesStand s (s.spend cx cls n) := by
  rw [spend_state]
  exact unchanged rfl

theorem sealPkt (s : State) (k : SentPkt) : QueuesStand s (s.sealPkt k) := by
  unfold State.sealPkt
  split
  · exact refl s
  · refine ite _ (QueuesStand.trans (unchanged (by rfl)) (spend _ _ _ _)) ?_
    split
    · exact refl s
    · refine ite _ (refl s) ?_
      extract_lets e pkt k1 s1 s2
      have hs1 : QueuesStand s s1 := QueuesStand.trans (unchanged (by rfl)) (spend _ _ _ _)
      have hs2 : QueuesStand s s2 := hs1.trans (unchanged (by rfl))
      exact ite _ (hs2.trans (unchanged (by rfl))) hs2

theorem podSend (s : State) (cx dest named : Nat) (body : PktBody) : QueuesStand s (s.podSend cx dest named body).1 := by
  unfold State.podSend
  split
  · exact refl s
  · extract_lets mk put
    split
    · exact unchanged rfl
    · split
      · exact refl s
      · exact QueuesStand.trans (unchanged (by rfl)) (ite _ (refl _) (ite _ (refl _) (sealPkt _ _)))

/-- A query that no split waits for comes back without an answer. -/
theorem failAs_query (s : State) {r : PodReq} {m : ShMsg} (hr : r.kind = .sheaf m) (hk : m.kind = .query) (hc : m.copy = none)
    (hs : m.split = none) (cause : Nat) : QueuesStand s (s.failAs r cause) := by
  have seen (s : State) (sheaf w : Nat) : QueuesStand s (s.seeVersion m.cx sheaf w) :=
    ite _ (refl s) (QueuesStand.trans (unchanged (by rfl)) (meet _ _ _))
  unfold State.failAs State.shReply
  simp only [hr, hk, hc, hs, Option.isNone_none, if_true, BEq.rfl]
  split
  · exact QueuesStand.trans (unchanged (by rfl)) (seen _ _ _)
  · exact seen _ _ _

theorem askVersion (s : State) (cx id : Nat) : QueuesStand s (s.askVersion cx id) := by
  unfold State.askVersion
  split
  case h_1 | h_2 => exact refl s
  case h_3 v pid _ =>
    extract_lets asked m
    refine ite _ (refl s) ?_
    unfold State.podRequest
    extract_lets r
    have sent (u : State) (hu : QueuesStand s u) : QueuesStand s (u.podSend cx v 0 (.sheaf r.id .query pid 0 m.writer)).1 :=
      hu.trans (podSend _ _ _ _ _)
    have hsent := sent { s with nextId := s.nextId + 1 + 1 } (unchanged (by rfl))
    split
    next s2 e => rw [e] at hsent; exact hsent.trans (unchanged (by rfl))
    next s2 st _ e => rw [e] at hsent; exact hsent.trans (failAs_query s2 (r := r) (m := m) rfl rfl rfl rfl _)

theorem askVersions (s : State) (cx : Nat) : QueuesStand s (s.askVersions cx) := foldl _ (fun s i => askVersion s cx i) _ s

end QueuesStand
end Sys2Proof.Machine
end

section
/-! PROOFS. The engines' reads of context memory use neither the counts of the rate limiter nor queues, kernels and circuits (spec/06_kernel.md
R116, R213, R316). -/

namespace Sys2Proof.Machine

/-! ## The state under other counts, queues, kernels and circuits -/

/-- The context under other counts of its rate limiter. -/
def Context.metered (b : Context → List (Nat × Bucket)) (c : Context) : Context := { c with buckets := b c }

/-- What engines do not see. -/
structure Unseen where
  buckets : Context → List (Nat × Bucket)
  queues : List Queue
  kernels : List Kernel
  circuits : List Circuit

/-- The state with other unseen pieces. -/
def State.under (s : State) (u : Unseen) : State :=
  { s with ctxs := s.ctxs.map (Context.metered u.buckets), queues := u.queues, kernels := u.kernels, circuits := u.circuits }

variable (u : Unseen)

theorem under_ite (c : Prop) [Decidable c] (a b : State) : (if c then a else b).under u = if c then a.under u else b.under u :=
  apply_ite (State.under · u) c a b

theorem under_ctx? (s : State) (cx : Nat) : (s.under u).ctx? cx = (s.ctx? cx).map (Context.metered u.buckets) := by
  simp only [State.under, State.ctx?, List.find?_map]
  rfl

/-- A fold of steps that commute with the change commutes with it. -/
theorem under_foldl {α : Type} {f : State → α → State} (h : ∀ s a, f (s.under u) a = (f s a).under u) (l : List α) (s : State) :
    l.foldl f (s.under u) = (l.foldl f s).under u := by
  induction l generalizing s with
  | nil => rfl
  | cons a t ih => rw [List.foldl_cons, h, ih, List.foldl_cons]

theorem under_domain (s : State) (cx kds : Nat) : (s.under u).domain cx kds = s.domain cx kds := by
  unfold State.domain
  rw [under_ctx?]
  cases s.ctx? cx <;> rfl

theorem under_homeSlice (s : State) (k : LineKey) : (s.under u).homeSlice k = s.homeSlice k := by
  unfold State.homeSlice State.homeSector
  rw [under_ctx?]
  cases s.ctx? k.cx <;> rfl

theorem under_homeRead (s : State) (k : LineKey) : (s.under u).homeRead k = s.homeRead k := by
  unfold State.homeRead
  rw [under_domain]
  rfl

/-! ## Lines and copies (R191, R213) -/

theorem under_retireFrame (s : State) (f : Nat) : (s.under u).retireFrame f = (s.retireFrame f).under u := by
  unfold State.retireFrame
  simp only [under_ite]
  rfl

theorem under_noteRead (s : State) (n : Nat) (dom : Option (Key × BitVec 16)) (kds : Nat) :
    (s.under u).noteRead n dom kds = (s.noteRead n dom kds).under u := by
  unfold State.noteRead
  simp only [under_ite, ← under_retireFrame]
  rfl

theorem under_homeNote (s : State) (k : LineKey) : (s.under u).homeNote k = (s.homeNote k).under u := by
  unfold State.homeNote
  have here : (s.under u).curLine k = s.curLine k := rfl
  rw [here, under_domain]
  split
  · rfl
  · exact under_noteRead u s _ _ _

theorem under_mergePhys (s : State) (n : Nat) (dom : Option (Key × BitVec 16)) (kds : Nat) (d : LineData) (m : LineMask) :
    (s.under u).mergePhys n dom kds d m = (s.mergePhys n dom kds d m).map (State.under · u) id := by
  have noted : (if m != BitVec.allOnes 128 then (s.under u).noteRead n dom kds else s.under u)
      = (if m != BitVec.allOnes 128 then s.noteRead n dom kds else s).under u := by rw [under_noteRead, under_ite]
  unfold State.mergePhys
  rw [noted]
  generalize (if m != BitVec.allOnes 128 then s.noteRead n dom kds else s) = s1
  dsimp only
  rw [apply_ite (Prod.map (State.under · u) id)]
  have line : (s1.under u).physLine n = s1.physLine n := rfl
  have known : (s1.under u).lmeta n = s1.lmeta n := rfl
  have held : (s.under u).poisoned n dom = s.poisoned n dom := rfl
  rw [line, known, held]
  generalize lineBytes (mergeLine (s1.physLine n) d m) = bytes
  refine if_congr Iff.rfl rfl ?_
  generalize (m == BitVec.allOnes 128) = whole
  rfl

theorem under_invalCopy (s : State) (k : LineKey) (c : Option Nat) (n : Nat) : (s.under u).invalCopy k c n = (s.invalCopy k c n).under u := by
  cases c <;> rfl

theorem under_dropCopies (s : State) (k : LineKey) : (s.under u).dropCopies k = (s.dropCopies k).under u :=
  under_foldl u (f := fun (s : State) (c : Option Nat × Nat) => s.invalCopy k c.1 c.2) (fun s c => under_invalCopy u s k c.1 c.2) _ s

theorem under_l2Evict (s : State) (n : Nat) : (s.under u).l2Evict n = (s.l2Evict n).under u := by
  unfold State.l2Evict
  have lines : (s.under u).sliceLines n = s.sliceLines n := by
    unfold State.sliceLines
    simp only [under_homeSlice]
    rfl
  rw [lines, under_ite]
  refine if_congr Iff.rfl rfl ?_
  generalize s.sliceLines n = l
  obtain ⟨own, other⟩ := l
  dsimp only
  rw [under_ite]
  refine if_congr Iff.rfl rfl ?_
  rw [show (s.under u).freeCount = s.freeCount from rfl]
  have drawn : { s.under u with freeCount := s.freeCount + 1 } = State.under { s with freeCount := s.freeCount + 1 } u := rfl
  rw [drawn]
  generalize ({ s with freeCount := s.freeCount + 1 } : State) = s1
  have dropped (v : LineKey) := under_foldl u
    (f := fun (s : State) (c : Option Nat × Nat) => if c.1.isNone then s.invalCopy v none c.2 else s)
    (fun s c => by rw [under_invalCopy, under_ite])
  cases own[Config.freeNat s.freeCount % (own.length + other.length)]? with
  | some v =>
    have same : (s1.under u).copiesOf v = s1.copiesOf v := rfl
    dsimp only
    rw [same, dropped]
    rfl
  | none => cases other[Config.freeNat s.freeCount % (own.length + other.length) - own.length]? <;> rfl

theorem under_l2Touch (s : State) (k : LineKey) (w : Bool) : (s.under u).l2Touch k w = (s.l2Touch k w).under u := by
  have put (s : State) : (s.under u).l2Put k w = (s.l2Put k w).under u := rfl
  have cached : (s.under u).l2? k = s.l2? k := rfl
  unfold State.l2Touch
  rw [under_homeSlice, under_l2Evict, cached, ← under_ite, put]

theorem under_replyTo (s : State) (cx src : Nat) (vlink : BitVec 32) (lb : Bool) (b : PktBody) :
    (s.under u).replyTo cx src vlink lb b = (s.replyTo cx src vlink lb b).under u := by
  unfold State.replyTo
  rw [under_ctx?]
  have header : (((s.ctx? cx).map (Context.metered u.buckets)).bind fun c => c.vchip? src) = (s.ctx? cx).bind fun c => c.vchip? src := by
    cases s.ctx? cx <;> rfl
  simp only [header, under_ite]
  rfl

theorem under_wake (s : State) (k : LineKey) : (s.under u).wake k = (s.wake k).under u := by
  have op : (s.under u).wakeOp k = s.wakeOp k := by
    funext o
    unfold State.wakeOp
    simp only [under_homeRead]
  have remote : (s.under u).wakeRemote k = s.wakeRemote k := by
    funext w
    unfold State.wakeRemote
    simp only [under_homeRead]
  unfold State.wake
  rw [op, remote]
  dsimp only
  rw [← under_foldl u (fun s h => under_replyTo u s _ _ _ _ _)]
  rfl

theorem under_homeWrite (s : State) (k : LineKey) (d : LineData) (m : LineMask) :
    (s.under u).homeWrite k d m = (s.homeWrite k d m).map (State.under · u) id := by
  unfold State.homeWrite
  rw [under_dropCopies]
  generalize s.dropCopies k = s1
  have here : (s1.under u).curLine k = s1.curLine k := rfl
  dsimp only
  rw [here, under_domain]
  cases s1.curLine k with
  | none => rfl
  | some n =>
    dsimp only
    rw [under_mergePhys]
    generalize s1.mergePhys n (s1.domain k.cx k.kds) k.kds d m = r
    obtain ⟨s20, ok⟩ := r
    dsimp only [Prod.map, id]
    have tagged : (if k.sh = 0 then (s20.under u).setMeta n { (s20.under u).lmeta n with tag := 0 } else s20.under u)
        = (if k.sh = 0 then s20.setMeta n { s20.lmeta n with tag := 0 } else s20).under u := by
      rw [under_ite]
      rfl
    rw [tagged]
    generalize (if k.sh = 0 then s20.setMeta n { s20.lmeta n with tag := 0 } else s20) = s2
    rw [← under_wake, ← under_l2Touch]
    rfl

/-! ## Walks and engines (R213, R316) -/

theorem under_leafOk (s : State) (c : Context) (level : Nat) (p : Pte) :
    (s.under u).leafOk (c.metered u.buckets) level p = s.leafOk c level p := by
  have foreign : (s.under u).foreignFrame (c.metered u.buckets).cxid p.frame = s.foreignFrame c.cxid p.frame := by
    unfold State.foreignFrame
    have mine : (((s.under u).ctx? (c.metered u.buckets).cxid).map fun c => c.bindRec.hard.getLsbD (65536 * p.frame / Config.stackBytes / 2))
        = (s.ctx? c.cxid).map fun c => c.bindRec.hard.getLsbD (65536 * p.frame / Config.stackBytes / 2) := by
      rw [under_ctx?]
      change ((s.ctx? c.cxid).map _).map _ = _
      cases s.ctx? c.cxid <;> rfl
    dsimp only
    rw [mine, show (s.under u).ctxs = s.ctxs.map (Context.metered u.buckets) from rfl, List.any_map]
    rfl
  unfold State.leafOk
  rw [foreign]
  rfl

theorem under_walkTo (s : State) (c : Context) (va : Nat) (fuel level table : Nat) :
    (s.under u).walkTo (c.metered u.buckets) va fuel level table = s.walkTo c va fuel level table := by
  induction fuel generalizing level table with
  | zero => rfl
  | succ fuel ih =>
    unfold State.walkTo
    simp only [under_leafOk, ih]
    rfl

theorem under_walkReads (s : State) (c : Context) (va : Nat) (fuel level table : Nat) :
    (s.under u).walkReads (c.metered u.buckets) va fuel level table = s.walkReads c va fuel level table := by
  induction fuel generalizing level table with
  | zero => rfl
  | succ fuel ih =>
    unfold State.walkReads
    simp only [ih]
    rfl

theorem under_noteWalk (s : State) (c : Context) (va : Nat) :
    (s.under u).noteWalk (c.metered u.buckets) va = (s.noteWalk c va).under u := by
  unfold State.noteWalk
  rw [under_walkReads]
  exact under_foldl u (f := fun (s : State) ea => s.noteRead (ea / 128) (some (c.memKey, c.gen)) 0) (fun s _ => under_noteRead u s _ _ _) _ s

theorem under_markEntry (s : State) (c : Context) (ea : Nat) (p : Pte) (d : Bool) :
    (s.under u).markEntry (c.metered u.buckets) ea p d = (s.markEntry c ea p d).under u := by
  unfold State.markEntry
  dsimp only
  rw [under_ite, under_homeWrite]
  rfl

theorem under_walk (s : State) (cx va : Nat) (a : Acc) : (s.under u).walk cx va a = (s.walk cx va a).map (State.under · u) id := by
  unfold State.walk
  rw [under_ctx?]
  cases s.ctx? cx with
  | none => rfl
  | some c =>
    dsimp only [Option.map_some]
    have path : (s.under u).walkTo (c.metered u.buckets) va 4 0 (c.metered u.buckets).bindRec.ptRoot
        = s.walkTo c va 4 0 c.bindRec.ptRoot := under_walkTo u s c va 4 0 _
    rw [path]
    cases s.walkTo c va 4 0 c.bindRec.ptRoot with
    | error r => exact Prod.ext (under_noteWalk u s c va) rfl
    | ok e =>
      obtain ⟨ea, level, p⟩ := e
      dsimp only
      rw [apply_ite (Prod.map (State.under · u) id)]
      refine if_congr Iff.rfl rfl ?_
      cases (xlatOf cx va level p a).permits a with
      | some r => exact Prod.ext (under_noteWalk u s c va) rfl
      | none =>
        dsimp only
        rw [apply_ite (Prod.map (State.under · u) id)]
        refine if_congr Iff.rfl rfl (Prod.ext ?_ rfl)
        rw [under_noteWalk, under_markEntry]
        rfl

theorem under_engineKey (s : State) (cx va : Nat) (a : Acc) :
    (s.under u).engineKey cx va a = (s.engineKey cx va a).map (State.under · u) id := by
  unfold State.engineKey
  cases regionOf va
  case localTable =>
    dsimp only
    rw [under_walk]
    generalize s.walk cx va a = r
    obtain ⟨s1, r⟩ := r
    cases r <;> rfl
  all_goals rfl

theorem under_engineNow (s : State) (cx va : Nat) (a : Acc) :
    (s.under u).engineNow cx va a = (s.engineNow cx va a).map (State.under · u) id := by
  unfold State.engineNow
  rw [under_engineKey]
  generalize s.engineKey cx va a = r
  obtain ⟨s0, r⟩ := r
  rcases r with (_ | _ | _) | k
  case error.wait =>
    have marked : ({ s0.under u with migWait := true } : State) = State.under { s0 with migWait := true } u := rfl
    dsimp only [Prod.map, id]
    rw [marked, under_ctx?]
    generalize ({ s0 with migWait := true } : State) = s1
    cases s1.ctx? cx with
    | none => rfl
    | some c =>
      dsimp only [Option.map_some]
      have path : (s1.under u).walkTo (c.metered u.buckets) va 4 0 (c.metered u.buckets).bindRec.ptRoot
          = s1.walkTo c va 4 0 c.bindRec.ptRoot := under_walkTo u s1 c va 4 0 _
      rw [path]
      cases s1.walkTo c va 4 0 c.bindRec.ptRoot with
      | error r => rfl
      | ok e =>
        obtain ⟨ea, level, p⟩ := e
        dsimp only
        cases (xlatOf cx va level p a).permits a with
        | some r => rfl
        | none => exact Prod.ext (under_markEntry u s1 c ea p _) rfl
  all_goals rfl

theorem under_foldl_pair {α β : Type} {f : State × β → α → State × β}
    (h : ∀ q a, f (q.map (State.under · u) id) a = (f q a).map (State.under · u) id) (l : List α) (q : State × β) :
    l.foldl f (q.map (State.under · u) id) = (l.foldl f q).map (State.under · u) id := by
  induction l generalizing q with
  | nil => rfl
  | cons a t ih => rw [List.foldl_cons, h, ih, List.foldl_cons]

theorem under_engineRead (s : State) (cx va n : Nat) :
    (s.under u).engineRead cx va n = (s.engineRead cx va n).map (State.under · u) id := by
  unfold State.engineRead
  refine under_foldl_pair u (fun q p => ?_) _ (s, some [])
  obtain ⟨s, bs⟩ := q
  cases bs with
  | none => rfl
  | some bs =>
    dsimp only [Prod.map, id]
    rw [under_engineNow]
    generalize s.engineNow cx p.1 .read = r
    obtain ⟨s1, k⟩ := r
    cases k with
    | none => rfl
    | some k =>
      dsimp only [Prod.map, id]
      rw [under_homeRead, under_homeNote]
      generalize s1.homeRead k = r
      obtain ⟨d, poi⟩ := r
      cases poi <;> rfl

theorem under_circDesc (s : State) (cx a : Nat) : (s.under u).circDesc cx a = (s.circDesc cx a).map (State.under · u) id := by
  unfold State.circDesc
  rw [under_engineRead, apply_ite (Prod.map (State.under · u) id)]
  rfl

theorem under_readRcb (s : State) (cx addr : Nat) : (s.under u).readRcb cx addr = (s.readRcb cx addr).map (State.under · u) id := by
  unfold State.readRcb
  have held : (s.under u).rcb? cx addr = s.rcb? cx addr := rfl
  rw [held, under_engineRead]
  cases s.rcb? cx addr with
  | some r => rfl
  | none =>
    dsimp only
    rw [apply_ite (Prod.map (State.under · u) id)]
    refine if_congr Iff.rfl rfl ?_
    generalize s.engineRead cx addr 128 = r
    obtain ⟨s1, bs⟩ := r
    cases bs <;> rfl

theorem under_readChain (s : State) (cx fuel addr : Nat) :
    (s.under u).readChain cx fuel addr = (s.readChain cx fuel addr).map (State.under · u) id := by
  induction fuel generalizing s addr with
  | zero => rfl
  | succ fuel ih =>
    unfold State.readChain
    rw [under_readRcb]
    generalize s.readRcb cx addr = r
    obtain ⟨s1, r⟩ := r
    cases r with
    | none => rfl
    | some r =>
      dsimp only [Prod.map, id]
      rw [ih]
      split
      · rfl
      · split <;> rfl

/-! ## What an engine's read leaves, and what it does not depend on -/

/-- The unseen pieces that a state has. -/
def State.unseen (s : State) : Unseen := ⟨Context.buckets, s.queues, s.kernels, s.circuits⟩

theorem under_unseen (s : State) : s.under s.unseen = s := by
  have kept : s.ctxs.map (Context.metered Context.buckets) = s.ctxs := List.map_id _
  unfold State.under State.unseen
  dsimp only
  rw [kept]

/-- What commutes with any change of the unseen pieces leaves them. -/
theorem queuesStand_of_under {β : Type} {f : State → State × β} (h : ∀ u s, f (s.under u) = (f s).map (State.under · u) id) (s : State) :
    QueuesStand s (f s).1 := by
  have e : (f s).1 = (f s).1.under s.unseen := by
    have := h s.unseen s
    rw [under_unseen] at this
    exact congrArg Prod.fst this
  rw [e]
  exact .unchanged rfl

theorem engineRead_stands (s : State) (cx va n : Nat) : QueuesStand s (s.engineRead cx va n).1 :=
  queuesStand_of_under (f := fun s => s.engineRead cx va n) (fun u s => under_engineRead u s cx va n) s

theorem circDesc_stands (s : State) (cx a : Nat) : QueuesStand s (s.circDesc cx a).1 :=
  queuesStand_of_under (f := fun s => s.circDesc cx a) (fun u s => under_circDesc u s cx a) s

theorem readChain_stands (s : State) (cx fuel addr : Nat) : QueuesStand s (s.readChain cx fuel addr).1 :=
  queuesStand_of_under (f := fun s => s.readChain cx fuel addr) (fun u s => under_readChain u s cx fuel addr) s

/-- The state with other counts of the limiter alone. -/
def State.recounted (s : State) (b : Context → List (Nat × Bucket)) : State := s.under { s.unseen with buckets := b }

theorem recounted_recounted (s : State) (b b' : Context → List (Nat × Bucket)) :
    (s.recounted b).recounted b' = s.recounted fun c => b' (c.metered b) := by
  unfold State.recounted State.under State.unseen
  dsimp only
  rw [List.map_map]
  rfl

theorem updCtx_recounted (s : State) (cx : Nat) {f : Context → Context} (hf : ∀ c, f c = { c with buckets := (f c).buckets }) :
    s.updCtx cx f = s.recounted fun c => if c.cxid == cx then (f c).buckets else c.buckets := by
  have one (c : Context) : (if c.cxid == cx then f c else c) = c.metered fun c => if c.cxid == cx then (f c).buckets else c.buckets := by
    unfold Context.metered
    dsimp only
    cases c.cxid == cx with
    | true => exact hf c
    | false => rfl
  unfold State.updCtx State.recounted State.under upd
  simp only [one]
  rfl

/-- A charge changes counts of the limiter alone. -/
theorem spend_recounted (s : State) (cx : Nat) (cls : List Nat) (n : Nat) : ∃ b, s.spend cx cls n = s.recounted b := by
  induction cls generalizing s with
  | nil => exact ⟨_, (under_unseen s).symm⟩
  | cons k cls ih =>
    obtain ⟨b, hb⟩ := ih (s.updCtx cx fun c =>
      let b := (bucketOf c k).accrue s.nowUs
      if b.rate = 0 then c else c.setBucket k { b with count := b.count - n })
    rw [updCtx_recounted s cx fun c => by dsimp only; split <;> rfl, recounted_recounted] at hb
    refine ⟨_, Eq.trans ?_ hb⟩
    rw [← updCtx_recounted s cx fun c => by dsimp only; split <;> rfl]
    rfl

/-- The answer of a circuit's descriptor does not depend on the charge of its read. -/
theorem circDesc_spend (s : State) (cx : Nat) (cls : List Nat) (n cx' a : Nat) :
    ((s.spend cx cls n).circDesc cx' a).2 = (s.circDesc cx' a).2 := by
  obtain ⟨b, hb⟩ := spend_recounted s cx cls n
  rw [hb, State.recounted, under_circDesc]
  rfl

end Sys2Proof.Machine
end

section
/-! PROOFS. LAUNCH, WAITVER, SIGNAL, FENCE, NOP and SETLT (spec/05_queue.md R91, R93, R94; spec/06_kernel.md R98, R99, R103). -/

namespace Sys2Proof.Machine

/-! ## A command that its operation takes -/

section
variable {s : State} {n : Nat} {q : Queue} {c : Context} {bs : List Byte}

theorem takes_exec (h : Takes s n q c bs) (hf : q.fenced bs = false) {i : Instr} {p : List Byte → State → Context → Bool}
    {k : Queue → Context → List Byte → State → CmdRes} (hi : exec i s = .next (s.consume n p k)) (hp : p bs s c = true) :
    exec i s = .next (s.answered n q.cx bs (k q c bs s)) := by
  rw [hi, consume_takes p k h hf, if_pos hp]

theorem takes_invalid (h : Takes s n q c bs) (hf : q.fenced bs = false) {i : Instr} {p : List Byte → State → Context → Bool}
    {k : Queue → Context → List Byte → State → CmdRes} (hi : exec i s = .next (s.consume n p k)) (hp : p bs s c = true) {e : Nat}
    (he : k q c bs s = .bad e) : ∃ t, exec i s = .next t ∧ Invalid s t n q e :=
  ⟨_, takes_exec h hf hi hp, by rw [he]; exact invalid_invalidated h.queue e⟩

theorem takes_waits (h : Takes s n q c bs) (hf : q.fenced bs = false) {i : Instr} {p : List Byte → State → Context → Bool}
    {k : Queue → Context → List Byte → State → CmdRes} (hi : exec i s = .next (s.consume n p k)) (hp : p bs s c = true) {s1 : State}
    (hw : k q c bs s = .wait s1) : exec i s = .next s1 := by
  rw [takes_exec h hf hi hp, hw]
  rfl

theorem takes_taken (h : Takes s n q c bs) (hf : q.fenced bs = false) {i : Instr} {p : List Byte → State → Context → Bool}
    {k : Queue → Context → List Byte → State → CmdRes} (hi : exec i s = .next (s.consume n p k)) (hp : p bs s c = true) {s1 : State}
    {done : Bool} (ht : k q c bs s = .took s1 done) : exec i s = .next (s1.consumed n q.cx bs done) := by
  rw [takes_exec h hf hi hp, ht]
  rfl

theorem takes_done (h : Takes s n q c bs) (hf : q.fenced bs = false) {i : Instr} {p : List Byte → State → Context → Bool}
    {k : Queue → Context → List Byte → State → CmdRes} (hi : exec i s = .next (s.consume n p k)) (hp : p bs s c = true) {s1 : State}
    {done : Bool} (ht : k q c bs s = .took s1 done) (hq : s1.queues = s.queues) :
    ∃ t, exec i s = .next t ∧ Consumed s1 t n bs done := by
  have found : s1.queue? n = some q := by rw [State.queue?, hq]; exact h.queue
  exact ⟨_, takes_taken h hf hi hp ht, consumed_consumed found bs done⟩

theorem isOpc_self {opc : Nat} (h : fieldNat bs 0 1 = opc) (s : State) (c : Context) : isOpc opc bs s c = true := by
  simpa [isOpc] using h

/-- A command other than SIGNAL and FENCE waits for none before it. -/
theorem Queue.fenced_other (q : Queue) {opc : Nat} (h : fieldNat bs 0 1 = opc) (h3 : opc ≠ 3 := by decide) (h4 : opc ≠ 4 := by decide) :
    q.fenced bs = false := Queue.not_fenced fun hf => by omega

theorem Queue.fenced_free {q : Queue} (h : q.inflight = []) : q.fenced bs = false := Queue.not_fenced fun hf => hf.2 h

end

/-! ## The record of a kernel (R98) -/

theorem KernelsNear.mem {l l' : List Kernel} (h : KernelsNear l l') {k : Kernel} (hk : k ∈ l) : ∃ k' ∈ l', k.Nears k' := by
  obtain ⟨i, hi, rfl⟩ := List.getElem_of_mem hk
  exact ⟨_, List.getElem_mem (h.length_eq ▸ hi), h.get hi (h.length_eq ▸ hi)⟩

/-- A launch that is recorded appends its kernel to those that stand, and leaves the queues. -/
theorem recordKernel_recorded {s s1 : State} {cx kdAddr notBefore argptr : Nat} {rcb : Option Nat} {super : Bool} {by_ : Option (Nat × Nat)}
    (h : s.recordKernel cx kdAddr notBefore argptr rcb super by_ = (s1, .recorded)) :
    s1.queues = s.queues ∧ ∃ k : Kernel, KernelsNear (s.kernels ++ [k]) s1.kernels ∧ k.cx = cx ∧ k.kdAddr = kdAddr ∧ k.launchedBy = by_
      ∧ k.st = .recorded := by
  unfold State.recordKernel at h
  split at h
  · cases h
  next c hc =>
    split at h
    · cases h
    · split at h
      · cases h
      · have hread := engineRead_stands s cx kdAddr 128
        split at h
        · cases h
        next s2 bs e =>
          rw [e] at hread
          split at h
          next kd ds _ _ =>
            split at h
            · cases h
            · extract_lets addr at h
              have hchain := readChain_stands s2 cx 8 addr
              split at h
              · cases h
              next s3 e =>
                rw [e] at hchain
                extract_lets nb k s4 s5 at h
                obtain rfl := (Prod.mk.inj h).1
                have read : QueuesStand s s3 := hread.trans hchain
                have appended : QueuesStand s4 s5 := .unchanged rfl
                have behind := (appended.trans (.promote s5 cx)).trans (.askVersions _ cx)
                refine ⟨behind.queues.trans read.queues, k, KernelsNear.trans ?_ behind.kernels, rfl, rfl, rfl, rfl⟩
                exact List.rel_append read.kernels (KernelsNear.refl [k])
          · cases h

/-! ## SIGNAL (R91, R94) -/

/-- What a consumption makes of a queue with commands in flight. -/
theorem Queue.consumed_inflight (q : Queue) (bs : List Byte) :
    (q.consumed bs false).inflight = q.inflight ++ [(q.seq, q.rdidx, fieldNat bs 1 1 == 1)]
    ∧ (q.consumed bs false).rdidx = (q.rdidx + 1) % q.qsize ∧ (q.consumed bs false).signals = q.signals := by
  unfold Queue.consumed Queue.advance Queue.tryDrained
  have busy : (q.inflight ++ [(q.seq, q.rdidx, fieldNat bs 1 1 == 1)]).isEmpty = false := by simp
  simp only [Bool.false_eq_true, if_false, busy, Bool.and_false]
  split <;> exact ⟨rfl, rfl, rfl⟩

/-- A SIGNAL that is consumed keeps its write for a later step. -/
theorem signal_taken {s : State} {n : Nat} {q : Queue} (hq : s.queue? n = some q) (hi : q.inflight = []) (hs : q.signals = []) (bs : List Byte)
    {f : Queue → Queue} {a : Nat} {v : DWord} (hf : f = fun q => { q with signals := q.signals ++ [(q.seq, q.rdidx, a, v)] }) :
    let t := (s.updQueue n f).consumed n q.cx bs false
    ∃ q', t = { s with queues := t.queues, ctxs := (s.spend q.cx (hostClasses n) 64).ctxs } ∧ t.queue? n = some q'
      ∧ q'.inflight = [(q.seq, q.rdidx, fieldNat bs 1 1 == 1)] ∧ q'.rdidx = (q.rdidx + 1) % q.qsize ∧ q'.signals = [(q.seq, q.rdidx, a, v)] := by
  intro t
  have kept : ∀ x : Queue, (f x).iface = x.iface := fun x => by rw [hf]
  have found : t.queue? n = some ((f q).consumed bs false) :=
    (consumed_queue? ..).trans (queue?_updQueue_same (Queue.consumed_iface bs false) (queue?_updQueue_same kept hq))
  obtain ⟨inflight, rdidx, signals⟩ := (f q).consumed_inflight bs
  refine ⟨_, ?_, found, ?_, ?_, ?_⟩
  · have charged : ((s.updQueue n f).spend q.cx (hostClasses n) 64).ctxs = (s.spend q.cx (hostClasses n) 64).ctxs := by
      rw [spend_of_same (s := s) (t := s.updQueue n f) rfl rfl]
    have state : t = _ := consumed_state (s.updQueue n f) n q.cx bs false
    rw [← charged, state]
    rfl
  · rw [inflight, hf]
    simp [hi]
  · rw [rdidx, hf]
  · rw [signals, hf]
    simp [hs]

theorem Queue.refused_iface (idx : Nat) (q : Queue) : (q.refused idx).iface = q.iface := by
  unfold refused
  split <;> rfl

/-- A command that is in flight completes (R93). -/
theorem cmdDone_found {s : State} {n seq : Nat} {q : Queue} {c : Nat × Nat × Bool} (hq : s.queue? n = some q)
    (hc : q.inflight.find? (fun c => c.1 == seq) = some c) :
    s.cmdDone n seq =
      let s1 := s.updQueue n fun q => ({ q with inflight := q.inflight.filter fun c => c.1 != seq } : Queue).tryDrained
      if c.2.2 then s1.emit (.msix n) else s1 := by
  unfold State.cmdDone
  rw [hq]
  dsimp only
  rw [hc]

/-- The queue without the SIGNAL's write and without its command. -/
def Queue.signalled (q : Queue) : Queue := { q with signals := [], inflight := [] }

section
variable {s : State} {n seq idx a at_ : Nat} {v : DWord} {irq : Bool} {q : Queue} (hq : s.queue? n = some q)
  (hs : q.signals = [(seq, idx, a, v)]) (hi : q.inflight = [(seq, at_, irq)])
include hq hs hi

theorem signalWrite_turned {refused : Bool} (h : refused = true ∨ s.hostRefuses (s.pasidOf q) a 8 = true) :
    ∃ t, s.signalWrite q refused (seq, idx, a, v) = t ∧ t = { s with queues := t.queues } ∧ t.queue? n = some (q.signalled.refused idx) := by
  have hn : q.iface = n := queue?_iface hq
  unfold State.signalWrite
  dsimp only
  rw [if_pos (by simpa using h), hn]
  refine ⟨_, rfl, rfl, ?_⟩
  have unsigned := queue?_updQueue_same (f := fun q => { q with signals := q.signals.filter fun x => x.1 != seq }) (fun _ => rfl) hq
  refine (queue?_updQueue_same (f := fun q => ({ q with inflight := q.inflight.filter fun c => c.1 != seq } : Queue).refused idx)
    (fun q => Queue.refused_iface idx _) unsigned).trans ?_
  simp [Queue.signalled, hs, hi]

theorem signalWrite_written {refused : Bool} (h : ¬ (refused = true ∨ s.hostRefuses (s.pasidOf q) a 8 = true)) :
    ∃ t, s.signalWrite q refused (seq, idx, a, v) = t ∧ t = { s with queues := t.queues, hostMem := t.hostMem, hostEvents := t.hostEvents }
      ∧ t.hostMem = wrMem s.hostMem (hostAddr (s.pasidOf q) a) 8 v.toNat ∧ t.queue? n = some q.signalled.tryDrained
      ∧ t.hostEvents = s.hostEvents ++ [HostEvent.hostWrite (s.pasidOf q) a] ++ if irq = true then [HostEvent.msix n] else [] := by
  have hn : q.iface = n := queue?_iface hq
  unfold State.signalWrite
  dsimp only
  rw [if_neg (by simpa using h), hn]
  have unsigned := queue?_updQueue_same (f := fun q => { q with signals := q.signals.filter fun x => x.1 != seq }) (fun _ => rfl) hq
  have done := cmdDone_found (s := State.emit { s.updQueue n fun q => { q with signals := q.signals.filter fun x => x.1 != seq } with
    hostMem := wrMem s.hostMem (hostAddr (s.pasidOf q) a) 8 v.toNat } (.hostWrite (s.pasidOf q) a)) (seq := seq) (c := (seq, at_, irq))
    unsigned (by simp [hi])
  refine ⟨_, done, ?_⟩
  have found := queue?_updQueue_same (f := fun q => ({ q with inflight := q.inflight.filter fun c => c.1 != seq } : Queue).tryDrained)
    (fun q => Queue.tryDrained_iface _) unsigned
  have left : ({ q with signals := q.signals.filter (fun x => x.1 != seq), inflight := q.inflight.filter fun c => c.1 != seq } : Queue)
      = q.signalled := by simp [Queue.signalled, hs, hi]
  dsimp only at found ⊢
  rw [left] at found
  cases irq
  · exact ⟨rfl, rfl, found, (List.append_nil _).symm⟩
  · exact ⟨rfl, rfl, found, rfl⟩

end

theorem getD_leBytes (n v j : Nat) (hj : j < n) : (leBytes n v).getD j 0 = BitVec.ofNat 8 (v / 256 ^ j) := by
  induction n generalizing v j with
  | zero => omega
  | succ n ih =>
    cases j with
    | zero => simp [leBytes]
    | succ j =>
      rw [leBytes, List.getD_cons_succ, ih _ _ (by omega), Nat.div_div_eq_div_mul, Nat.pow_succ, Nat.mul_comm]

/-- The eight bytes of a doubleword. -/
theorem sget_wrMem_dword (m : List Host.Cell) (a x : Nat) (v : DWord) :
    sget 0 (wrMem m a 8 v.toNat) x = if a ≤ x ∧ x < a + 8 then BitVec.ofNat 8 (v.toNat / 256 ^ (x - a)) else sget 0 m x := by
  rw [wrMem, sget_sputRun, leBytes_length]
  refine if_ctx_congr Iff.rfl (fun h => ?_) fun _ => rfl
  exact getD_leBytes 8 _ _ (by omega)

/-! ## Each command of a guest (R93, R94) -/

/-- What a LAUNCH makes of the answer of its kernel's record. -/
def LaunchRes.answer (s s1 : State) : LaunchRes → CmdRes
  | .recorded => .took s1 false
  | .full => .wait s
  | .badKd => .bad 8

section
variable {s : State} {n : Nat} {q : Queue} {c : Context} {bs : List Byte} (h : Takes s n q c bs)
include h

theorem launch_misaligned (ho : fieldNat bs 0 1 = 1) (ha : fieldNat bs 0x18 8 % 64 ≠ 0) : ∃ t, exec (.launch n) s = .next t ∧ Invalid s t n q 7 :=
  takes_invalid h (q.fenced_other ho) rfl (isOpc_self ho s c) (if_pos ha)

theorem launch_answer (ho : fieldNat bs 0 1 = 1) (ha : fieldNat bs 0x18 8 % 64 = 0) {s1 : State} {r : LaunchRes}
    (hr : s.recordKernel c.cxid (fieldNat bs 8 8) (fieldNat bs 0x10 8) (fieldNat bs 0x18 8) none (n == 4096) (some (n, q.seq)) = (s1, r)) :
    exec (.launch n) s = .next (s.answered n q.cx bs (r.answer s s1)) := by
  refine (takes_exec h (q.fenced_other ho) rfl (isOpc_self ho s c)).trans (congrArg (fun r => Host.Outcome.next (s.answered n q.cx bs r)) ?_)
  refine (if_neg (not_not.mpr ha)).trans ?_
  rw [queue?_iface h.queue]
  change s.recordKernel c.cxid (fieldNat bs 8 8) (fieldNat bs 0x10 8) (fieldNat bs 0x18 8) none (n == hvIface) (some (n, q.seq)) = _ at hr
  rw [hr]
  cases r <;> rfl

theorem launch_full (ho : fieldNat bs 0 1 = 1) (ha : fieldNat bs 0x18 8 % 64 = 0) (hl : s.liveKernels c.cxid ≥ 1024)
    (hx : s.ctx? c.cxid ≠ none) : exec (.launch n) s = .next s := by
  refine launch_answer h ho ha (s1 := s) (r := .full) ?_
  unfold State.recordKernel
  obtain ⟨x, hx⟩ := Option.ne_none_iff_exists'.mp hx
  rw [hx]
  exact if_pos hl

theorem launch_recorded (ho : fieldNat bs 0 1 = 1) (ha : fieldNat bs 0x18 8 % 64 = 0) {s1 : State}
    (hr : s.recordKernel c.cxid (fieldNat bs 8 8) (fieldNat bs 0x10 8) (fieldNat bs 0x18 8) none (n == 4096) (some (n, q.seq))
      = (s1, .recorded)) :
    ∃ t k, exec (.launch n) s = .next t ∧ Consumed s1 t n bs false ∧ k ∈ t.kernels ∧ k.cx = c.cxid ∧ k.kdAddr = fieldNat bs 8 8
      ∧ k.launchedBy = some (n, q.seq) ∧ (k.st = .recorded ∨ k.st = .ready ∧ k.deps = []) ∧ t.kernels.length = s.kernels.length + 1 := by
  obtain ⟨queues, k, near, hcx, haddr, hby, hst⟩ := recordKernel_recorded hr
  have found : s1.queue? n = some q := by rw [State.queue?, queues]; exact h.queue
  obtain ⟨k', hk', hkk⟩ := near.mem (List.mem_append_right _ (List.mem_singleton_self k))
  have kernels : (s1.consumed n q.cx bs false).kernels = s1.kernels := by rw [consumed_state]
  have length : s1.kernels.length = s.kernels.length + 1 := by rw [← near.length_eq]; simp
  have state : k'.st = .recorded ∨ k'.st = .ready ∧ k'.deps = [] := by
    rcases hkk.state with e | ⟨-, e⟩
    · exact .inl (e.trans hst)
    · exact .inr e
  refine ⟨_, k', launch_answer h ho ha hr, consumed_consumed found bs false, kernels ▸ hk', ?_, ?_, ?_, state, (congrArg _ kernels).trans length⟩
  · rw [hkk.record, hcx]
  · rw [hkk.record, haddr]
  · rw [hkk.record, hby]

/-- WAITVER in a sheaf of the context (R94). -/
theorem waitver_cases (ho : fieldNat bs 0 1 = 2) :
    (c.bindRec.sheafN ≤ fieldNat bs 8 2 ∨ 4096 ≤ fieldNat bs 0xA 2 → ∃ t, exec (.waitver n) s = .next t ∧ Invalid s t n q 7)
    ∧ (fieldNat bs 8 2 < c.bindRec.sheafN → fieldNat bs 0xA 2 < 4096 →
      (s.sealedAt c.cxid (fieldNat bs 8 2) (fieldNat bs 0xA 2) = true → ∃ t, exec (.waitver n) s = .next t ∧ Consumed s t n bs true)
      ∧ (s.sealedAt c.cxid (fieldNat bs 8 2) (fieldNat bs 0xA 2) = false →
        exec (.waitver n) s = .next (s.askVersion c.cxid (fieldNat bs 8 2)))) := by
  have free := q.fenced_other ho
  have mine := isOpc_self ho s c
  refine ⟨fun hb => takes_invalid h free rfl mine (if_pos hb), fun hi hv => ⟨fun hs => ?_, fun hs => ?_⟩⟩
  all_goals have inside : ¬ (fieldNat bs 8 2 ≥ c.bindRec.sheafN ∨ fieldNat bs 0xA 2 ≥ 4096) := by omega
  · exact takes_done h free rfl mine ((if_neg inside).trans (if_pos hs)) rfl
  · exact takes_waits h free rfl mine ((if_neg inside).trans (if_neg (by simp [hs])))

/-- SIGNAL before its write (R94). -/
theorem signal_cases (ho : fieldNat bs 0 1 = 3) (hs : q.signals = []) (refused : Bool) :
    (q.inflight = [] → fieldNat bs 8 8 % 8 ≠ 0 → ∃ t, exec (.signal n refused) s = .next t ∧ Invalid s t n q 7)
    ∧ (q.inflight ≠ [] → exec (.signal n refused) s = .next s)
    ∧ (fieldNat bs 8 8 % 8 = 0 → q.inflight = [] → ∃ t q', exec (.signal n refused) s = .next t
        ∧ t = { s with queues := t.queues, ctxs := (s.spend q.cx (hostClasses n) 64).ctxs } ∧ t.queue? n = some q'
        ∧ q'.inflight = [(q.seq, q.rdidx, fieldNat bs 1 1 == 1)] ∧ q'.rdidx = (q.rdidx + 1) % q.qsize
        ∧ q'.signals = [(q.seq, q.rdidx, fieldNat bs 8 8, BitVec.ofNat 64 (fieldNat bs 0x10 8))]) := by
  have consumes : exec (.signal n refused) s = .next (s.consume n (isOpc opcSignal) fun _ _ bs s =>
      let a := fieldNat bs 8 8
      if a % 8 ≠ 0 then .bad errBadarg
      else .took (s.updQueue n fun q =>
        { q with signals := q.signals ++ [(q.seq, q.rdidx, a, BitVec.ofNat 64 (fieldNat bs 0x10 8))] }) false) := by
    change execSignal n refused s = _
    unfold execSignal
    rw [h.queue, Option.bind_some, hs]
    rfl
  have mine := isOpc_self ho s c
  refine ⟨fun hi hb => takes_invalid h (Queue.fenced_free hi) consumes mine (if_pos hb), fun hi => ?_, fun ha hi => ?_⟩
  · exact consumes.trans (congrArg _ (consume_fenced _ _ h.reads ((q.fenced_iff bs).mpr ⟨.inl ho, hi⟩)))
  · have taken := takes_taken h (Queue.fenced_free hi) consumes mine (if_neg (not_not.mpr ha))
    obtain ⟨q', state, found, kept⟩ := signal_taken h.queue hi hs bs rfl
    exact ⟨_, q', taken, state, found, kept⟩

end

/-- The step of a SIGNAL whose write is to be made (R94, R103). -/
theorem signal_writes {s : State} {n : Nat} {q : Queue} {e : Nat × Nat × Nat × DWord} (hq : s.queue? n = some q) (hs : q.signals = [e])
    (refused : Bool) :
    exec (.signal n refused) s
      = .next (if s.unpublished (if n = 4096 then none else some q.cx) then s else s.signalWrite q refused e) := by
  change execSignal n refused s = _
  unfold execSignal
  rw [hq, Option.bind_some, hs]
  rfl

/-- Settles O43: a command goes through its operation's case once its checks have passed; a SIGNAL's write is a step of its own. -/
theorem guestCommandsComplete : Obligations.GuestCommandsComplete := by
  unfold Obligations.GuestCommandsComplete
  refine ⟨fun s n q c bs h => ?_, fun s n seq idx a at_ v irq refused q hq hs hi => ?_⟩
  · extract_lets opc ends done arg
    refine ⟨launch_misaligned h, launch_full h, fun ho ha s1 => launch_recorded h ho ha, fun ho ha s1 hr => ?_,
      fun ho => (waitver_cases h ho).1, fun ho => (waitver_cases h ho).2, fun ho hs refused => (signal_cases h ho hs refused).1,
      fun ho hs refused => (signal_cases h ho hs refused).2.1, fun ho hs refused => (signal_cases h ho hs refused).2.2,
      fun ho hi => takes_done h (Queue.fenced_free hi) rfl (isOpc_self ho s c) rfl rfl, fun ho hi => ?_,
      fun ho => takes_done h (q.fenced_other ho) rfl (isOpc_self ho s c) rfl rfl,
      fun ho => takes_done h (q.fenced_other ho) rfl (isOpc_self ho s c) rfl rfl⟩
    · exact ⟨_, launch_answer h ho ha hr, invalid_invalidated h.queue 8⟩
    · exact congrArg _ (consume_fenced _ _ h.reads ((q.fenced_iff bs).mpr ⟨.inr ho, hi⟩))
  · extract_lets place turned waits
    have step := signal_writes hq hs refused
    have published {t : State} (hw : waits = false) (ht : s.signalWrite q refused (seq, idx, a, v) = t) :
        exec (.signal n refused) s = .next t := step.trans (congrArg _ ((if_neg (Bool.eq_false_iff.mp hw)).trans ht))
    refine ⟨fun hw => step.trans (congrArg _ (if_pos hw)), fun hw ht => ?_, fun hw ht hst => ?_, fun hw ht hst => ?_⟩
    · obtain ⟨t, write, state, mem, found, events⟩ := signalWrite_written hq hs hi ht
      exact ⟨t, published hw write, state, fun x => by rw [mem, sget_wrMem_dword], found, events⟩
    all_goals
      obtain ⟨t, write, state, found⟩ := signalWrite_turned hq hs hi ht
      refine ⟨t, published hw write, state, found.trans (congrArg some ?_)⟩
    · rcases hst with e | e <;> simp [Queue.refused, Queue.signalled, e, errXlate]
    · rcases hst with e | e <;> simp [Queue.refused, Queue.signalled, e, errXlate]

end Sys2Proof.Machine
end

section
/-! PROOFS. SETLAYOUT, SETKEY, SETGEN and the circuit commands (spec/05_queue.md R94, R95; spec/13_barrier.md R268; spec/14_windrow.md R277 to
R280; spec/17_link.md R345). -/

namespace Sys2Proof.Machine

/-! ## The hypervisor's commands (R94, R95, R268, R345) -/

theorem sgetRun_length {α : Type} (d : α) (m : Sparse α) (k n : Nat) : (sgetRun d m k n).length = n := by
  rw [sgetRun, List.length_map, List.length_range]

/-- The state with a layout record of a context at pa (R268). -/
def State.layoutPut (s : State) (pa : Nat) (bytes : List Byte) : State :=
  let s1 : State := { s with mem := sputRun 0 s.mem pa bytes }
  s1.setMeta (pa / 128) { s1.lmeta (pa / 128) with stamp := none, poison := false }

section
variable {s : State} {n : Nat} {q : Queue} {c : Context} {bs : List Byte} (h : Takes s n q c bs)
include h

theorem setlayout_badarg (ho : fieldNat bs 0 1 = 0x10)
    (hb : c.bindRec.layoutN ≤ fieldNat bs 8 2 ∨ layoutOk ((bs.drop 0x10).take 48) = false) :
    ∃ t, exec (.setlayout n) s = .next t ∧ Invalid s t n q 7 := by
  refine takes_invalid h (q.fenced_other ho) rfl (isOpc_self ho s c) (if_pos ?_)
  rcases hb with e | e
  · exact .inl e
  · exact .inr (by simp [e])

/-- The layout record is written, with the number of its context behind it. -/
theorem setlayout_written (ho : fieldNat bs 0 1 = 0x10) (hl : fieldNat bs 8 2 < c.bindRec.layoutN)
    (hok : layoutOk ((bs.drop 0x10).take 48) = true) :
    let bytes := (bs.drop 0x10).take 48 ++ leBytes 2 c.cxid ++ [1]
    let pa := c.bindRec.layoutBase + 64 * fieldNat bs 8 2
    ∃ t s1, exec (.setlayout n) s = .next t ∧ Consumed s1 t n bs true ∧ s1 = { s with mem := t.mem, lineMeta := t.lineMeta }
      ∧ ∀ a, t.byte a = if pa ≤ a ∧ a < pa + 51 then bytes.getD (a - pa) 0 else s.byte a := by
  intro bytes pa
  have passes : ¬ (fieldNat bs 8 2 ≥ c.bindRec.layoutN ∨ ¬ layoutOk ((bs.drop 0x10).take 48) = true) := by
    rintro (e | e)
    · omega
    · exact e hok
  have taken : exec (.setlayout n) s = .next ((s.layoutPut pa bytes).consumed n q.cx bs true) :=
    takes_taken h (q.fenced_other ho) rfl (isOpc_self ho s c) ((if_neg passes).trans rfl)
  have found : (s.layoutPut pa bytes).queue? n = some q := h.queue
  refine ⟨_, _, taken, consumed_consumed found bs true, ?_, fun a => ?_⟩
  · rw [consumed_state]
    rfl
  · rw [consumed_state]
    have length : bytes.length = 51 := by simp [bytes, h.bytes, sgetRun_length]
    change sget 0 (sputRun 0 s.mem pa bytes) a = _
    rw [sget_sputRun, length]
    rfl

theorem setkey_badarg (ho : fieldNat bs 0 1 = 0x11) (hid : 1 < fieldNat bs 8 1) :
    ∃ t, exec (.setkey n) s = .next t ∧ Invalid s t n q 7 :=
  takes_invalid h (q.fenced_other ho) rfl (isOpc_self ho s c) (if_pos hid)

/-- What the unwrapping of a key answers (R345). -/
def keyAnswer (s : State) (c : Context) (id : Nat) : Option Key → CmdRes
  | none => .bad 11
  | some k => .took (s.updCtx c.cxid fun c => if id = 0 then { c with memKey := k, keySet := true } else { c with granKey := k }) true

theorem setkey_answer (ho : fieldNat bs 0 1 = 0x11) (hid : fieldNat bs 8 1 ≤ 1) {r : Option Key}
    (hr : (if c.noSession then none else keyUnwrap c.transKey ((bs.drop 0x10).take 40)) = r) :
    exec (.setkey n) s = .next (s.answered n q.cx bs (keyAnswer s c (fieldNat bs 8 1) r)) := by
  refine (takes_exec h (q.fenced_other ho) rfl (isOpc_self ho s c)).trans (congrArg (fun r => Host.Outcome.next (s.answered n q.cx bs r)) ?_)
  refine (if_neg (Nat.not_lt.mpr hid)).trans ?_
  rw [hr]
  cases r <;> rfl

theorem setkey_badwrap (ho : fieldNat bs 0 1 = 0x11) (hid : fieldNat bs 8 1 ≤ 1)
    (hb : c.noSession = true ∨ keyUnwrap c.transKey ((bs.drop 0x10).take 40) = none) :
    ∃ t, exec (.setkey n) s = .next t ∧ Invalid s t n q 11 := by
  refine ⟨_, setkey_answer h ho hid (r := none) ?_, invalid_invalidated h.queue 11⟩
  rcases hb with e | e
  · exact if_pos e
  · rw [e, ite_self]

theorem setkey_done (ho : fieldNat bs 0 1 = 0x11) (hid : fieldNat bs 8 1 ≤ 1) (hs : c.noSession = false) {k : Key}
    (hk : keyUnwrap c.transKey ((bs.drop 0x10).take 40) = some k) :
    ∃ t, exec (.setkey n) s = .next t ∧ Consumed (s.updCtx c.cxid fun c =>
      if fieldNat bs 8 1 = 0 then { c with memKey := k, keySet := true } else { c with granKey := k }) t n bs true := by
  refine ⟨_, setkey_answer h ho hid (r := some k) ((if_neg (by simp [hs])).trans hk), consumed_consumed (s1 := s.updCtx _ _) h.queue bs true⟩

theorem setgen_badarg (ho : fieldNat bs 0 1 = 0x12) (hg : fieldNat bs 8 2 = 0) :
    ∃ t, exec (.setgen n) s = .next t ∧ Invalid s t n q 7 :=
  takes_invalid h (q.fenced_other ho) rfl (isOpc_self ho s c) (if_pos hg)

theorem setgen_unset (ho : fieldNat bs 0 1 = 0x12) (hg : fieldNat bs 8 2 ≠ 0) (hk : c.keySet = false) :
    ∃ t, exec (.setgen n) s = .next t ∧ Invalid s t n q 10 :=
  takes_invalid h (q.fenced_other ho) rfl (isOpc_self ho s c) ((if_neg hg).trans (if_pos (by simp [hk])))

theorem setgen_done (ho : fieldNat bs 0 1 = 0x12) (hg : fieldNat bs 8 2 ≠ 0) (hk : c.keySet = true) :
    ∃ t, exec (.setgen n) s = .next t
      ∧ Consumed (s.updCtx c.cxid fun x => { x with gen := BitVec.ofNat 16 (fieldNat bs 8 2) }) t n bs true :=
  takes_done h (q.fenced_other ho) rfl (isOpc_self ho s c) ((if_neg hg).trans (if_neg (by simp [hk]))) rfl

end

/-! ## The descriptor of a CIRCUIT command (R277, R116) -/

theorem isCirc_iff {bs : List Byte} (ho : fieldNat bs 0 1 = 6) (op : Nat) (s : State) (c : Context) :
    isCirc op bs s c = true
      ↔ ∀ d, (s.circDesc c.cxid (fieldNat bs 8 8)).2 = some d → fieldNat d 0 1 = op ∨ fieldNat d 0 1 = 0 ∨ 3 < fieldNat d 0 1 := by
  unfold isCirc
  rw [ho]
  cases (s.circDesc c.cxid (fieldNat bs 8 8)).2 <;> simp [opcCircuit, or_assoc]

theorem admits_nil (s : State) (cx : Nat) : s.admits cx [] = true := by
  unfold State.admits
  cases s.ctx? cx <;> rfl

section
variable {s : State} {n : Nat} {q : Queue} {c : Context} {bs : List Byte} (h : Takes s n q c bs) (ho : fieldNat bs 0 1 = 6) {op : Nat}
  {k : Context → List Byte → State → CmdRes} {i : Instr} (hi : exec i s = .next (s.circuitCmd n op k))
include h ho hi

theorem circuit_held (ha : s.admits c.cxid (s.engineClasses c.cxid (fieldNat bs 8 8)) = false) : exec i s = .next s := by
  cases hp : isCirc op bs s c with
  | false => exact hi.trans (congrArg _ (consume_unaccepted _ _ h hp))
  | true => exact takes_waits h (q.fenced_other ho) hi hp (if_pos (by simp [ha]))

variable (ha : s.admits c.cxid (s.engineClasses c.cxid (fieldNat bs 8 8)) = true) {s1 : State} {r : Option (List Byte)}
  (hr : (s.spend c.cxid (s.engineClasses c.cxid (fieldNat bs 8 8)) 64).circDesc c.cxid (fieldNat bs 8 8) = (s1, r))
include ha hr

/-- What the descriptor answers. -/
def circuitAnswer (s s1 : State) (op : Nat) (k : Context → List Byte → State → CmdRes) (c : Context) : Option (List Byte) → CmdRes
  | none => .bad 9
  | some d =>
    let tab := if op = 1 then s1.engineClasses c.cxid (fieldNat d 0x10 8) else []
    if fieldNat d 0 1 ≠ op then .bad 9
    else if !s1.admits c.cxid tab then .wait s
    else k c d (s1.spend c.cxid tab (16 * fieldNat d 0xC 2))

theorem circuit_answer (hop : ∀ d, r = some d → fieldNat d 0 1 = op ∨ fieldNat d 0 1 = 0 ∨ 3 < fieldNat d 0 1) :
    exec i s = .next (s.answered n q.cx bs (circuitAnswer s s1 op k c r)) := by
  have mine : isCirc op bs s c = true := by
    rw [isCirc_iff ho, ← circDesc_spend s c.cxid (s.engineClasses c.cxid (fieldNat bs 8 8)) 64, hr]
    exact hop
  refine (takes_exec h (q.fenced_other ho) hi mine).trans (congrArg (fun r => Host.Outcome.next (s.answered n q.cx bs r)) ?_)
  refine (if_neg (by simp [ha])).trans ?_
  rw [hr]
  cases r <;> rfl

theorem circuit_unread (hn : r = none) : ∃ t, exec i s = .next t ∧ Invalid s t n q 9 := by
  subst hn
  exact ⟨_, circuit_answer h ho hi ha hr nofun, invalid_invalidated h.queue 9⟩

section
variable {d : List Byte} (hd : r = some d)
include hd

theorem circuit_unknown (h3 : op ≠ 0 ∧ op ≤ 3) (hop : fieldNat d 0 1 = 0 ∨ 3 < fieldNat d 0 1) :
    ∃ t, exec i s = .next t ∧ Invalid s t n q 9 := by
  subst hd
  refine ⟨_, circuit_answer h ho hi ha hr fun e he => .inr (Option.some.inj he ▸ hop), ?_⟩
  have other : fieldNat d 0 1 ≠ op := by omega
  rw [show circuitAnswer s s1 op k c (some d) = .bad 9 from if_pos other]
  exact invalid_invalidated h.queue 9

theorem circuit_op (hop : fieldNat d 0 1 = op) :
    exec i s = .next (s.answered n q.cx bs (
      let tab := if op = 1 then s1.engineClasses c.cxid (fieldNat d 0x10 8) else []
      if s1.admits c.cxid tab then k c d (s1.spend c.cxid tab (16 * fieldNat d 0xC 2)) else .wait s)) := by
  subst hd
  refine (circuit_answer h ho hi ha hr fun e he => .inl (Option.some.inj he ▸ hop)).trans
    (congrArg (fun r => Host.Outcome.next (s.answered n q.cx bs r)) ?_)
  refine (if_neg (not_not.mpr hop)).trans ?_
  generalize (if op = 1 then s1.engineClasses c.cxid (fieldNat d 0x10 8) else []) = tab
  dsimp only
  cases s1.admits c.cxid tab <;> rfl

/-- REMOVE and REPACE read no layer table. -/
theorem circuit_tableless (hop : fieldNat d 0 1 = op) (h1 : op ≠ 1) : exec i s = .next (s.answered n q.cx bs (k c d s1)) := by
  refine (circuit_op h ho hi ha hr hd hop).trans (congrArg (fun r => Host.Outcome.next (s.answered n q.cx bs r)) ?_)
  dsimp only
  rw [if_neg h1, if_pos (admits_nil s1 c.cxid), spend_nil]

end

omit h ho hi ha in
/-- The queue stands behind the read of the descriptor. -/
theorem circuit_queues : s1.queues = s.queues ∧ s1.circuits = s.circuits := by
  have stands := (QueuesStand.spend s c.cxid (s.engineClasses c.cxid (fieldNat bs 8 8)) 64).trans
    (circDesc_stands _ c.cxid (fieldNat bs 8 8))
  rw [hr] at stands
  exact ⟨stands.queues, stands.circuits⟩

end

/-! ## INSTALL (R277 to R280) -/

theorem layersOf_length {bs : List Byte} {n : Nat} {l : List (Nat × Nat)} (h : layersOf bs n = some l) : l.length = n := by
  unfold layersOf at h
  suffices general : ∀ (L : List Nat) (l : List (Nat × Nat)), L.foldr (fun i (acc : Option (List (Nat × Nat))) =>
      let base := fieldNat bs (16 * i) 8
      let k := fieldNat bs (16 * i + 8) 2
      match acc with
      | none => none
      | some l => if base % 1024 == 0 && decide (1 ≤ k) && allZero bs (16 * i + 10) 6 then some ((base, k) :: l) else none) (some [])
      = some l → l.length = L.length by
    rw [general _ l h, List.length_range]
  intro L
  induction L with
  | nil =>
    intro l hl
    rw [← Option.some.inj hl]
    rfl
  | cons i L ih =>
    intro l hl
    rw [List.foldr_cons] at hl
    dsimp only at hl
    split at hl
    · cases hl
    next l' hl' =>
      split at hl
      · rw [← Option.some.inj hl, List.length_cons, ih l' hl', List.length_cons]
      · cases hl

theorem lowestFree_spec {n e : Nat} {used : Nat → Bool} (h : lowestFree n used = some e) : e < n ∧ used e = false := by
  have free := List.find?_some h
  exact ⟨List.mem_range.mp (List.mem_of_find?_eq_some h), by simpa using free⟩

/-- The circuit x of context c is what the descriptor d installs, on an engine that no circuit of s holds (R277, R280). -/
structure Installed (s : State) (c : Context) (d : List Byte) (x : Circuit) : Prop where
  cx : x.cx = c.cxid
  num : x.num = fieldNat d 1 1
  mode : x.mode = fieldNat d 2 1
  lanes : x.lanes = BitVec.ofNat 8 (fieldNat d 3 1)
  pace : x.pace = fieldNat d 6 2
  st : x.st = .running
  lap : x.lap = 0
  ord : x.ord = 0
  ring : x.ring = []
  layers : x.layers.length = fieldNat d 0xC 2
  engine : x.engine < 16
  fresh : ∀ y ∈ s.circuits, y.engine ≠ x.engine

theorem install_some {s s2 : State} {c : Context} {d : List Byte} (h : (s.install c d).2 = some s2) :
    s2.queues = s.queues ∧ ∃ x, s2.circuits = s.circuits ++ [x] ∧ Installed s c d x := by
  unfold State.install at h
  split at h
  · cases h
  · have hread := engineRead_stands s c.cxid (fieldNat d 0x10 8) (16 * fieldNat d 0xC 2)
    dsimp only at h
    split at h
    · cases h
    next s1 tab e =>
      rw [e] at hread
      split at h
      next layers engine hlayers hengine =>
        obtain ⟨inside, unused⟩ := lowestFree_spec hengine
        split at h
        · cases h
        · have hchain : QueuesStand s1 (if fieldNat d 0x18 8 = 0 then (s1, true) else s1.readChain c.cxid 8 (fieldNat d 0x18 8)).1 := by
            split
            · exact .refl s1
            · exact readChain_stands s1 _ _ _
          generalize (if fieldNat d 0x18 8 = 0 then (s1, true) else s1.readChain c.cxid 8 (fieldNat d 0x18 8)) = r at h hchain
          obtain ⟨s3, ok⟩ := r
          have stands := hread.trans hchain
          cases ok with
          | false => cases h
          | true =>
            obtain rfl := Option.some.inj h
            have tested := QueuesStand.lapTests
            refine ⟨(tested _ _).queues.trans stands.queues, _, ((tested _ _).circuits.trans (congrArg (· ++ [_]) stands.circuits)),
              rfl, rfl, rfl, rfl, rfl, rfl, rfl, rfl, rfl, layersOf_length hlayers, inside, fun y hy e => ?_⟩
            rw [← hread.circuits] at hy
            have := List.any_eq_false.mp unused y hy
            simp [e] at this
      · cases h

/-! ## REMOVE (R280) -/

/-- A circuit that is removed has left or is marked, and the queues stand. -/
theorem stopCircuit_removed (s : State) (x : Circuit) :
    (s.stopCircuit x .removed).queues = s.queues ∧ ∀ y ∈ (s.stopCircuit x .removed).circuits, y.id = x.id → y.st = .removed := by
  unfold State.stopCircuit
  extract_lets c1 s1
  have behind : QueuesStand s1 ((s1.endBoards c1).lapTests c1) := (QueuesStand.endBoards s1 c1).trans (.lapTests _ c1)
  have marked : ∀ y ∈ ((s1.endBoards c1).lapTests c1).circuits, y.id = x.id → y.st = .removed := by
    rw [behind.circuits]
    intro y hy hid
    obtain ⟨z, -, rfl⟩ := mem_upd.mp hy
    by_cases hz : (z.id == x.id) = true
    · rw [if_pos hz]
    · rw [if_neg hz] at hid
      exact absurd hid (by simpa using hz)
  have queues : ((s1.endBoards c1).lapTests c1).queues = s.queues := behind.queues
  unfold State.sweepCircuit
  split
  · exact ⟨queues, fun y hy => marked y (List.mem_filter.mp hy).1⟩
  · exact ⟨queues, marked⟩

/-! ## The circuit commands together -/

/-- What an INSTALL answers. -/
def installAnswer : Option State → CmdRes
  | none => .bad 9
  | some s2 => .took s2 true

section
variable {s : State} {n : Nat} {q : Queue} {c : Context} {bs : List Byte} (h : Takes s n q c bs) (ho : fieldNat bs 0 1 = 6)
  (ha : s.admits c.cxid (s.engineClasses c.cxid (fieldNat bs 8 8)) = true) {s1 : State} {d : List Byte}
  (hr : (s.spend c.cxid (s.engineClasses c.cxid (fieldNat bs 8 8)) 64).circDesc c.cxid (fieldNat bs 8 8) = (s1, some d))
include h ho ha hr

theorem circuitInstall_held (hop : fieldNat d 0 1 = 1) (ht : s1.admits c.cxid (s1.engineClasses c.cxid (fieldNat d 0x10 8)) = false) :
    exec (.circuitInstall n) s = .next s := by
  rw [circuit_op h ho (op := 1) (i := .circuitInstall n) rfl ha hr rfl hop]
  dsimp only
  rw [if_pos rfl, if_neg (by rw [ht]; decide)]
  rfl

theorem circuitInstall_answer (hop : fieldNat d 0 1 = 1) (ht : s1.admits c.cxid (s1.engineClasses c.cxid (fieldNat d 0x10 8)) = true) :
    exec (.circuitInstall n) s = .next (s.answered n q.cx bs (installAnswer
      ((s1.spend c.cxid (s1.engineClasses c.cxid (fieldNat d 0x10 8)) (16 * fieldNat d 0xC 2)).install c d).2)) := by
  refine (circuit_op h ho (op := 1) (i := .circuitInstall n) rfl ha hr rfl hop).trans
    (congrArg (fun r => Host.Outcome.next (s.answered n q.cx bs r)) ?_)
  dsimp only
  rw [if_pos rfl, if_pos ht]
  generalize (s1.spend c.cxid (s1.engineClasses c.cxid (fieldNat d 0x10 8)) (16 * fieldNat d 0xC 2)).install c d = r
  obtain ⟨s2, r⟩ := r
  cases r <;> rfl

/-- A circuit that is installed joins those that there are. -/
theorem circuitInstall_done (hop : fieldNat d 0 1 = 1) (ht : s1.admits c.cxid (s1.engineClasses c.cxid (fieldNat d 0x10 8)) = true) {s2 : State}
    (hs : ((s1.spend c.cxid (s1.engineClasses c.cxid (fieldNat d 0x10 8)) (16 * fieldNat d 0xC 2)).install c d).2 = some s2) :
    (∃ t, exec (.circuitInstall n) s = .next t ∧ Consumed s2 t n bs true) ∧ ∃ x, s2.circuits = s.circuits ++ [x] ∧ Installed s c d x := by
  obtain ⟨queues, x, circuits, installed⟩ := install_some hs
  have charged := QueuesStand.spend s1 c.cxid (s1.engineClasses c.cxid (fieldNat d 0x10 8)) (16 * fieldNat d 0xC 2)
  obtain ⟨queues1, circuits1⟩ := circuit_queues hr
  have kept := charged.circuits.trans circuits1
  have found : s2.queue? n = some q := by rw [State.queue?, queues, charged.queues, queues1]; exact h.queue
  refine ⟨⟨_, circuitInstall_answer h ho ha hr hop ht, ?_⟩, x, circuits.trans (congrArg (· ++ [x]) kept), ?_⟩
  · rw [hs]
    exact consumed_consumed found bs true
  · exact { installed with fresh := kept ▸ installed.fresh }

/-- A CIRCUIT without a layer table whose answer is known. -/
theorem circuit_bad {op : Nat} {k : Context → List Byte → State → CmdRes} {i : Instr} (hi : exec i s = .next (s.circuitCmd n op k))
    (hop : fieldNat d 0 1 = op) (h1 : op ≠ 1) (hk : k c d s1 = .bad 9) : ∃ t, exec i s = .next t ∧ Invalid s t n q 9 := by
  refine ⟨_, circuit_tableless h ho hi ha hr rfl hop h1, ?_⟩
  rw [hk]
  exact invalid_invalidated h.queue 9

theorem circuit_done {op : Nat} {k : Context → List Byte → State → CmdRes} {i : Instr} (hi : exec i s = .next (s.circuitCmd n op k))
    (hop : fieldNat d 0 1 = op) (h1 : op ≠ 1) {s2 : State} (hk : k c d s1 = .took s2 true) (hq : s2.queues = s1.queues) :
    ∃ t, exec i s = .next t ∧ Consumed s2 t n bs true := by
  have found : s2.queue? n = some q := by rw [State.queue?, hq, (circuit_queues hr).1]; exact h.queue
  refine ⟨_, circuit_tableless h ho hi ha hr rfl hop h1, ?_⟩
  rw [hk]
  exact consumed_consumed found bs true

theorem circuitRemove_cases (hop : fieldNat d 0 1 = 2) :
    (s1.circ? c.cxid (fieldNat d 1 1) = none → ∃ t, exec (.circuitRemove n) s = .next t ∧ Invalid s t n q 9)
    ∧ ∀ x, s1.circ? c.cxid (fieldNat d 1 1) = some x → allZero d 2 62 = true →
      (∃ t, exec (.circuitRemove n) s = .next t ∧ Consumed (s1.stopCircuit x .removed) t n bs true)
      ∧ ∀ y ∈ (s1.stopCircuit x .removed).circuits, y.id = x.id → y.st = .removed := by
  refine ⟨fun hn => circuit_bad h ho ha hr (i := .circuitRemove n) rfl hop (by decide) (by rw [hn]; rfl), fun x hx hz => ⟨?_, ?_⟩⟩
  · refine circuit_done h ho ha hr (i := .circuitRemove n) rfl hop (by decide) ?_ (stopCircuit_removed s1 x).1
    rw [hx]
    exact if_pos hz
  · exact (stopCircuit_removed s1 x).2

theorem circuitRepace_cases (hop : fieldNat d 0 1 = 3) {x : Circuit} (hx : s1.circ? c.cxid (fieldNat d 1 1) = some x)
    (h4 : allZero d 2 4 = true) (h56 : allZero d 8 56 = true) :
    (132 * laneCount x.lanes < fieldNat d 6 2 → ∃ t, exec (.circuitRepace n) s = .next t ∧ Invalid s t n q 9)
    ∧ (fieldNat d 6 2 ≤ 132 * laneCount x.lanes → x.st = .running → ∃ t, exec (.circuitRepace n) s = .next t
      ∧ Consumed (s1.updCirc x.id fun x => { x with nextPace := some (fieldNat d 6 2) }) t n bs true)
    ∧ (fieldNat d 6 2 ≤ 132 * laneCount x.lanes → x.st ≠ .running → ∃ t, exec (.circuitRepace n) s = .next t ∧ Consumed s1 t n bs true) := by
  refine ⟨fun hp => circuit_bad h ho ha hr (i := .circuitRepace n) rfl hop (by decide) ?_,
    fun hp hst => circuit_done h ho ha hr (i := .circuitRepace n) rfl hop (by decide) ?_ rfl,
    fun hp hst => circuit_done h ho ha hr (i := .circuitRepace n) rfl hop (by decide) ?_ rfl⟩
  · rw [hx]
    exact if_neg (by simp [h4, h56, hp])
  · rw [hx]
    exact (if_pos (by simp [h4, h56, hp])).trans (by rw [if_pos (by simp [hst])])
  · rw [hx]
    exact (if_pos (by simp [h4, h56, hp])).trans (by rw [if_neg (by simpa using hst)])

end

/-- Settles O44: what an engine reads of a descriptor depends neither on the charge of the read nor on circuits and queues. -/
theorem privilegedAndCircuitCommands : Obligations.PrivilegedAndCircuitCommands := by
  unfold Obligations.PrivilegedAndCircuitCommands
  intro s n q c bs h
  refine ⟨setlayout_badarg h, setlayout_written h, setkey_badarg h, setkey_badwrap h, fun ho hs k hk => ⟨fun h0 => ?_, fun h1 => ?_⟩,
    setgen_badarg h, setgen_unset h, setgen_done h, fun ho => ⟨fun ha => ?_, fun ha s1 hr => ?_, fun ha s1 d hr => ⟨fun hop => ?_,
      circuitInstall_held h ho ha hr, fun hop ht hs => ?_, fun hop ht s2 hs => ?_, fun hop => (circuitRemove_cases h ho ha hr hop).1,
      fun hop => (circuitRemove_cases h ho ha hr hop).2, fun hop x hx h4 h56 => circuitRepace_cases h ho ha hr hop hx h4 h56⟩⟩⟩
  · have done := setkey_done h ho (by omega) hs hk
    rw [h0] at done
    exact done
  · have done := setkey_done h ho (by omega) hs hk
    rw [h1] at done
    exact done
  · exact ⟨circuit_held h ho (i := .circuitInstall n) rfl ha, circuit_held h ho (i := .circuitRemove n) rfl ha,
      circuit_held h ho (i := .circuitRepace n) rfl ha⟩
  · exact ⟨circuit_unread h ho (i := .circuitInstall n) rfl ha hr rfl, circuit_unread h ho (i := .circuitRemove n) rfl ha hr rfl,
      circuit_unread h ho (i := .circuitRepace n) rfl ha hr rfl⟩
  · exact ⟨circuit_unknown h ho (i := .circuitInstall n) rfl ha hr rfl (by decide) hop,
      circuit_unknown h ho (i := .circuitRemove n) rfl ha hr rfl (by decide) hop,
      circuit_unknown h ho (i := .circuitRepace n) rfl ha hr rfl (by decide) hop⟩
  · refine ⟨_, circuitInstall_answer h ho ha hr hop ht, ?_⟩
    rw [hs]
    exact invalid_invalidated h.queue 9
  · obtain ⟨done, x, circuits, inst⟩ := circuitInstall_done h ho ha hr hop ht hs
    exact ⟨done, x, circuits, inst.cx, inst.num, inst.mode, inst.lanes, inst.pace, inst.st, inst.lap, inst.ord, inst.ring, inst.layers,
      inst.engine, inst.fresh⟩

end Sys2Proof.Machine
end

section
/-! PROOFS. The dispatcher: due launches, waits, exits and device-side launches (spec/05_queue.md R97; spec/06_kernel.md R98, R99, R104, R106,
R109, R117). -/

namespace Sys2Proof.Machine

/-! ## Entry to the ready pool (R98, R99) -/

theorem promote_state (s : State) (cx : Nat) :
    s.promote cx = { s with kernels := (s.promote cx).kernels, ctxs := (s.promote cx).ctxs } := by
  unfold State.promote
  extract_lets n r s1
  split <;> rfl

theorem meet_state (s : State) (cx : Nat) (p : Dep → Bool) :
    s.meet cx p = { s with kernels := (s.meet cx p).kernels, ctxs := (s.meet cx p).ctxs } := by
  unfold State.meet
  extract_lets ks
  rw [promote_state]

/-- A RECORDED kernel of context cx without unmet dependences. -/
def Kernel.eligible (cx : Nat) (k : Kernel) : Bool := k.cx == cx && k.st == .recorded && k.deps.isEmpty

theorem Kernel.eligible_iff {cx : Nat} {k : Kernel} : k.eligible cx = true ↔ k.cx = cx ∧ k.st = .recorded ∧ k.deps = [] := by
  simp [eligible, and_assoc]

/-- One kernel is considered, while the pool holds acc.2. -/
def State.promoteStep (s : State) (cx : Nat) (acc : List Kernel × Nat) (k : Kernel) : List Kernel × Nat :=
  if k.eligible cx && decide (acc.2 < 256) then (acc.1 ++ [k.promoted s], acc.2 + 1) else (acc.1 ++ [k], acc.2)

theorem promote_kernels (s : State) (cx : Nat) :
    (s.promote cx).kernels
      = (s.kernels.foldl (s.promoteStep cx) ([], (s.kernels.filter fun k => k.cx == cx && k.inPool).length)).1 := by
  unfold State.promote
  extract_lets n r s1
  split <;> rfl

/-- Each kernel stays, or enters the pool. -/
theorem promote_each (s : State) (cx : Nat) :
    List.Forall₂ (fun k k' => k' = k ∨ k.eligible cx = true ∧ k' = k.promoted s) s.kernels (s.promote cx).kernels := by
  rw [promote_kernels]
  refine forall₂_foldl_append _ (fun acc k => ?_) _ _
  unfold State.promoteStep
  split
  next h => exact ⟨_, .inr ⟨(Bool.and_eq_true _ _ ▸ h).1, rfl⟩, rfl⟩
  next => exact ⟨k, .inl rfl, rfl⟩

/-- While there is room, every kernel that may enter does. -/
theorem promote_room (s : State) (cx : Nat)
    (h : (s.kernels.filter fun k => k.cx == cx && k.inPool).length + (s.kernels.filter (Kernel.eligible cx)).length ≤ 256) :
    (s.promote cx).kernels = s.kernels.map fun k => if k.eligible cx then k.promoted s else k := by
  rw [promote_kernels]
  generalize (s.kernels.filter fun k => k.cx == cx && k.inPool).length = n at h
  suffices general : ∀ (l : List Kernel) (acc : List Kernel × Nat), acc.2 + (l.filter (Kernel.eligible cx)).length ≤ 256 →
      (l.foldl (s.promoteStep cx) acc).1 = acc.1 ++ l.map fun k => if k.eligible cx then k.promoted s else k by
    exact (general _ _ h).trans (List.nil_append _)
  intro l
  induction l with
  | nil => exact fun acc _ => (List.append_nil _).symm
  | cons k l ih =>
    intro acc hroom
    rw [List.foldl_cons, List.map_cons]
    by_cases hk : k.eligible cx = true
    · rw [List.filter_cons_of_pos hk, List.length_cons] at hroom
      have step : s.promoteStep cx acc k = (acc.1 ++ [k.promoted s], acc.2 + 1) := if_pos (by simp [hk]; omega)
      rw [step, ih _ (by dsimp only; omega), if_pos hk, List.append_assoc, List.singleton_append]
    · rw [List.filter_cons_of_neg hk] at hroom
      have step : s.promoteStep cx acc k = (acc.1 ++ [k], acc.2) := if_neg (by simp [hk])
      rw [step, ih (acc.1 ++ [k], acc.2) hroom, if_neg hk, List.append_assoc, List.singleton_append]

/-- The pool and the kernels that may enter it are different kernels of the context. -/
theorem pool_and_eligible (cx : Nat) (l : List Kernel) (h : ∀ k ∈ l, k.st = .recorded → k.inPool = false) :
    (l.filter fun k => k.cx == cx && k.inPool).length + (l.filter (Kernel.eligible cx)).length ≤ (l.filter fun k => k.cx == cx).length := by
  induction l with
  | nil => exact Nat.le_refl 0
  | cons k l ih =>
    have rest := ih fun x hx => h x (List.mem_cons_of_mem k hx)
    have out : k.eligible cx = true → k.inPool = false := fun he => h k (List.mem_cons_self) (Kernel.eligible_iff.mp he).2.1
    have mine : k.eligible cx = true → k.cx = cx := fun he => (Kernel.eligible_iff.mp he).1
    simp only [← List.countP_eq_length_filter, List.countP_cons] at rest ⊢
    by_cases he : k.eligible cx = true
    · simp [he, out he, mine he]
      omega
    · by_cases hc : k.cx = cx <;> simp [he, hc]
      · split <;> omega
      · omega

/-! ## GTIME_DUE (R99, R104) -/

/-- A dependence that a time leaves. -/
def Dep.outlasts (t : Nat) : Dep → Bool
  | .gtime u => decide (t < u)
  | .kdone _ | .ktrig _ | .shver .. | .lap .. => true

theorem Dep.outlasts_iff (t : Nat) (d : Dep) : d.outlasts t = true ↔ ¬ ∃ u, d = .gtime u ∧ u ≤ t := by
  cases d <;> simp [outlasts]

/-- A kernel whose dependences on time are met, where GTIME_DUE names it. -/
def Kernel.due (s : State) (cx id : Nat) (k : Kernel) : Kernel :=
  if k.cx == cx && k.st == .recorded && k.id == id then { k with deps := k.deps.filter (Dep.outlasts s.gtime) } else k

theorem Kernel.due_record (s : State) (cx id : Nat) (k : Kernel) : k.due s cx id = { k with deps := (k.due s cx id).deps } := by
  unfold due
  split <;> rfl

theorem Kernel.mem_due_deps (s : State) (cx id : Nat) (k : Kernel) (d : Dep) :
    d ∈ (k.due s cx id).deps ↔ d ∈ k.deps ∧ ¬ (k.cx = cx ∧ k.id = id ∧ k.st = .recorded ∧ ∃ u, d = .gtime u ∧ u ≤ s.gtime) := by
  unfold due
  split
  next h =>
    simp only [Bool.and_eq_true, beq_iff_eq] at h
    rw [List.mem_filter, Dep.outlasts_iff]
    simp [h]
  next h =>
    simp only [Bool.and_eq_true, beq_iff_eq] at h
    exact ⟨fun hd => ⟨hd, fun hh => h ⟨⟨hh.1, hh.2.2.1⟩, hh.2.1⟩⟩, And.left⟩

/-- The state in which the dependences on time are met. -/
def State.dued (s : State) (cx id : Nat) : State := { s with kernels := s.kernels.map (Kernel.due s cx id) }

theorem meetGtime_dued (s : State) (cx id : Nat) : (s.meetGtime cx fun k => k.id == id) = (s.dued cx id).promote cx := rfl

/-- What GTIME_DUE makes of each kernel. -/
theorem gtimeDue_each (s : State) (cx id : Nat) (hpool : ∀ k ∈ s.kernels, k.st = .recorded → k.inPool = false) (i : Nat) (k : Kernel)
    (hk : s.kernels[i]? = some k) :
    ∃ k' : Kernel, ((s.dued cx id).promote cx).kernels[i]? = some k' ∧ k'.cx = k.cx ∧ k'.id = k.id ∧ k'.kd = k.kd
      ∧ k'.deps = (k.due s cx id).deps ∧ (k'.st = k.st ∨ k.st = .recorded ∧ k'.st = .ready ∧ k'.deps = [])
      ∧ (k.cx = cx → k.st = .recorded → k'.deps = [] → (s.kernels.filter fun j => j.cx == cx).length ≤ 256 → k'.st = .ready) := by
  have due := k.due_record s cx id
  have each := promote_each (s.dued cx id) cx
  have before : (s.dued cx id).kernels[i]? = some (k.due s cx id) := by rw [State.dued, List.getElem?_map, hk, Option.map_some]
  obtain ⟨hi, hget⟩ := List.getElem?_eq_some_iff.mp before
  have hi' : i < ((s.dued cx id).promote cx).kernels.length := each.length_eq ▸ hi
  have step := each.get hi hi'
  simp only [List.get_eq_getElem, hget] at step
  generalize hk' : ((s.dued cx id).promote cx).kernels[i] = k' at step
  have after : ((s.dued cx id).promote cx).kernels[i]? = some k' := List.getElem?_eq_some_iff.mpr ⟨hi', hk'⟩
  have record : k' = { k.due s cx id with
      st := k'.st, inPool := k'.inPool, waitingSince := k'.waitingSince, coopBad := k'.coopBad } := by
    rcases step with e | ⟨-, e⟩ <;> exact e ▸ rfl
  refine ⟨k', after, ?_, ?_, ?_, ?_, ?_, fun hcx hst hd hroom => ?_⟩
  · rw [record, due]
  · rw [record, due]
  · rw [record, due]
  · rw [record]
  · rcases step with e | ⟨he, e⟩
    · left
      rw [e, due]
    · obtain ⟨-, hst, hd⟩ := Kernel.eligible_iff.mp he
      rw [due] at hst
      exact .inr ⟨hst, by rw [e]; rfl, by rw [e]; exact hd⟩
  · have same : (s.dued cx id).kernels.filter (fun j => j.cx == cx) = (s.kernels.filter fun j => j.cx == cx).map (Kernel.due s cx id) := by
      rw [State.dued, List.filter_map]
      refine congrArg (List.map _) (List.filter_congr fun x _ => ?_)
      rw [Function.comp_apply, x.due_record]
    have outside : ∀ x ∈ (s.dued cx id).kernels, x.st = .recorded → x.inPool = false := by
      intro x hx hxst
      obtain ⟨y, hy, rfl⟩ := List.mem_map.mp hx
      rw [y.due_record] at hxst ⊢
      exact hpool y hy hxst
    have room := (pool_and_eligible cx _ outside).trans (((congrArg List.length same).trans (List.length_map _)).trans_le hroom)
    have all := promote_room (s.dued cx id) cx room
    have eligible : (k.due s cx id).eligible cx = true := by
      refine Kernel.eligible_iff.mpr ⟨?_, ?_, ?_⟩
      · rw [due, hcx]
      · rw [due, hst]
      · rcases step with e | ⟨-, e⟩ <;> rw [e] at hd <;> exact hd
    rw [all, List.getElem?_map, before, Option.map_some, if_pos eligible] at after
    rw [← Option.some.inj after]
    rfl

/-- A launch that is due becomes READY. -/
theorem gtimeDue_steps (s : State) (cx id : Nat) (hpool : ∀ k ∈ s.kernels, k.st = .recorded → k.inPool = false) :
    ∃ t, exec (.gtimeDue cx id) s = .next t ∧ SameMem s t ∧ t.groups = s.groups ∧ t.kernels.length = s.kernels.length
      ∧ ∀ (i : Nat) (k : Kernel), s.kernels[i]? = some k → ∃ k' : Kernel, t.kernels[i]? = some k' ∧ k'.cx = k.cx ∧ k'.id = k.id ∧ k'.kd = k.kd
        ∧ (∀ d, d ∈ k'.deps ↔ d ∈ k.deps ∧ ¬ (k.cx = cx ∧ k.id = id ∧ k.st = .recorded ∧ ∃ u, d = .gtime u ∧ u ≤ s.gtime))
        ∧ (k'.st = k.st ∨ k.st = .recorded ∧ k'.st = .ready ∧ k'.deps = [])
        ∧ (k.cx = cx → k.st = .recorded → k'.deps = [] → (s.kernels.filter fun j => j.cx == cx).length ≤ 256 → k'.st = .ready) := by
  refine ⟨(s.dued cx id).promote cx, rfl, fun a => ?_, ?_, ?_, fun i k hk => ?_⟩
  · rw [promote_state]
    rfl
  · rw [promote_state]
    rfl
  · rw [← (promote_each (s.dued cx id) cx).length_eq, State.dued, List.length_map]
  · obtain ⟨k', after, hcx, hid, hkd, deps, state, ready⟩ := gtimeDue_each s cx id hpool i k hk
    exact ⟨k', after, hcx, hid, hkd, fun d => by rw [deps, Kernel.mem_due_deps], state, ready⟩

/-! ## PLACEMENT_WAIT_1MS (R106) -/

/-- A kernel of a RUN context has a workgroup left, and no RCB over it is parked or spent. -/
theorem placeable_iff (s : State) (k : Kernel) :
    s.placeable k = true ↔ (k.st = .ready ∨ k.st = .running) ∧ k.nextL < k.total ∧ (∃ x, s.ctx? k.cx = some x ∧ x.st = .run)
      ∧ ∀ r ∈ s.kernelChain k.cx k.id, r.parked = false ∧ s.rcbSpent r = false := by
  have running : s.running k.cx = true ↔ ∃ x, s.ctx? k.cx = some x ∧ x.st = .run := by
    unfold State.running
    cases s.ctx? k.cx <;> simp
  have parked : (!s.itemParked (.kernel k)) = true ↔ ∀ r ∈ s.kernelChain k.cx k.id, r.parked = false ∧ s.rcbSpent r = false := by
    simp [State.itemParked, PlaceItem.cx, PlaceItem.kid]
  unfold State.placeable
  simp only [Bool.and_eq_true, Bool.or_eq_true, beq_iff_eq, decide_eq_true_eq, running, parked, and_assoc]

theorem placeNext_no_iff (s : State) (k : Kernel) (cls : List Nat) : s.placeNext k cls = .no ↔ s.coresFor k cls = none := by
  unfold State.placeNext
  cases s.coresFor k cls with
  | none => simp
  | some cs =>
    dsimp only
    split <;> simp

theorem lacksRoom_iff (s : State) (k : Kernel) :
    s.lacksRoom k = true ↔ s.placeable k = true ∧ (k.kd.coop = false → s.coresFor k (s.clustersFor k.cx) = none)
      ∧ (k.kd.coop = true → s.placeAll k.cx k.id (s.clustersFor k.cx) (k.total + 1) = .no) := by
  unfold State.lacksRoom
  rw [Bool.and_eq_true]
  cases hc : k.kd.coop with
  | false =>
    rw [← placeNext_no_iff]
    cases s.placeNext k (s.clustersFor k.cx) <;> simp
  | true => cases s.placeAll k.cx k.id (s.clustersFor k.cx) (k.total + 1) <;> simp

theorem kernel?_single {s : State} {k : Kernel} (h : s.kernels = [k]) : s.kernel? k.cx k.id = some k := by
  simp [State.kernel?, h]

theorem updKernel_single {s : State} {k : Kernel} (h : s.kernels = [k]) (f : Kernel → Kernel) :
    s.updKernel k.cx k.id f = { s with kernels := [f k] } := by
  simp [State.updKernel, h, upd]

theorem placementWait_cases {s : State} {k : Kernel} (h : s.kernels = [k]) :
    (s.lacksRoom k = true ∧ k.waitingSince + 2250000 ≤ s.cycle →
      exec (.placementWait1ms k.cx k.id) s = .next { s with kernels := [{ k with blocking := true }] })
    ∧ (¬ (s.lacksRoom k = true ∧ k.waitingSince + 2250000 ≤ s.cycle) → exec (.placementWait1ms k.cx k.id) s = .next s) := by
  have step : exec (.placementWait1ms k.cx k.id) s = .next (if s.lacksRoom k && decide (s.cycle ≥ k.waitingSince + 2250000) then
      s.updKernel k.cx k.id fun k => { k with blocking := true } else s) := by
    change execPlacementWait1ms k.cx k.id s = _
    unfold execPlacementWait1ms
    rw [kernel?_single h]
  rw [step]
  refine ⟨fun hd => congrArg _ ((if_pos (by simpa using hd)).trans (updKernel_single h _)), fun hd => congrArg _ (if_neg ?_)⟩
  simpa using hd

/-! ## EXITED (R98, R109, R117) -/

/-- A test of dependences leaves a kernel that runs alone. -/
theorem meet_running {s : State} {k : Kernel} (h : s.kernels = [k]) (hst : k.st = .running) (cx : Nat) (p : Dep → Bool) :
    (s.meet cx p).kernels = [k] := by
  have near := (QueuesStand.meet s cx p).kernels
  rw [h] at near
  obtain ⟨k', l, hk, hl, rest⟩ := List.forall₂_cons_left_iff.mp near
  rw [rest, List.forall₂_nil_left_iff.mp hl, hk.stands (by simp [hst])]

theorem meet_empty {s : State} (h : s.kernels = []) (cx : Nat) (p : Dep → Bool) : (s.meet cx p).kernels = [] := by
  have near := (QueuesStand.meet s cx p).kernels
  rw [h] at near
  exact List.forall₂_nil_left_iff.mp near

/-- The kernel k with n workgroups counted toward its trigger. -/
def Kernel.counts (n : Nat) (full : Bool) (k : Kernel) : Kernel := { k with trigCount := n, triggered := k.triggered || full }

/-- Workgroup l of a kernel is the n-th that counts; full: it is the last one. -/
def State.counting (s : State) (cx kernel l n : Nat) (full : Bool) : State :=
  (s.updWg cx kernel l fun w => { w with counted := true }).updKernel cx kernel (Kernel.counts n full)

/-- A workgroup counts toward its kernel's trigger, once (R109). -/
theorem countTrigger_cases {s : State} {cx kernel l : Nat} {w : Workgroup} {k : Kernel} (hw : s.wg? cx kernel l = some w)
    (hk : s.kernel? cx kernel = some k) :
    (w.counted = true → s.countTrigger cx kernel l = s)
    ∧ (w.counted = false → k.trigCount + 1 ≠ k.total → s.countTrigger cx kernel l = s.counting cx kernel l (k.trigCount + 1) false)
    ∧ (w.counted = false → k.trigCount + 1 = k.total → s.countTrigger cx kernel l
      = (s.counting cx kernel l (k.trigCount + 1) true).meet cx fun d => d == .ktrig kernel) := by
  unfold State.countTrigger State.counting
  rw [hw, hk]
  dsimp only
  refine ⟨fun hc => if_pos hc, fun hc hn => ?_, fun hc hn => ?_⟩
  · rw [if_neg (by simp [hc]), decide_eq_false hn]
    rfl
  · rw [if_neg (by simp [hc]), decide_eq_true hn]
    rfl

/-- The state with one workgroup and one kernel. -/
def State.alone (s : State) (w : Workgroup) (k : Kernel) (l : List Context) : State := { s with wgs := [w], kernels := [k], ctxs := l }

section
variable {s : State} {w : Workgroup} {k : Kernel} (hw : s.wgs = [w]) (hk : s.kernels = [k]) (hcx : k.cx = w.cx) (hid : k.id = w.kernel)
include hw hk hcx hid

theorem counting_alone (n : Nat) (full : Bool) :
    s.counting w.cx w.kernel w.l n full = s.alone { w with counted := true } (k.counts n full) s.ctxs := by
  simp [State.counting, State.alone, State.updWg, State.updKernel, upd, hw, hk, hcx, hid]

/-- The one workgroup of the one kernel counts: contexts change by a test of dependences alone. -/
theorem countTrigger_alone (hst : k.st = .running) :
    ∃ (l : List Context) (k' : Kernel), s.countTrigger w.cx w.kernel w.l = s.alone { w with counted := true } k' l
      ∧ k' = { k with trigCount := k'.trigCount, triggered := k'.triggered }
      ∧ k'.trigCount = (if w.counted = true then k.trigCount else k.trigCount + 1)
      ∧ (k'.triggered = true ↔ k.triggered = true ∨ w.counted = false ∧ k.trigCount + 1 = k.total) := by
  have hwg : s.wg? w.cx w.kernel w.l = some w := by simp [State.wg?, hw]
  have hkernel : s.kernel? w.cx w.kernel = some k := by rw [← hcx, ← hid]; exact kernel?_single hk
  obtain ⟨counted, more, full⟩ := countTrigger_cases hwg hkernel
  cases hc : w.counted with
  | true =>
    refine ⟨s.ctxs, k, (counted hc).trans ?_, rfl, rfl, by simp⟩
    have same : ({ w with counted := true } : Workgroup) = w := by rw [← hc]
    rw [same, State.alone, ← hw, ← hk]
  | false =>
    by_cases hn : k.trigCount + 1 = k.total
    · have met := full hc hn
      rw [counting_alone hw hk hcx hid, meet_state, meet_running (k := k.counts (k.trigCount + 1) true) rfl hst] at met
      exact ⟨_, _, met, rfl, rfl, by simp [Kernel.counts, hn]⟩
    · exact ⟨s.ctxs, k.counts (k.trigCount + 1) false, (more hc hn).trans (counting_alone hw hk hcx hid _ _), rfl, rfl,
        by simp [Kernel.counts, hn]⟩

/-- A workgroup whose groups are gone exits, and its kernel may be DONE. -/
theorem takeExit_alone (hst : k.st = .running) (he : w.exited = false) (hg : s.wgGone w = true) :
    ∃ (l : List Context) (k' : Kernel), s.takeExit w
        = (s.alone { w with exited := true, counted := true } { k' with exits := k.exits + 1 } l).tryDone w.cx w.kernel
      ∧ k' = { k with trigCount := k'.trigCount, triggered := k'.triggered }
      ∧ k'.trigCount = (if w.counted = true then k.trigCount else k.trigCount + 1)
      ∧ (k'.triggered = true ↔ k.triggered = true ∨ w.counted = false ∧ k.trigCount + 1 = k.total) := by
  obtain ⟨l, k', count, record, rest⟩ := countTrigger_alone hw hk hcx hid hst
  refine ⟨l, k', ?_, record, rest⟩
  unfold State.takeExit
  rw [if_neg (by simp [he, hg]), count]
  have mine : k'.cx = w.cx ∧ k'.id = w.kernel ∧ k'.exits = k.exits := by
    rw [record]
    exact ⟨hcx, hid, rfl⟩
  obtain ⟨hcx', hid', hexits⟩ := mine
  simp [State.alone, State.updWg, State.updKernel, upd, if_pos (And.intro hcx' hid'), hexits]

end

/-- The only kernel is DONE: it leaves the record, and contexts alone change besides. -/
theorem kernelEnded_alone {s : State} {k : Kernel} {cx id : Nat} (hk : s.kernels = [k]) (hcx : k.cx = cx) (hid : k.id = id)
    (hby : k.launchedBy = none) : ∃ l, s.kernelEnded cx id true = { s with kernels := [], ctxs := l } := by
  subst hcx hid
  have gone : s.kernels.filter (fun j => !(j.cx == k.cx && j.id == k.id)) = [] := by simp [hk]
  unfold State.kernelEnded
  rw [kernel?_single hk]
  dsimp only
  rw [hby, gone]
  dsimp only
  rw [if_pos rfl, meet_state, meet_empty rfl]
  exact ⟨_, rfl⟩

/-- EXITED of the only workgroup of the only kernel, which runs (R98, R109, R117). -/
theorem exited_alone {s : State} {w : Workgroup} {k : Kernel} (hw : s.wgs = [w]) (hk : s.kernels = [k]) (hst : k.st = .running)
    (hby : k.launchedBy = none) (hcx : k.cx = w.cx) (hid : k.id = w.kernel) (he : w.exited = false) (hg : s.wgGone w = true) :
    (k.exits + 1 < k.total → ∃ t, exec (.exited 0) s = .next t ∧ SameMem s t ∧ t.wgs = [{ w with exited := true, counted := true }]
      ∧ ∃ k', t.kernels = [k'] ∧ k'.exits = k.exits + 1 ∧ k'.trigCount = (if w.counted = true then k.trigCount else k.trigCount + 1)
        ∧ k'.st = .running ∧ (k'.triggered = true ↔ k.triggered = true ∨ w.counted = false ∧ k.trigCount + 1 = k.total))
    ∧ (k.exits + 1 = k.total → (∀ c ∈ s.copies, c.cx ≠ w.cx) → ∃ t, exec (.exited 0) s = .next t ∧ SameMem s t ∧ t.wgs = []
      ∧ t.kernels = []) := by
  obtain ⟨l, k', take, record, count, trig⟩ := takeExit_alone hw hk hcx hid hst he hg
  have step : exec (.exited 0) s = .next (s.takeExit w) := by
    change execExited 0 s = _
    unfold execExited
    rw [hw]
    rfl
  rw [take] at step
  have found : (s.alone { w with exited := true, counted := true } { k' with exits := k.exits + 1 } l).kernel? w.cx w.kernel
      = some { k' with exits := k.exits + 1 } := by
    rw [record, ← hcx, ← hid]
    exact kernel?_single (k := { k with trigCount := k'.trigCount, triggered := k'.triggered, exits := k.exits + 1 }) rfl
  generalize hu : s.alone { w with exited := true, counted := true } { k' with exits := k.exits + 1 } l = u at step found
  have mem : SameMem s u := by subst hu; exact fun a => rfl
  unfold State.tryDone at step
  rw [found] at step
  dsimp only at step
  have fields : k'.st = .running ∧ k'.kd = k.kd ∧ k'.launchedBy = none := by
    rw [record]
    exact ⟨hst, rfl, hby⟩
  obtain ⟨hst', hkd, hby'⟩ := fields
  refine ⟨fun hn => ?_, fun hn hcopies => ?_⟩
  · rw [if_neg (by simp [hkd]; intro _ e; exact absurd e (Nat.ne_of_lt hn))] at step
    subst hu
    exact ⟨_, step, mem, rfl, _, rfl, rfl, count, hst', trig⟩
  · have issued : u.copies.any (fun c => c.kind != .p && c.cx == w.cx && c.kernel == w.kernel) = false := by
      subst hu
      exact List.any_eq_false.mpr fun c hc => by simp [hcopies c hc]
    have all : k.exits + 1 = k'.kd.wgx * k'.kd.wgy * k'.kd.wgz := by rw [hkd]; exact hn
    rw [if_pos (by simp [hst', all, issued])] at step
    have ids : k'.cx = w.cx ∧ k'.id = w.kernel := by
      rw [record]
      exact ⟨hcx, hid⟩
    subst hu
    obtain ⟨l', ended⟩ := kernelEnded_alone (s := { s.alone { w with exited := true, counted := true } { k' with exits := k.exits + 1 } l with
      wgs := [({ w with exited := true, counted := true } : Workgroup)].filter fun v => !(v.cx == w.cx && v.kernel == w.kernel) })
      rfl ids.1 ids.2 hby'
    refine ⟨_, step.trans (congrArg _ ended), mem, ?_, rfl⟩
    simp

/-! ## DSQ_LAUNCH (R97) -/

theorem dsqLaunch_idle {s : State} {cx : Nat} {c : Context} (h : s.ctx? cx = some c) (hi : c.dsq = [] ∨ c.st ≠ .run ∨ c.dsqPaused = true) :
    exec (.dsqLaunch cx) s = .next s := by
  change execDsqLaunch cx s = _
  unfold execDsqLaunch
  rw [h]
  dsimp only
  cases hd : c.dsq with
  | nil => rfl
  | cons e rest =>
    have stopped : c.st ≠ .run ∨ c.dsqPaused = true := hi.resolve_left (by simp [hd])
    exact congrArg _ (if_pos (by simpa using stopped))

/-- A record of a chain without a fault log goes to the host. -/
theorem writeRecord_unlogged {s : State} {cx : Nat} {chain : List Rcb} (h : ∀ r ∈ chain, r.fdlog = 0) (f : RecFields) :
    s.writeRecord cx chain f = s.emit (.faultLog cx f.type) := by
  have none : chain.find? (fun r => r.fdlog != 0) = none := List.find?_eq_none.mpr fun r hr => by simp [h r hr]
  unfold State.writeRecord
  rw [none]

section
variable {s : State} {cx : Nat} {c : Context} (h : s.ctx? cx = some c) {e : DsqEntry} {rest : List DsqEntry} (hd : c.dsq = e :: rest)
  (hr : ¬ (c.st ≠ .run ∨ c.dsqPaused = true))
include h hd hr

/-- An entry that is misaligned is dropped with its record. -/
theorem dsqLaunch_dropped (ha : e.arg % 64 ≠ 0) (hl : ∀ r ∈ s.rcbChain cx 8 e.rcb, r.fdlog = 0) (hp : policyOf (s.rcbChain cx 8 e.rcb) = 1) :
    ∃ t, exec (.dsqLaunch cx) s = .next t
      ∧ OnlyContext { s with hostEvents := s.hostEvents ++ [.faultLog cx 4] } t c { c with dsq := rest } := by
  refine ⟨(s.updCtx cx fun c => { c with dsq := rest }).emit (.faultLog cx 4), ?_,
    onlyContext_of_ctxs (cx := cx) (f := fun c => { c with dsq := rest }) (fun _ => rfl) h rfl rfl⟩
  change execDsqLaunch cx s = _
  unfold execDsqLaunch
  rw [h]
  dsimp only
  rw [hd]
  dsimp only
  rw [if_neg (by simpa using hr), if_pos ha, writeRecord_unlogged hl, hp]
  rfl

theorem dsqLaunch_aligned (ha : e.arg % 64 = 0) {s1 : State} {r : LaunchRes}
    (hk : s.recordKernel cx e.kd 0 e.arg (some e.rcb) false none = (s1, r)) (hb : r ≠ .badKd) :
    exec (.dsqLaunch cx) s = .next (if r = .recorded then s1.updCtx cx fun c => { c with dsq := rest } else s) := by
  change execDsqLaunch cx s = _
  unfold execDsqLaunch
  rw [h]
  dsimp only
  rw [hd]
  dsimp only
  rw [if_neg (by simpa using hr), if_neg (not_not.mpr ha), hk]
  cases r with
  | recorded => rfl
  | full => rfl
  | badKd => exact absurd rfl hb

theorem dsqLaunch_full (ha : e.arg % 64 = 0) (hl : 1024 ≤ s.liveKernels cx) : exec (.dsqLaunch cx) s = .next s := by
  refine dsqLaunch_aligned h hd hr ha (s1 := s) (r := .full) ?_ nofun
  unfold State.recordKernel
  rw [h]
  exact if_pos hl

/-- An entry is recorded and leaves the queue. -/
theorem dsqLaunch_recorded (ha : e.arg % 64 = 0) {s1 : State} {c1 : Context}
    (hk : s.recordKernel cx e.kd 0 e.arg (some e.rcb) false none = (s1, .recorded)) (h1 : s1.ctx? cx = some c1) :
    ∃ t, exec (.dsqLaunch cx) s = .next t ∧ OnlyContext s1 t c1 { c1 with dsq := rest } ∧ t.kernels.length = s.kernels.length + 1 := by
  obtain ⟨-, k, near, -⟩ := recordKernel_recorded hk
  refine ⟨_, dsqLaunch_aligned h hd hr ha hk nofun,
    onlyContext_of_ctxs (cx := cx) (f := fun c => { c with dsq := rest }) (fun _ => rfl) h1 rfl rfl, ?_⟩
  have length : s1.kernels.length = s.kernels.length + 1 := by rw [← near.length_eq]; simp
  exact length

end

/-! ## PLACE with one kernel (R105, R106, R117, R118) -/

/-- Nothing is due to be placed. -/
theorem place_idle {s : State} (him : s.images = [])
    (hk : ∀ k ∈ s.kernels, k.st = .recorded ∨ k.total ≤ k.nextL ∧ (k.st = .ready → k.coopBad = false)) :
    exec .place s = .next s := by
  have noFail : (s.kernels.find? fun k => k.st == .ready && k.coopBad) = none := by
    refine List.find?_eq_none.mpr fun k hmem => ?_
    rcases hk k hmem with e | ⟨-, e⟩
    · simp [e]
    · simp only [Bool.and_eq_true, beq_iff_eq, not_and]
      exact fun hst => by simp [e hst]
  have noKernel : (s.kernels.filter fun k => (k.st == .ready || k.st == .running) && decide (k.nextL < k.total) && s.running k.cx) = [] := by
    refine List.filter_eq_nil_iff.mpr fun k hmem => ?_
    rcases hk k hmem with e | ⟨e, -⟩
    · simp [e]
    · simp [Nat.not_lt.mpr e]
  change execPlace s = _
  unfold execPlace State.restoreItems State.placeItems
  rw [noFail, him, noKernel]
  rfl

end Sys2Proof.Machine
end

section
/-! PROOFS. The placement of a workgroup of the only kernel (spec/06_kernel.md R105, R117, R118), and the dispatcher. -/

namespace Sys2Proof.Machine

/-! ## Group contexts are taken in order (R117) -/

/-- The lowest free group context. -/
theorem freeGctx_eq {s : State} {core n : Nat} (hn : n < 32) (below : ∀ j, j < n → s.group? { core := core, gctx := j } ≠ none)
    (here : s.group? { core := core, gctx := n } = none) : s.freeGctx core = some n := by
  have used (j : Nat) : s.groups.any (fun g => g.ref == { core := core, gctx := j }) = (s.group? { core := core, gctx := j }).isSome := by
    rw [State.group?, List.isSome_find?]
  unfold State.freeGctx lowestFree
  rw [List.find?_range_eq_some]
  simp only [used]
  refine ⟨by rw [here]; rfl, List.mem_range.mpr hn, fun j hj => ?_⟩
  rw [Bool.not_not]
  exact Option.isSome_iff_ne_none.mpr (below j hj)

theorem addGroup_eq {s : State} {core n : Nat} (h : s.freeGctx core = some n) (mk : GRef → Group) :
    s.addGroup core mk = { s with groups := s.groups ++ [{ mk { core := core, gctx := n } with uid := s.nextId }], nextId := s.nextId + 1 } := by
  unfold State.addGroup
  rw [h]

/-- n groups on a core, the i-th of which mk makes. -/
def State.addGroups (s : State) (core : Nat) (mk : State → Nat → GRef → Group) (n : Nat) : State :=
  (List.range n).foldl (fun s i => s.addGroup core (mk s i)) s

/-- On a core without groups the i-th group takes group context i; nothing but groups and identifiers changes. -/
theorem addGroups_spec {s : State} {core : Nat} (hs : ∀ g ∈ s.groups, g.ref.core ≠ core) {mk : State → Nat → GRef → Group}
    (hmk : ∀ u i r, (mk u i r).ref = r) {n : Nat} (hn : n ≤ 32) :
    s.addGroups core mk n = { s with groups := (s.addGroups core mk n).groups, nextId := (s.addGroups core mk n).nextId }
    ∧ (∀ g ∈ s.groups, g ∈ (s.addGroups core mk n).groups)
    ∧ (∀ j, n ≤ j → (s.addGroups core mk n).group? { core := core, gctx := j } = none)
    ∧ ∀ j, j < n → ∃ u id, (s.addGroups core mk n).group? { core := core, gctx := j }
      = some { mk u j { core := core, gctx := j } with uid := id } := by
  induction n with
  | zero =>
    refine ⟨rfl, fun g hg => hg, fun j _ => List.find?_eq_none.mpr fun g hg e => hs g hg ?_, fun j hj => absurd hj (Nat.not_lt_zero j)⟩
    rw [beq_iff_eq.mp e]
  | succ n ih =>
    obtain ⟨frame, kept, free, taken⟩ := ih (by omega)
    have step : s.addGroups core mk (n + 1) = (s.addGroups core mk n).addGroup core (mk (s.addGroups core mk n) n) := by
      unfold State.addGroups
      rw [List.range_succ, List.foldl_append]
      rfl
    generalize s.addGroups core mk n = t at frame kept free taken step
    have next : t.freeGctx core = some n := freeGctx_eq (by omega) (fun j hj => by
      obtain ⟨u, id, e⟩ := taken j hj
      rw [e]
      simp) (free n (Nat.le_refl n))
    rw [step, addGroup_eq next]
    have found (r : GRef) : State.group? { t with
        groups := t.groups ++ [{ mk t n { core := core, gctx := n } with uid := t.nextId }], nextId := t.nextId + 1 } r
        = (t.group? r).or (if r = { core := core, gctx := n } then some { mk t n { core := core, gctx := n } with uid := t.nextId } else none) := by
      unfold State.group?
      rw [List.find?_append, List.find?_singleton]
      refine congrArg _ (if_congr ?_ rfl rfl)
      rw [hmk, beq_iff_eq, eq_comm]
    refine ⟨by rw [frame], fun g hg => List.mem_append_left _ (kept g hg), fun j hj => ?_, fun j hj => ?_⟩
    · rw [found, free j (by omega), if_neg (by simp; omega)]
      rfl
    · rw [found]
      by_cases hjn : j < n
      · obtain ⟨u, id, e⟩ := taken j hjn
        exact ⟨u, id, by rw [e]; rfl⟩
      · obtain rfl : j = n := by omega
        exact ⟨t, t.nextId, by rw [free j (Nat.le_refl j), if_pos rfl]; rfl⟩

/-! ## One workgroup is placed (R105, R118) -/

/-- The group of index j of workgroup l at its start. -/
def startOf (k : Kernel) (l : Nat) (s : State) (j : Nat) (r : GRef) : Group :=
  startGroup k r l (l % 2 ^ k.kd.clog) j (prioOf (s.rcbChain k.cx 8 k.rcb)) s.cycle

/-- A new workgroup of kernel k on core c. -/
structure Workgroup.Starts (w : Workgroup) (k : Kernel) (l c : Nat) : Prop where
  cx : w.cx = k.cx
  kernel : w.kernel = k.id
  l : w.l = l
  core : w.core = c
  scratch : w.scratchBytes = k.kd.scratch
  l1kib : w.l1kib = k.kd.l1kib
  exited : w.exited = false

/-- Its workgroup stands on the core before its groups take their contexts. -/
theorem placeWg_eq (s : State) (k : Kernel) (n : Need) (l c : Nat) :
    ∃ w cores free, Workgroup.Starts w k l c
      ∧ s.placeWg k n l c
        = ({ s with wgs := s.wgs ++ [w], cores := cores, freeCount := free } : State).addGroups c (startOf k l) k.kd.groups := by
  unfold State.placeWg State.addGroups
  extract_lets size own w took s1 s2 s3
  have acquired : s2 = { s1 with cores := s2.cores } := by
    unfold s2
    clear_value s1
    split
    · exact acquire_state s1 c .pod
    · rfl
  have behind : s3 = { s with wgs := s.wgs ++ [w], cores := s2.cores, freeCount := s1.freeCount } := by
    unfold s3
    rw [acquired]
    rfl
  exact ⟨w, s2.cores, s1.freeCount, ⟨rfl, rfl, rfl, rfl, rfl, rfl, rfl⟩, by rw [behind]; rfl⟩

/-- A group at its start (R118). -/
structure Group.Starts (h : Group) (k : Kernel) (l j : Nat) : Prop where
  status : h.status = .live
  cx : h.cx = k.cx
  kernel : h.kernel = k.id
  wg : h.wg = l
  gidx : h.gidx = j
  allot : h.allot = 32 * k.kd.allot
  priv : h.priv = k.kd.super
  argptr : h.argptr = k.kd.argptr
  workgroup : h.getS 16 = BitVec.ofNat 32 l
  index : h.getS 17 = BitVec.ofNat 32 j
  rank : h.getS 18 = BitVec.ofNat 32 (l % 2 ^ k.kd.clog)
  splits : h.splits.map (fun p => (p.id, p.pc, p.exec, p.lset)) = [(0, k.kd.entry, BitVec.allOnes 32, BitVec.allOnes 32)]

theorem startOf_starts (k : Kernel) (l : Nat) (s : State) (j : Nat) (r : GRef) (id : Nat) :
    Group.Starts { startOf k l s j r with uid := id } k l j := by
  have uniform (x : Nat) : ({ startOf k l s j r with uid := id } : Group).getS x = (startOf k l s j r).getS x := rfl
  refine ⟨rfl, rfl, rfl, rfl, rfl, rfl, rfl, rfl, ?_, ?_, ?_, rfl⟩ <;> rw [uniform, startOf, startGroup] <;> simp

/-- A placement on a core without groups. -/
theorem placeWg_spec {s : State} {k : Kernel} {c : Nat} (hs : ∀ g ∈ s.groups, g.ref.core ≠ c) (hn : k.kd.groups ≤ 32) (n : Need) (l : Nat) :
    ∃ w cores free groups id, Workgroup.Starts w k l c
      ∧ s.placeWg k n l c = { s with wgs := s.wgs ++ [w], cores := cores, freeCount := free, groups := groups, nextId := id }
      ∧ (∀ g ∈ s.groups, g ∈ groups)
      ∧ ∀ j, j < k.kd.groups → ∃ h, groups.find? (fun g => g.ref == { core := c, gctx := j }) = some h ∧ Group.Starts h k l j := by
  obtain ⟨w, cores, free, starts, eq⟩ := placeWg_eq s k n l c
  obtain ⟨frame, kept, -, taken⟩ := addGroups_spec (s := { s with wgs := s.wgs ++ [w], cores := cores, freeCount := free }) hs
    (mk := startOf k l) (fun _ _ _ => rfl) hn
  refine ⟨w, cores, free, _, _, starts, eq.trans frame, kept, fun j hj => ?_⟩
  obtain ⟨u, id, found⟩ := taken j hj
  exact ⟨_, found, startOf_starts k l u j _ id⟩

/-! ## PLACE with one kernel (R105, R106) -/

/-- The sector that has placed does not place again in this cycle. -/
theorem openClusters_notePlaced (s : State) (sec : Nat) {t : State} (hp : t.placeFree = (s.notePlaced sec).placeFree)
    (hc : t.cycle = s.cycle) (cx : Nat) : ∀ cl ∈ t.openClusters cx, clusterSector cl ≠ sec := by
  intro cl hcl e
  have open_ := (List.mem_filter.mp hcl).2
  rw [hp, hc, Bool.not_eq_true', List.any_eq_false] at open_
  unfold State.notePlaced at open_
  extract_lets from_ at open_
  have noted := find?_putFirst (p := fun e : Nat × Nat => e.1 == sec) (x := (sec, from_)) (beq_self_eq_true sec) s.placeFree
  have later : s.cycle < from_ := by unfold from_; omega
  exact open_ _ (List.mem_of_find?_eq_some noted) (by simp [e, later])

section
variable {s : State} {k : Kernel}

/-- The only kernel is the only thing to place. -/
theorem placeItems_single (him : s.images = []) (hk : s.kernels = [k]) (hp : s.placeable k = true) :
    s.restoreItems ++ (s.placeItems.filter fun i => !s.itemBlocked i) = [.kernel k] := by
  unfold State.placeable at hp
  simp only [Bool.and_eq_true] at hp
  obtain ⟨⟨⟨hst, hl⟩, hrun⟩, hparked⟩ := hp
  have free : s.itemBlocked (.kernel k) = false := by
    unfold State.itemBlocked
    rw [hk, him]
    simp [PlaceItem.cx, PlaceItem.kid]
  have items : s.placeItems = [.kernel k] := by
    unfold State.placeItems
    rw [hk, him]
    simp only [List.filter_nil, List.map_nil, List.nil_append, List.filter_cons, hst, hl, hrun, Bool.and_self, if_true, List.map_cons, hparked]
    rfl
  rw [items, State.restoreItems, him]
  simp [free]

/-- The kernel that has placed a workgroup. -/
def Kernel.placed (k : Kernel) (s : State) : Kernel :=
  { k with st := .running, nextL := k.nextL + 1, waitingSince := s.cycle, blocking := false }

/-- The only kernel takes the one core that has room. -/
theorem place_single (him : s.images = []) (hk : s.kernels = [k]) (hcoop : k.kd.coop = false) (hp : s.placeable k = true)
    (hbad : k.coopBad = false) {c : Nat} (hc : s.coresFor k (s.openClusters k.cx) = some [c]) (hw : s.splitWaits k.need c = false) :
    exec .place s = .next (((s.placeWg k k.need k.nextL c).notePlaced (coreSector c)).updKernel k.cx k.id fun j => j.placed s) := by
  have noFail : (s.kernels.find? fun k => k.st == .ready && k.coopBad) = none := by simp [hk, hbad]
  have next : s.placeNext k (s.openClusters k.cx)
      = .done (((s.placeWg k k.need k.nextL c).notePlaced (coreSector c)).updKernel k.cx k.id fun j => j.placed s) := by
    unfold State.placeNext
    rw [hc]
    exact if_neg (by simp [hw])
  have item : s.placeItem (.kernel k) = s.placeNext k (s.openClusters k.cx) := if_pos (by simp [hcoop])
  change execPlace s = _
  unfold execPlace
  rw [noFail]
  dsimp only
  rw [placeItems_single him hk hp]
  unfold State.placeFirst
  rw [item, next]

/-- What the placement leaves. -/
theorem place_single_spec (him : s.images = []) (hk : s.kernels = [k]) (hcoop : k.kd.coop = false) (hp : s.placeable k = true)
    (hbad : k.coopBad = false) {c : Nat} (hc : s.coresFor k (s.openClusters k.cx) = some [c]) (hw : s.splitWaits k.need c = false)
    (hn : k.kd.groups ≤ 32) (hg : ∀ g ∈ s.groups, g.ref.core ≠ c) :
    ∃ t w, exec .place s = .next t ∧ SameMem s t ∧ t.wgs = s.wgs ++ [w] ∧ Workgroup.Starts w k k.nextL c
      ∧ (∀ cl ∈ t.openClusters k.cx, clusterSector cl ≠ c / 128) ∧ t.kernels = [k.placed s] ∧ (∀ g ∈ s.groups, g ∈ t.groups)
      ∧ ∀ j, j < k.kd.groups → ∃ h, t.group? { core := c, gctx := j } = some h ∧ Group.Starts h k k.nextL j := by
  have step := place_single him hk hcoop hp hbad hc hw
  obtain ⟨w, cores, free, groups, id, starts, eq, kept, taken⟩ := placeWg_spec hg hn k.need k.nextL
  rw [eq] at step
  refine ⟨_, w, step, fun a => rfl, rfl, starts, openClusters_notePlaced _ (coreSector c) rfl rfl k.cx, ?_, kept, taken⟩
  exact congrArg State.kernels (updKernel_single (k := k) (by exact hk) _)

end

/-- Settles O45: each step of the dispatcher is its one transition on kernels, workgroups and the queue that it names. -/
theorem dispatcherSteps : Obligations.DispatcherSteps := by
  unfold Obligations.DispatcherSteps
  refine ⟨gtimeDue_steps, fun s k c him hk hcoop hst hl hrun hrcb hbad hlog hn hc hw hg => ?_, fun s => place_idle, fun s k hk => ?_,
    fun s i w hw he => ?_, fun s w k hw hk hst hby hcx hid he hg _ => ?_, fun s cx c h => ⟨dsqLaunch_idle h, fun e rest hd hr =>
      ⟨dsqLaunch_dropped h hd hr, dsqLaunch_full h hd hr, fun ha s1 c1 => dsqLaunch_recorded h hd hr ha⟩⟩⟩
  · obtain ⟨t, w, step, mem, wgs, starts, closed, kernels, kept, taken⟩ :=
      place_single_spec him hk hcoop ((placeable_iff s k).mpr ⟨hst, hl, hrun, hrcb⟩) hbad hc hw hn hg
    refine ⟨t, w, step, mem, wgs, starts.cx, starts.kernel, starts.l, starts.core, starts.scratch, starts.l1kib, starts.exited, closed, kernels,
      kept, fun j hj => ?_⟩
    obtain ⟨h, found, hs⟩ := taken j hj
    have rank : h.getS 18 = 0 := hs.rank.trans (by rw [hlog, Nat.pow_zero, Nat.mod_one]; rfl)
    exact ⟨h, found, hs.status, hs.cx, hs.kernel, hs.wg, hs.gidx, hs.allot, hs.priv, hs.argptr, hs.workgroup, hs.index, rank, hs.splits⟩
  · have waits := placementWait_cases hk
    rw [lacksRoom_iff, placeable_iff] at waits
    simpa only [and_assoc] using waits
  · change execExited i s = _
    unfold execExited
    rw [hw]
    refine congrArg _ (if_pos ?_)
    rcases he with e | e <;> simp [e]
  · obtain ⟨more, last⟩ := exited_alone hw hk hst hby hcx hid he hg
    refine ⟨fun hn => ?_, last⟩
    obtain ⟨t, step, mem, wgs, k', kernels, exits, count, running, trig⟩ := more hn
    refine ⟨t, step, mem, wgs, k', kernels, exits, count, running, trig.trans (or_congr_right (and_congr_right fun hc => ?_))⟩
    rw [if_neg (by simp [hc])]

end Sys2Proof.Machine
end

section
/-! PROOFS. What a release and a commit leave of the group that commits (spec/02_core.md R33; spec/06_kernel.md R117; spec/11_line.md
R198). -/

namespace Sys2Proof.Machine

theorem released_done {s : State} {g : Group} {p : Split} {sc : Scope} (h : Released s g p sc) (k : State) :
    released s g p sc k = k := by
  unfold released
  split
  · rfl
  next hs =>
    have wide : wideScope sc = true := by simpa using hs
    split
    next hw => exact if_pos (h wide _ _ _ _ (.inl hw))
    next hw =>
      split
      next hm => exact if_pos (h wide _ _ _ _ (.inr ⟨hw, hm⟩))
      · rfl

/-! ## Commits -/

/-- A group that split id of group r reserved becomes LIVE (R117). -/
def Group.starts (r : GRef) (id : Nat) (h : Group) : Group :=
  if h.status == .reserved && h.spawner == some (r, id) then { h with status := .live, spawner := none } else h

theorem Group.starts_record (r : GRef) (id : Nat) (h : Group) :
    h.starts r id = { h with status := (h.starts r id).status, spawner := (h.starts r id).spawner } := by
  unfold starts
  split <;> rfl

theorem Group.starts_ref (r : GRef) (id : Nat) (h : Group) : (h.starts r id).ref = h.ref := by rw [starts_record]

/-- The split q, whose region has ended at a cycle (R33, R156). -/
def Split.committed (now : Nat) (q : Split) : Split :=
  { q with ended := true, commits := q.commits + 1, progress := now,
           clause := q.clause.map fun c => { c with committed := true },
           region := q.region.map fun rc => { rc with recvs := [], recvCount := 0, recvHeld := [] } }

/-- The group g, whose split p has committed. -/
def Group.commits (now : Nat) (p : Split) (g : Group) : Group := (g.starts g.ref p.id).updSplit p.id (Split.committed now)

theorem Group.commits_record (now : Nat) (p : Split) (g : Group) :
    g.commits now p = { g with status := (g.commits now p).status, spawner := (g.commits now p).spawner, splits := (g.commits now p).splits } := by
  unfold commits
  rw [starts_record]
  rfl

theorem Group.commits_ref (now : Nat) (p : Split) (g : Group) : (g.commits now p).ref = g.ref := by rw [commits_record]

theorem Group.commits_splits (now : Nat) (p : Split) (g : Group) :
    (g.commits now p).splits = upd (fun q => q.id == p.id) (Split.committed now) g.splits := by
  unfold commits
  rw [starts_record]
  rfl

theorem Group.commits_split? {now : Nat} {g : Group} {p : Split} (h : g.split? p.id = some p) :
    (g.commits now p).split? p.id = some (p.committed now) := by
  rw [Group.split?, Group.commits_splits]
  exact split?_updSplit_same (Split.committed now) (fun _ _ => rfl) h

theorem Group.commits_split?_other {now n : Nat} (g : Group) {p : Split} (hn : n ≠ p.id) :
    (g.commits now p).split? n = g.split? n := by
  rw [Group.split?, Group.commits_splits]
  exact split?_updSplit_other g hn (Split.committed now) fun _ _ => rfl

theorem commit_group? (s : State) (g : Group) (p : Split) (r : GRef) :
    (s.commit g p).group? r
      = (s.group? r).map fun h => if h.ref == g.ref then (h.starts g.ref p.id).updSplit p.id (Split.committed s.cycle) else h.starts g.ref p.id := by
  have starts : (s.startSpawned g p).group? r = (s.group? r).map (Group.starts g.ref p.id) := by
    change (s.groups.map (Group.starts g.ref p.id)).find? _ = _
    rw [List.find?_map]
    congr 2
    funext x
    rw [Function.comp_apply, Group.starts_ref]
  change ((s.startSpawned g p).updSplit g.ref p.id (Split.committed s.cycle)).group? r = _
  rw [State.updSplit, group?_updGroup _ _ _ (fun x => x.updSplit p.id (Split.committed s.cycle)) fun _ _ => rfl, starts, Option.map_map]
  congr 1
  funext h
  rw [Function.comp_apply, Group.starts_ref]

theorem commit_group?_same {u : State} {g g' : Group} (p : Split) (hr : g'.ref = g.ref) (hu : u.group? g.ref = some g') :
    (u.commit g p).group? g.ref = some (g'.commits u.cycle p) := by
  rw [commit_group?, hu, Option.map_some, hr, Group.commits, hr, if_pos (beq_self_eq_true _)]

theorem commit_group?_other (s : State) (g : Group) (p : Split) {r : GRef} (hr : r ≠ g.ref) :
    (s.commit g p).group? r = (s.group? r).map (Group.starts g.ref p.id) := by
  rw [commit_group?]
  cases h : s.group? r with
  | none => rfl
  | some x => simp [group?_ref h, hr]

theorem updCtx_dsq (s : State) (x cx : Nat) {f : Context → Context} (hid : ∀ c, (f c).cxid = c.cxid) (hq : ∀ c, (f c).dsq = c.dsq) :
    ((s.updCtx x f).ctx? cx).map (·.dsq) = (s.ctx? cx).map (·.dsq) := by
  rw [State.ctx?, State.updCtx, find?_upd _ _ _ _ fun c _ => by rw [hid], Option.map_map]
  congr 1
  funext c
  by_cases hc : c.cxid = x <;> simp [hc, hq]

/-- A commit leaves the device-side queues. -/
theorem commit_dsq (s : State) (g : Group) (p : Split) (cx : Nat) :
    ((s.commit g p).ctx? cx).map (·.dsq) = (s.ctx? cx).map (·.dsq) :=
  updCtx_dsq _ g.cx cx (fun _ => rfl) fun _ => rfl

/-! ## Instructions that commit and move on -/

theorem done_group?_other (s : State) (g : Group) (p : Split) (i : Instr) {r : GRef} (hr : r ≠ g.ref) :
    (s.done g p i).group? r = s.group? r :=
  group?_updGroup_other s hr _ fun _ _ => rfl

/-- From s to u the issuing group has changed by F, which leaves all but S registers and records that no register shows. -/
structure Prepared (s u : State) (g : Group) (F : Group → Group) (S : Nat → Option Word) : Prop where
  groups : u.groups = (s.updGroup g.ref F).groups
  memory : u.mem = s.mem
  ref : ∀ x, (F x).ref = x.ref
  v : (F g).v = g.v
  m : (F g).m = g.m
  flags : (F g).fpflags = g.fpflags
  splits : (F g).splits = g.splits
  s : ∀ r, (F g).getS r = (S r).getD (g.getS r)

theorem Prepared.commit_done {s u : State} {g : Group} {p : Split} {F : Group → Group} {S : Nat → Option Word}
    (hp : Prepared s u g F S) (h : Issues s g p) (i : Instr) :
    let t := (u.commit g p).done g p i
    GoesOn s t g p i S ∧ SameMem s t ∧ Committed t g p := by
  have own : u.group? g.ref = some (F g) := by
    rw [State.group?, hp.groups]
    exact group?_updGroup_same F (fun x _ => hp.ref x) h.group'
  have behind : ((u.commit g p).done g p i).group? g.ref = some (((F g).commits u.cycle p).updSplit p.id fun q => q.past i.words) :=
    group?_updGroup_same _ (fun _ _ => rfl) (commit_group?_same p (hp.ref g) own)
  have split : (F g).split? p.id = some p := by
    rw [Group.split?, hp.splits]
    exact h.split'
  have moved := split?_updSplit_same (fun q : Split => q.past i.words) (fun _ _ => rfl) (Group.commits_split? (now := u.cycle) split)
  have record := (F g).commits_record u.cycle p
  refine ⟨⟨_, _, behind, ?_, ?_, ?_, fun r => ?_, moved, rfl, rfl, rfl, rfl, fun r hr => ?_⟩, fun a => ?_, _, _, behind, moved, rfl, rfl⟩
  · exact (congrArg Group.v record).trans hp.v
  · exact (congrArg Group.m record).trans hp.m
  · exact (congrArg Group.fpflags record).trans hp.flags
  · exact (congrArg (Group.getS · r) record).trans (hp.s r)
  · have other : u.group? r = s.group? r := by
      rw [State.group?, hp.groups]
      exact group?_updGroup_other s hr F fun x _ => hp.ref x
    rw [done_group?_other _ g p i hr, commit_group?_other u g p hr, other, Option.map_map]
    congr 1
    funext x
    rw [Function.comp_apply, Group.starts_record]
  · exact congrArg (sget 0 · a) hp.memory

/-! ## TRIGGER (R110) -/

theorem exec_trigger {s : State} {g : Group} {p : Split} (h : Issues s g p) (hu : s.unchecked g p = false) (hr : Released s g p .pod) :
    exec .trigger s = .next (((s.countTrigger g.cx g.kernel g.wg).commit g p).done g p .trigger) := by
  change execTrigger s = _
  rw [execTrigger, issue_next _ h (Readable.empty s g), gated_checked hu, released_done hr]

/-- A change outside the groups and the memory. -/
theorem Prepared.elsewhere {s u : State} (g : Group) (hg : u.groups = s.groups) (hm : u.mem = s.mem) :
    Prepared s u g id (fun _ => none) :=
  ⟨hg.trans (by simp [State.updGroup, upd]), hm, fun _ => rfl, rfl, rfl, rfl, rfl, fun _ => rfl⟩

theorem kernel?_mine {s : State} {cx id : Nat} {k : Kernel} (h : s.kernel? cx id = some k) : k.cx = cx ∧ k.id = id := by
  simpa using List.find?_some h

theorem kernel?_updKernel {s : State} {cx id : Nat} {k : Kernel} (f : Kernel → Kernel) (hf : ∀ k, (f k).cx = k.cx ∧ (f k).id = k.id)
    (h : s.kernel? cx id = some k) : (s.updKernel cx id f).kernel? cx id = some (f k) := by
  obtain ⟨hcx, hid⟩ := kernel?_mine h
  rw [State.kernel?] at h
  rw [State.kernel?, State.updKernel, find?_upd _ _ _ _ fun k _ => by rw [(hf k).1, (hf k).2], h]
  simp [hcx, hid]

theorem wg?_updWg {s : State} {cx kernel l : Nat} {w : Workgroup} (f : Workgroup → Workgroup)
    (hf : ∀ w, (f w).cx = w.cx ∧ (f w).kernel = w.kernel ∧ (f w).l = w.l) (h : s.wg? cx kernel l = some w) :
    (s.updWg cx kernel l f).wg? cx kernel l = some (f w) := by
  have mine : w.cx = cx ∧ w.kernel = kernel ∧ w.l = l := by simpa [and_assoc] using List.find?_some h
  obtain ⟨hcx, hk, hl⟩ := mine
  rw [State.wg?] at h
  rw [State.wg?, State.updWg, find?_upd _ _ _ _ fun w _ => by rw [(hf w).1, (hf w).2.1, (hf w).2.2], h]
  simp [hcx, hk, hl]

theorem counting_kernel? {s : State} {cx kernel : Nat} {k : Kernel} (l n : Nat) (full : Bool) (hk : s.kernel? cx kernel = some k) :
    (s.counting cx kernel l n full).kernel? cx kernel = some (k.counts n full) :=
  kernel?_updKernel (s := s.updWg cx kernel l fun w => { w with counted := true }) _ (fun _ => ⟨rfl, rfl⟩) hk

theorem counting_wg? {s : State} {cx kernel l : Nat} {w : Workgroup} (n : Nat) (full : Bool) (hw : s.wg? cx kernel l = some w) :
    (s.counting cx kernel l n full).wg? cx kernel l = some { w with counted := true } :=
  wg?_updWg _ (fun _ => ⟨rfl, rfl, rfl⟩) hw

/-- A kernel that draws nearer is found where it was. -/
theorem KernelsNear.kernel? {s t : State} (h : KernelsNear s.kernels t.kernels) {cx id : Nat} {k : Kernel}
    (hk : s.kernel? cx id = some k) : ∃ k' : Kernel, t.kernel? cx id = some k' ∧ k.Nears k' := by
  rw [State.kernel?] at hk
  unfold State.kernel?
  generalize s.kernels = l at h hk
  generalize t.kernels = l' at h
  induction h with
  | nil => cases hk
  | @cons a b l l' hab _ ih =>
    have same : (b.cx == cx && b.id == id) = (a.cx == cx && a.id == id) := by rw [hab.record]
    rw [List.find?_cons] at hk ⊢
    rw [same]
    split at hk
    · exact ⟨b, rfl, Option.some.inj hk ▸ hab⟩
    · exact ih hk

theorem commit_done_kernel? (s : State) (g : Group) (p : Split) (i : Instr) (cx id : Nat) :
    ((s.commit g p).done g p i).kernel? cx id = s.kernel? cx id := rfl

theorem commit_done_wgOf (s : State) (g : Group) (p : Split) (i : Instr) (x : Group) :
    ((s.commit g p).done g p i).wgOf x = s.wgOf x := rfl

/-- TRIGGER counts its workgroup once. -/
theorem trigger_counts {s : State} {g : Group} {p : Split} {w : Workgroup} {k : Kernel} (h : Issues s g p) (hu : s.unchecked g p = false)
    (hr : Released s g p .pod) (hw : s.wgOf g = some w) (hk : s.kernel? g.cx g.kernel = some k) :
    let n := k.trigCount + 1
    (w.counted = true → WordResult s g p .trigger (fun _ => none) fun t => Committed t g p ∧ t.kernel? g.cx g.kernel = some k)
    ∧ (w.counted = false → n ≠ k.total → WordResult s g p .trigger (fun _ => none) fun t => Committed t g p
      ∧ t.kernel? g.cx g.kernel = some { k with trigCount := n } ∧ t.wgOf g = some { w with counted := true })
    ∧ (w.counted = false → n = k.total → WordResult s g p .trigger (fun _ => none) fun t => Committed t g p
      ∧ (t.kernel? g.cx g.kernel).map (fun j => (j.trigCount, j.triggered)) = some (n, true)) := by
  obtain ⟨twice, count, full⟩ := countTrigger_cases hw hk
  -- what a count changes lies outside the groups and the memory
  have result : ∀ u, s.countTrigger g.cx g.kernel g.wg = u → u.groups = s.groups → u.mem = s.mem → ∀ x : State → Prop,
      x ((u.commit g p).done g p .trigger) → WordResult s g p .trigger (fun _ => none) fun t => Committed t g p ∧ x t := by
    intro u hcount hg hm x hx
    obtain ⟨goes, mem, committed⟩ := (Prepared.elsewhere g hg hm).commit_done h .trigger
    exact ⟨_, (exec_trigger h hu hr).trans (by rw [hcount]), goes, mem, committed, hx⟩
  refine ⟨fun hc => ?_, fun hc hn => ?_, fun hc hn => ?_⟩
  · exact result s (twice hc) rfl rfl (fun t => t.kernel? g.cx g.kernel = some k)
      ((commit_done_kernel? ..).trans hk)
  · refine result _ (count hc hn) rfl rfl 
      (fun t => t.kernel? g.cx g.kernel = some { k with trigCount := k.trigCount + 1 } ∧ t.wgOf g = some { w with counted := true }) ?_
    rw [commit_done_kernel?, commit_done_wgOf]
    refine ⟨?_, counting_wg? _ _ hw⟩
    exact (counting_kernel? g.wg _ false hk).trans (by rw [Kernel.counts, Bool.or_false])
  · refine result _ (full hc hn) ?_ ?_ 
      (fun t => (t.kernel? g.cx g.kernel).map (fun j => (j.trigCount, j.triggered)) = some (k.trigCount + 1, true)) ?_
    · rw [meet_state]
      rfl
    · rw [meet_state]
      rfl
    · obtain ⟨k', found, near⟩ := (QueuesStand.meet _ g.cx fun d => d == .ktrig g.kernel).kernels.kernel?
        (counting_kernel? g.wg (k.trigCount + 1) true hk)
      rw [commit_done_kernel?, found, Option.map_some, near.record, Kernel.counts, Bool.or_true]

/-! ## ENQ (R111) -/

/-- The launch that ENQ appends. -/
def dsqEntry (s : State) (g : Group) (p : Split) (a b : BitVec 5) : DsqEntry :=
  { kd := (g.getSPair a.toNat).toNat, arg := (g.getSPair b.toNat).toNat,
    rcb := ((s.kernel? g.cx g.kernel).map (·.rcb)).getD 0, site := siteOf g p }

/-- The state with launch e appended to the device-side queue of a context. -/
def State.enqueued (s : State) (cx : Nat) (e : DsqEntry) : State := s.updCtx cx fun c => { c with dsq := c.dsq ++ [e] }

theorem enqueued_ctx? {s : State} {cx : Nat} {c : Context} (e : DsqEntry) (h : s.ctx? cx = some c) :
    (s.enqueued cx e).ctx? cx = some { c with dsq := c.dsq ++ [e] } :=
  ctx?_updCtx (fun c => { c with dsq := c.dsq ++ [e] }) (fun _ => rfl) h

theorem exec_enq {s : State} {g : Group} {p : Split} {c : Context} (d : BitVec 6) (a b : BitVec 5) (h : Issues s g p)
    (hu : s.unchecked g p = false) (hr : Released s g p .pod)
    (hd : Readable s g { s := d.toNat :: pairRegs a.toNat ++ pairRegs b.toNat }) (hc : s.ctx? g.cx = some c) :
    let full := decide (c.dsq.length ≥ 256)
    let u := if full then s else s.enqueued g.cx (dsqEntry s g p a b)
    exec (.enq d a b) s
      = .next (((u.updGroup g.ref fun h => h.setS d.toNat (if full then 1 else 0)).commit g p).done g p (.enq d a b)) := by
  change execEnq d a b s = _
  unfold execEnq
  dsimp only
  have reads : Readable s g (useS (d.toNat :: pairRegs a.toNat ++ pairRegs b.toNat)) := hd
  rw [issue_next _ h reads, gated_checked hu, released_done hr, hc]
  rfl

/-- A change outside the groups and the memory, then of one S register. -/
theorem Prepared.setS {s u : State} (g : Group) (hg : u.groups = s.groups) (hm : u.mem = s.mem) (d : Nat) (x : Word) :
    Prepared s (u.updGroup g.ref fun h => h.setS d x) g (fun h => h.setS d x) (oneS d x) := by
  refine ⟨congrArg (upd _ _) hg, hm, fun _ => rfl, rfl, rfl, rfl, rfl, fun r => ?_⟩
  rw [getS_setS, oneS]
  split <;> rfl

/-- ENQ reports OK or QFULL. -/
theorem enq_reports {s : State} {g : Group} {p : Split} {c : Context} (d : BitVec 6) (a b : BitVec 5) (h : Issues s g p)
    (hu : s.unchecked g p = false) (hr : Released s g p .pod)
    (hd : Readable s g { s := d.toNat :: pairRegs a.toNat ++ pairRegs b.toNat }) (hc : s.ctx? g.cx = some c) :
    (256 ≤ c.dsq.length → WordResult s g p (.enq d a b) (oneS d.toNat 1) fun t => Committed t g p
      ∧ (t.ctx? g.cx).map (·.dsq) = some c.dsq)
    ∧ (c.dsq.length < 256 → WordResult s g p (.enq d a b) (oneS d.toNat 0) fun t => Committed t g p
      ∧ ∃ e, (t.ctx? g.cx).map (·.dsq) = some (c.dsq ++ [e]) ∧ e.kd = (g.getSPair a.toNat).toNat ∧ e.arg = (g.getSPair b.toNat).toNat) := by
  have step := exec_enq d a b h hu hr hd hc
  dsimp only at step
  refine ⟨fun hn => ?_, fun hn => ?_⟩
  · rw [if_pos (decide_eq_true hn), if_pos (decide_eq_true hn)] at step
    obtain ⟨goes, mem, committed⟩ := (Prepared.setS (u := s) g rfl rfl d.toNat 1).commit_done h (.enq d a b)
    refine ⟨_, step, goes, mem, committed, (commit_dsq _ g p g.cx).trans ?_⟩
    exact congrArg (Option.map _) hc
  · have room : ¬ decide (c.dsq.length ≥ 256) = true := by simpa using hn
    rw [if_neg room, if_neg room] at step
    obtain ⟨goes, mem, committed⟩ := (Prepared.setS (s := s) (u := s.enqueued g.cx (dsqEntry s g p a b)) g
      rfl rfl d.toNat 0).commit_done h (.enq d a b)
    refine ⟨_, step, goes, mem, committed, dsqEntry s g p a b, (commit_dsq _ g p g.cx).trans ?_, rfl, rfl⟩
    exact congrArg (Option.map (·.dsq)) (enqueued_ctx? (dsqEntry s g p a b) hc)

end Sys2Proof.Machine
end

section
/-! PROOFS. EXIT: what leaves with the last lanes of a split, and what with its last split (spec/06_kernel.md R117, R123; spec/07_flow.md
R135). -/

namespace Sys2Proof.Machine

/-! ## The state behind the commit of an EXIT -/

/-- An election of the split p ends as its lanes leave (R135). -/
def Group.unelected (p : Split) (h : Group) : Group :=
  match h.elected with
  | some (sp, _) => if sp = p.id && p.exec != 0 then { h with elected := none } else h
  | none => h

theorem Group.unelected_ref (p : Split) (h : Group) : (h.unelected p).ref = h.ref := by
  unfold unelected
  repeat' split
  all_goals rfl

theorem Group.unelected_none {h : Group} (p : Split) (he : h.elected = none) : h.unelected p = h := by
  unfold unelected
  rw [he]

/-- The group without its split p. -/
def Group.without (p : Split) (h : Group) : Group := { h with splits := h.splits.filter fun q => q.id != p.id }

/-- The state in which an EXIT has committed. -/
def State.exited (s : State) (g : Group) (p : Split) : State := (s.commit g p).updGroup g.ref (Group.unelected p)

/-- A split without lanes and stack has gone: with the last one the group ends, and where all others wait at a JOIN they go on. -/
def State.withoutSplit (t : State) (g : Group) (p : Split) : State :=
  let s1 := t.updGroup g.ref (Group.without p)
  match s1.group? g.ref with
  | none => s1
  | some h =>
    if h.splits.isEmpty then s1.lastExit h
    else if h.splits.all fun q => q.wait == .join then (s1.reownAll h).updGroup g.ref Group.joinRelease
    else s1

/-- The state t behind the commit of an EXIT, where the split p, by now q, has left its lanes. -/
def State.exits (t : State) (g : Group) (p q : Split) : State :=
  if p.lset &&& ~~~p.exec ≠ 0 ∨ p.exec = 0 then t.putSplit g { q.toNext with lset := p.lset &&& ~~~p.exec, exec := 0 }
  else
    match exitStack p.nextHeader p.stack q with
    | some r => t.putSplit g r
    | none => t.withoutSplit g p

theorem exited_mem (s : State) (g : Group) (p : Split) : (s.exited g p).mem = s.mem := rfl

theorem exited_ops (s : State) (g : Group) (p : Split) : (s.exited g p).ops = s.ops := rfl

theorem exited_putSplit_mem (s : State) (g : Group) (p q : Split) : ((s.exited g p).putSplit g q).mem = s.mem := by
  rw [State.putSplit, updSplit_mem, exited_mem]

section
variable {s : State} {g : Group} {p : Split} (h : Issues s g p) (he : g.elected = none)
include h he

theorem exited_group? : (s.exited g p).group? g.ref = some (g.commits s.cycle p) := by
  have none : (g.commits s.cycle p).elected = none := (congrArg Group.elected (g.commits_record s.cycle p)).trans he
  have found := group?_updGroup_same (Group.unelected p) (fun x _ => x.unelected_ref p) (commit_group?_same p rfl h.group')
  rwa [Group.unelected_none p none] at found

theorem exec_exit (hu : s.unchecked g p = false) (hr : Released s g p .pod) :
    exec .exit s = .next ((s.exited g p).exits g p (p.committed s.cycle)) := by
  have split : (((s.exited g p).group? g.ref).bind fun x => x.split? p.id).getD p = p.committed s.cycle := by
    rw [exited_group? h he, Option.bind_some, Group.commits_split? h.split', Option.getD_some]
  change execExit s = _
  rw [execExit, issue_next _ h (Readable.empty s g), gated_checked hu, released_done hr, ← split, he]
  rfl

/-- A split that goes on in the group behind its EXIT. -/
theorem exited_putSplit {q : Split} (hid : q.id = p.id) :
    ∃ g', ((s.exited g p).putSplit g q).group? g.ref = some g' ∧ g'.split? p.id = some q := by
  refine ⟨_, group?_updGroup_same _ (fun _ _ => rfl) (exited_group? h he), ?_⟩
  rw [hid]
  exact split?_updSplit_same (fun _ => q) (fun _ hx => hid.trans hx.symm) (Group.commits_split? h.split')

theorem exited_without :
    ((s.exited g p).updGroup g.ref (Group.without p)).group? g.ref = some ((g.commits s.cycle p).without p) :=
  group?_updGroup_same _ (fun _ _ => rfl) (exited_group? h he)

end

theorem Group.split?_without_same (p : Split) (h : Group) : (h.without p).split? p.id = none := by
  rw [split?, without, List.find?_eq_none]
  intro x hx
  simpa using (List.mem_filter.mp hx).2

theorem Group.split?_without_other {p : Split} (h : Group) {n : Nat} (hn : n ≠ p.id) : (h.without p).split? n = h.split? n := by
  rw [split?, without, List.find?_filter]
  refine congrArg (List.find? · h.splits) (funext fun x => ?_)
  by_cases hx : x.id = n
  · simp [hx, hn]
  · simp [hx]

/-- A group without its only split has none. -/
theorem Group.sole_without {g : Group} {p : Split} (now : Nat) (hg : g.splits = [p]) : ((g.commits now p).without p).splits = [] := by
  rw [without, commits_splits, hg]
  simp [upd, Split.committed]

theorem withoutSplit_last {t : State} {g x : Group} {p : Split} (hx : (t.updGroup g.ref (Group.without p)).group? g.ref = some x)
    (hs : x.splits = []) : t.withoutSplit g p = (t.updGroup g.ref (Group.without p)).lastExit x := by
  unfold State.withoutSplit
  dsimp only
  rw [hx]
  exact if_pos (by rw [hs]; rfl)

/-- A group with a split that does not wait at a JOIN stands. -/
theorem withoutSplit_others {t : State} {g x : Group} {p q : Split} (hx : (t.updGroup g.ref (Group.without p)).group? g.ref = some x)
    (hq : q ∈ x.splits) (hw : q.wait ≠ .join) : t.withoutSplit g p = t.updGroup g.ref (Group.without p) := by
  unfold State.withoutSplit
  dsimp only
  rw [hx]
  refine (if_neg fun hn => ?_).trans (if_neg fun hall => ?_)
  · rw [List.isEmpty_iff.mp hn] at hq
    cases hq
  · exact hw (by simpa using List.all_eq_true.mp hall q hq)

/-! ## The last exit -/

/-- What messages to the sheaf's home leave as it is, the release of a group's pins and versions leaves. -/
theorem releaseSheaf_keeps {β : Type} (part : State → β) (h : ∀ s m, part (s.sendSh m) = part s) (s : State) (g : Group) :
    part (s.releaseSheaf g) = part s :=
  (foldl_keeps part (fun s _ => h s _) _ _).trans (foldl_keeps part (fun s _ => h s _) _ s)

theorem undoScatter_mem (s : State) (r : GRef) : (s.undoScatter r).mem = s.mem := by
  unfold State.undoScatter
  split
  · rfl
  · dsimp only
    split <;> rfl

theorem settle_mem (s : State) (r : GRef) : (s.settle r).mem = s.mem := by
  unfold State.settle
  split
  · rfl
  · split
    · exact undoScatter_mem s r
    · rfl

/-- An ENDING group without operations becomes FREE. -/
theorem settle_frees {s : State} {r : GRef} {x : Group} (hx : s.group? r = some x) (he : x.status = .ending)
    (ho : ∀ o ∈ s.ops, o.grp ≠ r) : (s.settle r).group? r = none := by
  have idle : (s.ops.any fun o => o.grp == r && !o.kind.isCopy && decide (o.flag < 102)) = false := by
    rw [List.any_eq_false]
    intro o hm
    simp [ho o hm]
  unfold State.settle
  rw [hx]
  dsimp only
  rw [if_pos (by rw [he, idle]; rfl)]
  rw [State.group?, freeGroup_groups, List.find?_eq_none]
  intro y hy
  simpa using (List.mem_filter.mp hy).2

/-- A group with an operation that is not a copy stays. -/
theorem settle_waits {s : State} {r : GRef} {o : PendOp} (hm : o ∈ s.ops) (hr : o.grp = r) (hc : o.kind.isCopy = false)
    (hf : o.flag < 102) : s.settle r = s := by
  have busy : (s.ops.any fun o => o.grp == r && !o.kind.isCopy && decide (o.flag < 102)) = true :=
    List.any_eq_true.mpr ⟨o, hm, by simp [hr, hc, hf]⟩
  unfold State.settle
  split
  · rfl
  · rw [busy]
    exact if_neg (by simp)

/-- The group behind its last exit. -/
def Group.ended (h : Group) : Group := { h with status := .ending, pins := [], opens := [], elected := none }

/-- The state in which a group has ended and released its pins and versions, before its operations are asked for. -/
def State.endsGroup (s : State) (g : Group) : State := (s.releaseSheaf g).updGroup g.ref Group.ended

theorem lastExit_eq (s : State) (g : Group) : s.lastExit g = (s.endsGroup g).settle g.ref := rfl

theorem endsGroup_group? {s : State} {x : Group} (hx : s.group? x.ref = some x) : (s.endsGroup x).group? x.ref = some x.ended := by
  refine group?_updGroup_same _ (fun _ _ => rfl) ?_
  rwa [State.group?, releaseSheaf_groups]

theorem endsGroup_ops (s : State) (g : Group) : (s.endsGroup g).ops = s.ops := releaseSheaf_keeps State.ops (fun _ _ => rfl) s g

theorem lastExit_frees {t : State} {x : Group} {r : GRef} (hr : x.ref = r) (hx : t.group? r = some x) (ho : ∀ o ∈ t.ops, o.grp ≠ r) :
    (t.lastExit x).group? r = none := by
  subst hr
  rw [lastExit_eq]
  refine settle_frees (endsGroup_group? hx) rfl ?_
  rwa [endsGroup_ops]

theorem lastExit_waits {t : State} {x : Group} {r : GRef} {o : PendOp} (hr : x.ref = r) (hx : t.group? r = some x) (hm : o ∈ t.ops)
    (ho : o.grp = r) (hc : o.kind.isCopy = false) (hf : o.flag < 102) : (t.lastExit x).group? r = some x.ended := by
  subst hr
  rw [← endsGroup_ops t x] at hm
  rw [lastExit_eq, settle_waits hm ho hc hf, endsGroup_group? hx]

theorem lastExit_mem (s : State) (g : Group) : (s.lastExit g).mem = s.mem :=
  (settle_mem _ _).trans (releaseSheaf_keeps State.mem (fun _ _ => rfl) s g)

/-! ## EXIT -/

section
variable {s : State} {g : Group} {p : Split} (h : Issues s g p) (hu : s.unchecked g p = false) (hr : Released s g p .pod)
  (he : g.elected = none)
include h hu hr he

/-- A split with a lane left, or none active, goes on behind the EXIT. -/
theorem exit_lanes (hl : p.lset &&& ~~~p.exec ≠ 0 ∨ p.exec = 0) :
    ∃ t g' q, exec .exit s = .next t ∧ t.group? g.ref = some g' ∧ g'.split? p.id = some q ∧ q.lset = p.lset &&& ~~~p.exec
      ∧ q.exec = 0 ∧ q.pc = p.nextHeader ∧ q.clause = none ∧ q.ended = true ∧ q.commits = p.commits + 1 ∧ SameMem s t := by
  let q : Split := { (p.committed s.cycle).toNext with lset := p.lset &&& ~~~p.exec, exec := 0 }
  obtain ⟨g', own, split⟩ := exited_putSplit (q := q) h he rfl
  have header : (p.committed s.cycle).nextHeader = p.nextHeader := by
    unfold Split.nextHeader Split.committed
    cases p.clause <;> rfl
  have goes : (s.exited g p).exits g p (p.committed s.cycle) = (s.exited g p).putSplit g q := if_pos hl
  refine ⟨_, g', q, (exec_exit h he hu hr).trans (congrArg _ goes), own, split, rfl, rfl, header, rfl, rfl, rfl, fun a => ?_⟩
  exact congrArg (sget 0 · a) (exited_putSplit_mem s g p q)

variable (hl : p.lset &&& ~~~p.exec = 0) (hx : p.exec ≠ 0)
include hl hx

theorem exec_exit_all :
    exec .exit s = .next (match exitStack p.nextHeader p.stack (p.committed s.cycle) with
      | some r => (s.exited g p).putSplit g r
      | none => (s.exited g p).withoutSplit g p) :=
  (exec_exit h he hu hr).trans (congrArg _ (if_neg (not_or.mpr ⟨not_not.mpr hl, hx⟩)))

/-- Deferred lanes run next. -/
theorem exit_deferred (pc : Nat) (lanes : LaneMask) (more : List StackEntry) (hs : p.stack = .deferred pc lanes :: more) :
    ∃ t g' q, exec .exit s = .next t ∧ t.group? g.ref = some g' ∧ g'.split? p.id = some q ∧ q.lset = lanes ∧ q.exec = lanes
      ∧ q.pc = pc % 2 ^ 64 ∧ q.clause = none := by
  have step := exec_exit_all h hu hr he hl hx
  rw [hs, exitStack] at step
  obtain ⟨g', own, split⟩ := exited_putSplit (q := { (p.committed s.cycle).goto pc with
    lset := lanes, exec := lanes, stack := .resume none 0 0 :: more }) h he rfl
  exact ⟨_, g', _, step, own, split, rfl, rfl, rfl, rfl⟩

variable (hs : p.stack = [])
include hs

theorem exec_exit_gone : exec .exit s = .next ((s.exited g p).withoutSplit g p) := by
  have step := exec_exit_all h hu hr he hl hx
  rwa [hs, exitStack] at step

/-- A split without lanes and stack leaves the others. -/
theorem exit_beside (ho : ∃ q ∈ g.splits, q.id ≠ p.id ∧ q.wait ≠ .join) :
    ∃ t g', exec .exit s = .next t ∧ t.group? g.ref = some g' ∧ g'.split? p.id = none ∧ ∀ n, n ≠ p.id → g'.split? n = g.split? n := by
  obtain ⟨q, hq, hid, hw⟩ := ho
  have own := exited_without h he
  have stays : q ∈ ((g.commits s.cycle p).without p).splits := by
    refine List.mem_filter.mpr ⟨?_, by simpa using hid⟩
    rw [Group.commits_splits]
    exact mem_upd.mpr ⟨q, hq, if_neg (by simpa using hid)⟩
  refine ⟨_, _, (exec_exit_gone h hu hr he hl hx hs).trans (congrArg _ (withoutSplit_others own stays hw)), own,
    Group.split?_without_same .., fun n hn => ?_⟩
  rw [Group.split?_without_other _ hn, Group.commits_split?_other g hn]

variable (hg : g.splits = [p])
include hg

/-- The last split ends its group. -/
theorem exec_exit_last :
    exec .exit s = .next (((s.exited g p).updGroup g.ref (Group.without p)).lastExit ((g.commits s.cycle p).without p)) :=
  (exec_exit_gone h hu hr he hl hx hs).trans (congrArg _ (withoutSplit_last (exited_without h he) (Group.sole_without s.cycle hg)))

/-- Without an operation the group context is FREE. -/
theorem exit_last_frees (ho : ∀ o ∈ s.ops, o.grp ≠ g.ref) :
    ∃ t, exec .exit s = .next t ∧ t.group? g.ref = none ∧ SameMem s t := by
  refine ⟨_, exec_exit_last h hu hr he hl hx hs hg, ?_, fun a => congrArg (sget 0 · a) ?_⟩
  · refine lastExit_frees (g.commits_ref s.cycle p) (exited_without h he) ?_
    rwa [State.updGroup_ops, exited_ops]
  · rw [lastExit_mem, updGroup_mem, exited_mem]

/-- The group stays while an operation of it is pending. -/
theorem exit_last_waits (ho : ∃ o ∈ s.ops, o.grp = g.ref ∧ o.kind.isCopy = false ∧ o.flag < 12) :
    ∃ t g', exec .exit s = .next t ∧ t.group? g.ref = some g' ∧ g'.status = .ending ∧ g'.splits = [] := by
  obtain ⟨o, hm, hgrp, hc, hf⟩ := ho
  refine ⟨_, ((g.commits s.cycle p).without p).ended, exec_exit_last h hu hr he hl hx hs hg, ?_, rfl, Group.sole_without s.cycle hg⟩
  refine lastExit_waits (g.commits_ref s.cycle p) (exited_without h he) (o := o) ?_ hgrp hc (by omega)
  rwa [State.updGroup_ops, exited_ops]

end

/-- Settles O25: each instruction commits behind its release; EXIT by what its split leaves (lanes, a stack, other splits, none). -/
theorem exitTriggerAndEnqueue : Obligations.ExitTriggerAndEnqueue := by
  unfold Obligations.ExitTriggerAndEnqueue
  refine ⟨fun s g p h hu hr he => ⟨exit_lanes h hu hr he, exit_deferred h hu hr he, exit_beside h hu hr he,
    exit_last_frees h hu hr he, exit_last_waits h hu hr he⟩,
    fun s g p h hu hr => ⟨fun w k hw hk => trigger_counts h hu hr hw hk, fun d a b c hd hc => enq_reports d a b h hu hr hd hc⟩⟩

end Sys2Proof.Machine
end

section
/-! PROOFS. What leaves the books of the budgets alone: the records of RCBs as the device holds them and $GTIME behind the writes at a home,
the walks and the engines' accesses (spec/06_kernel.md R101, R102; R191, R213, R316). -/

namespace Sys2Proof.Machine

/-- A step that takes one of two ways keeps what both keep. -/
theorem ite_keeps {β : Type} (part : State → β) {s a b : State} {c : Prop} [Decidable c] (ha : part a = part s) (hb : part b = part s) :
    part (if c then a else b) = part s := by
  split
  · exact ha
  · exact hb

/-- What a charge is counted by: the RCBs and the clock of the periods (R102). -/
def State.books (s : State) : List Rcb × Nat := (s.rcbs, s.gtime)

theorem retireFrame_books (s : State) (f : Nat) : (s.retireFrame f).books = s.books :=
  ite_keeps State.books rfl (ite_keeps State.books rfl (ite_keeps State.books rfl rfl))

theorem noteRead_books (s : State) (n : Nat) (dom : Option (Key × BitVec 16)) (kds : Nat) : (s.noteRead n dom kds).books = s.books := by
  unfold State.noteRead
  extract_lets m s1 s2
  have hs2 : s2.books = s.books := ite_keeps State.books (s := s) rfl rfl
  exact ite_keeps State.books (ite_keeps State.books ((retireFrame_books s2 _).trans hs2) hs2) (ite_keeps State.books rfl rfl)

theorem mergePhys_books (s : State) (n : Nat) (dom : Option (Key × BitVec 16)) (kds : Nat) (d : LineData) (m : LineMask) :
    (s.mergePhys n dom kds d m).1.books = s.books := by
  have written (s : State) (n : Nat) (cells : List Host.Cell) (lm : LineMeta) :
      (({ s with mem := cells } : State).setMeta n lm).books = s.books := rfl
  unfold State.mergePhys
  extract_lets s1 lm lm' bytes
  have hs1 : s1.books = s.books := ite_keeps State.books (noteRead_books s _ _ _) rfl
  split
  · exact hs1
  · exact (written s1 n _ _).trans hs1

theorem wake_books (s : State) (k : LineKey) : (s.wake k).books = s.books :=
  foldl_keeps State.books (f := fun (s : State) (h : RWatch × DWord) =>
    s.replyTo h.1.cx h.1.src h.1.vlink h.1.loopback (.rWatch h.1.req h.2)) (fun _ _ => ite_keeps State.books rfl rfl) _ _

theorem invalCopy_books (s : State) (k : LineKey) (c : Option Nat) (n : Nat) : (s.invalCopy k c n).books = s.books := by
  cases c
  · rfl
  · rfl

theorem dropCopies_books (s : State) (k : LineKey) : (s.dropCopies k).books = s.books :=
  foldl_keeps State.books (f := fun (s : State) (c : Option Nat × Nat) => s.invalCopy k c.1 c.2) (fun s c => invalCopy_books s k c.1 c.2) _ s

theorem l2Evict_books (s : State) (n : Nat) : (s.l2Evict n).books = s.books := by
  unfold State.l2Evict
  refine ite_keeps State.books rfl ?_
  dsimp only
  refine ite_keeps State.books rfl ?_
  split
  next v _ =>
    exact foldl_keeps State.books (f := fun (s : State) (c : Option Nat × Nat) => if c.1.isNone then s.invalCopy v none c.2 else s)
      (fun s c => ite_keeps State.books (invalCopy_books s v none c.2) rfl) _ _
  · split
    · rfl
    · rfl

theorem l2Touch_books (s : State) (k : LineKey) (w : Bool) : (s.l2Touch k w).books = s.books :=
  ite_keeps State.books (s := s) (a := s) (c := (s.l2? k).isSome) rfl (l2Evict_books s _)

theorem homeWrite_books (s : State) (k : LineKey) (d : LineData) (m : LineMask) : (s.homeWrite k d m).1.books = s.books := by
  unfold State.homeWrite
  extract_lets s1
  have hs1 : s1.books = s.books := dropCopies_books s k
  split
  · exact hs1
  next n _ =>
    have merged := mergePhys_books s1 n (s1.domain k.cx k.kds) k.kds d m
    split
    next s20 ok e =>
      rw [e] at merged
      extract_lets lm s2 s3
      have hs2 : s2.books = s20.books := ite_keeps State.books rfl rfl
      have hs3 : s3.books = s1.books := hs2.trans merged
      exact ((wake_books _ k).trans (l2Touch_books s3 k true)).trans (hs3.trans hs1)

theorem noteWalk_books (s : State) (c : Context) (va : Nat) : (s.noteWalk c va).books = s.books :=
  foldl_keeps State.books (fun s _ => noteRead_books s _ _ _) _ s

theorem markEntry_books (s : State) (c : Context) (ea : Nat) (p : Pte) (d : Bool) : (s.markEntry c ea p d).books = s.books :=
  ite_keeps State.books rfl (homeWrite_books s _ _ _)

theorem walk_books (s : State) (cx va : Nat) (a : Acc) : (s.walk cx va a).1.books = s.books := by
  rcases walk_cases s cx va a with e | ⟨c, -, e⟩ | ⟨c, ea, p, d, -, -, e⟩ <;> rw [e]
  · exact noteWalk_books s c va
  · exact (markEntry_books _ c ea p d).trans (noteWalk_books s c va)

theorem engineKey_books (s : State) (cx va : Nat) (a : Acc) : (s.engineKey cx va a).1.books = s.books := by
  have walked := walk_books s cx va a
  unfold State.engineKey
  split
  · split
    next e => rw [e] at walked; exact walked
    next e => rw [e] at walked; exact walked
  all_goals rfl

theorem engineNow_books (s : State) (cx va : Nat) (a : Acc) : (s.engineNow cx va a).1.books = s.books := by
  have key := engineKey_books s cx va a
  unfold State.engineNow
  split
  next e => rw [e] at key; exact key
  next s0 e =>
    rw [e] at key
    extract_lets s1
    have hs1 : s1.books = s.books := key
    split
    · exact hs1
    · split
      · exact hs1
      · dsimp only
        split
        · exact hs1
        · exact (markEntry_books s1 _ _ _ _).trans hs1
  next e => rw [e] at key; exact key

theorem homeNote_books (s : State) (k : LineKey) : (s.homeNote k).books = s.books := by
  unfold State.homeNote
  split
  · rfl
  · exact noteRead_books s _ _ _

theorem engineRead_books (s : State) (cx va n : Nat) : (s.engineRead cx va n).1.books = s.books := by
  unfold State.engineRead
  refine foldl_proj (fun q : State × Option (List Byte) => q.1.books) (fun q p => ?_) _ (s, some [])
  have key := engineNow_books q.1 cx p.1 .read
  dsimp only
  split
  · rfl
  · split
    next e => rw [e] at key; exact key
    next s1 k e =>
      rw [e] at key
      split <;> exact (homeNote_books s1 k).trans key

theorem engineWrite_books (s : State) (cx va : Nat) (bs : List Byte) : (s.engineWrite cx va bs).1.books = s.books := by
  unfold State.engineWrite
  refine foldl_proj (fun q : State × Bool => q.1.books) (fun q p => ?_) _ (s, true)
  have key := engineNow_books q.1 cx p.1 .write
  dsimp only
  split
  next e => rw [e] at key; exact key
  next s1 k e =>
    rw [e] at key
    exact (homeWrite_books s1 k _ _).trans key

end Sys2Proof.Machine
end

section
/-! PROOFS. What flashback leaves alone: RCBs, kernels and memory, behind each of its steps (spec/07_group.md R143 to R146). -/

namespace Sys2Proof.Machine

/-- What flashback does not touch. -/
def State.beyond (s : State) : List Rcb × List Kernel × List Host.Cell := (s.rcbs, s.kernels, s.mem)

theorem undoScatter_beyond (s : State) (r : GRef) : (s.undoScatter r).beyond = s.beyond := by
  rw [State.undoScatter]
  split
  · rfl
  · exact ite_keeps State.beyond rfl rfl

theorem freeGroup_beyond (s : State) (r : GRef) : (s.freeGroup r).beyond = s.beyond := undoScatter_beyond s r

theorem settle_beyond (s : State) (r : GRef) : (s.settle r).beyond = s.beyond := by
  rw [State.settle]
  split
  · rfl
  · exact ite_keeps State.beyond (freeGroup_beyond s r) rfl

theorem finishOp_beyond (s : State) (id : Nat) : (s.finishOp id).beyond = s.beyond := by
  unfold State.finishOp
  split
  · rfl
  next o _ =>
    extract_lets s1 s2
    have hs2 : s2.beyond = s.beyond := ite_keeps State.beyond rfl rfl
    exact (settle_beyond s2 _).trans hs2

theorem boardDone_beyond (s : State) (op : Nat) (lowest : Bool) (lap code : Nat) : (s.boardDone op lowest lap code).beyond = s.beyond := by
  unfold State.boardDone
  split
  · rfl
  · split
    · extract_lets w s1
      have hs1 : s1.beyond = s.beyond := ite_keeps State.beyond (ite_keeps State.beyond rfl rfl) rfl
      refine Eq.trans ?_ hs1
      exact ite_keeps State.beyond rfl (ite_keeps State.beyond rfl (finishOp_beyond s1 op))
    · rfl

theorem preemptBoards_beyond (s : State) (r : GRef) : (s.preemptBoards r).beyond = s.beyond := by
  unfold State.preemptBoards
  extract_lets bs as s1 s2 s3
  have hs3 : s3.beyond = s2.beyond := foldl_keeps State.beyond (fun s _ => boardDone_beyond s _ _ _ _) _ s2
  refine Eq.trans ?_ (hs3.trans rfl)
  exact foldl_keeps State.beyond (fun s _ => finishOp_beyond s _) _ s3

theorem releaseSheaf_beyond (s : State) (g : Group) : (s.releaseSheaf g).beyond = s.beyond := by
  unfold State.releaseSheaf
  extract_lets s1
  have hs1 : s1.beyond = s.beyond := foldl_keeps State.beyond (fun _ _ => by rfl) _ s
  refine Eq.trans ?_ hs1
  exact foldl_keeps State.beyond (fun _ _ => by rfl) _ s1

theorem endGroup_beyond (s : State) (r : GRef) : (s.endGroup r).beyond = s.beyond := by
  unfold State.endGroup State.dropGroup
  split
  · rfl
  next g _ =>
    extract_lets s0 dead lost s1 ops s2
    exact (freeGroup_beyond s2 r).trans (releaseSheaf_beyond s g)

theorem fillRec_beyond (s : State) (core q : Nat) : (s.fillRec core q).beyond = s.beyond := by
  rw [State.fillRec]
  split
  · rfl
  · split
    · rfl
    · rfl

theorem flashbackSet_beyond (s : State) (cx : Nat) (reason : SaveReason) (p : Workgroup → Bool) :
    (s.flashbackSet cx reason p).beyond = s.beyond := by
  unfold State.flashbackSet
  extract_lets s' wgs mine ending left refs filled s1 gs s2 im s3 s4
  have hs' : s'.beyond = s.beyond := foldl_keeps State.beyond (fun s _ => ite_keeps State.beyond (undoScatter_beyond s _) rfl) _ s
  have hleft : left.beyond = s'.beyond := foldl_keeps State.beyond endGroup_beyond _ s'
  have hfilled : filled.beyond = left.beyond := foldl_keeps State.beyond
    (fun s _ => foldl_keeps State.beyond (fun s _ => ite_keeps State.beyond (fillRec_beyond s _ _) rfl) _ s) _ left
  have hs1 : s1.beyond = filled.beyond := foldl_keeps State.beyond preemptBoards_beyond _ filled
  have hs2 : s2.beyond = s1.beyond := foldl_keeps State.beyond (fun s _ => foldl_keeps State.beyond (fun _ _ => by rfl) _ s) _ s1
  have hs4 : s4.beyond = s2.beyond := (foldl_keeps State.beyond freeGroup_beyond _ _).trans rfl
  exact hs4.trans (hs2.trans (hs1.trans (hfilled.trans (hleft.trans hs'))))

theorem flashback_beyond (s : State) (cx : Nat) (reason : SaveReason) (p : Workgroup → Bool) :
    (s.flashback cx reason p).beyond = s.beyond :=
  foldl_keeps State.beyond (fun s _ => ite_keeps State.beyond (flashbackSet_beyond s cx reason _) rfl) _ s

end Sys2Proof.Machine
end

section
/-! PROOFS. Budgets and their periods (spec/06_kernel.md R101, R102): RCBs behind their changes, a spent budget, and the two halves of a
period's boundary. -/

namespace Sys2Proof.Machine

/-! ## RCBs behind a change -/

/-- Where an RCB stands and what is counted on it (R101, R102). -/
def Rcb.account (r : Rcb) : (Nat × Nat) × Nat × Nat × Bool := ((r.cx, r.addr), r.charge, r.used, r.parked)

theorem Rcb.place_of_account {r q : Rcb} (h : r.account = q.account) : r.cx = q.cx ∧ r.addr = q.addr :=
  Prod.mk.inj (congrArg Prod.fst h)

theorem rcb?_key {s : State} {cx a : Nat} {r : Rcb} (h : s.rcb? cx a = some r) : r.cx = cx ∧ r.addr = a := by
  simpa using List.find?_some h

theorem rcb?_updRcb {s : State} {cx a : Nat} {f : Rcb → Rcb} (hcx : ∀ r, (f r).cx = r.cx) (haddr : ∀ r, (f r).addr = r.addr) (x b : Nat) :
    (s.updRcb cx a f).rcb? x b = (s.rcb? x b).map fun r => if r.cx == cx && r.addr == a then f r else r :=
  find?_upd _ _ _ _ fun r _ => by simp [hcx, haddr]

theorem rcb?_updRcb_same {s : State} {cx a : Nat} {r : Rcb} {f : Rcb → Rcb} (hcx : ∀ r, (f r).cx = r.cx)
    (haddr : ∀ r, (f r).addr = r.addr) (h : s.rcb? cx a = some r) : (s.updRcb cx a f).rcb? cx a = some (f r) := by
  obtain ⟨rfl, rfl⟩ := rcb?_key h
  rw [rcb?_updRcb hcx haddr, h]
  simp

theorem rcb?_updRcb_other {s : State} {cx a b : Nat} {f : Rcb → Rcb} (hcx : ∀ r, (f r).cx = r.cx) (haddr : ∀ r, (f r).addr = r.addr)
    (hb : b ≠ a) (x : Nat) : (s.updRcb cx a f).rcb? x b = s.rcb? x b := by
  rw [rcb?_updRcb hcx haddr]
  cases h : s.rcb? x b with
  | none => rfl
  | some r => simp [(rcb?_key h).2, hb]

/-- The chain behind a change that moves no RCB. -/
theorem rcbChain_updRcb {s : State} {cx a : Nat} {f : Rcb → Rcb} (hcx : ∀ r, (f r).cx = r.cx) (haddr : ∀ r, (f r).addr = r.addr)
    (hparent : ∀ r, (f r).parent = r.parent) (x fuel b : Nat) :
    (s.updRcb cx a f).rcbChain x fuel b = (s.rcbChain x fuel b).map fun r => if r.cx == cx && r.addr == a then f r else r := by
  induction fuel generalizing b with
  | zero => rfl
  | succ fuel ih =>
    rw [State.rcbChain, State.rcbChain, rcb?_updRcb hcx haddr]
    cases s.rcb? x b with
    | none => rfl
    | some r =>
      have parent : (if r.cx == cx && r.addr == a then f r else r).parent = r.parent := by
        split
        · exact hparent r
        · rfl
      dsimp only [Option.map_some]
      rw [parent, ih, List.map_cons, apply_ite (List.map _)]
      rfl

/-! ## A spent budget (R102) -/

theorem rcbSpent_iff {s : State} {cx a : Nat} {r : Rcb} (h : s.rcb? cx a = some r) :
    s.rcbSpent r = true ↔ ∃ b, budgetOf (s.rcbChain cx 8 a) = some b ∧ b ≤ r.charge := by
  obtain ⟨rfl, rfl⟩ := rcb?_key h
  rw [State.rcbSpent]
  cases budgetOf (s.rcbChain r.cx 8 r.addr) <;> simp

/-- The state with an RCB parked. -/
def State.parkRcb (s : State) (cx a : Nat) : State := s.updRcb cx a fun r => { r with parked := true }

theorem exec_budgetExhausted {s : State} {cx a : Nat} {r : Rcb} (h : s.rcb? cx a = some r) :
    exec (.budgetExhausted cx a) s = .next (if r.parked || !s.rcbSpent r then s
      else (s.parkRcb cx a).flashback cx .park ((s.parkRcb cx a).underRcb cx a)) := by
  change execBudgetExhausted cx a s = _
  rw [execBudgetExhausted, h]
  rfl

theorem exec_budgetExhausted_spent {s : State} {cx a b : Nat} {r : Rcb} (h : s.rcb? cx a = some r)
    (hb : budgetOf (s.rcbChain cx 8 a) = some b) (hp : r.parked = false) (hc : b ≤ r.charge) :
    exec (.budgetExhausted cx a) s = .next ((s.parkRcb cx a).flashback cx .park ((s.parkRcb cx a).underRcb cx a)) := by
  rw [exec_budgetExhausted h, if_neg (by simp [hp, (rcbSpent_iff h).mpr ⟨b, hb, hc⟩])]

/-- BUDGET_EXHAUSTED parks the RCB where its charge has reached the budget. -/
theorem budgetExhausted_spec {s : State} {cx a : Nat} {r : Rcb} (h : s.rcb? cx a = some r) :
    let spent := ∃ b, budgetOf (s.rcbChain cx 8 a) = some b ∧ r.parked = false ∧ b ≤ r.charge
    (¬ spent → exec (.budgetExhausted cx a) s = .next s)
    ∧ (spent → ∃ t, exec (.budgetExhausted cx a) s = .next t ∧ t.rcb? cx a = some { r with parked := true } ∧ t.kernels = s.kernels
      ∧ ∀ y, y ≠ a → t.rcb? cx y = s.rcb? cx y) := by
  refine ⟨fun hn => ?_, fun ⟨b, hb, hp, hc⟩ => ⟨_, exec_budgetExhausted_spent h hb hp hc, ?_⟩⟩
  · rw [exec_budgetExhausted h, if_pos]
    by_contra hgo
    simp only [Bool.or_eq_true, Bool.not_eq_true', not_or, Bool.not_eq_true, Bool.not_eq_false] at hgo
    obtain ⟨hp, hs⟩ := hgo
    obtain ⟨b, hb, hc⟩ := (rcbSpent_iff h).mp hs
    exact hn ⟨b, hb, hp, hc⟩
  · have kept := flashback_beyond (s.parkRcb cx a) cx .park ((s.parkRcb cx a).underRcb cx a)
    generalize (s.parkRcb cx a).flashback cx .park ((s.parkRcb cx a).underRcb cx a) = t at kept
    simp only [State.beyond, Prod.mk.injEq] at kept
    obtain ⟨rcbs, kernels, -⟩ := kept
    have found (y : Nat) : t.rcb? cx y = (s.parkRcb cx a).rcb? cx y := by rw [State.rcb?, rcbs, State.rcb?]
    refine ⟨(found a).trans ?_, kernels, fun y hy => (found y).trans ?_⟩
    · exact rcb?_updRcb_same (fun _ => rfl) (fun _ => rfl) h
    · exact rcb?_updRcb_other (f := fun r => { r with parked := true }) (fun _ => rfl) (fun _ => rfl) hy cx

/-! ## What the event of a boundary keeps (R101, R102) -/

/-- From s to t $GTIME stands, no RCB of another context is new, and the RCBs of a context keep what is counted on them. -/
structure CountsStand (cx : Nat) (s t : State) : Prop where
  gtime : t.gtime = s.gtime
  others : ∀ x ∈ t.rcbs, x.cx ≠ cx → x ∈ s.rcbs
  counts : ∀ a x, s.rcb? cx a = some x → ∃ x', t.rcb? cx a = some x' ∧ x'.account = x.account

namespace CountsStand

theorem of_books {s t : State} (h : t.books = s.books) (cx : Nat) : CountsStand cx s t := by
  simp only [State.books, Prod.mk.injEq] at h
  obtain ⟨rcbs, gtime⟩ := h
  refine ⟨gtime, fun x hx _ => rcbs ▸ hx, fun a x hx => ⟨x, ?_, rfl⟩⟩
  rw [State.rcb?, rcbs]
  exact hx

theorem refl (cx : Nat) (s : State) : CountsStand cx s s := of_books rfl cx

theorem trans {cx : Nat} {s t u : State} (h : CountsStand cx s t) (h' : CountsStand cx t u) : CountsStand cx s u := by
  refine ⟨h'.gtime.trans h.gtime, fun x hx hn => h.others x (h'.others x hx hn) hn, fun a x hx => ?_⟩
  obtain ⟨y, hy, account⟩ := h.counts a x hx
  obtain ⟨z, hz, account'⟩ := h'.counts a y hy
  exact ⟨z, hz, account'.trans account⟩

theorem foldl {α : Type} {cx : Nat} {f : State → α → State} {l : List α} (h : ∀ s, ∀ x ∈ l, CountsStand cx s (f s x)) (s : State) :
    CountsStand cx s (l.foldl f s) := by
  induction l generalizing s with
  | nil => exact refl cx s
  | cons x t ih => exact (h s x List.mem_cons_self).trans (ih (fun s y hy => h s y (List.mem_cons_of_mem x hy)) _)

theorem updRcb (s : State) (cx a : Nat) {f : Rcb → Rcb} (hf : ∀ r, (f r).account = r.account) : CountsStand cx s (s.updRcb cx a f) := by
  have hcx (r : Rcb) : (f r).cx = r.cx := (Rcb.place_of_account (hf r)).1
  refine ⟨rfl, fun x hx hn => ?_, fun b x hx => ?_⟩
  · obtain ⟨y, hy, rfl⟩ := mem_upd.mp hx
    have unchanged : ¬ (y.cx == cx && y.addr == a) = true := fun hp => hn (by
      rw [if_pos hp, hcx]
      simp only [Bool.and_eq_true, beq_iff_eq] at hp
      exact hp.1)
    rwa [if_neg unchanged]
  · rw [rcb?_updRcb hcx fun r => (Rcb.place_of_account (hf r)).2, hx]
    refine ⟨_, rfl, ?_⟩
    dsimp only
    split
    · exact hf x
    · rfl

/-- A new RCB of the context comes behind those that the device holds. -/
theorem append {cx : Nat} (s : State) {r : Rcb} (hr : r.cx = cx) : CountsStand cx s { s with rcbs := s.rcbs ++ [r] } := by
  refine ⟨rfl, fun x hx hn => ?_, fun a x hx => ⟨x, ?_, rfl⟩⟩
  · rcases List.mem_append.mp hx with h | h
    · exact h
    · exact absurd (List.mem_singleton.mp h ▸ hr) hn
  · have hx' : s.rcbs.find? (fun r => r.cx == cx && r.addr == a) = some x := hx
    rw [State.rcb?, List.find?_append, hx', Option.some_or]

theorem readRcb (s : State) (cx addr : Nat) : CountsStand cx s (s.readRcb cx addr).1 := by
  have read : CountsStand cx s (s.engineRead cx addr 128).1 := of_books (engineRead_books s cx addr 128) cx
  unfold State.readRcb
  split
  · exact refl cx s
  · split
    · exact refl cx s
    · split
      next e => rw [e] at read; exact read
      next s1 bs e =>
        rw [e] at read
        exact read.trans (append s1 rfl)

theorem readChain (s : State) (cx fuel addr : Nat) : CountsStand cx s (s.readChain cx fuel addr).1 := by
  induction fuel generalizing s addr with
  | zero => exact refl cx s
  | succ fuel ih =>
    have read := readRcb s cx addr
    unfold State.readChain
    split
    next e => rw [e] at read; exact read
    next s1 r e =>
      rw [e] at read
      split
      · exact read
      · split
        · exact read
        · exact read.trans (ih s1 r.parent)

/-- Software's writes to an RCB take effect; the device's counts stay. -/
theorem periodRcb (s : State) (r : Rcb) : CountsStand r.cx s (s.periodRcb r) := by
  unfold State.periodRcb
  extract_lets s1
  have hs1 : CountsStand r.cx s s1 := of_books (engineWrite_books s _ _ _) _
  have read : CountsStand r.cx s1 (s1.engineRead r.cx r.addr 128).1 := of_books (engineRead_books s1 _ _ _) _
  split
  next s2 e =>
    rw [e] at read
    exact hs1.trans read
  next s2 bs e =>
    rw [e] at read
    exact (hs1.trans read).trans (updRcb s2 _ _ fun _ => rfl)

theorem adopt (s : State) (old : Rcb) : CountsStand old.cx s (s.adopt old) := by
  unfold State.adopt
  split
  · exact refl _ s
  next r hr =>
    obtain ⟨hcx, -⟩ := rcb?_key hr
    split
    · exact refl _ s
    · have read := readChain s r.cx 8 r.addr
      rw [hcx] at read ⊢
      split
      next e => rw [e] at read; exact read
      next s1 e =>
        rw [e] at read
        exact read.trans (updRcb s1 _ _ fun _ => rfl)

end CountsStand

/-! ## The event of a boundary -/

/-- The state in which the RCBs of a context have been read anew (R101). -/
def State.rcbsReread (s : State) (cx : Nat) : State :=
  let olds := s.rcbs.filter fun r => r.cx == cx
  olds.foldl State.adopt (olds.foldl State.periodRcb s)

theorem rcbsReread_stand (s : State) (cx : Nat) : CountsStand cx s (s.rcbsReread cx) := by
  have mine {r : Rcb} (hr : r ∈ s.rcbs.filter fun r => r.cx == cx) : r.cx = cx := by simpa using (List.mem_filter.mp hr).2
  exact (CountsStand.foldl (fun s r hr => mine hr ▸ .periodRcb s r) s).trans (.foldl (fun s r hr => mine hr ▸ .adopt s r) _)

/-- The state in which a root counts a new period. -/
def State.periodBegun (s : State) (cx root : Nat) : State :=
  s.updRcb cx root fun r => { r with boundary := false, periodNo := s.periodNo r }

section
variable {s : State} {cx : Nat} {c : Context} {r : Rcb} (hc : s.ctx? cx = some c) (hr : s.rcb? cx c.bindRec.rootRcb = some r)
include hc hr

theorem exec_rcbPeriodBoundary_waits (hb : r.boundary = false) : exec (.rcbPeriodBoundary cx) s = .next s := by
  change execRcbPeriodBoundary cx s = _
  rw [execRcbPeriodBoundary, hc, Option.bind_some, hr]
  exact congrArg _ (if_pos (by simp [hb]))

theorem exec_rcbPeriodBoundary_due (hb : r.boundary = true) :
    ∃ t, exec (.rcbPeriodBoundary cx) s = .next t ∧ t.rcbs = ((s.rcbsReread cx).periodBegun cx r.addr).rcbs := by
  change ∃ t, execRcbPeriodBoundary cx s = .next t ∧ _
  rw [execRcbPeriodBoundary, hc, Option.bind_some, hr]
  exact ⟨_, congrArg _ (if_neg (by simp [hb])), rfl⟩

/-- RCB_PERIOD_BOUNDARY: the root counts a new period from here; what is counted on the RCBs stays. -/
theorem rcbPeriodBoundary_due (hb : r.boundary = true) :
    ∃ t r', exec (.rcbPeriodBoundary cx) s = .next t ∧ t.rcb? cx r.addr = some r' ∧ r'.boundary = false
      ∧ r'.periodNo = s.gtime / (1000 * r'.periodUs) ∧ (∀ x ∈ t.rcbs, x.cx ≠ cx → x ∈ s.rcbs)
      ∧ ∀ a x, s.rcb? cx a = some x → ∃ x', t.rcb? cx a = some x' ∧ x'.charge = x.charge ∧ x'.used = x.used ∧ x'.parked = x.parked := by
  obtain ⟨t, step, rcbs⟩ := exec_rcbPeriodBoundary_due hc hr hb
  have hroot : s.rcb? cx r.addr = some r := (rcb?_key hr).2 ▸ hr
  have reread := rcbsReread_stand s cx
  generalize s.rcbsReread cx = u at rcbs reread
  have begun : CountsStand cx s (u.periodBegun cx r.addr) :=
    reread.trans (.updRcb u cx r.addr fun _ => rfl)
  have found (a : Nat) : t.rcb? cx a = (u.periodBegun cx r.addr).rcb? cx a := by rw [State.rcb?, rcbs, State.rcb?]
  obtain ⟨x, hx, -⟩ := reread.counts r.addr r hroot
  refine ⟨t, { x with boundary := false, periodNo := u.periodNo x }, step, ?_, rfl, ?_, ?_, fun a x hx => ?_⟩
  · exact (found r.addr).trans (rcb?_updRcb_same (fun _ => rfl) (fun _ => rfl) hx)
  · change u.gtime / (1000 * x.periodUs) = _
    rw [reread.gtime]
    rfl
  · rw [rcbs]
    exact begun.others
  · obtain ⟨x', hx', account⟩ := begun.counts a x hx
    simp only [Rcb.account, Prod.mk.injEq] at account
    obtain ⟨-, charge, used, parked⟩ := account
    exact ⟨x', (found a).trans hx', charge, used, parked⟩

/-! ## A boundary passes (R102) -/

/-- Where a boundary of the root's period lies in cycles in which no group is resident, every charge of the context returns to zero. -/
theorem chargePeriods_idle {before : State} (hg : before.groups = []) (hn : s.gtime / (1000 * r.periodUs) ≠ r.periodNo) (dt a : Nat) {x : Rcb}
    (hx : s.rcb? cx a = some x) :
    ∃ x', (s.chargePeriods before dt).rcb? cx a = some x' ∧ x'.charge = 0 ∧ x'.parked = false
      ∧ x'.periodNo = s.gtime / (1000 * r.periodUs) ∧ (a = r.addr → x'.boundary = true) := by
  obtain ⟨rfl, rfl⟩ := rcb?_key hx
  have root : s.rootRcb? x.cx = some r := by rw [State.rootRcb?, hc, Option.bind_some, hr]
  have none (y : Rcb) : before.chargers y = 0 := by simp [State.chargers, hg]
  have due : ((s.rootRcb? x.cx).map fun r => s.periodNo r != r.periodNo).getD false = true := by
    rw [root]
    simpa [State.periodNo] using hn
  have kept (y q : Rcb) (n : Nat) : (y.passPeriod q s.gtime dt n).cx = y.cx ∧ (y.passPeriod q s.gtime dt n).addr = y.addr := by
    unfold Rcb.passPeriod
    dsimp only
    split
    · exact ⟨rfl, rfl⟩
    · exact ⟨rfl, rfl⟩
  have found : (s.chargePeriods before dt).rcb? x.cx x.addr = some (x.passPeriod r s.gtime dt 0) := by
    refine (find?_upd _ _ _ _ fun y _ => ?_).trans ?_
    · cases s.rootRcb? y.cx with
      | none => rfl
      | some q => simp [kept]
    · have hx' : s.rcbs.find? (fun r => r.cx == x.cx && r.addr == x.addr) = some x := hx
      rw [hx', Option.map_some, if_pos due, root, none]
  refine ⟨_, found, ?_⟩
  rw [Rcb.passPeriod, if_neg hn]
  exact ⟨Nat.zero_mul _, rfl, rfl, fun h => by simp [h]⟩

end

end Sys2Proof.Machine
end

section
/-! PROOFS. Flashback of a workgroup of one group (spec/07_group.md R143 to R146): what the image keeps of a group whose region is open, and
what is left on the core. -/

namespace Sys2Proof.Machine

/-! ## The image of a group whose region is open (R143, R144) -/

theorem sget_filter_key {α : Type} (d : α) (keep : Nat → Bool) (m : Sparse α) (k : Nat) :
    sget d (m.filter fun e => keep e.1) k = if keep k then sget d m k else d := by
  induction m with
  | nil => simp
  | cons e t ih =>
    by_cases hk : k = e.1
    · subst hk
      by_cases he : keep e.1 = true
      · simp [he, sget]
      · simp [he, ih]
    · by_cases he : keep e.1 = true
      · simp [he, sget, hk, ih]
      · simp [he, sget, hk, ih]

/-- The group g has one split p, outside a handler, whose region rc is open at the depth of its stack. -/
structure OpenRegion (g : Group) (p : Split) (rc : RegionRec) : Prop where
  splits : g.splits = [p]
  trap : g.trapRec = none
  ended : p.ended = false
  region : p.region = some rc
  depth : rc.depth = p.stack.length

/-- REWIND of a split at the depth of its region: it stands at the recipe, or at the entry, with the lanes of the region. -/
theorem rewind_flat {p : Split} {rc : RegionRec} (hr : p.region = some rc) (hd : rc.depth = p.stack.length) :
    (rewind p true).id = p.id ∧ (rewind p true).pc = rc.recipe.getD rc.entry ∧ (rewind p true).recipe = rc.recipe.isSome
    ∧ (rewind p true).clause = none ∧ (rewind p true).lset = p.lset ∧ (rewind p true).exec = rc.exec &&& p.lset
    ∧ (rewind p true).stack = p.stack ∧ (rewind p true).wait = .none := by
  have alone : p.lset ||| 0 = p.lset := BitVec.or_zero
  unfold rewind
  rw [hr]
  dsimp only
  rw [hd, Nat.sub_self, List.take_zero, List.foldl_nil, alone]
  cases rc.recipe with
  | none => exact ⟨rfl, rfl, rfl, rfl, rfl, rfl, rfl, rfl⟩
  | some a => exact ⟨rfl, rfl, rfl, rfl, rfl, rfl, rfl, rfl⟩

/-- The physical registers of the live slots of a region. -/
def RegionRec.liveRegs (rc : RegionRec) : List Nat := rc.live.flatMap fun l => (List.range l.2).map fun i => l.1 + i

theorem RegionRec.mem_liveRegs {rc : RegionRec} {x : Nat} : x ∈ rc.liveRegs ↔ ∃ r ∈ rc.live, r.1 ≤ x ∧ x < r.1 + r.2 := by
  simp only [liveRegs, List.mem_flatMap, List.mem_map, List.mem_range]
  refine exists_congr fun r => and_congr_right fun _ => ⟨fun ⟨i, hi, e⟩ => by omega, fun ⟨hlo, hhi⟩ => ⟨x - r.1, by omega, by omega⟩⟩

section
variable {s : State} {g : Group} {p : Split} {rc : RegionRec}

theorem liveRegs_open (h : OpenRegion g p rc) : g.liveRegs = some rc.liveRegs := by
  simp [Group.liveRegs, h.splits, h.trap, h.ended, h.region, RegionRec.liveRegs]

theorem cancelledDrains_idle (hj : (s.core g.ref.core).jobs = []) : s.cancelledDrains g = g := by
  unfold State.cancelledDrains
  dsimp only
  rw [hj]
  rfl

/-- Every register but the V registers is kept; the split is rewound. -/
theorem groupImage_record (h : OpenRegion g p rc) (hj : (s.core g.ref.core).jobs = []) :
    ∃ g', s.groupImage g = g' ∧ g'.s = g.s ∧ g'.m = g.m ∧ g'.fpflags = g.fpflags ∧ g'.fpmode = g.fpmode ∧ g'.priv = g.priv
      ∧ g'.allot = g.allot ∧ g'.gidx = g.gidx ∧ g'.v = (g.v.filter fun e => rc.liveRegs.contains (e.1 / 32))
      ∧ g'.splits = [{ rewind p true with readySince := 0, aged := 0, yieldTo := 0 }] := by
  refine ⟨_, rfl, ?_⟩
  unfold State.groupImage
  rw [cancelledDrains_idle hj]
  extract_lets g1 live elect keep rewound kept serials frame
  have hlive : live = some rc.liveRegs := liveRegs_open h
  have hkeep : keep p = { rewind p true with readySince := 0, aged := 0, yieldTo := 0 } := if_neg (by simp [h.ended, h.region])
  rw [hlive, ← hkeep]
  exact ⟨rfl, rfl, rfl, rfl, rfl, rfl, rfl, rfl, congrArg (List.map keep) h.splits⟩

/-- The live slots are kept, and no other. -/
theorem groupImage_getP (h : OpenRegion g p rc) (hj : (s.core g.ref.core).jobs = []) (x l : Nat) (hl : l < 32) :
    (s.groupImage g).getP x l = if ∃ r ∈ rc.live, r.1 ≤ x ∧ x < r.1 + r.2 then g.getP x l else 0 := by
  obtain ⟨g', rfl, -, -, -, -, -, -, -, hv, -⟩ := groupImage_record h hj
  have slot : (32 * x + l) / 32 = x := by omega
  rw [Group.getP, hv, sget_filter_key 0 (fun k => rc.liveRegs.contains (k / 32)), slot]
  exact if_congr (List.contains_iff_mem.trans RegionRec.mem_liveRegs) rfl rfl

end

/-! ## The steps of flashback where nothing else is under way -/

theorem undoScatter_idle {s : State} {r : GRef} (hj : (s.core r.core).jobs = []) : s.undoScatter r = s := by
  rw [State.undoScatter, hj]
  cases s.group? r <;> rfl

/-- The core without the boards of a group. -/
def Core.dropBoards (c : Core) (r : GRef) : Core :=
  { c with slots := upd (fun e : Nat × Slot => e.2.owner == some r) (fun e => (e.1, e.2.dropBoard)) c.slots }

/-- Without operations and boards, a core's record is all that preemption writes. -/
theorem preemptBoards_idle {s : State} {r : GRef} (hs : (s.core r.core).slots = []) (ha : s.arms = []) (ho : s.ops = []) :
    s.preemptBoards r = { s.updCore r.core (Core.dropBoards · r) with arms := [] } := by
  unfold State.preemptBoards
  extract_lets bs as s1 s2 s3
  have hbs : bs = [] := by simp only [bs, hs, List.filterMap_nil]
  have has : as = [] := by simp only [as, ha, List.filter_nil, List.map_nil]
  have hs3 : s3 = s2 := by simp only [s3, hbs, has, List.append_nil, List.foldl_nil]
  have harms : s1.arms = [] := ha
  have hops : s2.ops = [] := ho
  rw [hs3, hops]
  change { s1 with arms := s1.arms.filter _ } = _
  rw [harms]
  rfl

/-- The one live group g of the one workgroup w is all that runs, and its core holds no records, slots or jobs. -/
structure Alone (s : State) (w : Workgroup) (g : Group) : Prop where
  wgs : s.wgs = [w]
  resident : w.exited = false
  groups : s.groups = [g]
  live : g.status = .live
  cx : g.cx = w.cx
  kernel : g.kernel = w.kernel
  wg : g.wg = w.l
  pins : g.pins = []
  ops : s.ops = []
  arms : s.arms = []
  recs : (s.core g.ref.core).recs = []
  slots : (s.core g.ref.core).slots = []
  jobs : (s.core g.ref.core).jobs = []

/-- A group context becomes FREE on a core that has nothing to undo. -/
theorem freeGroup_sole {u : State} {g : Group} (hj : (u.core g.ref.core).jobs = []) (hg : u.groups = [g]) :
    (u.freeGroup g.ref).groups = [] ∧ (u.freeGroup g.ref).wgs = u.wgs ∧ (u.freeGroup g.ref).images = u.images := by
  unfold State.freeGroup
  rw [undoScatter_idle hj]
  refine ⟨?_, rfl, rfl⟩
  change u.groups.filter _ = []
  simp [hg]

/-- Behind the preemption of its boards the group is still all that runs. -/
theorem preempted_alone {s : State} {w : Workgroup} {g : Group} (h : Alone s w g) :
    let u := s.preemptBoards g.ref
    u.groups = [g] ∧ u.wgs = [w] ∧ u.images = s.images ∧ u.ops = [] ∧ (u.core g.ref.core).recs = [] ∧ (u.core g.ref.core).slots = []
      ∧ (u.core g.ref.core).jobs = [] := by
  have core : (s.updCore g.ref.core (Core.dropBoards · g.ref)).core g.ref.core = (s.core g.ref.core).dropBoards g.ref :=
    core_updCore_same s g.ref.core fun _ => rfl
  dsimp only
  rw [preemptBoards_idle h.slots h.arms h.ops]
  refine ⟨h.groups, h.wgs, rfl, h.ops, ?_⟩
  change ((s.updCore g.ref.core (Core.dropBoards · g.ref)).core g.ref.core).recs = [] ∧
    ((s.updCore g.ref.core (Core.dropBoards · g.ref)).core g.ref.core).slots = [] ∧
    ((s.updCore g.ref.core (Core.dropBoards · g.ref)).core g.ref.core).jobs = []
  rw [core]
  refine ⟨h.recs, ?_, h.jobs⟩
  rw [Core.dropBoards, h.slots, upd_nil]

/-- The image of the one workgroup and its group. -/
def State.imageAlone (s : State) (reason : SaveReason) (w : Workgroup) (g : Group) : Image where
  cx := w.cx
  reason := reason
  groups := [(s.preemptBoards g.ref).groupImage g]
  wgs := [w]
  records := []
  slots := []
  ops := []

section
variable {s : State} {w : Workgroup} {g : Group} (h : Alone s w g)
include h

/-- The set of the one workgroup leaves the core whole for one image. -/
theorem flashbackSet_alone (reason : SaveReason) {q : Workgroup → Bool} (hq : q w = true) :
    (s.flashbackSet w.cx reason q).groups = [] ∧ (s.flashbackSet w.cx reason q).wgs = []
    ∧ (s.flashbackSet w.cx reason q).images = s.images ++ [s.imageAlone reason w g] := by
  unfold State.flashbackSet
  extract_lets s' wgs mine ending left refs filled s1 gs s2 im s3 s4
  have hs' : s' = s := by
    simp only [s', h.groups, List.filter_cons, List.filter_nil, h.cx, BEq.rfl, if_true, List.foldl_cons, List.foldl_nil]
    exact (ite_eq_right_iff.mpr fun _ => undoScatter_idle h.jobs)
  have hwgs : wgs = [w] := by simp [wgs, hs', h.wgs, h.resident, hq]
  have hmine : mine g = true := by simp [mine, hwgs, h.cx, h.kernel, h.wg]
  have hending : ending = [] := by simp [ending, hs', h.groups, h.live]
  have hleft : left = s := by simp only [left, hending, hs', List.foldl_nil]
  have hrefs : refs = [g.ref] := by simp [refs, hleft, h.groups, hmine, h.live]
  have hfilled : filled = s := by simp only [filled, hrefs, hleft, List.foldl_cons, List.foldl_nil, h.recs]
  have hs1 : s1 = s.preemptBoards g.ref := by simp only [s1, hrefs, hfilled, List.foldl_cons, List.foldl_nil]
  obtain ⟨groups, wgs', images, ops, recs, slots, jobs⟩ := preempted_alone h
  rw [← hs1] at groups wgs' images ops recs slots jobs
  have hgs : gs = [g] := by simp [gs, groups, hrefs]
  have hs2 : s2 = s1 := by simp only [s2, hgs, List.foldl_cons, List.foldl_nil, h.pins, List.filter_nil]
  have him : im = s.imageAlone reason w g := by
    simp only [im, State.imageAlone, ← hs1, hgs, hwgs, ops, State.recImages, recs, slots, List.map_cons, List.map_nil, List.flatMap_cons,
      List.flatMap_nil, List.filter_nil, List.append_nil]
  have hs3 : s3.groups = [g] := by simp [s3, hs2, groups, h.live]
  have last : s4 = (s3.freeWatches ((s2.ops.filter fun o => refs.contains o.grp).map (·.id))).freeGroup g.ref := by
    simp only [s4, hrefs, List.foldl_cons, List.foldl_nil]
  clear_value s2
  obtain ⟨u, freed, groupsU, wgsU, imagesU, coresU⟩ : ∃ u : State, s4 = u.freeGroup g.ref ∧ u.groups = [g] ∧ u.wgs = s2.wgs
      ∧ u.images = s2.images ∧ u.cores = s2.cores :=
    ⟨_, last, hs3, rfl, rfl, rfl⟩
  have jobsU : (u.core g.ref.core).jobs = [] := by
    rw [← hs2] at jobs
    unfold State.core at jobs ⊢
    rw [coresU, jobs]
  obtain ⟨groups4, wgs4, images4⟩ := freeGroup_sole jobsU groupsU
  rw [← freed] at groups4 wgs4 images4
  rw [wgsU, hs2, wgs'] at wgs4
  rw [imagesU, hs2, images] at images4
  refine ⟨groups4, ?_, ?_⟩
  · change s4.wgs.filter _ = []
    simp [wgs4, h.resident, hq]
  · change (if wgs.isEmpty then s4.images else s4.images ++ [im]) = _
    rw [if_neg (by simp [hwgs]), images4, him]

/-- Flashback of the one workgroup is that of its set. -/
theorem flashback_alone (reason : SaveReason) {q : Workgroup → Bool} (hq : q w = true) :
    s.flashback w.cx reason q = s.flashbackSet w.cx reason fun v => s.sameSet w v := by
  unfold State.flashback
  simp [h.wgs, h.resident, hq]

end

end Sys2Proof.Machine
end

section
/-! PROOFS. Migration, aging and the rate limiters (spec/06_kernel.md R102, R112, R114, R115), and the statement on budgets and flashback. -/

namespace Sys2Proof.Machine

/-! ## A set leaves its core (R102, R114, R143 to R145) -/

/-- From s to t the one workgroup w of the one group g, in which the region rc of the split p is open, has left its core whole for an image:
the image keeps the live slots, S, M and the flags, and the split as its region was entered. -/
def LeavesCore (s t : State) (w : Workgroup) (g : Group) (p : Split) (rc : RegionRec) (reason : SaveReason) : Prop :=
  ∃ (im : Image) (g' : Group) (q : Split), SameMem s t ∧ t.groups = [] ∧ t.wgs = []
    ∧ t.kernels = s.kernels ∧ t.images = s.images ++ [im] ∧ im.cx = w.cx ∧ im.reason = reason ∧ im.wgs = [w] ∧ im.groups = [g']
    ∧ im.ops = [] ∧ im.records = [] ∧ g'.s = g.s ∧ g'.m = g.m ∧ g'.fpflags = g.fpflags ∧ g'.fpmode = g.fpmode ∧ g'.priv = g.priv
    ∧ g'.allot = g.allot ∧ g'.gidx = g.gidx
    ∧ (∀ x l, l < 32 → g'.getP x l = if ∃ r ∈ rc.live, r.1 ≤ x ∧ x < r.1 + r.2 then g.getP x l else 0)
    ∧ g'.splits = [q] ∧ q.id = p.id ∧ q.pc = rc.recipe.getD rc.entry ∧ q.recipe = rc.recipe.isSome ∧ q.clause = none ∧ q.lset = p.lset
    ∧ q.exec = rc.exec &&& p.lset ∧ q.stack = p.stack ∧ q.wait = .none

section
variable {s : State} {w : Workgroup} {g : Group} {p : Split} {rc : RegionRec} (h : Alone s w g) (ho : OpenRegion g p rc)
include h ho

theorem flashback_leaves (reason : SaveReason) {q : Workgroup → Bool} (hq : q w = true) :
    LeavesCore s (s.flashback w.cx reason q) w g p rc reason := by
  have kept := flashback_beyond s w.cx reason q
  simp only [State.beyond, Prod.mk.injEq] at kept
  obtain ⟨-, kernels, mem⟩ := kept
  have set : s.sameSet w w = true := by simp [State.sameSet]
  obtain ⟨groups, wgs, images⟩ := flashbackSet_alone h reason set
  rw [← flashback_alone h reason hq] at groups wgs images
  obtain ⟨-, -, -, -, -, -, jobs⟩ := preempted_alone h
  have slots := groupImage_getP ho jobs
  obtain ⟨g', e, regs, masks, flags, mode, priv, allot, gidx, -, splits⟩ := groupImage_record ho jobs
  rw [e] at slots
  obtain ⟨id, pc, recipe, clause, lset, exec, stack, wait⟩ := rewind_flat ho.region ho.depth
  exact ⟨_, g', _, fun a => congrArg (sget 0 · a) mem, groups, wgs, kernels, images, rfl, rfl, rfl, congrArg ([·]) e, rfl, rfl, regs, masks,
    flags, mode, priv, allot, gidx, slots, splits, id, pc, recipe, clause, lset, exec, stack, wait⟩

/-- THERMAL_MIGRATION of a workgroup long enough on a core above its threshold. -/
theorem thermalMigration_leaves {k : Kernel} (hk : s.kernel? w.cx w.kernel = some k) (hc : k.kd.coop = false) (hh : w.core ∈ s.hot)
    (hs : w.since + 11250000 ≤ s.cycle) : ∃ t, exec (.thermalMigration 0) s = .next t ∧ LeavesCore s t w g p rc .migrate := by
  refine ⟨_, ?_, flashback_leaves h ho .migrate (q := fun v => v.kernel == w.kernel && v.l == w.l) (by simp)⟩
  change execThermalMigration 0 s = _
  rw [execThermalMigration, h.wgs, List.getElem?_cons_zero]
  dsimp only
  rw [hk]
  refine congrArg _ (if_neg ?_)
  simp [h.resident, hc, hh, msCycles, Nat.not_lt.mpr hs]

/-- BUDGET_EXHAUSTED of an RCB over the workgroup's kernel parks its set. -/
theorem budgetExhausted_leaves {a b : Nat} {r : Rcb} (hr : s.rcb? w.cx a = some r) (hb : budgetOf (s.rcbChain w.cx 8 a) = some b)
    (hp : r.parked = false) (hc : b ≤ r.charge) (hu : ∃ x ∈ s.kernelChain w.cx w.kernel, x.addr = a) :
    ∃ t, exec (.budgetExhausted w.cx a) s = .next t ∧ LeavesCore s t w g p rc .park := by
  have parked : Alone (s.parkRcb w.cx a) w g := ⟨h.wgs, h.resident, h.groups, h.live, h.cx, h.kernel, h.wg, h.pins, h.ops, h.arms, h.recs,
    h.slots, h.jobs⟩
  have under : (s.parkRcb w.cx a).underRcb w.cx a w = true := by
    have chain : (s.parkRcb w.cx a).kernelChain w.cx w.kernel
        = (s.kernelChain w.cx w.kernel).map fun r => if r.cx == w.cx && r.addr == a then { r with parked := true } else r :=
      rcbChain_updRcb (f := fun r => { r with parked := true }) (fun _ => rfl) (fun _ => rfl) (fun _ => rfl) _ _ _
    obtain ⟨x, hx, ha⟩ := hu
    rw [State.underRcb, chain, List.any_map, BEq.rfl, Bool.true_and, List.any_eq_true]
    refine ⟨x, hx, ?_⟩
    rw [Function.comp_apply, beq_iff_eq, ← ha]
    split <;> rfl
  exact ⟨_, exec_budgetExhausted_spent hr hb hp hc, flashback_leaves parked ho .park under⟩

end

/-- A workgroup of a cooperative kernel, on a cooler core, or not long enough on it stays. -/
theorem thermalMigration_stays {s : State} {w : Workgroup} {k : Kernel} (hw : s.wgs = [w]) (hk : s.kernel? w.cx w.kernel = some k)
    (hn : k.kd.coop = true ∨ w.core ∉ s.hot ∨ s.cycle < w.since + 11250000) : exec (.thermalMigration 0) s = .next s := by
  change execThermalMigration 0 s = _
  rw [execThermalMigration, hw, List.getElem?_cons_zero]
  dsimp only
  rw [hk]
  refine congrArg _ (if_pos ?_)
  rcases hn with e | e | e
  · simp [e]
  · simp [e]
  · simp [e, msCycles]

/-! ## Aging (R112) -/

section
variable {s : State} {core gctx split : Nat} {g : Group} {p : Split}

theorem exec_classAging (hg : s.group? { core := core, gctx := gctx } = some g) (hp : g.split? split = some p) :
    exec (.classAging core gctx split) s = .next (if g.status == .live && decide (s.cycle ≥ p.readySince + 4096 * (p.aged + 1)) then
      s.updSplit g.ref split fun p => { p with aged := p.aged + 1 } else s) := by
  change execClassAging core gctx split s = _
  rw [execClassAging, hg]
  dsimp only
  rw [hp]

/-- CLASS_AGING counts another 4,096 cycles once they have passed. -/
theorem classAging_spec (hg : s.group? { core := core, gctx := gctx } = some g) (hp : g.split? split = some p) :
    let due := g.status = .live ∧ p.readySince + 4096 * (p.aged + 1) ≤ s.cycle
    (due → ∃ t g', exec (.classAging core gctx split) s = .next t ∧ OnlyGroup s t g g' ∧ OnlySplit g g' p { p with aged := p.aged + 1 })
    ∧ (¬ due → exec (.classAging core gctx split) s = .next s) := by
  have step := exec_classAging hg hp
  obtain rfl := split?_id hp
  have hg' : s.group? g.ref = some g := group?_ref hg ▸ hg
  refine ⟨fun ⟨hl, hd⟩ => ?_, fun hn => ?_⟩
  · rw [if_pos (by simp [hl, hd])] at step
    exact ⟨_, _, step, onlyGroup_updGroup hg' _ fun _ _ => rfl, onlySplit_updSplit hp (fun p => { p with aged := p.aged + 1 }) fun _ _ => rfl⟩
  · rw [if_neg (by simpa using hn)] at step
    exact step

end

/-! ## Rate limiters (R115) -/

theorem bucketOf_setBucket (c : Context) (cls : Nat) (b : Bucket) : bucketOf (c.setBucket cls b) cls = b := by
  have found := find?_putFirst (p := fun x : Nat × Bucket => x.1 == cls) (x := (cls, b)) (by simp) c.buckets
  rw [bucketOf, Context.setBucket, found]
  rfl

theorem bucketOf_setBucket_other (c : Context) {cls n : Nat} (hn : n ≠ cls) (b : Bucket) : bucketOf (c.setBucket cls b) n = bucketOf c n := by
  have found := find?_putFirst_other (p := fun x : Nat × Bucket => x.1 == cls) (q := fun x : Nat × Bucket => x.1 == n) (x := (cls, b))
    (by simpa using hn.symm) (fun y hy => by simp [(beq_iff_eq.mp hy), hn.symm]) c.buckets
  rw [bucketOf, Context.setBucket, found]
  rfl

/-- From s to t the bucket of a class of context c has become b; no other bucket, context or byte of memory has changed. -/
def SetsBucket (s t : State) (cx cls : Nat) (c : Context) (b : Bucket) : Prop :=
  ∃ c', t.ctx? cx = some c' ∧ c' = { c with buckets := c'.buckets } ∧ bucketOf c' cls = b
    ∧ (∀ n, n ≠ cls → bucketOf c' n = bucketOf c n) ∧ SameMem s t ∧ ∀ x, x ≠ cx → t.ctx? x = s.ctx? x

theorem setsBucket_updCtx {s : State} {cx cls : Nat} {c : Context} {b : Bucket} {f : Context → Context} (hc : s.ctx? cx = some c)
    (hf : ∀ c, f c = { c with buckets := (f c).buckets }) (hb : bucketOf (f c) cls = b)
    (ho : ∀ n, n ≠ cls → bucketOf (f c) n = bucketOf c n) : SetsBucket s (s.updCtx cx f) cx cls c b := by
  have id (c : Context) : (f c).cxid = c.cxid := by rw [hf c]
  exact ⟨f c, ctx?_updCtx f id hc, hf c, hb, ho, fun _ => rfl, fun _ hx => ctx?_updCtx_other f id hx⟩

/-- RATE_LIMITER_GO names its context and class (R115). -/
def State.rateNamed (s : State) (cx cls : Nat) : State :=
  { s with bar := { s.bar with rateCxid := BitVec.ofNat 16 cx, rateClass := BitVec.ofNat 3 cls } }

/-- The bucket b behind a GO at a time in µs: RATE and BURST are the registers', and what it has earned stays, within the new depth (log
25). -/
def Bucket.reloaded (b : Bucket) (rate burst us : Nat) : Bucket :=
  { rate := rate, burst := burst, count := min (if b.rate = 0 then b.count else (b.accrue us).count) (1024 * burst), lastUs := us }

section
variable {s : State} {cx cls : Nat}

theorem exec_rateLimiterGo (hx : cx < 65536) (hk : cls < 8) (hr : s.modl.recovery = false) :
    exec (.rateLimiterGo cx cls) s = .next (if 5 ≤ cls then s.rateNamed cx cls else (s.rateNamed cx cls).updCtx cx fun c =>
      c.setBucket cls ((bucketOf c cls).reloaded s.bar.rate.toNat (max 1 s.bar.burst.toNat) s.nowUs)) := by
  have step : exec (.rateLimiterGo cx cls) s = .next (s.rateGo (cx % 65536) (cls % 8)) := rfl
  rw [step, Nat.mod_eq_of_lt hx, Nat.mod_eq_of_lt hk, State.rateGo, hr]
  rfl

theorem exec_rateLimiterGo_reserved (hx : cx < 65536) (hk : cls < 8) (hr : s.modl.recovery = false) (h5 : 5 ≤ cls) :
    exec (.rateLimiterGo cx cls) s = .next (s.rateNamed cx cls) := by
  rw [exec_rateLimiterGo hx hk hr, if_pos h5]

theorem rateLimiterGo_sets (hx : cx < 65536) (hr : s.modl.recovery = false) (h5 : cls < 5) {c : Context} (hc : s.ctx? cx = some c) :
    ∃ t, exec (.rateLimiterGo cx cls) s = .next t
      ∧ SetsBucket s t cx cls c ((bucketOf c cls).reloaded s.bar.rate.toNat (max 1 s.bar.burst.toNat) s.nowUs) := by
  refine ⟨_, (exec_rateLimiterGo hx (by omega) hr).trans (congrArg _ (if_neg (by omega))), ?_⟩
  exact setsBucket_updCtx (s := s.rateNamed cx cls) hc (fun _ => rfl) (bucketOf_setBucket ..) fun n hn => bucketOf_setBucket_other c hn _

/-- TOKEN_ACCRUAL leaves an unlimited bucket as it is. -/
theorem tokenAccrual_unlimited {c : Context} (hc : s.ctx? cx = some c) (h0 : (bucketOf c cls).rate = 0) :
    ∃ t, exec (.tokenAccrual cx cls) s = .next t ∧ SetsBucket s t cx cls c (bucketOf c cls) := by
  refine ⟨_, rfl, setsBucket_updCtx hc (fun c => ?_) ?_ fun n _ => ?_⟩
  · dsimp only
    split <;> rfl
  · simp only [h0, if_true]
  · simp only [h0, if_true]

theorem tokenAccrual_limited {c : Context} (hc : s.ctx? cx = some c) (h0 : (bucketOf c cls).rate ≠ 0) :
    ∃ t, exec (.tokenAccrual cx cls) s = .next t ∧ SetsBucket s t cx cls c ((bucketOf c cls).accrue s.nowUs) := by
  refine ⟨_, rfl, setsBucket_updCtx hc (fun c => ?_) ?_ fun n hn => ?_⟩
  · dsimp only
    split <;> rfl
  · simp only [h0, if_false, bucketOf_setBucket]
  · simp only [h0, if_false, bucketOf_setBucket_other c hn]

end

/-! ## The statement -/

/-- Settles O46: each event by its equation above; flashback of the one workgroup by what its set leaves of the core and what the image keeps
of a group whose region is open. That GO keeps what a bucket has earned, within the new depth, is deduced in the model (log 25). -/
theorem budgetsAndFlashback : Obligations.BudgetsAndFlashback := by
  unfold Obligations.BudgetsAndFlashback
  refine ⟨⟨fun s cx addr r hr => budgetExhausted_spec hr, fun s cx c r hc hr => ⟨?waits, ?due, ?idle⟩,
    fun s core gctx split g p hg hp => classAging_spec hg hp, fun s cx cls hx hk hr => ⟨?reserved, fun c hc => ⟨?go, ?unlimited, ?limited⟩⟩⟩,
    fun s w g p rc hw he hg hl hcx hkid hwg ht hsp hend hreg hd hpins hops _ harms _ hrecs hslots hjobs => ?_⟩
  case waits => exact exec_rcbPeriodBoundary_waits hc hr
  case due => exact rcbPeriodBoundary_due hc hr
  case idle => exact fun before dt hg hn a x hx => chargePeriods_idle hc hr hg hn dt a hx
  case reserved => exact exec_rateLimiterGo_reserved hx hk hr
  case go =>
    intro h5
    obtain ⟨t, step, c', sets⟩ := rateLimiterGo_sets hx hr h5 hc
    exact ⟨t, c', step, sets⟩
  case unlimited =>
    intro h0
    obtain ⟨t, step, c', sets⟩ := tokenAccrual_unlimited hc h0
    exact ⟨t, c', step, sets⟩
  case limited =>
    intro h0
    obtain ⟨t, step, c', sets⟩ := tokenAccrual_limited hc h0
    exact ⟨t, c', step, sets⟩
  have alone : Alone s w g := ⟨hw, he, hg, hl, hcx, hkid, hwg, hpins, hops, harms, hrecs, hslots, hjobs⟩
  have opened : OpenRegion g p rc := ⟨hsp, ht, hend, hreg, hd⟩
  refine ⟨fun k hk hc hh hs => ?_, fun k => thermalMigration_stays hw, fun addr b r hr hb hp hc hu => ?_⟩
  · obtain ⟨t, step, im, g', q, leaves⟩ := thermalMigration_leaves alone opened hk hc hh hs
    exact ⟨t, im, g', q, step, leaves⟩
  · obtain ⟨t, step, im, g', q, leaves⟩ := budgetExhausted_leaves alone opened hr hb hp hc hu
    exact ⟨t, im, g', q, step, leaves⟩

end Sys2Proof.Machine
end

section
/-! PROOFS. The uniform and mask instructions (spec/07_group.md R131, R132). -/

namespace Sys2Proof.Machine

/-- Fewer registers are named. -/
theorem Readable.mono {s : State} {g : Group} {a b : Uses} (h : Readable s g b) (hv : a.v ⊆ b.v) (hs : a.s ⊆ b.s) (hm : a.m ⊆ b.m) :
    Readable s g a where
  window r hr := h.window r (hv hr)
  slots o ho hg r hr := h.slots o ho hg r (hv hr)
  uniform o ho hg r hr := h.uniform o ho hg r (hs hr)
  masks o ho hg r hr := h.masks o ho hg r (hm hr)

/-! ## Words as the numbers of R131 -/

theorem satS32_eq_clampTo (x : Int) : satS32 x = BitVec.ofInt 32 (clampTo (-(2 ^ 31)) (2 ^ 31 - 1) x) := by
  unfold satS32 clampTo
  congr 1
  omega

theorem add_eq_ofNat (x y : Word) : x + y = BitVec.ofNat 32 (x.toNat + y.toNat) := by
  rw [BitVec.ofNat_add, BitVec.ofNat_toNat, BitVec.ofNat_toNat]
  simp

theorem sub_eq_ofInt (x y : Word) : x - y = BitVec.ofInt 32 (x.toInt - y.toInt) := by
  apply BitVec.eq_of_toInt_eq
  rw [BitVec.toInt_sub, BitVec.toInt_ofInt]

theorem mul_eq_ofNat (x y : Word) : x * y = BitVec.ofNat 32 (x.toNat * y.toNat) := by
  apply BitVec.eq_of_toNat_eq
  simp

/-- The upper half of a 64-bit number. -/
theorem extractLsb'_high_ofInt (z : Int) : (BitVec.ofInt 64 z).extractLsb' 32 32 = BitVec.ofInt 32 (z / 2 ^ 32) := by
  apply BitVec.eq_of_toNat_eq
  rw [BitVec.extractLsb'_toNat, BitVec.toNat_ofInt, BitVec.toNat_ofInt, Nat.shiftRight_eq_div_pow]
  omega

/-- SMUL.hi keeps the upper half of the signed product. -/
theorem mulHigh_eq (x y : Word) :
    BitVec.ofInt 32 (x.toInt * y.toInt / 2 ^ 32) = (x.signExtend 64 * y.signExtend 64).extractLsb' 32 32 := by
  rw [BitVec.signExtend, BitVec.signExtend, ← BitVec.ofInt_mul, extractLsb'_high_ofInt]

theorem shlW_eq (x y : Word) :
    shlW x y = if y.toNat % 64 ≥ 32 then 0 else BitVec.ofNat 32 (x.toNat * 2 ^ (y.toNat % 64)) := by
  unfold shlW
  generalize y.toNat % 64 = n
  split
  next h => exact BitVec.shiftLeft_eq_zero h
  next =>
    apply BitVec.eq_of_toNat_eq
    rw [BitVec.toNat_shiftLeft, Nat.shiftLeft_eq, BitVec.toNat_ofNat]

theorem shrW_eq (x y : Word) :
    shrW x y = if y.toNat % 64 ≥ 32 then 0 else BitVec.ofNat 32 (x.toNat / 2 ^ (y.toNat % 64)) := by
  unfold shrW
  generalize y.toNat % 64 = n
  split
  next h => exact BitVec.ushiftRight_eq_zero h
  next =>
    apply BitVec.eq_of_toNat_eq
    rw [BitVec.toNat_ushiftRight, Nat.shiftRight_eq_div_pow, BitVec.toNat_ofNat, Nat.mod_eq_of_lt]
    exact (Nat.div_le_self _ _).trans_lt x.isLt

/-- A shift by 32 or more fills the word with the sign. -/
theorem sarW_eq (x y : Word) :
    sarW x y = if y.toNat % 64 ≥ 32 then (if x.msb then BitVec.allOnes 32 else 0)
      else BitVec.ofInt 32 (x.toInt / 2 ^ (y.toNat % 64)) := by
  unfold sarW
  generalize y.toNat % 64 = n
  split
  next h =>
    apply BitVec.eq_of_getLsbD_eq
    intro i hi
    rw [BitVec.getLsbD_sshiftRight, if_neg (by omega), decide_eq_false (by omega), Bool.not_false, Bool.true_and]
    cases x.msb
    · rw [if_neg Bool.false_ne_true]
      exact BitVec.getLsbD_zero.symm
    · rw [if_pos rfl, BitVec.getLsbD_allOnes, decide_eq_true hi]
  next => rw [BitVec.sshiftRight, Int.shiftRight_eq_div_pow]; rfl

/-! ### The smaller, the larger, and comparison -/

theorem ofInt_min (x y : Word) : BitVec.ofInt 32 (min x.toInt y.toInt) = if x.sle y then x else y := by
  rw [BitVec.sle_eq_decide, min_def, apply_ite (BitVec.ofInt 32), BitVec.ofInt_toInt, BitVec.ofInt_toInt]
  simp only [decide_eq_true_eq]

theorem ofInt_max (x y : Word) : BitVec.ofInt 32 (max x.toInt y.toInt) = if y.sle x then x else y := by
  rw [BitVec.sle_eq_decide, max_comm, max_def, apply_ite (BitVec.ofInt 32), BitVec.ofInt_toInt, BitVec.ofInt_toInt]
  simp only [decide_eq_true_eq]

theorem ofNat_min (x y : Word) : BitVec.ofNat 32 (min x.toNat y.toNat) = if x.ule y then x else y := by
  rw [BitVec.ule, min_def, apply_ite (BitVec.ofNat 32), BitVec.ofNat_toNat, BitVec.ofNat_toNat]
  simp only [decide_eq_true_eq, BitVec.setWidth_eq]

theorem ofNat_max (x y : Word) : BitVec.ofNat 32 (max x.toNat y.toNat) = if y.ule x then x else y := by
  rw [BitVec.ule, max_comm, max_def, apply_ite (BitVec.ofNat 32), BitVec.ofNat_toNat, BitVec.ofNat_toNat]
  simp only [decide_eq_true_eq, BitVec.setWidth_eq]

/-- Whether two words are equal may be asked before or after whether one is below the other. -/
theorem compare_eq {x y : Word} {below : Bool} {P : Prop} [Decidable P] (hb : below = true ↔ P) (hne : P → x ≠ y) :
    (if x = y then (0 : Word) else if below then 0xFFFFFFFF else 1) = if P then -1 else if x = y then 0 else 1 := by
  by_cases hp : P
  · rw [if_neg (hne hp), if_pos (hb.mpr hp), if_pos hp]
    rfl
  · rw [if_neg (mt hb.mp hp), if_neg hp]

/-! ## Results -/

section
variable {s : State} {g : Group} {p : Split} (h : Issues s g p)
include h

/-- A uniform instruction of two sources (ubin). -/
theorem ubin_result {i : Instr} {d a : BitVec 6} {b : UOpnd} {f : Word → Word → Word} {x : Word}
    (hu : Readable s g ((uopndUses b).append { s := [d.toNat, a.toNat] })) (he : exec i s = ubin s i d a b f)
    (e : f (g.getS a.toNat) (uval g b) = x) : UniResult s g p i d.toNat x :=
  uniOp_result h hu he e

/-- SLEA: the pair of the address and the offset, by 1 or by 4. -/
theorem slea_result (x4 : Bool) (d a : BitVec 5) (b : UOpnd)
    (hu : Readable s g ((uopndUses b).append { s := [2 * d.toNat, 2 * d.toNat + 1, 2 * a.toNat, 2 * a.toNat + 1] })) :
    ∃ t g', exec (.slea x4 d a b) s = .next t ∧ OnlyGroup s t g g' ∧ OnlyRegs g g' p (p.past (Instr.words (.slea x4 d a b)))
      ∧ g'.fpflags = g.fpflags
      ∧ g'.getSPair d.toNat = BitVec.ofInt 64 ((g.getSPair a.toNat).toInt + (if x4 then 4 else 1) * (uval g b).toInt)
      ∧ SameV g g' (fun _ _ => False) ∧ SameS g g' (fun r => r = 2 * d.toNat ∨ r = 2 * d.toNat + 1) ∧ SameM g g' (fun _ => False) := by
  let x : DWord := (uval g b).signExtend 64
  let sum : DWord := g.getSPair a.toNat + (if x4 then x * 4 else x)
  have scaled : (if x4 then x * 4 else x) = BitVec.ofInt 64 ((if x4 then 4 else 1) * (uval g b).toInt) := by
    cases x4
    · rw [if_neg Bool.false_ne_true, if_neg Bool.false_ne_true, one_mul]
      rfl
    · rw [if_pos rfl, if_pos rfl, mul_comm 4, BitVec.ofInt_mul]
      rfl
  have value : sum = BitVec.ofInt 64 ((g.getSPair a.toNat).toInt + (if x4 then 4 else 1) * (uval g b).toInt) := by
    rw [BitVec.ofInt_add, BitVec.ofInt_toInt, ← scaled]
  obtain ⟨hg, hr⟩ := regStep (.slea x4 d a b) (fun y => y.setSPair d.toNat sum) h fun _ => rfl
  have step : exec (.slea x4 d a b) s = .next ((s.updGroup g.ref fun y => y.setSPair d.toNat sum).done g p (.slea x4 d a b)) :=
    (Eq.refl (execSlea x4 d a b s)).trans (issue_next _ h hu)
  refine ⟨_, _, step, hg, hr, by simp [Group.setSPair], ?_, fun r l _ _ => ?_, fun r hn => ?_, fun r _ => ?_⟩
  · rw [← value]
    unfold Group.getSPair
    rw [getS_updSplit, getS_updSplit, getS_setSPair, getS_setSPair]
    simp [pairIs, pair_halves]
  · rw [getP_updSplit, Group.setSPair, getP_setS, getP_setS]
  · obtain ⟨low, high⟩ := not_or.mp hn
    rw [getS_updSplit, getS_setSPair, pairIs, if_neg low, if_neg high]
    rfl
  · rw [getM_updSplit, Group.setSPair, getM_setS, getM_setS]

end

/-- Settles O7: each instruction by the lemma of its shape; the words of the model are the numbers of R131. -/
theorem uniformAndMaskResults : Obligations.UniformAndMaskResults := by
  unfold Obligations.UniformAndMaskResults
  refine ⟨fun s g p d a b h hu => ?uniform, fun s g p x4 d a b h hu => slea_result h x4 d a b hu, fun s g p h => ?mask⟩
  case uniform =>
    refine ⟨?sadd, ?saddSat, ?ssub, ?ssubSat, ?smul, ?smulHi, ?sand, ?sor, ?sxor, ?sshl, ?sshr, ?sshrAr, ?smin, ?sminU, ?smax, ?smaxU, ?scmp,
      ?scmpU, ?smov⟩
    case sadd => exact ubin_result h hu (Eq.refl (execSadd false d a b s)) (add_eq_ofNat _ _)
    case saddSat => exact ubin_result h hu (Eq.refl (execSadd true d a b s)) (satS32_eq_clampTo _)
    case ssub => exact ubin_result h hu (Eq.refl (execSsub false d a b s)) (sub_eq_ofInt _ _)
    case ssubSat => exact ubin_result h hu (Eq.refl (execSsub true d a b s)) (satS32_eq_clampTo _)
    case smul => exact ubin_result h hu (Eq.refl (execSmul false d a b s)) (mul_eq_ofNat _ _)
    case smulHi => exact ubin_result h hu (Eq.refl (execSmul true d a b s)) (mulHigh_eq _ _)
    case sand => exact ubin_result h hu (Eq.refl (execSand d a b s)) rfl
    case sor => exact ubin_result h hu (Eq.refl (execSor d a b s)) rfl
    case sxor => exact ubin_result h hu (Eq.refl (execSxor d a b s)) rfl
    case sshl => exact ubin_result h hu (Eq.refl (execSshl d a b s)) (shlW_eq _ _)
    case sshr => exact ubin_result h hu (Eq.refl (execSshr false d a b s)) (shrW_eq _ _)
    case sshrAr => exact ubin_result h hu (Eq.refl (execSshr true d a b s)) (sarW_eq _ _)
    case smin => exact ubin_result h hu (Eq.refl (execSmin false d a b s)) (ofInt_min _ _).symm
    case sminU => exact ubin_result h hu (Eq.refl (execSmin true d a b s)) (ofNat_min _ _).symm
    case smax => exact ubin_result h hu (Eq.refl (execSmax false d a b s)) (ofInt_max _ _).symm
    case smaxU => exact ubin_result h hu (Eq.refl (execSmax true d a b s)) (ofNat_max _ _).symm
    case scmp =>
      exact ubin_result h hu (Eq.refl (execScmp false d a b s))
        (compare_eq BitVec.slt_iff_toInt_lt fun hlt e => hlt.ne (congrArg BitVec.toInt e))
    case scmpU =>
      exact ubin_result h hu (Eq.refl (execScmp true d a b s))
        (compare_eq BitVec.ult_iff_toNat_lt fun hlt e => hlt.ne (congrArg BitVec.toNat e))
    case smov =>
      have reads : Readable s g ((uopndUses b).append (useS [d.toNat])) :=
        hu.mono (List.Subset.refl _) (by simp [Uses.append, useS]) (List.Subset.refl _)
      exact uniOp_result h reads (Eq.refl (execSmov d b s)) rfl
  case mask =>
    refine ⟨fun d a b hu => ⟨?and, ?or, ?xor⟩, fun d a hu => ?not, fun d a hu => ⟨?m2s, ?cnt⟩, fun d a hu => ?s2m, fun d hu => ?exec⟩
    case and => exact maskOp_result h hu (Eq.refl (execMopAnd d a b s)) fun l _ => BitVec.getLsbD_and
    case or => exact maskOp_result h hu (Eq.refl (execMopOr d a b s)) fun l _ => BitVec.getLsbD_or
    case xor => exact maskOp_result h hu (Eq.refl (execMopXor d a b s)) fun l _ => BitVec.getLsbD_xor
    case not =>
      refine maskOp_result h hu (Eq.refl (execMopNot d a s)) fun l hl => ?_
      rw [BitVec.getLsbD_not, decide_eq_true hl, Bool.true_and]
    case m2s => exact uniOp_result h hu (Eq.refl (execMopM2s d a s)) rfl
    case cnt => exact uniOp_result h hu (Eq.refl (execMopCnt d a s)) (by rw [popc, List.countP_eq_length_filter])
    case s2m => exact maskOp_result h hu (Eq.refl (execMopS2m d a s)) fun l _ => rfl
    case exec => exact maskOp_result h hu (Eq.refl (execMopExec d s)) fun l _ => rfl

end Sys2Proof.Machine
end

section
/-! PROOFS. What an exception leaves of the group contexts: a fault adds no group (spec/06_kernel.md R103; spec/07_group.md R143; spec/08_trap.md
R148, R153, R158). -/

namespace Sys2Proof.Machine

/-! ## Engines change no group (R316) -/

theorem engineKey_groups (s : State) (cx va : Nat) (a : Acc) : (s.engineKey cx va a).1.groups = s.groups := by
  have walked := walk_groups s cx va a
  unfold State.engineKey
  split
  · split
    next e => rw [e] at walked; exact walked
    next e => rw [e] at walked; exact walked
  all_goals rfl

theorem engineNow_groups (s : State) (cx va : Nat) (a : Acc) : (s.engineNow cx va a).1.groups = s.groups := by
  have key := engineKey_groups s cx va a
  unfold State.engineNow
  split
  next e => rw [e] at key; exact key
  next s0 e =>
    rw [e] at key
    extract_lets s1
    have hs1 : s1.groups = s.groups := key
    split
    · exact hs1
    · split
      · exact hs1
      · dsimp only
        split
        · exact hs1
        · exact (markEntry_groups s1 _ _ _ _).trans hs1
  next e => rw [e] at key; exact key

theorem homeNote_groups (s : State) (k : LineKey) : (s.homeNote k).groups = s.groups := by
  unfold State.homeNote
  split
  · rfl
  · exact noteRead_groups s _ _ _

theorem engineRead_groups (s : State) (cx va n : Nat) : (s.engineRead cx va n).1.groups = s.groups := by
  unfold State.engineRead
  refine foldl_proj (fun q : State × Option (List Byte) => q.1.groups) (fun q p => ?_) _ (s, some [])
  have key := engineNow_groups q.1 cx p.1 .read
  dsimp only
  split
  · rfl
  · split
    next e => rw [e] at key; exact key
    next s1 k e =>
      rw [e] at key
      split <;> exact (homeNote_groups s1 k).trans key

theorem engineWrite_groups (s : State) (cx va : Nat) (bs : List Byte) : (s.engineWrite cx va bs).1.groups = s.groups := by
  unfold State.engineWrite
  refine foldl_proj (fun q : State × Bool => q.1.groups) (fun q p => ?_) _ (s, true)
  have key := engineNow_groups q.1 cx p.1 .write
  dsimp only
  split
  next e => rw [e] at key; exact key
  next s1 k e =>
    rw [e] at key
    exact (homeWrite_groups s1 k _ _).trans key

theorem writeRecord_groups (s : State) (cx : Nat) (chain : List Rcb) (f : RecFields) : (s.writeRecord cx chain f).groups = s.groups := by
  unfold State.writeRecord
  split
  · rfl
  next r _ =>
    extract_lets size
    have read := engineRead_groups s cx (r.addr + 0x24) 4
    split
    next s1 e => rw [e] at read; exact read
    next s1 bs e =>
      rw [e] at read
      extract_lets wr
      have written := engineWrite_groups s1 cx (r.fdlog + 64 * (wr % size)) (f.bytes s.gtime)
      split
      next s2 ok e2 =>
        rw [e2] at written
        extract_lets s3
        have hs3 : s3.groups = s.groups := (engineWrite_groups s2 _ _ _).trans (written.trans read)
        clear_value s3
        split <;> exact hs3

/-! ## Kernels end without a change of groups (R98, R103) -/

theorem cmdDone_groups (s : State) (iface seq : Nat) : (s.cmdDone iface seq).groups = s.groups := by
  unfold State.cmdDone
  split
  · rfl
  · split
    · rfl
    · exact ite_keeps State.groups rfl rfl

theorem meet_groups (s : State) (cx : Nat) (p : Dep → Bool) : (s.meet cx p).groups = s.groups := by rw [meet_state]

theorem kernelEnded_groups (s : State) (cx kid : Nat) (done : Bool) : (s.kernelEnded cx kid done).groups = s.groups := by
  unfold State.kernelEnded
  split
  · rfl
  next k _ =>
    extract_lets s1 s2 s3
    have hs2 : s2.groups = s1.groups := by
      cases hl : k.launchedBy with
      | none => simp only [s2, hl]
      | some l => simpa only [s2, hl] using cmdDone_groups s1 l.1 l.2
    have hs3 : s3.groups = s2.groups := ite_keeps State.groups rfl rfl
    exact (meet_groups s3 cx _).trans (hs3.trans hs2)

theorem tryDone_groups (s : State) (cx kid : Nat) : (s.tryDone cx kid).groups = s.groups := by
  unfold State.tryDone
  split
  · rfl
  · exact ite_keeps State.groups (kernelEnded_groups _ cx kid true) rfl

theorem countTrigger_groups (s : State) (cx kernel l : Nat) : (s.countTrigger cx kernel l).groups = s.groups := by
  unfold State.countTrigger
  split
  · exact ite_keeps State.groups rfl (ite_keeps State.groups (meet_groups _ cx _) rfl)
  · rfl

theorem takeExit_groups (s : State) (w : Workgroup) : (s.takeExit w).groups = s.groups :=
  ite_keeps State.groups rfl ((tryDone_groups _ w.cx w.kernel).trans (countTrigger_groups s w.cx w.kernel w.l))

theorem freeWatches_groups (s : State) (ids : List Nat) : (s.freeWatches ids).groups = s.groups := rfl

theorem stopCircuits_groups (s : State) (cx : Nat) : (s.stopCircuits cx).groups = s.groups := rfl

theorem dropImages_groups (s : State) (p : Image → Bool) : (s.dropImages p).groups = s.groups := by
  unfold State.dropImages
  extract_lets gone s1 dead lost
  exact foldl_keeps State.groups releaseSheaf_groups _ s

/-! ## No group is added -/

/-- Every group context that is taken in t was taken in s. -/
def NoNewGroup (s t : State) : Prop := t.groups.map Group.ref ⊆ s.groups.map Group.ref

namespace NoNewGroup

theorem of_groups {s t : State} (h : t.groups = s.groups) : NoNewGroup s t := by
  rw [NoNewGroup, h]
  exact List.Subset.refl _

theorem refl (s : State) : NoNewGroup s s := of_groups rfl

theorem trans {s t u : State} (h : NoNewGroup s t) (h' : NoNewGroup t u) : NoNewGroup s u := List.Subset.trans h' h

theorem ite {s a b : State} (c : Prop) [Decidable c] (ha : NoNewGroup s a) (hb : NoNewGroup s b) : NoNewGroup s (if c then a else b) := by
  split
  · exact ha
  · exact hb

theorem foldl {α : Type} (f : State → α → State) (h : ∀ s a, NoNewGroup s (f s a)) (l : List α) (s : State) :
    NoNewGroup s (l.foldl f s) := by
  induction l generalizing s with
  | nil => exact refl s
  | cons a t ih => exact (h s a).trans (ih _)

/-- A free group context stays free. -/
theorem group? {s t : State} (h : NoNewGroup s t) {r : GRef} (hr : s.group? r = none) : t.group? r = none := by
  rw [State.group?, List.find?_eq_none] at hr ⊢
  intro g hg e
  obtain ⟨g0, hg0, e0⟩ := List.mem_map.mp (h (List.mem_map_of_mem hg))
  exact hr g0 hg0 (by rwa [e0])

theorem updGroup (s : State) (r : GRef) {f : Group → Group} (hf : ∀ g, (f g).ref = g.ref) : NoNewGroup s (s.updGroup r f) :=
  map_upd_subset _ _ _ hf

theorem freeGroup (s : State) (r : GRef) : NoNewGroup s (s.freeGroup r) := by
  rw [NoNewGroup, freeGroup_groups]
  exact map_filter_subset _ _ _

theorem settle (s : State) (r : GRef) : NoNewGroup s (s.settle r) := by
  rw [State.settle]
  split
  · exact refl s
  · exact ite _ ((freeGroup s r).trans (of_groups rfl)) (refl s)

theorem finishOp (s : State) (id : Nat) : NoNewGroup s (s.finishOp id) := by
  unfold State.finishOp
  split
  · exact refl s
  next o _ =>
    extract_lets s1 s2
    have hs2 : NoNewGroup s s2 := ite _ (of_groups rfl) (of_groups rfl)
    exact hs2.trans (settle s2 _)

theorem withOpGroup (s : State) (o : PendOp) {f : Group → Group} (hf : ∀ g, (f g).ref = g.ref) : NoNewGroup s (s.withOpGroup o f) :=
  ite _ (updGroup s _ hf) (of_groups rfl)

theorem boardDone (s : State) (op : Nat) (lowest : Bool) (lap code : Nat) : NoNewGroup s (s.boardDone op lowest lap code) := by
  unfold State.boardDone
  split
  · exact refl s
  · split
    · extract_lets w s1
      have hs1 : NoNewGroup s s1 := ite _ (withOpGroup s _ fun g => g.setS_ref _ _) (refl s)
      exact hs1.trans (ite _ (of_groups rfl) (ite _ (of_groups rfl) (finishOp s1 op)))
    · exact refl s

theorem preemptBoards (s : State) (r : GRef) : NoNewGroup s (s.preemptBoards r) := by
  unfold State.preemptBoards
  extract_lets bs as s1 s2 s3
  have hs2 : NoNewGroup s s2 := of_groups rfl
  exact (hs2.trans (foldl _ (fun s _ => boardDone s _ _ _ _) _ s2)).trans (foldl _ (fun s _ => finishOp s _) _ s3)

theorem dropGroup (s : State) (r : GRef) (keep : OpKind → Bool) : NoNewGroup s (s.dropGroup r keep) := by
  unfold State.dropGroup
  split
  · exact refl s
  next g _ =>
    extract_lets s0 dead lost s1 ops s2
    have hs2 : NoNewGroup s0 s2 := map_filter_subset _ _ _
    exact ((of_groups (releaseSheaf_groups s g)).trans hs2).trans (freeGroup s2 r)

theorem fillRec (s : State) (core q : Nat) : NoNewGroup s (s.fillRec core q) := by
  rw [State.fillRec]
  split
  · exact refl s
  · split
    · exact refl s
    · exact of_groups rfl

theorem flashbackSet (s : State) (cx : Nat) (reason : SaveReason) (p : Workgroup → Bool) : NoNewGroup s (s.flashbackSet cx reason p) := by
  unfold State.flashbackSet
  extract_lets s' wgs mine ending left refs filled s1 gs s2 im s3 s4
  have hs' : NoNewGroup s s' := foldl _ (fun s g => ite _ (of_groups (undoScatter_groups s _)) (refl s)) _ s
  have hleft : NoNewGroup s' left := foldl _ (fun s r => dropGroup s r _) _ s'
  have hfilled : NoNewGroup left filled := foldl _ (fun s r => foldl _ (fun s e => ite _ (fillRec s _ _) (refl s)) _ s) _ left
  have hs1 : NoNewGroup filled s1 := foldl _ (fun s r => preemptBoards s r) _ filled
  have hs2 : NoNewGroup s1 s2 := foldl _ (fun s g => foldl _ (fun s q => of_groups (sendSh_groups s _)) _ s) _ s1
  have hs3 : NoNewGroup s2 s3 := map_filter_subset _ _ _
  have freed : NoNewGroup s3 (s3.freeWatches ((s2.ops.filter fun o => refs.contains o.grp).map (·.id))) :=
    of_groups (freeWatches_groups s3 _)
  have hs4 : NoNewGroup s3 s4 := freed.trans (foldl _ (fun s r => freeGroup s r) _ _)
  exact (((((hs'.trans hleft).trans hfilled).trans hs1).trans hs2).trans hs3).trans hs4

theorem flashback (s : State) (cx : Nat) (reason : SaveReason) (p : Workgroup → Bool) : NoNewGroup s (s.flashback cx reason p) :=
  foldl _ (fun s _ => ite _ (flashbackSet s cx reason _) (refl s)) _ s

/-! ### Faults (R85, R103, R158) -/

theorem abortKernel (s : State) (cx kid : Nat) : NoNewGroup s (s.abortKernel cx kid) := by
  unfold State.abortKernel
  extract_lets s'
  have hs' : NoNewGroup s s' := of_groups (foldl_keeps State.groups takeExit_groups _ s)
  split
  · exact hs'
  next gs fromWg kept s1 s2 s3 _ _ _ =>
    have hkept : NoNewGroup s' kept := of_groups rfl
    have hs1 : NoNewGroup kept s1 := foldl _ (fun s r => dropGroup s r _) _ kept
    have hs2 : NoNewGroup s1 s2 := of_groups (dropImages_groups s1 _)
    have hs3 : NoNewGroup s2 s3 := of_groups rfl
    have ended : NoNewGroup s3 (s3.kernelEnded cx kid false) := of_groups (kernelEnded_groups s3 cx kid false)
    exact ((((hs'.trans hkept).trans hs1).trans hs2).trans hs3).trans ended

theorem contextFault (s : State) (cx cause : Nat) : NoNewGroup s (s.contextFault cx cause) := by
  unfold State.contextFault
  extract_lets s'
  split
  · exact refl s
  next s1 _ _ _ =>
    have hs' : NoNewGroup s (s'.pauseQueues cx) := of_groups rfl
    have hs1 : NoNewGroup s s1 := (hs'.trans (flashback _ cx .fault fun _ => true)).trans (of_groups (stopCircuits_groups _ cx))
    exact ite _ (hs1.trans (of_groups rfl)) (of_groups rfl)

theorem kernelFault (s : State) (cx kernel : Nat) (f : RecFields) : NoNewGroup s (s.kernelFault cx kernel f) := by
  unfold State.kernelFault
  extract_lets chain s1
  have hs1 : NoNewGroup s s1 := of_groups (writeRecord_groups s cx chain f)
  exact ite _ hs1 (ite _ (hs1.trans (abortKernel s1 _ _)) (ite _ (hs1.trans (contextFault s1 _ _)) hs1))

end NoNewGroup

/-! ## Exceptions (R148, R153) -/

theorem killGroup_frees (s : State) (r : GRef) : (s.killGroup r).group? r = none :=
  List.find?_eq_none.mpr fun _ hg e => (mem_killGroup hg).2 (beq_iff_eq.mp e)

/-- A double trap frees the group context. -/
theorem doubleTrap_frees (s : State) (g : Group) (p : Split) (t : TrapIn) : (s.doubleTrap g p t).group? g.ref = none :=
  (NoNewGroup.kernelFault _ _ _ _).group? (killGroup_frees s g.ref)

/-- An exception that leaves its group leaves its window where it is. -/
theorem enterTrap_wb {s : State} {g h : Group} {p : Split} {t : TrapIn} (hg : s.group? g.ref = some g)
    (hh : (s.enterTrap g p t).group? g.ref = some h) : h.wb = g.wb := by
  unfold State.enterTrap at hh
  split at hh
  · rw [doubleTrap_frees] at hh
    cases hh
  · rw [group?_updGroup_same (g := g) _ (fun _ _ => by rfl)] at hh
    · exact Option.some.inj hh ▸ rfl
    · rw [← hg, State.group?, State.group?]
      dsimp only
      rw [frameWrite_groups, frameWrite_groups]

end Sys2Proof.Machine
end

section
/-! PROOFS. The register window and $EXEC: WINB, EXECM and EXECR (spec/07_group.md R130, R136). -/

namespace Sys2Proof.Machine

/-! ## The words of WINB, EXECM and EXECR (R42) -/

theorem decode_winb {w : Word} (hop : fOp w = 0xE5) (lit : Word) :
    decode w lit = decS24 w 3 (checked (.winb (w.extractLsb' 0 3))) := by
  rw [decode_eq_decodeAt, hop]
  rfl

theorem decode_execr {w : Word} (hop : fOp w = 0x9C) (lit : Word) : decode w lit = decS24 w 0 (checked .execr) := by
  rw [decode_eq_decodeAt, hop]
  rfl

theorem decode_execm {w : Word} (hop : fOp w = 0x9B) (lit : Word) :
    decode w lit = ensure (fMd w == 0) .unusedField >>= fun _ => zero7 (fD w) >>= fun _ => mReg (fA w) >>= fun m =>
      zero7 (fB w) >>= fun _ => checked (.execm m) := by
  rw [decode_eq_decodeAt, hop]
  rfl

theorem decS24_plain {w : Word} {n : Nat} {k : Dec} (h : (fImm24 w).toNat < 2 ^ n) : decS24 w n k = k := if_pos h

/-- A nonzero bit above the operand of the word decodes to nothing. -/
theorem decS24_refused {w : Word} {n : Nat} {k : Dec} (h : ¬ (fImm24 w).toNat < 2 ^ n) (i : Instr) : decS24 w n k ≠ .ok i := by
  rw [decS24, if_neg h]
  nofun

theorem eq_zero_iff_toNat {n : Nat} (x : BitVec n) : x = 0 ↔ x.toNat = 0 := by
  rw [← BitVec.toNat_inj]
  exact Iff.rfl

/-- The 21 operand bits above the window's number are 0 exactly where the operand is below 8. -/
theorem winb_plain (w : Word) : w.extractLsb' 3 21 = 0 ↔ (fImm24 w).toNat < 2 ^ 3 := by
  rw [fImm24, eq_zero_iff_toNat, BitVec.extractLsb'_toNat, BitVec.extractLsb'_toNat, Nat.shiftRight_eq_div_pow,
    Nat.shiftRight_eq_div_pow]
  omega

theorem execr_plain (w : Word) : w.extractLsb' 0 24 = 0 ↔ (fImm24 w).toNat < 2 ^ 0 := by
  rw [fImm24, eq_zero_iff_toNat]
  omega

theorem execm_high_plain (w : Word) : w.extractLsb' 14 10 = 0 ↔ fMd w = 0 ∧ fD w = 0 := by
  simp only [fMd, fD, eq_zero_iff_toNat, BitVec.extractLsb'_toNat, Nat.shiftRight_eq_div_pow]
  omega

theorem fA_high (w : Word) : (fA w).extractLsb' 3 4 = w.extractLsb' 10 4 := by
  simp only [fA, ← BitVec.toNat_inj, BitVec.extractLsb'_toNat, Nat.shiftRight_eq_div_pow]
  omega

theorem fA_low (w : Word) : (fA w).extractLsb' 0 3 = w.extractLsb' 7 3 := by
  simp only [fA, ← BitVec.toNat_inj, BitVec.extractLsb'_toNat, Nat.shiftRight_eq_div_pow]
  omega

theorem decode_execm_plain {w : Word} (hop : fOp w = 0x9B) (lit : Word) (hmd : fMd w = 0) (hd : fD w = 0)
    (ha : (fA w).extractLsb' 3 4 = 0) (hb : fB w = 0) : decode w lit = .ok (.execm ((fA w).extractLsb' 0 3)) := by
  rw [decode_execm hop, hmd, hd, hb, mReg, ha]
  rfl

/-! A check of a decoder that lets an instruction through. -/

theorem of_ensure_bind {c : Bool} {e : DecodeErr} {k : Unit → Dec} {i : Instr} (h : (ensure c e >>= k) = .ok i) :
    c = true ∧ k () = .ok i := by
  cases c
  · cases h
  · exact ⟨rfl, h⟩

theorem of_zero7_bind {f : BitVec 7} {k : Unit → Dec} {i : Instr} (h : (zero7 f >>= k) = .ok i) : f = 0 ∧ k () = .ok i := by
  obtain ⟨hf, hk⟩ := of_ensure_bind (h : (ensure (f == 0) .unusedField >>= k) = .ok i)
  exact ⟨beq_iff_eq.mp hf, hk⟩

theorem of_mReg_bind {f : BitVec 7} {k : BitVec 3 → Dec} {i : Instr} (h : (mReg f >>= k) = .ok i) :
    f.extractLsb' 3 4 = 0 ∧ k (f.extractLsb' 0 3) = .ok i := by
  rw [mReg] at h
  split at h
  next hf => exact ⟨beq_iff_eq.mp hf, h⟩
  next => cases h

/-- A field of EXECM that is not 0 decodes to nothing. -/
theorem decode_execm_refused {w : Word} (hop : fOp w = 0x9B) (lit : Word)
    (h : ¬ (fMd w = 0 ∧ fD w = 0 ∧ (fA w).extractLsb' 3 4 = 0 ∧ fB w = 0)) (i : Instr) : decode w lit ≠ .ok i := by
  intro e
  rw [decode_execm hop] at e
  obtain ⟨hmd, e⟩ := of_ensure_bind e
  obtain ⟨hd, e⟩ := of_zero7_bind e
  obtain ⟨ha, e⟩ := of_mReg_bind e
  obtain ⟨hb, _⟩ := of_zero7_bind e
  exact h ⟨beq_iff_eq.mp hmd, hd, ha, hb⟩

/-! ## WINB (R136) -/

theorem exec_winb {s : State} {g : Group} {p : Split} (h : Issues s g p) (w : BitVec 3) :
    exec (.winb w) s = .next (if 32 * w.toNat ≥ g.allot then s.trap g p (.winb w) cREGRANGE
      else (s.updGroup g.ref fun x => { x with wb := 32 * w.toNat }).done g p (.winb w)) :=
  (Eq.refl (execWinb w s)).trans (issue_next _ h (Readable.empty s g))

/-- Settles O10: the word by its operand bits; a trap keeps the window, and else the group changes in its window alone. -/
theorem winbMovesTheWindow : Obligations.WinbMovesTheWindow := by
  unfold Obligations.WinbMovesTheWindow
  refine ⟨fun w lit hop => ⟨fun hz => ?plain, fun hz => ?refused⟩, fun s g p w h =>
    ⟨fun hw => ⟨?beyond, fun x hx => ?kept⟩, fun hw => ?within⟩⟩
  case plain =>
    rw [decode_winb hop, decS24_plain ((winb_plain w).mp hz)]
    exact checked_of_wf rfl
  case refused =>
    rw [decode_winb hop]
    exact decS24_refused (mt (winb_plain w).mpr hz)
  case beyond => rw [exec_winb h, if_pos hw]
  case kept => exact enterTrap_wb h.group' hx
  case within =>
    obtain ⟨g', hg, hsp⟩ := done_onlySplit h (.winb w) (fun x => { x with wb := 32 * w.toNat }) (fun _ _ => rfl) rfl
    exact ⟨_, g', by rw [exec_winb h, if_neg (Nat.not_le.mpr hw)], hg, hsp⟩

/-! ## EXECM and EXECR (R130) -/

section
variable {s : State} {g : Group} {p : Split} (h : Issues s g p)
include h

/-- Outside the split's own ELECT, $EXEC takes the mask. -/
theorem setExec_own {i : Instr} {m : LaneMask} (hel : ∀ sv, g.elected ≠ some (p.id, sv)) (he : exec i s = .next (setExec s g p i m)) :
    MoveResult s g p i { p.past i.words with exec := m } (fun _ => none) := by
  have own : setExec s g p i m = (s.putSplit g { p with exec := m }).done g p i := by
    unfold setExec
    split
    next sv e => exact if_neg fun (hsp : _ = p.id) => hel sv (hsp ▸ e)
    next => rfl
  have moved : (s.putSplit g { p with exec := m }).done g p i = s.updSplit g.ref p.id fun _ => { p.past i.words with exec := m } :=
    updSplit_done s g p i (fun _ => { p with exec := m }) fun _ hq => hq.symm
  exact moveResult_updSplit h (fun _ => { p.past i.words with exec := m }) (fun _ hq => hq.symm) (he.trans (congrArg _ (own.trans moved)))

/-- Under the split's own ELECT, the saved mask takes the mask. -/
theorem setExec_saved {i : Instr} {m sv : LaneMask} (hel : g.elected = some (p.id, sv)) (he : exec i s = .next (setExec s g p i m)) :
    ∃ t g', exec i s = .next t ∧ OnlyGroup s t g g' ∧ OnlySplit { g with elected := some (p.id, m) } g' p (p.past i.words) := by
  have saved : setExec s g p i m = (s.updGroup g.ref fun x => { x with elected := some (p.id, m) }).done g p i := by
    rw [setExec, hel]
    exact if_pos rfl
  obtain ⟨g', hg, hsp⟩ := done_onlySplit h i (fun x => { x with elected := some (p.id, m) }) (fun _ _ => rfl) rfl
  exact ⟨_, g', he.trans (congrArg _ saved), hg, hsp⟩

theorem exec_execm {m : BitVec 3} (hu : Readable s g { m := [m.toNat] }) :
    exec (.execm m) s = .next (setExec s g p (.execm m) (p.lset &&& g.getM m.toNat)) :=
  (Eq.refl (execExecm m s)).trans (issue_next _ h hu)

theorem exec_execr : exec .execr s = .next (setExec s g p .execr p.lset) :=
  (Eq.refl (execExecr s)).trans (issue_next _ h (Readable.empty s g))

end

/-- Settles O11: the words by their fields; the mask goes to $EXEC, or to the saved mask under the split's own ELECT. -/
theorem execMasksFollowTheLaneSet : Obligations.ExecMasksFollowTheLaneSet := by
  unfold Obligations.ExecMasksFollowTheLaneSet
  refine ⟨fun w lit hop => ?execm, fun w lit hop => ⟨fun hz => ?plain, fun hz => ?refused⟩, fun s g p h =>
    ⟨fun m hu hel => setExec_own h hel (exec_execm h hu), fun hel => setExec_own h hel (exec_execr h),
      fun m sv hu hel => setExec_saved h hel (exec_execm h hu), fun sv hel => setExec_saved h hel (exec_execr h)⟩⟩
  case execm =>
    dsimp only
    rw [execm_high_plain, ← fA_high, ← fA_low, and_assoc]
    exact ⟨fun ⟨hmd, hd, ha, hb⟩ => decode_execm_plain hop lit hmd hd ha hb, decode_execm_refused hop lit⟩
  case plain =>
    rw [decode_execr hop, decS24_plain ((execr_plain w).mp hz)]
    exact checked_of_wf rfl
  case refused =>
    rw [decode_execr hop]
    exact decS24_refused (mt (execr_plain w).mpr hz)

end Sys2Proof.Machine
end

section
/-! PROOFS. REGION, SPAWN and ROLE, and the groups that a commit starts (spec/07_group.md R117, R118, R133, R139, R140). -/

namespace Sys2Proof.Machine

/-! ## REGION (R140) -/

/-- A live range that REGION refuses: beyond slot 127, or beyond the allotment. -/
def Group.refuses (g : Group) (r : Nat × Nat) : Bool := decide (r.1 + r.2 > 128) || decide (g.wb + r.1 + r.2 > g.allot)

theorem Group.refuses_iff (g : Group) (r : Nat × Nat) : g.refuses r = true ↔ 128 < r.1 + r.2 ∨ g.allot < g.wb + r.1 + r.2 := by
  simp [refuses]

theorem Group.refuses_eq_false (g : Group) (r : Nat × Nat) :
    g.refuses r = false ↔ r.1 + r.2 ≤ 128 ∧ g.wb + r.1 + r.2 ≤ g.allot := by
  simp [refuses]

/-- The first element that P holds of. -/
theorem find?_eq_getElem? {α : Type} {P : α → Bool} {l : List α} {k : Nat} {x : α} (hx : l[k]? = some x) (hP : P x = true)
    (before : ∀ (j : Nat) (y : α), j < k → l[j]? = some y → P y = false) : l.find? P = some x := by
  obtain ⟨hk, rfl⟩ := List.getElem?_eq_some_iff.mp hx
  rw [List.find?_eq_some_iff_getElem]
  exact ⟨hP, k, hk, rfl, fun j hj => by simpa using before j _ hj (List.getElem?_eq_getElem (hj.trans hk))⟩

/-- The live ranges of a REGION: those that are not empty. -/
def liveRanges (a1 n1 a2 n2 : BitVec 7) : List (Nat × Nat) := [(a1.toNat, n1.toNat), (a2.toNat, n2.toNat)].filter fun r => r.2 != 0

/-- What the record that a REGION opens holds (R140). -/
structure RegionRec.Opens (rc : RegionRec) (g : Group) (p : Split) (rs : List (Nat × Nat)) (sm : BitVec 4) (rcp : BitVec 21) : Prop where
  entry : rc.entry = (p.clause.map (·.hdr)).getD p.pc
  live : rc.live = rs.map fun r => (g.wb + r.1, r.2)
  smask : rc.smask = sm
  recipe : rc.recipe = if rcp = 0 then none else some (wordTarget p.pc rcp.toInt)
  exec : rc.exec = p.exec
  depth : rc.depth = p.stack.length
  elect : rc.elect = g.elected

/-- The split p in the region rc, which has not ended. -/
def Split.inRegion (p : Split) (rc : RegionRec) (now : Nat) : Split :=
  { p with region := some rc, ended := false, needRe := false, progress := now }

/-- The split p of group g has opened the region rc. -/
def State.openRegion (s : State) (g : Group) (p : Split) (i : Instr) (rc : RegionRec) : State :=
  ((({ s with nextId := s.nextId + 1 } : State).updGroup g.ref fun x => { x with regcnt := x.regcnt + 1 }).updSplit g.ref p.id
    fun q => q.inRegion rc s.cycle).done g p i

section
variable {s : State} {g : Group} {p : Split} (h : Issues s g p) (a1 n1 a2 n2 : BitVec 7) (sm : BitVec 4) (rcp : BitVec 21)
include h

/-- REGION by its first refused range. -/
theorem exec_region : ∃ rc : RegionRec, rc.Opens g p (liveRanges a1 n1 a2 n2) sm rcp ∧
    exec (.region a1 n1 a2 n2 sm rcp) s = .next (if p.recipe then s.trap g p (.region a1 n1 a2 n2 sm rcp) cILL else
      match (liveRanges a1 n1 a2 n2).find? g.refuses with
      | some r => s.trap g p (.region a1 n1 a2 n2 sm rcp) (if r.1 + r.2 > 128 then cILL else cREGRANGE)
      | none => s.openRegion g p (.region a1 n1 a2 n2 sm rcp) rc) := by
  refine ⟨_, ?fields, (Eq.refl (execRegion a1 n1 a2 n2 sm rcp s)).trans (issue_next _ h (Readable.empty s g))⟩
  exact ⟨rfl, rfl, rfl, rfl, rfl, rfl, rfl⟩

theorem region_in_recipe (hrec : p.recipe = true) :
    exec (.region a1 n1 a2 n2 sm rcp) s = .next (s.trap g p (.region a1 n1 a2 n2 sm rcp) cILL) := by
  obtain ⟨rc, -, he⟩ := exec_region h a1 n1 a2 n2 sm rcp
  rw [he, if_pos hrec]

theorem region_refused (hrec : p.recipe = false) {r : Nat × Nat} (hr : (liveRanges a1 n1 a2 n2).find? g.refuses = some r) :
    exec (.region a1 n1 a2 n2 sm rcp) s
      = .next (s.trap g p (.region a1 n1 a2 n2 sm rcp) (if 128 < r.1 + r.2 then cILL else cREGRANGE)) := by
  obtain ⟨rc, -, he⟩ := exec_region h a1 n1 a2 n2 sm rcp
  rw [he, hrec, hr]
  rfl

theorem region_opens (hrec : p.recipe = false) (hok : (liveRanges a1 n1 a2 n2).find? g.refuses = none) :
    ∃ rc : RegionRec, rc.Opens g p (liveRanges a1 n1 a2 n2) sm rcp ∧
      exec (.region a1 n1 a2 n2 sm rcp) s = .next (s.openRegion g p (.region a1 n1 a2 n2 sm rcp) rc) := by
  obtain ⟨rc, hrc, he⟩ := exec_region h a1 n1 a2 n2 sm rcp
  refine ⟨rc, hrc, ?_⟩
  rw [he, hrec, hok]
  rfl

end

/-- A REGION changes its group by the count and by the split. -/
theorem openRegion_spec {s : State} {g : Group} {p : Split} (h : Issues s g p) (i : Instr) (rc : RegionRec) : ∃ g',
    s.openRegion g p i rc = { s with groups := (s.openRegion g p i rc).groups, nextId := s.nextId + 1 }
    ∧ (s.openRegion g p i rc).group? g.ref = some g' ∧ (∀ r, r ≠ g.ref → (s.openRegion g p i rc).group? r = s.group? r)
    ∧ OnlySplit { g with regcnt := g.regcnt + 1 } g' p ((p.inRegion rc s.cycle).past i.words) := by
  let u : State := { s with nextId := s.nextId + 1 }
  let F (x : Group) : Group := { x with regcnt := x.regcnt + 1 }
  let f (q : Split) : Split := (q.inRegion rc s.cycle).past i.words
  have moved : s.openRegion g p i rc = u.updGroup g.ref fun x => (F x).updSplit p.id f :=
    (updSplit_done (u.updGroup g.ref F) g p i (fun q => q.inRegion rc s.cycle) fun _ _ => rfl).trans
      (updGroup_updSplit u g p.id f F fun _ _ => rfl)
  have only := onlyGroup_updGroup (s := u) h.group' (fun x => (F x).updSplit p.id f) fun _ _ => rfl
  rw [moved]
  exact ⟨_, rfl, only.after, only.others, onlySplit_updSplit (g := F g) h.split' f fun _ _ => rfl⟩

/-! ## SPAWN (R117, R118, R133) -/

/-- The first n S registers take the words of f. -/
def Group.setSRun (g : Group) (n : Nat) (f : Nat → Word) : Group := (List.range n).foldl (fun h r => h.setS r (f r)) g

/-- The first n physical registers take the words of f in every lane. -/
def Group.setPRun (g : Group) (n : Nat) (f : Nat → Nat → Word) : Group :=
  (List.range n).foldl (fun h k => h.setLanesP k (BitVec.allOnes 32) (f k)) g

section
variable (g : Group)

theorem setSRun_succ (n : Nat) (f : Nat → Word) : g.setSRun (n + 1) f = (g.setSRun n f).setS n (f n) := by
  simp [Group.setSRun, List.range_succ]

theorem setSRun_eq (n : Nat) (f : Nat → Word) : g.setSRun n f = { g with s := (g.setSRun n f).s } := by
  induction n with
  | zero => rfl
  | succ n ih => rw [setSRun_succ, Group.setS, ih]

theorem getS_setSRun (n : Nat) (f : Nat → Word) (r : Nat) : (g.setSRun n f).getS r = if r < n then f r else g.getS r := by
  induction n with
  | zero => rfl
  | succ n ih =>
    rw [setSRun_succ, getS_setS, ih]
    by_cases hr : r = n
    · simp [hr]
    · have hlt : r < n + 1 ↔ r < n := by omega
      simp [hr, hlt]

theorem setPRun_succ (n : Nat) (f : Nat → Nat → Word) :
    g.setPRun (n + 1) f = (g.setPRun n f).setLanesP n (BitVec.allOnes 32) (f n) := by
  simp [Group.setPRun, List.range_succ]

theorem setPRun_eq (n : Nat) (f : Nat → Nat → Word) : g.setPRun n f = { g with v := (g.setPRun n f).v } := by
  induction n with
  | zero => rfl
  | succ n ih => rw [setPRun_succ, setLanesP_eq, ih]

theorem setPRun_getS (n : Nat) (f : Nat → Nat → Word) (r : Nat) : (g.setPRun n f).getS r = g.getS r := by
  rw [setPRun_eq]
  rfl

theorem setSRun_getP (n : Nat) (f : Nat → Word) (k l : Nat) : (g.setSRun n f).getP k l = g.getP k l := by
  rw [setSRun_eq]
  rfl

theorem setPRun_setSRun_eq (n m : Nat) (f : Nat → Word) (k : Nat → Nat → Word) : (g.setSRun n f).setPRun m k
    = { g with v := ((g.setSRun n f).setPRun m k).v, s := ((g.setSRun n f).setPRun m k).s } := by
  rw [setPRun_eq, setSRun_eq]

theorem getP_setPRun (n : Nat) (f : Nat → Nat → Word) (k : Nat) {l : Nat} (hl : l < 32) :
    (g.setPRun n f).getP k l = if k < n then f k l else g.getP k l := by
  induction n with
  | zero => rfl
  | succ n ih =>
    rw [setPRun_succ, getP_setLanesP _ _ _ _ _ _ hl, ih, BitVec.getLsbD_allOnes, decide_eq_true hl]
    by_cases hk : k = n
    · simp [hk]
    · have hlt : k < n + 1 ↔ k < n := by omega
      simp [hk, hlt]

end

/-- The group h that split p of g reserves on group context ctx with index n (R118, R133). -/
structure Group.ReservedBy (h g : Group) (p : Split) (ctx n : Nat) (a : BitVec 7) (off : Word) : Prop where
  ref : h.ref = { core := g.ref.core, gctx := ctx }
  status : h.status = .reserved
  cx : h.cx = g.cx
  kernel : h.kernel = g.kernel
  wg : h.wg = g.wg
  gidx : h.gidx = n
  allot : h.allot = g.allot
  cls : h.cls = g.cls
  ownCls : h.ownCls = g.ownCls
  priv : h.priv = g.priv
  spawner : h.spawner = some (g.ref, p.id)
  splits : h.splits.map (fun q => (q.id, q.pc, q.exec)) = [(0, wordTarget p.pc off.toInt, BitVec.allOnes 32)]
  words : ∀ r, h.getS r = if r = 17 then BitVec.ofNat 32 n else if r < 19 then g.getS r else 0
  lanes : ∀ k l, l < 32 → h.getP k l = if k < 8 then g.getV (a.toNat + k) l else 0

/-- The arguments of a reserved group: its first eight registers, and S0 to S18 with its index in S17. -/
def Group.withArguments (h g : Group) (n : Nat) (a : BitVec 7) : Group :=
  (h.setSRun 19 fun r => if r = 17 then BitVec.ofNat 32 n else g.getS r).setPRun 8 fun k l => g.getV (a.toNat + k) l

theorem withArguments_foldl (h g : Group) (n : Nat) (a : BitVec 7) :
    (List.range 8).foldl (fun h k => h.setLanesP k (BitVec.allOnes 32) fun l => g.getV (a.toNat + k) l)
      ((List.range 19).foldl (fun h r => h.setS r (if r = 17 then BitVec.ofNat 32 n else g.getS r)) h) = h.withArguments g n a := rfl

/-- What the arguments leave of a group: all but its V and S registers. -/
theorem withArguments_keeps {α : Type} {h g : Group} {n : Nat} {a : BitVec 7} (F : Group → α)
    (hF : F { h with v := (h.withArguments g n a).v, s := (h.withArguments g n a).s } = F h) : F (h.withArguments g n a) = F h :=
  (congrArg F (setPRun_setSRun_eq h ..)).trans hF

theorem withArguments_getS (h g : Group) (n : Nat) (a : BitVec 7) (r : Nat) :
    (h.withArguments g n a).getS r = if r = 17 then BitVec.ofNat 32 n else if r < 19 then g.getS r else h.getS r := by
  rw [Group.withArguments, setPRun_getS, getS_setSRun]
  by_cases hr : r = 17
  · rw [hr, if_pos (by decide), if_pos rfl, if_pos rfl]
  · rw [if_neg hr, if_neg hr]

theorem withArguments_getP (h g : Group) (n : Nat) (a : BitVec 7) (k : Nat) {l : Nat} (hl : l < 32) :
    (h.withArguments g n a).getP k l = if k < 8 then g.getV (a.toNat + k) l else h.getP k l := by
  rw [Group.withArguments, getP_setPRun _ _ _ _ hl, setSRun_getP]

/-- The group h joins the machine and S[d] of the issuing group takes its index n. -/
def State.addSpawned (s : State) (g : Group) (p : Split) (i : Instr) (d n : Nat) (h : Group) : State :=
  ({ (s.updGroup g.ref fun x => x.setS d (BitVec.ofNat 32 n)) with
      nextId := s.nextId + 1, groups := (s.updGroup g.ref fun x => x.setS d (BitVec.ofNat 32 n)).groups ++ [h] } : State).done g p i

/-- A step that writes S[d] of the issuing group and moves on. -/
def State.setsS (s : State) (g : Group) (p : Split) (i : Instr) (d : Nat) (x : Word) : State :=
  (s.updGroup g.ref fun y => y.setS d x).done g p i

/-- The room for one more group of a workgroup of len groups on a core of free registers. -/
theorem not_full_of_room {allot free len : Nat} (h : allot ≤ free ∧ len < 32) : ¬ (free < allot ∨ len ≥ 32) := by
  omega

theorem full_of_not_room {allot free len : Nat} (h : ¬ (allot ≤ free ∧ len < 32)) : free < allot ∨ len ≥ 32 := by
  omega

section
variable {s : State} {g : Group} {p : Split} (h : Issues s g p) (d : BitVec 6) (a : BitVec 7) (off : Word)
  (hu : Readable s g { v := runRegs a.toNat 8, s := [d.toNat] })
include h hu

theorem spawn_waits (hc : s.unchecked g p = true) : exec (.spawn d a off) s = .next (s.stall g p .poll) :=
  ((Eq.refl (execSpawn d a off s)).trans (issue_next _ h hu)).trans (congrArg _ (gated_unchecked hc _))

theorem spawn_refused (hc : s.unchecked g p = false)
    (hno : s.freeGctx g.ref.core = none
      ∨ lowestFree 32 (fun n => (s.groupsOf g.cx g.kernel g.wg).any fun x => x.gidx == n) = none
      ∨ ¬ (g.allot ≤ s.freeRegs g.ref.core ∧ (s.groupsOf g.cx g.kernel g.wg).length < 32)) :
    exec (.spawn d a off) s = .next (s.setsS g p (.spawn d a off) d.toNat 0xFFFFFFFF) := by
  refine ((Eq.refl (execSpawn d a off s)).trans (issue_next _ h hu)).trans (congrArg _ ((gated_checked hc _).trans ?_))
  dsimp only
  split
  next ctx n hctx hidx =>
    rw [hctx, hidx] at hno
    exact if_pos (full_of_not_room ((hno.resolve_left nofun).resolve_left nofun))
  next => rfl

theorem spawn_reserves (hc : s.unchecked g p = false) {ctx n : Nat} (hctx : s.freeGctx g.ref.core = some ctx)
    (hidx : lowestFree 32 (fun n => (s.groupsOf g.cx g.kernel g.wg).any fun x => x.gidx == n) = some n)
    (hroom : g.allot ≤ s.freeRegs g.ref.core ∧ (s.groupsOf g.cx g.kernel g.wg).length < 32) :
    ∃ x : Group, x.ReservedBy g p ctx n a off ∧ exec (.spawn d a off) s = .next (s.addSpawned g p (.spawn d a off) d.toNat n x) := by
  have e := ((Eq.refl (execSpawn d a off s)).trans (issue_next _ h hu)).trans (congrArg _ (gated_checked hc _))
  dsimp only at e
  rw [hctx, hidx] at e
  dsimp only at e
  rw [if_neg (not_full_of_room hroom), withArguments_foldl] at e
  refine ⟨_, ?fields, e⟩
  exact ⟨withArguments_keeps (·.ref) rfl, withArguments_keeps (·.status) rfl, withArguments_keeps (·.cx) rfl,
    withArguments_keeps (·.kernel) rfl, withArguments_keeps (·.wg) rfl, withArguments_keeps (·.gidx) rfl,
    withArguments_keeps (·.allot) rfl, withArguments_keeps (·.cls) rfl, withArguments_keeps (·.ownCls) rfl,
    withArguments_keeps (·.priv) rfl, withArguments_keeps (·.spawner) rfl,
    withArguments_keeps (fun x => x.splits.map fun q => (q.id, q.pc, q.exec)) rfl,
    fun r => withArguments_getS _ g n a r, fun k l hl => withArguments_getP _ g n a k hl⟩

end

theorem group?_freeGctx {s : State} {core ctx : Nat} (h : s.freeGctx core = some ctx) : s.group? { core := core, gctx := ctx } = none := by
  obtain ⟨-, unused⟩ := lowestFree_spec h
  rw [State.group?, List.find?_eq_none]
  exact List.any_eq_false.mp unused

/-- A group on a free group context joins the machine; of the others, the issuing group alone has changed. -/
theorem addSpawned_spec {s : State} {g : Group} {p : Split} (h : Issues s g p) (i : Instr) (d n : Nat) {x : Group}
    (hx : s.group? x.ref = none) :
    s.addSpawned g p i d n x = { s with groups := (s.addSpawned g p i d n x).groups, nextId := s.nextId + 1 }
    ∧ (s.addSpawned g p i d n x).group? g.ref = some ((g.setS d (BitVec.ofNat 32 n)).updSplit p.id fun q => q.past i.words)
    ∧ (s.addSpawned g p i d n x).group? x.ref = some x
    ∧ ∀ r, r ≠ g.ref → r ≠ x.ref → (s.addSpawned g p i d n x).group? r = s.group? r := by
  let u := s.updGroup g.ref fun y => y.setS d (BitVec.ofNat 32 n)
  let v : State := { u with nextId := s.nextId + 1, groups := u.groups ++ [x] }
  have found (r : GRef) : v.group? r = (u.group? r).or (if r = x.ref then some x else none) := by
    rw [State.group?, List.find?_append, List.find?_singleton]
    exact congrArg _ (if_congr (by rw [beq_iff_eq, eq_comm]) rfl rfl)
  have only := onlyGroup_updGroup h.group' (fun y => y.setS d (BitVec.ofNat 32 n)) fun _ _ => rfl
  have hne : x.ref ≠ g.ref := fun e => by rw [e, h.group'] at hx; cases hx
  have own : v.group? g.ref = some (g.setS d (BitVec.ofNat 32 n)) := by rw [found, only.after, Option.some_or]
  refine ⟨rfl, group?_updGroup_same _ (fun _ _ => rfl) own, ?joined, fun r hr hrx => ?other⟩
  case joined =>
    refine (done_group?_other v g p i hne).trans ?_
    rw [found, only.others _ hne, hx, if_pos rfl, Option.none_or]
  case other =>
    refine (done_group?_other v g p i hr).trans ?_
    rw [found, only.others _ hr, if_neg hrx, Option.or_none]

/-- A step that writes S[d] and moves on goes on with d alone changed. -/
theorem wordResult_setsS {s : State} {g : Group} {p : Split} (h : Issues s g p) {i : Instr} {d : Nat} {x : Word}
    (he : exec i s = .next (s.setsS g p i d x)) : WordResult s g p i (oneS d x) fun t => t.groups.length = s.groups.length := by
  obtain ⟨only, regs⟩ := regStep i (fun y => y.setS d x) h fun _ => rfl
  refine ⟨_, he, ⟨_, _, only.after, rfl, rfl, rfl, fun r => ?words, regs.split, rfl, rfl, rfl, rfl, fun r hr => ?others⟩,
    only.memory, ?length⟩
  case words =>
    rw [getS_updSplit, getS_setS, oneS, apply_ite (Option.getD · _)]
    rfl
  case others => exact congrArg _ (only.others r hr)
  case length =>
    simp only [State.setsS, State.done, State.updSplit, State.updGroup, upd, List.length_map]

/-! ## A commit makes the groups LIVE that its split reserved (R117) -/

theorem Group.starts_status_of_reserved {h : Group} {r : GRef} {id : Nat} (hs : h.status = .reserved) (hp : h.spawner = some (r, id)) :
    (h.starts r id).status = .live := by
  rw [Group.starts, if_pos (by rw [hs, hp]; simp)]

theorem Group.starts_status_of_not {h : Group} {r : GRef} {id : Nat} (hn : h.status ≠ .reserved ∨ h.spawner ≠ some (r, id)) :
    (h.starts r id).status = h.status := by
  rw [Group.starts, if_neg]
  simpa [imp_iff_not_or] using hn

theorem commit_status {s : State} {h : Group} (g : Group) (p : Split) (hh : s.group? h.ref = some h) :
    ∃ h', (s.commit g p).group? h.ref = some h' ∧ h'.status = (h.starts g.ref p.id).status := by
  rw [commit_group?, hh, Option.map_some]
  refine ⟨_, rfl, ?_⟩
  split <;> rfl

/-! ## ROLE (R139) -/

/-- A step that changes S registers by F and puts p' in the place of p. -/
theorem moveResult_updGroup_putSplit {s : State} {g : Group} {p p' : Split} {i : Instr} (F : Group → Group) {S : Nat → Option Word}
    (h : Issues s g p) (hid : p'.id = p.id) (he : exec i s = .next ((s.updGroup g.ref F).putSplit g p'))
    (hF : ∀ x, F x = { x with s := (F x).s }) (hS : ∀ r, (F g).getS r = (S r).getD (g.getS r)) : MoveResult s g p i p' S :=
  let k : Group → Split → State := fun _ _ => (s.updGroup g.ref F).putSplit g p'
  move_result (k := k) F h (Readable.empty s g) (he.trans (issue_next k h (Readable.empty s g)).symm) hid rfl hF hS

/-- The role word of a group: its allotment, class and level. -/
def Group.roleWord (g : Group) : Word := BitVec.ofNat 32 (g.allot / 32 + 256 * g.cls + 4096 * g.priv.toNat)

/-- The group takes the allotment, class and level of the role word r, and keeps its registers below the number keep. -/
def Group.takesRole (g : Group) (keep : Nat) (r : Word) : Group :=
  { g with v := g.v.filter fun e => decide (e.1 / 32 < keep), allot := 32 * (r.extractLsb' 0 4).toNat,
           cls := (r.extractLsb' 8 3).toNat, ownCls := true, priv := r.getLsbD 12, wb := 0 }

/-- A ROLE that reports x in S[d] goes on at the next clause. -/
def State.roleReports (s : State) (g : Group) (p : Split) (d : BitVec 6) (x : Word) : State :=
  (s.updGroup g.ref fun y => y.setS d.toNat x).putSplit g { p.toNext with needRe := true }

/-- A ROLE that takes effect with the role word r. -/
def State.roleChanges (s : State) (g : Group) (p : Split) (d : BitVec 6) (a : BitVec 5) (r : Word) : State :=
  (s.updGroup g.ref fun y => (y.takesRole (min g.allot (32 * (r.extractLsb' 0 4).toNat)) r).setS d.toNat g.roleWord).putSplit g
    { p.goto ((g.setS d.toNat g.roleWord).getSPair a.toNat).toNat with ended := true, progress := s.cycle }

/-- Lane l of register x behind the change of an allotment. -/
theorem takesRole_getP (g : Group) (keep : Nat) (r : Word) (x : Nat) {l : Nat} (hl : l < 32) :
    (g.takesRole keep r).getP x l = if x < keep then g.getP x l else 0 := by
  have number : (32 * x + l) / 32 = x := by omega
  rw [Group.getP, Group.takesRole, sget_filter_key 0 fun k => decide (k / 32 < keep)]
  simp only [number, decide_eq_true_eq]
  rfl

section
variable {s : State} {g : Group} {p : Split} (h : Issues s g p) (d : BitVec 6) (a : BitVec 5) (b : BitVec 6)
include h

theorem role_privileged (hp : g.priv = false) : exec (.role d a b) s = .next (s.trap g p (.role d a b) cPRIV) :=
  (Eq.refl (execRole d a b s)).trans (issuePriv_trap _ h hp)

theorem exec_role (hp : g.priv = true) (hu : Readable s g { s := [d.toNat, b.toNat] ++ pairRegs a.toNat }) (hc : s.unchecked g p = false) :
    let r := g.getS b.toNat
    let n := (r.extractLsb' 0 4).toNat
    exec (.role d a b) s = .next (
      if r &&& 0xFFFFE8F0 ≠ 0 ∨ n = 0 ∨ n > 8 then s.trap g p (.role d a b) cILL
      else if s.ops.any fun o => o.grp == g.ref && decide (o.flag < 12) then s.stall g p .poll
      else if g.splits.length > 1 then s.roleReports g p d 2
      else if s.freeRegs g.ref.core + g.allot < 32 * n then s.roleReports g p d 1
      else s.roleChanges g p d a r) :=
  ((Eq.refl (execRole d a b s)).trans (issuePriv_next _ h hp hu)).trans (congrArg _ (gated_checked hc _))

theorem roleReports_result (x : Word) (he : exec (.role d a b) s = .next (s.roleReports g p d x)) :
    MoveResult s g p (.role d a b) { p.fallen with needRe := true } (oneS d.toNat x) := by
  refine moveResult_updGroup_putSplit (fun y => y.setS d.toNat x) h rfl he (fun _ => rfl) fun r => ?_
  rw [getS_setS, oneS, apply_ite (Option.getD · _)]
  rfl

/-- ROLE takes effect: the group with its new allotment, class and level, at the entry that S[A] then names. -/
theorem roleChanges_result (r : Word) : ∃ g', OnlyGroup s (s.roleChanges g p d a r) g g'
    ∧ g' = { g with v := g'.v, s := g'.s, allot := 32 * (r.extractLsb' 0 4).toNat, cls := (r.extractLsb' 8 3).toNat, ownCls := true,
                    priv := r.getLsbD 12, wb := 0, splits := g'.splits }
    ∧ g'.split? p.id = some { p.landed ((g.setS d.toNat g.roleWord).getSPair a.toNat).toNat with ended := true, progress := s.cycle }
    ∧ (∀ x, g'.getS x = if x = d.toNat then g.roleWord else g.getS x)
    ∧ ∀ x l, l < 32 → g'.getP x l = if x < min g.allot (32 * (r.extractLsb' 0 4).toNat) then g.getP x l else 0 := by
  let F (y : Group) : Group := (y.takesRole (min g.allot (32 * (r.extractLsb' 0 4).toNat)) r).setS d.toNat g.roleWord
  let q : Split := { p.goto ((g.setS d.toNat g.roleWord).getSPair a.toNat).toNat with ended := true, progress := s.cycle }
  have moved : s.roleChanges g p d a r = s.updGroup g.ref fun y => (F y).updSplit p.id fun _ => q :=
    updGroup_updSplit s g p.id _ F fun _ _ => rfl
  rw [moved]
  refine ⟨_, onlyGroup_updGroup h.group' _ fun _ _ => rfl, rfl, ?split, fun x => ?words, fun x l hl => ?lanes⟩
  case split =>
    rw [← goto_toNat]
    exact split?_updSplit_same (g := F g) (fun _ => q) (fun _ hq => hq.symm) h.split'
  case words => exact getS_setS _ _ _ _
  case lanes => exact takesRole_getP g _ r x hl

end

theorem no_flag_pending {ops : List PendOp} {r : GRef} (h : ∀ o ∈ ops, o.grp = r → 12 ≤ o.flag) :
    (ops.any fun o => o.grp == r && decide (o.flag < 12)) = false := by
  refine List.any_eq_false.mpr fun o ho e => ?_
  obtain ⟨hg, hf⟩ := Bool.and_eq_true_iff.mp e
  exact absurd (of_decide_eq_true hf) (Nat.not_lt.mpr (h o ho (beq_iff_eq.mp hg)))

theorem flag_pending {ops : List PendOp} {r : GRef} (h : ∃ o ∈ ops, o.grp = r ∧ o.flag < 12) :
    (ops.any fun o => o.grp == r && decide (o.flag < 12)) = true := by
  obtain ⟨o, ho, hg, hf⟩ := h
  exact List.any_eq_true.mpr ⟨o, ho, Bool.and_eq_true_iff.mpr ⟨beq_iff_eq.mpr hg, decide_eq_true hf⟩⟩

/-- Settles O24: REGION by its first refused range, SPAWN by what the core and the workgroup have free, a commit by the split that
reserved, ROLE by the branches of R139. -/
theorem regionSpawnAndRole : Obligations.RegionSpawnAndRole := by
  unfold Obligations.RegionSpawnAndRole
  refine ⟨fun s g p a1 n1 a2 n2 sm rcp h => ⟨fun legal inside hrec => ?opens, region_in_recipe h a1 n1 a2 n2 sm rcp,
      fun k r hrec hk hr before => ?refused⟩,
    fun s g p d a off h hu hc => ⟨fun ctx n hctx hn room => ?reserves, fun hno => wordResult_setsS h (spawn_refused h d a off hu hc hno)⟩,
    fun s g p d a off h hu hc => spawn_waits h d a off hu hc,
    fun s g x p hx => ?commit,
    fun s g p d a b h => ⟨role_privileged h d a b, fun hp hu hc => ?role⟩⟩
  case opens =>
    have accepted : (liveRanges a1 n1 a2 n2).find? g.refuses = none :=
      List.find?_eq_none.mpr fun r hr => Bool.eq_false_iff.mp ((g.refuses_eq_false r).mpr ⟨legal r hr, inside r hr⟩)
    obtain ⟨rc, hrc, he⟩ := region_opens h a1 n1 a2 n2 sm rcp hrec accepted
    obtain ⟨g', frame, own, others, split⟩ := openRegion_spec h (.region a1 n1 a2 n2 sm rcp) rc
    exact ⟨_, g', _, rc, he, frame, own, split, others, rfl, hrc.entry, hrc.live, hrc.smask, hrc.recipe, hrc.exec, hrc.depth, hrc.elect⟩
  case refused =>
    exact region_refused h a1 n1 a2 n2 sm rcp hrec (find?_eq_getElem? hk ((g.refuses_iff r).mpr hr) fun j q hj hq =>
      (g.refuses_eq_false q).mpr (before j q hj hq))
  case reserves =>
    obtain ⟨x, hx, he⟩ := spawn_reserves h d a off hu hc hctx hn room
    have free : s.group? x.ref = none := by rw [hx.ref]; exact group?_freeGctx hctx
    obtain ⟨frame, own, joined, others⟩ := addSpawned_spec h (.spawn d a off) d.toNat n free
    rw [hx.ref] at joined others
    exact ⟨_, _, x, he, frame, own, rfl, fun r => getS_setS g d.toNat r _, split?_updSplit_same _ (fun _ _ => rfl) h.split', joined, others,
      hx.status, hx.cx, hx.kernel, hx.wg, hx.gidx, hx.allot, hx.cls, hx.ownCls, hx.priv, hx.spawner, hx.splits, hx.words, hx.lanes⟩
  case commit =>
    obtain ⟨x', hx', hs⟩ := commit_status g p hx
    exact ⟨x', hx', fun hr hp => hs.trans (Group.starts_status_of_reserved hr hp), fun hn => hs.trans (Group.starts_status_of_not hn)⟩
  case role =>
    have e := exec_role h d a b hp hu hc
    dsimp only at e ⊢
    refine ⟨fun bad => by rw [e, if_pos bad], fun good busy => by rw [e, if_neg good, if_pos (flag_pending busy)], fun good idle => ?_⟩
    rw [if_neg good, no_flag_pending idle, if_neg Bool.false_ne_true] at e
    refine ⟨fun many => ?notSole, fun sole few => ?noRoom, fun sole room => ?changes⟩
    case notSole => exact roleReports_result h d a b 2 (by rw [e, if_pos many])
    case noRoom => exact roleReports_result h d a b 1 (by rw [e, if_neg (Nat.not_lt.mpr sole), if_pos few])
    case changes =>
      rw [if_neg (Nat.not_lt.mpr sole), if_neg (Nat.not_lt.mpr room)] at e
      obtain ⟨g', only, record, split, words, lanes⟩ := roleChanges_result h d a (g.getS b.toNat)
      refine ⟨_, g', e, only, record, ?_, words, lanes⟩
      rw [split, Group.getSPair, getS_setS, getS_setS]
      rfl

end Sys2Proof.Machine
end
